-- ==== Sys2Proof/Word.lean ====
section
/-! DEFINITION. The word types of the model (spec/00: R13, R14). -/

namespace Sys2Proof

abbrev Byte := BitVec 8
abbrev Word16 := BitVec 16
abbrev Word32 := BitVec 32
abbrev Word64 := BitVec 64

/-- A register number k0–k31 of a kettle core (spec/00: R11). -/
abbrev KReg := BitVec 5

end Sys2Proof
end

