-- ==== Sys2Proof/Syntax.lean ====
section
/-! DEFINITION. The instructions of the Renven Tilevo N8: one constructor for each row of spec/opcode_table.json.
Element operations carry the fields of the 64-bit operation word (spec/03: R64), kettle instructions the fields of
their 32-bit word (spec/09: R214), and the steps that no word encodes the names of what they act on. -/

namespace Sys2Proof

/-- The fields of an operation word below its OPCODE (R64, Table 3.1). -/
structure OpWord where
  /-- [55:52] per the mod class (R67) -/
  mod : BitVec 4
  /-- [51:50] format record f0-f3 -/
  fmt : BitVec 2
  /-- [49] saturate -/
  sat : Bool
  /-- [48] urgency (R58) -/
  urg : Bool
  /-- [47] the slot is guarded -/
  gen : Bool
  /-- [46] guard sense: false holds on a 1, true on a 0 -/
  gsense : Bool
  /-- [45:42] guard predicate -/
  gidx : BitVec 4
  /-- [41:40] predicate update: 0 none, 1 set, 2 clear, 3 toggle -/
  pact : BitVec 2
  /-- [39:36] predicate updated -/
  pidx : BitVec 4
  /-- [35:31] source of operand a (Table 3.2) -/
  sa : BitVec 5
  /-- [30:26] source of operand b -/
  sb : BitVec 5
  /-- [25:21] source of operand c -/
  sc : BitVec 5
  /-- [20:19] tag action -/
  taga : BitVec 2
  /-- [18:14] destination-table entry -/
  dest : BitVec 5
  /-- [13:0] per the opcode group (Table 3.5) -/
  aux : BitVec 14
  deriving DecidableEq, Repr

/-- The name of a region: partition and handle (R236). -/
structure Rgn where
  part : Nat
  handle : Nat
  deriving DecidableEq, Repr

/-- The name of an element of a region: partition, handle, index in the region's element list. -/
structure Loc where
  part : Nat
  handle : Nat
  elem : Nat
  deriving DecidableEq, Repr

/-- Every operation and event of spec/opcode_table.json. -/
inductive Instr where
  /-- STEER (R96): Sends the data operand to the DEST entry or the DF entry according to the control operand; a poisoned control
  sends it poisoned to both. -/
  | opSteer (w : OpWord)
  /-- SWITCH (R97): Sends the data operand to entry DEST plus the selector value. -/
  | opSwitch (w : OpWord)
  /-- MERGE (R98): Forwards one operand, each forming a candidate on its own, under out_tag of its own tag. -/
  | opMerge (w : OpWord)
  /-- CMERGE (R99): Forwards the data side chosen by the control operand; a poisoned control emits at once and places orphan
  marks. -/
  | opCmerge (w : OpWord)
  /-- CTXNEW (R100): Allocates the next instance of a body in rotation and emits the data under the new tag and the caller's tag
  on LINK. -/
  | opCtxnew (w : OpWord)
  /-- RETAG (R103): Forwards a under a tag whose iteration (.iter) or whole value (.full) is taken from b. -/
  | opRetag (w : OpWord)
  /-- NEXTIT (R102): Forwards a with its iteration advanced by STEP. -/
  | opNextit (w : OpWord)
  /-- ITDONE (R104): Sends one retire count for its tag to the body's home element and emits nothing. -/
  | opItdone (w : OpWord)
  /-- CTXEND (R101): Returns the result under the caller's link tag and sends a free of its instance to the home element. -/
  | opCtxend (w : OpWord)
  /-- EOS (R107): Consumes its trigger and emits one EOS token on DEST. -/
  | opEos (w : OpWord)
  /-- CNT (R108): Counts firings in slot state and emits the count when it reaches the bound. -/
  | opCnt (w : OpWord)
  /-- CONST (R106): Emits the slot constant, fitted to its record's format, on each trigger. -/
  | opConst (w : OpWord)
  /-- SINK (R109): Consumes every token, counts data tokens in slot state, and holds EOS after its EOS set. -/
  | opSink (w : OpWord)
  /-- SORT2 (R113): Appends its data token as a record to sort buffer T or F through the port, and acks on completion. -/
  | opSort2 (w : OpWord)
  /-- PNOP (R110): Forwards a unchanged; exists for its guard and predicate update. -/
  | opPnop (w : OpWord)
  /-- TAGOF (R105): Emits its own tag as an INT32. -/
  | opTagof (w : OpWord)
  /-- TRAP (R112): Meets SOFTWARE_TRAP at issue and stops the region, leaving its operands in place. -/
  | opTrap (w : OpWord)
  /-- BRK (R112): Meets BREAK at issue while the break enable is set; otherwise acts as a pnop. -/
  | opBrk (w : OpWord)
  /-- NOP (R111): Consumes any operand set it forms and has no effect apart from its guard. -/
  | opNop (w : OpWord)
  /-- EOS_SET_FIRE (R92): A slot's EOS set fires: it clears its EOS flags and heads and emits EOS on every entry the opcode
  sends to. -/
  | evEosSetFire
  /-- TRUNC_DISCARD (R93): Under TRUNC, a candidate mixing EOS and data heads consumes its data heads and emits nothing. -/
  | evTruncDiscard
  /-- ADD (R122): Lane by lane a + b, rounded once or wrapped or saturated. -/
  | opAdd (w : OpWord)
  /-- SUB (R122): Lane by lane a − b. -/
  | opSub (w : OpWord)
  /-- MUL (R122): Lane by lane a × b, or the high half for integers with HI. -/
  | opMul (w : OpWord)
  /-- MAD (R122): Lane by lane fused a × b + c with one rounding. -/
  | opMad (w : OpWord)
  /-- MIN (R124): Lane by lane minimum in number or .nan form. -/
  | opMin (w : OpWord)
  /-- MAX (R124): Lane by lane maximum in number or .nan form. -/
  | opMax (w : OpWord)
  /-- ABS (R125): Clears the float sign bit, or takes the integer absolute value. -/
  | opAbs (w : OpWord)
  /-- NEG (R125): Inverts the float sign bit, or negates the integer. -/
  | opNeg (w : OpWord)
  /-- CMP (R126): Yields an all-ones or zero mask per lane for the compare condition. -/
  | opCmp (w : OpWord)
  /-- SEL (R127): Selects a or b per lane by the control. -/
  | opSel (w : OpWord)
  /-- CLAMP (R128): Returns min(max(a, lo), hi) per lane. -/
  | opClamp (w : OpWord)
  /-- DIV (R123): Lane by lane quotient or integer remainder; division by zero returns all ones and DIVZ. -/
  | opDiv (w : OpWord)
  /-- LDEXP (R132): Returns a × 2^b rounded once. -/
  | opLdexp (w : OpWord)
  /-- FREXP (R133): Returns the mantissa (.m) or exponent (.e) of a. -/
  | opFrexp (w : OpWord)
  /-- DOT (R134): Sums all lane products of a and b plus c exactly and rounds once. -/
  | opDot (w : OpWord)
  /-- AND (R129): Bitwise and per lane. -/
  | opAnd (w : OpWord)
  /-- OR (R129): Bitwise or per lane. -/
  | opOr (w : OpWord)
  /-- XOR (R129): Bitwise exclusive or per lane. -/
  | opXor (w : OpWord)
  /-- NOT (R129): Bitwise not per lane. -/
  | opNot (w : OpWord)
  /-- SHL (R130): Shifts each lane left, filling with zeros. -/
  | opShl (w : OpWord)
  /-- SHR (R130): Shifts each lane right, filling with zeros. -/
  | opShr (w : OpWord)
  /-- SRA (R130): Shifts each lane right, copying the sign bit. -/
  | opSra (w : OpWord)
  /-- POPC (R131): Counts the 1 bits of each lane. -/
  | opPopc (w : OpWord)
  /-- CLZ (R131): Counts the leading 0 bits of each lane. -/
  | opClz (w : OpWord)
  /-- CVT (R135): Converts lane by lane from the source token's format to the record's format. -/
  | opCvt (w : OpWord)
  /-- EXPAND (R136): Widens INT4, UINT4 or FP6 codes exactly to FP8. -/
  | opExpand (w : OpWord)
  /-- PACK (R137): Converts two vectors of width 2w into one vector of width w. -/
  | opPack (w : OpWord)
  /-- UNPACK (R138): Converts one half of a vector into a vector of twice the width. -/
  | opUnpack (w : OpWord)
  /-- SHUF (R139): Rearranges lanes by index, rotation, xor, reversal or interleave. -/
  | opShuf (w : OpWord)
  /-- BCAST (R140): Writes one scalar or lane value into every lane. -/
  | opBcast (w : OpWord)
  /-- IOTA (R141): Sets each lane to start + i × STEP. -/
  | opIota (w : OpWord)
  /-- RAND (R146): Emits counter-based random words per lane, raw or as a unit float. -/
  | opRand (w : OpWord)
  /-- RSUM (R142): Reduces a vector to its exact sum rounded once. -/
  | opRsum (w : OpWord)
  /-- RMAX (R143): Reduces a vector to the maximum of its lanes. -/
  | opRmax (w : OpWord)
  /-- RMIN (R143): Reduces a vector to the minimum of its lanes. -/
  | opRmin (w : OpWord)
  /-- RSUM_M (R144): Adds 2 or 3 vectors lane by lane over valid contributors, rescaled by MODE. -/
  | opRsumM (w : OpWord)
  /-- MMA (R151): Adds A × B into an accumulator bank by grouped exact accumulation. -/
  | opMma (w : OpWord)
  /-- MMA_MX (R151): Adds an MXFP4 A × transposed B into an accumulator bank. -/
  | opMmaMx (w : OpWord)
  /-- MMA_TB (R151): Adds A × transposed B into an accumulator bank. -/
  | opMmaTb (w : OpWord)
  /-- ACCZ (R155): Clears an accumulator bank and emits a done token. -/
  | opAccz (w : OpWord)
  /-- ACCADD (R156): Adds a 32 × 32 tile into an accumulator bank. -/
  | opAccadd (w : OpWord)
  /-- ACCREL (R157): Counts contributions and releases and clears the bank when the count reaches N. -/
  | opAccrel (w : OpWord)
  /-- TADD (R160): Adds tiles cell by cell. -/
  | opTadd (w : OpWord)
  /-- TSUB (R160): Subtracts tiles cell by cell. -/
  | opTsub (w : OpWord)
  /-- TMUL (R160): Multiplies tiles cell by cell. -/
  | opTmul (w : OpWord)
  /-- TMAX (R160): Takes the cell-by-cell maximum of tiles. -/
  | opTmax (w : OpWord)
  /-- TMIN (R160): Takes the cell-by-cell minimum of tiles. -/
  | opTmin (w : OpWord)
  /-- TTR (R161): Transposes a tile, copying bits unchanged. -/
  | opTtr (w : OpWord)
  /-- TCVT (R162): Converts each tile cell to the record's format, MX included. -/
  | opTcvt (w : OpWord)
  /-- EXP (R166): Evaluates e^x per lane, correctly rounded or faithful. -/
  | opExp (w : OpWord)
  /-- EXP2 (R166): Evaluates 2^x per lane. -/
  | opExp2 (w : OpWord)
  /-- LOG (R166): Evaluates ln x per lane. -/
  | opLog (w : OpWord)
  /-- LOG2 (R166): Evaluates log2 x per lane. -/
  | opLog2 (w : OpWord)
  /-- LOG1P (R166): Evaluates ln(1 + x) per lane. -/
  | opLog1p (w : OpWord)
  /-- EXPM1 (R166): Evaluates e^x − 1 per lane. -/
  | opExpm1 (w : OpWord)
  /-- SIN (R166): Evaluates sin x per lane. -/
  | opSin (w : OpWord)
  /-- COS (R166): Evaluates cos x per lane. -/
  | opCos (w : OpWord)
  /-- SINPI (R166): Evaluates sin(πx) per lane. -/
  | opSinpi (w : OpWord)
  /-- COSPI (R166): Evaluates cos(πx) per lane. -/
  | opCospi (w : OpWord)
  /-- TANH (R166): Evaluates tanh x per lane. -/
  | opTanh (w : OpWord)
  /-- LOGISTIC (R166): Evaluates 1/(1 + e^−x) per lane. -/
  | opLogistic (w : OpWord)
  /-- ERF (R166): Evaluates erf x per lane. -/
  | opErf (w : OpWord)
  /-- GELU (R166): Evaluates gelu x per lane. -/
  | opGelu (w : OpWord)
  /-- RSQRT (R166): Evaluates 1/√x per lane. -/
  | opRsqrt (w : OpWord)
  /-- SQRT (R166): Evaluates √x per lane. -/
  | opSqrt (w : OpWord)
  /-- RCP (R166): Evaluates 1/x per lane. -/
  | opRcp (w : OpWord)
  /-- LD (R192): Port load through a layout record at the given or generated coordinates. -/
  | opLd (w : OpWord)
  /-- LD_LOC (R193): Loads from the element's resident area at an offset, plainly or as butterfly legs. -/
  | opLdLoc (w : OpWord)
  /-- LD_REC (R195): Reads one sort2 record and rebuilds its token. -/
  | opLdRec (w : OpWord)
  /-- ST (R192): Port store of the valid cells of b through a layout record. -/
  | opSt (w : OpWord)
  /-- ST_LOC (R193): Stores into the element's resident area at an offset. -/
  | opStLoc (w : OpWord)
  /-- LDG (R194): Gathers tile rows by an index vector. -/
  | opLdg (w : OpWord)
  /-- STG (R194): Scatters tile rows by an index vector. -/
  | opStg (w : OpWord)
  /-- AGEN (R184): Loads a loop-nest program into a stream's unit and resets its induction variables. -/
  | opAgen (w : OpWord)
  /-- SBAR (R189): Holds the named streams until earlier accesses are performed at its scope, then acks. -/
  | opSbar (w : OpWord)
  /-- COPY (R201): Copies a box between two layout records, crediting a gauge per piece. -/
  | opCopy (w : OpWord)
  /-- RED (R199): Combines a vector or tile into memory element by element at the owning port. -/
  | opRed (w : OpWord)
  /-- RED_M (R200): Accumulates mask-aware sums and counts, or finalises and clears them. -/
  | opRedM (w : OpWord)
  /-- AADD (R197): Atomic add returning the old value. -/
  | opAadd (w : OpWord)
  /-- AMIN (R197): Atomic minimum returning the old value. -/
  | opAmin (w : OpWord)
  /-- AMAX (R197): Atomic maximum returning the old value. -/
  | opAmax (w : OpWord)
  /-- AAND (R197): Atomic bitwise and returning the old value. -/
  | opAand (w : OpWord)
  /-- AOR (R197): Atomic bitwise or returning the old value. -/
  | opAor (w : OpWord)
  /-- AXOR (R197): Atomic bitwise xor returning the old value. -/
  | opAxor (w : OpWord)
  /-- ASWP (R197): Atomic swap returning the old value. -/
  | opAswp (w : OpWord)
  /-- ACAS (R197): Atomic compare-and-swap returning the old value and NOMATCH on failure. -/
  | opAcas (w : OpWord)
  /-- AINC_B (R197): Atomic bounded increment returning the old value, FULL at the bound. -/
  | opAincB (w : OpWord)
  /-- GSET (R205): Sets a gauge's TARGET, and with .clr zeroes COUNT without stepping. -/
  | opGset (w : OpWord)
  /-- GADD (R205): Adds to a gauge's COUNT and steps it. -/
  | opGadd (w : OpWord)
  /-- GWAIT (R205): Fires once the gauge generation has reached a, emitting b or a. -/
  | opGwait (w : OpWord)
  /-- PSIG (R206): Sends signal SIG of its launch to the scheduler once per launch. -/
  | opPsig (w : OpWord)
  /-- PWAIT (R207): Holds its data until the named predecessor launch is done or aborted. -/
  | opPwait (w : OpWord)
  /-- PWAIT_FORWARD (R208): A waiting pwait forwards, poisoned if the predecessor aborted, once the launch table entry allows. -/
  | evPwaitForward (l : Loc) (n : Nat)
  /-- FILT (R202): Keeps the tile rows whose column-0 value satisfies the condition. -/
  | opFilt (w : OpWord)
  /-- CMPCT (R202): Keeps the tile rows whose mask lane is non-zero. -/
  | opCmpct (w : OpWord)
  /-- TOKEN_ARRIVAL (R53): An operand arriving on a MATCH-bound channel is placed in the store or frame, or refused and offered
  again. -/
  | evTokenArrival (l : Loc) (ch : Nat)
  /-- HEAD_ARRIVAL (R55): An operand on a HEAD-bound channel joins the tail of its FIFO. -/
  | evHeadArrival (l : Loc) (ch : Nat)
  /-- EOS_ARRIVAL (R91): An EOS on a MATCH-bound channel sets the receive entry's EOS flag. -/
  | evEosArrival (l : Loc) (ch : Nat)
  /-- SPILL_FETCH_DONE (R53): A spilled payload of a complete set returns to a pool buffer, making the candidate eligible. -/
  | evSpillFetchDone (l : Loc) (n : Nat)
  /-- FIRING_COMMIT (R60): A firing commits: writes state, accumulators and scratchpad, raises flags and hands tokens to
  injection. -/
  | evFiringCommit (l : Loc)
  /-- TOKEN_INJECT (R45): An element or inj queue sends a waiting token's beats once earlier tokens of its channel have left. -/
  | evTokenInject (l : Loc) (ch : Nat)
  /-- WHEEL_SLOT (R77): Each clk a link output's wheel advances and sends at most one beat chosen by the switch word. -/
  | evWheelSlot (r : Rgn) (x : Nat) (y : Nat) (o : Nat)
  /-- ACKNOWLEDGEMENT (R79): An acknowledgement sideband hop returns quota along a channel's reverse route. -/
  | evAcknowledgement (r : Rgn) (ch : Nat) (n : Nat)
  /-- WINDOW_MESSAGE (R94): The home element applies an itdone count or a free received from another element. -/
  | evWindowMessage (r : Rgn) (n : Nat)
  /-- WINDOW_ADVANCE (R94): An element updates its copy of an instance's oldest live iteration from the home's broadcast. -/
  | evWindowAdvance (r : Rgn) (n : Nat)
  /-- FREE_APPLY (R255): An element applies a free, discarding resident operands of the instance and acknowledging. -/
  | evFreeApply (r : Rgn) (n : Nat)
  /-- FREE_COMPLETE (R255): A free becomes complete once every element has acknowledged it. -/
  | evFreeComplete (r : Rgn) (b : Nat) (i : Nat)
  /-- PORT_ACCESS_PERFORM (R187): A port performs an access in stream order once earlier accesses of its stream are performed. -/
  | evPortAccessPerform (l : Loc) (n : Nat) (k : Nat)
  /-- PAGE_WALK (R385): A translation walk completes with a leaf, or ends with TRANSLATION or PERMISSION. -/
  | evPageWalk (l : Loc) (n : Nat)
  /-- COMPLETION_TOKEN (R190): When an access completes its completion token leaves under out_tag of the firing's tag. -/
  | evCompletionToken (l : Loc) (n : Nat)
  /-- OWNER_RMW (R198): The owning port performs a forwarded read-modify-write once its comparator releases the line. -/
  | evOwnerRmw (l : Loc) (n : Nat) (k : Nat)
  /-- COPY_PIECE_PERFORMED (R201): A copy piece performed at its scope adds its byte count to the named gauge. -/
  | evCopyPiecePerformed (l : Loc) (n : Nat) (b : Nat)
  /-- SEQUENCER_ORDER (R293): The sequencer orders a held access whose SEQO equals the frontier and advances the frontier. -/
  | evSequencerOrder (l : Loc) (n : Nat)
  /-- FRONTIER_PASS (R295): The frontier passes untaken numbers once every covering access slot's EOS has left. -/
  | evFrontierPass (r : Rgn)
  /-- STOP_BROADCAST (R328): The controller broadcasts a stop in the clk after the first stopping cause, and elements cease
  issuing. -/
  | evStopBroadcast (r : Rgn)
  /-- CUT_COMPLETE (R329): Once no firing is uncommitted and every token and access is settled, the region becomes STOPPED. -/
  | evCutComplete (r : Rgn)
  /-- DOLDRUMS_FIRE (R267): The idle counter reaches 2^DLIM with tokens resident and nothing outstanding, stopping the region. -/
  | evDoldrumsFire (r : Rgn)
  /-- POUR_END (R270): When every sink holds EOS and no store is unacknowledged, resident tokens are discarded and the pour
  ends. -/
  | evPourEnd (r : Rgn)
  /-- POUR_START (R367): The next pour is switched in at wheel index 0, applying any pending shrink, and POUR advances. -/
  | evPourStart (r : Rgn)
  /-- ILOAD_COMPLETE (R240): The Infuser finishes copying, checking and configuring; the region becomes ARMED or stays UNARMED. -/
  | evIloadComplete (r : Rgn)
  /-- SAVE_COMPLETE (R247): When the last saved byte is performed the region becomes SAVED and its elements are freed. -/
  | evSaveComplete (r : Rgn)
  /-- RESTORE_COMPLETE (R379): A restore finishes its checks and writes, returning the region to its saved state. -/
  | evRestoreComplete (r : Rgn)
  /-- FLIT_RECEIVE (R314): A lane group receiver accepts, discards or NAKs a flit and passes resolved tokens on. -/
  | evFlitReceive (g : Nat) (f : Nat) (err : Bool)
  /-- NAK (R314): A sender receiving a NAK resends reliable flits from the NAKed FSEQ. -/
  | evNak (g : Nat)
  /-- LINK_IDLE_FLIT (R308): After 64 clk with nothing to send a lane group sends a control flit with its last FSEQ. -/
  | evLinkIdleFlit (g : Nat)
  /-- BIND (R309): The far side's BIND control flit arrives and the lane group begins carrying traffic, or is lost on
  disagreement. -/
  | evBind (g : Nat)
  /-- LANE_GROUP_LOST (R323): A lane group fails retraining; its binding moves to the spare or the region stops. -/
  | evLaneGroupLost (g : Nat)
  /-- LINK_TRAINING (R324): A port trains and settles on the highest shared protocol version, or stays down. -/
  | evLinkTraining (g : Nat) (major : Nat) (minor : Nat)
  /-- REMOTE_REQUEST (R319): A target module performs an arriving remote request and sends its reply. -/
  | evRemoteRequest (g : Nat)
  /-- REMOTE_REPLY (R319): A remote reply arrives and the source port emits it as the completion token. -/
  | evRemoteReply (g : Nat)
  /-- REMOTE_TRANSLATE_REQUEST (R321): The target's translation service walks its table and replies with page, permissions and
  epoch. -/
  | evRemoteTranslateRequest (g : Nat)
  /-- REMOTE_TRANSLATE_REPLY (R321): A translation reply fills the source port's cache or faults the access. -/
  | evRemoteTranslateReply (g : Nat)
  /-- INV (R322): An INV flit arrives and the source drops matching translations from every port. -/
  | evInv (g : Nat)
  /-- INVACK_SEND (R322): Once every request using the page has its reply, the source returns INVACK. -/
  | evInvackSend (g : Nat)
  /-- INVACK_RECEIVE (R322): The target receives INVACK and may reuse the page once all have arrived. -/
  | evInvackReceive (g : Nat)
  /-- REMOTE_INVALIDATE_TIMEOUT (R322): No INVACK within 2^17 clk stops the source region. -/
  | evRemoteInvalidateTimeout (g : Nat)
  /-- EPOCH_ADVANCE (R322): At 2^18 clk the target advances its epoch for the lane group and reuses the page. -/
  | evEpochAdvance (g : Nat)
  /-- UNDEFINED_ENCODING (R216): Fetching an undefined kettle encoding raises ILLEGAL_INSN before any effect. -/
  | evUndefinedEncoding (w : Word32)
  /-- K_ADD (R217): kd := ka + kb. -/
  | kAdd (d : KReg) (a : KReg) (b : KReg)
  /-- K_SUB (R217): kd := ka − kb. -/
  | kSub (d : KReg) (a : KReg) (b : KReg)
  /-- K_AND (R217): kd := ka and kb. -/
  | kAnd (d : KReg) (a : KReg) (b : KReg)
  /-- K_OR (R217): kd := ka or kb. -/
  | kOr (d : KReg) (a : KReg) (b : KReg)
  /-- K_XOR (R217): kd := ka xor kb. -/
  | kXor (d : KReg) (a : KReg) (b : KReg)
  /-- K_SHL (R217): kd := ka shifted left by kb mod 64. -/
  | kShl (d : KReg) (a : KReg) (b : KReg)
  /-- K_SHR (R217): kd := ka logically shifted right by kb mod 64. -/
  | kShr (d : KReg) (a : KReg) (b : KReg)
  /-- K_SRA (R217): kd := ka arithmetically shifted right by kb mod 64. -/
  | kSra (d : KReg) (a : KReg) (b : KReg)
  /-- SLT (R217): kd := 1 if ka < kb signed. -/
  | kSlt (d : KReg) (a : KReg) (b : KReg)
  /-- SLTU (R217): kd := 1 if ka < kb unsigned. -/
  | kSltu (d : KReg) (a : KReg) (b : KReg)
  /-- K_MUL (R217): kd := low 64 bits of ka × kb. -/
  | kMul (d : KReg) (a : KReg) (b : KReg)
  /-- MULH (R217): kd := high 64 bits of the signed product. -/
  | kMulh (d : KReg) (a : KReg) (b : KReg)
  /-- MULHU (R217): kd := high 64 bits of the unsigned product. -/
  | kMulhu (d : KReg) (a : KReg) (b : KReg)
  /-- K_DIV (R217): kd := signed quotient truncated toward zero. -/
  | kDiv (d : KReg) (a : KReg) (b : KReg)
  /-- DIVU (R217): kd := unsigned quotient. -/
  | kDivu (d : KReg) (a : KReg) (b : KReg)
  /-- REM (R217): kd := signed remainder with the sign of ka. -/
  | kRem (d : KReg) (a : KReg) (b : KReg)
  /-- REMU (R217): kd := unsigned remainder. -/
  | kRemu (d : KReg) (a : KReg) (b : KReg)
  /-- ADDI (R218): kd := ka + sign-extended imm16. -/
  | kAddi (d : KReg) (a : KReg) (i : BitVec 16)
  /-- ANDI (R218): kd := ka and zero-extended imm16. -/
  | kAndi (d : KReg) (a : KReg) (i : BitVec 16)
  /-- ORI (R218): kd := ka or zero-extended imm16. -/
  | kOri (d : KReg) (a : KReg) (i : BitVec 16)
  /-- XORI (R218): kd := ka xor zero-extended imm16. -/
  | kXori (d : KReg) (a : KReg) (i : BitVec 16)
  /-- SHLI (R218): kd := ka shifted left by imm16[5:0]. -/
  | kShli (d : KReg) (a : KReg) (i : BitVec 6)
  /-- SHRI (R218): kd := ka logically shifted right by imm16[5:0]. -/
  | kShri (d : KReg) (a : KReg) (i : BitVec 6)
  /-- SRAI (R218): kd := ka arithmetically shifted right by imm16[5:0]. -/
  | kSrai (d : KReg) (a : KReg) (i : BitVec 6)
  /-- SLTI (R218): kd := 1 if ka < sign-extended imm16. -/
  | kSlti (d : KReg) (a : KReg) (i : BitVec 16)
  /-- LUI (R218): kd := sign-extended imm16 shifted left 16. -/
  | kLui (d : KReg) (i : BitVec 16)
  /-- K_LD (R220): Loads 8 bytes from ka + imm16. -/
  | kLd (d : KReg) (a : KReg) (i : BitVec 16)
  /-- LW (R220): Loads 4 bytes sign-extended. -/
  | kLw (d : KReg) (a : KReg) (i : BitVec 16)
  /-- LWU (R220): Loads 4 bytes zero-extended. -/
  | kLwu (d : KReg) (a : KReg) (i : BitVec 16)
  /-- LBU (R220): Loads 1 byte zero-extended. -/
  | kLbu (d : KReg) (a : KReg) (i : BitVec 16)
  /-- SD (R220): Stores 8 bytes of the kd-field register. -/
  | kSd (r : KReg) (a : KReg) (i : BitVec 16)
  /-- SW (R220): Stores 4 bytes of the kd-field register. -/
  | kSw (r : KReg) (a : KReg) (i : BitVec 16)
  /-- SB (R220): Stores 1 byte of the kd-field register. -/
  | kSb (r : KReg) (a : KReg) (i : BitVec 16)
  /-- LD_ACQ (R222): 64-bit acquire load from ka at .mod or .sys. -/
  | kLdAcq (d : KReg) (a : KReg) (c : Bool)
  /-- LW_ACQ (R222): 32-bit zero-extended acquire load from ka. -/
  | kLwAcq (d : KReg) (a : KReg) (c : Bool)
  /-- SD_REL (R222): 64-bit release store of kb to ka. -/
  | kSdRel (a : KReg) (b : KReg) (c : Bool)
  /-- SW_REL (R222): 32-bit release store of kb to ka. -/
  | kSwRel (a : KReg) (b : KReg) (c : Bool)
  /-- AMO_ADD (R224): Atomic add at ka, returning the old value in kd. -/
  | kAmoAdd (d : KReg) (a : KReg) (b : KReg) (w : Bool) (o : BitVec 2) (c : Bool)
  /-- AMO_SWP (R224): Atomic swap at ka. -/
  | kAmoSwp (d : KReg) (a : KReg) (b : KReg) (w : Bool) (o : BitVec 2) (c : Bool)
  /-- AMO_CAS (R224): Atomic compare-and-swap at ka against the incoming kd. -/
  | kAmoCas (d : KReg) (a : KReg) (b : KReg) (w : Bool) (o : BitVec 2) (c : Bool)
  /-- AMO_AND (R224): Atomic and at ka. -/
  | kAmoAnd (d : KReg) (a : KReg) (b : KReg) (w : Bool) (o : BitVec 2) (c : Bool)
  /-- AMO_OR (R224): Atomic or at ka. -/
  | kAmoOr (d : KReg) (a : KReg) (b : KReg) (w : Bool) (o : BitVec 2) (c : Bool)
  /-- AMO_MIN (R224): Atomic minimum at ka, signed or unsigned. -/
  | kAmoMin (d : KReg) (a : KReg) (b : KReg) (w : Bool) (o : BitVec 2) (c : Bool) (u : Bool)
  /-- AMO_MAX (R224): Atomic maximum at ka, signed or unsigned. -/
  | kAmoMax (d : KReg) (a : KReg) (b : KReg) (w : Bool) (o : BitVec 2) (c : Bool) (u : Bool)
  /-- BEQ (R219): Branches when ka equals kb. -/
  | kBeq (a : KReg) (b : KReg) (o : BitVec 16)
  /-- BNE (R219): Branches when ka differs from kb. -/
  | kBne (a : KReg) (b : KReg) (o : BitVec 16)
  /-- BLT (R219): Branches when ka < kb signed. -/
  | kBlt (a : KReg) (b : KReg) (o : BitVec 16)
  /-- BGE (R219): Branches when ka ≥ kb signed. -/
  | kBge (a : KReg) (b : KReg) (o : BitVec 16)
  /-- BLTU (R219): Branches when ka < kb unsigned. -/
  | kBltu (a : KReg) (b : KReg) (o : BitVec 16)
  /-- BGEU (R219): Branches when ka ≥ kb unsigned. -/
  | kBgeu (a : KReg) (b : KReg) (o : BitVec 16)
  /-- J (R219): Jumps to its target. -/
  | kJ (o : BitVec 26)
  /-- JAL (R219): Sets k31 to pc + 4 and jumps. -/
  | kJal (o : BitVec 26)
  /-- JALR (R219): Sets kd to pc + 4 and jumps to ka + imm16. -/
  | kJalr (d : KReg) (a : KReg) (i : BitVec 16)
  /-- KSCRUB (R250): Reads, corrects and rewrites an HBM range and returns the corrected-chunk bitmap. -/
  | kKscrub (d : KReg) (a : KReg) (b : KReg)
  /-- FENCE (R223): Orders every earlier access and fabric instruction before later accesses at .mod or .sys. -/
  | kFence (c : Bool)
  /-- CSRR (R225): Reads a control and status register into kd as an acquire. -/
  | kCsrr (d : KReg) (c : BitVec 12)
  /-- CSRW (R225): Writes ka into a control and status register. -/
  | kCsrw (a : KReg) (c : BitVec 12)
  /-- CSRS (R225): Sets the bits of ka in a control and status register. -/
  | kCsrs (a : KReg) (c : BitVec 12)
  /-- CSRC (R225): Clears the bits of ka in a control and status register. -/
  | kCsrc (a : KReg) (c : BitVec 12)
  /-- KS_STATUS_WRITE (R230): A write to KS_STATUS updates IE, PIE and PPRV, and a runtime change of PPRV raises KETTLE_ACCESS. -/
  | evKsStatusWrite (v : Word64)
  /-- KS_EVENT_WRITE (R232): A W1C write to KS_EVENT clears REGION or TIMER, unless an event arrives in the same cycle. -/
  | evKsEventWrite (v : Word64)
  /-- KS_REVT_WRITE (R232): A W1C write clears handle bits in the writing core's copy of KS_REVT only. -/
  | evKsRevtWrite (v : Word64)
  /-- KS_MONA_WRITE (R233): A write to KS_MONA translates the address, arms the monitor on its line and clears MON. -/
  | evKsMonaWrite (v : Word64)
  /-- K_TRAP (R231): Completes and raises vector 3 with the immediate in KS_TVAL. -/
  | kTrap (i : BitVec 16)
  /-- TRET (R229): Restores PRV and IE from PPRV and PIE and returns to KS_EPC. -/
  | kTret
  /-- KWAIT (R234): Waits for the monitor, a selected event or the wait limit. -/
  | kKwait (d : KReg) (a : KReg)
  /-- KWAIT_WAKE (R234): A waiting kwait ends on monitor, event or limit and writes its reason bitmap. -/
  | evKwaitWake
  /-- ILOAD (R240): Hands an image to the Infuser for a placement and returns OK with LOAD set, or refuses. -/
  | kIload (d : KReg) (a : KReg) (b : KReg)
  /-- ARM (R240): Re-arms a DONE region for another launch without reloading. -/
  | kArm (d : KReg) (a : KReg)
  /-- ARM_OFF (R240): Frees a region's resources and discards its state. -/
  | kArmOff (d : KReg) (a : KReg)
  /-- POUR (R246): Stages a pour into the region's shadow configuration store. -/
  | kPour (d : KReg) (a : KReg) (b : KReg)
  /-- LAUNCH (R246): Sets the launch id, clears the flag summary and starts an ARMED region. -/
  | kLaunch (d : KReg) (a : KReg) (b : KReg)
  /-- INJ (R245): Sends one token built from a local token image on an inj channel. -/
  | kInj (d : KReg) (a : KReg) (b : KReg)
  /-- ARGW (R241): Writes a value into a slot constant of the region through the argument network. -/
  | kArgw (d : KReg) (a : KReg) (b : KReg)
  /-- RSTOP (R242): Broadcasts a stop to a running region and returns OK with CUTP set. -/
  | kRstop (d : KReg) (a : KReg)
  /-- RRESUME (R243): Continues a STOPPED region from its cut, replaying held accesses, optionally passing the stopping
  candidate. -/
  | kRresume (d : KReg) (a : KReg) (b : KReg)
  /-- RDRAIN (R244): Puts the region in DRAINING and queues one EOS on every inj channel not yet ended. -/
  | kRdrain (d : KReg) (a : KReg) (b : KReg)
  /-- RSAVE (R247): Starts writing a STOPPED region's state to a save area. -/
  | kRsave (d : KReg) (a : KReg) (b : KReg)
  /-- RRESTORE (R247): Starts restoring a SAVED region onto a placement. -/
  | kRrestore (d : KReg) (a : KReg) (b : KReg)
  /-- SHRINK (R246): Requests a smaller footprint at the next pour boundary, setting SHRP. -/
  | kShrink (d : KReg) (a : KReg) (b : KReg)
  /-- EVICT (R247): Stops a running region at a cut and then saves it. -/
  | kEvict (d : KReg) (a : KReg) (b : KReg)
  /-- FLTQ (R248): Moves the oldest queued fault record to local memory and returns its cause, or 0. -/
  | kFltq (d : KReg) (a : KReg) (b : KReg)
  /-- ALMW (R249): Appends a record to the partition's Almanac and returns its sequence number. -/
  | kAlmw (d : KReg) (b : KReg)
  /-- ALMANAC_HEAD_ADVANCE (R420): Once an Almanac record and all earlier ones are performed, the head advances with a release. -/
  | evAlmanacHeadAdvance (p : Nat)
  /-- GWAITK (R235): Waits on a region gauge until its generation is reached or the wait limit passes. -/
  | kGwaitk (d : KReg) (a : KReg) (b : KReg)
  /-- GWAITK_WAKE (R235): A waiting gwaitk ends and returns the gauge's GEN. -/
  | evGwaitkWake
  /-- TIMER (R232): KS_TIME reaching KS_TIMECMP sets the TIMER event. -/
  | evTimer
  /-- ASYNC_TRAP (R228): Between instructions, an enabled pending REGION or TIMER event enters vector 4 or 5. -/
  | evAsyncTrap
  /-- DISPATCH_ENTRY_NOTICE (R371): The scheduler notices a write to a dispatch entry's first line within 1 µs. -/
  | evDispatchEntryNotice (p : Nat) (e : Nat)
  /-- SCHEDULER_STEP (R373): The scheduler takes one action on the highest-priority entry with an action open. -/
  | evSchedulerStep (p : Nat)
  /-- GRACE_EXPIRE (R380): A victim's GRACE period ends without its shrink taking effect, and it is evicted or passed over. -/
  | evGraceExpire (p : Nat) (e : Nat)
  /-- ENTRY_DONE (R374): A region becoming DONE completes its entry, journals DONE, writes DONEG and releases the region. -/
  | evEntryDone (p : Nat) (e : Nat)
  /-- INVALIDATION_REQUEST (R387): The hardware takes a GO request from the invalidation block within 1 µs. -/
  | evInvalidationRequest (p : Nat)
  /-- INVALIDATION_COMPLETE (R387): Once no cache covers the range and its accesses are performed, GO clears and SEQ advances. -/
  | evInvalidationComplete (p : Nat)
  /-- HOST_APERTURE_WRITE (R389): A host posted write through BAR2 is translated and performed, or dropped and counted. -/
  | evHostApertureWrite (p : Nat) (off : Nat) (n : Nat) (data : Nat)
  /-- HOST_APERTURE_READ (R389): A host read through BAR2 returns data or completes with Completer Abort. -/
  | evHostApertureRead (p : Nat) (off : Nat) (n : Nat)
  /-- HOST_APERTURE_ATOMIC (R389): A PCIe AtomicOp through BAR2 runs at the owning port. -/
  | evHostApertureAtomic (p : Nat) (off : Nat) (n : Nat) (op : Nat) (x : Nat) (y : Nat)
  /-- MW_APBASE_WRITE (R389): A host write to MW_APBASE moves the aperture base. -/
  | evMwApbaseWrite (p : Nat) (off : Nat) (n : Nat) (data : Nat)
  /-- REGISTER_WRITE (R389): A host write to any other management window register is ignored. -/
  | evRegisterWrite (p : Nat) (off : Nat) (n : Nat) (data : Nat)
  /-- INGRESS_WRITE (R391): A posted write into an ingress window is performed and credited to its gauge, or dropped. -/
  | evIngressWrite (p : Nat) (off : Nat) (n : Nat) (data : Nat) (rq : Nat) (ro : Bool)
  /-- INGRESS_READ (R391): A BAR4 read follows the window checks and completes with Completer Abort on failure. -/
  | evIngressRead (p : Nat) (off : Nat) (n : Nat) (rq : Nat)
  /-- INGRESS_DESCRIPTOR_UPDATE (R390): The host port rereads an ingress descriptor within 1 µs of a write to it. -/
  | evIngressDescriptorUpdate (p : Nat) (win : Nat)
  /-- WEATHERVANE_UPDATE (R396): The hardware rereads a Weathervane block within 1 µs of a write. -/
  | evWeathervaneUpdate (p : Nat) (d : Nat)
  /-- TAP_COPY (R397): A tapped token's header reaching its router produces one trace record written to the ring, or dropped. -/
  | evTapCopy (p : Nat) (d : Nat)
  /-- PARTITION_RESET (R395): An FLR or firmware reset unarms the partition's regions, unbinds links and restarts its kettle
  cores. -/
  | evPartitionReset (p : Nat)
  /-- ATTESTATION_REQUEST (R418): Firmware answers a nonce request with a signed quote and clears the request byte. -/
  | evAttestationRequest (p : Nat)
  /-- POWER_UP (R416): The boot ROMs copy and verify the firmware image and start every kettle core at ENTRY. -/
  | evPowerUp
  /-- MODULE_RESET (R416): A module reset reboots the module as at power-up. -/
  | evModuleReset
  /-- POWER_OFF (R5): Power-off loses all HBM and SRAM state, the Almanac included. -/
  | evPowerOff
  /-- SUPPLY_DROOP (R415): A droop sensor sag makes the Squall governor stretch every clock of the die. -/
  | evSupplyDroop (d : Nat) (x : Nat)
  /-- SQUALL_RELEASE (R415): One microsecond after the sag ends the stretch is released. -/
  | evSquallRelease (d : Nat)
  /-- DIE_POWER_LIMIT (R414): A die reaching its power limit is slowed by clock stretching. -/
  | evDiePowerLimit (d : Nat) (x : Nat)
  /-- ISOBAR_RECOMPUTE (R409): Firmware recomputes each stack's ACTMAX and each die's power limit. -/
  | evIsobarRecompute (st : Nat) (x : Nat)
  /-- ISOBAR_RELEASE (R409): An activate held by the regulator proceeds once the window count has fallen. -/
  | evIsobarRelease (st : Nat)
  /-- REFRESH (R411): A bank at its postponement limit closes its row, refreshes and reopens it mid-burst. -/
  | evRefresh (st : Nat) (b : Nat)
  /-- UNBIND (R395): An UNBIND control flit from a partner whose partition is resetting arrives, and the lane group is treated
  as lost. -/
  | evUnbind (g : Nat)
  /-- FLIT_SEND (R307): A lane group finishes one flit time and sends its next header, payload, request or reply flit, keeping
  reliable flits in its replay buffer. -/
  | evFlitSend (g : Nat)
  deriving DecidableEq, Repr

end Sys2Proof
end

