-- ==== Sys2Proof/Decode.lean ====
section
/-! DEFINITION. The decoder and encoder of kettle instruction words (spec/09: R214 to R216, Tables 9.1 to 9.4) and of
operation words (spec/03: R64, R73, Table 3.6). -/

namespace Sys2Proof

/-- Why a word decodes to no instruction (R216, R74). -/
inductive Reject where
  /-- an op that Table 9.1 does not list -/
  | op
  /-- an fn value that its entry does not define -/
  | fn
  /-- a non-zero field that R214 or an entry requires to be 0 -/
  | field
  /-- an opcode that Table 3.6 does not assign -/
  | opcode
  /-- a MOD value of `ld` or `st` that names no variant (R176) -/
  | variant
  deriving DecidableEq, Repr

/-- The op field [31:26] (R214). -/
def kwOp (w : Word32) : BitVec 6 := w.extractLsb' 26 6
/-- The field [25:21]: kd, or the first register of a branch. -/
def kwD (w : Word32) : KReg := w.extractLsb' 21 5
/-- The field [20:16]: ka. -/
def kwA (w : Word32) : KReg := w.extractLsb' 16 5
/-- The field [15:11]: kb. -/
def kwB (w : Word32) : KReg := w.extractLsb' 11 5
/-- The fn field [10:0]. -/
def kwF (w : Word32) : BitVec 11 := w.extractLsb' 0 11
/-- imm16. -/
def kwI (w : Word32) : BitVec 16 := w.extractLsb' 0 16

/-- A word of form K. -/
def formK (op : BitVec 6) (d a b : KReg) (f : BitVec 11) : Word32 := op ++ d ++ a ++ b ++ f
/-- A word of form I (and B). -/
def formI (op : BitVec 6) (d a : KReg) (i : BitVec 16) : Word32 := op ++ d ++ a ++ i
/-- A word of form J. -/
def formJ (op : BitVec 6) (o : BitVec 26) : Word32 := op ++ o

/-- An instruction, unless a field that must be 0 is not. -/
def needZero (z : Bool) (i : Instr) : Except Reject Instr := if z then .ok i else .error .field

/-- Table 9.2: the ALU functions. -/
def decodeAlu (d a b : KReg) (f : BitVec 11) : Except Reject Instr :=
  match f.toNat with
  | 0 => .ok (.kAdd d a b)
  | 1 => .ok (.kSub d a b)
  | 2 => .ok (.kAnd d a b)
  | 3 => .ok (.kOr d a b)
  | 4 => .ok (.kXor d a b)
  | 5 => .ok (.kShl d a b)
  | 6 => .ok (.kShr d a b)
  | 7 => .ok (.kSra d a b)
  | 8 => .ok (.kSlt d a b)
  | 9 => .ok (.kSltu d a b)
  | 10 => .ok (.kMul d a b)
  | 11 => .ok (.kMulh d a b)
  | 12 => .ok (.kMulhu d a b)
  | 13 => .ok (.kDiv d a b)
  | 14 => .ok (.kDivu d a b)
  | 15 => .ok (.kRem d a b)
  | 16 => .ok (.kRemu d a b)
  | _ => .error .fn

/-- R222: the ordered forms. fn[0] selects load or store, fn[1] the size, fn[2] the scope. -/
def decodeOrdered (d a b : KReg) (f : BitVec 11) : Except Reject Instr :=
  let c := f.getLsbD 2
  if f.extractLsb' 3 8 ≠ 0 then .error .field
  else match (f.extractLsb' 0 2).toNat with
    | 0 => needZero (b == 0) (.kLdAcq d a c)
    | 2 => needZero (b == 0) (.kLwAcq d a c)
    | 1 => needZero (d == 0) (.kSdRel a b c)
    | _ => needZero (d == 0) (.kSwRel a b c)

/-- R224, Tables 9.3 and 9.4: the kettle atomics. -/
def decodeAmo (d a b : KReg) (f : BitVec 11) : Except Reject Instr :=
  let w := f.getLsbD 7
  let o := f.extractLsb' 5 2
  let s := f.getLsbD 4
  let u := f.getLsbD 3
  if f.extractLsb' 0 3 ≠ 0 then .error .field
  else match (f.extractLsb' 8 3).toNat with
    | 0 => needZero (!u) (.kAmoAdd d a b w o s)
    | 1 => needZero (!u) (.kAmoSwp d a b w o s)
    | 2 => needZero (!u) (.kAmoCas d a b w o s)
    | 3 => needZero (!u) (.kAmoAnd d a b w o s)
    | 4 => needZero (!u) (.kAmoOr d a b w o s)
    | 5 => .ok (.kAmoMin d a b w o s u)
    | 6 => .ok (.kAmoMax d a b w o s u)
    | _ => .error .fn

/-- R225: the CSR forms. imm16[15:12] selects the operation. -/
def decodeCsr (d a : KReg) (i : BitVec 16) : Except Reject Instr :=
  let c := i.extractLsb' 0 12
  match (i.extractLsb' 12 4).toNat with
  | 0 => needZero (a == 0) (.kCsrr d c)
  | 1 => needZero (d == 0) (.kCsrw a c)
  | 2 => needZero (d == 0) (.kCsrs a c)
  | 3 => needZero (d == 0) (.kCsrc a c)
  | _ => .error .fn

/-- Op 0x2F (R229, R234). -/
def decodeWait (d a b : KReg) (f : BitVec 11) : Except Reject Instr :=
  match f.toNat with
  | 0 => needZero (d == 0 && a == 0 && b == 0) .kTret
  | 1 => needZero (b == 0) (.kKwait d a)
  | _ => .error .fn

/-- Op 0x31 (R240). -/
def decodeArm (d a b : KReg) (f : BitVec 11) : Except Reject Instr :=
  match f.toNat with
  | 0 => needZero (b == 0) (.kArm d a)
  | 1 => needZero (b == 0) (.kArmOff d a)
  | _ => .error .fn

/-- A form K instruction whose one function is fn 0. -/
def onlyFn0 (f : BitVec 11) (r : Except Reject Instr) : Except Reject Instr := if f = 0 then r else .error .fn

/-- The instruction that a kettle word encodes (R214 to R216). -/
def decodeKettle (w : Word32) : Except Reject Instr :=
  let d := kwD w
  let a := kwA w
  let b := kwB w
  let f := kwF w
  let i := kwI w
  match (kwOp w).toNat with
  | 0x00 => decodeAlu d a b f
  | 0x01 => .ok (.kAddi d a i)
  | 0x02 => .ok (.kAndi d a i)
  | 0x03 => .ok (.kOri d a i)
  | 0x04 => .ok (.kXori d a i)
  | 0x05 => needZero (i.extractLsb' 6 10 == 0) (.kShli d a (i.extractLsb' 0 6))
  | 0x06 => needZero (i.extractLsb' 6 10 == 0) (.kShri d a (i.extractLsb' 0 6))
  | 0x07 => needZero (i.extractLsb' 6 10 == 0) (.kSrai d a (i.extractLsb' 0 6))
  | 0x08 => .ok (.kSlti d a i)
  | 0x09 => needZero (a == 0) (.kLui d i)
  | 0x10 => .ok (.kLd d a i)
  | 0x11 => .ok (.kLw d a i)
  | 0x12 => .ok (.kLwu d a i)
  | 0x13 => .ok (.kLbu d a i)
  | 0x14 => .ok (.kSd d a i)
  | 0x15 => .ok (.kSw d a i)
  | 0x16 => .ok (.kSb d a i)
  | 0x17 => decodeOrdered d a b f
  | 0x18 => decodeAmo d a b f
  | 0x20 => .ok (.kBeq d a i)
  | 0x21 => .ok (.kBne d a i)
  | 0x22 => .ok (.kBlt d a i)
  | 0x23 => .ok (.kBge d a i)
  | 0x24 => .ok (.kBltu d a i)
  | 0x25 => .ok (.kBgeu d a i)
  | 0x26 => .ok (.kJ (w.extractLsb' 0 26))
  | 0x27 => .ok (.kJal (w.extractLsb' 0 26))
  | 0x28 => .ok (.kJalr d a i)
  | 0x2A => onlyFn0 f (.ok (.kKscrub d a b))
  | 0x2C => if f.extractLsb' 1 10 ≠ 0 then .error .fn
            else needZero (d == 0 && a == 0 && b == 0) (.kFence (f.getLsbD 0))
  | 0x2D => decodeCsr d a i
  | 0x2E => needZero (d == 0 && a == 0) (.kTrap i)
  | 0x2F => decodeWait d a b f
  | 0x30 => onlyFn0 f (.ok (.kIload d a b))
  | 0x31 => decodeArm d a b f
  | 0x32 => onlyFn0 f (.ok (.kPour d a b))
  | 0x33 => onlyFn0 f (.ok (.kLaunch d a b))
  | 0x34 => onlyFn0 f (.ok (.kInj d a b))
  | 0x35 => onlyFn0 f (.ok (.kArgw d a b))
  | 0x36 => onlyFn0 f (needZero (b == 0) (.kRstop d a))
  | 0x37 => onlyFn0 f (.ok (.kRresume d a b))
  | 0x38 => onlyFn0 f (.ok (.kRdrain d a b))
  | 0x39 => onlyFn0 f (.ok (.kRsave d a b))
  | 0x3A => onlyFn0 f (.ok (.kRrestore d a b))
  | 0x3B => onlyFn0 f (.ok (.kShrink d a b))
  | 0x3C => onlyFn0 f (.ok (.kEvict d a b))
  | 0x3D => onlyFn0 f (.ok (.kFltq d a b))
  | 0x3E => onlyFn0 f (needZero (a == 0) (.kAlmw d b))
  | 0x3F => onlyFn0 f (.ok (.kGwaitk d a b))
  | _ => .error .op

/-- The fields of an operation word below the opcode (R64). -/
def opFields (w : Word64) : OpWord :=
  { mod := w.extractLsb' 52 4, fmt := w.extractLsb' 50 2, sat := w.getLsbD 49, urg := w.getLsbD 48, gen := w.getLsbD 47,
    gsense := w.getLsbD 46, gidx := w.extractLsb' 42 4, pact := w.extractLsb' 40 2, pidx := w.extractLsb' 36 4,
    sa := w.extractLsb' 31 5, sb := w.extractLsb' 26 5, sc := w.extractLsb' 21 5, taga := w.extractLsb' 19 2,
    dest := w.extractLsb' 14 5, aux := w.extractLsb' 0 14 }

/-- The opcode [63:56] (R64). -/
def opCode (w : Word64) : BitVec 8 := w.extractLsb' 56 8

/-- One bit as a word. -/
def bit1 (b : Bool) : BitVec 1 := BitVec.ofBool b

/-- An operation word of its opcode and fields (R64). -/
def opForm (c : BitVec 8) (o : OpWord) : Word64 :=
  c ++ o.mod ++ o.fmt ++ bit1 o.sat ++ bit1 o.urg ++ bit1 o.gen ++ bit1 o.gsense ++ o.gidx ++ o.pact ++ o.pidx ++ o.sa
    ++ o.sb ++ o.sc ++ o.taga ++ o.dest ++ o.aux

/-- The operation that an operation word encodes (Table 3.6); `ld` and `st` by their variants (Table 8.1). -/
def decodeOp (w : Word64) : Except Reject Instr :=
  let o := opFields w
  match (opCode w).toNat with
  | 0x00 => .ok (.opSteer o)
  | 0x01 => .ok (.opSwitch o)
  | 0x02 => .ok (.opMerge o)
  | 0x03 => .ok (.opCmerge o)
  | 0x04 => .ok (.opCtxnew o)
  | 0x05 => .ok (.opRetag o)
  | 0x06 => .ok (.opNextit o)
  | 0x07 => .ok (.opItdone o)
  | 0x08 => .ok (.opCtxend o)
  | 0x09 => .ok (.opEos o)
  | 0x0A => .ok (.opCnt o)
  | 0x0B => .ok (.opConst o)
  | 0x0C => .ok (.opSink o)
  | 0x0D => .ok (.opSort2 o)
  | 0x0E => .ok (.opPnop o)
  | 0x0F => .ok (.opTagof o)
  | 0x10 => .ok (.opTrap o)
  | 0x11 => .ok (.opBrk o)
  | 0x20 => .ok (.opAdd o)
  | 0x21 => .ok (.opSub o)
  | 0x22 => .ok (.opMul o)
  | 0x23 => .ok (.opMad o)
  | 0x24 => .ok (.opMin o)
  | 0x25 => .ok (.opMax o)
  | 0x26 => .ok (.opAbs o)
  | 0x27 => .ok (.opNeg o)
  | 0x28 => .ok (.opCmp o)
  | 0x29 => .ok (.opSel o)
  | 0x2A => .ok (.opClamp o)
  | 0x2B => .ok (.opDiv o)
  | 0x2C => .ok (.opLdexp o)
  | 0x2D => .ok (.opFrexp o)
  | 0x2E => .ok (.opDot o)
  | 0x30 => .ok (.opAnd o)
  | 0x31 => .ok (.opOr o)
  | 0x32 => .ok (.opXor o)
  | 0x33 => .ok (.opNot o)
  | 0x34 => .ok (.opShl o)
  | 0x35 => .ok (.opShr o)
  | 0x36 => .ok (.opSra o)
  | 0x37 => .ok (.opPopc o)
  | 0x38 => .ok (.opClz o)
  | 0x40 => .ok (.opCvt o)
  | 0x41 => .ok (.opExpand o)
  | 0x42 => .ok (.opPack o)
  | 0x43 => .ok (.opUnpack o)
  | 0x44 => .ok (.opShuf o)
  | 0x45 => .ok (.opBcast o)
  | 0x46 => .ok (.opIota o)
  | 0x47 => .ok (.opRand o)
  | 0x48 => .ok (.opRsum o)
  | 0x49 => .ok (.opRmax o)
  | 0x4A => .ok (.opRmin o)
  | 0x4B => .ok (.opRsumM o)
  | 0x60 => .ok (.opMma o)
  | 0x61 => .ok (.opMmaMx o)
  | 0x62 => .ok (.opMmaTb o)
  | 0x63 => .ok (.opAccz o)
  | 0x64 => .ok (.opAccadd o)
  | 0x65 => .ok (.opAccrel o)
  | 0x66 => .ok (.opTadd o)
  | 0x67 => .ok (.opTsub o)
  | 0x68 => .ok (.opTmul o)
  | 0x69 => .ok (.opTmax o)
  | 0x6A => .ok (.opTmin o)
  | 0x6B => .ok (.opTtr o)
  | 0x6C => .ok (.opTcvt o)
  | 0x80 => .ok (.opExp o)
  | 0x81 => .ok (.opExp2 o)
  | 0x82 => .ok (.opLog o)
  | 0x83 => .ok (.opLog2 o)
  | 0x84 => .ok (.opLog1p o)
  | 0x85 => .ok (.opExpm1 o)
  | 0x86 => .ok (.opSin o)
  | 0x87 => .ok (.opCos o)
  | 0x88 => .ok (.opSinpi o)
  | 0x89 => .ok (.opCospi o)
  | 0x8A => .ok (.opTanh o)
  | 0x8B => .ok (.opLogistic o)
  | 0x8C => .ok (.opErf o)
  | 0x8D => .ok (.opGelu o)
  | 0x8E => .ok (.opRsqrt o)
  | 0x8F => .ok (.opSqrt o)
  | 0x90 => .ok (.opRcp o)
  | 0xA0 => match o.mod.toNat with
    | 0 | 1 => .ok (.opLd o)
    | 2 | 3 | 4 => .ok (.opLdLoc o)
    | 5 => .ok (.opLdRec o)
    | _ => .error .variant
  | 0xA1 => match o.mod.toNat with
    | 0 | 1 => .ok (.opSt o)
    | 2 | 3 | 4 => .ok (.opStLoc o)
    | _ => .error .variant
  | 0xA2 => .ok (.opLdg o)
  | 0xA3 => .ok (.opStg o)
  | 0xA4 => .ok (.opAgen o)
  | 0xA5 => .ok (.opSbar o)
  | 0xA6 => .ok (.opCopy o)
  | 0xA7 => .ok (.opRed o)
  | 0xA8 => .ok (.opRedM o)
  | 0xB0 => .ok (.opAadd o)
  | 0xB1 => .ok (.opAmin o)
  | 0xB2 => .ok (.opAmax o)
  | 0xB3 => .ok (.opAand o)
  | 0xB4 => .ok (.opAor o)
  | 0xB5 => .ok (.opAxor o)
  | 0xB6 => .ok (.opAswp o)
  | 0xB7 => .ok (.opAcas o)
  | 0xB8 => .ok (.opAincB o)
  | 0xC0 => .ok (.opGset o)
  | 0xC1 => .ok (.opGadd o)
  | 0xC2 => .ok (.opGwait o)
  | 0xC3 => .ok (.opPsig o)
  | 0xC4 => .ok (.opPwait o)
  | 0xC5 => .ok (.opFilt o)
  | 0xC6 => .ok (.opCmpct o)
  | 0xFF => .ok (.opNop o)
  | _ => .error .opcode

/-- The opcode of an operation (Table 3.6); none for a kettle instruction or an event. -/
def opCodeOf (i : Instr) : Option (BitVec 8 × OpWord) :=
  match i with
  | .opSteer w => some (0x00, w)
  | .opSwitch w => some (0x01, w)
  | .opMerge w => some (0x02, w)
  | .opCmerge w => some (0x03, w)
  | .opCtxnew w => some (0x04, w)
  | .opRetag w => some (0x05, w)
  | .opNextit w => some (0x06, w)
  | .opItdone w => some (0x07, w)
  | .opCtxend w => some (0x08, w)
  | .opEos w => some (0x09, w)
  | .opCnt w => some (0x0A, w)
  | .opConst w => some (0x0B, w)
  | .opSink w => some (0x0C, w)
  | .opSort2 w => some (0x0D, w)
  | .opPnop w => some (0x0E, w)
  | .opTagof w => some (0x0F, w)
  | .opTrap w => some (0x10, w)
  | .opBrk w => some (0x11, w)
  | .opNop w => some (0xFF, w)
  | .opAdd w => some (0x20, w)
  | .opSub w => some (0x21, w)
  | .opMul w => some (0x22, w)
  | .opMad w => some (0x23, w)
  | .opMin w => some (0x24, w)
  | .opMax w => some (0x25, w)
  | .opAbs w => some (0x26, w)
  | .opNeg w => some (0x27, w)
  | .opCmp w => some (0x28, w)
  | .opSel w => some (0x29, w)
  | .opClamp w => some (0x2A, w)
  | .opDiv w => some (0x2B, w)
  | .opLdexp w => some (0x2C, w)
  | .opFrexp w => some (0x2D, w)
  | .opDot w => some (0x2E, w)
  | .opAnd w => some (0x30, w)
  | .opOr w => some (0x31, w)
  | .opXor w => some (0x32, w)
  | .opNot w => some (0x33, w)
  | .opShl w => some (0x34, w)
  | .opShr w => some (0x35, w)
  | .opSra w => some (0x36, w)
  | .opPopc w => some (0x37, w)
  | .opClz w => some (0x38, w)
  | .opCvt w => some (0x40, w)
  | .opExpand w => some (0x41, w)
  | .opPack w => some (0x42, w)
  | .opUnpack w => some (0x43, w)
  | .opShuf w => some (0x44, w)
  | .opBcast w => some (0x45, w)
  | .opIota w => some (0x46, w)
  | .opRand w => some (0x47, w)
  | .opRsum w => some (0x48, w)
  | .opRmax w => some (0x49, w)
  | .opRmin w => some (0x4A, w)
  | .opRsumM w => some (0x4B, w)
  | .opMma w => some (0x60, w)
  | .opMmaMx w => some (0x61, w)
  | .opMmaTb w => some (0x62, w)
  | .opAccz w => some (0x63, w)
  | .opAccadd w => some (0x64, w)
  | .opAccrel w => some (0x65, w)
  | .opTadd w => some (0x66, w)
  | .opTsub w => some (0x67, w)
  | .opTmul w => some (0x68, w)
  | .opTmax w => some (0x69, w)
  | .opTmin w => some (0x6A, w)
  | .opTtr w => some (0x6B, w)
  | .opTcvt w => some (0x6C, w)
  | .opExp w => some (0x80, w)
  | .opExp2 w => some (0x81, w)
  | .opLog w => some (0x82, w)
  | .opLog2 w => some (0x83, w)
  | .opLog1p w => some (0x84, w)
  | .opExpm1 w => some (0x85, w)
  | .opSin w => some (0x86, w)
  | .opCos w => some (0x87, w)
  | .opSinpi w => some (0x88, w)
  | .opCospi w => some (0x89, w)
  | .opTanh w => some (0x8A, w)
  | .opLogistic w => some (0x8B, w)
  | .opErf w => some (0x8C, w)
  | .opGelu w => some (0x8D, w)
  | .opRsqrt w => some (0x8E, w)
  | .opSqrt w => some (0x8F, w)
  | .opRcp w => some (0x90, w)
  | .opLd w => some (0xA0, w)
  | .opLdLoc w => some (0xA0, w)
  | .opLdRec w => some (0xA0, w)
  | .opSt w => some (0xA1, w)
  | .opStLoc w => some (0xA1, w)
  | .opLdg w => some (0xA2, w)
  | .opStg w => some (0xA3, w)
  | .opAgen w => some (0xA4, w)
  | .opSbar w => some (0xA5, w)
  | .opCopy w => some (0xA6, w)
  | .opRed w => some (0xA7, w)
  | .opRedM w => some (0xA8, w)
  | .opAadd w => some (0xB0, w)
  | .opAmin w => some (0xB1, w)
  | .opAmax w => some (0xB2, w)
  | .opAand w => some (0xB3, w)
  | .opAor w => some (0xB4, w)
  | .opAxor w => some (0xB5, w)
  | .opAswp w => some (0xB6, w)
  | .opAcas w => some (0xB7, w)
  | .opAincB w => some (0xB8, w)
  | .opGset w => some (0xC0, w)
  | .opGadd w => some (0xC1, w)
  | .opGwait w => some (0xC2, w)
  | .opPsig w => some (0xC3, w)
  | .opPwait w => some (0xC4, w)
  | .opFilt w => some (0xC5, w)
  | .opCmpct w => some (0xC6, w)
  | .evEosSetFire => none
  | .evTruncDiscard => none
  | .evPwaitForward _ _ => none
  | .evTokenArrival _ _ => none
  | .evHeadArrival _ _ => none
  | .evEosArrival _ _ => none
  | .evSpillFetchDone _ _ => none
  | .evFiringCommit _ => none
  | .evTokenInject _ _ => none
  | .evWheelSlot _ _ _ _ => none
  | .evAcknowledgement _ _ _ => none
  | .evWindowMessage _ _ => none
  | .evWindowAdvance _ _ => none
  | .evFreeApply _ _ => none
  | .evFreeComplete _ _ _ => none
  | .evPortAccessPerform _ _ _ => none
  | .evPageWalk _ _ => none
  | .evCompletionToken _ _ => none
  | .evOwnerRmw _ _ _ => none
  | .evCopyPiecePerformed _ _ _ => none
  | .evSequencerOrder _ _ => none
  | .evFrontierPass _ => none
  | .evStopBroadcast _ => none
  | .evCutComplete _ => none
  | .evDoldrumsFire _ => none
  | .evPourEnd _ => none
  | .evPourStart _ => none
  | .evIloadComplete _ => none
  | .evSaveComplete _ => none
  | .evRestoreComplete _ => none
  | .evFlitReceive _ _ _ => none
  | .evNak _ => none
  | .evLinkIdleFlit _ => none
  | .evBind _ => none
  | .evLaneGroupLost _ => none
  | .evLinkTraining _ _ _ => none
  | .evRemoteRequest _ => none
  | .evRemoteReply _ => none
  | .evRemoteTranslateRequest _ => none
  | .evRemoteTranslateReply _ => none
  | .evInv _ => none
  | .evInvackSend _ => none
  | .evInvackReceive _ => none
  | .evRemoteInvalidateTimeout _ => none
  | .evEpochAdvance _ => none
  | .evUndefinedEncoding _ => none
  | .kAdd _ _ _ => none
  | .kSub _ _ _ => none
  | .kAnd _ _ _ => none
  | .kOr _ _ _ => none
  | .kXor _ _ _ => none
  | .kShl _ _ _ => none
  | .kShr _ _ _ => none
  | .kSra _ _ _ => none
  | .kSlt _ _ _ => none
  | .kSltu _ _ _ => none
  | .kMul _ _ _ => none
  | .kMulh _ _ _ => none
  | .kMulhu _ _ _ => none
  | .kDiv _ _ _ => none
  | .kDivu _ _ _ => none
  | .kRem _ _ _ => none
  | .kRemu _ _ _ => none
  | .kAddi _ _ _ => none
  | .kAndi _ _ _ => none
  | .kOri _ _ _ => none
  | .kXori _ _ _ => none
  | .kShli _ _ _ => none
  | .kShri _ _ _ => none
  | .kSrai _ _ _ => none
  | .kSlti _ _ _ => none
  | .kLui _ _ => none
  | .kLd _ _ _ => none
  | .kLw _ _ _ => none
  | .kLwu _ _ _ => none
  | .kLbu _ _ _ => none
  | .kSd _ _ _ => none
  | .kSw _ _ _ => none
  | .kSb _ _ _ => none
  | .kLdAcq _ _ _ => none
  | .kLwAcq _ _ _ => none
  | .kSdRel _ _ _ => none
  | .kSwRel _ _ _ => none
  | .kAmoAdd _ _ _ _ _ _ => none
  | .kAmoSwp _ _ _ _ _ _ => none
  | .kAmoCas _ _ _ _ _ _ => none
  | .kAmoAnd _ _ _ _ _ _ => none
  | .kAmoOr _ _ _ _ _ _ => none
  | .kAmoMin _ _ _ _ _ _ _ => none
  | .kAmoMax _ _ _ _ _ _ _ => none
  | .kBeq _ _ _ => none
  | .kBne _ _ _ => none
  | .kBlt _ _ _ => none
  | .kBge _ _ _ => none
  | .kBltu _ _ _ => none
  | .kBgeu _ _ _ => none
  | .kJ _ => none
  | .kJal _ => none
  | .kJalr _ _ _ => none
  | .kKscrub _ _ _ => none
  | .kFence _ => none
  | .kCsrr _ _ => none
  | .kCsrw _ _ => none
  | .kCsrs _ _ => none
  | .kCsrc _ _ => none
  | .evKsStatusWrite _ => none
  | .evKsEventWrite _ => none
  | .evKsRevtWrite _ => none
  | .evKsMonaWrite _ => none
  | .kTrap _ => none
  | .kTret => none
  | .kKwait _ _ => none
  | .evKwaitWake => none
  | .kIload _ _ _ => none
  | .kArm _ _ => none
  | .kArmOff _ _ => none
  | .kPour _ _ _ => none
  | .kLaunch _ _ _ => none
  | .kInj _ _ _ => none
  | .kArgw _ _ _ => none
  | .kRstop _ _ => none
  | .kRresume _ _ _ => none
  | .kRdrain _ _ _ => none
  | .kRsave _ _ _ => none
  | .kRrestore _ _ _ => none
  | .kShrink _ _ _ => none
  | .kEvict _ _ _ => none
  | .kFltq _ _ _ => none
  | .kAlmw _ _ => none
  | .evAlmanacHeadAdvance _ => none
  | .kGwaitk _ _ _ => none
  | .evGwaitkWake => none
  | .evTimer => none
  | .evAsyncTrap => none
  | .evDispatchEntryNotice _ _ => none
  | .evSchedulerStep _ => none
  | .evGraceExpire _ _ => none
  | .evEntryDone _ _ => none
  | .evInvalidationRequest _ => none
  | .evInvalidationComplete _ => none
  | .evHostApertureWrite _ _ _ _ => none
  | .evHostApertureRead _ _ _ => none
  | .evHostApertureAtomic _ _ _ _ _ _ => none
  | .evMwApbaseWrite _ _ _ _ => none
  | .evRegisterWrite _ _ _ _ => none
  | .evIngressWrite _ _ _ _ _ _ => none
  | .evIngressRead _ _ _ _ => none
  | .evIngressDescriptorUpdate _ _ => none
  | .evWeathervaneUpdate _ _ => none
  | .evTapCopy _ _ => none
  | .evPartitionReset _ => none
  | .evAttestationRequest _ => none
  | .evPowerUp => none
  | .evModuleReset => none
  | .evPowerOff => none
  | .evSupplyDroop _ _ => none
  | .evSquallRelease _ => none
  | .evDiePowerLimit _ _ => none
  | .evIsobarRecompute _ _ => none
  | .evIsobarRelease _ => none
  | .evRefresh _ _ => none
  | .evUnbind _ => none
  | .evFlitSend _ => none

/-- The operation word of an operation. -/
def encodeOp (i : Instr) : Option Word64 := (opCodeOf i).map fun p => opForm p.1 p.2

/-- fn of an atomic (Table 9.3). -/
def amoFn (op : BitVec 3) (w : Bool) (o : BitVec 2) (s u : Bool) : BitVec 11 :=
  op ++ bit1 w ++ o ++ bit1 s ++ bit1 u ++ (0 : BitVec 3)

/-- fn of an ordered form (R222). -/
def ordFn (c : Bool) (sz st : Bool) : BitVec 11 := (0 : BitVec 8) ++ bit1 c ++ bit1 sz ++ bit1 st

/-- The kettle word of an instruction (R214); none for an operation or an event. -/
def encodeKettle (i : Instr) : Option Word32 :=
  match i with
  | .kAdd d a b => some (formK 0x00 d a b 0)
  | .kSub d a b => some (formK 0x00 d a b 1)
  | .kAnd d a b => some (formK 0x00 d a b 2)
  | .kOr d a b => some (formK 0x00 d a b 3)
  | .kXor d a b => some (formK 0x00 d a b 4)
  | .kShl d a b => some (formK 0x00 d a b 5)
  | .kShr d a b => some (formK 0x00 d a b 6)
  | .kSra d a b => some (formK 0x00 d a b 7)
  | .kSlt d a b => some (formK 0x00 d a b 8)
  | .kSltu d a b => some (formK 0x00 d a b 9)
  | .kMul d a b => some (formK 0x00 d a b 10)
  | .kMulh d a b => some (formK 0x00 d a b 11)
  | .kMulhu d a b => some (formK 0x00 d a b 12)
  | .kDiv d a b => some (formK 0x00 d a b 13)
  | .kDivu d a b => some (formK 0x00 d a b 14)
  | .kRem d a b => some (formK 0x00 d a b 15)
  | .kRemu d a b => some (formK 0x00 d a b 16)
  | .kAddi d a i => some (formI 0x01 d a i)
  | .kAndi d a i => some (formI 0x02 d a i)
  | .kOri d a i => some (formI 0x03 d a i)
  | .kXori d a i => some (formI 0x04 d a i)
  | .kShli d a i => some (formI 0x05 d a ((0 : BitVec 10) ++ i))
  | .kShri d a i => some (formI 0x06 d a ((0 : BitVec 10) ++ i))
  | .kSrai d a i => some (formI 0x07 d a ((0 : BitVec 10) ++ i))
  | .kSlti d a i => some (formI 0x08 d a i)
  | .kLui d i => some (formI 0x09 d 0 i)
  | .kLd d a i => some (formI 0x10 d a i)
  | .kLw d a i => some (formI 0x11 d a i)
  | .kLwu d a i => some (formI 0x12 d a i)
  | .kLbu d a i => some (formI 0x13 d a i)
  | .kSd r a i => some (formI 0x14 r a i)
  | .kSw r a i => some (formI 0x15 r a i)
  | .kSb r a i => some (formI 0x16 r a i)
  | .kLdAcq d a c => some (formK 0x17 d a 0 (ordFn c false false))
  | .kLwAcq d a c => some (formK 0x17 d a 0 (ordFn c true false))
  | .kSdRel a b c => some (formK 0x17 0 a b (ordFn c false true))
  | .kSwRel a b c => some (formK 0x17 0 a b (ordFn c true true))
  | .kAmoAdd d a b w o c => some (formK 0x18 d a b (amoFn 0 w o c false))
  | .kAmoSwp d a b w o c => some (formK 0x18 d a b (amoFn 1 w o c false))
  | .kAmoCas d a b w o c => some (formK 0x18 d a b (amoFn 2 w o c false))
  | .kAmoAnd d a b w o c => some (formK 0x18 d a b (amoFn 3 w o c false))
  | .kAmoOr d a b w o c => some (formK 0x18 d a b (amoFn 4 w o c false))
  | .kAmoMin d a b w o c u => some (formK 0x18 d a b (amoFn 5 w o c u))
  | .kAmoMax d a b w o c u => some (formK 0x18 d a b (amoFn 6 w o c u))
  | .kBeq a b o => some (formI 0x20 a b o)
  | .kBne a b o => some (formI 0x21 a b o)
  | .kBlt a b o => some (formI 0x22 a b o)
  | .kBge a b o => some (formI 0x23 a b o)
  | .kBltu a b o => some (formI 0x24 a b o)
  | .kBgeu a b o => some (formI 0x25 a b o)
  | .kJ o => some (formJ 0x26 o)
  | .kJal o => some (formJ 0x27 o)
  | .kJalr d a i => some (formI 0x28 d a i)
  | .kKscrub d a b => some (formK 0x2A d a b 0)
  | .kFence c => some (formK 0x2C 0 0 0 ((0 : BitVec 10) ++ bit1 c))
  | .kCsrr d c => some (formI 0x2D d 0 ((0 : BitVec 4) ++ c))
  | .kCsrw a c => some (formI 0x2D 0 a ((1 : BitVec 4) ++ c))
  | .kCsrs a c => some (formI 0x2D 0 a ((2 : BitVec 4) ++ c))
  | .kCsrc a c => some (formI 0x2D 0 a ((3 : BitVec 4) ++ c))
  | .kTrap i => some (formI 0x2E 0 0 i)
  | .kTret => some (formK 0x2F 0 0 0 0)
  | .kKwait d a => some (formK 0x2F d a 0 1)
  | .kIload d a b => some (formK 0x30 d a b 0)
  | .kArm d a => some (formK 0x31 d a 0 0)
  | .kArmOff d a => some (formK 0x31 d a 0 1)
  | .kPour d a b => some (formK 0x32 d a b 0)
  | .kLaunch d a b => some (formK 0x33 d a b 0)
  | .kInj d a b => some (formK 0x34 d a b 0)
  | .kArgw d a b => some (formK 0x35 d a b 0)
  | .kRstop d a => some (formK 0x36 d a 0 0)
  | .kRresume d a b => some (formK 0x37 d a b 0)
  | .kRdrain d a b => some (formK 0x38 d a b 0)
  | .kRsave d a b => some (formK 0x39 d a b 0)
  | .kRrestore d a b => some (formK 0x3A d a b 0)
  | .kShrink d a b => some (formK 0x3B d a b 0)
  | .kEvict d a b => some (formK 0x3C d a b 0)
  | .kFltq d a b => some (formK 0x3D d a b 0)
  | .kAlmw d b => some (formK 0x3E d 0 b 0)
  | .kGwaitk d a b => some (formK 0x3F d a b 0)
  | .opSteer _ => none
  | .opSwitch _ => none
  | .opMerge _ => none
  | .opCmerge _ => none
  | .opCtxnew _ => none
  | .opRetag _ => none
  | .opNextit _ => none
  | .opItdone _ => none
  | .opCtxend _ => none
  | .opEos _ => none
  | .opCnt _ => none
  | .opConst _ => none
  | .opSink _ => none
  | .opSort2 _ => none
  | .opPnop _ => none
  | .opTagof _ => none
  | .opTrap _ => none
  | .opBrk _ => none
  | .opNop _ => none
  | .evEosSetFire => none
  | .evTruncDiscard => none
  | .opAdd _ => none
  | .opSub _ => none
  | .opMul _ => none
  | .opMad _ => none
  | .opMin _ => none
  | .opMax _ => none
  | .opAbs _ => none
  | .opNeg _ => none
  | .opCmp _ => none
  | .opSel _ => none
  | .opClamp _ => none
  | .opDiv _ => none
  | .opLdexp _ => none
  | .opFrexp _ => none
  | .opDot _ => none
  | .opAnd _ => none
  | .opOr _ => none
  | .opXor _ => none
  | .opNot _ => none
  | .opShl _ => none
  | .opShr _ => none
  | .opSra _ => none
  | .opPopc _ => none
  | .opClz _ => none
  | .opCvt _ => none
  | .opExpand _ => none
  | .opPack _ => none
  | .opUnpack _ => none
  | .opShuf _ => none
  | .opBcast _ => none
  | .opIota _ => none
  | .opRand _ => none
  | .opRsum _ => none
  | .opRmax _ => none
  | .opRmin _ => none
  | .opRsumM _ => none
  | .opMma _ => none
  | .opMmaMx _ => none
  | .opMmaTb _ => none
  | .opAccz _ => none
  | .opAccadd _ => none
  | .opAccrel _ => none
  | .opTadd _ => none
  | .opTsub _ => none
  | .opTmul _ => none
  | .opTmax _ => none
  | .opTmin _ => none
  | .opTtr _ => none
  | .opTcvt _ => none
  | .opExp _ => none
  | .opExp2 _ => none
  | .opLog _ => none
  | .opLog2 _ => none
  | .opLog1p _ => none
  | .opExpm1 _ => none
  | .opSin _ => none
  | .opCos _ => none
  | .opSinpi _ => none
  | .opCospi _ => none
  | .opTanh _ => none
  | .opLogistic _ => none
  | .opErf _ => none
  | .opGelu _ => none
  | .opRsqrt _ => none
  | .opSqrt _ => none
  | .opRcp _ => none
  | .opLd _ => none
  | .opLdLoc _ => none
  | .opLdRec _ => none
  | .opSt _ => none
  | .opStLoc _ => none
  | .opLdg _ => none
  | .opStg _ => none
  | .opAgen _ => none
  | .opSbar _ => none
  | .opCopy _ => none
  | .opRed _ => none
  | .opRedM _ => none
  | .opAadd _ => none
  | .opAmin _ => none
  | .opAmax _ => none
  | .opAand _ => none
  | .opAor _ => none
  | .opAxor _ => none
  | .opAswp _ => none
  | .opAcas _ => none
  | .opAincB _ => none
  | .opGset _ => none
  | .opGadd _ => none
  | .opGwait _ => none
  | .opPsig _ => none
  | .opPwait _ => none
  | .evPwaitForward _ _ => none
  | .opFilt _ => none
  | .opCmpct _ => none
  | .evTokenArrival _ _ => none
  | .evHeadArrival _ _ => none
  | .evEosArrival _ _ => none
  | .evSpillFetchDone _ _ => none
  | .evFiringCommit _ => none
  | .evTokenInject _ _ => none
  | .evWheelSlot _ _ _ _ => none
  | .evAcknowledgement _ _ _ => none
  | .evWindowMessage _ _ => none
  | .evWindowAdvance _ _ => none
  | .evFreeApply _ _ => none
  | .evFreeComplete _ _ _ => none
  | .evPortAccessPerform _ _ _ => none
  | .evPageWalk _ _ => none
  | .evCompletionToken _ _ => none
  | .evOwnerRmw _ _ _ => none
  | .evCopyPiecePerformed _ _ _ => none
  | .evSequencerOrder _ _ => none
  | .evFrontierPass _ => none
  | .evStopBroadcast _ => none
  | .evCutComplete _ => none
  | .evDoldrumsFire _ => none
  | .evPourEnd _ => none
  | .evPourStart _ => none
  | .evIloadComplete _ => none
  | .evSaveComplete _ => none
  | .evRestoreComplete _ => none
  | .evFlitReceive _ _ _ => none
  | .evNak _ => none
  | .evLinkIdleFlit _ => none
  | .evBind _ => none
  | .evLaneGroupLost _ => none
  | .evLinkTraining _ _ _ => none
  | .evRemoteRequest _ => none
  | .evRemoteReply _ => none
  | .evRemoteTranslateRequest _ => none
  | .evRemoteTranslateReply _ => none
  | .evInv _ => none
  | .evInvackSend _ => none
  | .evInvackReceive _ => none
  | .evRemoteInvalidateTimeout _ => none
  | .evEpochAdvance _ => none
  | .evUndefinedEncoding _ => none
  | .evKsStatusWrite _ => none
  | .evKsEventWrite _ => none
  | .evKsRevtWrite _ => none
  | .evKsMonaWrite _ => none
  | .evKwaitWake => none
  | .evAlmanacHeadAdvance _ => none
  | .evGwaitkWake => none
  | .evTimer => none
  | .evAsyncTrap => none
  | .evDispatchEntryNotice _ _ => none
  | .evSchedulerStep _ => none
  | .evGraceExpire _ _ => none
  | .evEntryDone _ _ => none
  | .evInvalidationRequest _ => none
  | .evInvalidationComplete _ => none
  | .evHostApertureWrite _ _ _ _ => none
  | .evHostApertureRead _ _ _ => none
  | .evHostApertureAtomic _ _ _ _ _ _ => none
  | .evMwApbaseWrite _ _ _ _ => none
  | .evRegisterWrite _ _ _ _ => none
  | .evIngressWrite _ _ _ _ _ _ => none
  | .evIngressRead _ _ _ _ => none
  | .evIngressDescriptorUpdate _ _ => none
  | .evWeathervaneUpdate _ _ => none
  | .evTapCopy _ _ => none
  | .evPartitionReset _ => none
  | .evAttestationRequest _ => none
  | .evPowerUp => none
  | .evModuleReset => none
  | .evPowerOff => none
  | .evSupplyDroop _ _ => none
  | .evSquallRelease _ => none
  | .evDiePowerLimit _ _ => none
  | .evIsobarRecompute _ _ => none
  | .evIsobarRelease _ => none
  | .evRefresh _ _ => none
  | .evUnbind _ => none
  | .evFlitSend _ => none

/-- The bits of an instruction's word. -/
def encode (i : Instr) : Option Nat :=
  match encodeKettle i with
  | some w => some w.toNat
  | none => (encodeOp i).map BitVec.toNat

/-- The instruction that the decoder reads from a table word: 32 bits are a kettle word, 64 bits an operation word. -/
def decodeTableWord (nbits w : Nat) : Option Instr :=
  if nbits ≤ 32 then (decodeKettle (BitVec.ofNat 32 w)).toOption
  else (decodeOp (BitVec.ofNat 64 w)).toOption

end Sys2Proof
end

