-- ==== Sys2Proof/Machine/Bits.lean ====
section
/-! DEFINITION. Bit fields, sign extension and byte order (spec/00: R13: bit ranges [high:low], bit 0 least
significant, multi-byte values little-endian). Long bit strings (payloads, lines, images) are natural numbers read
little-endian. -/

namespace Sys2Proof.Machine

/-- Bits [hi:lo] of a natural number read as bits (R13). -/
def bits (x hi lo : Nat) : Nat := (x >>> lo) % 2 ^ (hi + 1 - lo)

/-- Bit n of a natural number read as bits. -/
def bit (x n : Nat) : Bool := x.testBit n

/-- One bit as a number. -/
def b2n (b : Bool) : Nat := if b then 1 else 0

/-- The two's complement value of the low w bits of x (R23). -/
def sval (w x : Nat) : Int :=
  if x % 2 ^ w < 2 ^ (w - 1) then (x % 2 ^ w : Nat) else ((x % 2 ^ w : Nat) : Int) - (2 ^ w : Nat)

/-- The low w bits of an integer (two's complement, R23). -/
def uval (w : Nat) (x : Int) : Nat := (x % ((2 ^ w : Nat) : Int)).toNat

/-- `n` bytes of a little-endian number, lowest first (R13). -/
def bytesOf : Nat → Nat → List Byte
  | 0, _ => []
  | n + 1, x => BitVec.ofNat 8 x :: bytesOf n (x / 256)

/-- The little-endian number of a list of bytes (R13). -/
def ofBytes : List Byte → Nat
  | [] => 0
  | b :: bs => b.toNat + 256 * ofBytes bs

/-- x rounded up to a multiple of m. -/
def roundUp (x m : Nat) : Nat := (x + (m - 1)) / m * m

/-- Ceiling division. -/
def cdiv (x m : Nat) : Nat := (x + (m - 1)) / m

/-- Lane i of w bits of a packed value (R24: for w below 8 and above alike, element i stands at bits
[i·w + w − 1 : i·w] of the little-endian payload). -/
def lane (w x i : Nat) : Nat := (x >>> (i * w)) % 2 ^ w

/-- The first n lanes of w bits. -/
def lanes (w n x : Nat) : List Nat := (List.range n).map (lane w x)

/-- Lanes packed back into one value (R24). -/
def packLanes (w : Nat) : List Nat → Nat
  | [] => 0
  | l :: ls => l % 2 ^ w + 2 ^ w * packLanes w ls

/-- Bytes [off, off + n) of a little-endian value. -/
def byteRange (x off n : Nat) : Nat := (x >>> (8 * off)) % 2 ^ (8 * n)

/-- x with its bytes [off, off + n) replaced by v. -/
def setByteRange (x off n v : Nat) : Nat :=
  x % 2 ^ (8 * off) + 2 ^ (8 * off) * (v % 2 ^ (8 * n)) + 2 ^ (8 * (off + n)) * (x >>> (8 * (off + n)))

/-- x with its bits [hi:lo] replaced by v. -/
def setBits (x hi lo v : Nat) : Nat :=
  x % 2 ^ lo + 2 ^ lo * (v % 2 ^ (hi + 1 - lo)) + 2 ^ (hi + 1) * (x >>> (hi + 1))

/-- The number of 1 bits among the low n. -/
def popcount : Nat → Nat → Nat
  | 0, _ => 0
  | n + 1, x => x % 2 + popcount n (x / 2)

/-- The number of leading 0 bits of a w-bit value. -/
def leadingZeros (w x : Nat) : Nat := if x % 2 ^ w = 0 then w else w - 1 - Nat.log2 (x % 2 ^ w)

/-- List element n, or a default. -/
def nth {α : Type} (l : List α) (n : Nat) (d : α) : α := l.getD n d

/-- A list with element n changed by f (unchanged where n is beyond the end). -/
def modNth {α : Type} : List α → Nat → (α → α) → List α
  | [], _, _ => []
  | x :: xs, 0, f => f x :: xs
  | x :: xs, n + 1, f => x :: modNth xs n f

/-- Lookup in a list of key and value pairs. -/
def lookupKey {κ α : Type} [DecidableEq κ] : List (κ × α) → κ → Option α
  | [], _ => none
  | (k, v) :: r, k' => if k = k' then some v else lookupKey r k'

/-- Replace or append the value of a key. -/
def putKey {κ α : Type} [DecidableEq κ] : List (κ × α) → κ → α → List (κ × α)
  | [], k, v => [(k, v)]
  | (k, v) :: r, k', v' => if k = k' then (k', v') :: r else (k, v) :: putKey r k' v'

/-- Remove a key. -/
def delKey {κ α : Type} [DecidableEq κ] : List (κ × α) → κ → List (κ × α)
  | [], _ => []
  | (k, v) :: r, k' => if k = k' then delKey r k' else (k, v) :: delKey r k'

end Sys2Proof.Machine
end

