-- ==== Sys2Proof/Machine/Flags.lean ====
section
/-! DEFINITION. The five sticky flags of an element (spec/01: R39, R40) and the rounding modes (R26, R28). -/

namespace Sys2Proof.Machine

/-- A set of sticky flags, laid out as R39: INVALID 4, DIVZ 3, OVERFLOW 2, UNDERFLOW 1, INEXACT 0. -/
abbrev Flags := BitVec 5

def fNone : Flags := 0#5
def fInvalid : Flags := 16#5
def fDivz : Flags := 8#5
def fOverflow : Flags := 4#5
def fUnderflow : Flags := 2#5
def fInexact : Flags := 1#5

/-- A flag raised where the condition holds. -/
def flagIf (c : Bool) (f : Flags) : Flags := if c then f else fNone

/-- The inclusive OR of the flags of all lanes of a firing (R40). -/
def orFlags (l : List Flags) : Flags := l.foldl (· ||| ·) fNone

/-- Rounding modes (Table 1.4, R28). -/
inductive RMode where
  | rne | rtz | rup | rdn | rna | sr
  deriving DecidableEq, Repr

/-- The RND code of a format record; 6 and 7 are reserved (Table 1.4). -/
def RMode.ofCode : Nat → Option RMode
  | 0 => some .rne | 1 => some .rtz | 2 => some .rup | 3 => some .rdn | 4 => some .rna | 5 => some .sr
  | _ => none

/-- The effective mode of a class R opcode: MOD 0 takes the record's RND, MOD 1 to 6 override it (R28). -/
def effMode (mod : Nat) (rnd : RMode) : Option RMode :=
  if mod = 0 then some rnd else RMode.ofCode (mod - 1)

/-- The effective mode of a class F opcode: MOD[2:0] 0 takes the record's RND, 1 to 4 override it (R67). -/
def effModeF (mod : Nat) (rnd : RMode) : RMode :=
  match mod % 8 with
  | 0 => rnd
  | 1 => .rne
  | 2 => .rtz
  | 3 => .rup
  | _ => .rdn

end Sys2Proof.Machine
end

