-- ==== Sys2Proof/Machine/Token.lean ====
section
/-! DEFINITION. Tokens and their headers (spec/03: R80 to R82; tags spec/00: R12). -/

namespace Sys2Proof.Machine

/-- A token header (R80, Table 3.8). CHAN is the physical channel number: the channel base of the region plus the number in
the image (spec/18: R364). -/
structure Hdr where
  tag : Nat := 0
  chan : Nat := 0
  /-- 0 data, 1 EOS, 2 ack -/
  kind : Nat := 0
  /-- 0 scalar of 32 bits or less, 1 scalar of 64 bits, 2 vector, 3 tile -/
  pkind : Nat := 0
  poison : Bool := false
  vmask : Nat := 0
  vrows : Nat := 0
  vcols : Nat := 0
  tcols : Nat := 0
  trows : Nat := 0
  /-- format code (spec/01: Table 1.5) -/
  fmt : Nat := 0
  fidx : Nat := 0
  stat : Nat := 0
  seq : Bool := false
  seqp : Nat := 0
  seqo : Nat := 0
  seqs : Nat := 0
  deriving DecidableEq, Repr

/-- A token: header and payload (little-endian bits). -/
structure Token where
  hdr : Hdr := {}
  payload : Nat := 0
  deriving DecidableEq, Repr

/-- body(t) (R12). -/
def tagBody (t : Nat) : Nat := bits t 31 26
/-- The number of the body's live copy that a tag names (R12, field [25:16]). -/
def tagInst (t : Nat) : Nat := bits t 25 16
/-- iteration(t) (R12). -/
def tagIter (t : Nat) : Nat := bits t 15 0
/-- The context field [31:16] (R12). -/
def tagCtx (t : Nat) : Nat := bits t 31 16
/-- Composing a tag (spec/00, Pseudocode). -/
def mkTag (body inst iter : Nat) : Nat := body % 64 * 2 ^ 26 + inst % 1024 * 2 ^ 16 + iter % 2 ^ 16

/-- The iteration advanced by a signed step modulo 2^16, body and context kept (R66). -/
def tagStep (t : Nat) (d : Int) : Nat := tagCtx t * 2 ^ 16 + uval 16 ((tagIter t : Int) + d)

/-- Element width in bits of a format code (spec/01: Table 1.5); 0 for a code that names no format. -/
def fmtWidth (f : Nat) : Nat :=
  match f with
  | 0 => 32 | 1 => 16 | 2 => 16 | 3 => 8 | 4 => 8 | 5 => 4 | 6 => 8 | 7 => 8
  | 8 => 8 | 9 => 8 | 10 => 16 | 11 => 32 | 12 => 32 | 13 => 64 | _ => 0

/-- The MX format codes (spec/01: R21, R22). -/
def fmtIsMx (f : Nat) : Bool := f == 5 || f == 6 || f == 7

/-- Bytes of the scale plane of a tile of r rows and c columns: one byte for 32 elements along a row (R22). -/
def scaleBytes (f r c : Nat) : Nat := if fmtIsMx f then r * (c / 32) else 0

/-- Where the scale plane of an MX tile starts: the next 128-byte boundary after the elements (R22). -/
def planeOff (f r c : Nat) : Nat := roundUp (cdiv (r * c * fmtWidth f) 8) 128

/-- Payload bytes of a tile, scale plane included (R22, R81). -/
def tileBytes (f r c : Nat) : Nat :=
  if fmtIsMx f then planeOff f r c + scaleBytes f r c else cdiv (r * c * fmtWidth f) 8

/-- Payload bytes of a token (R80, R81): 4, 8, 128, or those of its tile. -/
def payloadBytes (h : Hdr) : Nat :=
  if h.kind ≠ 0 then 0
  else match h.pkind with
    | 0 => 4 | 1 => 8 | 2 => 128 | _ => tileBytes h.fmt h.trows h.tcols

/-- The beats of a token (R45): 1, 2, or 1 and one for each 128 bytes. -/
def beatsOf (h : Hdr) : Nat :=
  if h.kind ≠ 0 then 1
  else match h.pkind with
    | 0 => 1 | 1 => 1 | 2 => 2 | _ => 1 + cdiv (tileBytes h.fmt h.trows h.tcols) 128

/-- VMASK with every bit set that covers a payload byte (R81). -/
def fullMask (h : Hdr) : Nat :=
  if h.kind ≠ 0 then 0
  else if h.pkind = 3 then 2 ^ cdiv (tileBytes h.fmt h.trows h.tcols) 256 - 1 else 1

/-- The eight header words as one 256-bit value, with the given CHAN (R80). -/
def hdrBits (h : Hdr) (ch : Nat) : Nat :=
  h.tag % 2 ^ 32
  + 2 ^ 32 * (ch % 2048 * 2 ^ 21 + h.kind % 4 * 2 ^ 19 + h.pkind % 4 * 2 ^ 17 + b2n h.poison * 2 ^ 16 + h.vmask % 2 ^ 16)
  + 2 ^ 64 * (h.vrows % 64 * 2 ^ 26 + h.vcols % 256 * 2 ^ 18 + h.tcols % 256 * 2 ^ 10 + h.trows % 64 * 2 ^ 4 + h.fmt % 16)
  + 2 ^ 96 * (h.fidx % 2 ^ 16 * 2 ^ 16 + h.stat % 256 * 2 ^ 8 + b2n h.seq * 2 ^ 7)
  + 2 ^ 128 * (h.seqp % 2 ^ 24) + 2 ^ 160 * (h.seqo % 2 ^ 24) + 2 ^ 192 * (h.seqs % 2 ^ 24)

/-- The header read back from its bits (R80). -/
def hdrOfBits (x : Nat) : Hdr :=
  { tag := bits x 31 0, chan := bits x 63 53, kind := bits x 52 51, pkind := bits x 50 49, poison := bit x 48,
    vmask := bits x 47 32, vrows := bits x 95 90, vcols := bits x 89 82, tcols := bits x 81 74, trows := bits x 73 68,
    fmt := bits x 67 64, fidx := bits x 127 112, stat := bits x 111 104, seq := bit x 103,
    seqp := bits x 151 128, seqo := bits x 183 160, seqs := bits x 215 192 }

/-- The shape fields are within R81: a tile's valid shape lies in its stored shape, it fits 4,096 bytes, its format
exists, and a scalar's or vector's fields are 0; VMASK bits that cover no payload byte are 0. -/
def shapeOk (h : Hdr) : Bool :=
  if h.kind = 0 then
    fmtWidth h.fmt ≠ 0 &&
    (if h.pkind = 3 then
      1 ≤ h.trows && h.trows ≤ 32 && 1 ≤ h.tcols && h.tcols ≤ 128 && h.vrows ≤ h.trows && h.vcols ≤ h.tcols
      && tileBytes h.fmt h.trows h.tcols ≤ 4096 && (!fmtIsMx h.fmt || h.tcols % 32 == 0)
     else h.vrows == 0 && h.vcols == 0 && h.tcols == 0 && h.trows == 0)
    && h.vmask ≤ fullMask h
  else h.vmask == 0 && h.vrows == 0 && h.vcols == 0 && h.tcols == 0 && h.trows == 0

/-- The beats of a token as bytes (R80): the header beat with a scalar payload at byte 32, then the payload beats. -/
def tokenBeats (t : Token) (ch : Nat) : Nat :=
  let h := hdrBits t.hdr ch
  if t.hdr.kind ≠ 0 then h
  else if t.hdr.pkind < 2 then h + 2 ^ 256 * (t.payload % 2 ^ (8 * payloadBytes t.hdr))
  else h + 2 ^ 1024 * (t.payload % 2 ^ (8 * payloadBytes t.hdr))

/-- The token read back from its beats. -/
def tokenOfBeats (x : Nat) : Token :=
  let h := hdrOfBits x
  let n := payloadBytes h
  { hdr := h, payload := if h.kind ≠ 0 then 0 else byteRange x (if h.pkind < 2 then 32 else 128) n }

/-- An ack token (R190): KIND ack, payload kind 00, FMT 0, VMASK 0. -/
def ackToken (tag stat : Nat) (poison : Bool) (fidx : Nat) : Token :=
  { hdr := { tag := tag, kind := 2, stat := stat, poison := poison, fidx := fidx } }

/-- An EOS token (R81, R107): VMASK 0 and no payload, never poisoned. -/
def eosToken (tag : Nat) : Token := { hdr := { tag := tag, kind := 1 } }

end Sys2Proof.Machine
end

