-- ==== Sys2Proof/Machine/Element.lean ====
section
/-! DEFINITION. What an element holds: configuration, matched sets, heads, banks, issued firings and its port
(spec/02: Table 2.1, R41, R42; spec/06: R147; spec/08: R184 to R190, R203; spec/10: R261, R262). -/

namespace Sys2Proof.Machine

/-- Where a resident payload is held (R51, R261): with the operand (a scalar), in a pool buffer, in a spill slot, or
on its way back from one. -/
inductive PLoc where
  | here
  | pool (b : Nat)
  | spill (n : Nat)
  | fetching (n b : Nat)
  deriving DecidableEq, Repr

/-- A resident operand or head: the token and where its payload is held. `stamp` is the fabric clk of its placement. -/
structure Held where
  tok : Token
  loc : PLoc := .here
  stamp : Nat := 0
  deriving DecidableEq, Repr

/-- A set of operands matched on slot and tag, in the store or in a frame (R53, Table 10.3). -/
structure MSet where
  slot : Nat
  tag : Nat
  a : Option Held := none
  b : Option Held := none
  c : Option Held := none
  /-- orphan marks of a, b, c as bits 0 to 2 (R99) -/
  orphan : Nat := 0
  /-- the set stands in its frame entry, not in the associative store -/
  inFrame : Bool := false
  /-- the clk at which the set became a candidate: its completion, or its joining of the frame-ready list (R58) -/
  ready : Option Nat := none
  deriving DecidableEq, Repr

/-- A receive-table entry (Table 2.3). -/
structure RecvEnt where
  valid : Bool := false
  head : Bool := false
  pos : Nat := 0
  slot : Nat := 0
  chan : Nat := 0
  quota : Nat := 0
  deriving DecidableEq, Repr

/-- A frame descriptor (Table 10.2). -/
structure FrameDesc where
  body : Nat
  base : Nat
  smask : Nat
  deriving DecidableEq, Repr

/-- What the configuration of a pour fixes in an element (Table 18.3). -/
structure ElemCfg where
  slots : List Word64 := []
  recv : List RecvEnt := []
  /-- d0 to d31: the valid channels of each entry in ascending field order (R47) -/
  dest : List (List Nat) := []
  fmts : List Nat := []
  pinit : Nat := 0
  consts : List Nat := []
  states : List Nat := []
  pooln : Nat := 0
  poolswz : Nat := 0
  frmbase : Nat := 0
  frmsize : Nat := 0
  resbase : Nat := 0
  ressize : Nat := 0
  resswz : Nat := 0
  gaugen : Nat := 0
  spsize : Nat := 0
  spbase : Nat := 0
  frames : List FrameDesc := []
  /-- rank and cover of each slot (R291) -/
  ranks : List (Nat × Nat) := []
  deriving DecidableEq, Repr

/-- An accumulator bank (R147): CELLS (32 × 32 FP32, row-major, little-endian bits), valid rows and columns, mask, poison,
fault index and sequence context (0 unset, 2^16 plus the context once set, R159). -/
structure Bank where
  cells : Nat := 0
  vr : Nat := 0
  vc : Nat := 0
  mask : Nat := 0xFFFF
  poison : Bool := false
  fidx : Nat := 0
  sctx : Nat := 0
  deriving DecidableEq, Repr

/-- A gauge word (R203). -/
structure Gauge where
  gen : Nat := 0
  target : Nat := 0
  count : Nat := 0
  deriving DecidableEq, Repr

/-- The data of a fault record before the region fills its common fields (Table 14.4). -/
structure FRec where
  cause : Nat
  tag : Nat := 0
  slot : Nat := 0
  ekind : Nat := 3
  d : Nat := 0
  x : Nat := 0
  y : Nat := 0
  addr : Nat := 0
  stream : Option Nat := none
  front : Option Nat := none
  chan : Nat := 0
  code : Nat := 0
  fidx : Nat := 0
  coords : List Int := []
  deriving DecidableEq, Repr

/-- One output of a firing that waits for its commit: the channel and the token. -/
structure OutTok where
  chan : Nat
  tok : Token
  deriving DecidableEq, Repr

/-- A message to the home element of a body (R94, R101, R104): an itdone count for a tag, or a free of a body's live copy. -/
inductive WinMsg where
  | done (tag : Nat)
  | free (body inst : Nat)
  deriving DecidableEq, Repr

/-- A change of a gauge handed to a commit (R204, R205). -/
inductive GaugeOp where
  | set (g v : Nat)
  | clr (g v : Nat)
  | add (g v : Nat)
  deriving DecidableEq, Repr

/-- One single-copy atomic piece of an access (R274), or one atomic update (R197 to R200): its elements, each with its
index in the payload and its virtual address. A piece that reads and writes in one step is `rmw`. -/
structure Piece where
  els : List (Nat × Nat)
  wr : Bool := false
  rmw : Bool := false
  done : Bool := false
  /-- its request stands on a lane group and waits for its reply (R318) -/
  sent : Bool := false
  deriving DecidableEq, Repr

/-- An access that a memory firing passes to its port at its commit (R190), and its progress at the port. `op` is the
opcode, `mod` to `cover` what the firing supplies; the rest is the port's. -/
structure Access where
  id : Nat := 0
  op : Nat := 0
  mod : Nat := 0
  shape : Nat := 0
  fmt : Nat := 0
  slot : Nat := 0
  tag : Nat := 0
  /-- the tag of the completion token (R190) -/
  outTag : Nat := 0
  stream : Nat := 0
  scope : Nat := 0
  ord : Nat := 0
  desc : Nat := 0
  /-- sbar: the streams held (R189); sort2: the counts before the firing (R113) -/
  state : Nat := 0
  /-- what the port reads of operands a, b and c; another source stands as a scalar -/
  a : Option Token := none
  b : Option Token := none
  c : Option Token := none
  /-- b is the slot constant in every cell, of whatever box the record has (R65, R93) -/
  fill : Option Nat := none
  poison : Bool := false
  fidx : Nat := 0
  nfp : Bool := false
  ncan : Bool := false
  ftz : Bool := false
  /-- a write by R280: counted by the store-acknowledge count (R190) -/
  write : Bool := false
  dest : List Nat := []
  /-- the EOS set of a memory slot on its way through the port (R190), with the accesses of its slot before it -/
  eos : Bool := false
  /-- the sequence numbers of a sequenced pour (R292) -/
  seq : Bool := false
  seqp : Nat := 0
  seqo : Nat := 0
  seqs : Nat := 0
  /-- clk of issue, and the clk before which no completion leaves (Table 8.6) -/
  clk0 : Nat := 0
  notBefore : Nat := 0
  /-- the coordinates i0 to i5, once resolved (R183, R185) -/
  coords : Option (List Int) := none
  /-- a loop-nest tuple was not available: completion END (R185) -/
  ended : Bool := false
  /-- checked against its layout record and cut into pieces -/
  begun : Bool := false
  /-- the second step is open: an `ld.rec` whose header has been read and checked (R195), a `sort2` whose side T is
  written (R113) -/
  headed : Bool := false
  pieces : List Piece := []
  /-- pieces whose pages are all translated, from the first on: none above may be performed (R332) -/
  xl : Nat := 0
  /-- the physical page of each virtual 4 KiB page translated for it -/
  pages : List (Nat × Nat) := []
  /-- the payload being read, written or copied, element by element; `width` its element bits -/
  buf : Nat := 0
  width : Nat := 32
  /-- the completion token's header as far as it is known -/
  hdr : Hdr := {}
  stat : Nat := 0
  flags : Flags := 0
  /-- an uncorrectable line was read: the completion is poisoned with this fault index (R196, R325) -/
  bad : Option Nat := none
  /-- the lowest element whose result in memory is non-finite (R36, R327) -/
  nonfinAt : Option Nat := none
  /-- the completion's payload needs a pool buffer; the buffer held for it since the issue (R261) -/
  big : Bool := false
  buffer : Option Nat := none
  /-- the destination blocks of a `copy` credited to its gauge (R201) -/
  credited : List Nat := []
  /-- the cause that holds it in the replay queue (R332), and the faulting address -/
  held : Option Nat := none
  fva : Nat := 0
  /-- it has reached the sequencer, and has been ordered there (R293, R295) -/
  atSeq : Bool := false
  ordered : Bool := false
  deriving DecidableEq, Repr

/-- What an issued firing does at its commit (R60). `st`, `banks` and `scratch` are the slot state, the banks and the
scratchpad bytes (offset, length, value) that it writes then; R44 forwards them to every firing that issues before. -/
structure Firing where
  slot : Nat
  tag : Nat
  due : Nat
  st : Option Nat := none
  banks : List (Nat × Bank) := []
  scratch : List (Nat × Nat × Nat) := []
  outs : List OutTok := []
  flags : Flags := 0
  recs : List FRec := []
  /-- a record of this firing originates poison: its FIDX is drawn at the commit (R325) -/
  origin : Bool := false
  win : List WinMsg := []
  gauge : List GaugeOp := []
  access : Option Access := none
  signal : Option Nat := none
  /-- pool buffers drawn for formed or forwarded payloads, freed once the payload has left (R261) -/
  bufs : List Nat := []
  /-- issue number: tokens of one channel leave in issue order (R45) -/
  ord : Nat := 0
  deriving DecidableEq, Repr

/-- A loop-nest unit (R184): the program and the induction variables. -/
structure LoopNest where
  prog : Nat := 0
  v : List Nat := [0, 0, 0, 0, 0, 0]
  exhausted : Bool := true
  deriving DecidableEq, Repr

/-- A token that a commit has handed to injection in clk `since` and that has not left (R45). `buf` is the pool buffer that
it holds until its last beat has left on its last channel (R261). `owes`: its firing reserved one unit on the channel for
an earlier token, and this one takes a unit when it leaves (R57, log entry 18). `slot` is the slot that sends it. -/
structure InjTok where
  chan : Nat
  tok : Token
  slot : Nat := 0
  buf : Option Nat := none
  since : Nat := 0
  owes : Bool := false
  /-- issue number; none for a completion token, which R45 does not order -/
  ord : Option Nat := none
  deriving DecidableEq, Repr

/-- A translation held by a port, a core or a walker (R386): page base, log2 of the page size, leaf entry. -/
structure TlbEnt where
  base : Nat
  size : Nat
  entry : Nat
  /-- a remote translation (R321): the lane group that it came from, and its EPOCH -/
  far : Option (Nat × Nat) := none
  deriving DecidableEq, Repr

/-- The port of a stack element (R42): accesses from oldest to youngest, loop-nest units, layout cache, translation
cache. -/
structure Port where
  accs : List Access := []
  nests : List (Nat × LoopNest) := []
  layc : List (Nat × Nat) := []
  tlb : List TlbEnt := []
  deriving DecidableEq, Repr

/-- An element of a region as the running pour configures it (R41). -/
structure Elem where
  /-- 0 compute e(x,y), 1 stack m(v,p), 2 link-side ls(k,i) -/
  kind : Nat := 0
  x : Nat := 0
  y : Nat := 0
  cfg : ElemCfg := {}
  consts : List Nat := []
  states : List Nat := []
  preds : Nat := 0x8000
  sets : List MSet := []
  heads : List (Nat × List Held) := []
  /-- one flag for each receive entry (R91) -/
  eosFlags : Nat := 0
  /-- the tag of the EOS that set each flag, and the clk since which it waits for no data set (R58, R92) -/
  eosTags : List (Nat × Nat × Nat) := []
  banks : List Bank := [{}, {}, {}, {}]
  flags : Flags := 0
  gauges : List Gauge := []
  /-- the clk of the last gauge firing, the gauges before its clk's firings, and their changes (R204) -/
  gaugeOwn : Option (Nat × List Gauge × List GaugeOp) := none
  scratch : List Host.Cell := []
  /-- pool buffers and spill slots held (R261) -/
  poolHeld : List Nat := []
  spillHeld : List Nat := []
  /-- pool buffers held until a clk: operands under way into the tile array (Table 6.5), payloads just sent (R261) -/
  freeing : List (Nat × Nat) := []
  /-- the clk of each bank's last commit, and whether a matrix firing's (R154) -/
  bankDone : List (Nat × Nat × Bool) := []
  pending : List Firing := []
  inject : List InjTok := []
  /-- copies of the oldest live iterations: (body, number of its live copy), iteration (R94) -/
  oldest : List ((Nat × Nat) × Nat) := []
  port : Port := {}
  /-- the clk of the last issue, and of the last issue to each unit (R43, R58) -/
  lastIssue : Option Nat := none
  unitFree : List Nat := [0, 0, 0, 0, 0, 0, 0, 0]
  /-- the clk from which the injector is free (R45) -/
  injFree : Nat := 0
  /-- uncorrectable words of the element's SRAM: a scratchpad word address, or control state (R406) -/
  badWords : List Nat := []
  badCtrl : Option Nat := none
  deriving DecidableEq, Repr

end Sys2Proof.Machine
end

