-- ==== Sys2Proof/Machine/RegionState.lean ====
section
/-! DEFINITION. What a region holds (spec/09: R236, R251; spec/10: R253, R254; spec/12: R293, R301; spec/14: R328;
spec/18: R359 to R367; channels spec/02: R57, spec/03: R75 to R79). -/

namespace Sys2Proof.Machine

/-- One hop of a route (R360): virtual router, output port, input port, KIND, map of wheel indices owned. -/
structure Hop where
  x : Nat
  y : Nat
  out : Nat
  inp : Nat
  kind : Nat
  map : Nat
  deriving DecidableEq, Repr

/-- An end of a channel: an element of the region by index, the kettle cores' `inj`, or a lane group 4k + n. -/
inductive ChEnd where
  | elem (e : Nat)
  | inj
  | link (g : Nat)
  | none
  deriving DecidableEq, Repr

/-- A token on its way: the hop it waits at and the beats of it that this hop has sent (R77, R78). `since` is the clk at
which it reached the hop. -/
structure Flight where
  tok : Token
  hop : Nat := 0
  sent : Nat := 0
  since : Nat := 0
  deriving DecidableEq, Repr

/-- An acknowledgement on its way back: hops still to cross and count, 1 to 15 (R79). -/
structure AckFlight where
  hops : Nat
  count : Nat
  deriving DecidableEq, Repr

/-- A channel of the running pour, by its physical number: the region's channel base and its number in the image (R364). -/
structure Chan where
  num : Nat
  src : ChEnd := .none
  dst : ChEnd := .none
  quota : Nat := 0
  mist : Bool := false
  hops : List Hop := []
  reserved : Nat := 0
  outstanding : Nat := 0
  /-- oldest first -/
  flights : List Flight := []
  /-- tokens that have reached the receiver and are not placed, oldest first -/
  arrived : List Token := []
  acks : List AckFlight := []
  /-- the format and kind that step 5 fixed (R245): the admissible (FMT, PKIND) pairs; `none` admits all -/
  fmts : Option (List (Nat × Nat)) := none
  /-- inj: formats refused because a conversion under SR would hold them exactly (R245, R28) -/
  refuse : List Nat := []
  /-- inj: an EOS has been sent in this pour (R244) -/
  eosDone : Bool := false
  /-- clk of the last acknowledgement sideband of each hop (R79) -/
  ackAt : List (Nat × Nat) := []
  deriving DecidableEq, Repr

/-- A body descriptor (Table 10.1). -/
structure Body where
  num : Nat
  dyn : Bool
  frame : Bool
  logw : Nat
  k : Nat
  c : Nat
  deriving DecidableEq, Repr

/-- The retirement state of one live copy of a body at its home (R104, R254): 0 free, 1 live, 2 free pending;
oldest live iteration; counts by iteration mod W. -/
structure Inst where
  st : Nat := 0
  oldest : Nat := 0
  counts : List Nat := []
  deriving DecidableEq, Repr

/-- A body's state at its home element (R94, R100). -/
structure BodySt where
  desc : Body
  alloc : Nat := 0
  insts : List Inst := []
  deriving DecidableEq, Repr

/-- A window message on its way to the home (R94): the element, slot and tag of the firing that sent it. -/
structure MsgFlight where
  src : Nat
  slot : Nat := 0
  tag : Nat := 0
  msg : WinMsg
  deriving DecidableEq, Repr

/-- A broadcast of the home on its way to one element (R94, R255): an advance of an oldest live iteration, or a free. -/
structure BcastFlight where
  dst : Nat
  body : Nat
  inst : Nat
  free : Bool
  oldest : Nat := 0
  deriving DecidableEq, Repr

/-- An entry of the `.link` section (R360, Table 13.2). -/
structure LinkBind where
  form : Nat
  k : Nat
  n : Nat
  mist : Bool
  send : Nat
  recv : Nat
  altk : Nat
  altn : Nat
  v : Nat
  s : Nat
  t : Nat
  deriving DecidableEq, Repr

/-- A variant of a pour (Table 18.2). -/
structure Variant where
  foot : Nat
  pol : Nat
  force : Nat
  w : Nat
  h : Nat
  nr : Nat
  size : Nat
  carry : List (Nat × Nat × Nat)
  /-- kind, x, y and configuration of each element record, in image order -/
  elems : List (Nat × Nat × Nat × ElemCfg)
  routes : List (Nat × List Hop)
  deriving DecidableEq, Repr

/-- A parsed image (R359, R360). -/
structure Image where
  fmaj : Nat := 0
  fmin : Nat := 0
  keyslot : Nat := 0
  size : Nat := 0
  regw : Nat := 0
  regh : Nat := 0
  npour : Nat := 0
  dlim : Nat := 0
  famark : Nat := 0
  mistmark : Nat := 0
  bodies : List Body := []
  layouts : List (Nat × Nat) := []
  /-- X, Y, SE, g, TARGET -/
  gauges : List (Nat × Nat × Nat × Nat × Nat) := []
  /-- V, first port, last port -/
  vstacks : List (Nat × Nat × Nat) := []
  links : List LinkBind := []
  pours : List (List Variant) := []
  deriving DecidableEq, Repr

/-- The running state of SHAKE256 (R301): the 1,600-bit state and the bytes absorbed so far. -/
structure Sponge where
  state : Nat := 0
  absorbed : Nat := 0
  deriving DecidableEq, Repr

/-- What one access wrote in one 64-byte line: the line's virtual address, the byte mask, the line's bytes as a
little-endian number (R301). -/
structure DigLine where
  va : Nat
  mask : Nat
  data : Nat
  deriving DecidableEq, Repr

/-- The digest record of one ordered access: its number, whether it has been performed, its lines (R301). -/
structure DigRec where
  seqo : Nat
  full : Bool := false
  lns : List DigLine := []
  deriving DecidableEq, Repr

/-- The staging copy of an image under way (R359): the bytes copied so far as a little-endian number, how many they are, and
whether the copy met a page that it could not read. -/
structure ImgCopy where
  bytes : Nat := 0
  len : Nat := 0
  bad : Bool := false
  deriving DecidableEq, Repr

/-- What a region's controller has under way (R240, R247). -/
inductive Job where
  | load (img place : Nat)
  | save (area : Nat)
  | evict (area : Nat)
  | restore (place area : Nat)
  deriving DecidableEq, Repr

/-- A region by its handle (R236). -/
structure Region where
  /-- 0 UNARMED, 1 ARMED, 2 RUNNING, 3 DRAINING, 4 DONE, 5 STOPPED, 6 SAVED -/
  st : Nat := 0
  load : Bool := false
  cutp : Bool := false
  shrp : Bool := false
  foot : Nat := 0
  pour : Nat := 0
  launch : Nat := 0
  rcause : Nat := 0
  brken : Bool := false
  rflags : Flags := 0
  fltlost : Nat := 0
  faultq : List Nat := []
  place : Nat := 0
  imgAddr : Nat := 0
  img : Image := {}
  chBase : Nat := 0
  /-- wheel rotation of (channel, die) (R364) -/
  rots : List ((Nat × Nat) × Nat) := []
  elems : List Elem := []
  chans : List Chan := []
  bodies : List BodySt := []
  msgs : List MsgFlight := []
  bcasts : List BcastFlight := []
  /-- frees not acknowledged yet: body, number of the live copy, elements still to acknowledge (R255) -/
  frees : List ((Nat × Nat) × List Nat) := []
  origin : Nat := 0
  frontier : Nat := 0
  /-- passes of F through 2^24 in this pour, and the clk of the last ordering (R292, R293) -/
  wraps : Nat := 0
  seqClk : Option Nat := none
  digest : Sponge := {}
  /-- digest records of ordered accesses waiting for their turn, in sequence order: number, complete, and each line's
  virtual address, byte mask and bytes (R301) -/
  digq : List DigRec := []
  idleBase : Nat := 0
  launchClk : Nat := 0
  /-- state to resume; W0 of the first record of the stop, and that record's place among those of its clk (R337) -/
  resumeSt : Nat := 2
  stopW0 : Nat := 0
  stopKey : Nat := 0
  /-- a stopping cause has been met; the clk of the broadcast, once sent -/
  stopping : Bool := false
  bcastClk : Option Nat := none
  /-- causes whose record is written in this stop: cause, element, slot, tag, channel or access (R328) -/
  recorded : List (Nat × Nat × Nat × Nat × Nat) := []
  /-- the candidate that PASS lets issue once: element, slot, tag (R243, R112) -/
  pass : Option (Nat × Nat × Nat) := none
  stopAt : Option (Nat × Nat × Nat) := none
  nfront : Nat := 0
  /-- ports that hold a faulting access in this stop: element, frontier block (R333) -/
  fronts : List (Nat × Nat) := []
  shadow : Option Nat := none
  shrink : Nat := 0
  rdrain : Option Nat := none
  eosInj : List Nat := []
  signals : Nat := 0
  job : Option Job := none
  /-- the load of the handle that ended last failed, and none has begun since (R373) -/
  failed : Bool := false
  /-- the Infuser's copy of the image, of a load or a restore (R359) -/
  copy : ImgCopy := {}
  /-- the pour has ended and the next has not begun (R270, R367) -/
  between : Bool := false
  /-- the region is launched and its first pour has not started (R77) -/
  starting : Bool := false
  /-- lost lane groups and the spares that took over their bindings (R323) -/
  spares : List (Nat × Nat) := []
  /-- by lane group, the tokens sent into it that its far receiver has not passed on (R311) -/
  linkOwed : List (Nat × Nat) := []
  /-- gauges of elements that the running pour does not hold (R203): kind, x, y -/
  parked : List ((Nat × Nat × Nat) × List Gauge) := []
  /-- slots whose EOS has left, for the sequencer (R295): element, slot -/
  eosLeft : List (Nat × Nat) := []
  deriving DecidableEq, Repr

/-- The number in the image of a channel of a region, as records, reports, taps, saved state and `inj` give it (R364). -/
def regChan (g : Region) (ch : Nat) : Nat := ch - g.chBase

end Sys2Proof.Machine
end

