-- ==== Sys2Proof/Machine/Keccak.lean ====
section
/-! DEFINITION. SHAKE256 (spec/12: R301; spec/18: R361; spec/23: R416, R418) and the verification of an XMSS signature with
the parameters XMSS-SHAKE256_20_256 of NIST SP 800-208 (spec/18: R361). Byte strings are numbers read little-endian. -/

namespace Sys2Proof.Machine

/-- The round constants of Keccak-f[1600]. -/
def keccakRc : List Nat :=
  [0x1, 0x8082, 0x800000000000808A, 0x8000000080008000, 0x808B, 0x80000001, 0x8000000080008081, 0x8000000000008009,
   0x8A, 0x88, 0x80008009, 0x8000000A, 0x8000808B, 0x800000000000008B, 0x8000000000008089, 0x8000000000008003,
   0x8000000000008002, 0x8000000000000080, 0x800A, 0x800000008000000A, 0x8000000080008081, 0x8000000000008080, 0x80000001,
   0x8000000080008008]

/-- The rotation of lane x + 5y. -/
def keccakRot : List Nat :=
  [0, 1, 62, 28, 27, 36, 44, 6, 55, 20, 3, 10, 43, 25, 39, 41, 45, 15, 21, 8, 18, 2, 61, 56, 14]

/-- A 64-bit rotation to the left. -/
def rotl64 (x n : Nat) : Nat := Nat.lor (x * 2 ^ n % 2 ^ 64) (x / 2 ^ (64 - n))

/-- One round. -/
def keccakRound (a : List Nat) (rc : Nat) : List Nat :=
  let at_ (l : List Nat) (x y : Nat) : Nat := nth l (x % 5 + 5 * (y % 5)) 0
  let col := (List.range 5).map fun x => (List.range 5).foldl (fun s y => Nat.xor s (at_ a x y)) 0
  let d (x : Nat) : Nat := Nat.xor (nth col ((x + 4) % 5) 0) (rotl64 (nth col ((x + 1) % 5) 0) 1)
  let a := (List.range 25).map fun i => Nat.xor (nth a i 0) (d (i % 5))
  let b := (List.range 25).map fun i =>
    let j := (i % 5 + 3 * (i / 5)) % 5 + 5 * (i % 5)
    rotl64 (nth a j 0) (nth keccakRot j 0)
  let c := (List.range 25).map fun i =>
    Nat.xor (nth b i 0) (Nat.land (2 ^ 64 - 1 - at_ b (i % 5 + 1) (i / 5)) (at_ b (i % 5 + 2) (i / 5)))
  modNth c 0 fun x => Nat.xor x rc

/-- Keccak-f[1600] on the 1,600-bit state. -/
def keccakF (s : Nat) : Nat := packLanes 64 (keccakRc.foldl keccakRound (lanes 64 25 s))

/-- The bytes of a block of SHAKE256. -/
def shakeRate : Nat := 136

/-- One byte absorbed. -/
def Sponge.byte (p : Sponge) (b : Nat) : Sponge :=
  let k := p.absorbed % shakeRate
  let s := Nat.xor p.state (b % 256 * 2 ^ (8 * k))
  { state := if k = shakeRate - 1 then keccakF s else s, absorbed := p.absorbed + 1 }

/-- n bytes of a number absorbed, lowest first. -/
def Sponge.absorb (p : Sponge) : Nat → Nat → Sponge
  | 0, _ => p
  | n + 1, v => (p.byte (v % 256)).absorb n (v / 256)

/-- The first 32 bytes of the output. -/
def Sponge.digest (p : Sponge) : Nat :=
  let k := p.absorbed % shakeRate
  keccakF (Nat.xor (Nat.xor p.state (0x1F * 2 ^ (8 * k))) (0x80 * 2 ^ (8 * (shakeRate - 1)))) % 2 ^ 256

/-- SHAKE256 of a list of byte strings, each with its length: 32 bytes. -/
def shake256 (parts : List (Nat × Nat)) : Nat :=
  (parts.foldl (fun (p : Sponge) x => p.absorb x.1 x.2) { state := 0, absorbed := 0 }).digest

/-- x as n bytes with the highest first. -/
def bigEndian (n x : Nat) : Nat := ofBytes (bytesOf n x).reverse

/-- A hash address of eight words. -/
def xmssAdrs (ws : List Nat) : Nat := packLanes 32 (ws.map (bigEndian 4))

/-- The keyed functions of XMSS with n = 32, by their number: 0 F, 1 H, 3 PRF. -/
def xmssHash (k key n m : Nat) : Nat := shake256 [(32, bigEndian 32 k), (32, key), (n, m)]

/-- A pseudorandom value for an address. -/
def xmssPrf (seed : Nat) (ws : List Nat) : Nat := xmssHash 3 seed 32 (xmssAdrs ws)

/-- Step i of chain ch of WOTS+. -/
def wotsStep (seed ots ch i x : Nat) : Nat :=
  let key := xmssPrf seed [0, 0, 0, 0, ots, ch, i, 0]
  let bm := xmssPrf seed [0, 0, 0, 0, ots, ch, i, 1]
  xmssHash 0 key 32 (Nat.xor x bm)

/-- `n` steps, numbered from i. -/
def chainSteps (step : Nat → Nat → Nat) : Nat → Nat → Nat → Nat
  | 0, _, x => x
  | n + 1, i, x => chainSteps step n (i + 1) (step i x)

/-- The chain function of WOTS+: `n` steps from step i. -/
def wotsChain (seed ots ch n i x : Nat) : Nat := chainSteps (wotsStep seed ots ch) n i x

/-- Two nodes hashed to their parent under an address without its last word. -/
def xmssJoin (seed : Nat) (ws : List Nat) (l r : Nat) : Nat :=
  let f (k : Nat) : Nat := xmssPrf seed (ws ++ [k])
  xmssHash 1 (f 0) 64 (Nat.xor l (f 1) + 2 ^ 256 * Nat.xor r (f 2))

/-- One level of an L-tree: pairs joined, an odd last node lifted. -/
def ltreeLevel (seed ots h : Nat) : Nat → List Nat → List Nat
  | i, a :: b :: r => xmssJoin seed [0, 0, 0, 1, ots, h, i] a b :: ltreeLevel seed ots h (i + 1) r
  | _, l => l

/-- The root of an L-tree, within `fuel` levels. -/
def ltree (seed ots : Nat) : Nat → Nat → List Nat → Nat
  | 0, _, l => l.headD 0
  | fuel + 1, h, l => if l.length ≤ 1 then l.headD 0 else ltree seed ots fuel (h + 1) (ltreeLevel seed ots h 0 l)

/-- The 67 digits in base 16 of a digest and its checksum. -/
def wotsDigits (d : Nat) : List Nat :=
  let ds := (List.range 64).map fun i => bits (byteRange d (i / 2) 1) (if i % 2 = 0 then 7 else 3) (if i % 2 = 0 then 4 else 0)
  let c := (ds.map fun x => 15 - x).sum
  ds ++ [c / 256 % 16, c / 16 % 16, c % 16]

/-- The path from a leaf to the root, within the levels of an authentication path. -/
def xmssPath (seed idx : Nat) : Nat → List Nat → Nat → Nat
  | _, [], x => x
  | h, a :: r, x =>
    let ws := [0, 0, 0, 2, 0, h, idx / 2 ^ (h + 1)]
    xmssPath seed idx (h + 1) r (if idx / 2 ^ h % 2 = 0 then xmssJoin seed ws x a else xmssJoin seed ws a x)

/-- Bytes of an XMSS signature (R359). -/
def sigBytes : Nat := 2820

/-- An XMSS signature over the n bytes of a message holds under a key: root, then public seed (Table 23.1). -/
def xmssVerify (key n msg sig : Nat) : Bool :=
  let root := byteRange key 0 32
  let seed := byteRange key 32 32
  let idx := bigEndian 4 (byteRange sig 0 4)
  let r := byteRange sig 4 32
  let m := shake256 [(32, bigEndian 32 2), (32, r), (32, root), (32, bigEndian 32 idx), (n, msg)]
  let ends := (wotsDigits m).zipIdx.map fun q => wotsChain seed idx q.2 (15 - q.1) q.1 (byteRange sig (36 + 32 * q.2) 32)
  let leaf := ltree seed idx 8 0 ends
  idx < 2 ^ 20 && xmssPath seed idx 0 ((List.range 20).map fun k => byteRange sig (2180 + 32 * k) 32) leaf == root

end Sys2Proof.Machine
end

