-- ==== Sys2Proof/Config.lean ====
section
/-! DEFINITION. What an implementation fixes and the spec leaves open: constants with no body, so that no proof can use a
value of them (the assumption log names each). -/

namespace Sys2Proof

/-- Which of the 16 entries of a 64 KiB block a walk uses when they differ: any of them (spec/20: R385). The argument
is the model's counter of free values. -/
opaque Config.leafChoice : Nat → BitVec 4

/-- Which of the two admissible neighbours a faithful form returns, true for the one above (spec/07: R172): by opcode,
format code with FTZ, operand bits. The choice is fixed for an implementation. -/
opaque Config.faithfulUp : Nat → Nat → Nat → Bool

/-- Whether a fused 0 × ∞ plus a quiet NaN raises INVALID: IEEE 754, to which R122 refers, leaves it to the
implementation. -/
opaque Config.madNanInvalid : Bool

/-- Whether a faithful lane raises OVERFLOW (bit 1) and UNDERFLOW (bit 0): each may be raised or not (spec/07: R172). By
opcode, format code with FTZ, operand bits. -/
opaque Config.faithfulFlags : Nat → Nat → Nat → BitVec 2

/-- The FP32 arguments of a correctly rounded function that go to the second phase (spec/07: R169): by opcode, effective
mode and FTZ. The set is fixed and not published; only commit times depend on it. The model takes as many of the list as
Table 7.5 allows. -/
opaque Config.undecided : Nat → Nat → Bool → List Nat

/-- The scale byte of an MX tile that EOSM's PAD forms of the slot constant (spec/04: R93; spec/06: R163): the spec gives
its elements and no scale. -/
opaque Config.padScale : BitVec 8

/-- The module device key's signature over an attestation quote, by its one-time index and the quote's bytes
(spec/23: R418). -/
opaque Config.quoteSig : Nat → Nat → BitVec 22560

/-- The bytes of a firmware image that the flash holds, where the spec gives no image (spec/23: R416). -/
opaque Config.firmwareByte : Nat → Byte

/-- A byte that a port reads from a line that no code corrects (spec/22: R405: poisoned data), by the model's counter of
free values and the byte's physical address. -/
opaque Config.badByte : Nat → Nat → Byte

/-- Which of the requests or pieces that a target may perform next it performs (spec/13: R319; spec/11: R274), by the model's
counter of free values. -/
opaque Config.farPick : Nat → Nat

/-- DIGEST of a record that the scheduler journals (spec/23: Table 23.3 gives it to the runtime's records alone), by the
model's counter of free values. -/
opaque Config.journalDigest : Nat → BitVec 256

/-- The quota that a `.chan` line gives a channel that ends at a lane group (spec/13: R310, R311): the image has no place for
it. By the variant's SIZE, the lane group and the channel. -/
opaque Config.sendQuota : Nat → Nat → Nat → Nat

/-- The bank and row in which a 64-byte line of HBM lies in its stack, as Table 23.2 writes them: the spec gives no address map
of the DRAM (spec/22: R412; spec/23: Table 23.2). -/
opaque Config.dramRow : Nat → BitVec 32

/-- A trace beat waits at an output of a router (die, x, y; output) in a clk (spec/03: R77): a free value, since no rule gives
trace beats their way to the ring. -/
opaque Config.traceWaits : Nat → Nat × Nat × Nat → Nat → Bool

end Sys2Proof
end

