-- ==== Sys2Proof/Machine/State.lean ====
section
/-! DEFINITION. The state of the module: kettle cores, partitions, lane groups, memories; the two ways a step can stop;
the state after reset (spec/00: R1, R5, R9; spec/09: R210, R213, R226; spec/20: R383, R393; spec/23: R416). -/

namespace Sys2Proof.Machine

/-- A place in a kettle core's memory that the monitor watches, by 64-byte line (R233). -/
inductive MonLine where
  /-- a line of the core's local memory -/
  | loc (line : Nat)
  /-- a line of physical memory -/
  | phys (line : Nat)
  deriving DecidableEq, Repr

/-- A wait under way, with the kettle cycle in which it began (R234, R235). -/
inductive Wait where
  | kwait (d a : KReg) (since : Nat)
  | gwaitk (d a b : KReg) (since : Nat)
  deriving DecidableEq, Repr

/-- A plain store that is not performed yet (R221): physical address, bytes, value. -/
structure BufStore where
  pa : Nat
  n : Nat
  val : Nat
  deriving DecidableEq, Repr

/-- A kettle core (R210, R212, Table 9.6). -/
structure Core where
  regs : Vector Word64 32
  pc : Word64
  lmem : List Host.Cell
  status : Word64
  cause : Word64
  epc : Word64
  tval : Word64
  ftvec : Word64
  rtvec : Word64
  tdeleg : Word64
  ien : Word64
  event : Word64
  mona : Word64
  wlimit : Word64
  timecmp : Word64
  rsel : Word64
  revt : Word64
  scrubu : Word64
  scratch : Vector Word64 4
  monitor : Option MonLine
  wait : Option Wait
  tlb : List TlbEnt
  /-- plain stores not performed yet, oldest first (R221) -/
  buf : List BufStore
  /-- 64-byte lines of local memory with an uncorrectable error (R406) -/
  badLocal : List Nat
  /-- 64-byte lines of physical memory that its cache holds with an uncorrectable error (R406) -/
  badCache : List Nat
  started : Bool
  deriving DecidableEq, Repr

/-- An entry of the launch table (R208): 0 pending, 1 done, 2 aborted; `sys`: every store is performed at `.sys`. -/
structure LaunchEnt where
  id : Nat
  st : Nat
  sys : Bool := false
  handle : Nat := 0
  deriving DecidableEq, Repr

/-- An invalidation request that the hardware has taken (R387). -/
structure InvalReq where
  all : Bool
  vpn : Nat
  npages : Nat
  deriving DecidableEq, Repr

/-- An ingress descriptor as last read, with what the hardware counts (Table 20.3). -/
structure Ingress where
  w0 : Nat := 0
  w1 : Nat := 0
  w2 : Nat := 0
  bytes : Nat := 0
  rej : Nat := 0
  gdrop : Nat := 0
  fva : Nat := 0
  deriving DecidableEq, Repr

/-- A Weathervane block as last read, what the hardware counts, and the die's trace FIFO (Table 20.5, R398). -/
structure WVane where
  taps : List Nat := []
  rbase : Nat := 0
  rsize : Nat := 0
  rhead : Nat := 0
  rtail : Nat := 0
  drops : Nat := 0
  cen : Bool := false
  /-- records taken and not yet written: bytes and length -/
  fifo : List (Nat × Nat) := []
  deriving DecidableEq, Repr

/-- A host or peer request that is performed line by line (R274, R388 to R392): a write or a read at a physical address, the
ones of its lines that are still to come, the window that it came through, the port that its completion takes. -/
structure Inbound where
  write : Bool
  /-- an ingress window, or the aperture -/
  win : Option Nat := none
  va : Nat
  pa : Nat
  n : Nat
  data : Nat := 0
  /-- the requester of an ingress request -/
  rq : Option Nat := none
  /-- Relaxed Ordering that its window honours (R392) -/
  relaxed : Bool := false
  port : Nat := 0
  /-- physical lines still to come -/
  todo : List Nat
  /-- a line was uncorrectable (R405) -/
  bad : Bool := false
  deriving DecidableEq, Repr

/-- A partition (R9, R393). -/
structure Part where
  ptbase : Nat := 0
  apbase : Nat := 0
  hrejW : Nat := 0
  hrejR : Nat := 0
  almbase : Nat := 0
  almseq : Nat := 0
  /-- Almanac records taken: sequence number, performed at `.mod` (R420) -/
  almq : List (Nat × Bool) := []
  regions : List (Nat × Region) := []
  launches : List LaunchEnt := []
  inval : Option InvalReq := none
  invalSeq : Nat := 0
  ingress : List (Nat × Ingress) := []
  wvane : List (Nat × WVane) := []
  errNext : Nat := 0
  /-- dispatch entries with a write that the scheduler has noticed (R371) -/
  noticed : List Nat := []
  /-- grace timers: victim entry, ns at which GRACE expires (R380) -/
  grace : List (Nat × Nat) := []
  /-- the entry for which each victim was last told to shrink: victim, entry (R380) -/
  graceFor : List (Nat × Nat) := []
  /-- victims whose grace has expired (R380) -/
  expired : List Nat := []
  /-- victims that the scheduler has told to evict (R380) -/
  evicting : List Nat := []
  /-- posted TLPs held by the host port for the partition (R394) -/
  posted : Nat := 0
  /-- the host port performs the partition's requests line by line from now on (R274) -/
  byLine : Bool := false
  /-- requests under way, in the order of their arrival -/
  inbound : List Inbound := []
  inReset : Bool := false
  deriving DecidableEq, Repr

/-- A flit (R305, R306): 256 data bytes and the 128-bit sideband, little-endian. -/
structure Flit where
  data : Nat := 0
  side : Nat := 0
  deriving DecidableEq, Repr

/-- What a request gives back (R318, log entry 13): STAT, POISON, VMASK less the blocks lost, scalar or old value, payload and its
bytes, flags, the first non-finite result, and the lines of the first byte's page that no code corrects. -/
structure FarAns where
  stat : Nat := 0
  poison : Bool := false
  vmask : Nat := 0xFFFF
  scalar : Nat := 0
  data : Nat := 0
  bytes : Nat := 0
  flags : Flags := 0
  nonfin : Option Nat := none
  badLines : Nat := 0
  deriving DecidableEq, Repr

/-- A token, request or reply whose payload positions are being resolved at a lane group's receiver (R307, R308, R315):
FKIND, the header flit's data, whether its payload travels mist, blocks received and lost, and the blocks still to come. Of a
request that is being performed, the lines still to perform and what they have given so far (R274). -/
structure RxUnit where
  fkind : Nat
  data : Nat
  mist : Bool := false
  blocks : List (Nat × Nat) := []
  lost : List Nat := []
  todo : List Nat := []
  lns : Option (List Nat) := none
  ans : FarAns := {}
  deriving DecidableEq, Repr

/-- A remote piece whose request has been queued and whose reply has not come (R318, R319): the port, the access by its
name, the piece, and the source port and stream that the reply carries. -/
structure FarWait where
  loc : Loc
  id : Nat
  piece : Nat
  key : Nat
  /-- the EPOCH of the translation used (R322) -/
  epoch : Nat
  deriving DecidableEq, Repr

/-- A lane group Ak.gn (R305 to R324). -/
structure Lane where
  up : Bool := true
  lost : Bool := false
  major : Nat := 1
  minor : Nat := 1
  /-- partition, handle and index of the binding in the image's list (R309) -/
  bind : Option (Nat × Nat × Nat) := none
  /-- a launch has asked for a BIND flit, and it has not been sent (R309) -/
  bindDue : Bool := false
  /-- form and class of the far side's BIND flit -/
  bindSeen : Option (Nat × Nat) := none
  /-- FSEQ of the next flit sent for the first time -/
  txSeq : Nat := 0
  /-- control flits without a number of their own, flits to send again, and flits to send for the first time (R314) -/
  urgent : List Flit := []
  resend : List Flit := []
  sendq : List Flit := []
  /-- reliable flits sent and not acknowledged (R314) -/
  replay : List Flit := []
  /-- flits that have left, oldest first: what the far side sees -/
  wire : List Flit := []
  /-- clk at which the last flit left -/
  lastSend : Nat := 0
  /-- FSEQ of the next flit to accept, and the NAKed position (R314) -/
  rxSeq : Nat := 0
  nak : Option Nat := none
  rx : Option RxUnit := none
  /-- tokens resolved and waiting for the recv channel (R311) -/
  rxq : List Token := []
  /-- control flits accepted: kind and operands -/
  ctl : List (Nat × Nat × Nat × Nat) := []
  /-- remote requests and replies resolved, in arrival order (R318, R319) -/
  reqs : List RxUnit := []
  reps : List RxUnit := []
  waits : List FarWait := []
  /-- tokens passed on since the last TCRED report -/
  tcred : Nat := 0
  /-- INVs to answer: first page, pages, clk of arrival; INVs sent: first page, pages, clk (R322) -/
  invs : List (Nat × Nat × Nat) := []
  invsOut : List (Nat × Nat × Nat) := []
  epoch : Nat := 0
  /-- target pages asked for: the port, the page, the port's stack and number as the request carries them (R321) -/
  asked : List (Loc × Nat × Nat) := []
  /-- the lost lane group that this spare stands for (R323) -/
  spareFor : Option Nat := none
  deriving DecidableEq, Repr

/-- An entry of the partition map (Table 23.1). -/
structure PmapEnt where
  dmask : Nat := 0
  half : Nat := 0
  ports : Nat := 0
  valid : Bool := false
  deriving DecidableEq, Repr

/-- What the environment does between two moves: errors that arise in memory and SRAM (R404, R406), the progress of the
host path (R281), and the delay of plain kettle stores (R221). -/
inductive EnvAct where
  /-- an error in one 16-bit symbol of the HBM line at a physical address, which the on-die ECC corrects (layer 0) or leaves to
  the device symbol code (layer 1) -/
  | soft (pa sym layer : Nat)
  /-- an error that neither code corrects in the HBM line at a physical address -/
  | hard (pa : Nat)
  /-- the oldest write in a host port's outbound path reaches its target -/
  | hostDrain (port : Nat)
  /-- the host or a peer writes its own memory: port, bus address, bytes, value -/
  | hostStore (port bus n val : Nat)
  /-- from now on the core delays its plain stores, or not -/
  | hold (core : Nat) (on : Bool)
  /-- the oldest delayed store of a core is performed -/
  | drain (core : Nat)
  /-- an uncorrectable error in the scratchpad word of an element, at a byte offset -/
  | scratchErr (l : Loc) (off : Nat)
  /-- an uncorrectable error in the cells of an accumulator bank -/
  | bankErr (l : Loc) (b : Nat)
  /-- an uncorrectable error in a gauge word or in control state, with its byte offset -/
  | gaugeErr (l : Loc) (off : Nat)
  | ctrlErr (l : Loc) (off : Nat)
  /-- a corrected SRAM error of an element -/
  | sramFix (l : Loc) (off : Nat)
  /-- an uncorrectable error in a line of a core's local memory, or one that its code corrects -/
  | localErr (core line : Nat)
  | localFix (core line : Nat)
  /-- an uncorrectable error in a line that a core's cache holds, or one that its code corrects, by the line's physical address -/
  | cacheErr (core pa : Nat)
  | cacheFix (core pa : Nat)
  /-- an error in the replay buffer of a lane group, at a byte offset, or one that its code corrects -/
  | replayErr (g off : Nat)
  | replayFix (g off : Nat)
  /-- an uncorrectable error of a payload beat, by its number, of token n on its way on a mist channel -/
  | meshErr (r : Rgn) (ch n beat : Nat)
  /-- posted TLPs that a host port holds for a partition -/
  | posted (p n : Nat)
  /-- from now on the host port performs a partition's requests line by line, or whole -/
  | byLine (p : Nat) (on : Bool)
  /-- the next line of request k of a partition, which its order admits, is performed: the j-th of those to come -/
  | inPiece (p k j : Nat)
  /-- a PCIe configuration read of the vendor-specific extended capability of a partition's function -/
  | configRead (p port : Nat)
  /-- the firmware begins to write a new image to the flash, which it has verified, and completes it -/
  | flashBegin (img : List Byte)
  | flashEnd
  /-- the sag that a die's sensors saw is over -/
  | sagOver (d : Nat)
  /-- a die whose clock is stretched falls n clk behind the others -/
  | lag (d n : Nat)
  /-- an access activates a row of a stack -/
  | activate (st : Nat)
  /-- the Infuser copies the next n bytes of the image that a region loads or restores (R359) -/
  | stage (r : Rgn) (n : Nat)
  /-- a refresh of a bank is postponed -/
  | postpone (st b : Nat)
  deriving DecidableEq, Repr

/-- Which agent moves. -/
inductive Act where
  /-- a kettle core executes one instruction, takes an asynchronous trap, or looks at what it waits for -/
  | core (c : BitVec 5)
  /-- an element issues at most one firing (R58) -/
  | fire (l : Loc)
  /-- one of the table's steps that no word encodes -/
  | ev (i : Instr)
  deriving DecidableEq, Repr

/-- One move: the wall time, fabric clk and kettle cycles that pass before it, what the environment does, who moves. -/
structure Turn where
  ns : Nat := 0
  clk : Nat := 0
  kcyc : Nat := 0
  env : List EnvAct := []
  act : Act
  deriving DecidableEq, Repr

/-- What an element's select unit has chosen (R58): the element, the slot, the tag, which positions are EOS heads
that PAD or TRUNC reads, and how the candidate fires. -/
inductive Mode where
  | data
  | eos
  | trunc
  | mismatch
  deriving DecidableEq, Repr

/-- The chosen candidate. `mergeB`: merge forwards its operand b (R98). -/
structure Focus where
  loc : Loc
  slot : Nat
  tag : Nat
  mode : Mode
  mergeB : Bool := false
  deriving DecidableEq, Repr

/-- An entry of a die walker's cache (R386): the table that a non-leaf entry of a level gives for a partition's addresses of one
index path. -/
structure WalkEnt where
  part : Nat
  lv : Nat
  base : Nat
  table : Nat
  deriving DecidableEq, Repr

/-- The module. -/
structure State where
  powered : Bool
  ns : Nat
  clk : Nat
  kcyc : Nat
  /-- HBM by physical address (R383) -/
  hbm : List Host.Cell
  /-- host and peer memory by bus address, the same through both host ports (R383, log entry 3) -/
  hostMem : List Host.Cell
  /-- writes on the ordered path of a host port that have not reached their target, oldest first: port, bus address,
  bytes, value (R281) -/
  hostOut : List (Nat × Bool × BufStore)
  /-- lines of HBM that are uncorrectable, and lines with correctable errors: line address, masks of the symbols that the on-die
  ECC corrects and of those that it leaves to the device symbol code (R404, R405) -/
  badLines : List Nat
  softLines : List (Nat × Nat × Nat)
  /-- the non-leaf entries that each die's walker holds, newest first (R386) -/
  walkc : List (List WalkEnt)
  /-- the column repair map of each die: physical column of logical column i (R363) -/
  colmaps : List (List Nat)
  /-- the retirement list (Table 23.2): KIND, D, X, Y, ROW -/
  retired : List (Nat × Nat × Nat × Nat × Nat)
  flash : List Byte
  /-- a write to the flash under way, with the image that it writes; whether the flash holds a valid image (R416) -/
  flashing : Option (List Byte)
  flashOk : Bool
  /-- the root key hash fused into each die (R416) -/
  rootKeys : List Nat
  keys : List Nat
  pmap : List PmapEnt
  bootst : Nat
  /-- Infusers occupied, by die, with the partition and handle they load (R240) -/
  infuser : List (Nat × (Nat × Nat))
  /-- Squall stretch in eighths of a period, and the die's limit, by die (R414, R415) -/
  stretch : List Nat
  /-- the ns at which the last sag of a die ended, none while it lasts (R415), and the clk that a die has fallen behind -/
  sagEnd : List (Option Nat)
  lag : List Nat
  power : List Nat
  slowed : List Nat
  /-- ACTMAX and THROT of each stack; the ns of its activates of the last 1 µs, newest first, and activates that wait; the ns of
  the last sharing of the budget (R409, R410) -/
  isobar : List (Nat × Nat)
  acts : List (List Nat)
  actsHeld : List Nat
  isobarAt : Option Nat
  /-- refreshes postponed: stack, bank, count (R411) -/
  refresh : List ((Nat × Nat) × Nat)
  /-- clk of the last beat of each output: physical router (die, x, y), output (R77) -/
  wheelAt : List (((Nat × Nat × Nat) × Nat) × Nat)
  /-- the next XMSS index of the device key, and the first that firmware has not reserved in flash (R418) -/
  attIndex : Nat
  attEnd : Nat
  /-- ENTRY of the verified firmware image (R213, R416) -/
  entry : Nat
  lanes : List Lane
  cores : Vector Core 32
  parts : Vector Part 16
  /-- cores that delay their plain stores -/
  holding : List Nat
  /-- the model's own: the moves to come, the core a kettle instruction runs on, the chosen candidate, the counter of
  free values, the counter of names -/
  agenda : List Turn
  cur : BitVec 5
  focus : Option Focus
  fresh : Nat
  ids : Nat
  /-- the last completion that a host read or atomic returned: status (0 successful, 1 Unsupported Request, 2 Completer
  Abort) and data (R388, R389) -/
  hostReply : Option (Nat × Nat)
  deriving DecidableEq, Repr

/-- Why a step stops the machine. -/
inductive Fault where
  /-- Raised by `step` on an unpowered module: nothing runs (R5). Safe: no claim about a running machine meets it. -/
  | unpowered
  deriving DecidableEq, Repr

/-- Why a step has no meaning. -/
inductive Refusal where
  /-- Raised by `exec` for an instruction that the model gives no meaning yet. Safe: it stops where the hardware goes on. -/
  | notModelled (mnemonic : String)
  deriving DecidableEq, Repr

/-- A kettle core at boot or partition reset (R213, Table 9.6): firmware level, IE = 0, k1 to k31 zero, at ENTRY. -/
def Core.reset : Core :=
  { regs := Vector.replicate 32 0, pc := 0, lmem := [], status := 1, cause := 0, epc := 0, tval := 0, ftvec := 0,
    rtvec := 0, tdeleg := 0, ien := 0, event := 0, mona := 0, wlimit := 0, timecmp := BitVec.allOnes 64, rsel := 0,
    revt := 0, scrubu := 0, scratch := Vector.replicate 4 0, monitor := none, wait := none, tlb := [], buf := [],
    badLocal := [], badCache := [], started := true }

/-- The module right after reset: powered, its cores started by the boot ROMs, every handle UNARMED, memory with nothing
listed, and the firmware's choices as the assumption log names them. -/
def State.reset : State :=
  { powered := true, ns := 0, clk := 0, kcyc := 0, hbm := [], hostMem := [], hostOut := [], badLines := [],
    softLines := [], walkc := List.replicate 8 [], colmaps := List.replicate 8 (List.range 40), retired := [], flash := [],
    flashing := none, flashOk := true,
    rootKeys := List.replicate 8 0, keys := List.replicate 16 0,
    pmap := { dmask := 255, half := 0, ports := 3, valid := true } :: List.replicate 15 {},
    bootst := 0, infuser := [], stretch := List.replicate 8 0, sagEnd := List.replicate 8 (some 0), lag := List.replicate 8 0, power := List.replicate 8 0, slowed := List.replicate 8 0,
    isobar := List.replicate 24 (256, 0), acts := List.replicate 24 [], actsHeld := List.replicate 24 0, isobarAt := none, refresh := [], wheelAt := [], attIndex := 0, attEnd := 1024, entry := 0, lanes := List.replicate 72 {},
    cores := Vector.replicate 32 Core.reset, parts := Vector.replicate 16 {}, holding := [], agenda := [], cur := 0,
    focus := none, fresh := 0, ids := 0, hostReply := none }

end Sys2Proof.Machine
end

