-- ==== Sys2Proof/Machine/Mem.lean ====
section
/-! DEFINITION. Byte memories in their one canonical form, the physical address map, the monitor and single-copy atomic
accesses (spec/20: R383, R393; spec/09: R233; spec/11: R274, R281; spec/22: R404, R405). -/

namespace Sys2Proof.Machine

/-- The byte at an address; an unlisted address reads 0 (assumptions 1 to 3). -/
def getByte : List Host.Cell → Nat → Byte
  | [], _ => 0
  | (a, b) :: r, x => if a = x then b else if x < a then 0 else getByte r x

/-- A memory with one byte written: addresses stay strictly rising, and a byte of 0 leaves no entry. -/
def setByte : List Host.Cell → Nat → Byte → List Host.Cell
  | [], x, v => if v = 0 then [] else [(x, v)]
  | (a, b) :: r, x, v =>
    if x < a then (if v = 0 then (a, b) :: r else (x, v) :: (a, b) :: r)
    else if x = a then (if v = 0 then r else (x, v) :: r)
    else (a, b) :: setByte r x v

/-- Every address lies above `lo` and above the one before it, and no byte is 0. -/
def wfFrom : Option Nat → List Host.Cell → Bool
  | _, [] => true
  | lo, (a, b) :: r => (match lo with | none => true | some l => decide (l < a)) && b != 0 && wfFrom (some a) r

/-- The canonical form of a memory: addresses strictly rising, no entry that reads as an unlisted address does. -/
def Memory.wf (m : List Host.Cell) : Bool := wfFrom none m

/-- n bytes at an address, little-endian (R13). -/
def readBytes (m : List Host.Cell) (a : Nat) : Nat → Nat
  | 0 => 0
  | n + 1 => (getByte m a).toNat + 256 * readBytes m (a + 1) n

/-- n bytes written at an address, little-endian (R13). -/
def writeBytes (m : List Host.Cell) (a : Nat) : Nat → Nat → List Host.Cell
  | 0, _ => m
  | n + 1, v => writeBytes (setByte m a (BitVec.ofNat 8 v)) (a + 1) n (v / 256)

/-- Bytes written at an address where a mask has a bit set. -/
def writeMasked (m : List Host.Cell) (a : Nat) : Nat → Nat → Nat → List Host.Cell
  | 0, _, _ => m
  | n + 1, v, k => writeMasked (if k % 2 = 1 then setByte m a (BitVec.ofNat 8 v) else m) (a + 1) n (v / 256) (k / 2)

/-- What a physical address reaches (R383). -/
inductive Target where
  | hbm (stack off : Nat)
  | host (port bus : Nat)
  | nothing
  deriving DecidableEq, Repr

/-- Bytes of one HBM stack (R383). -/
def stackBytes : Nat := 96000000000

/-- The physical map (R383). -/
def target (pa : Nat) : Target :=
  if 2 ^ 52 ≤ pa then .nothing
  else if 2 ^ 51 ≤ pa then .host (bits pa 50 50) (bits pa 49 0)
  else if pa / 2 ^ 37 < 24 && pa % 2 ^ 37 < stackBytes then .hbm (pa / 2 ^ 37) (pa % 2 ^ 37)
  else .nothing

/-- The entry of the partition map (Table 23.1). -/
def pmapOf (s : State) (p : Nat) : PmapEnt := nth s.pmap p {}

/-- The dies of a partition, as a mask. -/
def partDies (s : State) (p : Nat) : Nat := if (pmapOf s p).valid then (pmapOf s p).dmask else 0

/-- Stack S of die S/3 belongs to the partition: all three of a whole die, the first two to a west half, the third to
an east half (Table 20.4). -/
def ownsStack (s : State) (p st : Nat) : Bool :=
  bit (partDies s p) (st / 3) &&
  (match (pmapOf s p).half with | 0 => true | 1 => st % 3 < 2 | 2 => st % 3 == 2 | _ => false)

/-- A stack whose stack element is on the retirement list is unreachable (R412). -/
def stackRetired (s : State) (st : Nat) : Bool := s.retired.any fun e => e.1 == 2 && e.2.2.1 == st

/-- Column x of die d belongs to the partition (Table 20.4). -/
def ownsColumn (s : State) (p d x : Nat) : Bool :=
  bit (partDies s p) d && (match (pmapOf s p).half with | 0 => true | 1 => x < 20 | 2 => 20 ≤ x | _ => false)

/-- Core k belongs to the partition (Table 20.4). -/
def ownsCore (s : State) (p k : Nat) : Bool :=
  bit (partDies s p) (k / 4) &&
  (match (pmapOf s p).half with | 0 => true | 1 => k % 4 < 2 | 2 => 2 ≤ k % 4 | _ => false)

/-- The die that holds Abnequa port Ak, and its place among that die's ports (Table of R393). -/
def portDie (k : Nat) : Nat × Nat :=
  nth [(0, 0), (0, 1), (0, 2), (1, 0), (1, 1), (2, 0), (2, 1), (3, 0), (3, 1), (3, 2), (4, 0), (4, 1), (5, 0), (5, 1),
    (6, 0), (6, 1), (7, 0), (7, 1)] k (8, 0)

/-- Abnequa port Ak, with its link-side elements, belongs to the partition: the first and third port of a die to its
west half, the second to its east half (Table 20.4). -/
def ownsLinkPort (s : State) (p k : Nat) : Bool :=
  bit (partDies s p) (portDie k).1 &&
  (match (pmapOf s p).half with | 0 => true | 1 => (portDie k).2 != 1 | 2 => (portDie k).2 == 1 | _ => false)

/-- The first partition among P0 to P15 of which a test holds. -/
def findPart (f : Nat → Bool) : Nat := ((List.range 16).find? f).getD 0

/-- The partition of a core (R213). -/
def corePart (s : State) (k : Nat) : Nat := findPart fun p => ownsCore s p k

/-- A physical address lies in HBM of the partition, on a stack that is not retired. -/
def ownsHbm (s : State) (p pa : Nat) : Bool :=
  match target pa with
  | .hbm st _ => ownsStack s p st && !stackRetired s st
  | _ => false

/-- An access may reach a physical address: HBM of the partition or a host port bound to it (R383, R388). -/
def reachable (s : State) (p pa : Nat) : Bool :=
  match target pa with
  | .hbm st _ => ownsStack s p st && !stackRetired s st
  | .host port _ => bit (pmapOf s p).ports port
  | .nothing => false

/-- The 64-byte line of an address. -/
def lineOf (a : Nat) : Nat := a / 64

/-- A line of HBM meets an error that the codes cannot correct (R404, R405). -/
def lineBad (s : State) (pa : Nat) : Bool := s.badLines.contains (lineOf pa)

/-- The oldest write of a list of pending writes on one host port's path. -/
def splitPort (port : Nat) : List (Nat × Bool × BufStore) → Option BufStore × List (Nat × Bool × BufStore)
  | [] => (none, [])
  | (p, b) :: r =>
    if p = port then (some b.2, r)
    else let q := splitPort port r; (q.1, (p, b) :: q.2)

/-- The oldest write on a host port's path reaches its target (R281). -/
def drainHostOne (s : State) (port : Nat) : State :=
  match splitPort port s.hostOut with
  | (some b, r) => { s with hostMem := writeBytes s.hostMem b.pa b.n b.val, hostOut := r }
  | (none, _) => s

/-- Every write on a host port's path reaches its target, in order. -/
def drainHost (s : State) (port : Nat) : State :=
  (s.hostOut.filter (·.1 == port)).foldl (fun t _ => drainHostOne t port) s

/-- A core's event register with bits set. -/
def Core.post (c : Core) (m : Word64) : Core := { c with event := c.event ||| m }

/-- A write to a line sets MON in every core that watches it, except the core that wrote (R233). -/
def hitMonitors (s : State) (by_ : Option Nat) (l : MonLine) : State :=
  { s with cores := s.cores.mapFinIdx fun i c _ =>
      if c.monitor = some l ∧ by_ ≠ some i then c.post 4 else c }

/-- A write of at most one line reaches physical memory: bytes where the mask is set (R274, R281, R405). A write of all
64 bytes of an HBM line leaves it good. Host writes enter the ordered path of their port. -/
def physWriteMask (s : State) (by_ : Option Nat) (pa n v mask : Nat) : State :=
  match target pa with
  | .hbm _ _ =>
    let s := { s with hbm := writeMasked s.hbm pa n v mask }
    let s := { s with softLines := s.softLines.filter (·.1 ≠ lineOf pa) }
    let s := if n = 64 ∧ pa % 64 = 0 ∧ mask % 2 ^ 64 = 2 ^ 64 - 1 then
        { s with badLines := s.badLines.filter (· ≠ lineOf pa) }
      else s
    hitMonitors s by_ (.phys (lineOf pa))
  | .host port bus =>
    let ws := (List.range n).filterMap fun i =>
      if bit mask i then some (port, false, (⟨bus + i, 1, byteRange v i 1⟩ : BufStore)) else none
    let s := if mask % 2 ^ n = 2 ^ n - 1 then { s with hostOut := s.hostOut ++ [(port, false, ⟨bus, n, v⟩)] }
      else { s with hostOut := s.hostOut ++ ws }
    hitMonitors s by_ (.phys (lineOf pa))
  | .nothing => s

/-- A write of n bytes within one line. -/
def physWrite (s : State) (by_ : Option Nat) (pa n v : Nat) : State := physWriteMask s by_ pa n v (2 ^ n - 1)

/-- The writes that entered a host path since it held n are SCOPE 10 stores (R281). -/
def markSys (s : State) (n : Nat) : State :=
  { s with hostOut := s.hostOut.take n ++ (s.hostOut.drop n).map fun q => (q.1, true, q.2.2) }

/-- A read behind SCOPE 10 stores of its path: these, and what stands before them, are performed at their target before it
returns (R276, R281, R288). -/
def readBehind (s : State) (pa : Nat) : State :=
  match target pa with
  | .host port _ =>
    let l := s.hostOut.filter (·.1 == port)
    (l.take (l.length - (l.reverse.takeWhile fun q => !q.2.1).length)).foldl (fun t _ => drainHostOne t port) s
  | _ => s

/-- An AtomicOp on host memory is performed at its target, behind every write that its path holds (R198, R281). -/
def readSettle (s : State) (pa : Nat) : State :=
  match target pa with
  | .host port _ => drainHost s port
  | _ => s

/-- Host memory as a host port's path shows it: a read arrives behind every write that the path holds (R281, R288). -/
def pathMem (s : State) (port : Nat) : List Host.Cell :=
  (s.hostOut.filter (·.1 == port)).foldl (fun m q => writeBytes m q.2.2.pa q.2.2.n q.2.2.val) s.hostMem

/-- The n bytes at a physical address, within one line (R273). -/
def physRead (s : State) (pa n : Nat) : Nat :=
  match target pa with
  | .hbm _ _ => readBytes s.hbm pa n
  | .host port bus => readBytes (pathMem s port) bus n
  | .nothing => 0

/-- A partition by number. -/
def getPart (s : State) (p : Nat) : Part := if h : p < 16 then s.parts[p] else {}

/-- A partition replaced. -/
def setPart (s : State) (p : Nat) (x : Part) : State := if h : p < 16 then { s with parts := s.parts.set p x } else s

/-- A partition changed. -/
def modPart (s : State) (p : Nat) (f : Part → Part) : State := setPart s p (f (getPart s p))

/-- The region of a handle: UNARMED with nothing in it where nothing has been loaded (R236). -/
def getRegion (s : State) (r : Rgn) : Region := (lookupKey (getPart s r.part).regions r.handle).getD {}

/-- The region of a handle replaced. -/
def setRegion (s : State) (r : Rgn) (x : Region) : State :=
  modPart s r.part fun q => { q with regions := putKey q.regions r.handle x }

def modRegion (s : State) (r : Rgn) (f : Region → Region) : State := setRegion s r (f (getRegion s r))

/-- The region of an element's name. -/
def rgnOf (l : Loc) : Rgn := ⟨l.part, l.handle⟩

def getElem (s : State) (l : Loc) : Elem := nth (getRegion s (rgnOf l)).elems l.elem {}

def modElem (s : State) (l : Loc) (f : Elem → Elem) : State :=
  modRegion s (rgnOf l) fun g => { g with elems := modNth g.elems l.elem f }

end Sys2Proof.Machine
end

