-- ==== Sys2Proof/Machine/Xlat.lean ====
section
/-! DEFINITION. The page-table walk, translation caches, accesses to partition virtual memory by the hardware, and the
error log (spec/20: R384 to R386; spec/22: R405, R407). -/

namespace Sys2Proof.Machine

/-- Why a translation fails: TRANSLATION 0x10 or PERMISSION 0x11 (Table 14.5). -/
inductive XErr where
  | translation
  | permission
  deriving DecidableEq, Repr

/-- The cause code of a failed translation. -/
def XErr.code : XErr → Nat
  | .translation => 0x10
  | .permission => 0x11

/-- The rights an access needs (R385). -/
structure Need where
  r : Bool := false
  w : Bool := false
  x : Bool := false
  deriving DecidableEq, Repr

/-- log2 of the bytes that an entry of a level covers (R384). -/
def levelShift : Nat → Nat
  | 0 => 39
  | 1 => 30
  | 2 => 21
  | _ => 12

/-- The index of an address at a level (R384). -/
def levelIndex (lv va : Nat) : Nat := if lv = 0 then bits va 55 39 else (va >>> levelShift lv) % 512

/-- A leaf entry's page size, as log2 bytes (R384). -/
def leafShift (lv e : Nat) : Nat := if lv = 3 && bit e 5 then 16 else levelShift lv

/-- What one entry says (R385): the next table, a leaf, or a failed walk. -/
inductive Entry where
  | table (oa : Nat)
  | leaf (shift : Nat)
  | bad
  deriving DecidableEq, Repr

/-- Reading one entry of a level (R384, R385). -/
def readEntry (s : State) (p lv e : Nat) : Entry :=
  let oa := bits e 51 12 * 4096
  if !bit e 0 then .bad
  else if bits e 62 52 ≠ 0 || bits e 11 6 ≠ 0 then .bad
  else if lv = 0 && bit e 1 then .bad
  else if lv = 3 && !bit e 1 then .bad
  else if lv ≠ 3 && bit e 5 then .bad
  else if bit e 1 then (if oa % 2 ^ leafShift lv e = 0 then .leaf (leafShift lv e) else .bad)
  else if ownsHbm s p oa && ownsHbm s p (oa + 4095) then .table oa else .bad

/-- Where the entry that a walk uses stands: at the address that it reads, or of a 64 KiB block whose 16 entries differ, at one of
them (R385). -/
def entryPlace (s : State) (lv pa : Nat) : Nat :=
  let e := physRead s pa 8
  if lv = 3 && bit e 5 && bit e 0 then
    let b := pa / 128 * 128
    if (List.range 16).all fun i => physRead s (b + 8 * i) 8 == e then pa else b + 8 * (Config.leafChoice s.fresh).toNat
  else pa

/-- The rest of a walk from a level's table (R385): a single-copy atomic load for each entry, an uncorrectable line ends
it (R405). `n` levels remain; `met` are the non-leaf entries that it has met. -/
def walkFrom (s : State) (p va : Nat) : Nat → Nat → Nat → List WalkEnt → Except XErr (TlbEnt × List WalkEnt)
  | 0, _, _, _ => .error .translation
  | n + 1, lv, tbl, met =>
    let pa := tbl + 8 * levelIndex lv va
    if !ownsHbm s p pa || lineBad s pa || lineBad s (entryPlace s lv pa) then .error .translation
    else
      let e := physRead s (entryPlace s lv pa) 8
      match readEntry s p lv e with
      | .bad => .error .translation
      | .leaf sh => .ok ({ base := va / 2 ^ sh * 2 ^ sh, size := sh, entry := e }, met)
      | .table oa => walkFrom s p va n (lv + 1) oa ({ part := p, lv := lv, base := va / 2 ^ levelShift lv, table := oa } :: met)

/-- The deepest non-leaf entry of a walker's cache for an address. -/
def deepest (c : List WalkEnt) (p va : Nat) : Option WalkEnt :=
  [2, 1, 0].findSome? fun lv => c.find? fun w => w.part == p && w.lv == lv && w.base == va / 2 ^ levelShift lv

/-- A walk of the partition's table for a 56-bit virtual address, from the deepest entry of a walker's cache (R384 to R386); the
non-leaf entries that it has met. -/
def walkOn (s : State) (c : List WalkEnt) (p va : Nat) : Except XErr (TlbEnt × List WalkEnt) :=
  if 2 ^ 56 ≤ va then .error .translation
  else match deepest c p va with
    | some w => walkFrom s p va (3 - w.lv) (w.lv + 1) w.table []
    | none => walkFrom s p va 4 0 (getPart s p).ptbase []

/-- A walk from the root (R385), by an agent for which the specification names no walker. -/
def walk (s : State) (p va : Nat) : Except XErr TlbEnt := (walkOn s [] p va).map fun q => q.1

/-- A cached translation of the partition's own table covers an address. -/
def TlbEnt.covers (t : TlbEnt) (va : Nat) : Bool := t.far.isNone && va / 2 ^ t.size * 2 ^ t.size == t.base

/-- A remote translation from lane group g covers a target address (R321). -/
def TlbEnt.coversFar (t : TlbEnt) (g va : Nat) : Bool :=
  (t.far.map fun q => q.1) == some g && va / 2 ^ t.size * 2 ^ t.size == t.base

/-- The physical address that a translation gives. -/
def TlbEnt.phys (t : TlbEnt) (va : Nat) : Nat := bits t.entry 51 12 * 4096 / 2 ^ t.size * 2 ^ t.size + va % 2 ^ t.size

/-- The permission check (R383, R385). -/
def checkLeaf (s : State) (p : Nat) (nd : Need) (t : TlbEnt) (va : Nat) : Except XErr Nat :=
  if (nd.r && !bit t.entry 2) || (nd.w && !bit t.entry 3) || (nd.x && !bit t.entry 4) then .error .permission
  else if reachable s p (t.phys va) then .ok (t.phys va) else .error .permission

/-- A translation through a cache of `cap` entries and a walker's cache (R386): a cached entry is used as it stands; a miss walks,
and a walk that does not fail is cached, the oldest entries making room. -/
def translate (s : State) (c : List WalkEnt) (p : Nat) (tlb : List TlbEnt) (cap : Nat) (nd : Need) (va : Nat) :
    Except XErr Nat × List TlbEnt × List WalkEnt :=
  match tlb.find? (·.covers va) with
  | some t => (checkLeaf s p nd t va, tlb, c)
  | none =>
    match walkOn s c p va with
    | .error e => (.error e, tlb, c)
    | .ok t =>
      match checkLeaf s p nd t.1 va with
      | .error e => (.error e, tlb, c)
      | .ok pa => (.ok pa, (t.1 :: tlb).take cap, (t.2 ++ c).take 1024)

/-- The cache of a die's walker. -/
def walker (s : State) (d : Nat) : List WalkEnt := nth s.walkc d []

def setWalker (s : State) (d : Nat) (c : List WalkEnt) : State := { s with walkc := modNth s.walkc d fun _ => c }

/-- A translation by hardware that keeps no cache of its own. -/
def xlat (s : State) (p : Nat) (nd : Need) (va : Nat) : Except XErr Nat := (translate s [] p [] 0 nd va).1

/-- The physical address of a readable byte of partition virtual memory. -/
def xlatR (s : State) (p va : Nat) : Except XErr Nat := xlat s p { r := true } va

/-- The physical address of a writable byte of partition virtual memory. -/
def xlatW (s : State) (p va : Nat) : Except XErr Nat := xlat s p { w := true } va

/-- n bytes of partition virtual memory within one page, read by the hardware; the cause where they cannot be read. -/
def vread (s : State) (p va n : Nat) : Except Nat Nat :=
  match xlatR s p va with
  | .error e => .error e.code
  | .ok pa => if lineBad s pa then .error 0x12 else .ok (physRead s pa n)

/-- A store of at most one line by the hardware to partition virtual memory, which reports nothing; dropped where its page is not
mapped writable. -/
def vput (s : State) (p va n v : Nat) : State :=
  match xlatW s p va with
  | .error _ => s
  | .ok pa => physWrite s none pa n v

/-- Bytes read line by line by the hardware; the first cause met. -/
def vreadLong (s : State) (p : Nat) : Nat → Nat → Nat → Except Nat Nat
  | 0, _, _ => .ok 0
  | fuel + 1, va, n =>
    if n = 0 then .ok 0
    else
      let k := min n (64 - va % 64)
      match vread s p va k with
      | .error e => .error e
      | .ok x =>
        match vreadLong s p fuel (va + k) (n - k) with
        | .error e => .error e
        | .ok y => .ok (x + 2 ^ (8 * k) * y)

/-- Every page of [va, va + n) is mapped with the rights given. -/
def mappedAll (s : State) (p : Nat) (nd : Need) (va n : Nat) : Bool :=
  (List.range (cdiv (va % 4096 + n) 4096)).all fun i =>
    match xlat s p nd (va / 4096 * 4096 + 4096 * i) with
    | .ok _ => true
    | .error _ => false

/-- One record of the error log (R407, Table 22.1): not written, and NEXT not advanced, while its pages are not mapped
writable. -/
def errLog (s : State) (p launch stack syms kind layer pa : Nat) : State :=
  let next := (getPart s p).errNext
  let rec_ := launch % 2 ^ 32 * 2 ^ 224 + stack % 256 * 2 ^ 192 + s.ns % 2 ^ 64 * 2 ^ 128 + syms % 256 * 2 ^ 64
    + kind % 16 * 2 ^ 60 + layer % 2 * 2 ^ 59 + pa % 2 ^ 52
  if mappedAll s p { w := true } 0x160000 0x11000 then
    let s := vput s p (0x161000 + 32 * (next % 2048)) 32 rec_
    let s := vput s p 0x160000 8 ((next + 1) % 2 ^ 64)
    modPart s p fun q => { q with errNext := (next + 1) % 2 ^ 64 }
  else s

/-- The stack number in an error record. -/
def stackOf (pa : Nat) : Nat := pa / 2 ^ 37

/-- What the codes report of a line with correctable errors, which stands with the symbols that the on-die ECC corrects and
those that it leaves to the device symbol code, as masks: LAYER 1 and its one symbol where there is one, else LAYER 0 (R404,
Table 22.1). -/
def softLayer (e : Nat × Nat × Nat) : Nat := b2n (e.2.2 != 0)
def softSyms (e : Nat × Nat × Nat) : Nat := if e.2.2 = 0 then popcount 32 e.2.1 else popcount 32 e.2.2

/-- What a read of a line reports to the error log: KIND 1 where the codes correct it, KIND 2 where they do not (R404,
R405, R407). -/
def logRead (s : State) (p launch pa : Nat) : State :=
  if lineBad s pa then errLog s p launch (stackOf pa) 0 2 0 (lineOf pa * 64)
  else match s.softLines.find? (·.1 == lineOf pa) with
    | some e => errLog s p launch (stackOf pa) (softSyms e) 1 (softLayer e) (lineOf pa * 64)
    | none => s

/-- What a write of part of an uncorrectable line reports: KIND 5, the marker stays (R405, R407). -/
def logWrite (s : State) (p launch pa n : Nat) : State :=
  if lineBad s pa && n < 64 then errLog s p launch (stackOf pa) 0 5 0 (lineOf pa * 64) else s

/-- The addresses of the lines that a walk reads from a level's table, up to one that no code corrects (R385, R405). -/
def walkLines (s : State) (p va : Nat) : Nat → Nat → Nat → List Nat
  | 0, _, _ => []
  | n + 1, lv, tbl =>
    let pa := tbl + 8 * levelIndex lv va
    if !ownsHbm s p pa then []
    else if lineBad s pa then [pa]
    else
      let q := entryPlace s lv pa
      let here := if lineOf q = lineOf pa then [pa] else [pa, q]
      if lineBad s q then here
      else match readEntry s p lv (physRead s q 8) with
        | .table oa => here ++ walkLines s p va n (lv + 1) oa
        | _ => here

/-- The addresses of the lines that a walk with a walker's cache reads. -/
def walkReads (s : State) (c : List WalkEnt) (p va : Nat) : List Nat :=
  if 2 ^ 56 ≤ va then []
  else match deepest c p va with
    | some w => walkLines s p va (3 - w.lv) (w.lv + 1) w.table
    | none => walkLines s p va 4 0 (getPart s p).ptbase

/-- What a walk reports to the error log, with LAUNCH 0 (R405, R407). -/
def logWalk (s : State) (c : List WalkEnt) (p va : Nat) : State :=
  if s.badLines == [] && s.softLines == [] then s else (walkReads s c p va).foldl (fun t pa => logRead t p 0 pa) s

/-- What a translation through a cache reports: it walks only where no entry covers the address. -/
def logXlat (s : State) (c : List WalkEnt) (p : Nat) (tlb : List TlbEnt) (va : Nat) : State :=
  if tlb.any (·.covers va) then s else logWalk s c p va

/-- A walk meets a line that no code corrects (R405). -/
def walkBad (s : State) (c : List WalkEnt) (p : Nat) (tlb : List TlbEnt) (va : Nat) : Bool :=
  s.badLines != [] && !(tlb.any (·.covers va)) && (walkReads s c p va).any (lineBad s)

/-- A store of at most one line by the hardware to partition virtual memory; `none` where the page is not mapped
writable. -/
def vwrite (s : State) (p va n v : Nat) : Option State :=
  match xlatW s p va with
  | .error _ => none
  | .ok pa => some (physWrite (logWrite (logWalk s [] p va) p 0 pa n) none pa n v)

/-- A store by the hardware that is dropped where its page is not mapped writable. -/
def vwriteD (s : State) (p va n v : Nat) : State := (vwrite s p va n v).getD (logWalk s [] p va)

/-- Bytes written line by line by the hardware from an address (a report, a digest, a saved area). `fuel` bounds the
lines. -/
def vwriteLong (s : State) (p : Nat) : Nat → Nat → Nat → Nat → State
  | 0, _, _, _ => s
  | fuel + 1, va, n, v =>
    if n = 0 then s
    else
      let k := min n (64 - va % 64)
      vwriteLong (vwriteD s p va k v) p fuel (va + k) (n - k) (v >>> (8 * k))

/-- What a read by the hardware of n bytes within a line reports to the error log, for a launch or with LAUNCH 0 (R407). -/
def logVread (s : State) (p launch va : Nat) : State :=
  if s.badLines == [] && s.softLines == [] then s
  else
    let t := logWalk s [] p va
    match xlatR s p va with
    | .error _ => t
    | .ok pa => logRead t p launch pa

/-- What reading bytes line by line reports, up to the first that cannot be read. -/
def logVreadLong (s : State) (p launch : Nat) : Nat → Nat → Nat → State
  | 0, _, _ => s
  | fuel + 1, va, n =>
    if n = 0 || (s.badLines == [] && s.softLines == []) then s
    else
      let k := min n (64 - va % 64)
      match vread s p va k with
      | .error _ => logVread s p launch va
      | .ok _ => logVreadLong (logVread s p launch va) p launch fuel (va + k) (n - k)

end Sys2Proof.Machine
end

