-- ==== Sys2Proof/Machine/Ops.lean ====
section
/-! DEFINITION. The named operations of a kettle core: registers, taking a trap and returning from one, loads and stores
(spec/09: R210 to R213, R220 to R224, R227 to R233). -/

namespace Sys2Proof.Machine

/-- The core that the current kettle instruction runs on. -/
def curCore (s : State) : Core := s.cores[s.cur.toNat]

/-- That core replaced. -/
def setCore (s : State) (c : Core) : State := { s with cores := s.cores.set s.cur.toNat c }

/-- The partition of that core (R213). -/
def curPart (s : State) : Nat := corePart s s.cur.toNat

/-- A register read: k0 reads 0 (R210). -/
def Core.reg (c : Core) (r : KReg) : Word64 := if r = 0 then 0 else c.regs[r.toNat]

/-- A register write: k0 ignores it (R210). -/
def Core.setReg (c : Core) (r : KReg) (v : Word64) : Core :=
  if r = 0 then c else { c with regs := c.regs.set r.toNat v }

/-- A register of the current core. -/
def kreg (s : State) (r : KReg) : Word64 := (curCore s).reg r

/-- The current core's pc moves past its instruction. -/
def kadvance (s : State) : State := setCore s { curCore s with pc := (curCore s).pc + 4 }

/-- kd := v, and on to the next instruction. -/
def kret (s : State) (d : KReg) (v : Word64) : State :=
  setCore s { (curCore s).setReg d v with pc := (curCore s).pc + 4 }

/-- The pc set (R219). -/
def kjump (s : State) (a : Word64) : State := setCore s { curCore s with pc := a }

/-- KS_STATUS fields (Table 9.8). -/
def Core.prv (c : Core) : Bool := c.status.getLsbD 0
def Core.ie (c : Core) : Bool := c.status.getLsbD 1
def Core.pie (c : Core) : Bool := c.status.getLsbD 6
def Core.pprv (c : Core) : Bool := c.status.getLsbD 7

/-- KS_STATUS of its fields; reserved bits read 0 (Table 9.8). -/
def mkStatus (pprv pie ie prv : Bool) : Word64 :=
  BitVec.ofNat 64 (b2n pprv * 128 + b2n pie * 64 + b2n ie * 2 + b2n prv)

/-- A trap to take: vector, code of KS_CAUSE, KS_TVAL (Table 9.7). -/
structure KTrap where
  vec : Nat
  code : Nat
  tval : Word64
  deriving DecidableEq, Repr

/-- ILLEGAL_INSN with the word (R216). -/
def trapIllegal (w : Word64) : KTrap := ⟨0, 0x70, w⟩
/-- KETTLE_ACCESS with the address or operand (R227). -/
def trapAccess (v : Word64) : KTrap := ⟨1, 0x71, v⟩
/-- The memory trap with its cause and virtual address (R227). -/
def trapMemory (code : Nat) (va : Word64) : KTrap := ⟨2, code, va⟩

/-- The level that a trap goes to: runtime only when the core was at runtime level and KS_TDELEG delegates the vector
(R227). True is firmware. -/
def trapLevel (c : Core) (v : Nat) : Bool := c.prv || !c.tdeleg.getLsbD v

/-- KS_CAUSE (Table 9.9). -/
def mkCause (async : Bool) (v code : Nat) : Word64 :=
  BitVec.ofNat 64 (b2n async * 2 ^ 63 + v % 256 * 256 + code % 256)

/-- Entry to a trap, in one step (R228): PPRV := PRV, PIE := IE, IE := 0, PRV := L, KS_CAUSE, KS_TVAL, KS_EPC, and the pc at
the vector of level L (R227). -/
def Core.enterTrap (c : Core) (async : Bool) (t : KTrap) (epc : Word64) : Core :=
  let fw := trapLevel c t.vec
  { c with
    status := mkStatus c.prv c.ie false fw
    cause := mkCause async t.vec t.code
    tval := t.tval
    epc := epc
    pc := (if fw then c.ftvec else c.rtvec) + BitVec.ofNat 64 (64 * t.vec) }

/-- The current core takes a synchronous trap: KS_EPC is the instruction (Table 9.7). -/
def ktrap (s : State) (t : KTrap) : State := setCore s ((curCore s).enterTrap false t (curCore s).pc)

/-- Return from a trap (R229): PRV := PPRV, IE := PIE, pc := KS_EPC (its bits [1:0] cleared, the pc being a multiple of 4);
PPRV and PIE keep their values. -/
def Core.leaveTrap (c : Core) : Core :=
  { c with status := mkStatus c.pprv c.pie c.pie c.pprv, pc := c.epc &&& BitVec.ofNat 64 (2 ^ 64 - 4) }

/-- A signed immediate. -/
def sext64 {n : Nat} (i : BitVec n) : Word64 := i.signExtend 64
/-- An unsigned immediate. -/
def zext64 {n : Nat} (i : BitVec n) : Word64 := i.zeroExtend 64

/-- First byte above the local memory (R212). -/
def localTop : Nat := 0x80000

/-- What a kettle address reaches (R212). -/
inductive KPlace where
  | loc (a : Nat)
  | virt (a : Nat)
  | none
  deriving DecidableEq, Repr

/-- The division of the kettle address space (R212). -/
def kplace (a : Word64) : KPlace :=
  if a.toNat < localTop then .loc a.toNat else if a.toNat < 2 ^ 56 then .virt a.toNat else .none

/-- A translation through the current core's 64-entry cache and its die's walker (R386); what its walk meets is logged (R407). -/
def kxlat (s : State) (nd : Need) (va : Nat) : Except XErr Nat × State :=
  let c := curCore s
  let d := s.cur.toNat / 4
  let r := translate s (walker s d) (curPart s) c.tlb 64 nd va
  let u := logXlat s (walker s d) (curPart s) c.tlb va
  (r.1, setWalker (setCore u { curCore u with tlb := r.2.1 }) d r.2.2)

/-- The byte that a core's own delayed stores leave at a physical address: its latest store wins (R221). -/
def bufByte : List BufStore → Nat → Option Byte
  | [], _ => none
  | b :: r, pa =>
    match bufByte r pa with
    | some x => some x
    | none => if b.pa ≤ pa && pa < b.pa + b.n then some (BitVec.ofNat 8 (byteRange b.val (pa - b.pa) 1)) else none

/-- A value read from memory, under the core's own delayed stores (R221). -/
def bufOver (buf : List BufStore) (pa n v : Nat) : Nat :=
  ofBytes ((List.range n).map fun i => (bufByte buf (pa + i)).getD (BitVec.ofNat 8 (byteRange v i 1)))

/-- The oldest delayed store of the current core is performed (R221). -/
def kdrainOne (s : State) : State :=
  match (curCore s).buf with
  | [] => s
  | b :: r =>
    let s := setCore s { curCore s with buf := r }
    physWrite (logWrite s (curPart s) 0 b.pa b.n) (some s.cur.toNat) b.pa b.n b.val

/-- Every delayed store of the current core is performed, in program order. -/
def kdrain (s : State) : State := (curCore s).buf.foldl (fun t _ => kdrainOne t) s

/-- Every earlier access of the current core is performed at `.mod`, or at `.sys` (R222, R223, R281). -/
def korder (s : State) (sys : Bool) : State :=
  let s := kdrain s
  if sys then drainHost (drainHost s 0) 1 else s

/-- A line of physical memory that the core's cache holds with an uncorrectable error (R406). -/
def cacheBad (s : State) (pa : Nat) : Bool := (curCore s).badCache.contains (lineOf pa)

/-- A line of the core's local memory meets an uncorrectable error (R406). -/
def localBad (s : State) (a : Nat) : Bool := (curCore s).badLocal.contains (lineOf a)

/-- A load of n bytes (R212, R220): alignment, reach, translation with R, an uncorrectable line, in this order; then the
value, with the core's own latest stores. -/
def kload (s : State) (a : Word64) (n : Nat) : Except KTrap Nat × State :=
  if a.toNat % n ≠ 0 then (.error (trapAccess a), s)
  else match kplace a with
  | .none => (.error (trapAccess a), s)
  | .loc x => if localBad s x then (.error (trapMemory 0x12 a), s) else (.ok (readBytes (curCore s).lmem x n), s)
  | .virt va =>
    match kxlat s { r := true } va with
    | (.error e, t) => (.error (trapMemory e.code a), t)
    | (.ok pa, t) =>
      if cacheBad t pa then (.error (trapMemory 0x12 a), t)
      else if lineBad t pa then (.error (trapMemory 0x12 a), logRead t (curPart t) 0 pa)
      else
        let t := logRead (readBehind t pa) (curPart t) 0 pa
        (.ok (bufOver (curCore t).buf pa n (physRead t pa n)), t)

/-- A write to the current core's local memory; its own stores do not set MON (R233). -/
def lstore (s : State) (x n v : Nat) : State :=
  setCore s { curCore s with lmem := writeBytes (curCore s).lmem x n v }

/-- A store of n bytes (R212, R220): alignment, reach, translation with W; then the store, at once or, where the core
delays its plain stores, after those before it (R221). -/
def kstore (s : State) (a : Word64) (n v : Nat) (plain : Bool) : Except KTrap Unit × State :=
  if a.toNat % n ≠ 0 then (.error (trapAccess a), s)
  else match kplace a with
  | .none => (.error (trapAccess a), s)
  | .loc x => if localBad s x then (.error (trapMemory 0x12 a), s) else (.ok (), lstore s x n v)
  | .virt va =>
    match kxlat s { w := true } va with
    | (.error e, t) => (.error (trapMemory e.code a), t)
    | (.ok pa, t) =>
      if cacheBad t pa then (.error (trapMemory 0x12 a), t)
      else if plain && (t.holding.contains t.cur.toNat || (curCore t).buf ≠ []) then
        (.ok (), setCore t { curCore t with buf := (curCore t).buf ++ [⟨pa, n, v % 2 ^ (8 * n)⟩] })
      else (.ok (), physWrite (logWrite t (curPart t) 0 pa n) (some t.cur.toNat) pa n v)

/-- A load's result written to kd, or its trap taken. -/
def kloadTo (s : State) (d : KReg) (a : Word64) (n : Nat) (f : Nat → Word64) : State :=
  match kload s a n with
  | (.ok v, t) => kret t d (f v)
  | (.error e, t) => ktrap t e

/-- A store's effect, or its trap taken. -/
def kstoreFrom (s : State) (a : Word64) (n v : Nat) (plain : Bool) : State :=
  match kstore s a n v plain with
  | (.ok (), t) => kadvance t
  | (.error e, t) => ktrap t e

/-- TIMER is a level: set in every kettle cycle in which KS_TIME ≥ KS_TIMECMP (Table 9.10). -/
def Core.timer (c : Core) (ns : Nat) : Core := if c.timecmp.toNat ≤ ns % 2 ^ 64 then c.post 2 else c

/-- A region of a partition posts an event: KS_REVT[h] and REGION in every core of the partition (R232). -/
def postRegion (s : State) (p h : Nat) : State :=
  { s with cores := s.cores.mapFinIdx fun i c _ =>
      if ownsCore s p i then { c with revt := c.revt ||| BitVec.ofNat 64 (2 ^ (h % 64)), event := c.event ||| 1 } else c }

/-- An instruction fetch (R212, R219, R227, R385): unreachable addresses raise KETTLE_ACCESS; kettle fetch needs X. -/
def kfetch (s : State) : Except KTrap Word32 × State :=
  let a := (curCore s).pc
  match kplace a with
  | .none => (.error (trapAccess a), s)
  | .loc x => if localBad s x then (.error (trapMemory 0x12 a), s)
      else (.ok (BitVec.ofNat 32 (readBytes (curCore s).lmem x 4)), s)
  | .virt va =>
    match kxlat s { x := true } va with
    | (.error e, t) => (.error (trapMemory e.code a), t)
    | (.ok pa, t) =>
      if cacheBad t pa then (.error (trapMemory 0x12 a), t)
      else if lineBad t pa then (.error (trapMemory 0x12 a), logRead t (curPart t) 0 pa)
      else
        let t := logRead t (curPart t) 0 pa
        (.ok (BitVec.ofNat 32 (bufOver (curCore t).buf pa 4 (physRead t pa 4))), t)

end Sys2Proof.Machine
end

