-- ==== Sys2Proof/Machine/Env.lean ====
section
/-! DEFINITION. Where elements stand physically, and SRAM events in the error log (spec/18: R362; spec/14: Table 14.4;
spec/22: R406, R407; spec/09: R221). -/

namespace Sys2Proof.Machine

/-- The location code of an on-chip SRAM error (R406): die, EKIND, x or core, y, byte offset. -/
def locCode (die ekind x y off : Nat) : Nat :=
  die % 16 * 2 ^ 48 + ekind % 4 * 2 ^ 46 + x % 256 * 2 ^ 38 + y % 64 * 2 ^ 32 + off % 2 ^ 32

/-- The physical die, X and Y of an element (R362, Table 14.4): of a compute element by the placement, of a stack element
its stack and port, of a link-side element its port and index with die 0. -/
def placeDie (place : Nat) : Nat := bits place 8 6

/-- The lowest die of a mask. -/
def lowestDie (m : Nat) : Nat := ((List.range 8).find? fun d => bit m d).getD 0

/-- Virtual e(x,y) to its physical die, column and row (R362). -/
def physElem (place x y : Nat) : Nat × Nat × Nat :=
  let m := bits place 27 20
  if m = 0 then (placeDie place, bits place 14 9 + x, bits place 19 15 + y)
  else
    let d := lowestDie m
    (4 * (d / 4 + y / 20) + d % 4 + x / 40, x % 40, y % 20)

/-- The dies of a placement, as a mask. -/
def placeDies (place : Nat) : Nat := if bits place 27 20 = 0 then 2 ^ placeDie place else bits place 27 20

/-- The stacks that a partition holds on the dies of a placement, ascending, retired ones skipped (R362). -/
def placeStacks (s : State) (p place : Nat) : List Nat :=
  (List.range 24).filter fun st => bit (placeDies place) (st / 3) && ownsStack s p st && !stackRetired s st

/-- Die, X and Y of an element in records (Table 14.4). -/
def recPlace (s : State) (p place : Nat) (e : Elem) : Nat × Nat × Nat :=
  match e.kind with
  | 0 => physElem place e.x e.y
  | 1 => let st := nth (placeStacks s p place) e.x 0; (st / 3, st, e.y)
  | _ => (0, e.x, e.y)

/-- The location code of a place in an element (R406). -/
def elemCode (s : State) (l : Loc) (off : Nat) : Nat :=
  let e := getElem s l
  let q := recPlace s l.part (getRegion s (rgnOf l)).place e
  locCode q.1 e.kind q.2.1 q.2.2 off

/-- An SRAM event of an element goes to the error log (R406, R407): STACK 0xFF, the location code in PA. -/
def logSram (s : State) (l : Loc) (kind off : Nat) : State :=
  errLog s l.part (getRegion s (rgnOf l)).launch 0xFF 0 kind 0 (elemCode s l off)

/-- The clk of a die: it falls behind while its clock is stretched (R415). Its wheels stand at index 0 when 64 divides it. -/
def dieClk (s : State) (d : Nat) : Nat := s.clk - nth s.lag d 0

/-- The wheel index of a die's outputs now (R77). -/
def wheelIndex (s : State) (d : Nat) : Nat := dieClk s d % 64

/-- The die whose wheels a region's pours wait for (R367): its one die, or its lowest. -/
def firstDie (place : Nat) : Nat := lowestDie (placeDies place)

/-- A change of one core by number. -/
def modCore (s : State) (k : Nat) (f : Core → Core) : State :=
  if h : k < 32 then { s with cores := s.cores.set k (f s.cores[k]) } else s

/-- The oldest delayed store of a core is performed (R221). -/
def drainCore (s : State) (k : Nat) : State :=
  { kdrainOne { s with cur := BitVec.ofNat 5 k } with cur := s.cur }

end Sys2Proof.Machine
end

