-- ==== Sys2Proof/Machine/Records.lean ====
section
/-! DEFINITION. Fault records, the origin counter and stopping causes (spec/14: R325, R328, R335 to R337; spec/09: R248). -/

namespace Sys2Proof.Machine

/-- The 48-bit clk stamp since the region's launch (Table 14.4). -/
def stamp (s : State) (g : Region) : Nat := (s.clk - g.launchClk) % 2 ^ 48

/-- Coordinate n of a record, as 32 bits. -/
def coordBits (r : FRec) (n : Nat) : Nat := uval 32 (nth r.coords n 0)

/-- A fault record (Table 14.4). -/
def recordBits (s : State) (g : Region) (r : FRec) : Nat :=
  let w0 := r.cause % 256 * 2 ^ 56 + stamp s g
  let w1 := g.launch % 2 ^ 32 * 2 ^ 32 + g.pour % 2 ^ 16 * 2 ^ 16 + r.fidx % 2 ^ 16
  let w2 := r.tag % 2 ^ 32 * 2 ^ 32 + r.slot % 32 * 2 ^ 27 + r.ekind % 4 * 2 ^ 25 + r.d % 8 * 2 ^ 22 + r.x % 64 * 2 ^ 16
    + r.y % 32 * 2 ^ 11
  let w3 := r.addr % 2 ^ 56
  let w4 := (match r.stream with | some n => n % 64 * 2 ^ 58 + 2 ^ 57 | none => 0)
    + (match r.front with | some n => 2 ^ 56 + n % 2 ^ 16 | none => 0)
    + r.chan % 2 ^ 11 * 2 ^ 45 + r.code % 2 ^ 12 * 2 ^ 28
  let c (n : Nat) := coordBits r n
  w0 + 2 ^ 64 * w1 + 2 ^ 128 * w2 + 2 ^ 192 * w3 + 2 ^ 256 * w4
    + 2 ^ 320 * (c 0 + 2 ^ 32 * c 1 + 2 ^ 64 * c 2 + 2 ^ 96 * c 3 + 2 ^ 128 * c 4 + 2 ^ 160 * c 5)

/-- The place of a record among those of its clk (R337): compute, stack, link-side elements and none, each by die, y and x; then
by slot. -/
def recKey (x : Nat) : Nat := (((bits x 154 153 * 8 + bits x 152 150) * 32 + bits x 143 139) * 64 + bits x 149 144) * 32 + bits x 159 155

/-- Records are queued in the order of their clk, those of one clk in the order of R337. -/
def queueRec (x : Nat) : List Nat → List Nat
  | [] => [x]
  | y :: r => if bits y 47 0 = bits x 47 0 ∧ recKey x < recKey y then x :: y :: r else y :: queueRec x r

/-- A record is queued, and the region posts an event; with 32 queued, the last in order is dropped and counted (R248, R232). -/
def putRec (s : State) (r : Rgn) (f : FRec) : State :=
  let g := getRegion s r
  let q := queueRec (recordBits s g f) g.faultq
  if q.length ≤ 32 then postRegion (setRegion s r { g with faultq := q }) r.part r.handle
  else
    let s' := setRegion s r { g with faultq := q.take 32, fltlost := g.fltlost + 1 }
    if q.take 32 = g.faultq then s' else postRegion s' r.part r.handle

/-- Several records in order. -/
def putRecs (s : State) (r : Rgn) (fs : List FRec) : State := fs.foldl (fun t f => putRec t r f) s

/-- A record that names an element (Table 14.4). -/
def atElem (s : State) (l : Loc) (f : FRec) : FRec :=
  let e := getElem s l
  let q := recPlace s l.part (getRegion s (rgnOf l)).place e
  { f with ekind := e.kind, d := q.1, x := q.2.1, y := q.2.2 }

/-- The next fault index: the origin counter advances by 1 and skips 0 when it wraps (R325). -/
def nextOrigin (n : Nat) : Nat := if (n + 1) % 2 ^ 16 = 0 then 1 else (n + 1) % 2 ^ 16

/-- Poison originates in a region: the new fault index. -/
def drawOrigin (s : State) (r : Rgn) : State × Nat :=
  let n := nextOrigin (getRegion s r).origin
  (modRegion s r fun g => { g with origin := n }, n)

/-- The name under which a stopping cause is written once for a stop (R328): cause, element, slot, tag, and the channel
or access. -/
def causeKey (l : Loc) (f : FRec) (n : Nat) : Nat × Nat × Nat × Nat × Nat := (f.cause, l.elem, f.slot, f.tag, n)

/-- W0 of the first record of a stop, in the order of R337, and its place (Table 19.3). -/
def firstW0 (s : State) (g : Region) (f : FRec) : Nat × Nat :=
  let k := recKey (recordBits s g f)
  if g.stopW0 = 0 || (g.stopW0 % 2 ^ 48 = stamp s g && k < g.stopKey) then (f.cause % 256 * 2 ^ 56 + stamp s g, k) else (g.stopW0, g.stopKey)

/-- A stopping cause is met (R328): its record is written once for a stop; the controller will broadcast. -/
def meetStop (s : State) (l : Loc) (f : FRec) (n : Nat) : State :=
  let r := rgnOf l
  let g := getRegion s r
  let f := atElem s l f
  if g.recorded.contains (causeKey l f n) then modRegion s r fun g => { g with stopping := true }
  else
    let w := firstW0 s g f
    let s := setRegion s r { g with stopping := true, recorded := causeKey l f n :: g.recorded, stopW0 := w.1, stopKey := w.2 }
    putRec s r f

/-- A stopping cause of the region itself, with EKIND 11 (Table 14.5). -/
def meetStopRgn (s : State) (r : Rgn) (f : FRec) (n : Nat) : State :=
  let g := getRegion s r
  let f := { f with ekind := 3 }
  let key := (f.cause, 2048, f.slot, f.tag, n)
  if g.recorded.contains key then modRegion s r fun g => { g with stopping := true }
  else
    let w := firstW0 s g f
    let s := setRegion s r { g with stopping := true, recorded := key :: g.recorded, stopW0 := w.1, stopKey := w.2 }
    putRec s r f

/-- The controller saves the region's state (R247). -/
def saving (g : Region) : Bool := match g.job with | some (.save _) => true | _ => false

/-- The region issues, injects and performs: RUNNING or DRAINING with a pour under way (R265), and not at the cut of an
eviction that is being saved (R242). -/
def running (g : Region) : Bool := (g.st == 2 || g.st == 3) && !g.between && !saving g

/-- Something happened that resets the Doldrums idle counter (R267). -/
def busy (s : State) (r : Rgn) : State := modRegion s r fun g => { g with idleBase := s.clk }

/-- The current variant of the pour that runs. -/
def curVariant (g : Region) : Variant :=
  let vs := nth g.img.pours g.pour []
  match vs.find? (·.foot == g.foot) with
  | some v => v
  | none => vs.headD { foot := 0, pol := 0, force := 0, w := 0, h := 0, nr := 0, size := 0, carry := [], elems := [],
                       routes := [] }

/-- Policy bits of the pour that runs (Table 18.2): arrival, causal, sequenced, nonfinite poison. -/
def polArrival (g : Region) : Bool := bit (curVariant g).pol 0
def polCausal (g : Region) : Bool := bit (curVariant g).pol 1
def polSeq (g : Region) : Bool := bit (curVariant g).pol 2

end Sys2Proof.Machine
end

