-- ==== Sys2Proof/Machine/LinkFlit.lean ====
section
/-! DEFINITION. Flits: the sideband, the CRC, the flits of a token, and control flits (spec/13: R305 to R308, R311, R314).
The spec gives no layout of a control flit's data; the model's own is: byte 0 the kind, bytes 8, 16 and 24 up one operand
each (log entry 12). -/

namespace Sys2Proof.Machine

/-- One bit of CRC-32C, reflected. -/
def crcBit (c : Nat) : Nat := if c % 2 = 1 then Nat.xor (c / 2) 0x82F63B78 else c / 2

/-- One byte of CRC-32C. -/
def crcByte (c b : Nat) : Nat :=
  crcBit (crcBit (crcBit (crcBit (crcBit (crcBit (crcBit (crcBit (Nat.xor c (b % 256)))))))))

/-- n bytes of CRC-32C, lowest first. -/
def crcBytes : Nat → Nat → Nat → Nat
  | 0, c, _ => c
  | n + 1, c, x => crcBytes n (crcByte c x) (x / 256)

/-- The CRC of a flit (R306): its 256 data bytes and sideband bits [127:32]. -/
def flitCrc (data side : Nat) : Nat :=
  Nat.xor (crcBytes 12 (crcBytes 256 0xFFFFFFFF data) (bits side 127 32)) 0xFFFFFFFF

/-- Sideband fields (Table 13.1). -/
def Flit.tag (f : Flit) : Nat := bits f.side 127 96
def Flit.fkind (f : Flit) : Nat := bits f.side 95 93
def Flit.mist (f : Flit) : Bool := bit f.side 92
def Flit.blk (f : Flit) : Nat := bits f.side 91 88
def Flit.nfl (f : Flit) : Nat := bits f.side 87 83
def Flit.fseq (f : Flit) : Nat := bits f.side 79 64
def Flit.aseq (f : Flit) : Nat := bits f.side 63 48
def Flit.tcred (f : Flit) : Nat := bits f.side 47 40

/-- A flit whose CRC holds (R306). -/
def Flit.crcOk (f : Flit) : Bool := bits f.side 31 0 == flitCrc f.data f.side

/-- A reserved FKIND or a reserved field that is not 0 (R306). -/
def Flit.reserved (f : Flit) : Bool := 4 < f.fkind || bits f.side 82 80 != 0 || bits f.side 39 32 != 0

/-- A flit as it stands in a queue: the fields that its sender fixes when it forms it. -/
def mkFlit (tag fkind : Nat) (mist : Bool) (blk nfl data : Nat) : Flit :=
  { data := data % 2 ^ 2048,
    side := tag % 2 ^ 32 * 2 ^ 96 + fkind % 8 * 2 ^ 93 + b2n mist * 2 ^ 92 + blk % 16 * 2 ^ 88 + nfl % 32 * 2 ^ 83 }

/-- A flit stamped as it leaves: FSEQ, ASEQ, TCRED, and the CRC over them (Table 13.1). -/
def Flit.stamp (f : Flit) (fseq aseq tcred : Nat) : Flit :=
  let side := f.side / 2 ^ 80 * 2 ^ 80 + fseq % 2 ^ 16 * 2 ^ 64 + aseq % 2 ^ 16 * 2 ^ 48 + tcred % 256 * 2 ^ 40
  { f with side := side + flitCrc f.data side }

/-- Kinds of control flits: idle, NAK, BIND, UNBIND, INV, INVACK, translation request and reply, a report of TCRED. -/
def ckIdle : Nat := 1
def ckNak : Nat := 2
def ckBind : Nat := 3
def ckUnbind : Nat := 4
def ckInv : Nat := 5
def ckInvack : Nat := 6
def ckAsk : Nat := 7
def ckTell : Nat := 8
def ckCred : Nat := 9

/-- A control flit (R306: TAG 0). -/
def ctlFlit (kind a b c : Nat) : Flit :=
  mkFlit 0 4 false 0 0 (kind % 256 + 2 ^ 64 * (a % 2 ^ 64) + 2 ^ 128 * (b % 2 ^ 64) + 2 ^ 192 * (c % 2 ^ 64))

/-- Kind and operands of a control flit. -/
def ctlOf (f : Flit) : Nat × Nat × Nat × Nat :=
  (byteRange f.data 0 1, byteRange f.data 8 8, byteRange f.data 16 8, byteRange f.data 24 8)

/-- Control flits that take no FSEQ of their own and are not kept for replay: the idle flit carries the last FSEQ (R308),
and so does a NAK. -/
def unnumbered (f : Flit) : Bool :=
  f.fkind == 4 && (byteRange f.data 0 1 == ckIdle || byteRange f.data 0 1 == ckNak)

/-- Payload flits of a token (R307): one for a vector, one for each validity block of a tile. -/
def payloadFlits (h : Hdr) : Nat := if h.kind ≠ 0 then 0 else match h.pkind with | 0 => 0 | 1 => 0 | 2 => 1 | _ => cdiv (payloadBytes h) 256

/-- The flits of a token (R307). -/
def tokenFlits (t : Token) (ch : Nat) (mist : Bool) : List Flit :=
  let n := payloadFlits t.hdr
  mkFlit t.hdr.tag 0 false 0 n (tokenBeats t ch % 2 ^ 1024) ::
    (List.range n).map fun b => mkFlit t.hdr.tag 1 mist b 0 (byteRange (t.payload % 2 ^ (8 * payloadBytes t.hdr)) (256 * b) 256)

/-- x before y in sequence numbers modulo 2^16. -/
def seqLt (x y : Nat) : Bool := 1 ≤ (y + 2 ^ 16 - x % 2 ^ 16) % 2 ^ 16 && (y + 2 ^ 16 - x % 2 ^ 16) % 2 ^ 16 < 2 ^ 15

/-- A change of one lane group. -/
def modLane (s : State) (g : Nat) (f : Lane → Lane) : State := { s with lanes := modNth s.lanes g f }

/-- A lane group by number 4k + n. -/
def getLane (s : State) (g : Nat) : Lane := nth s.lanes g {}

/-- Flits appended to what a lane group sends for the first time. -/
def Lane.post (l : Lane) (fs : List Flit) : Lane := { l with sendq := l.sendq ++ fs }

/-- The binding of a lane group in its region's image (R309). -/
def laneBind (s : State) (l : Lane) : Option LinkBind :=
  match l.bind with
  | some b => (getRegion s ⟨b.1, b.2.1⟩).img.links[b.2.2]?
  | none => none

/-- The class in effect (R304, R324): at protocol 1.0 an `rmem` binding runs reliable. -/
def bindMist (l : Lane) (b : LinkBind) : Bool := b.mist && (b.form != 1 || !(l.major == 1 && l.minor == 0))

/-- The payload of received blocks: 256 bytes each, a lost one zeros (R307, R315). -/
def blockBytes (bs : List (Nat × Nat)) : Nat :=
  packLanes 2048 ((List.range 16).map fun b => (lookupKey bs b).getD 0)

/-- VMASK bits of lost blocks cleared (R315). -/
def maskLost (v : Nat) (lost : List Nat) : Nat := lost.foldl (fun v b => if bit v b then v - 2 ^ b else v) v

/-- The token of a header flit and its resolved payload (R307, R315). -/
def unitToken (u : RxUnit) : Token :=
  let h := hdrOfBits u.data
  { hdr := { h with vmask := maskLost h.vmask u.lost },
    payload := if h.kind = 0 && 2 ≤ h.pkind then byteRange (blockBytes u.blocks) 0 (payloadBytes h) else (tokenOfBeats u.data).payload }

/-- A unit of which flits are still to be sent. -/
def Lane.midUnit (l : Lane) : Bool := match l.sendq with | f :: _ => f.fkind == 1 | [] => false

/-- A unit whose positions are all resolved goes where its kind belongs (R308, R318). -/
def Lane.finish (l : Lane) : Lane :=
  match l.rx with
  | some u =>
    if u.todo ≠ [] then l
    else match u.fkind with
      | 0 => { l with rx := none, rxq := l.rxq ++ [unitToken u] }
      | 2 => { l with rx := none, reqs := l.reqs ++ [u] }
      | _ => { l with rx := none, reps := l.reps ++ [u] }
  | none => l

/-- The next position is a mist payload position (R307). -/
def Lane.atMist (l : Lane) : Bool := match l.rx with | some u => u.mist && u.todo != [] | none => false

/-- MIST_LOSS (R315): the next position, a mist payload position, is resolved as lost. -/
def Lane.loseOne (l : Lane) : Lane :=
  match l.rx with
  | some u =>
    (match u.todo with
     | b :: r => { l with rx := some { u with lost := u.lost ++ [b], todo := r }, rxSeq := (l.rxSeq + 1) % 2 ^ 16 }.finish
     | [] => l)
  | none => l

/-- Mist positions before a sequence number are lost, as far as no reliable one is missing (R314, step 2). `fuel` bounds
them. -/
def Lane.skipMist : Nat → Nat → Lane → Lane
  | 0, _, l => l
  | fuel + 1, f, l => if l.atMist && seqLt l.rxSeq f then skipMist fuel f l.loseOne else l

/-- The mist payload positions of a receiver's token that have not come are lost (R315). -/
def Lane.loseMist : Nat → Lane → Lane
  | 0, l => l
  | fuel + 1, l => if l.atMist then loseMist fuel l.loseOne else l

/-- A NAK goes out for the next position (R314, step 2). -/
def Lane.sendNak (l : Lane) : Lane :=
  { l with nak := some l.rxSeq, urgent := l.urgent ++ [ctlFlit ckNak l.rxSeq 0 0] }

/-- A header, request or reply flit opens a unit with NFL positions (R307, R318). A request names the first byte of its
payload in byte 64 up, and in byte 69 whether its payload travels mist (log entry 13). -/
def openUnit (cls : Bool) (f : Flit) : RxUnit :=
  let first := if f.fkind = 2 then byteRange f.data 64 4 / 256 else 0
  let mist := match f.fkind with | 0 => cls | 2 => bit (byteRange f.data 69 1) 0 | _ => false
  { fkind := f.fkind, data := f.data, mist := mist, todo := (List.range f.nfl).map fun b => first + b }

/-- A numbered flit accepted in its place (R307, R314). -/
def Lane.accept (cls : Bool) (l : Lane) (f : Flit) : Lane :=
  let l := { l with rxSeq := (l.rxSeq + 1) % 2 ^ 16 }
  match f.fkind with
  | 1 => (match l.rx with
    | some u => (match u.todo with
      | b :: r => { l with rx := some { u with blocks := u.blocks ++ [(b, f.data)], todo := r } }.finish
      | [] => l)
    | none => l)
  | 4 => { l with ctl := l.ctl ++ [ctlOf f] }
  | _ => { l with rx := some (openUnit cls f) }.finish

/-- The flits that ASEQ acknowledges leave the replay buffer (R314). -/
def Lane.acked (l : Lane) (aseq : Nat) : Lane :=
  { l with replay := l.replay.filter fun f => seqLt aseq f.fseq, resend := l.resend.filter fun f => seqLt aseq f.fseq }

/-- A flit arrives (R306, R308, R314): accepted in order, discarded, or NAKed. The second answer says that its TCRED counts:
that of an accepted flit, or of a control flit without a number of its own. -/
def Lane.receive (cls : Bool) (l : Lane) (f : Flit) (corrupt : Bool) : Lane × Bool :=
  if corrupt then (if l.nak.isSome || !l.atMist then l.sendNak else l, false)
  else if f.reserved then (l, false)
  else
    let l := l.acked f.aseq
    if unnumbered f then
      if byteRange f.data 0 1 = ckNak then ({ l with ctl := l.ctl ++ [ctlOf f] }, true)
      else
        let n := (f.fseq + 1) % 2 ^ 16
        let l := if l.nak.isNone then l.skipMist 32 n else l
        (if seqLt l.rxSeq n then l.sendNak else l, true)
    else if l.nak.isSome && l.nak != some f.fseq then (l, false)
    else
      let l := { l with nak := none }.skipMist 32 f.fseq
      if f.fseq = l.rxSeq then (l.accept cls f, true)
      else if seqLt l.rxSeq f.fseq then (l.sendNak, false)
      else (l, false)

/-- The spare that the `alt=` of a lost binding names and that has taken over no other group (R323). -/
def spareOf (s : State) (b : Nat × Nat × Nat) (k : LinkBind) : Option Nat :=
  if k.altk = 0xFF && k.altn = 0xFF then none
  else
    let q := 4 * k.altk + k.altn
    let l := getLane s q
    match l.bind, laneBind s l with
    | some c, some m =>
      if c.1 = b.1 && c.2.1 = b.2.1 && m.form == 2 && l.spareFor.isNone && l.up && !l.lost then some q else none
    | _, _ => none

/-- A spare in the place of a lost lane group (R323): the same numbering and far tokens; every unacknowledged reliable flit is
sent again; mist positions that have not come are lost. -/
def takeOver (g : Nat) (old spare : Lane) : Lane :=
  { old.loseMist 32 with up := spare.up, lost := false, major := spare.major, minor := spare.minor, resend := old.replay,
                         wire := spare.wire, lastSend := spare.lastSend, spareFor := some g }

/-- The channels that end at a lane group end at its spare (R323), in this pour and in those to come. -/
def moveEnds (g q : Nat) (x : Region) : Region :=
  let turn (e : ChEnd) : ChEnd := if e = .link g then .link q else e
  { x with chans := x.chans.map (fun (c : Chan) => { c with src := turn c.src, dst := turn c.dst }), spares := (g, q) :: x.spares,
           linkOwed := x.linkOwed.map fun w => if w.1 = g then (q, w.2) else w }

/-- A lane group is lost (R323): its binding moves to its spare, whatever its region does, or its region, while it runs, stops
with LINK_LOST. -/
def loseLane (s : State) (g : Nat) : State :=
  let l := getLane s g
  let s := modLane s g fun l => { l with up := false, lost := true }
  match l.bind, laneBind s l with
  | some b, some k =>
    let st := (getRegion s ⟨b.1, b.2.1⟩).st
    if k.form = 2 then s
    else match spareOf s b k with
      | some q =>
        let s := modRegion s ⟨b.1, b.2.1⟩ (moveEnds g q)
        { s with lanes := s.lanes.zipIdx.map fun (x : Lane × Nat) =>
            if x.2 = q then takeOver g l x.1 else if x.2 = g then { x.1 with bind := none } else x.1 }
      | none => if st == 2 || st == 3 then meetStopRgn s ⟨b.1, b.2.1⟩ { cause := 0x50, chan := g } g else s
  | _, _ => s

/-- A region that starts or goes on meets the lane groups bound to it that are lost or down (R323, R324). -/
def meetLost (s : State) (r : Rgn) : State :=
  (List.range s.lanes.length).foldl (fun s g =>
    let l := getLane s g
    match l.bind with
    | some b => if b.1 = r.part && b.2.1 = r.handle && (l.lost || !l.up) then loseLane s g else s
    | none => s) s

end Sys2Proof.Machine
end

