-- ==== Sys2Proof/Machine/Fmt.lean ====
section
/-! DEFINITION. Number formats, exact values, rounding and conversion (spec/01: R18 to R38). A finite value is a
sign and an exact ratio of natural numbers; every operation forms the exact result and rounds once (R29). -/

namespace Sys2Proof.Machine

/-- Format codes (Table 1.5). -/
inductive Fmt where
  | fp32 | fp16 | bf16 | e4m3 | e5m2 | mxfp4 | mxe4m3 | mxe5m2
  | int8 | uint8 | int16 | int32 | uint32 | int64
  deriving DecidableEq, Repr

def Fmt.ofCode : Nat → Option Fmt
  | 0 => some .fp32 | 1 => some .fp16 | 2 => some .bf16 | 3 => some .e4m3 | 4 => some .e5m2
  | 5 => some .mxfp4 | 6 => some .mxe4m3 | 7 => some .mxe5m2 | 8 => some .int8 | 9 => some .uint8
  | 10 => some .int16 | 11 => some .int32 | 12 => some .uint32 | 13 => some .int64
  | _ => none

def Fmt.code : Fmt → Nat
  | .fp32 => 0 | .fp16 => 1 | .bf16 => 2 | .e4m3 => 3 | .e5m2 => 4 | .mxfp4 => 5 | .mxe4m3 => 6
  | .mxe5m2 => 7 | .int8 => 8 | .uint8 => 9 | .int16 => 10 | .int32 => 11 | .uint32 => 12 | .int64 => 13

/-- Width in bits of one element (of an MX format: of its element code). -/
def Fmt.width : Fmt → Nat
  | .fp32 | .int32 | .uint32 => 32
  | .fp16 | .bf16 | .int16 => 16
  | .e4m3 | .e5m2 | .mxe4m3 | .mxe5m2 | .int8 | .uint8 => 8
  | .mxfp4 => 4
  | .int64 => 64

def Fmt.isMx : Fmt → Bool
  | .mxfp4 | .mxe4m3 | .mxe5m2 => true
  | _ => false

/-- The five computing float formats ("float" in Tables 5.3 and 6.2). -/
def Fmt.isFloat : Fmt → Bool
  | .fp32 | .fp16 | .bf16 | .e4m3 | .e5m2 => true
  | _ => false

def Fmt.isInt : Fmt → Bool
  | .int8 | .uint8 | .int16 | .int32 | .uint32 | .int64 => true
  | _ => false

def Fmt.isSigned : Fmt → Bool
  | .uint8 | .uint32 => false
  | _ => true

/-- A floating-point layout (Table 1.1, Table 1.2, Table 1.3). `ieee`: an all-ones exponent is special, and `sig`:
it has signalling NaNs; `ocp`: only the all-ones code is a NaN; neither: no specials. -/
structure FLay where
  ebits : Nat
  mbits : Nat
  bias : Nat
  ieee : Bool
  sig : Bool
  ocp : Bool
  deriving DecidableEq, Repr

def layFp32 : FLay := ⟨8, 23, 127, true, true, false⟩
def layFp16 : FLay := ⟨5, 10, 15, true, true, false⟩
def layBf16 : FLay := ⟨8, 7, 127, true, true, false⟩
def layE4m3 : FLay := ⟨4, 3, 7, false, false, true⟩
def layE5m2 : FLay := ⟨5, 2, 15, true, false, false⟩
def layE2m1 : FLay := ⟨2, 1, 1, false, false, false⟩
def layE2m3 : FLay := ⟨2, 3, 1, false, false, false⟩
def layE3m2 : FLay := ⟨3, 2, 3, false, false, false⟩

/-- The layout of a float format, and of the elements of an MX format (R21). Integer formats have none; FP32's layout
stands there and is never read. -/
def Fmt.lay : Fmt → FLay
  | .fp16 => layFp16
  | .bf16 => layBf16
  | .e4m3 | .mxe4m3 => layE4m3
  | .e5m2 | .mxe5m2 => layE5m2
  | .mxfp4 => layE2m1
  | _ => layFp32

def FLay.width (l : FLay) : Nat := 1 + l.ebits + l.mbits

/-- The sign bit's weight. -/
def FLay.signBit (l : FLay) : Nat := 2 ^ (l.ebits + l.mbits)

/-- The largest finite code without its sign (Table 1.1). -/
def FLay.maxFinite (l : FLay) : Nat :=
  if l.ieee then (2 ^ l.ebits - 1) * 2 ^ l.mbits - 1
  else if l.ocp then 2 ^ (l.ebits + l.mbits) - 2
  else 2 ^ (l.ebits + l.mbits) - 1

/-- The positive canonical NaN (Table 1.2); a format without NaN has none and 0 stands here. -/
def FLay.canonNan (l : FLay) : Nat :=
  if l.ieee then (2 ^ l.ebits - 1) * 2 ^ l.mbits + 2 ^ (l.mbits - 1)
  else if l.ocp then 2 ^ (l.ebits + l.mbits) - 1
  else 0

/-- The code of +∞ where the format has one. -/
def FLay.infCode (l : FLay) : Nat := (2 ^ l.ebits - 1) * 2 ^ l.mbits

/-- An exact value: NaN (with sign, and whether it was signalling), ±∞, or a signed ratio num / den. -/
inductive FVal where
  | nan (neg sig : Bool)
  | inf (neg : Bool)
  | fin (neg : Bool) (num den : Nat)
  deriving DecidableEq, Repr

def FVal.neg : FVal → Bool
  | .nan n _ => n
  | .inf n => n
  | .fin n _ _ => n

def FVal.isNan : FVal → Bool
  | .nan _ _ => true
  | _ => false

def FVal.isSig : FVal → Bool
  | .nan _ s => s
  | _ => false

def FVal.isInf : FVal → Bool
  | .inf _ => true
  | _ => false

def FVal.isZero : FVal → Bool
  | .fin _ n _ => n = 0
  | _ => false

def FVal.nonFinite : FVal → Bool
  | .fin _ _ _ => false
  | _ => true

/-- The value of a code (R18, R19, R20); with ftz a subnormal reads as zero of its sign (R30). -/
def decodeF (l : FLay) (ftz : Bool) (c : Nat) : FVal :=
  let neg := bit c (l.ebits + l.mbits)
  let e := (c >>> l.mbits) % 2 ^ l.ebits
  let m := c % 2 ^ l.mbits
  if l.ieee && e = 2 ^ l.ebits - 1 then
    if m = 0 then .inf neg else .nan neg (l.sig && !bit m (l.mbits - 1))
  else if l.ocp && e = 2 ^ l.ebits - 1 && m = 2 ^ l.mbits - 1 then .nan neg false
  else if e = 0 then
    if ftz && m ≠ 0 then .fin neg 0 1 else .fin neg m (2 ^ (l.bias - 1 + l.mbits))
  else .fin neg ((2 ^ l.mbits + m) * 2 ^ (e - 1)) (2 ^ (l.bias - 1 + l.mbits))

/-- The code of a sign and a magnitude code. -/
def signed (l : FLay) (neg : Bool) (c : Nat) : Nat := if neg then l.signBit + c else c

/-- floor(log2(num / den)) of a positive ratio. -/
def ratioLog2 (num den : Nat) : Int :=
  if num.log2 ≥ den.log2 then
    if num ≥ den <<< (num.log2 - den.log2) then ((num.log2 - den.log2 : Nat) : Int)
    else ((num.log2 - den.log2 : Nat) : Int) - 1
  else if num <<< (den.log2 - num.log2) ≥ den then -((den.log2 - num.log2 : Nat) : Int)
  else -((den.log2 - num.log2 : Nat) : Int) - 1

/-- Whether a magnitude m + r/d rounds up (the `up` of round_fp, R29; SR as R31). -/
def roundsUp (mode : RMode) (neg : Bool) (m r d sr : Nat) : Bool :=
  match mode with
  | .rne => 2 * r > d || (2 * r = d && m % 2 = 1)
  | .rna => 2 * r ≥ d
  | .rtz => false
  | .rup => r > 0 && !neg
  | .rdn => r > 0 && neg
  | .sr => r * 2 ^ 24 / d > sr

/-- The finite, non-zero part of `round_fp` (R29): the magnitude code, whether the result is a code at all
(`none`: overflow), and the flags of the rounding. -/
def roundMag (l : FLay) (mode : RMode) (neg : Bool) (num den sr : Nat) : Nat × Flags :=
  let emin : Int := 1 - (l.bias : Int)
  let e := max (ratioLog2 num den) emin
  let s := e - (l.mbits : Int)
  let n := if s ≥ 0 then num else num <<< (-s).toNat
  let d := if s ≥ 0 then den <<< s.toNat else den
  let m := n / d
  let r := n % d
  let m' := if roundsUp mode neg m r d sr then m + 1 else m
  let tiny := num <<< (l.bias - 1) < den
  ((e - emin).toNat * 2 ^ l.mbits + m',
   flagIf (r > 0) fInexact ||| flagIf (tiny && r > 0) fUnderflow)

/-- `round_fp` (R29): the code and the flags raised. `sr` holds the 24 drawn bits for the element key (R31). -/
def roundFp (l : FLay) (mode : RMode) (sat ftz : Bool) (sr : Nat) (x : FVal) : Nat × Flags :=
  match x with
  | .nan neg _ => (signed l neg l.canonNan, fNone)
  | .inf neg =>
    if sat then (signed l neg l.maxFinite, fNone)
    else if l.ieee then (signed l neg l.infCode, fNone)
    else (signed l neg l.canonNan, fInvalid)
  | .fin neg num den =>
    if num = 0 then (signed l neg 0, fNone)
    else
      let (c, fl) := roundMag l mode neg num den sr
      if c > l.maxFinite then
        let fl := fl ||| fOverflow ||| fInexact
        if sat || mode = .rtz || (mode = .rup && neg) || (mode = .rdn && !neg) then
          (signed l neg l.maxFinite, fl)
        else if l.ieee then (signed l neg l.infCode, fl)
        else (signed l neg l.canonNan, fl)
      else if ftz && c ≠ 0 && c < 2 ^ l.mbits then (signed l neg 0, fl ||| fUnderflow ||| fInexact)
      else (signed l neg c, fl)

/-! ### Exact operations (R29, R30, R35) -/

/-- An exact sum of finite addends as a signed ratio over a common denominator. -/
def sumRatio (xs : List (Bool × Nat × Nat)) : Int × Nat :=
  xs.foldl (fun (acc : Int × Nat) x =>
    let v : Int := if x.1 then -(x.2.1 : Int) else (x.2.1 : Int)
    if acc.2 = x.2.2 then (acc.1 + v, acc.2)
    else if x.2.2 % acc.2 = 0 then (acc.1 * ((x.2.2 / acc.2 : Nat) : Int) + v, x.2.2)
    else if acc.2 % x.2.2 = 0 then (acc.1 + v * ((acc.2 / x.2.2 : Nat) : Int), acc.2)
    else (acc.1 * (x.2.2 : Int) + v * (acc.2 : Int), acc.2 * x.2.2)) (0, 1)

/-- The first NaN of a list, as the result NaN (R35). -/
def firstNan : List FVal → Option FVal
  | [] => none
  | .nan n _ :: _ => some (.nan n false)
  | _ :: r => firstNan r

/-- INVALID for every signalling NaN read (R20). -/
def sigFlags (xs : List FVal) : Flags := flagIf (xs.any FVal.isSig) fInvalid

/-- The finite addends of a list. -/
def finParts (xs : List FVal) : List (Bool × Nat × Nat) :=
  xs.filterMap (fun x => match x with | .fin n a b => some (n, a, b) | _ => none)

/-- The exact sum of addends by IEEE rules, with the sign of an exact zero as R30 states it; NaN operands are already
handled by the caller where their order differs from the addends' order. Beside a NaN addend, infinities of both signs raise
nothing: the spec states no order of the additions (the model's choice, log entry 58). -/
def sumF (mode : RMode) (xs : List FVal) : FVal × Flags :=
  match firstNan xs with
  | some n => (n, fNone)
  | none =>
    let pos := xs.any (fun x => match x with | .inf false => true | _ => false)
    let neg := xs.any (fun x => match x with | .inf true => true | _ => false)
    if pos && neg then (.nan false false, fInvalid)
    else if pos then (.inf false, fNone)
    else if neg then (.inf true, fNone)
    else
      let (n, d) := sumRatio (finParts xs)
      if n = 0 then
        if xs ≠ [] && xs.all (fun x => x.isZero && x.neg) then (.fin true 0 1, fNone)
        else (.fin (mode = .rdn) 0 1, fNone)
      else (.fin (n < 0) n.natAbs d, fNone)

/-- The exact product by IEEE rules. -/
def mulF (a b : FVal) : FVal × Flags :=
  match firstNan [a, b] with
  | some n => (n, fNone)
  | none =>
    let s := a.neg != b.neg
    match a, b with
    | .fin _ an ad, .fin _ bn bd => (.fin s (an * bn) (ad * bd), fNone)
    | _, _ => if a.isZero || b.isZero then (.nan false false, fInvalid) else (.inf s, fNone)

/-- The exact quotient by IEEE rules (R123). -/
def divF (a b : FVal) : FVal × Flags :=
  match firstNan [a, b] with
  | some n => (n, fNone)
  | none =>
    let s := a.neg != b.neg
    match a, b with
    | .fin _ an ad, .fin _ bn bd =>
      if bn = 0 then
        if an = 0 then (.nan false false, fInvalid) else (.inf s, fDivz)
      else (.fin s (an * bd) (ad * bn), fNone)
    | .inf _, .inf _ => (.nan false false, fInvalid)
    | .inf _, _ => (.inf s, fNone)
    | _, _ => (.fin s 0 1, fNone)

def negF : FVal → FVal
  | .nan n s => .nan n s
  | .inf n => .inf (!n)
  | .fin n a b => .fin (!n) a b

/-- Comparison of two non-NaN values; −0 and +0 are equal. -/
def cmpF (a b : FVal) : Ordering :=
  let key : FVal → Int × Nat := fun x =>
    match x with
    | .inf true => (-1, 0)
    | .inf false => (1, 0)
    | .fin n a b => (if n then -(a : Int) else (a : Int), b)
    | .nan _ _ => (0, 1)
  match a, b with
  | .inf x, .inf y => if x = y then .eq else if x then .lt else .gt
  | .inf x, _ => if x then .lt else .gt
  | _, .inf y => if y then .gt else .lt
  | _, _ =>
    let (an, ad) := key a
    let (bn, bd) := key b
    compare (an * (bd : Int)) (bn * (ad : Int))

/-! ### Integers (R23, R117) -/

/-- The value of an integer code. -/
def intVal (f : Fmt) (c : Nat) : Int := if f.isSigned then sval f.width c else ((c % 2 ^ f.width : Nat) : Int)

def intMin (f : Fmt) : Int := if f.isSigned then -((2 ^ (f.width - 1) : Nat) : Int) else 0
def intMax (f : Fmt) : Int :=
  if f.isSigned then ((2 ^ (f.width - 1) : Nat) : Int) - 1 else ((2 ^ f.width : Nat) : Int) - 1

/-- A value clamped to the format's range, and whether it was clamped. -/
def clampInt (f : Fmt) (x : Int) : Int × Bool :=
  if x < intMin f then (intMin f, true) else if x > intMax f then (intMax f, true) else (x, false)

/-- An integer result: wrap, or clamp with OVERFLOW under SAT (R23, R117). -/
def intResult (f : Fmt) (sat : Bool) (x : Int) : Nat × Flags :=
  if sat then
    let (y, c) := clampInt f x
    (uval f.width y, flagIf c fOverflow)
  else (uval f.width x, fNone)

/-! ### Conversions (R32 to R37) -/

/-- Float to integer (R33): rounding to an integer, NaN to 0, clamp with INVALID, INEXACT in range. -/
def floatToInt (f : Fmt) (mode : RMode) (sr : Nat) (x : FVal) : Nat × Flags :=
  match x with
  | .nan _ _ => (0, fInvalid)
  | .inf neg => (uval f.width (if neg then intMin f else intMax f), fInvalid)
  | .fin neg num den =>
    let m := num / den
    let r := num % den
    let m' := if roundsUp mode neg m r den sr then m + 1 else m
    let y : Int := if neg then -(m' : Int) else (m' : Int)
    let (z, c) := clampInt f y
    if c then (uval f.width z, fInvalid) else (uval f.width z, flagIf (r > 0) fInexact)

/-- The exact value of an integer as a float operand; zero is +0. -/
def intToF (x : Int) : FVal := .fin (x < 0) x.natAbs 1

/-- One scalar conversion between formats that are not MX (Table 1.6): the code and the flags. -/
def convert (src dst : Fmt) (mode : RMode) (sat ftz : Bool) (sr c : Nat) : Nat × Flags :=
  if src.isFloat then
    let x := decodeF src.lay ftz c
    let (r, fl) := if dst.isFloat then roundFp dst.lay mode sat ftz sr x else floatToInt dst mode sr x
    (r, fl ||| sigFlags [x])
  else if dst.isFloat then roundFp dst.lay mode sat ftz sr (intToF (intVal src c))
  else intResult dst sat (intVal src c)

/-- Whether a target float layout holds every value of a source format exactly (R28, Table 1.6). -/
def holdsExactly (src dst : Fmt) : Bool :=
  if src = dst then true
  else match src, dst with
  | .fp16, .fp32 | .bf16, .fp32 | .e4m3, .fp32 | .e5m2, .fp32 => true
  | .e4m3, .fp16 | .e5m2, .fp16 | .e4m3, .bf16 | .e5m2, .bf16 => true
  | .int8, .int16 | .int8, .int32 | .int8, .int64 | .int16, .int32 | .int16, .int64 | .int32, .int64 => true
  | .uint8, .int16 | .uint8, .int32 | .uint8, .uint32 | .uint8, .int64 | .uint32, .int64 => true
  | .int8, .fp32 | .uint8, .fp32 | .int16, .fp32 | .int8, .fp16 | .uint8, .fp16 | .int8, .bf16 | .uint8, .bf16 => true
  | .mxfp4, .fp32 | .mxe4m3, .fp32 | .mxe5m2, .fp32 => false
  | _, _ => false

/-- The E8M0 scale X = 2^(code − 127) as a ratio (R21). -/
def scaleRatio (code : Nat) : Nat × Nat := if code ≥ 127 then (2 ^ (code - 127), 1) else (1, 2 ^ (127 - code))

/-- The exact value of an MX element under its block's scale (R21); scale 0xFF makes it NaN. -/
def mxValue (f : Fmt) (ftz : Bool) (scale c : Nat) : FVal :=
  if scale = 255 then .nan false false
  else match decodeF f.lay ftz c with
    | .fin n a b => .fin n (a * (scaleRatio scale).1) (b * (scaleRatio scale).2)
    | v => v

/-- emax_elem of R37. -/
def emaxElem : Fmt → Int
  | .mxfp4 => 2
  | .mxe4m3 => 8
  | _ => 15

/-- The larger of two magnitudes given as ratios. -/
def maxMag (x y : Nat × Nat) : Nat × Nat := if x.1 * y.2 < y.1 * x.2 then y else x

/-- The scale code of a block of finite values (R37). -/
def mxScale (f : Fmt) (xs : List FVal) : Nat :=
  let amax := xs.foldl (fun (acc : Nat × Nat) x => match x with | .fin _ a b => maxMag acc (a, b) | _ => acc) (0, 1)
  if amax.1 = 0 then 0
  else
    let s := ratioLog2 amax.1 amax.2 - emaxElem f
    (max (-127) (min 127 s) + 127).toNat

/-- Conversion of a block of values into an MX block (R37): scale, element codes, flags. `srk i` holds the drawn bits of
element i. -/
def mxEncode (f : Fmt) (mode : RMode) (ftz : Bool) (srk : Nat → Nat) (xs : List FVal) : Nat × List Nat × Flags :=
  if xs.any FVal.nonFinite then (255, xs.map (fun _ => 0), sigFlags xs)
  else
    let sc := mxScale f xs
    let q := scaleRatio sc
    let rs := xs.zipIdx.map (fun p =>
      match p.1 with
      | .fin n a b => roundFp f.lay mode true ftz (srk p.2) (.fin n (a * q.2) (b * q.1))
      | v => roundFp f.lay mode true ftz (srk p.2) v)
    (sc, rs.map Prod.fst, orFlags (rs.map Prod.snd))

/-! ### Grouped exact accumulation (R38) -/

/-- The group size g of R38. -/
def groupSize : Fmt → Nat
  | .bf16 | .fp16 => 4
  | .mxfp4 => 32
  | _ => 8

/-- The exact sum of lane products and further addends, by IEEE rules on the exact products and sums. Of several NaN operands
the first decides, every lane of a before any of b, and the addends last (R35). Beside a NaN operand a lane 0 × ∞ raises
INVALID still, and products +∞ and −∞ of other lanes do not (the model's choice, log entry 58). -/
def dotF (mode : RMode) (ps : List (FVal × FVal)) (cs : List FVal) : FVal × Flags :=
  let prods := ps.map fun p => mulF p.1 p.2
  let x := sumF mode (prods.map Prod.fst ++ cs)
  ((firstNan (ps.map Prod.fst ++ ps.map Prod.snd ++ cs)).getD x.1, orFlags (prods.map Prod.snd) ||| x.2)

/-- The exact sum of the products of one group, by IEEE rules on the exact products and sums. -/
def groupExact (ps : List (FVal × FVal)) (scale : Option (Nat × Nat)) : FVal × Flags :=
  let sig := orFlags (ps.map (fun p => sigFlags [p.1, p.2]))
  let (s, fl) := dotF .rne ps []
  let fl := fl ||| sig
  match scale with
  | none => (s, fl)
  | some (sa, sb) =>
    if sa = 255 || sb = 255 then (.nan false false, fl)
    else match s with
      | .fin n a b =>
        (.fin n (a * (scaleRatio sa).1 * (scaleRatio sb).1) (b * (scaleRatio sa).2 * (scaleRatio sb).2), fl)
      | v => (v, fl)

/-- One step of `group_sum` on an FP32 accumulator (R38): the exact group sum rounds to FP32, then the sum rounds. DESIGN
CHOICE (log entry 15): with FTZ = 1 a subnormal accumulator cell is read as zero, like every subnormal input (R30); R38's
pseudocode leaves the flush of `acc` unsaid. -/
def groupStep (ftz : Bool) (acc : Nat) (s : FVal) : Nat × Flags :=
  let (t, f1) := roundFp layFp32 .rne false ftz 0 s
  let a := decodeF layFp32 ftz acc
  let b := decodeF layFp32 ftz t
  let (x, f2) := sumF .rne [b, a]
  let (r, f3) := roundFp layFp32 .rne false ftz 0 x
  (r, f1 ||| f2 ||| f3 ||| sigFlags [a, b])

/-- The operands of a group as values: a scale of 0xFF makes every element of its block a NaN (R21). -/
def scaledPairs (ps : List (FVal × FVal)) : Option (Nat × Nat) → List (FVal × FVal)
  | none => ps
  | some (sa, sb) => ps.map fun p =>
      (if sa = 255 then .nan false false else p.1, if sb = 255 then .nan false false else p.2)

/-- `group_sum` over a list of groups, each a list of operand pairs with the MX scales where there are any (R38). A NaN cell
has the sign of the first NaN operand: an element of A, then one of B, then the cell (R35; log entry 16). -/
def groupSum (ftz : Bool) (acc : Nat) (groups : List (List (FVal × FVal) × Option (Nat × Nat))) : Nat × Flags :=
  let r := groups.foldl (fun (st : Nat × Flags) g =>
    let (s, f1) := groupExact g.1 g.2
    let (a, f2) := groupStep ftz st.1 s
    (a, st.2 ||| f1 ||| f2)) (acc, fNone)
  let ps := groups.flatMap fun g => scaledPairs g.1 g.2
  match firstNan (ps.map Prod.fst ++ ps.map Prod.snd ++ [decodeF layFp32 ftz acc]) with
  | some n => ((roundFp layFp32 .rne false ftz 0 n).1, r.2)
  | none => r

/-- The INT8 form: exact group sums added to the INT32 cell with saturation and OVERFLOW (R38). -/
def groupSumInt (acc : Nat) (groups : List (List (Int × Int))) : Nat × Flags :=
  groups.foldl (fun (st : Nat × Flags) g =>
    let s := (g.map (fun p => p.1 * p.2)).foldl (· + ·) 0
    let (r, f) := intResult .int32 true (intVal .int32 st.1 + s)
    (r, st.2 ||| f)) (acc, fNone)

/-! ### The counter-based generator (spec/05: R145, R31) -/

def mul32 (a b : Nat) : Nat := a * b % 2 ^ 32

def randRound (h v : Nat) : Nat :=
  let h := h ^^^ v
  let h := mul32 h 0x9E3779B1
  let h := h ^^^ (h >>> 15)
  let h := mul32 h 0x85EBCA77
  h ^^^ (h >>> 13)

/-- `rand_word(seed, tag, key, ctr)` (R145). -/
def randWord (seed tag key ctr : Nat) : Nat :=
  let h := seed ^^^ 0x6A09E667
  let h := randRound (randRound (randRound h tag) key) ctr
  let h := mul32 h 0xC2B2AE3D
  h ^^^ (h >>> 16)

/-- `sr_bits(key)` (R31): the seed is the slot constant, the tag the firing's tag after its tag action. -/
def srBits (seed tag key : Nat) : Nat := randWord seed tag key 0 % 2 ^ 24

end Sys2Proof.Machine
end

