-- ==== Sys2Proof/Machine/Operands.lean ====
section
/-! DEFINITION. What a firing reads: its operation word's fields, its operands by their source codes, its format record;
and the tokens it emits (spec/03: R65 to R69, R72; spec/02: R47; spec/14: R326). -/

namespace Sys2Proof

/-- SHAPE, AUX[11:10] (Table 3.5). -/
def OpWord.shape (w : OpWord) : Nat := (w.aux.extractLsb' 10 2).toNat
/-- IMM10, AUX[9:0]. -/
def OpWord.imm10 (w : OpWord) : Nat := (w.aux.extractLsb' 0 10).toNat
/-- IMM12, AUX[11:0]. -/
def OpWord.imm12 (w : OpWord) : Nat := (w.aux.extractLsb' 0 12).toNat
/-- EOSM, AUX[13:12]. -/
def OpWord.eosm (w : OpWord) : Nat := (w.aux.extractLsb' 12 2).toNat
/-- STREAM, AUX[9:4]; SCOPE, AUX[3:2]; ORD, AUX[1:0]. -/
def OpWord.stream (w : OpWord) : Nat := (w.aux.extractLsb' 4 6).toNat
def OpWord.scope (w : OpWord) : Nat := (w.aux.extractLsb' 2 2).toNat
def OpWord.ord (w : OpWord) : Nat := (w.aux.extractLsb' 0 2).toNat
/-- The source code of position 0 (a), 1 (b) or 2 (c). -/
def OpWord.src (w : OpWord) (pos : Nat) : Nat :=
  match pos with | 0 => w.sa.toNat | 1 => w.sb.toNat | _ => w.sc.toNat
/-- A position that holds a token operand: code 0 or 1. -/
def OpWord.isTok (w : OpWord) (pos : Nat) : Bool := w.src pos < 2

end Sys2Proof

namespace Sys2Proof.Machine

/-- Fields of a format record (Table 1.4). -/
def recFmt (r : Nat) : Fmt := (Fmt.ofCode (bits r 15 12)).getD .fp32
def recRnd (r : Nat) : RMode := (RMode.ofCode (bits r 11 9)).getD .rne
def recFtz (r : Nat) : Bool := bit r 8
def recNfp (r : Nat) : Bool := bit r 7
def recNcan (r : Nat) : Bool := bit r 6

/-- An operand of a firing: the token at a matched or head position, or the bits of another source (R65). -/
structure Opd where
  /-- the source code -/
  code : Nat := 31
  tok : Option Token := none
  /-- the bits of a source that is no token -/
  raw : Nat := 0
  /-- at an EOS head under PAD, the slot constant as a token of the position's edge (R93) -/
  pad : Option Token := none
  deriving DecidableEq, Repr

/-- Everything a firing reads at its issue (R59). -/
structure FireIn where
  l : Loc
  w : OpWord
  opc : Nat
  slot : Nat
  tag : Nat
  a : Opd := {}
  b : Opd := {}
  c : Opd := {}
  const : Nat
  st : Nat
  rec_ : Nat
  e : Elem
  g : Region
  mergeB : Bool := false
  /-- PASS lets this candidate issue once without stopping (R243) -/
  passed : Bool := false
  clk : Nat := 0
  deriving DecidableEq, Repr

/-- Why a candidate does not issue (R61): the cause, CODE and ADDR of its record. -/
structure Stop where
  cause : Nat
  code : Nat := 0
  addr : Nat := 0
  deriving DecidableEq, Repr

/-- What a firing does. `outs` are its tokens by destination-table entry; `lat` runs from issue to commit and `occ` is
how long its unit takes no other firing (R43); `eat` are the positions it consumes and `fwd` those whose payload it sends
on; `nonfin` locates a non-finite value where R36 judges one. -/
structure FireOut where
  outs : List (Nat × Token) := []
  st : Option Nat := none
  banks : List (Nat × Bank) := []
  scratch : List (Nat × Nat × Nat) := []
  /-- resident bytes that it reads: offset and length (R193) -/
  reads : List (Nat × Nat) := []
  flags : Flags := 0
  recs : List FRec := []
  nonfin : Option (List Int) := none
  win : List WinMsg := []
  gauge : List GaugeOp := []
  access : Option Access := none
  signal : Option Nat := none
  alloc : Option Nat := none
  eat : List Nat := [0, 1, 2]
  fwd : List Nat := []
  /-- clk after the issue at which the buffers of consumed payloads are freed (R261, Table 6.5) -/
  hold : Nat := 0
  marks : Nat := 0
  /-- its predicate update is applied (R59, R112) -/
  upd : Bool := true
  lat : Nat := 1
  occ : Nat := 1
  deriving DecidableEq, Repr

/-- A firing's outcome: it meets a stopping cause at issue, or it issues. -/
inductive FireRes where
  | stop (x : Stop)
  | go (o : FireOut)
  deriving DecidableEq, Repr

/-- The operand of a position. -/
def FireIn.opd (i : FireIn) (pos : Nat) : Opd := match pos with | 0 => i.a | 1 => i.b | _ => i.c

/-- Poison of an operand: only tokens carry it (R65). -/
def Opd.poison (o : Opd) : Bool := match o.tok with | some t => t.hdr.poison | none => false

/-- in_poison() (R72). -/
def FireIn.poison (i : FireIn) : Bool := i.a.poison || i.b.poison || i.c.poison

/-- in_fidx() (R72, R326): of the first poisoned token operand in the order a, b, c; 0 when there is none. -/
def FireIn.fidx (i : FireIn) : Nat :=
  if i.a.poison then (i.a.tok.getD {}).hdr.fidx
  else if i.b.poison then (i.b.tok.getD {}).hdr.fidx
  else if i.c.poison then (i.c.tok.getD {}).hdr.fidx else 0

/-- out_tag (R66, R72). -/
def outTag (w : OpWord) (t : Nat) : Nat :=
  match w.taga.toNat with | 1 => tagStep t 1 | 2 => tagStep t (-1) | _ => t

/-- The format of the firing's record (R69). -/
def FireIn.fmt (i : FireIn) : Fmt := recFmt i.rec_

/-- A source's low bits fitted into one element of width w (R65): a 32-bit constant is sign-extended into 64 bits, the
slot state and the zero-extended tag are 64-bit sources. -/
def fitBits (code raw wd : Nat) : Nat :=
  if wd = 64 then (if code = 2 then uval 64 (sval 32 raw) else raw % 2 ^ 64) else raw % 2 ^ wd

/-- Lanes of a vector in a format of width w (R24): 128 bytes. -/
def vecLanes (wd : Nat) : Nat := 1024 / wd

/-- The value of an operand as a scalar, in the firing's format (R65). -/
def FireIn.scalar (i : FireIn) (o : Opd) : Nat :=
  match o.tok with
  | some t => t.payload % 2 ^ i.fmt.width
  | none => fitBits o.code o.raw i.fmt.width

/-- Element n of an operand: of a token its lane or cell, of any other source its bits in every place (R65). -/
def Opd.cell (o : Opd) (wd n : Nat) : Nat :=
  match o.tok with
  | some t => lane wd t.payload n
  | none => fitBits o.code o.raw wd

/-- Bit n of an operand's validity mask; a source that is no token is valid (R65). -/
def Opd.mask (o : Opd) : Nat := match o.tok with | some t => t.hdr.vmask | none => 0xFFFF

/-- The low 32 bits that a control operand, a selector or a coordinate is read by (R90). -/
def Opd.low32 (o : Opd) : Nat := match o.tok with | some t => t.payload % 2 ^ 32 | none => o.raw % 2 ^ 32

/-- The sequence numbers of a token that no access made (R292). -/
def seqBase (g : Region) (tag r : Nat) : Nat :=
  let v := curVariant g
  let sumK := (g.bodies.map fun b => b.desc.k).sum
  let kbase := ((g.bodies.filter fun b => b.desc.num < tagBody tag).map fun b => b.desc.k).sum
  (tagIter tag * (v.nr * sumK) + v.nr * (kbase + tagInst tag) + r) % 2 ^ 24

/-- A header with the sequence fields that R292 gives a token of the pour. -/
def withSeq (g : Region) (h : Hdr) : Hdr :=
  if polSeq g then
    let o := seqBase g h.tag 0
    { h with seq := true, seqo := o, seqp := (o + 2 ^ 24 - 1) % 2 ^ 24, seqs := (o + (curVariant g).nr) % 2 ^ 24 }
  else { h with seq := false, seqo := 0, seqp := 0, seqs := 0 }

/-- emit (R72): a data token on an entry, with poison, fault index and sequence numbers. -/
def FireIn.emit (i : FireIn) (entry : Nat) (h : Hdr) (payload : Nat) (pz : Bool) : Nat × Token :=
  (entry, { hdr := withSeq i.g { h with poison := pz, fidx := if pz then i.fidx else 0 }, payload := payload })

/-- The header of a scalar in a format: SHAPE 00 or, for 64 bits, PKIND 01 (R80, R81). -/
def scalarHdr (f : Fmt) (tag : Nat) : Hdr :=
  { tag := tag, pkind := if f.width = 64 then 1 else 0, vmask := 1, fmt := f.code }

/-- The header of a vector. -/
def vectorHdr (f : Fmt) (tag vmask : Nat) : Hdr := { tag := tag, pkind := 2, vmask := vmask % 2, fmt := f.code }

/-- DEST (R66). -/
def FireIn.dest (i : FireIn) : Nat := i.w.dest.toNat

/-- The token that an operand is forwarded as: its own, or under PAD the slot constant's (R93). -/
def Opd.data (o : Opd) : Token := (o.tok <|> o.pad).getD {}

/-- The header of an operand's token, or an empty one. -/
def Opd.hdr (o : Opd) : Hdr := o.data.hdr

/-- A forwarded token (R89): KIND, FMT, PKIND, shape fields, VMASK and STAT of the data operand, under a tag, with poison
and fault index. -/
def FireIn.forward (i : FireIn) (entry tag : Nat) (o : Opd) (pz : Bool) : Nat × Token :=
  i.emit entry { o.hdr with tag := tag } o.data.payload pz

/-- The channels of a destination entry (R47). -/
def destChans (e : Elem) (k : Nat) : List Nat := nth e.cfg.dest k []

end Sys2Proof.Machine
end

