-- ==== Sys2Proof/Machine/Fire.lean ====
section
/-! DEFINITION. Issue (spec/02: R57, R59 to R61; spec/04: R89, R93; spec/10: R259, R261): gathering a candidate's operands,
taking them away, and putting the firing's effects in place. -/

namespace Sys2Proof.Machine

/-- The channel bound to a slot's position (R46). -/
def recvOf (e : Elem) (slot pos : Nat) : Option RecvEnt :=
  e.cfg.recv.find? fun r => r.valid && r.slot == slot && r.pos == pos

/-- The FIFO of a HEAD-bound channel. -/
def headsOf (e : Elem) (ch : Nat) : List Held := (lookupKey e.heads ch).getD []

/-- The head of a slot's HEAD-bound position (R55). -/
def headOf (e : Elem) (slot pos : Nat) : Option Held :=
  match recvOf e slot pos with
  | some r => (headsOf e r.chan).head?
  | none => none

/-- The set of a slot and tag (R53). -/
def setOf (e : Elem) (slot tag : Nat) : Option MSet := e.sets.find? fun m => m.slot == slot && m.tag == tag

/-- A position of a matched set. -/
def MSet.pos (m : MSet) (p : Nat) : Option Held := match p with | 0 => m.a | 1 => m.b | _ => m.c

/-- A position of a matched set replaced. -/
def MSet.put (m : MSet) (p : Nat) (h : Option Held) : MSet :=
  match p with | 0 => { m with a := h } | 1 => { m with b := h } | _ => { m with c := h }

/-- A set that holds nothing, no mark included (R99). -/
def MSet.empty (m : MSet) : Bool := m.a.isNone && m.b.isNone && m.c.isNone && m.orphan == 0

/-- The resident operand at a position of a candidate. -/
def heldAt (e : Elem) (w : OpWord) (slot tag pos : Nat) : Option Held :=
  match w.src pos with
  | 0 => (setOf e slot tag).bind fun m => m.pos pos
  | 1 => headOf e slot pos
  | _ => none

/-- The format and kind that step 5 fixed for the channel of a position (R245, R361). -/
def edgeKind (g : Region) (e : Elem) (slot pos : Nat) : Nat × Nat :=
  match recvOf e slot pos with
  | some r =>
    (match g.chans.find? fun (c : Chan) => c.num == r.chan with
     | some c => (match c.fmts with | some (k :: _) => k | _ => (0, 0))
     | none => (0, 0))
  | none => (0, 0)

/-- The stored and valid columns of a tile that an edge alone gives (R99): the largest of 128, 64, 32 and 16 that fits. -/
def zeroCols (fmt : Nat) : Nat := ([128, 64, 32, 16].find? fun c => tileBytes fmt 32 c ≤ 4096).getD 16

/-- The header of a token of a format and kind with nothing else known of it (R99). -/
def edgeHdr (k : Nat × Nat) (tag : Nat) : Hdr :=
  let h : Hdr := { tag := tag, fmt := k.1, pkind := k.2 }
  let h := if k.2 = 3 then { h with trows := 32, vrows := 32, tcols := zeroCols k.1, vcols := zeroCols k.1 } else h
  { h with vmask := fullMask h }

/-- The slot constant as a token of an edge: fitted into the edge's format and repeated in every lane or cell (R65, R93; of
a vector or tile edge the shape is R99's, log entry 19, DESIGN CHOICE). The scales of an MX tile are a free value. -/
def padToken (k : Nat × Nat) (tag const : Nat) : Token :=
  let wd := fmtWidth k.1
  let v := fitBits 2 const wd
  let h := edgeHdr k tag
  { hdr := h,
    payload :=
      if k.2 < 2 then v
      else if k.2 = 2 then packLanes wd (List.replicate (1024 / wd) v)
      else packLanes wd (List.replicate (32 * h.tcols) v)
        + 2 ^ (8 * planeOff k.1 32 h.tcols) * packLanes 8 (List.replicate (scaleBytes k.1 32 h.tcols) Config.padScale.toNat) }

/-- The operand of a position (R65, R72). An EOS head under PAD reads the slot constant (R93). -/
def operandAt (g : Region) (e : Elem) (w : OpWord) (slot tag pos : Nat) : Opd :=
  let code := w.src pos
  let const := nth e.consts slot 0
  if code < 2 then
    match heldAt e w slot tag pos with
    | some h =>
      if h.tok.hdr.kind = 1 then { code := 2, raw := const, pad := some (padToken (edgeKind g e slot pos) tag const) }
      else { code := code, tok := some h.tok }
    | none => { code := code }
  else if code = 2 then { code := 2, raw := const }
  else if code = 3 then { code := 3, raw := nth e.states slot 0 }
  else if code = 8 then { code := 8, raw := tag }
  else { code := code }

/-- Bytes of pool buffer b in the scratchpad (R51). -/
def poolBase (b : Nat) : Nat := 4096 * b

/-- Bytes written in an element's scratchpad; a word written whole has good check bits again (R406). -/
def Elem.wr (e : Elem) (off n v : Nat) : Elem :=
  { e with scratch := writeBytes e.scratch off n v,
           badWords := e.badWords.filter fun x => !(off ≤ 64 * x && 64 * x + 64 ≤ off + n) }

/-- A control operand is true (R90). -/
def Held.truth (h : Held) : Bool := h.tok.payload % 2 ^ 32 != 0

/-- The operand positions that a candidate takes: all; of a `merge` its one operand (R98); of a `cmerge` the control and the
selected side, or whatever is there when the control is poisoned (R99). -/
def takes (e : Elem) (opc slot tag : Nat) (mergeB : Bool) : List Nat :=
  match opc with
  | 0x02 => [b2n mergeB]
  | 0x03 =>
    (match (setOf e slot tag).bind fun m => m.c with
     | some c => if c.tok.hdr.poison then [0, 1, 2] else if c.truth then [2, 0] else [2, 1]
     | none => [0, 1, 2])
  | _ => [0, 1, 2]

/-- What a firing writes at its commit is in place (R60). -/
def Firing.land (f : Firing) (e : Elem) : Elem :=
  let e := match f.st with | some v => { e with states := modNth e.states f.slot fun _ => v % 2 ^ 64 } | none => e
  let e := f.banks.foldl (fun e p => { e with banks := modNth e.banks p.1 fun _ => p.2 }) e
  f.scratch.foldl (fun e p => e.wr p.1 p.2.1 p.2.2) e

/-- The element as R44 shows it to the next firing: with the writes of every firing that has issued. -/
def Elem.ahead (e : Elem) : Elem := e.pending.foldl (fun e f => f.land e) e

/-- Everything the chosen candidate reads. -/
def gather (s : State) (f : Focus) (w : OpWord) (opc : Nat) : FireIn :=
  let e := (getElem s f.loc).ahead
  let g := getRegion s (rgnOf f.loc)
  let ps := takes e opc f.slot f.tag f.mergeB
  let opd (p : Nat) : Opd := if ps.contains p then operandAt g e w f.slot f.tag p else {}
  { l := f.loc, w := w, opc := opc, slot := f.slot, tag := f.tag, a := opd 0, b := opd 1, c := opd 2,
    const := nth e.consts f.slot 0, st := nth e.states f.slot 0, rec_ := nth e.cfg.fmts w.fmt.toNat 0, e := e, g := g,
    mergeB := f.mergeB, passed := g.pass == some (f.loc.elem, f.slot, f.tag), clk := s.clk }

/-- An operand leaves the element: its channel's unit of quota goes back by an acknowledgement (R79, R259). -/
def ackChan (g : Region) (ch : Nat) : Region :=
  { g with chans := g.chans.map fun c =>
      if c.num = ch then { c with acks := c.acks ++ [{ hops := c.hops.length, count := 1 }] } else c }

/-- A held buffer or spill slot is freed (R261). -/
def freeLoc (e : Elem) (p : PLoc) : Elem :=
  match p with
  | .pool b => { e with poolHeld := e.poolHeld.filter (· ≠ b) }
  | .spill n => { e with spillHeld := e.spillHeld.filter (· ≠ n) }
  | .fetching n b => { e with poolHeld := e.poolHeld.filter (· ≠ b), spillHeld := e.spillHeld.filter (· ≠ n) }
  | .here => e

/-- A held buffer is freed at a later clk (R261, Table 6.5). -/
def freeLater (e : Elem) (b clk : Nat) : Elem := { e with freeing := (b, clk) :: e.freeing }

/-- What holds a place that an operand leaves: nothing, or a buffer until a later clk. -/
def leaveLoc (e : Elem) (p : PLoc) (clk hold : Nat) : Elem :=
  match p, hold with
  | .pool b, n + 1 => freeLater e b (clk + (n + 1))
  | _, _ => freeLoc e p

/-- The buffers whose time has come are free (R261). -/
def Elem.settle (clk : Nat) (e : Elem) : Elem :=
  if e.freeing = [] then e
  else { e with poolHeld := e.poolHeld.filter (fun b => !e.freeing.any fun q => q.1 == b && q.2 ≤ clk),
                freeing := e.freeing.filter fun q => clk < q.2 }

/-- The head of a channel leaves; the next one becomes head now. -/
def popHead (e : Elem) (ch clk : Nat) : Elem :=
  match headsOf e ch with
  | _ :: h :: r => { e with heads := putKey e.heads ch ({ h with stamp := max h.stamp clk } :: r) }
  | [_] => { e with heads := delKey e.heads ch }
  | [] => e

/-- The EOS flags of a slot wait for no data set since now (R58, R92). -/
def touchEos (e : Elem) (slot clk : Nat) : Elem :=
  { e with eosTags := e.eosTags.map fun q =>
      if (nth e.cfg.recv q.1 {}).slot = slot then (q.1, q.2.1, max q.2.2 clk) else q }

/-- A matched operand leaves its set; an empty set leaves the store or frame. Of a set that stays, the frame-ready entry is
used up (R99). -/
def popSet (e : Elem) (slot tag pos clk : Nat) : Elem :=
  let out (m : MSet) : MSet :=
    if m.slot = slot ∧ m.tag = tag then { m.put pos none with ready := none } else m
  touchEos { e with sets := (e.sets.map out).filter fun m => !m.empty } slot clk

/-- One position of a candidate is consumed (R59, R259): the operand goes, its quota returns, and its buffer is freed
unless the firing sends the payload on. The buffer kept is returned. -/
def eatPos (s : State) (f : Focus) (w : OpWord) (keep : Bool) (hold pos : Nat) : State × Option Nat :=
  let e := getElem s f.loc
  match heldAt e w f.slot f.tag pos with
  | none => (s, none)
  | some h =>
    if w.src pos = 1 && h.tok.hdr.kind = 1 then (s, none)
    else
      let e := if w.src pos = 1 then popHead e h.tok.hdr.chan s.clk else popSet e f.slot f.tag pos s.clk
      let buf := match h.loc with | .pool b => if keep then some b else none | _ => none
      let e := if buf.isSome then e else leaveLoc e h.loc s.clk hold
      let s := modElem s f.loc fun _ => e
      (modRegion s (rgnOf f.loc) fun g => ackChan g h.tok.hdr.chan, buf)

/-- The predicate update of a firing (R56, R59): p15 ignores it. -/
def predUpdate (w : OpWord) (p : Nat) : Nat :=
  let n := w.pidx.toNat
  if n = 15 then p
  else match w.pact.toNat with
    | 1 => p ||| 2 ^ n
    | 2 => if bit p n then p - 2 ^ n else p
    | 3 => p ^^^ 2 ^ n
    | _ => p

/-- One unit of quota reserved on a channel (R57). -/
def reserve (g : Region) (ch : Nat) : Region :=
  { g with chans := g.chans.map fun c => if c.num = ch then { c with reserved := c.reserved + 1 } else c }

/-- The lowest free pool buffer (R261). -/
def freeBuf (e : Elem) : Option Nat := (List.range e.cfg.pooln).find? fun b => !e.poolHeld.contains b

/-- The unit that serves an opcode (R43, R120, Table 6.4): 0 scalar ALU, 1 vector unit, 2 tile array, 3 function unit,
4 port, 5 elementwise tile pipe, 6 filter and compact logic, 7 the local forms of `ld` and `st` (Table 8.6). -/
def unitOf (opc shape mod : Nat) : Nat :=
  if opc = 0x0D then 4
  else if opc = 0xC5 || opc = 0xC6 then 6
  else if (opc = 0xA0 || opc = 0xA1) && 2 ≤ mod && mod ≤ 4 then 7
  else if opc < 0x20 || opc = 0xFF then 0
  else if opc < 0x60 then
    (if shape = 2 || opc = 0x2E || opc = 0x48 || opc = 0x49 || opc = 0x4A || opc = 0x4B then 1 else 0)
  else if opc < 0x63 then 2
  else if opc < 0x80 then 5
  else if opc < 0xA0 then 3
  else 4

/-- The output tokens of a firing by channel, ascending field order (R47). -/
def expandOuts (e : Elem) (outs : List (Nat × Token)) : List OutTok :=
  outs.flatMap fun o => (destChans e o.1).map fun ch => { chan := ch, tok := { o.2 with hdr := { o.2.hdr with chan := ch } } }

/-- A token that carries a payload in a pool buffer (R51). -/
def bigTok (t : Token) : Bool := t.hdr.kind == 0 && t.hdr.pkind ≥ 2

/-- The first of the elements that share a key. -/
def firstPerKey {α : Type} (key : α → Nat) : List α → List α
  | [] => []
  | a :: r => a :: (firstPerKey key r).filter fun b => key b != key a

/-- An EOS set sends one EOS on a channel that stands in several of its entries (R92); the key holds channel and KIND. -/
def onceFor {α : Type} (m : Mode) (key : α → Nat) (l : List α) : List α :=
  match m with | .eos => firstPerKey key l | _ => l

/-- A placeholder for a fault index that the commit draws (R325): above every 16-bit value. -/
def pendingFidx (ord : Nat) : Nat := 2 ^ 16 + ord

/-- The record of poison that originates at a firing (R327). -/
def nonfinRec (i : FireIn) (cs : List Int) : FRec :=
  { cause := 0x24, tag := i.tag, slot := i.slot, coords := cs }

/-- A firing's outputs and banks poisoned with a fault index (R326), but those that are poisoned already, EOS, a bank that the
firing clears (R155, R157), and after the first output the link token of a `ctxnew` (R100). -/
def poisonOut (clears link : Bool) (fx : Nat) (o : FireOut) : FireOut :=
  let pz (h : Hdr) : Hdr := if h.kind = 1 || h.poison then h else { h with poison := true, fidx := fx }
  let out (p : Nat × Token) : Nat × Token := (p.1, { p.2 with hdr := pz p.2.hdr })
  { o with outs := if link then (o.outs.take 1).map out ++ o.outs.drop 1 else o.outs.map out,
           banks := o.banks.map fun p => (p.1, if clears || p.2.poison then p.2 else { p.2 with poison := true, fidx := fx }),
           access := o.access.map fun a => if a.poison then a else { a with poison := true, fidx := fx } }

/-- R36, R326 and R406 applied to a firing's outputs: an uncorrectable word that it read, and under POISON a non-finite
value, poison them; poison that no operand brought originates here. `bad` is the location code of the word. -/
def judgeOut (i : FireIn) (ord : Nat) (bad : Option Nat) (o : FireOut) : FireOut × Bool :=
  let clears := i.opc == 0x63 || i.opc == 0x65
  let link := i.opc == 0x04
  match bad with
  | some code =>
    let o := poisonOut clears link (if i.poison then i.fidx else pendingFidx ord) o
    ({ o with recs := { cause := 0x12, tag := i.tag, slot := i.slot, addr := code } :: o.recs }, true)
  | none =>
    match o.nonfin with
    | none => (o, false)
    | some cs =>
      if !recNfp i.rec_ then (o, false)
      else if i.poison then (poisonOut clears link i.fidx o, false)
      else
        let o := poisonOut clears link (pendingFidx ord) o
        ({ o with recs := nonfinRec i cs :: o.recs }, true)

/-- The scratchpad bytes that a firing reads: the payloads of its operands in the pool, and resident bytes. -/
def readRanges (e : Elem) (f : Focus) (w : OpWord) (o : FireOut) : List (Nat × Nat) :=
  (o.eat.filterMap fun p => match heldAt e w f.slot f.tag p with
    | some h => (match h.loc with | .pool b => some (poolBase b, payloadBytes h.tok.hdr) | _ => none)
    | none => none) ++ o.reads

/-- The offset of an uncorrectable word among ranges of bytes (R406). -/
def badRead (e : Elem) (rs : List (Nat × Nat)) : Option Nat :=
  rs.findSome? fun r => (e.badWords.find? fun x => r.2 ≠ 0 && r.1 / 64 ≤ x && x ≤ (r.1 + r.2 - 1) / 64).map (64 * ·)

/-- The clk of a set's last placement. -/
def MSet.stamp (m : MSet) : Nat := ((m.a.toList ++ m.b.toList ++ m.c.toList).map fun (h : Held) => h.stamp).foldl max 0

/-- The complete sets that wait in a frame for the 64-entry frame-ready list join it in the order of their completion, as
room allows (R53). `full` says whether a set is complete. -/
def listFramesBy (full : MSet → Bool) (clk : Nat) : Nat → Elem → Elem
  | 0, e => e
  | fuel + 1, e =>
    let waiting := e.sets.filter fun m => m.inFrame && m.ready.isNone && full m
    if 64 ≤ (e.sets.filter fun m => m.inFrame && m.ready.isSome).length then e
    else match waiting with
      | [] => e
      | w :: r =>
        let m := r.foldl (fun x y => if y.stamp < x.stamp then y else x) w
        listFramesBy full clk fuel
          { e with sets := e.sets.map fun x =>
              if x.slot = m.slot ∧ x.tag = m.tag then { x with ready := some (max clk m.stamp) } else x }

/-- A set is complete (R53): every MATCH position of its slot is present; of a `merge`, one of them (R98); of a `cmerge`, the
control with its selected side, or a poisoned control (R99). -/
def setFull (e : Elem) (m : MSet) : Bool :=
  let wd := nth e.cfg.slots m.slot 0
  let ps := [0, 1, 2].filter fun p => (opFields wd).src p == 0
  match (opCode wd).toNat with
  | 0x02 => ps.any fun p => (m.pos p).isSome
  | 0x03 =>
    (match m.c with
     | some c => c.tok.hdr.poison || (if c.truth then m.a.isSome else m.b.isSome)
     | none => false)
  | _ => ps.all fun p => (m.pos p).isSome

/-- The frame-ready list takes what it has room for. -/
def listFrames (clk : Nat) (e : Elem) : Elem := listFramesBy (setFull e) clk 64 e

/-- The effects of an issue in its clk (R43, R59): the predicate, and the unit taken. -/
def applyIssue (clk : Nat) (w : OpWord) (opc : Nat) (o : FireOut) (upd : Bool) (e : Elem) : Elem :=
  let e := if upd then { e with preds := predUpdate w e.preds } else e
  { e with lastIssue := some clk, unitFree := modNth e.unitFree (unitOf opc w.shape w.mod.toNat) fun _ => clk + o.occ }

/-- The operands of the positions leave, one after another; the buffers kept for payloads that are sent on. -/
def eatAll (s : State) (f : Focus) (w : OpWord) (o : FireOut) : State × List Nat :=
  o.eat.foldl (fun (q : State × List Nat) pos =>
    let t := eatPos q.1 f w (o.fwd.contains pos) o.hold pos
    (t.1, q.2 ++ t.2.toList)) (s, [])

/-- The buffers of a firing's payloads (R261): those kept, or the one drawn for a payload that the firing forms. -/
def drawBufs (e : Elem) (outs : List OutTok) (kept : List Nat) : List Nat :=
  if kept = [] && outs.any (fun t => bigTok t.tok) then (freeBuf e).toList else kept

/-- The buffer of an outgoing payload is held from the issue on (R261). -/
def holdBuf (e : Elem) (bufs : List Nat) : Elem :=
  match bufs with
  | b :: _ => { e with poolHeld := b :: e.poolHeld.filter (· ≠ b) }
  | [] => e

/-- The bytes of an outgoing payload in its buffer (R51). -/
def bufBytes (outs : List OutTok) (bufs : List Nat) : List (Nat × Nat × Nat) :=
  match bufs, outs.find? (fun t => bigTok t.tok) with
  | b :: _, some t => [(poolBase b, payloadBytes t.tok.hdr, t.tok.payload)]
  | _, _ => []

/-- Orphan marks placed by a poisoned `cmerge` (R99). -/
def placeMarks (e : Elem) (slot tag marks : Nat) (fr : Bool) : Elem :=
  if marks = 0 then e
  else if e.sets.any fun m => m.slot == slot && m.tag == tag then
    { e with sets := e.sets.map fun m => if m.slot = slot ∧ m.tag = tag then { m with orphan := marks, ready := none } else m }
  else { e with sets := { slot := slot, tag := tag, orphan := marks, inFrame := fr } :: e.sets }

/-- A body's next live copy is allocated in rotation (R100). -/
def allocInst (g : Region) (b : Nat) : Region :=
  let up (x : BodySt) : BodySt :=
    { x with alloc := x.alloc + 1, insts := modNth x.insts (x.alloc % x.desc.k) fun _ =>
      { st := 1, counts := List.replicate (2 ^ x.desc.logw) 0 } }
  { g with bodies := g.bodies.map fun (x : BodySt) => if x.desc.num = b then up x else x }

/-- What the issue leaves to the commit (R60). -/
def mkFiring (s : State) (i : FireIn) (o : FireOut) (outs : List OutTok) (bufs : List Nat) (ord : Nat) (orig : Bool) :
    Firing :=
  { slot := i.slot, tag := i.tag, due := s.clk + o.lat, st := o.st, banks := o.banks,
    scratch := o.scratch ++ bufBytes outs bufs, outs := outs, flags := o.flags, recs := o.recs, origin := orig, win := o.win, gauge := o.gauge, access := o.access, signal := o.signal, bufs := bufs,
    ord := ord }

/-- The location code of a byte of an element's scratchpad (R406). -/
def scratchCode (s : State) (l : Loc) (off : Nat) : Nat :=
  let e := getElem s l
  let q := recPlace s l.part (getRegion s (rgnOf l)).place e
  locCode q.1 e.kind q.2.1 q.2.2 off

/-- The buffer of a completion token's payload (R261): one kept of the firing's operands, or one drawn at issue. -/
def drawAccess (e : Elem) (kept : List Nat) (a : Option Access) : Elem × Option Access :=
  match a with
  | some x =>
    if !x.big then (e, a)
    else match kept with
      | b :: _ => (e, some { x with buffer := some b })
      | [] => ({ e with poolHeld := (freeBuf e).toList ++ e.poolHeld }, some { x with buffer := freeBuf e })
  | none => (e, none)

/-- The channels on which the firing reserves a unit of quota at issue (R57, R190). -/
def reserved (o : FireOut) (outs : List OutTok) : List Nat :=
  match o.access with
  | some a => a.dest
  | none => (outs.map fun (t : OutTok) => t.chan).dedup

/-- What an issue does to its region (R57, R100, R243, R267): quota reserved, a live copy allocated, a PASS used up. -/
def issueRegion (clk : Nat) (chs : List Nat) (alloc : Option Nat) (passed : Bool) (g : Region) : Region :=
  let g := chs.foldl reserve g
  let g := match alloc with | some b => allocInst g b | none => g
  { g with pass := if passed then none else g.pass, idleBase := clk }

/-- A candidate issues (R59, R60): operands taken, effects in place, the rest left to its commit. `upd` says whether the
firing applies its predicate update. -/
def issue (s : State) (f : Focus) (i : FireIn) (o : FireOut) (upd : Bool) : State :=
  let ord := s.ids
  let bad := (badRead i.e (readRanges i.e f i.w o)).map (scratchCode s f.loc)
  let j := judgeOut i ord bad o
  let q := eatAll { s with ids := s.ids + 1, focus := none } f i.w j.1
  let e := applyIssue s.clk i.w i.opc j.1 upd (getElem q.1 f.loc)
  let outs := onceFor f.mode (fun t => 4 * t.chan + t.tok.hdr.kind) (expandOuts e j.1.outs)
  let bufs := if j.1.access.isSome then [] else drawBufs e outs q.2
  let e := listFrames s.clk <| placeMarks (holdBuf e bufs) f.slot f.tag j.1.marks
    (match setOf (getElem s f.loc) f.slot f.tag with | some m => m.inFrame | none => false)
  let d := drawAccess e q.2 j.1.access
  let o := { j.1 with access := d.2 }
  let s := modElem q.1 f.loc fun _ => { d.1 with pending := d.1.pending ++ [mkFiring s i o outs bufs ord j.2] }
  modRegion s (rgnOf f.loc) (issueRegion s.clk (reserved j.1 outs) j.1.alloc i.passed)

/-- The chosen candidate issues by its opcode's meaning, or meets a stopping cause (R61): then nothing of it changes. -/
def fire (s : State) (w : OpWord) (opc : Nat) (m : FireIn → FireRes) : State :=
  match s.focus with
  | none => s
  | some f =>
    let i := gather s f w opc
    match (if f.mode = .mismatch then FireRes.stop { cause := 0x21 } else m i) with
    | .stop x =>
      let s := modRegion s (rgnOf f.loc) fun g => { g with stopAt := some (g.stopAt.getD (f.loc.elem, f.slot, f.tag)) }
      let s := meetStop s f.loc { cause := x.cause, tag := f.tag, slot := f.slot, code := x.code, addr := x.addr } 0
      { s with focus := none }
    | .go o => issue s f i o o.upd

/-- A firing whose meaning never stops. -/
def fireGo (s : State) (w : OpWord) (opc : Nat) (m : FireIn → FireOut) : State := fire s w opc fun i => .go (m i)

end Sys2Proof.Machine
end

