-- ==== Sys2Proof/Machine/Select.lean ====
section
/-! DEFINITION. Candidates, eligibility and the choice of one firing (spec/02: R55 to R58, R61; spec/04: R92 to R95, R98,
R99; spec/10: R261). -/

namespace Sys2Proof.Machine

/-- The operation word of a slot, as its fields. -/
def slotWord (e : Elem) (slot : Nat) : Word64 := nth e.cfg.slots slot 0xFF00000FFFE00000

/-- The oldest live iteration of a context in the element's copy (R94). -/
def oldestCopy (e : Elem) (body inst : Nat) : Nat := (lookupKey e.oldest (body, inst)).getD 0

/-- age(tag) on the element's copy (R58). -/
def ageOf (e : Elem) (tag : Nat) : Nat :=
  (tagIter tag + 2 ^ 16 - oldestCopy e (tagBody tag) (tagInst tag)) % 2 ^ 16

/-- The descriptor of a body of the image (R253). -/
def bodyOf (g : Region) (n : Nat) : Option Body := (g.bodies.find? fun (b : BodySt) => b.desc.num == n).map (·.desc)

/-- W of a body. -/
def bodyW (b : Body) : Nat := 2 ^ b.logw

/-- tag_in_range(t) (R257). -/
def tagInRange (g : Region) (t : Nat) : Bool :=
  match bodyOf g (tagBody t) with | some b => tagInst t < b.k | none => false

/-- age(u) < W of body(u) (R95). -/
def inWindow (g : Region) (e : Elem) (u : Nat) : Bool :=
  match bodyOf g (tagBody u) with | some b => ageOf e u < bodyW b | none => true

/-- The entries to which an opcode's data firings and EOS sets send (R57, R92, R96, R97, R100). -/
def entriesOf (opc : Nat) (w : OpWord) : List Nat :=
  let d := w.dest.toNat
  match opc with
  | 0x00 => [d, w.imm12 % 32]
  | 0x01 => (List.range (w.imm12 % 64)).map (d + ·)
  | 0x04 => [d, w.imm12 % 32]
  | 0x07 | 0x0C | 0x10 | 0xFF => []
  | _ => [d]

/-- `accrel` reaches its count N (R157). -/
def releasesNow (i : FireIn) : Bool :=
  let n := if i.w.imm10 ≠ 0 then i.w.imm10 else i.const % 2 ^ 32
  n != 0 && (i.st % 2 ^ 32 + 1) % 2 ^ 32 == n

/-- The entries on which a data firing would emit, each with the tag (R66, R95, R96, R97, R100 to R103). The tokens of `ctxnew`
begin an iteration, and the link token's tag is no output tag of its window (R100): the allocation judges them. -/
def emits (i : FireIn) : List (Nat × Nat) :=
  let d := i.dest
  let u := outTag i.w i.tag
  match i.opc with
  | 0x04 | 0x07 | 0x0C | 0x10 | 0xFF => []
  | 0x00 => if i.b.poison then [(d, u), (i.w.imm12 % 32, u)] else if i.b.low32 ≠ 0 then [(d, u)] else [(i.w.imm12 % 32, u)]
  | 0x01 =>
    if i.b.poison then (List.range (i.w.imm12 % 64)).map fun k => (d + k, u)
    else if i.b.low32 < i.w.imm12 % 64 then [(d + i.b.low32, u)] else []
  | 0x05 =>
    let t := if i.w.mod = 1 then i.b.low32 else tagCtx i.tag * 2 ^ 16 + i.b.low32 % 2 ^ 16
    [(d, outTag i.w t)]
  | 0x06 => [(d, tagStep i.tag (i.w.imm12 % 256 : Nat))]
  | 0x08 => [(d, outTag i.w i.b.low32)]
  | 0x0A =>
    let bound := if i.w.imm12 ≠ 0 then i.w.imm12 else i.const % 2 ^ 32
    if bound ≠ 0 && (i.st % 2 ^ 32 + 1) % 2 ^ 32 = bound then [(d, u)] else []
  | 0x65 => if releasesNow i then [(d, u)] else []
  | _ => [(d, u)]

/-- The tags of the tokens that a data firing would emit: an entry with no channel emits none (R47, R95). -/
def tagsOut (i : FireIn) : List Nat := ((emits i).filter fun p => destChans i.e p.1 ≠ []).map fun p => p.2

/-- The operand that an opcode of the dataflow group, or `gwait`, forwards (R89, R205). -/
def forwardOpds (i : FireIn) : List Opd :=
  match i.opc with
  | 0x02 => [if i.mergeB then i.b else i.a]
  | 0x00 | 0x01 | 0x04 | 0x05 | 0x06 | 0x08 | 0x0E | 0x11 => [i.a]
  | 0xC2 => [if i.b.code = 31 then i.a else i.b]
  | _ => []

/-- A firing that forms a vector or tile payload, and so needs a pool buffer (R261). In the elementwise tile operations
the result takes its operand's buffer (R160). A memory firing draws the buffer of its completion token. A slot constant that
PAD forwards as a vector or a tile is formed (R93). -/
def formsPayload (i : FireIn) : Bool :=
  let opc := i.opc
  let sh := i.w.shape
  if opc < 0x20 || opc = 0xC2 || opc = 0xFF then
    opc = 0x03 && i.c.poison && i.a.tok.isNone && i.b.tok.isNone && 2 ≤ (edgeKind i.g i.e i.slot 0).2
      || (forwardOpds i).any fun o => o.tok.isNone && (match o.pad with | some t => bigTok t | none => false)
  else if opc < 0x48 then sh = 2 && opc ≠ 0x2E
  else if opc = 0x4B then true
  else if opc < 0x65 then false
  else if opc = 0x65 then releasesNow i
  else if opc < 0x80 then opc = 0x6B || opc = 0x6C
  else if opc < 0xA0 then sh ≥ 2
  else opc = 0xA0 && sh ≥ 2 || opc = 0xA2 || opc = 0xA8 && i.w.mod.toNat ≠ 0 || opc = 0xC5 || opc = 0xC6

/-- A pool buffer is free for a formed payload (R261). -/
def bufferFree (i : FireIn) : Bool := !formsPayload i || (freeBuf i.e).isSome

/-- The guard holds (R57, R64). -/
def guardHolds (e : Elem) (w : OpWord) : Bool := !w.gen || (bit e.preds w.gidx.toNat != w.gsense)

/-- Every channel of the entries has outstanding + reserved < QUOTA (R57). -/
def quotaOk (g : Region) (e : Elem) (entries : List Nat) : Bool :=
  entries.all fun k => (destChans e k).all fun ch =>
    match g.chans.find? fun (c : Chan) => c.num == ch with
    | some c => c.outstanding + c.reserved < c.quota
    | none => true

/-- A payload that is back in the element: not in a spill slot (R57). -/
def Held.ready (h : Held) : Bool := match h.loc with | .here => true | .pool _ => true | _ => false

/-- The token positions of a word, in the order a, b, c. -/
def tokPos (w : OpWord) : List Nat := [0, 1, 2].filter w.isTok

/-- The MATCH and the HEAD positions. -/
def matchPos (w : OpWord) : List Nat := [0, 1, 2].filter fun p => w.src p == 0
def headPos (w : OpWord) : List Nat := [0, 1, 2].filter fun p => w.src p == 1

/-- The bit of a receive entry in the EOS flags (R91). -/
def recvIndex (e : Elem) (slot pos : Nat) : Nat :=
  (e.cfg.recv.findIdx? fun r => r.valid && r.slot == slot && r.pos == pos).getD 64

/-- The EOS flag of a MATCH position, or an EOS at the head of a HEAD position (R92). -/
def eosAt (e : Elem) (w : OpWord) (slot pos : Nat) : Bool :=
  if w.src pos = 0 then bit e.eosFlags (recvIndex e slot pos)
  else match headOf e slot pos with | some h => h.tok.hdr.kind == 1 | none => false

/-- A complete matched set: every MATCH position present, and listed for issue where it stands in a frame (R53). -/
def setReady (w : OpWord) (m : MSet) : Bool := m.ready.isSome && (matchPos w).all fun p => (m.pos p).isSome

/-- A candidate with its order: ready clk. -/
structure Cand where
  foc : Focus
  ready : Nat
  deriving DecidableEq, Repr

/-- Greatest of a list. -/
def maxOf (l : List Nat) : Nat := l.foldl max 0

/-- The candidates of a `merge` slot: each operand alone; with MATCH binding b waits for an a under the same tag, under
either policy (R98). -/
def candMerge (l : Loc) (e : Elem) (w : OpWord) (slot : Nat) : List Cand :=
  [0, 1].flatMap fun p =>
    if w.src p = 0 then
      (e.sets.filter fun m => m.slot == slot && !(p == 1 && (m.pos 0).isSome) && (!m.inFrame || m.ready.isSome)).filterMap fun m =>
        (m.pos p).map fun h => { foc := ⟨l, slot, m.tag, .data, p == 1⟩, ready := if m.inFrame then m.ready.getD 0 else h.stamp }
    else match headOf e slot p with
      | some h => if h.tok.hdr.kind = 1 then [] else [{ foc := ⟨l, slot, h.tok.hdr.tag, .data, p == 1⟩, ready := h.stamp }]
      | none => []

/-- The candidates of a `cmerge` slot (R99): the control with its selected side, or a poisoned control. -/
def candCmerge (l : Loc) (e : Elem) (slot : Nat) : List Cand :=
  (e.sets.filter fun m => m.slot == slot && setFull e m && (!m.inFrame || m.ready.isSome)).map fun m =>
    { foc := ⟨l, slot, m.tag, .data, false⟩,
      ready := if m.inFrame then m.ready.getD 0
        else maxOf ((takes e 0x03 slot m.tag false).filterMap fun p => (m.pos p).map fun (h : Held) => h.stamp) }

/-- The candidates of any other slot (R53, R55, R93): a complete set, heads of one tag with a set of that tag, and heads of
which some are EOS. -/
def candPlain (l : Loc) (e : Elem) (w : OpWord) (slot : Nat) : List Cand :=
  let ms := (e.sets.filter fun m => m.slot == slot && setReady w m)
  let hp := headPos w
  if hp = [] then
    ms.map fun m => { foc := ⟨l, slot, m.tag, .data, false⟩, ready := m.ready.getD 0 }
  else
    let hs := hp.filterMap fun p => headOf e slot p
    let data := hs.filter fun h => h.tok.hdr.kind != 1
    if hs.length ≠ hp.length then []
    else match data with
    | [] => []
    | d :: _ =>
      let tag := d.tok.hdr.tag
      let stamp := maxOf (hs.map fun h => h.stamp)
      let rd := if matchPos w = [] then some stamp
        else ((ms.find? fun m => m.tag == tag).map fun m => max stamp (m.ready.getD 0))
      match rd with
      | none => []
      | some r =>
        if !(data.all fun h => h.tok.hdr.tag == tag) then []
        else
          let mode := if data.length = hs.length then Mode.data
            else match w.eosm with | 0 => .trunc | 1 => .data | _ => .mismatch
          [{ foc := ⟨l, slot, tag, mode, false⟩, ready := r }]

/-- The data candidates of a slot. -/
def candData (l : Loc) (e : Elem) (slot : Nat) : List Cand :=
  let w := opFields (slotWord e slot)
  match (opCode (slotWord e slot)).toNat with
  | 0x02 => candMerge l e w slot
  | 0x03 => candCmerge l e slot
  | _ => if tokPos w = [] then [] else candPlain l e w slot

/-- A complete data set of the slot is resident, whether listed, waiting in a frame or for a spilled payload (R92). -/
def dataResident (l : Loc) (e : Elem) (slot : Nat) : Bool :=
  let w := opFields (slotWord e slot)
  candData l e slot ≠ [] || (headPos w = [] || (opCode (slotWord e slot)).toNat = 0x02) && e.sets.any fun m => m.slot == slot && setFull e m

/-- The tag of the EOS in the first token position (R92): of a flag, the tag its EOS carried is not kept in matching; the
element keeps it with the flag. -/
def eosTagOf (e : Elem) (w : OpWord) (slot : Nat) : Nat :=
  match tokPos w with
  | [] => 0
  | p :: _ =>
    if w.src p = 1 then (match headOf e slot p with | some h => h.tok.hdr.tag | none => 0)
    else ((lookupKey e.eosTags (recvIndex e slot p)).getD (0, 0)).1

/-- The clk at which an EOS set was complete: its last EOS came, or the slot's last data set left (R58, R92). -/
def eosReady (e : Elem) (w : OpWord) (slot : Nat) : Nat :=
  maxOf ((tokPos w).map fun p =>
    if w.src p = 1 then (match headOf e slot p with | some h => h.stamp | none => 0)
    else ((lookupKey e.eosTags (recvIndex e slot p)).getD (0, 0)).2)

/-- The EOS set of a slot (R92). -/
def candEos (l : Loc) (e : Elem) (slot : Nat) : List Cand :=
  let w := opFields (slotWord e slot)
  if tokPos w ≠ [] && (tokPos w).all (eosAt e w slot) && !dataResident l e slot then
    [{ foc := ⟨l, slot, eosTagOf e w slot, .eos, false⟩, ready := eosReady e w slot }]
  else []

/-- The order in which R158 and R159 take contributions: in a sequenced pour, and always at a link-side element, a bank's
contribution waits until its iteration is the oldest live one. -/
def bankTurn (i : FireIn) : Bool :=
  let contributes := i.opc == 0x64 || i.opc == 0x60 || i.opc == 0x61 || i.opc == 0x62
  if (polSeq i.g || i.e.kind == 2) && contributes then
    let b := nth i.e.banks ((i.w.imm12 / 1024) % 4) {}
    ageOf i.e i.tag == 0 && (b.sctx == 0 || b.sctx == 2 ^ 16 + tagCtx i.tag)
  else true

/-- The bank that a slot's word changes, and whether its firing is a matrix firing (R147, R154). -/
def bankUse (wd : Word64) : Option (Nat × Bool) :=
  let opc := (opCode wd).toNat
  if 0x60 ≤ opc && opc ≤ 0x65 then some ((opFields wd).imm12 / 1024 % 4, opc < 0x63) else none

/-- A firing on a bank waits for the clk after every earlier one on it has committed, unless both are matrix firings (R154). -/
def bankFree (i : FireIn) : Bool :=
  match bankUse (slotWord i.e i.slot) with
  | none => true
  | some (b, m) =>
    (i.e.pending.all fun p =>
      match bankUse (slotWord i.e p.slot) with
      | some (b', m') => b' != b || (m && m')
      | none => true)
      && (match lookupKey i.e.bankDone b with
        | some (clk, m') => clk < i.clk || (m && m')
        | none => true)

/-- `gwait` is eligible only when its generation is reached (R205). -/
def gaugeTurn (i : FireIn) : Bool :=
  if i.opc = 0xC2 then
    let gen := (nth i.e.gauges (i.const % 256) {}).gen
    (gen + 2 ^ 32 - i.a.low32) % 2 ^ 32 < 2 ^ 31
  else true

/-- `ctxnew` is eligible only when the live copy it would receive is free (R95, R100, R255). -/
def allocTurn (i : FireIn) : Bool :=
  if i.opc = 0x04 then
    match i.g.bodies.find? fun (b : BodySt) => b.desc.num == (i.w.imm12 / 32) % 64 with
    | some b => (nth b.insts (b.alloc % b.desc.k) {}).st == 0
    | none => false
  else true

/-- Every payload that a candidate takes is back in the element (R57). -/
def payloadsHere (e : Elem) (w : OpWord) (opc : Nat) (f : Focus) : Bool :=
  ((takes e opc f.slot f.tag f.mergeB).filter w.isTok).all fun p =>
    match heldAt e w f.slot f.tag p with | some h => h.ready | none => true

/-- A candidate is eligible (R57, R63, R92, R93, R95): no earlier than the clk after its set was complete. A TRUNC discard is
exempt from guard and window, a FAULT candidate from its guard, an EOS set from all but quota and unit. -/
def eligible (s : State) (c : Cand) : Bool :=
  let f := c.foc
  let e := getElem s f.loc
  let g := getRegion s (rgnOf f.loc)
  let w := opFields (slotWord e f.slot)
  let opc := (opCode (slotWord e f.slot)).toNat
  let i := gather s f w opc
  c.ready < s.clk && nth e.unitFree (unitOf opc w.shape w.mod.toNat) 0 ≤ s.clk && quotaOk g e (entriesOf opc w)
    && (match f.mode with
      | .eos => opc ≠ 0x65 || i.st % 2 ^ 32 = 0 || ((freeBuf e).isSome && bankFree i)
      | .trunc => payloadsHere e w opc f
      | m => (m = .mismatch || guardHolds e w) && payloadsHere e w opc f && (tagsOut i).all (inWindow g e) && bufferFree i
          && bankTurn i && bankFree i && gaugeTurn i && allocTurn i)

/-- The candidates of an element. -/
def candidates (s : State) (l : Loc) : List Cand :=
  let e := getElem s l
  (List.range 32).flatMap fun n => candData l e n ++ candEos l e n

/-- R58's order as one number; smaller first. -/
def orderKey (s : State) (c : Cand) : Nat :=
  let f := c.foc
  let e := getElem s f.loc
  let low := f.slot * 2 + b2n f.mergeB
  if polArrival (getRegion s (rgnOf f.loc)) then c.ready * 64 + low
  else ((tagBody f.tag * 1024 + tagInst f.tag) * 65536 + ageOf e f.tag) * 64 + low

/-- The candidate that orders first. Of two with one key, the one that stands first in the list of sets, which is the set
allocated first: R58 orders by (ready_clk, slot) alone (the model's choice, log entry 61). -/
def firstBy (k : Cand → Nat) : List Cand → Option Cand
  | [] => none
  | c :: r => match firstBy k r with | some d => if k d < k c then some d else some c | none => some c

/-- Elements issue while the region runs, 240 ns (312 clk) after its launch, and within 64 clk of a stop broadcast (R3,
R62, R246). -/
def mayIssue (s : State) (g : Region) : Bool :=
  running g && (g.pour ≠ 0 || g.launchClk + 312 ≤ s.clk)
    && (match g.bcastClk with | some b => s.clk < b + 64 | none => true)

/-- select (R58): urgent candidates first, then the policy's order; at most one issue in a clk. -/
def selectFocus (s : State) (l : Loc) : Option Focus :=
  let e := getElem s l
  if !mayIssue s (getRegion s (rgnOf l)) || e.lastIssue == some s.clk then none
  else
    let cs := (candidates s l).filter (eligible s)
    let u := cs.filter fun c => (opFields (slotWord e c.foc.slot)).urg
    (firstBy (orderKey s) (if u = [] then cs else u)).map (·.foc)

end Sys2Proof.Machine
end

