-- ==== Sys2Proof/Machine/Dataflow.lean ====
section
/-! DEFINITION. Dataflow, tag and control operations (spec/04: R88 to R112). -/

namespace Sys2Proof.Machine

/-- truth(v) of a control operand (R90). -/
def Opd.truth (o : Opd) : Bool := o.low32 != 0

/-- A scalar INT32 token that the group makes (R89). -/
def int32Tok (i : FireIn) (entry tag v : Nat) (pz : Bool) : Nat × Token :=
  i.emit entry (scalarHdr .int32 tag) (v % 2 ^ 32) pz

/-- DF and LINK, IMM12[4:0]. -/
def FireIn.imm5 (i : FireIn) : Nat := i.w.imm12 % 32

/-- `steer` (R96): to DEST or DF; a poisoned control sends the data, poisoned, to both. -/
def execOpSteer (w : OpWord) (s : State) : Host.Outcome State Fault Refusal :=
  .next (fireGo s w 0x00 fun i =>
    let t := outTag i.w i.tag
    let outs :=
      if i.b.poison then [i.forward i.dest t i.a true, i.forward i.imm5 t i.a true]
      else if i.b.truth then [i.forward i.dest t i.a i.poison]
      else [i.forward i.imm5 t i.a i.poison]
    { outs := outs, fwd := [0] })

/-- `switch` (R97): to entry DEST + selector; a selector not below N meets SWITCH_RANGE, with the selector in ADDR. -/
def execOpSwitch (w : OpWord) (s : State) : Host.Outcome State Fault Refusal :=
  .next (fire s w 0x01 fun i =>
    let n := i.w.imm12 % 64
    let t := outTag i.w i.tag
    if i.b.poison then
      .go { outs := (List.range n).map fun k => i.forward (i.dest + k) t i.a true, fwd := [0] }
    else if n ≤ i.b.low32 then .stop { cause := 0x22, addr := i.b.low32 }
    else .go { outs := [i.forward (i.dest + i.b.low32) t i.a i.poison], fwd := [0] })

/-- `merge` (R98): each operand alone, unchanged under out_tag of its own tag. -/
def execOpMerge (w : OpWord) (s : State) : Host.Outcome State Fault Refusal :=
  .next (fireGo s w 0x02 fun i =>
    let o := if i.mergeB then i.b else i.a
    { outs := [(i.dest, { hdr := withSeq i.g { o.hdr with tag := outTag i.w i.tag }, payload := o.data.payload })],
      eat := [if i.mergeB then 1 else 0], fwd := [if i.mergeB then 1 else 0] })

/-- The token of zeros that `cmerge` emits with a poisoned control and no data (R99). -/
def zeroEdge (i : FireIn) : Hdr := edgeHdr (edgeKind i.g i.e i.slot 0) (outTag i.w i.tag)

/-- `cmerge` (R99): the side that the control selects; a poisoned control issues at once, emits poisoned and places an
orphan mark at each of a, b not present. -/
def execOpCmerge (w : OpWord) (s : State) : Host.Outcome State Fault Refusal :=
  .next (fireGo s w 0x03 fun i =>
    let t := outTag i.w i.tag
    if i.c.poison then
      let out :=
        if i.a.tok.isSome then i.forward i.dest t i.a true
        else if i.b.tok.isSome then i.forward i.dest t i.b true
        else i.emit i.dest (zeroEdge i) 0 true
      { outs := [out], fwd := [if i.a.tok.isSome then 0 else 1],
        marks := b2n i.a.tok.isNone + 2 * b2n i.b.tok.isNone }
    else if i.c.truth then
      { outs := [(i.dest, (i.forward i.dest t i.a i.a.poison).2)], eat := [2, 0], fwd := [0] }
    else { outs := [(i.dest, (i.forward i.dest t i.b i.b.poison).2)], eat := [2, 1], fwd := [1] })

/-- `ctxnew` (R100): the next live copy of the body in rotation; data under its tag, the caller's tag on LINK. -/
def execOpCtxnew (w : OpWord) (s : State) : Host.Outcome State Fault Refusal :=
  .next (fireGo s w 0x04 fun i =>
    let b := (i.w.imm12 / 32) % 64
    let n := match i.g.bodies.find? fun (x : BodySt) => x.desc.num == b with
      | some x => x.alloc % x.desc.k
      | none => 0
    let u := mkTag b n 0
    { outs := [i.forward i.dest u i.a i.poison, int32Tok i i.imm5 u i.tag false], alloc := some b, fwd := [0] })

/-- `retag` (R103): the iteration, or the whole tag, from b; TAGA then acts on it. -/
def execOpRetag (w : OpWord) (s : State) : Host.Outcome State Fault Refusal :=
  .next (fireGo s w 0x05 fun i =>
    let t := if i.w.mod = 1 then i.b.low32 else tagCtx i.tag * 2 ^ 16 + i.b.low32 % 2 ^ 16
    { outs := [i.forward i.dest (outTag i.w t) i.a i.poison], fwd := [0] })

/-- `nextit` (R102): the iteration advanced by STEP. -/
def execOpNextit (w : OpWord) (s : State) : Host.Outcome State Fault Refusal :=
  .next (fireGo s w 0x06 fun i =>
    { outs := [i.forward i.dest (tagStep i.tag (i.w.imm12 % 256 : Nat)) i.a i.poison], fwd := [0] })

/-- `itdone` (R104): one retire count for its tag to the home; emits nothing. -/
def execOpItdone (w : OpWord) (s : State) : Host.Outcome State Fault Refusal :=
  .next (fireGo s w 0x07 fun i => { win := [.done i.tag] })

/-- `ctxend` (R101): the result under out_tag of the link value, poison of either operand kept; a free to the home. -/
def execOpCtxend (w : OpWord) (s : State) : Host.Outcome State Fault Refusal :=
  .next (fireGo s w 0x08 fun i =>
    { outs := [i.forward i.dest (outTag i.w i.b.low32) i.a i.poison], win := [.free (tagBody i.tag) (tagInst i.tag)],
      fwd := [0] })

/-- `eos` (R107): one EOS on DEST, never poisoned. -/
def execOpEos (w : OpWord) (s : State) : Host.Outcome State Fault Refusal :=
  .next (fireGo s w 0x09 fun i =>
    { outs := [(i.dest, { hdr := withSeq i.g { tag := outTag i.w i.tag, kind := 1 } })] })

/-- `cnt` (R108): counts firings in slot state, with the first poisoned operand's fault index; emits at the bound. -/
def execOpCnt (w : OpWord) (s : State) : Host.Outcome State Fault Refusal :=
  .next (fireGo s w 0x0A fun i =>
    let n := (i.st % 2 ^ 32 + 1) % 2 ^ 32
    let was := bit i.st 63
    let pz := was || i.poison
    let fx := if was then bits i.st 47 32 else i.fidx
    let bound := if i.w.imm12 ≠ 0 then i.w.imm12 else i.const % 2 ^ 32
    if bound ≠ 0 && n = bound then
      let t := int32Tok i i.dest (outTag i.w i.tag) n pz
      { outs := [(t.1, { t.2 with hdr := { t.2.hdr with fidx := if pz then fx else 0 } })], st := some 0 }
    else { st := some (b2n pz * 2 ^ 63 + (if pz then fx % 2 ^ 16 else 0) * 2 ^ 32 + n) })

/-- `const` (R106): the slot constant, fitted into the scalar format of its record. -/
def execOpConst (w : OpWord) (s : State) : Host.Outcome State Fault Refusal :=
  .next (fireGo s w 0x0B fun i =>
    { outs := [i.emit i.dest (scalarHdr i.fmt (outTag i.w i.tag)) (fitBits 2 i.const i.fmt.width) i.poison] })

/-- `sink` (R109): each data token adds 1 to slot state [62:0]; a poisoned one writes a POISON_AT_SINK record. -/
def execOpSink (w : OpWord) (s : State) : Host.Outcome State Fault Refusal :=
  .next (fireGo s w 0x0C fun i =>
    if i.a.hdr.kind = 0 then
      { st := some (b2n (bit i.st 63) * 2 ^ 63 + (i.st + 1) % 2 ^ 63),
        recs := if i.a.poison then [{ cause := 0x23, tag := i.tag, slot := i.slot, fidx := i.a.hdr.fidx }] else [] }
    else {})

/-- `pnop` (R110): forwards a unchanged. -/
def execOpPnop (w : OpWord) (s : State) : Host.Outcome State Fault Refusal :=
  .next (fireGo s w 0x0E fun i => { outs := [i.forward i.dest (outTag i.w i.tag) i.a i.poison], fwd := [0] })

/-- `tagof` (R105): its own tag, before the tag action, as an INT32. -/
def execOpTagof (w : OpWord) (s : State) : Host.Outcome State Fault Refusal :=
  .next (fireGo s w 0x0F fun i => { outs := [int32Tok i i.dest (outTag i.w i.tag) i.tag i.poison] })

/-- `trap` (R112): meets SOFTWARE_TRAP at issue with its CODE; passed by `rresume`, it consumes its set. -/
def execOpTrap (w : OpWord) (s : State) : Host.Outcome State Fault Refusal :=
  .next (fire s w 0x10 fun i => if i.passed then .go {} else .stop { cause := 0x40, code := i.w.imm12 })

/-- `brk` (R112): meets BREAK while the region's break enable is 1; otherwise, or passed, it forwards a without its
predicate update. -/
def execOpBrk (w : OpWord) (s : State) : Host.Outcome State Fault Refusal :=
  .next (fire s w 0x11 fun i =>
    if i.g.brken && !i.passed then .stop { cause := 0x41, code := i.w.imm12 }
    else .go { outs := [i.forward i.dest (outTag i.w i.tag) i.a i.poison], fwd := [0], upd := false })

/-- `nop` (R111): consumes its operand set. -/
def execOpNop (w : OpWord) (s : State) : Host.Outcome State Fault Refusal := .next (fireGo s w 0xFF fun _ => {})

end Sys2Proof.Machine
end

