-- ==== Sys2Proof/Machine/Lanes.lean ====
section
/-! DEFINITION. Lane-by-lane firings: rounding mode, keys, shapes, output tokens and the judgement of non-finite values
(spec/05: R115 to R120; spec/01: R28, R31, R36; spec/14: R327). -/

namespace Sys2Proof.Machine

/-- The firing is a vector firing (R115). -/
def FireIn.vec (i : FireIn) : Bool := i.w.shape == 2

/-- L of a format under the firing's shape (Table 5.1). -/
def FireIn.laneCount (i : FireIn) (f : Fmt) : Nat := if i.vec then vecLanes f.width else 1

/-- The effective mode of a class R opcode (R28). -/
def FireIn.mode (i : FireIn) : RMode := (effMode i.w.mod.toNat (recRnd i.rec_)).getD .rne

/-- SAT. -/
def FireIn.sat (i : FireIn) : Bool := i.w.sat

/-- FTZ of the record. -/
def FireIn.ftz (i : FireIn) : Bool := recFtz i.rec_

/-- The 24 drawn bits for an element key (R31). -/
def FireIn.sr (i : FireIn) (key : Nat) : Nat := srBits i.const (outTag i.w i.tag) key

/-- The value of a code in the firing's floating-point format. -/
def FireIn.val (i : FireIn) (f : Fmt) (c : Nat) : FVal := decodeF f.lay i.ftz c

/-- The AND of the operands' validity masks (R118). -/
def FireIn.vmask (i : FireIn) : Nat := i.a.mask &&& i.b.mask &&& i.c.mask

/-- A code is ±∞ or NaN in a format (R36). -/
def badCode (f : Fmt) (c : Nat) : Bool := f.isFloat && (decodeF f.lay false c).nonFinite

/-- The first non-finite input lane, by operand and then by key (R327). -/
def FireIn.badIn (i : FireIn) (f : Fmt) (n : Nat) (ps : List Nat) : Option (List Int) :=
  ps.findSome? fun p =>
    ((List.range n).find? fun k => badCode f ((i.opd p).cell f.width k)).map fun (k : Nat) => [Int.ofNat k, 0, Int.ofNat p]

/-- The first non-finite result lane (R327). -/
def badOut (f : Fmt) (cs : List Nat) : Option (List Int) :=
  (cs.findIdx? (badCode f)).map fun (k : Nat) => [Int.ofNat k, 0, 3]

/-- The lanes of a firing's output as a token of a format (R115, R118). -/
def FireIn.laneTok (i : FireIn) (f : Fmt) (cs : List Nat) : Nat × Token :=
  let t := outTag i.w i.tag
  i.emit i.dest (if i.vec then vectorHdr f t i.vmask else { scalarHdr f t with vmask := i.vmask % 2 })
    (packLanes f.width cs) i.poison

/-- A scalar result of a format (R134, R142). -/
def FireIn.scalarTok (i : FireIn) (f : Fmt) (c : Nat) : Nat × Token :=
  i.emit i.dest { scalarHdr f (outTag i.w i.tag) with vmask := i.vmask % 2 } (c % 2 ^ f.width) i.poison

/-- A lane-by-lane firing: `op` gives lane k's code and flags from the lanes of a, b and c; `judged` are the operands that
R36 judges, and `judgeOut` says whether it judges the result. -/
def laneFire (i : FireIn) (out : Fmt) (lat : Nat) (judged : List Nat) (judgeRes : Bool)
    (op : Nat → Nat → Nat → Nat → Nat × Flags) : FireOut :=
  let wd := i.fmt.width
  let n := i.laneCount i.fmt
  let rs := (List.range n).map fun k => op k (i.a.cell wd k) (i.b.cell wd k) (i.c.cell wd k)
  let cs := rs.map Prod.fst
  { outs := [i.laneTok out cs], flags := orFlags (rs.map Prod.snd),
    nonfin := (i.badIn i.fmt n judged) <|> (if judgeRes then badOut out cs else none), lat := lat }

/-- A firing that reads its operands as bits: no flag, not judged (R118). -/
def bitFire (i : FireIn) (lat : Nat) (op : Nat → Nat → Nat → Nat → Nat) : FireOut :=
  laneFire i i.fmt lat [] false fun k a b c => (op k a b c, fNone)

/-- Latency of a form (Table 5.2): scalar integer, scalar float, vector integer, vector float. -/
def FireIn.latency (i : FireIn) (si sf vi vf : Nat) : Nat :=
  if i.vec then (if i.fmt.isFloat then vf else vi) else (if i.fmt.isFloat then sf else si)

/-- A float lane: the exact result rounded once, with INVALID for every signalling NaN read (R117, R20). -/
def FireIn.roundLane (i : FireIn) (f : Fmt) (key : Nat) (xs : List FVal) (x : FVal × Flags) : Nat × Flags :=
  let r := roundFp f.lay i.mode i.sat i.ftz (i.sr key) x.1
  (r.1, r.2 ||| x.2 ||| sigFlags xs)

end Sys2Proof.Machine
end

