-- ==== Sys2Proof/Machine/Tiles.lean ====
section
/-! DEFINITION. Tiles as operands: stored and valid shapes, cells, scale planes and validity masks (spec/01: R22, R24;
spec/03: R65, R81; spec/06: R150, R160 to R162). -/

namespace Sys2Proof.Machine

/-- A tile operand: the format of its cells, stored and valid shape, VMASK and payload bytes. -/
structure Tile where
  fmt : Fmt
  rows : Nat
  cols : Nat
  vr : Nat
  vc : Nat
  mask : Nat
  payload : Nat
  deriving DecidableEq, Repr

/-- Cell (r, j), row-major (R24). -/
def Tile.cell (t : Tile) (r j : Nat) : Nat := lane t.fmt.width t.payload (r * t.cols + j)

/-- Offset of the scale plane (R22). -/
def Tile.plane (t : Tile) : Nat := planeOff t.fmt.code t.rows t.cols

/-- The scale byte of row r, block q (R22). -/
def Tile.scale (t : Tile) (r q : Nat) : Nat := byteRange t.payload (t.plane + r * (t.cols / 32) + q) 1

/-- The cell lies in the valid shape. -/
def Tile.valid (t : Tile) (r j : Nat) : Bool := r < t.vr && j < t.vc

/-- The cells of a stored shape, row by row. -/
def cellsOf (rows cols : Nat) : List (Nat × Nat) :=
  (List.range rows).flatMap fun r => (List.range cols).map fun j => (r, j)

/-- The payload of a tile whose every cell holds one code; PAD gives an MX tile an unstated scale. -/
def fillTile (f : Fmt) (rows cols c : Nat) : Nat :=
  let n := rows * cols
  packLanes f.width (List.replicate n c) +
    2 ^ (8 * planeOff f.code rows cols) * packLanes 8 (List.replicate (scaleBytes f.code rows cols) Config.padScale.toNat)

/-- A tile of one replicated value, its full shape valid (R65). -/
def constTile (f : Fmt) (rows cols c : Nat) : Tile :=
  { fmt := f, rows := rows, cols := cols, vr := rows, vc := cols, mask := 0xFFFF, payload := fillTile f rows cols c }

/-- An operand as a tile: the token's, or a value replicated into a stored shape. -/
def FireIn.tile (i : FireIn) (o : Opd) (rows cols : Nat) : Tile :=
  match o.tok with
  | some t => { fmt := (Fmt.ofCode t.hdr.fmt).getD i.fmt, rows := t.hdr.trows, cols := t.hdr.tcols, vr := t.hdr.vrows,
                vc := t.hdr.vcols, mask := t.hdr.vmask, payload := t.payload }
  | none => constTile i.fmt rows cols (fitBits o.code o.raw i.fmt.width)

/-- The header of a tile token. -/
def tileHdr (f : Fmt) (tag rows cols vr vc mask : Nat) : Hdr :=
  let h : Hdr := { tag := tag, pkind := 3, fmt := f.code, trows := rows, tcols := cols, vrows := vr, vcols := vc }
  { h with vmask := mask &&& fullMask h }

/-- The first non-finite valid cell of a tile: column, row, operand (R327). -/
def Tile.bad (t : Tile) (pos : Nat) : Option (List Int) :=
  ((cellsOf t.rows t.cols).find? fun p => t.valid p.1 p.2 &&
      (if t.fmt.isMx then (mxValue t.fmt false (t.scale p.1 (p.2 / 32)) (t.cell p.1 p.2)).nonFinite
       else badCode t.fmt (t.cell p.1 p.2))).map
    fun p => [Int.ofNat p.2, Int.ofNat p.1, Int.ofNat pos]

/-- A FORMAT_EDGE met at issue (R61). -/
def formatEdge : FireRes := .stop { cause := 0x02 }

/-- VMASK after a move of cells (R161): the bit of an output block is cleared when a byte of it was read from a cleared
input block. `moves` pairs output bytes with the input bytes read for them. -/
def moveMask (inMask : Nat) (moves : List (Nat × Nat)) : Nat :=
  moves.foldl (fun m p => if bit inMask (p.2 / 256) then m
    else if bit m (p.1 / 256) then m - 2 ^ (p.1 / 256) else m) 0xFFFF

end Sys2Proof.Machine
end

