-- ==== Sys2Proof/Machine/Layout.lean ====
section
/-! DEFINITION. Layout records, coordinates and element addresses (spec/08: R178 to R183; spec/18: R365). -/

namespace Sys2Proof.Machine

/-- A layout record (Table 8.4). -/
structure Layout where
  base : Nat
  fault : Bool
  ndim : Nat
  fmt : Nat
  ext : List Nat
  /-- byte strides of dimensions 1 to 5 -/
  std : List Nat
  pad : Nat
  brows : Nat
  bcols : Nat
  reserved : Nat
  deriving DecidableEq, Repr

/-- The fields of a 64-byte record (R178). -/
def layoutOf (x : Nat) : Layout :=
  { base := bits x 55 0, fault := bit x 56, ndim := bits x 59 57, fmt := bits x 63 60,
    ext := (List.range 6).map fun d => bits x (95 + 32 * d) (64 + 32 * d),
    std := (List.range 5).map fun d => bits x (287 + 32 * d) (256 + 32 * d),
    pad := bits x 447 416, brows := bits x 463 448, bcols := bits x 479 464, reserved := bits x 511 480 }

/-- Extent of a dimension; stride of a dimension from 1 up. -/
def Layout.extent (r : Layout) (d : Nat) : Nat := nth r.ext d 1
def Layout.stride (r : Layout) (d : Nat) : Nat := nth r.std (d - 1) 0

/-- Bytes of an element; half a byte for E2M1 counts as one here and is checked apart. -/
def elemBytes (fmt : Nat) : Nat := max 1 (fmtWidth fmt / 8)

/-- The record is malformed for an access of the given shape (R179). A tile needs a box that a token can hold. -/
def Layout.malformed (r : Layout) (tile : Bool) : Bool :=
  r.ndim == 0 || r.ndim == 7 || fmtWidth r.fmt == 0
    || ((List.range 6).any fun d => r.ndim ≤ d && r.extent d != 1)
    || r.base % elemBytes r.fmt != 0
    || ((List.range 6).any fun d => 1 ≤ d && d < r.ndim && r.stride d % elemBytes r.fmt != 0)
    || r.reserved != 0
    || (tile && (128 < r.bcols || 32 < r.brows || r.bcols == 0 || r.brows == 0
          || 4096 < tileBytes r.fmt r.brows r.bcols))
    || (fmtIsMx r.fmt && !(r.ndim == 2 && r.brows == r.extent 1 && r.bcols == r.extent 0 && r.bcols % 32 == 0
          && r.stride 1 * 8 == r.bcols * fmtWidth r.fmt))

/-- in_bounds(rec, i) (R180). -/
def Layout.inBounds (r : Layout) (i : List Int) : Bool :=
  (List.range 6).all fun d => 0 ≤ nth i d 0 && nth i d 0 < (r.extent d : Int)

/-- elem_addr(rec, i), without wrap (R180), of a format of whole bytes. -/
def Layout.addr (r : Layout) (i : List Int) : Nat :=
  (((r.base : Int) + nth i 0 0 * (elemBytes r.fmt : Int)
    + ((List.range 5).map fun d => nth i (d + 1) 0 * (nth r.std d 0 : Int)).sum)).toNat

/-- Coordinates moved by a column and a row offset (R183). -/
def shiftCoords (i : List Int) (col row : Nat) : List Int :=
  match i with
  | a :: b :: r => (a + Int.ofNat col) :: (b + Int.ofNat row) :: r
  | l => l

/-- Six coordinates, the missing ones 0. -/
def sixCoords (l : List Int) : List Int := (l ++ List.replicate 6 0).take 6

/-- coords(a) (R183): by payload kind. -/
def coordsOf (t : Token) : List Int :=
  match t.hdr.pkind with
  | 0 => sixCoords [sval 32 t.payload]
  | 1 => sixCoords [sval 32 t.payload, sval 32 (t.payload / 2 ^ 32)]
  | _ => (List.range 6).map fun j => sval 32 (lane 32 t.payload j)

/-- The work area of a region (R365): image address plus IMGSIZE rounded up to 4 KiB. -/
def workArea (g : Region) : Nat := g.imgAddr + roundUp g.img.size 4096

/-- The spill region (R366). -/
def spillRegion (g : Region) : Nat := workArea g + 0x1D000

/-- The virtual address of record H of the layout table (Table 18.5). -/
def layoutVa (g : Region) (h : Nat) : Nat := workArea g + 64 * h

/-- The port's copy of a record in its layout cache (R181). -/
def cachedLayout (e : Elem) (h : Nat) : Option Nat := lookupKey e.port.layc h

/-- The record that a firing sees at issue: the port's copy, or the table's bytes where they can be read. -/
def layoutAtIssue (s : State) (l : Loc) (h : Nat) : Option Layout :=
  match cachedLayout (getElem s l) h with
  | some x => some (layoutOf x)
  | none =>
    match vread s l.part (layoutVa (getRegion s (rgnOf l)) h) 64 with
    | .ok x => some (layoutOf x)
    | .error _ => none

end Sys2Proof.Machine
end

