-- ==== Sys2Proof/Machine/Scalar.lean ====
section
/-! DEFINITION. Arithmetic, compare, select, logic, shifts, bit counts, exponents and dot products on scalars and vectors
(spec/05: R122 to R134). -/

namespace Sys2Proof.Machine

/-- The signed integer format of a lane width (R132, R133). -/
def signedInt (wd : Nat) : Fmt := match wd with | 8 => .int8 | 16 => .int16 | 32 => .int32 | _ => .int64

/-- The mask format of a lane width (R126). -/
def maskFmt (wd : Nat) : Fmt := match wd with | 8 => .uint8 | 16 => .int16 | 32 => .uint32 | _ => .int64

/-- The fused a × b + c with the NaN rules of R35. IEEE 754 leaves open whether 0 × ∞ plus a quiet NaN raises INVALID. -/
def madF (mode : RMode) (a b c : FVal) : FVal × Flags :=
  let p := mulF a b
  match firstNan [a, b, c] with
  | some n => (n, if Config.madNanInvalid then p.2 else fNone)
  | none => let r := sumF mode [p.1, c]; (r.1, r.2 ||| p.2)

/-- `add` (R122). -/
def execOpAdd (w : OpWord) (s : State) : Host.Outcome State Fault Refusal :=
  .next (fireGo s w 0x20 fun i =>
    laneFire i i.fmt (i.latency 1 4 2 4) [0, 1] true fun k a b _ =>
      if i.fmt.isFloat then
        let x := i.val i.fmt a
        let y := i.val i.fmt b
        i.roundLane i.fmt k [x, y] (sumF i.mode [x, y])
      else intResult i.fmt i.sat (intVal i.fmt a + intVal i.fmt b))

/-- `sub` (R122). -/
def execOpSub (w : OpWord) (s : State) : Host.Outcome State Fault Refusal :=
  .next (fireGo s w 0x21 fun i =>
    laneFire i i.fmt (i.latency 1 4 2 4) [0, 1] true fun k a b _ =>
      if i.fmt.isFloat then
        let x := i.val i.fmt a
        let y := i.val i.fmt b
        i.roundLane i.fmt k [x, y] (sumF i.mode [x, negF y])
      else intResult i.fmt i.sat (intVal i.fmt a - intVal i.fmt b))

/-- `mul` (R122): HI keeps the high half of an integer product. -/
def execOpMul (w : OpWord) (s : State) : Host.Outcome State Fault Refusal :=
  .next (fireGo s w 0x22 fun i =>
    laneFire i i.fmt (i.latency 1 4 2 4) [0, 1] true fun k a b _ =>
      if i.fmt.isFloat then
        let x := i.val i.fmt a
        let y := i.val i.fmt b
        i.roundLane i.fmt k [x, y] (mulF x y)
      else
        let p := intVal i.fmt a * intVal i.fmt b
        intResult i.fmt i.sat (if bit i.w.imm10 0 then p / ((2 ^ i.fmt.width : Nat) : Int) else p))

/-- `mad` (R122): a × b + c, rounded once. -/
def execOpMad (w : OpWord) (s : State) : Host.Outcome State Fault Refusal :=
  .next (fireGo s w 0x23 fun i =>
    laneFire i i.fmt (i.latency 1 4 2 4) [0, 1, 2] true fun k a b c =>
      if i.fmt.isFloat then
        let x := i.val i.fmt a
        let y := i.val i.fmt b
        let z := i.val i.fmt c
        i.roundLane i.fmt k [x, y, z] (madF i.mode x y z)
      else intResult i.fmt i.sat (intVal i.fmt a * intVal i.fmt b + intVal i.fmt c))

/-- min or max of two values that are no NaN; −0 orders below +0 (R124). -/
def pickF (big : Bool) (x y : FVal) : FVal :=
  let less := match cmpF x y with
    | .lt => true
    | .gt => false
    | .eq => x.neg && !y.neg
  if less != big then x else y

/-- R124 on two float values: number form, or `.nan` form. -/
def extremeF (big nan : Bool) (x y : FVal) : FVal :=
  if x.isNan || y.isNan then
    (if nan || (x.isNan && y.isNan) then (firstNan [x, y]).getD x else if x.isNan then y else x)
  else pickF big x y

/-- R124 on two codes of the firing's format. -/
def FireIn.extreme (i : FireIn) (f : Fmt) (big nan : Bool) (a b : Nat) : Nat × Flags :=
  if f.isFloat then
    let x := i.val f a
    let y := i.val f b
    ((roundFp f.lay .rne i.sat i.ftz 0 (extremeF big nan x y)).1, sigFlags [x, y])
  else
    let x := intVal f a
    let y := intVal f b
    (uval f.width (if big then max x y else min x y), fNone)

/-- `min` (R124). -/
def execOpMin (w : OpWord) (s : State) : Host.Outcome State Fault Refusal :=
  .next (fireGo s w 0x24 fun i =>
    laneFire i i.fmt (i.latency 1 4 2 4) [0, 1] true fun _ a b _ => i.extreme i.fmt false (i.w.mod == 1) a b)

/-- `max` (R124). -/
def execOpMax (w : OpWord) (s : State) : Host.Outcome State Fault Refusal :=
  .next (fireGo s w 0x25 fun i =>
    laneFire i i.fmt (i.latency 1 4 2 4) [0, 1] true fun _ a b _ => i.extreme i.fmt true (i.w.mod == 1) a b)

/-- `abs` (R125): the sign bit cleared, or the integer's magnitude. -/
def execOpAbs (w : OpWord) (s : State) : Host.Outcome State Fault Refusal :=
  .next (fireGo s w 0x26 fun i =>
    laneFire i i.fmt (i.latency 1 4 2 4) [] false fun _ a _ _ =>
      if i.fmt.isFloat then (a % 2 ^ (i.fmt.width - 1), fNone)
      else intResult i.fmt i.sat ((intVal i.fmt a).natAbs : Int))

/-- `neg` (R125): the sign bit inverted, or 0 − a. -/
def execOpNeg (w : OpWord) (s : State) : Host.Outcome State Fault Refusal :=
  .next (fireGo s w 0x27 fun i =>
    laneFire i i.fmt (i.latency 1 4 2 4) [] false fun _ a _ _ =>
      if i.fmt.isFloat then (a ^^^ 2 ^ (i.fmt.width - 1), fNone)
      else intResult i.fmt i.sat (-(intVal i.fmt a)))

/-- Conditions 0 to 5 on an ordering (Table 3.4): eq, ne, lt, le, gt, ge. -/
def condHolds (m : Nat) (o : Ordering) : Bool :=
  match m with
  | 0 => o == .eq
  | 1 => o != .eq
  | 2 => o == .lt
  | 3 => o != .gt
  | 4 => o == .gt
  | _ => o != .lt

/-- A floating-point condition and its INVALID (Table 5.4). -/
def cmpFloat (m : Nat) (x y : FVal) : Bool × Flags :=
  let un := x.isNan || y.isNan
  let r := match m with
    | 6 => un
    | 7 => !un
    | _ => if un then m == 1 else condHolds m (cmpF x y)
  (r, flagIf (un && 2 ≤ m && m ≤ 5) fInvalid ||| sigFlags [x, y])

/-- An integer condition (R126): 8 to 11 compare as unsigned. -/
def cmpInt (f : Fmt) (m a b : Nat) : Bool :=
  if 8 ≤ m then condHolds (m - 6) (compare (a % 2 ^ f.width) (b % 2 ^ f.width))
  else condHolds m (compare (intVal f a) (intVal f b))

/-- The output format of `cmp` (R126): a scalar of 32 bits or less gives UINT32. -/
def FireIn.cmpFmt (i : FireIn) : Fmt := if i.vec || i.fmt.width = 64 then maskFmt i.fmt.width else .uint32

/-- `cmp` (R126): all ones where the condition holds. -/
def execOpCmp (w : OpWord) (s : State) : Host.Outcome State Fault Refusal :=
  .next (fireGo s w 0x28 fun i =>
    laneFire i i.cmpFmt (i.latency 1 4 2 2) [0, 1] false fun _ a b _ =>
      let m := i.w.mod.toNat
      let r := if i.fmt.isFloat then cmpFloat m (i.val i.fmt a) (i.val i.fmt b) else (cmpInt i.fmt m a b, fNone)
      (if r.1 then 2 ^ i.cmpFmt.width - 1 else 0, r.2))

/-- Lane k of the control of `sel` chooses a (R127): a scalar control for every lane, a vector control lane by lane. A control
that is no token, PAD's slot constant among them, is read in each lane of a vector firing through the lane's low bits (R65; that
it is not tested as a scalar on 32 bits is the model's choice, log entry 67). -/
def FireIn.selects (i : FireIn) (k : Nat) : Bool :=
  match i.c.tok with
  | some t => if t.hdr.pkind = 2 then lane i.fmt.width t.payload k != 0 else (i.c.low32 != 0)
  | none => if i.vec then i.c.cell i.fmt.width k != 0 else (i.c.low32 != 0)

/-- `sel` (R127). -/
def execOpSel (w : OpWord) (s : State) : Host.Outcome State Fault Refusal :=
  .next (fireGo s w 0x29 fun i =>
    bitFire i (i.latency 1 4 2 2) fun k a b _ => if i.selects k then a else b)

/-- `clamp` (R128): min(max(a, lo), hi) in the number form; a NaN a gives the canonical NaN. -/
def execOpClamp (w : OpWord) (s : State) : Host.Outcome State Fault Refusal :=
  .next (fireGo s w 0x2A fun i =>
    laneFire i i.fmt (i.latency 1 4 2 4) [0, 1, 2] true fun _ a lo hi =>
      if i.fmt.isFloat then
        let x := i.val i.fmt a
        let l := i.val i.fmt lo
        let h := i.val i.fmt hi
        let r := if x.isNan then x else extremeF false false (extremeF true false x l) h
        ((roundFp i.fmt.lay .rne i.sat i.ftz 0 r).1, sigFlags [x, l, h])
      else
        let x := max (intVal i.fmt a) (intVal i.fmt lo)
        (uval i.fmt.width (min x (intVal i.fmt hi)), fNone))

/-- Integer division and remainder (R123). -/
def divInt (f : Fmt) (sat rem : Bool) (a b : Nat) : Nat × Flags :=
  let x := intVal f a
  let y := intVal f b
  if y = 0 then (2 ^ f.width - 1, fDivz)
  else intResult f sat (if rem then x - x.tdiv y * y else x.tdiv y)

/-- `div` (R123). -/
def execOpDiv (w : OpWord) (s : State) : Host.Outcome State Fault Refusal :=
  .next (fireGo s w 0x2B fun i =>
    laneFire i i.fmt (i.latency 12 12 16 16) [0, 1] true fun k a b _ =>
      if i.fmt.isFloat then
        let x := i.val i.fmt a
        let y := i.val i.fmt b
        i.roundLane i.fmt k [x, y] (divF x y)
      else divInt i.fmt i.sat (bit i.w.imm10 0) a b)

/-- a × 2^n. Beyond ±1024 every format rounds alike, so n is held within it. -/
def scaleF (x : FVal) (n : Int) : FVal :=
  match x with
  | .fin s a b =>
    let n := max (-1024) (min 1024 n)
    if 0 ≤ n then .fin s (a * 2 ^ n.toNat) b else .fin s a (b * 2 ^ (-n).toNat)
  | v => v

/-- `ldexp` (R132). -/
def execOpLdexp (w : OpWord) (s : State) : Host.Outcome State Fault Refusal :=
  .next (fireGo s w 0x2C fun i =>
    laneFire i i.fmt (i.latency 4 4 4 4) [0] true fun k a b _ =>
      let x := i.val i.fmt a
      i.roundLane i.fmt k [x] (scaleF x (sval i.fmt.width b), fNone))

/-- `frexp` of one value (R133, Table 5.5): m and e with 0.5 ≤ |m| < 1. -/
def frexpF (x : FVal) : FVal × Int :=
  match x with
  | .fin s a b =>
    if a = 0 then (x, 0)
    else
      let e := ratioLog2 a b + 1
      ((if 0 ≤ e then .fin s a (b * 2 ^ e.toNat) else .fin s (a * 2 ^ (-e).toNat) b), e)
  | v => (v, 0)

/-- `frexp` (R133): `.m`, or `.e` as the signed integer of the lane width. -/
def execOpFrexp (w : OpWord) (s : State) : Host.Outcome State Fault Refusal :=
  .next (fireGo s w 0x2D fun i =>
    let e := i.w.mod == 1
    laneFire i (if e then signedInt i.fmt.width else i.fmt) (i.latency 4 4 4 4) [0] (!e) fun _ a _ _ =>
      let x := i.val i.fmt a
      let r := frexpF x
      (if e then uval i.fmt.width r.2 else (roundFp i.fmt.lay .rne false i.ftz 0 r.1).1, sigFlags [x]))

/-- The result format of `dot` (Table 5.6). -/
def dotFmt (f : Fmt) : Fmt := if f.isFloat then .fp32 else if f.width ≤ 16 then .int32 else .int64

/-- `dot` (R134): all products and c summed exactly and rounded once. -/
def execOpDot (w : OpWord) (s : State) : Host.Outcome State Fault Refusal :=
  .next (fireGo s w 0x2E fun i =>
    let f := i.fmt
    let g := dotFmt f
    let n := vecLanes f.width
    let hasC := i.w.src 2 ≠ 31
    let c := i.c.cell g.width 0
    let r :=
      if f.isFloat then
        let ps := (List.range n).map fun k => (i.val f (i.a.cell f.width k), i.val f (i.b.cell f.width k))
        let cs := if hasC then [i.val g c] else []
        i.roundLane g 0 (ps.map Prod.fst ++ ps.map Prod.snd ++ cs) (dotF i.mode ps cs)
      else
        let ps := (List.range n).map fun k => intVal f (i.a.cell f.width k) * intVal f (i.b.cell f.width k)
        intResult g i.sat (ps.foldl (· + ·) (if hasC then intVal g c else 0))
    { outs := [i.scalarTok g r.1], flags := r.2,
      nonfin := (i.badIn f n [0, 1]) <|>
        (if hasC && badCode g c then some [0, 0, 2] else none) <|> badOut g [r.1],
      lat := 6 })

/-- `and` (R129). -/
def execOpAnd (w : OpWord) (s : State) : Host.Outcome State Fault Refusal :=
  .next (fireGo s w 0x30 fun i => bitFire i (i.latency 1 1 2 2) fun _ a b _ => a &&& b)

/-- `or` (R129). -/
def execOpOr (w : OpWord) (s : State) : Host.Outcome State Fault Refusal :=
  .next (fireGo s w 0x31 fun i => bitFire i (i.latency 1 1 2 2) fun _ a b _ => a ||| b)

/-- `xor` (R129). -/
def execOpXor (w : OpWord) (s : State) : Host.Outcome State Fault Refusal :=
  .next (fireGo s w 0x32 fun i => bitFire i (i.latency 1 1 2 2) fun _ a b _ => a ^^^ b)

/-- `not` (R129). -/
def execOpNot (w : OpWord) (s : State) : Host.Outcome State Fault Refusal :=
  .next (fireGo s w 0x33 fun i => bitFire i (i.latency 1 1 2 2) fun _ a _ _ => 2 ^ i.fmt.width - 1 - a % 2 ^ i.fmt.width)

/-- The shift count of lane k (R130): b, or COUNT where b is absent, modulo the lane width. -/
def FireIn.shiftCount (i : FireIn) (b : Nat) : Nat :=
  (if i.w.src 1 = 31 then i.w.imm10 % 128 else b) % i.fmt.width

/-- `shl` (R130). -/
def execOpShl (w : OpWord) (s : State) : Host.Outcome State Fault Refusal :=
  .next (fireGo s w 0x34 fun i => bitFire i (i.latency 1 1 2 2) fun _ a b _ =>
    a * 2 ^ i.shiftCount b % 2 ^ i.fmt.width)

/-- `shr` (R130). -/
def execOpShr (w : OpWord) (s : State) : Host.Outcome State Fault Refusal :=
  .next (fireGo s w 0x35 fun i => bitFire i (i.latency 1 1 2 2) fun _ a b _ => a / 2 ^ i.shiftCount b)

/-- `sra` (R130): copies the sign bit. -/
def execOpSra (w : OpWord) (s : State) : Host.Outcome State Fault Refusal :=
  .next (fireGo s w 0x36 fun i => bitFire i (i.latency 1 1 2 2) fun _ a b _ =>
    uval i.fmt.width (sval i.fmt.width a / ((2 ^ i.shiftCount b : Nat) : Int)))

/-- `popc` (R131). -/
def execOpPopc (w : OpWord) (s : State) : Host.Outcome State Fault Refusal :=
  .next (fireGo s w 0x37 fun i => bitFire i (i.latency 1 1 2 2) fun _ a _ _ => popcount i.fmt.width a)

/-- `clz` (R131). -/
def execOpClz (w : OpWord) (s : State) : Host.Outcome State Fault Refusal :=
  .next (fireGo s w 0x38 fun i => bitFire i (i.latency 1 1 2 2) fun _ a _ _ => leadingZeros i.fmt.width a)

end Sys2Proof.Machine
end

