-- ==== Sys2Proof/Machine/MemIssue.lean ====
section
/-! DEFINITION. The memory, atomic, gauge, inter-graph and near-memory operations at their issue: the access that each
passes to its port, the local forms, and the forms that act at commit (spec/04: R113; spec/08: R175 to R208). -/

namespace Sys2Proof.Machine

/-- A position as the port reads it: its token, under PAD the slot constant's (R93), or another source's bits as a scalar of the
firing's format (R65). -/
def FireIn.portOpd (i : FireIn) (o : Opd) : Option Token :=
  if o.code = 31 then none
  else match o.tok <|> o.pad with
    | some t => some t
    | none => some { hdr := scalarHdr i.fmt i.tag, payload := i.scalar o }

/-- Under PAD, the code that a data operand b holds in every cell of the record's box (R65, R93). -/
def FireIn.fillB (i : FireIn) : Option Nat :=
  if i.b.tok.isNone && i.b.pad.isSome then some (fitBits i.b.code i.b.raw i.fmt.width) else none

/-- HANDLE and HANDLE2, GID and TOT of MDESC (Table 8.2). -/
def mdHandle (d : Nat) : Nat := bits d 7 0
def mdHandle2 (d : Nat) : Nat := bits d 15 8
def mdGid (d : Nat) : Nat := bits d 26 16
def mdTot (d : Nat) : Nat := bits d 31 26

/-- The least clk from issue to completion (Table 8.6); a `copy` adds 4 for each 256-byte piece beyond the first. -/
def minLat (op mod shape bytes : Nat) : Nat :=
  match op with
  | 0xA0 => if shape = 3 && bytes = 4096 then 160 else 96
  | 0xA1 | 0x0D => 104
  | 0xA2 => 96
  | 0xA3 => 104
  | 0xA4 => 1
  | 0xA5 => 2
  | 0xA6 => 200 + 4 * (cdiv bytes 256 - 1)
  | 0xA7 => 128
  | 0xA8 => if mod = 0 then 128 else 224
  | 0xC5 | 0xC6 => 34
  | _ => 128

/-- A write by R280, counted until its completion leaves (R190). -/
def opWrites (op mod : Nat) : Bool :=
  op == 0xA1 || op == 0xA3 || op == 0xA6 || op == 0xA7 || (op == 0xA8 && mod == 0) || op == 0x0D || (0xB0 ≤ op && op ≤ 0xB8)

/-- The opcodes that take sequence numbers (R291). -/
def opSequenced (op : Nat) : Bool :=
  op == 0xA0 || op == 0xA1 || op == 0xA2 || op == 0xA3 || op == 0xA6 || op == 0xA7 || op == 0xA8 || (0xB0 ≤ op && op ≤ 0xB8)

/-- The access that a firing of a port slot passes to its port (R190), with its sequence numbers (R292). -/
def mkAccess (i : FireIn) : Access :=
  let rk := nth i.e.cfg.ranks i.slot (0, 0)
  let so := seqBase i.g i.tag rk.1
  { op := i.opc, mod := i.w.mod.toNat, shape := i.w.shape, fmt := i.fmt.code, slot := i.slot, tag := i.tag,
    outTag := outTag i.w i.tag, stream := i.w.stream, scope := i.w.scope, ord := i.w.ord, desc := i.const, state := i.st,
    a := i.portOpd i.a, b := i.portOpd i.b, c := i.portOpd i.c, fill := i.fillB, poison := i.poison, fidx := i.fidx,
    nfp := recNfp i.rec_, ncan := recNcan i.rec_ || polSeq i.g, ftz := recFtz i.rec_,
    write := opWrites i.opc i.w.mod.toNat, dest := destChans i.e i.dest, seq := polSeq i.g && opSequenced i.opc,
    seqo := so, seqp := (so + 2 ^ 24 - 1) % 2 ^ 24, seqs := (so + rk.2) % 2 ^ 24, clk0 := i.clk,
    notBefore := i.clk + minLat i.opc i.w.mod.toNat i.w.shape 0, width := i.fmt.width, big := formsPayload i }

/-- A firing that passes its access to the port and does nothing else. -/
def portFire (i : FireIn) : FireOut := { access := some (mkAccess i) }

/-- A tile or vector b agrees with the record at issue (R192); a record that cannot be read yet is judged at the port. -/
def shapeFits (b : Hdr) (shape : Nat) (r : Option Layout) : Bool :=
  match r with
  | none => true
  | some r =>
    if r.malformed (shape == 3) then true
    else if shape = 3 then b.trows == r.brows && b.tcols == r.bcols
    else if shape = 2 then fmtWidth b.fmt == fmtWidth r.fmt
    else true

/-- An access whose b must agree with the record that HANDLE names, or FORMAT_EDGE at issue (R61, R192). -/
def shapedFire (s : State) (i : FireIn) : FireRes :=
  if i.fillB.isSome || shapeFits i.b.hdr i.w.shape (layoutAtIssue s i.l (mdHandle i.const)) then .go (portFire i) else formatEdge

/-- `ld` (R185, R192): the port forms `.lay` and `.gen`. -/
def execOpLd (w : OpWord) (s : State) : Host.Outcome State Fault Refusal := .next (fireGo s w 0xA0 portFire)

/-- `ld.rec` (R195). -/
def execOpLdRec (w : OpWord) (s : State) : Host.Outcome State Fault Refusal := .next (fireGo s w 0xA0 portFire)

/-- `st` (R192): the port forms. -/
def execOpSt (w : OpWord) (s : State) : Host.Outcome State Fault Refusal := .next (fire s w 0xA1 (shapedFire s))

/-- The local form of a firing (Table 8.3, R50, R193): the legs as scratchpad offsets and lengths, and the stored tile
shape; `none` where the access leaves the resident area or breaks an alignment, or where the tile of a leg form is not of
512 bytes. -/
def localLegs (i : FireIn) : Option (List (Nat × Nat)) :=
  let mod := i.w.mod.toNat
  let ltr := bits i.const 5 0
  let ltc := bits i.const 13 6
  let q := 2 ^ bits i.const 18 14
  let off := i.a.low32
  let base := 4096 * i.e.cfg.resbase + off
  let es := i.fmt.width / 8
  let n := match i.w.shape with | 2 => 128 | 3 => ltr * ltc * es | _ => es
  let legs := if mod = 2 then [(base, n)]
    else if mod = 3 then [(base, 256), (base + q, 256)]
    else (List.range 4).map fun k => (base + k * q, 128)
  let top := 4096 * (i.e.cfg.resbase + i.e.cfg.ressize)
  let k := if mod = 3 then 2 else 4
  let aligned := base % es == 0 && (mod == 2 || (base % (k * q) == 0 && base % (512 / k) == 0))
  if aligned && n ≤ 4096 && (mod == 2 || n == 512) && legs.all fun g => g.1 + g.2 ≤ top then some legs else none

/-- Bank of a scratchpad byte (R48): swizzle 0 NONE, 1 ROW, 2 FFT. -/
def bankOf (addr swz : Nat) : Nat :=
  let v := bits addr 15 11
  let t := match swz with
    | 0 => 0
    | 1 => v
    | _ => b2n (bit v 0) * 16 + b2n (bit v 1) * 8 + b2n (bit v 2) * 4 + b2n (bit v 3) * 2 + b2n (bit v 4)
  Nat.xor (bits addr 10 6) t

/-- The clk that an access takes: the words that its busiest bank serves (R49, Table 2.5). -/
def bankClk (swz : Nat) (legs : List (Nat × Nat)) : Nat :=
  let ws := (legs.flatMap fun g => (List.range (cdiv (g.1 % 64 + g.2) 64)).map fun k => g.1 / 64 + k).dedup
  maxOf ((List.range 32).map fun b => (ws.filter fun x => bankOf (64 * x) swz == b).length)

/-- Latency and occupancy of a local form (Table 8.6). -/
def localTime (i : FireIn) (legs : List (Nat × Nat)) : Nat × Nat :=
  if i.w.shape = 3 && i.w.mod.toNat = 2 then (34, 32) else (2 + max 1 (bankClk i.e.cfg.resswz legs), 1)

/-- A local offset that is refused meets LAYOUT_BOUNDS at issue (R193); ADDR holds the offset. -/
def localBounds (i : FireIn) : FireRes := .stop { cause := 0x13, addr := i.a.low32 }

/-- The bytes of legs, in leg order. -/
def readLegs (e : Elem) (legs : List (Nat × Nat)) : Nat :=
  legs.reverse.foldl (fun v g => readBytes e.scratch g.1 g.2 + 2 ^ (8 * g.2) * v) 0

/-- `ld.loc`, `ld.bf2`, `ld.bf4` (R193). -/
def execOpLdLoc (w : OpWord) (s : State) : Host.Outcome State Fault Refusal :=
  .next (fire s w 0xA0 fun i =>
    match localLegs i with
    | none => localBounds i
    | some legs =>
      let t := outTag i.w i.tag
      let ltr := bits i.const 5 0
      let ltc := bits i.const 13 6
      let h := match i.w.shape with
        | 3 => tileHdr i.fmt t ltr ltc ltr ltc 0xFFFF
        | 2 => vectorHdr i.fmt t 1
        | _ => scalarHdr i.fmt t
      let v := readLegs i.e legs % 2 ^ (8 * payloadBytes h)
      .go { outs := [i.emit i.dest h v i.poison], reads := legs, lat := (localTime i legs).1, occ := (localTime i legs).2 })

/-- A code as a store writes it through a record: under NCAN the canonical NaN of its format, of an MX record that of its
element format (R36). -/
def storeCode (f : Fmt) (ncan : Bool) (c : Nat) : Nat :=
  if ncan && (f.isFloat || f == .mxe4m3 || f == .mxe5m2) && (decodeF f.lay false c).isNan then f.lay.canonNan else c

/-- The scratchpad writes of a local store: each element of b's valid shape, with the byte of the legs where it lies. A slot
constant under PAD fills the LTR × LTC cells (R65, R93). -/
def localWrites (i : FireIn) (legs : List (Nat × Nat)) : List (Nat × Nat × Nat) :=
  let es := i.fmt.width / 8
  let leg := (legs.headD (0, 1)).2
  let cells : List Nat := match i.w.shape with
    | 3 =>
      if i.fillB.isSome then List.range (bits i.const 5 0 * bits i.const 13 6)
      else ((cellsOf i.b.hdr.trows i.b.hdr.tcols).filter fun p => p.1 < i.b.hdr.vrows && p.2 < i.b.hdr.vcols).map fun p =>
        p.1 * i.b.hdr.tcols + p.2
    | 2 => List.range (vecLanes i.fmt.width)
    | _ => [0]
  cells.map fun k =>
    ((nth legs (k * es / leg) (0, 0)).1 + k * es % leg, es,
      storeCode i.fmt (recNcan i.rec_ || polSeq i.g) (i.b.cell i.fmt.width k))

/-- An ack of a form that completes in its element (R190, R191). -/
def FireIn.ack (i : FireIn) (stat : Nat) : Nat × Token :=
  (i.dest, { hdr := withSeq i.g (ackToken (outTag i.w i.tag) stat i.poison (if i.poison then i.fidx else 0)).hdr })

/-- `st.loc`, `st.bf2`, `st.bf4` (R193): a poisoned firing writes nothing, acks SUPPRESSED and records POISON_AT_SINK
(R196). -/
def execOpStLoc (w : OpWord) (s : State) : Host.Outcome State Fault Refusal :=
  .next (fire s w 0xA1 fun i =>
    if i.w.shape = 3 && i.fillB.isNone && !(i.b.hdr.trows == bits i.const 5 0 && i.b.hdr.tcols == bits i.const 13 6) then formatEdge
    else match localLegs i with
    | none => localBounds i
    | some legs =>
      let tm := localTime i legs
      if i.poison then
        .go { outs := [i.ack 3], recs := [{ cause := 0x23, tag := i.tag, slot := i.slot, fidx := i.fidx }],
              lat := tm.1, occ := tm.2 }
      else .go { outs := [i.ack 0], scratch := localWrites i legs, lat := tm.1, occ := tm.2 })

/-- `ldg` (R194). -/
def execOpLdg (w : OpWord) (s : State) : Host.Outcome State Fault Refusal := .next (fireGo s w 0xA2 portFire)

/-- `stg` (R194): tile b must match the record's box. -/
def execOpStg (w : OpWord) (s : State) : Host.Outcome State Fault Refusal := .next (fire s w 0xA3 (shapedFire s))

/-- `agen` (R184). -/
def execOpAgen (w : OpWord) (s : State) : Host.Outcome State Fault Refusal := .next (fireGo s w 0xA4 portFire)

/-- `sbar` (R189): holds the streams of its slot state. -/
def execOpSbar (w : OpWord) (s : State) : Host.Outcome State Fault Refusal := .next (fireGo s w 0xA5 portFire)

/-- `copy` (R201). -/
def execOpCopy (w : OpWord) (s : State) : Host.Outcome State Fault Refusal := .next (fireGo s w 0xA6 portFire)

/-- `red` (R199): b must match the record's box, or its lane count. -/
def execOpRed (w : OpWord) (s : State) : Host.Outcome State Fault Refusal := .next (fire s w 0xA7 (shapedFire s))

/-- `red.m` (R200): the tile of `.acc` is stored 32 × 32. -/
def execOpRedM (w : OpWord) (s : State) : Host.Outcome State Fault Refusal :=
  .next (fire s w 0xA8 fun i =>
    if i.w.mod = 0 && !(i.b.hdr.trows == 32 && i.b.hdr.tcols == 32) then formatEdge else .go (portFire i))

/-- `aadd` (R197): old + b. -/
def execOpAadd (w : OpWord) (s : State) : Host.Outcome State Fault Refusal := .next (fireGo s w 0xB0 portFire)

/-- `amin` (R197). -/
def execOpAmin (w : OpWord) (s : State) : Host.Outcome State Fault Refusal := .next (fireGo s w 0xB1 portFire)

/-- `amax` (R197). -/
def execOpAmax (w : OpWord) (s : State) : Host.Outcome State Fault Refusal := .next (fireGo s w 0xB2 portFire)

/-- `aand` (R197). -/
def execOpAand (w : OpWord) (s : State) : Host.Outcome State Fault Refusal := .next (fireGo s w 0xB3 portFire)

/-- `aor` (R197). -/
def execOpAor (w : OpWord) (s : State) : Host.Outcome State Fault Refusal := .next (fireGo s w 0xB4 portFire)

/-- `axor` (R197). -/
def execOpAxor (w : OpWord) (s : State) : Host.Outcome State Fault Refusal := .next (fireGo s w 0xB5 portFire)

/-- `aswp` (R197). -/
def execOpAswp (w : OpWord) (s : State) : Host.Outcome State Fault Refusal := .next (fireGo s w 0xB6 portFire)

/-- `acas` (R197): c if old equals b bit for bit. -/
def execOpAcas (w : OpWord) (s : State) : Host.Outcome State Fault Refusal := .next (fireGo s w 0xB7 portFire)

/-- `ainc.b` (R197): old + 1 while old < b. -/
def execOpAincB (w : OpWord) (s : State) : Host.Outcome State Fault Refusal := .next (fireGo s w 0xB8 portFire)

/-- The value of a gauge operation (R205): 48 bits of a token or of the slot state. -/
def FireIn.gaugeVal (i : FireIn) : Nat :=
  (match i.a.tok with | some t => t.payload | none => i.a.raw) % 2 ^ 48

/-- A gauge firing: poisoned, it leaves the gauge and acks poisoned (R205). -/
def gaugeFire (i : FireIn) (op : GaugeOp) : FireOut :=
  { outs := [i.ack 0], gauge := if i.poison then [] else [op], lat := 2 }

/-- `gset` (R205): sets TARGET, then steps; `.clr` also clears COUNT and does not step. -/
def execOpGset (w : OpWord) (s : State) : Host.Outcome State Fault Refusal :=
  .next (fireGo s w 0xC0 fun i =>
    let g := i.const % 256
    gaugeFire i (if i.w.mod = 1 then .clr g i.gaugeVal else .set g i.gaugeVal))

/-- `gadd` (R205). -/
def execOpGadd (w : OpWord) (s : State) : Host.Outcome State Fault Refusal :=
  .next (fireGo s w 0xC1 fun i => gaugeFire i (.add (i.const % 256) i.gaugeVal))

/-- `gwait` (R205): eligible once its generation is reached; emits b, or a. -/
def execOpGwait (w : OpWord) (s : State) : Host.Outcome State Fault Refusal :=
  .next (fireGo s w 0xC2 fun i =>
    let b := i.b.code != 31
    { outs := [i.forward i.dest (outTag i.w i.tag) (if b then i.b else i.a) i.poison], fwd := [if b then 1 else 0],
      lat := 2 })

/-- `psig` (R206): its signal at commit, poisoned or not; an ack. -/
def execOpPsig (w : OpWord) (s : State) : Host.Outcome State Fault Refusal :=
  .next (fireGo s w 0xC3 fun i => { outs := [i.ack 0], signal := some (i.const % 16), lat := 2 })

/-- A `pwait` that waits for the launch `id` (R207, R330): an access that holds its token, outstanding at the port. -/
def waitAccess (i : FireIn) (t : Token) (id : Nat) : Access :=
  { mkAccess i with desc := id, a := some t, begun := true, big := t.hdr.kind == 0 && t.hdr.pkind ≥ 2 }

/-- `pwait` (R207): holds a until the launch that its constant names lets it go on; launch 0 forwards at once. -/
def execOpPwait (w : OpWord) (s : State) : Host.Outcome State Fault Refusal :=
  .next (fireGo s w 0xC4 fun i =>
    let o := i.forward i.dest (outTag i.w i.tag) i.a i.poison
    let id := i.const % 2 ^ 32
    if id = 0 then { outs := [o], fwd := [0] } else { fwd := [0], access := some (waitAccess i o.2 id) })

/-- The rows of tile a that a test keeps moved up in order, the rest 0; each byte of a kept row comes from its source
(R202). -/
def keepRows (i : FireIn) (keep : Nat → Bool) : Hdr × Nat :=
  let h := i.a.hdr
  let rb := h.tcols * fmtWidth h.fmt / 8
  let p := i.a.data.payload
  let rs := (List.range h.vrows).filter keep
  let moves := (rs.zipIdx).flatMap fun q => (List.range rb).map fun k => (q.2 * rb + k, q.1 * rb + k)
  ({ h with tag := outTag i.w i.tag, vrows := rs.length, vmask := moveMask h.vmask moves &&& fullMask h },
    rs.zipIdx.foldl (fun v q => setByteRange v (q.2 * rb) rb (byteRange p (q.1 * rb) rb)) 0)

/-- The completion of a near-memory firing: its tile is formed at once, its access only waits (R190, Table 8.6). -/
def nearFire (i : FireIn) (t : Hdr × Nat) (fl : Flags) : FireOut :=
  { access := some { mkAccess i with hdr := t.1, buf := t.2, begun := true, big := true }, flags := fl, occ := 32 }

/-- `filt` (R202): keeps the rows whose column-0 value satisfies the condition against b; judged as `cmp` (R36, R126). -/
def execOpFilt (w : OpWord) (s : State) : Host.Outcome State Fault Refusal :=
  .next (fireGo s w 0xC5 fun i =>
    let m := i.w.mod.toNat
    let v (r : Nat) : Nat := i.a.cell i.fmt.width (r * i.a.hdr.tcols)
    let b := i.scalar i.b
    let test (r : Nat) : Bool × Flags :=
      if i.fmt.isFloat then cmpFloat m (i.val i.fmt (v r)) (i.val i.fmt b) else (cmpInt i.fmt m (v r) b, fNone)
    let n := i.a.hdr.vrows
    let bad := ((List.range n).find? fun r => badCode i.fmt (v r)).map fun (r : Nat) => [0, Int.ofNat r, 0]
    { nearFire i (keepRows i fun r => (test r).1) (orFlags ((List.range n).map fun r => (test r).2)) with
      nonfin := bad <|> (if badCode i.fmt b then some [0, 0, 1] else none) })

/-- `cmpct` (R202): keeps row r when lane r of b is non-zero. -/
def execOpCmpct (w : OpWord) (s : State) : Host.Outcome State Fault Refusal :=
  .next (fireGo s w 0xC6 fun i => nearFire i (keepRows i fun r => i.b.cell 32 r != 0) fNone)

/-- `sort2` (R113): appends its data token as a record to buffer T, F or both; the counts stand in slot state. -/
def execOpSort2 (w : OpWord) (s : State) : Host.Outcome State Fault Refusal :=
  .next (fire s w 0x0D fun i =>
    if bits i.const 21 16 < beatsOf i.a.hdr then formatEdge
    else
      let ct : Nat := i.st % 2 ^ 32
      let cf : Nat := i.st / 2 ^ 32
      let toT := i.b.poison || i.b.truth
      let toF := i.b.poison || !i.b.truth
      let acc := { mkAccess i with stream := (i.w.imm12 / 64) % 64, scope := 0, ord := 0, mod := b2n toT + 2 * b2n toF }
      .go { st := some ((ct + b2n toT) % 2 ^ 32 + (cf + b2n toF) % 2 ^ 32 * 2 ^ 32), access := some acc })

end Sys2Proof.Machine
end

