-- ==== Sys2Proof/Machine/PortBegin.lean ====
section
/-! DEFINITION. A port's accesses: classes and order, the check against the layout record, the cut into pieces, and
translation (spec/08: R178 to R201; spec/11: R273 to R281; spec/12: R292 to R296; spec/14: R332). -/

namespace Sys2Proof.Machine

/-- Loads and stores as R280 counts them. -/
def Access.isLoad (a : Access) : Bool :=
  !a.eos && (a.op == 0xA0 || a.op == 0xA2 || a.op == 0xA6 || (a.op == 0xA8 && a.mod != 0) || (0xB0 ≤ a.op && a.op ≤ 0xB8))
def Access.isStore (a : Access) : Bool := if a.eos then a.op == 0x0D else opWrites a.op a.mod
def Access.isAccess (a : Access) : Bool := a.isLoad || a.isStore

/-- The access stands in its stream's order: all but `sbar`, near-memory forms and plain EOS sets. -/
def Access.inStream (a : Access) : Bool := a.isAccess || (a.op == 0xA4 && !a.eos)

/-- `.acq` and `.rel` (Table 3.5). -/
def Access.acq (a : Access) : Bool := a.ord == 1
def Access.rel (a : Access) : Bool := a.ord == 2

/-- `.gen` forms take a loop-nest tuple (R185). -/
def Access.isGen (a : Access) : Bool := !a.eos && (a.op == 0xA0 || a.op == 0xA1) && a.mod == 1

/-- `ld.rec` (R195). -/
def Access.isRec (a : Access) : Bool := a.op == 0xA0 && a.mod == 5 && !a.eos

/-- An access whose bytes come in two steps: header and payload of `ld.rec` (R195), sides T and F of `sort2` (R113). The second
step is open. -/
def Access.opened (a : Access) : Bool := !(a.isRec || a.op == 0x0D) || a.headed

/-- Every piece is performed at its target (R186, R187). -/
def Access.performed (a : Access) : Bool := a.begun && a.held.isNone && a.opened && a.pieces.all (·.done)

/-- Every piece is performed at `.mod` (R186, R281): a remote store once its request has entered the lane group's path. -/
def Access.atMod (a : Access) : Bool :=
  a.begun && a.held.isNone && a.opened && a.pieces.all fun p => p.done || (p.sent && p.wr && (a.op == 0xA6 || !a.isLoad))

/-- X is performed at the scope that its order before Y asks for (R187 to R189, R281): at its target for a release, an acquire or
an `sbar` at `.sys`, otherwise at `.mod`. -/
def Access.reached (x y : Access) : Bool :=
  if ((y.rel || y.op == 0xA5) && y.scope == 2) || (x.acq && x.scope == 2) then x.performed else x.atMod

/-- Y, issued after X at one port, is performed only after X, whatever bytes they touch (R187 to R189, Table 11.2). -/
def follows (causal : Bool) (x y : Access) : Bool :=
  (x.inStream && y.inStream && x.stream == y.stream)
    || (x.isAccess && y.isAccess && (x.acq || y.rel))
    || (y.op == 0xA5 && !y.eos && x.isAccess && bit y.state x.stream)
    || (x.op == 0xA5 && !x.eos && y.isAccess && bit x.state y.stream)
    || (causal && x.isLoad && y.isAccess)

/-- What orders the completion tokens of a sequenced pour: ORD and `sbar` alone (R294). -/
def followsOrd (x y : Access) : Bool :=
  (x.isAccess && y.isAccess && (x.acq || y.rel))
    || (y.op == 0xA5 && !y.eos && x.isAccess && bit y.state x.stream)
    || (x.op == 0xA5 && !x.eos && y.isAccess && bit x.state y.stream)

/-- The physical address of a virtual one by the pages translated for an access; remote pages lie from 2^60 up. -/
def Access.phys (a : Access) (va : Nat) : Nat := (lookupKey a.pages (va / 4096)).getD 0 * 4096 + va % 4096

/-- The physical lines that an access touches. -/
def Access.lines (a : Access) : List Nat :=
  (a.pieces.flatMap fun p => p.els.map fun e => lineOf (a.phys e.2)).dedup

/-- The bytes of an access are all known. -/
def Access.known (a : Access) : Bool := a.begun && a.held.isNone && a.opened && a.xl == a.pieces.length

/-- A request of a sequenced pour stands before the sequencer with its number (R293, R295): one whose bytes are all known, or an
`ld.rec` with its header beat translated, which it reads only when the number is F's. -/
def Access.reaches (a : Access) : Bool :=
  a.known || (a.isRec && a.begun && a.held.isNone && !a.headed && a.xl == a.pieces.length)

/-- A store whose bytes a later load of its port may take before the store is performed (R273, R279). -/
def Access.forwards (a : Access) : Bool := a.op == 0xA1 || a.op == 0xA3 || a.op == 0x0D

/-- before(a, b) on sequence numbers (R292). -/
def seqBefore (a b : Nat) : Bool := 1 ≤ (b + 2 ^ 24 - a) % 2 ^ 24 && (b + 2 ^ 24 - a) % 2 ^ 24 < 2 ^ 23

/-- A request that the sequencer cannot order yet, at the frontier: held at its piece frontier, or an `ld.rec` that has not
read its header (R296, R332). -/
def atFrontier (g : Region) (a : Access) : Bool :=
  a.seqo == g.frontier && (a.held.isSome || (a.isRec && !a.headed))

/-- Every access of the region that is ordered before this one is performed (R293, R294). -/
def seqTurn (g : Region) (a : Access) : Bool :=
  (a.ordered || atFrontier g a) && g.elems.all fun (e : Elem) => e.port.accs.all fun x =>
    !(x.seq && x.ordered && seqBefore x.seqo a.seqo) || x.performed

/-- The accesses of a port issued before number n. -/
def earlier (e : Elem) (n : Nat) : List Access := e.port.accs.take n

/-- An access may be checked, cut and translated (R187, R188, R189, R332). A sequenced one, and an `agen` of a sequenced
pour, only waits for loop-nest tuples and for a held access of its stream (R294). -/
def mayBegin (g : Region) (e : Elem) (n : Nat) (a : Access) : Bool :=
  if a.seq || (polSeq g && a.op == 0xA4 && !a.eos) then
    (earlier e n).all fun x => !(x.inStream && x.stream == a.stream) ||
      (x.held.isNone && ((!(a.isGen || a.op == 0xA4) || !(x.isGen || x.op == 0xA4)) || x.begun))
  else (earlier e n).all fun x => !follows (polCausal g) x a || x.reached a

/-- A port performs while its region runs and until its cut is complete (R329). -/
def portRuns (g : Region) : Bool := running g

/-- An access is held in the replay queue: a record for this stop, the port's frontier block, and the region's stop (R328,
R332, R333). A FORMAT_EDGE met here has the fields that Table 14.5 gives the cause (R335, R336). -/
def holdAccess (s : State) (l : Loc) (a : Access) (cause va : Nat) : State × Access :=
  let r := rgnOf l
  let g := getRegion s r
  let n := (lookupKey g.fronts l.elem).getD (g.nfront + g.fronts.length)
  let s := if (lookupKey g.fronts l.elem).isSome then s else modRegion s r fun g => { g with fronts := g.fronts ++ [(l.elem, n)] }
  let f : FRec := if cause = 0x02 then { cause := cause, tag := a.tag, slot := a.slot }
    else { cause := cause, tag := a.tag, slot := a.slot, addr := va % 2 ^ 56, stream := some a.stream,
           front := some n, coords := a.coords.getD [] }
  (meetStop s l f a.id, { a with held := some cause, fva := va % 2 ^ 56 })

/-- An element's port changed. -/
def modPort (s : State) (l : Loc) (f : Port → Port) : State := modElem s l fun e => { e with port := f e.port }

/-- The die whose walker serves an element's port. -/
def portDieOf (s : State) (l : Loc) : Nat := (recPlace s l.part (getRegion s (rgnOf l)).place (getElem s l)).1

/-- A port's walk has met a line that no code corrects (R405): an UNCORRECTABLE record, with the address that it translates; the
walk itself ends with TRANSLATION. -/
def walkRecord (s : State) (l : Loc) (bad : Bool) (va : Nat) : State :=
  if bad then putRec s (rgnOf l) (atElem s l { cause := 0x12, addr := va }) else s

/-- A translation through a port's 512-entry cache; a miss walks only where `walks` allows it (R386). The answer is `none`
where it does not. -/
def portXlat (s : State) (l : Loc) (nd : Need) (walks : Bool) (va : Nat) : State × Option (Except XErr Nat) :=
  let tlb := (getElem s l).port.tlb
  if walks || tlb.any (·.covers va) then
    let d := portDieOf s l
    let r := translate s (walker s d) l.part tlb 512 nd va
    let s := walkRecord (logXlat s (walker s d) l.part tlb va) l (walkBad s (walker s d) l.part tlb va) va
    (setWalker (modPort s l fun q => { q with tlb := r.2.1 }) d r.2.2, some r.1)
  else (s, none)

/-- A record through the port's layout cache (R181): its first use in a pour reads the layout table. The answer is the
record, or the cause and address that hold the access. -/
def fetchLayout (s : State) (l : Loc) (h : Nat) : State × Except (Nat × Nat) Layout :=
  let g := getRegion s (rgnOf l)
  match cachedLayout (getElem s l) h with
  | some x => (s, .ok (layoutOf x))
  | none =>
    let va := layoutVa g h
    let q := portXlat s l { r := true } true va
    match q.2 with
    | some (.ok pa) =>
      if lineBad q.1 pa then (logRead q.1 l.part g.launch pa, .error (0x13, va))
      else
        let s := logRead q.1 l.part g.launch pa
        let x := physRead s pa 64
        (modPort s l fun q => { q with layc := ((h, x) :: q.layc).take 256 }, .ok (layoutOf x))
    | some (.error e) => (q.1, .error (e.code, va))
    | none => (q.1, .error (0x10, va))

/-- The next tuple of a stream's loop-nest unit (R185); `none` where the unit is exhausted or was never programmed. -/
def nestTuple (u : LoopNest) : Option (List Int × LoopNest) :=
  let p := u.prog
  let nl := byteRange p 120 1
  let n (k : Nat) := byteRange p (4 * k) 4
  if u.exhausted || (List.range nl).any fun k => n k == 0 then none
  else
    let coef (j k : Nat) : Int := sval 16 (byteRange p (48 + 2 * (6 * j + k)) 2)
    let cs := (List.range 6).map fun j =>
      sval 32 (uval 32 (sval 32 (byteRange p (24 + 4 * j) 4) + ((List.range nl).map fun k => coef j k * (nth u.v k 0 : Int)).sum))
    let v := modNth u.v 0 (· + 1)
    let v := (List.range (nl - 1)).foldl (fun (v : List Nat) k =>
      if nth v k 0 = n k then modNth (modNth v k fun _ => 0) (k + 1) (· + 1) else v) v
    some (cs, { u with v := v, exhausted := nth v (nl - 1) 0 == n (nl - 1) })

/-- A loop-nest program is legal (R184). -/
def nestOk (p : Nat) : Bool := 1 ≤ byteRange p 120 1 && byteRange p 120 1 ≤ 6 && byteRange p 121 7 == 0

/-- The elements of an access shape at an origin, in payload order: index and coordinates (R183). -/
def shapeEls (shape fmt brows bcols : Nat) (i : List Int) : List (Nat × List Int) :=
  match shape with
  | 3 => (cellsOf brows bcols).map fun p => (p.1 * bcols + p.2, shiftCoords i p.2 p.1)
  | 2 => (List.range (vecLanes (fmtWidth fmt))).map fun k => (k, shiftCoords i k 0)
  | _ => [(0, i)]

/-- In-bounds elements as index and address, or the address that an access through the record meets LAYOUT_BOUNDS at
(R180): out of bounds under fault, or outside the virtual space. -/
def addrEls (r : Layout) : List (Nat × List Int) → Except Nat (List (Nat × Nat))
  | [] => .ok []
  | (k, i) :: t =>
    if r.inBounds i then
      if 2 ^ 56 ≤ r.addr i then .error (r.addr i)
      else match addrEls r t with | .ok l => .ok ((k, r.addr i) :: l) | .error e => .error e
    else if r.fault then .error (r.addr i)
    else addrEls r t

/-- Elements grouped by naturally aligned blocks of `gran` bytes, in the order in which the blocks are first touched. -/
def groupEls (gran : Nat) (wr rmw : Bool) : List (Nat × Nat) → List Piece
  | [] => []
  | l@((_, _) :: _) =>
    let ks := (l.map fun e => e.2 / gran).dedup
    ks.map fun b => { els := l.filter fun e => e.2 / gran == b, wr := wr, rmw := rmw }

/-- Leading rows and columns of a box that are in bounds (R192). -/
def validBox (r : Layout) (i : List Int) : Nat × Nat :=
  if !r.inBounds i then (0, 0)
  else
    let lead (n : Nat) (f : Nat → Bool) : Nat := ((List.range n).find? fun k => !f k).getD n
    (lead r.brows fun k => r.inBounds (shiftCoords i 0 k), lead r.bcols fun k => r.inBounds (shiftCoords i k 0))

/-- What an access becomes when it begins: held with a cause and an address, or checked and cut. -/
inductive Begun where
  | hold (cause va : Nat)
  | go (a : Access)

/-- A payload whose elements all hold one code. -/
def fillBits (w n c : Nat) : Nat := packLanes w (List.replicate n c)

/-- The bytes of an MX tile that an access reads or writes (R22, R179): elements, then the scale plane. `none` of them
where no cell of the byte is valid. The plane starts at the next multiple of 128 bytes counted from BASE: the spec does not say
whether the boundary is one of the layout or of the address space (the model's choice, log entry 62). -/
def mxEls (r : Layout) (vr vc : Nat) : List (Nat × Nat) :=
  let w := fmtWidth r.fmt
  let per := 8 / w
  let plane := planeOff r.fmt r.brows r.bcols
  let cells := (List.range (r.brows * r.bcols * w / 8)).filter fun k =>
    (k * per) / r.bcols < vr && (k * per) % r.bcols < vc
  let scales := (List.range (r.brows * (r.bcols / 32))).filter fun k =>
    k / (r.bcols / 32) < vr && k % (r.bcols / 32) * 32 < vc
  (cells ++ scales.map (plane + ·)).map fun k => (k, r.base + k)

/-- The origin of an MX access is (0, 0) (R179). -/
def zeroCoords (i : List Int) : Bool := i.all (· == 0)

/-- `ld` and `st` begin through a checked record (R192). An MX tile is judged against 2^56 as a whole, with its scale plane and
cells that are not valid (R180 speaks of elements; the model's choice, log entry 69). -/
def beginLdSt (a : Access) (r : Layout) (i : List Int) : Begun :=
  let ld := a.op == 0xA0
  let wait := a.clk0 + minLat a.op a.mod a.shape (tileBytes r.fmt r.brows r.bcols)
  let b := (a.b.getD {}).hdr
  if fmtIsMx r.fmt then
    if a.shape ≠ 3 || !zeroCoords i then .hold 0x13 (r.base)
    else if 2 ^ 56 < r.base + tileBytes r.fmt r.brows r.bcols then .hold 0x13 (2 ^ 56)
    else
      let els := if ld then mxEls r r.brows r.bcols else mxEls r b.vrows b.vcols
      .go { a with begun := true, width := 8, notBefore := wait, pieces := groupEls 64 (!ld) false els, buf := if ld then 0 else (a.b.getD {}).payload,
                   hdr := if ld then tileHdr ((Fmt.ofCode r.fmt).getD .fp32) a.outTag r.brows r.bcols r.brows r.bcols 0xFFFF else {} }
  else
    let w := fmtWidth r.fmt
    let all := shapeEls a.shape r.fmt r.brows r.bcols i
    let all := if ld || a.shape ≠ 3 then all else all.filter fun e => e.1 / r.bcols < b.vrows && e.1 % r.bcols < b.vcols
    match addrEls r all with
    | .error x => .hold 0x13 x
    | .ok els =>
      let f := (Fmt.ofCode r.fmt).getD .fp32
      let vb := validBox r i
      let h := match a.shape with
        | 3 => tileHdr f a.outTag r.brows r.bcols vb.1 vb.2 0xFFFF
        | 2 => vectorHdr f a.outTag 1
        | _ => scalarHdr f a.outTag
      .go { a with begun := true, width := w, notBefore := wait, pieces := groupEls 64 (!ld) false els, hdr := if ld then h else {},
                   buf := if ld then fillBits w all.length (r.pad % 2 ^ w) else (a.b.getD {}).payload }

/-- `ldg` and `stg` (R194): row r of the tile at index lane r, −1 skipped; of a repeated index the higher row stays. -/
def beginGather (a : Access) (r : Layout) : Begun :=
  let ld := a.op == 0xA2
  let b := (a.b.getD {}).hdr
  let ix (k : Nat) : Int := sval 32 (lane 32 (a.a.getD {}).payload k)
  let rows := (List.range r.brows).filter fun k => ix k ≠ -1 && (ld || k < b.vrows)
  let rows := if ld then rows else rows.filter fun k => !(rows.any fun m => k < m && ix m == ix k)
  let all := rows.flatMap fun k =>
    (List.range (if ld then r.bcols else min r.bcols b.vcols)).map fun c => (k * r.bcols + c, sixCoords [Int.ofNat c, ix k])
  if fmtIsMx r.fmt then .hold 0x13 r.base
  else match addrEls r all with
  | .error x => .hold 0x13 x
  | .ok els =>
    let w := fmtWidth r.fmt
    let f := (Fmt.ofCode r.fmt).getD .fp32
    .go { a with begun := true, width := w, pieces := groupEls 64 (!ld) false els,
                 hdr := if ld then tileHdr f a.outTag r.brows r.bcols r.brows (min r.bcols (r.extent 0)) 0xFFFF else {},
                 buf := if ld then fillBits w (r.brows * r.bcols) (r.pad % 2 ^ w) else (a.b.getD {}).payload }

/-- `red` (R199): one atomic update for each valid in-bounds element. -/
def beginRed (a : Access) (r : Layout) (i : List Int) : Begun :=
  let b := (a.b.getD {}).hdr
  let all := shapeEls a.shape r.fmt r.brows r.bcols i
  let all := if a.shape ≠ 3 then all else all.filter fun e => e.1 / r.bcols < b.vrows && e.1 % r.bcols < b.vcols
  if fmtIsMx r.fmt then .hold 0x13 r.base
  else match addrEls r all with
  | .error x => .hold 0x13 x
  | .ok els => .go { a with begun := true, width := fmtWidth r.fmt, buf := (a.b.getD {}).payload,
                            pieces := els.map fun e => { els := [e], wr := true, rmw := true } }

/-- An atomic (R197): out of bounds under suppress it writes nothing and returns PAD with STAT 3. -/
def beginAtomic (a : Access) (r : Layout) (i : List Int) : Begun :=
  let f := (Fmt.ofCode r.fmt).getD .fp32
  if fmtIsMx r.fmt then .hold 0x13 r.base
  else match addrEls r [(0, i)] with
  | .error x => .hold 0x13 x
  | .ok els => .go { a with begun := true, width := fmtWidth r.fmt, hdr := scalarHdr f a.outTag, buf := r.pad % 2 ^ fmtWidth r.fmt,
                            stat := if els = [] then 3 else a.stat,
                            pieces := els.map fun e => { els := [e], wr := true, rmw := true } }

/-- `red.m` (R200): a block's 64 sum cells and its count in one atomic update; index 1024 + k is count k. -/
def beginRedM (a : Access) (r q : Layout) (i : List Int) : Begun :=
  let c0 := nth i 0 0
  let r0 := nth i 1 0
  if c0 % 32 ≠ 0 || r0 % 32 ≠ 0 then .hold 0x13 (r.addr i)
  else
    let ks := if a.mod = 0 then (List.range 16).filter fun k => bit (a.b.getD {}).hdr.vmask k else List.range 16
    let cells (k : Nat) := (List.range 64).map fun j => (64 * k + j, shiftCoords i (j % 32) (2 * k + j / 32))
    let cnt (k : Nat) := (1024 + k, sixCoords [16 * (c0 / 32) + Int.ofNat k, r0 / 32])
    let go (k : Nat) : Except Nat Piece :=
      match addrEls r (cells k), addrEls q [cnt k] with
      | .ok x, .ok y => .ok { els := x ++ y, wr := true, rmw := true }
      | .error e, _ => .error e
      | _, .error e => .error e
    match ks.mapM go with
    | .error x => .hold 0x13 x
    | .ok ps =>
      .go { a with begun := true, width := 32, pieces := ps,
                   buf := if a.mod = 0 then (a.b.getD {}).payload else fillBits 32 1024 (r.pad % 2 ^ 32) + 2 ^ 32768 * fillBits 32 16 (q.pad % 2 ^ 32),
                   hdr := if a.mod = 0 then {} else tileHdr .fp32 a.outTag 32 32 32 32 0xFFFF }

/-- `copy` (R201): the source box read line by line, its elements out of bounds as PAD whatever the record's OOB; the
destination written line by line. -/
def beginCopy (a : Access) (r q : Layout) (i j : List Int) : Begun :=
  if r.fmt ≠ q.fmt || fmtIsMx r.fmt || fmtIsMx q.fmt then .hold 0x13 r.base
  else
    let src := (cellsOf r.brows r.bcols).map fun p => (p.1 * r.bcols + p.2, shiftCoords i p.2 p.1)
    let dst := (cellsOf r.brows r.bcols).map fun p => (p.1 * r.bcols + p.2, shiftCoords j p.2 p.1)
    match addrEls { r with fault := false } src, addrEls q dst with
    | .ok x, .ok y =>
      let w := fmtWidth r.fmt
      .go { a with begun := true, width := w, buf := fillBits w (r.brows * r.bcols) (r.pad % 2 ^ w),
                   notBefore := a.clk0 + minLat 0xA6 0 0 (max 1 (y.length * (w / 8))),
                   pieces := groupEls 64 false false (x.filter fun e => y.any fun d => d.1 == e.1) ++ groupEls 64 true false y }
    | .error x, _ => .hold 0x13 x
    | _, .error x => .hold 0x13 x

/-- Bytes at an offset of a one-dimensional buffer as elements of an access, from index k on. -/
def byteEls (r : Layout) (off : Int) (k n : Nat) : List (Nat × List Int) :=
  (List.range n).map fun j => (k + j, sixCoords [(off + j) / elemBytes r.fmt])

/-- In-bounds bytes of a buffer as index and address (R113: a record beyond a layout's bounds follows its rule). -/
def addrBytes (r : Layout) (off : Int) (k n : Nat) : Except Nat (List (Nat × Nat)) :=
  match addrEls r (byteEls r off k n) with
  | .error e => .error e
  | .ok l => .ok (l.map fun e => (e.1, (r.base + off + (e.1 - k : Nat)).toNat))

/-- `ld.rec` (R195): its header beat first. -/
def beginRec (a : Access) (r : Layout) (i : List Int) : Begun :=
  let o := nth i 0 0
  if r.fmt ≠ 9 || r.ndim ≠ 1 then .hold 0x13 r.base
  else if o % 128 ≠ 0 then .hold 0x13 (r.addr i)
  else match addrBytes r o 0 128 with
  | .error x => .hold 0x13 x
  | .ok els => .go { a with begun := true, headed := false, width := 8, buf := fillBits 8 128 (r.pad % 256),
                            pieces := groupEls 64 false false els }

/-- The record bytes that a `sort2` firing writes (R113): the header beat with CHAN 0 and the record's POISON, the payload
beats, zero beats up to B. -/
def sortRecord (a : Access) : Nat :=
  let t := a.a.getD {}
  tokenBeats { t with hdr := { t.hdr with poison := a.poison, fidx := if a.poison then a.fidx else 0 } } 0

/-- A sort buffer's header (Table 4.2). -/
def sortHeader (side b count : Nat) : Nat := count + b * 2 ^ 64 + side * 2 ^ 96

/-- The bytes of one side of a `sort2` firing (R113): its record behind those that the side holds, or of its EOS set the buffer
header. -/
def sortEls (a : Access) (r : Layout) (side : Nat) : Except Nat (List (Nat × Nat)) :=
  let b : Nat := bits a.desc 21 16
  let n : Nat := if side = 0 then a.state % 2 ^ 32 else a.state / 2 ^ 32
  let o : Nat := 128 * (1 + n * b)
  if a.eos then addrBytes r 0 (128 * side) 128 else addrBytes r o 0 (128 * b)

/-- What a `sort2` firing writes: one record, or the headers of buffers T and F. -/
def sortBuf (a : Access) : Nat :=
  let b := bits a.desc 21 16
  if a.eos then sortHeader 0 b (a.state % 2 ^ 32) + 2 ^ 1024 * sortHeader 1 b (a.state / 2 ^ 32) else sortRecord a

/-- The coordinates of an access, resolved once: of a `.gen` form the next tuple of its stream's unit (R183, R185). -/
def resolveCoords (s : State) (l : Loc) (a : Access) : State × Access :=
  if a.coords.isSome || a.ended then (s, a)
  else if a.isGen then
    let u := (lookupKey (getElem s l).port.nests a.stream).getD {}
    match nestTuple u with
    | some (cs, u') => (modPort s l fun q => { q with nests := putKey q.nests a.stream u' }, { a with coords := some cs })
    | none => (s, { a with ended := true })
  else (s, { a with coords := some (coordsOf (a.a.getD {})) })

/-- A firing whose poison suppresses its write (R196): STAT 3 and a POISON_AT_SINK record with stream and coordinates. -/
def suppress (s : State) (l : Loc) (a : Access) : State × Access :=
  let f : FRec := { cause := 0x23, tag := a.tag, slot := a.slot, fidx := a.fidx, stream := some a.stream,
                    coords := a.coords.getD [] }
  (putRec s (rgnOf l) (atElem s l f), { a with stat := 3 })

/-- The record must hold the slot's format (R179); `copy` has none, `ld.rec` reads bytes. -/
def fmtOk (a : Access) (r : Layout) : Bool := a.op == 0xA6 || a.isRec || r.fmt == a.fmt

/-- A tile access by R179. -/
def tileAccess (a : Access) : Bool :=
  (a.shape == 3 && (a.op == 0xA0 || a.op == 0xA1 || a.op == 0xA7) && !a.isRec) || a.op == 0xA2 || a.op == 0xA3

/-- The second record of an access: of `copy` and `red.m` HANDLE2. -/
def secondLayout (s : State) (l : Loc) (a : Access) (r : Layout) : State × Except (Nat × Nat) Layout :=
  if a.op = 0xA6 || a.op = 0xA8 then fetchLayout s l (mdHandle2 a.desc) else (s, .ok r)

/-- b of a store or of `red` agrees with the record (R192): judged at issue, and here for a record that could not be read or
was another then (log entry 22). -/
def shapeHolds (a : Access) (r : Layout) : Bool :=
  (a.op != 0xA1 && a.op != 0xA3 && a.op != 0xA7) || shapeFits ((a.b.map fun t => t.hdr).getD {}) a.shape (some r)

/-- A data tile that is the slot constant in every cell takes the record's box, its full shape valid (R65, R93). -/
def Access.fitB (a : Access) (r : Layout) : Access :=
  match a.fill with
  | some c =>
    if a.shape = 3 then
      let f := (Fmt.ofCode r.fmt).getD .fp32
      { a with b := some { hdr := tileHdr f a.tag r.brows r.bcols r.brows r.bcols 0xFFFF, payload := fillTile f r.brows r.bcols c } }
    else a
  | none => a

/-- A `.gen` firing whose unit has no tuple left (R185): it performs nothing and completes with STAT END, VMASK 0. A tile's stored
shape is the box of the record as it stands (the model's choice, log entry 65). -/
def endAccess (s : State) (l : Loc) (a : Access) : Access :=
  let f := (Fmt.ofCode a.fmt).getD .fp32
  let box := match layoutAtIssue s l (mdHandle a.desc) with
    | some r => if r.malformed true then (0, 0) else (r.brows, r.bcols)
    | none => (0, 0)
  let h := match a.shape with
    | 3 => tileHdr f a.outTag box.1 box.2 0 0 0
    | 2 => vectorHdr f a.outTag 0
    | _ => { scalarHdr f a.outTag with vmask := 0 }
  { a with begun := true, stat := 2, hdr := if a.op = 0xA0 then h else {} }

/-- An access through its records, once these are read. -/
def beginThrough (a : Access) (r q : Layout) (va : Nat) : Begun :=
  let i := a.coords.getD []
  let a := if r.malformed (tileAccess a) || a.op == 0xA8 then a else a.fitB r
  if r.malformed (tileAccess a) || q.malformed false || !fmtOk a r || (a.op == 0xA8 && q.fmt != 12) then .hold 0x13 va
  else if !shapeHolds a r then .hold 0x02 va
  else if a.isRec then beginRec a r i
  else if a.op = 0xA0 || a.op = 0xA1 then beginLdSt a r i
  else if a.op = 0xA2 || a.op = 0xA3 then beginGather a r
  else if a.op = 0xA6 then beginCopy a r q i (coordsOf (a.b.getD {}))
  else if a.op = 0xA7 then beginRed a r i
  else if a.op = 0xA8 then beginRedM a r q i
  else beginAtomic a r i

/-- Side T (0) or F (1) of a `sort2` begins (R113): the side's record is judged where the side is written, T performed before F
begins. -/
def sortSide (s : State) (l : Loc) (a : Access) (side : Nat) : State × Access :=
  let b := { a with begun := true, width := 8, buf := sortBuf a, headed := side == 1 }
  let h := if side = 0 then mdHandle a.desc else mdHandle2 a.desc
  if !a.eos && !bit a.mod side then (s, b)
  else
    let q := fetchLayout s l h
    match q.2 with
    | .error c => holdAccess q.1 l a c.1 c.2
    | .ok r =>
      if r.malformed false || fmtIsMx r.fmt then holdAccess q.1 l a 0x13 (layoutVa (getRegion q.1 (rgnOf l)) h)
      else match sortEls a r side with
        | .error x => holdAccess q.1 l a 0x13 x
        | .ok els => (q.1, { b with pieces := a.pieces ++ groupEls 64 true false els })

/-- The writes that poison suppresses whole; atomics and `red.m` finalisation still read (R196, R197). -/
def wholeWrite (a : Access) : Bool := !a.isLoad || a.op == 0xA6

/-- An access begins: coordinates, poison, layout records, checks and pieces (R179 to R201). An `sbar` with SCOPE 10 begins once
the far accesses before it are performed at their targets (R189, R281). -/
def beginAccess (s : State) (l : Loc) (a : Access) : State × Access :=
  if a.op = 0x0D then sortSide s l a 0
  else if a.eos then (s, { a with begun := true })
  else if a.op = 0xA5 then
    (if a.scope = 2 then drainHost (drainHost s 0) 1 else s, { a with begun := true, notBefore := max a.notBefore (s.clk + 2) })
  else if a.op = 0xA4 then
    let p := (a.a.getD {}).payload
    if nestOk p then
      (modPort s l fun q => { q with nests := putKey q.nests a.stream { prog := p, exhausted := false } }, { a with begun := true })
    else holdAccess s l a 0x13 0
  else
    let x := resolveCoords s l a
    let s := x.1
    let a := x.2
    if a.poison && wholeWrite a && a.isStore && !a.ended then
      let y := suppress s l a
      (y.1, { y.2 with begun := true, pieces := [] })
    else if a.ended then (s, endAccess s l a)
    else
      let va := layoutVa (getRegion s (rgnOf l)) (mdHandle a.desc)
      let r1 := fetchLayout s l (mdHandle a.desc)
      match r1.2 with
      | .error c => holdAccess r1.1 l a c.1 c.2
      | .ok r =>
        let r2 := secondLayout r1.1 l a r
        match r2.2 with
        | .error c => holdAccess r2.1 l a c.1 c.2
        | .ok q =>
          match beginThrough a r q va with
          | .hold c x => holdAccess r2.1 l a c x
          | .go b =>
            if a.poison && (a.op == 0xA8 || 0xB0 ≤ a.op) then suppress r2.1 l b
            else (r2.1, b)

/-- The remote window of the region's image that holds an address (R317): index of the binding in the image's list. -/
def rmemOf (g : Region) (va : Nat) : Option (Nat × LinkBind) :=
  (g.img.links.zipIdx.find? fun q => q.1.form == 1 && q.1.v ≤ va && va < q.1.v + q.1.s).map fun q => (q.2, q.1)

/-- The loop-nest units as the accesses of a port that have not begun will leave them, in order (R185). -/
def nestsAhead (nests : List (Nat × LoopNest)) : List Access → List (Nat × LoopNest)
  | [] => nests
  | a :: r =>
    let q :=
      if a.begun || a.coords.isSome || a.ended then nests
      else if a.op = 0xA4 && !a.eos then putKey nests a.stream { prog := (a.a.getD {}).payload, exhausted := false }
      else if a.isGen then
        (match nestTuple ((lookupKey nests a.stream).getD {}) with
         | some t => putKey nests a.stream t.2
         | none => nests)
      else nests
    nestsAhead q r

/-- An access that has not begun, with the coordinates that it will have. -/
def aheadAccess (e : Elem) (n : Nat) (x : Access) : Access :=
  if x.coords.isSome || x.ended then x
  else if x.isGen then
    (match nestTuple ((lookupKey (nestsAhead e.port.nests (earlier e n)) x.stream).getD {}) with
     | some t => { x with coords := some t.1 }
     | none => { x with ended := true })
  else { x with coords := some (coordsOf (x.a.getD {})) }

/-- The virtual addresses of the elements that a store still has to write, as its layout records stand; a malformed access, and
one whose write poison suppresses, writes none. -/
def aheadVas (s : State) (l : Loc) (n : Nat) (x : Access) : List Nat :=
  let undone (y : Access) : List Nat := (y.pieces.filter fun p => !p.done).flatMap fun p => p.els.map Prod.snd
  let side (k : Nat) : List Nat :=
    if !x.eos && !bit x.mod k then []
    else match layoutAtIssue s l (if k = 0 then mdHandle x.desc else mdHandle2 x.desc) with
      | some r => (match sortEls x r k with | .ok els => els.map Prod.snd | .error _ => [])
      | none => []
  if x.op = 0x0D then (if x.begun then undone x else side 0) ++ (if x.headed then [] else side 1)
  else if x.begun then undone x
  else if x.poison && wholeWrite x then []
  else
    let y := aheadAccess (getElem s l) n x
    if y.ended then []
    else match layoutAtIssue s l (mdHandle x.desc),
        layoutAtIssue s l (if x.op = 0xA6 || x.op = 0xA8 then mdHandle2 x.desc else mdHandle x.desc) with
      | some r, some q => (match beginThrough y r q 0 with | .go b => undone b | .hold _ _ => [])
      | _, _ => []

/-- Where a byte of an access lies: in a remote window, its place there; otherwise its physical address, by the page translated
for the access, or by the page table as it stands (log entry 25). A byte that the table refuses lies nowhere. -/
def bytePlace (s : State) (l : Loc) (a : Access) (va : Nat) : Option Nat :=
  match rmemOf (getRegion s (rgnOf l)) va with
  | some q => some (2 ^ 120 * (1 + q.1) + (va - q.2.v))
  | none =>
    match lookupKey a.pages (va / 4096) with
    | some _ => some (a.phys va)
    | none => match walk s l.part va with | .ok t => some (t.phys va) | .error _ => none

/-- The elements that store X of a port still has to write: place and bytes of each. -/
def aheadBytes (s : State) (l : Loc) (n : Nat) (x : Access) : List (Nat × Nat) :=
  let es := if x.begun then x.width / 8 else if x.op = 0x0D then 1 else max 1 (fmtWidth x.fmt / 8)
  (aheadVas s l n x).filterMap fun va => (bytePlace s l x va).map fun b => (b, es)

/-- Piece p of Y may be performed although the earlier X is not, under CAUSAL (Table 11.2, R332): Y writes no line of X, and reads
no byte of it, or takes X's bytes from X's buffer, in HBM. -/
def causalFree (s : State) (l : Loc) (n : Nat) (x y : Access) (p : Piece) : Bool :=
  if !(x.isStore && y.isAccess) then true
  else
    let xs := aheadBytes s l n x
    let es := y.width / 8
    let ys := p.els.filterMap fun q => bytePlace s l y q.2
    let line := ys.any fun b => xs.any fun q => lineOf q.1 == lineOf b
    let meets := ys.any fun b => xs.any fun q => q.1 < b + es && b < q.1 + q.2
    !(p.wr && y.isStore && line)
      && (!((!p.wr || p.rmw) && y.isLoad && meets) || (!p.rmw && x.known && x.forwards && ys.all fun b => b < 2 ^ 51))

/-- A piece of an access may be performed (R187 to R189, R279, R293). -/
def mayPerform (s : State) (l : Loc) (n : Nat) (a : Access) (p : Piece) : Bool :=
  let g := getRegion s (rgnOf l)
  let e := getElem s l
  if a.seq then seqTurn g a && (earlier e n).all fun x => !(x.inStream && x.stream == a.stream) || x.held.isNone
  else (earlier e n).zipIdx.all fun q =>
    q.1.reached a || (!follows (polCausal g) q.1 a && (!polCausal g || causalFree s l q.2 q.1 a p))

end Sys2Proof.Machine
end

