-- ==== Sys2Proof/Machine/Port.lean ====
section
/-! DEFINITION. A port performs its accesses piece by piece (spec/08: R186 to R201; spec/11: R272 to R281; spec/12: R293,
R294, R301, R302; spec/14: R332; spec/22: R404, R405). -/

namespace Sys2Proof.Machine

/-- What translating a piece gives: done, waiting for a walk or for the far module, or a fault with its address. -/
inductive Xl where
  | ok
  | wait
  | fault (cause va : Nat)
  deriving DecidableEq, Repr

/-- The rights that a piece needs (R385): reads R, stores and reductions W, atomics and `red.m` finalisation both. -/
def pieceNeed (a : Access) (p : Piece) : Need :=
  if p.rmw then (if a.op = 0xA7 || (a.op = 0xA8 && a.mod = 0) then { w := true } else { r := true, w := true })
  else if p.wr then { w := true } else { r := true }

/-- An update that a PCIe AtomicOp can carry (R198): integer `aadd`, `aswp` and `acas`. -/
def hostAtomic (a : Access) : Bool := (a.op == 0xB0 && a.fmt != 0) || a.op == 0xB6 || a.op == 0xB7

/-- The lane group that carries a binding now: its own, or the spare that took over (R309, R323). -/
def bindLane (s : State) (p h n : Nat) : Option Nat := s.lanes.findIdx? fun l => l.bind == some (p, h, n)

/-- The base from which the pages of remote memory are numbered in an access, by lane group. -/
def remotePage (lane : Nat) : Nat := 2 ^ 60 * (1 + lane)

/-- A remote translation in the port's cache (R321), its rights judged here; the page that it gives. -/
def remoteXlat (s : State) (l : Loc) (nd : Need) (va : Nat) (q : Nat × LinkBind) : Xl × Nat :=
  match bindLane s l.part l.handle q.1 with
  | none => (.wait, 0)
  | some lane =>
    let t := q.2.t + (va - q.2.v)
    match (getElem s l).port.tlb.find? fun x => x.coversFar lane t with
    | none => (.wait, 0)
    | some x =>
      if (nd.r && !bit x.entry 2) || (nd.w && !bit x.entry 3) then (.fault 0x11 va, 0)
      else (.ok, remotePage lane + x.phys t / 4096)

/-- One page of a piece translated (R317, R332, R385, R386): a remote window first, then the port's cache or, where
`walks`, a walk. -/
def xlPage (s : State) (l : Loc) (a : Access) (p : Piece) (walks : Bool) (va : Nat) : State × Access × Xl :=
  let nd := pieceNeed a p
  match rmemOf (getRegion s (rgnOf l)) va with
  | some q =>
    let r := remoteXlat s l nd va q
    (s, if r.1 = .ok then { a with pages := putKey a.pages (va / 4096) r.2 } else a, r.1)
  | none =>
    let r := portXlat s l nd walks va
    match r.2 with
    | none => (r.1, a, .wait)
    | some (.error e) => (r.1, a, .fault e.code va)
    | some (.ok pa) =>
      match target pa with
      | .host _ _ =>
        if p.rmw && !hostAtomic a then (r.1, a, .fault 0x11 va)
        else (r.1, { a with pages := putKey a.pages (va / 4096) (pa / 4096) }, .ok)
      | _ => (r.1, { a with pages := putKey a.pages (va / 4096) (pa / 4096) }, .ok)

/-- The first address of a piece in each of its pages. -/
def Piece.pageVas (p : Piece) : List Nat :=
  (p.els.map fun e => e.2 / 4096).dedup.filterMap fun q => (p.els.find? fun e => e.2 / 4096 == q).map fun e => e.2

/-- Every page of a piece translated, as far as it goes. `walks` counts the walks it may still make. -/
def xlPiece (l : Loc) (p : Piece) : List Nat → State → Access → Nat → State × Access × Xl × Nat
  | [], s, a, w => (s, a, .ok, w)
  | va :: r, s, a, w =>
    let hit := (getElem s l).port.tlb.any (·.covers va)
    let x := xlPage s l a p (w ≠ 0) va
    match x.2.2 with
    | .ok => xlPiece l p r x.1 x.2.1 (if hit then w else w - 1)
    | e => (x.1, x.2.1, e, w)

/-- A piece in host memory is cut into aligned accesses of at most 8 bytes, which are its single-copy atomic parts
(R274). -/
def cutHost (a : Access) (p : Piece) : List Piece :=
  match p.els with
  | [] => [p]
  | (_, va) :: _ =>
    let pa := a.phys va
    if !p.rmw && pa < 2 ^ 52 && 2 ^ 51 ≤ pa then groupEls 8 p.wr false p.els else [p]

/-- A piece stands in remote memory. -/
def Piece.remote (p : Piece) (a : Access) : Bool :=
  match p.els with | [] => false | e :: _ => remotePage 0 ≤ (lookupKey a.pages (e.2 / 4096)).getD 0

/-- Elements cut where their addresses in the target are not contiguous. -/
def farRuns (es : Nat) (at_ : Nat → Nat) : List (Nat × Nat) → List (List (Nat × Nat))
  | [] => []
  | e :: r =>
    match farRuns es at_ r with
    | (f :: fs) :: rs => if at_ e.2 + es = at_ f.2 then (e :: f :: fs) :: rs else [e] :: (f :: fs) :: rs
    | rs => [e] :: rs

/-- A remote piece whose pages are not contiguous in the target is cut there: a request names one physical address (R318). -/
def cutFar (a : Access) (p : Piece) : List Piece :=
  if p.remote a && a.op != 0xA8 then (farRuns (a.width / 8) a.phys p.els).map fun r => { p with els := r } else [p]

/-- The pieces of an access from its piece frontier on translated in order (R332), up to the first that waits or faults.
`fuel` bounds the pieces. -/
def xlPieces (l : Loc) : Nat → State → Access → Nat → State × Access
  | 0, s, a, _ => (s, a)
  | fuel + 1, s, a, w =>
    match a.pieces[a.xl]? with
    | none => (s, a)
    | some p =>
      if p.done then xlPieces l fuel s { a with xl := a.xl + 1 } w else
      let x := xlPiece l p p.pageVas s a w
      match x.2.2.1 with
      | .ok =>
        let b := x.2.1
        let ps := (cutHost b p).flatMap (cutFar b)
        xlPieces l fuel x.1 { b with pieces := b.pieces.take b.xl ++ ps ++ b.pieces.drop (b.xl + 1), xl := b.xl + ps.length }
          x.2.2.2
      | .wait => (x.1, x.2.1)
      | .fault c va => holdAccess x.1 l x.2.1 c va

/-- Translation goes on from the frontier with the cached translations and `walks` walks. -/
def advanceXl (s : State) (l : Loc) (a : Access) (walks : Nat) : State × Access := xlPieces l a.pieces.length s a walks

/-- The code that a store writes for an element (R36, R192): `st` and `stg` are the store operators of NCAN (log entry 23), and
of an MX tile the element codes, not the scales. -/
def storeElem (a : Access) (k : Nat) : Nat :=
  let c := lane a.width a.buf k
  let b := (a.b.getD {}).hdr
  if (a.op = 0xA1 || a.op = 0xA3) && !(fmtIsMx a.fmt && planeOff a.fmt b.trows b.tcols ≤ k) then
    storeCode ((Fmt.ofCode a.fmt).getD .fp32) a.ncan c
  else c

/-- The bits of an MX byte that a store writes: of an E2M1 pair only the valid cells. -/
def mxMask (a : Access) (k : Nat) : Nat :=
  match a.b with
  | some t =>
    if fmtWidth t.hdr.fmt = 4 && k < t.hdr.trows * t.hdr.tcols / 2 && t.hdr.vcols % 2 = 1
        && (2 * k + 1) % t.hdr.tcols = t.hdr.vcols then 15 else 255
  | none => 255

/-- A byte at a physical address after an earlier store of the port, not performed yet, over its value v (R273, R279). -/
def Access.overByte (x : Access) (pa v : Nat) : Nat :=
  let es := x.width / 8
  let put (v : Nat) (e : Nat × Nat) : Nat :=
    let at_ := x.phys e.2
    if at_ ≤ pa && pa < at_ + es then
      let m := if fmtIsMx x.fmt && x.op = 0xA1 then mxMask x e.1 else 255
      let b := byteRange (storeElem x e.1) (pa - at_) 1
      if m = 255 then b else Nat.land b m + v / 16 * 16
    else v
  ((x.pieces.filter fun p => p.wr && !p.done).flatMap fun p => p.els).foldl put v

/-- A byte with the pending stores over it, oldest first (R273, R279). -/
def pendingByte (xs : List Access) (pa v : Nat) : Nat :=
  xs.foldl (fun v x => if x.forwards && x.known then x.overByte pa v else v) v

/-- A value of n bytes with the bytes of pending stores over it. -/
def overPending (xs : List Access) (pa n v : Nat) : Nat :=
  if xs = [] then v
  else ofBytes ((List.range n).map fun i => BitVec.ofNat 8 (pendingByte xs (pa + i) (byteRange v i 1)))

/-- The bytes of an element read at its coherence point; of a line that no code corrects, free bytes. -/
def elemRead (s : State) (pa n : Nat) : Nat :=
  if lineBad s pa then ofBytes ((List.range n).map fun i => Config.badByte s.fresh (pa + i)) else physRead s pa n

/-- An access meets an uncorrectable line (R196, R325, R405): the first time, poison originates with a record. -/
def meetBad (s : State) (l : Loc) (a : Access) (va : Nat) : State × Access :=
  match a.bad with
  | some _ => (s, a)
  | none =>
    let q := drawOrigin s (rgnOf l)
    let f : FRec := { cause := 0x12, tag := a.tag, slot := a.slot, addr := va, stream := some a.stream, fidx := q.2 }
    (putRec q.1 (rgnOf l) (atElem q.1 l f), { a with bad := some q.2 })

/-- The lines of a piece are read: errors are logged and met (R404, R405). -/
def touchLines (s : State) (l : Loc) (a : Access) (p : Piece) : State × Access :=
  let ls := ((p.els.map fun e => (lineOf (a.phys e.2), e.2)).foldl
    (fun (acc : List (Nat × Nat)) x => if acc.any fun y => y.1 == x.1 then acc else acc ++ [x]) [])
  ls.foldl (fun (q : State × Access) x =>
    let pa := 64 * x.1
    let s := logRead (readBehind q.1 pa) l.part (getRegion q.1 (rgnOf l)).launch pa
    if lineBad s pa then meetBad { s with fresh := s.fresh + 1 } l q.2 x.2 else (s, q.2)) (s, a)

/-- The stores whose buffered bytes a load takes: in a CAUSAL pour the earlier ones of its port (R273, R279); in a sequenced
pour none, whatever the model (R294). -/
def forwardFrom (g : Region) (e : Elem) (n : Nat) (a : Access) : List Access :=
  if polCausal g && !a.seq then earlier e n else []

/-- A read piece is performed (R273): its elements enter the payload. -/
def readPiece (s : State) (l : Loc) (a : Access) (before : List Access) (p : Piece) : State × Access :=
  let q := touchLines s l a p
  let es := a.width / 8
  let buf := p.els.foldl (fun b e =>
    let pa := a.phys e.2
    setByteRange b (e.1 * es) es (overPending before pa es (elemRead q.1 pa es))) a.buf
  (q.1, { q.2 with buf := buf })

/-- An access's record of the digest gains written bytes (R301): their line, mask and data. -/
def digWrite (s : State) (l : Loc) (a : Access) (va n v : Nat) : State :=
  if !a.seq then s
  else
    let line := va / 64 * 64
    let o := va % 64
    let put (d : DigLine) : DigLine := { d with mask := Nat.lor d.mask ((2 ^ n - 1) * 2 ^ o), data := setByteRange d.data o n v }
    let add (r : DigRec) : DigRec :=
      if r.lns.any fun (d : DigLine) => d.va == line then
        { r with lns := r.lns.map fun (d : DigLine) => if d.va = line then put d else d }
      else { r with lns := r.lns ++ [put { va := line, mask := 0, data := 0 }] }
    modRegion s (rgnOf l) fun g =>
      let q := if g.digq.any fun (r : DigRec) => r.seqo == a.seqo then g.digq else g.digq ++ [{ seqo := a.seqo }]
      { g with digq := q.map fun (r : DigRec) => if r.seqo = a.seqo then add r else r }

/-- Elements written in one line at one instant (R274): address and bytes of each. -/
def writeLine (s : State) (l : Loc) (a : Access) (ws : List (Nat × Nat)) (es : Nat) : State :=
  let pas := ws.map fun w => a.phys w.1
  let lo := pas.foldl min (pas.headD 0)
  let hi := pas.foldl max 0 + es
  let v := ws.foldl (fun v w => setByteRange v (a.phys w.1 - lo) es w.2) 0
  let m := ws.foldl (fun m w => Nat.lor m ((2 ^ es - 1) * 2 ^ (a.phys w.1 - lo))) 0
  let full := lo % 64 = 0 && hi - lo = 64 && m = 2 ^ 64 - 1
  let s := logWrite s l.part (getRegion s (rgnOf l)).launch lo (if full then 64 else 1)
  let s := physWriteMask s none lo (hi - lo) v m
  ws.foldl (fun s w => digWrite s l a w.1 es w.2) s

/-- Elements written, line by line. -/
def writeEls (s : State) (l : Loc) (a : Access) (ws : List (Nat × Nat)) (es : Nat) : State :=
  ((ws.map fun w => lineOf (a.phys w.1)).dedup).foldl
    (fun s x => writeLine s l a (ws.filter fun w => lineOf (a.phys w.1) == x) es) s

/-- A write piece is performed. -/
def writePiece (s : State) (l : Loc) (a : Access) (p : Piece) : State :=
  let es := a.width / 8
  let one (e : Nat × Nat) : Nat × Nat :=
    let v := storeElem a e.1
    let m := if fmtIsMx a.fmt && a.op = 0xA1 then mxMask a e.1 else 255
    if m = 255 then (e.2, v) else (e.2, (Nat.land v m) + (physRead s (a.phys e.2) 1) / 16 * 16)
  let t := writeEls s l a (p.els.map one) es
  if a.scope = 2 then markSys t s.hostOut.length else t

/-- A piece of an access marked as performed. -/
def Access.setDone (a : Access) (k : Nat) : Access :=
  { a with pieces := modNth a.pieces k fun p => { p with done := true, sent := false } }

/-- A line of the digest string (R301): address, byte mask, and the written bytes in ascending address. -/
def Sponge.line (p : Sponge) (d : DigLine) : Sponge :=
  (List.range 64).foldl (fun (p : Sponge) i => if bit d.mask i then p.byte (byteRange d.data i 1) else p)
    ((p.absorb 8 d.va).absorb 8 d.mask)

/-- A line put in its place among lines in ascending virtual address. -/
def putLine (d : DigLine) : List DigLine → List DigLine
  | [] => [d]
  | x :: r => if d.va < x.va then d :: x :: r else x :: putLine d r

/-- Lines in ascending virtual address. -/
def sortLines (l : List DigLine) : List DigLine := l.foldl (fun acc d => putLine d acc) []

/-- The records that stand complete at the front of the queue enter the digest in order (R301). -/
def absorbFront : List DigRec → Sponge → Sponge × List DigRec
  | [], p => (p, [])
  | r :: rs, p => if r.full then absorbFront rs ((sortLines r.lns).foldl Sponge.line p) else (p, r :: rs)

/-- The digest record of an access that is performed is complete (R301). -/
def digFull (s : State) (l : Loc) (a : Access) : State :=
  if a.seq && a.performed then
    modRegion s (rgnOf l) fun g =>
      let q := absorbFront (g.digq.map fun (r : DigRec) => if r.seqo = a.seqo then { r with full := true } else r) g.digest
      { g with digest := q.1, digq := q.2 }
  else s

/-- The access of a port by number. -/
def getAccess (s : State) (l : Loc) (n : Nat) : Option Access := (getElem s l).port.accs[n]?

/-- An access put back in its place, after a step of it. -/
def putAccess (s : State) (l : Loc) (n : Nat) (a : Access) : State :=
  digFull (modPort s l fun q => { q with accs := modNth q.accs n fun _ => a }) l a

/-- A `.rel` access at `.sys` first sees every far store of the partition's paths performed at its target (R188, R281). -/
def relSettle (s : State) (a : Access) : State :=
  if a.rel && a.scope = 2 then drainHost (drainHost s 0) 1 else s

/-- The header that an `ld.rec` read (R195): KIND data, reserved fields 0, shape fields legal, FMT and PKIND the slot's. -/
def recHeaderOk (a : Access) (x : Nat) : Bool :=
  let h := hdrOfBits (x % 2 ^ 256)
  hdrBits h h.chan == x % 2 ^ 256 && h.kind == 0 && shapeOk h && h.fmt == a.fmt && h.pkind == a.shape

/-- An `ld.rec` whose header beat is read goes on to its payload, or is held (R195): also of a header beyond the layout's
bounds, which reads PAD. -/
def recStep (s : State) (l : Loc) (a : Access) : State × Access :=
  if !(a.isRec && a.begun && a.held.isNone && !a.headed && a.pieces.all (·.done)) then (s, a)
  else if !recHeaderOk a a.buf then
    let i := a.coords.getD []
    holdAccess s l a 0x13 (match cachedLayout (getElem s l) (mdHandle a.desc) with
      | some x => (layoutOf x).addr i
      | none => 0)
  else
    let h := hdrOfBits (a.buf % 2 ^ 256)
    let n := 128 * (beatsOf h - 1)
    let q := fetchLayout s l (mdHandle a.desc)
    match q.2 with
    | .error c => holdAccess q.1 l a c.1 c.2
    | .ok r =>
      match addrBytes r (nth (a.coords.getD []) 0 0 + 128) 128 n with
      | .error va => holdAccess q.1 l a 0x13 va
      | .ok els =>
        let ps := groupEls 64 false false els
        (q.1, { a with headed := true, pieces := a.pieces ++ ps, buf := a.buf % 2 ^ 1024 + 2 ^ 1024 * fillBits 8 n (r.pad % 256) })

/-- A piece k of an access that may be performed now: also of a held access, below its piece frontier (R332). -/
def pieceOpen (a : Access) (k : Nat) : Option Piece :=
  if a.begun && k < a.xl then
    match a.pieces[k]? with
    | some p => if p.done || p.sent then none else some p
    | none => none
  else none

/-- A `copy` writes a line only after the elements that it writes there have been read (R201). -/
def copyReady (a : Access) (p : Piece) : Bool :=
  a.op != 0xA6 || !p.wr || p.els.all fun e => a.pieces.all fun q => q.wr || q.done || !q.els.any fun x => x.1 == e.1

/-- Elements in payload order cut where the payload or the addresses are not contiguous, around a byte of which only half is
stored, and at 4,096 bytes (Table 13.3). `pages`: also at 4 KiB pages. -/
def runEls (a : Access) (es : Nat) (pages : Bool) : List (Nat × Nat) → List (List (Nat × Nat))
  | [] => []
  | e :: r =>
    let whole (x : Nat × Nat) : Bool := !(fmtIsMx a.fmt && a.op == 0xA1) || mxMask a x.1 == 255
    match runEls a es pages r with
    | (f :: fs) :: rs =>
      if e.2 + es = f.2 && e.1 + 1 = f.1 && (!pages || e.2 / 4096 = f.2 / 4096) && es * (fs.length + 2) ≤ 4096 && whole e && whole f
      then (e :: f :: fs) :: rs
      else [e] :: (f :: fs) :: rs
    | rs => [e] :: rs

/-- A piece has bytes in a remote window (R317). -/
def farPiece (g : Region) (p : Piece) : Bool := p.els.any fun e => (rmemOf g e.2).isSome

/-- A piece cut by the remote windows of its elements. -/
def splitFar (g : Region) (p : Piece) : List Piece :=
  let k (e : Nat × Nat) : Option Nat := (rmemOf g e.2).map Prod.fst
  if farPiece g p then (p.els.map k).dedup.map fun q => { p with els := p.els.filter fun e => k e == q } else [p]

/-- A remote access travels as one request for each run of its bytes that is contiguous in the target, and an atomic or a block of
`red.m` as one (R318, Table 13.3, log entry 13). -/
def farCut (g : Region) (a : Access) : Access :=
  if !a.pieces.any (farPiece g) then a
  else
    let es := a.width / 8
    let ps := a.pieces.flatMap fun p => if p.done then [p] else splitFar g p
    let run (p : Piece) : Bool := farPiece g p && !p.done && (!p.rmw || a.op == 0xA7)
    let runs (w : Bool) : List Piece :=
      (runEls a es false (((ps.filter fun p => run p && p.wr == w).flatMap fun p => p.els).insertionSort
        (fun x y => x.1 ≤ y.1))).map fun r => { els := r, wr := w, rmw := a.op == 0xA7 }
    { a with pieces := (ps.filter fun p => !run p) ++ runs false ++ runs true }

/-- The payload bytes of a run, at their place in the payload. -/
def runPayload (a : Access) (p : Piece) : Nat :=
  let es := a.width / 8
  match p.els with
  | [] => 0
  | e :: _ => packLanes (8 * es) (p.els.map fun x => storeElem a x.1) * 2 ^ (8 * es * e.1)

/-- The validity blocks that n bytes from byte o of a payload touch (R307). -/
def touchBlocks (o n : Nat) : List Nat := (List.range (cdiv (o % 256 + n) 256)).map fun b => o / 256 + b

/-- A request carries payload flits (R318): stores of vectors and tiles, `stg`, `red`, `red.m .acc`, and what `copy` and `sort2`
write. -/
def farPayload (a : Access) (p : Piece) : Bool :=
  p.wr && (a.op == 0xA3 || a.op == 0xA6 || a.op == 0xA7 || a.op == 0x0D || (a.op == 0xA8 && a.mod == 0)
    || (a.op == 0xA1 && 2 ≤ (a.b.getD {}).hdr.pkind))

/-- The accesses whose payload may travel mist (R320). -/
def mistOp (a : Access) : Bool := a.op == 0xA1 || a.op == 0xA3 || a.op == 0xA7 || (a.op == 0xA8 && a.mod == 0)

/-- The header of a request (R318): of the access with its POISON, with CHAN 0; a `copy`, an `ld.rec` and `red.m` move payload
blocks. -/
def farHdr (a : Access) : Hdr :=
  let h := if a.isLoad && a.op != 0xA6 then a.hdr else (a.b.getD {}).hdr
  let k := if a.op == 0xA6 || a.isRec || a.op == 0xA8 || a.op == 0x0D then 3 else if 0xB0 ≤ a.op then 0 else h.pkind
  { h with tag := a.outTag, kind := 0, chan := 0, pkind := k, fmt := a.fmt, stat := 0, poison := a.poison,
           fidx := if a.poison then a.fidx else 0, seq := a.seq, seqp := a.seqp, seqo := a.seqo, seqs := a.seqs }

/-- The block of `red.m` that a piece updates. -/
def redBlock (p : Piece) : Nat :=
  let k := (p.els.map Prod.fst).headD 0
  if 1024 ≤ k then k - 1024 else k / 64

/-- The cells of a `red.m` piece as contiguous runs in its target: address, cells, first cell of the block. -/
def redRuns (a : Access) (p : Piece) (page : Nat → Nat) : List (Nat × Nat × Nat) :=
  (runEls a 4 true (p.els.filter fun e => e.1 < 1024)).filterMap fun r =>
    r.head?.map fun e => (page e.2, r.length, e.1 % 64)

/-- The count of a `red.m` piece in its target. -/
def redCount (p : Piece) (page : Nat → Nat) : Option Nat := (p.els.find? fun e => 1024 ≤ e.1).map fun e => page e.2

/-- Bytes 71 up of a `red.m` request (log entry 13): the number of runs below the mark of the count, each run as its address, its
cells less one and its first cell, and at byte 104 the count's address. -/
def redWords (rs : List (Nat × Nat × Nat)) (c : Option Nat) : Nat :=
  2 ^ 568 * (rs.length % 8 + 128 * b2n c.isSome)
    + 2 ^ 576 * packLanes 64 ((rs.take 4).map fun r => r.1 % 2 ^ 52 + 2 ^ 52 * ((r.2.1 - 1) % 64) + 2 ^ 58 * (r.2.2 % 64))
    + 2 ^ 832 * (c.getD 0 % 2 ^ 64)

/-- The flits of a request (R318, Table 13.3; bytes 64 up by log entry 13: payload offset, FTZ, mist, half-byte mask, and the runs
of `red.m`). `page` gives target addresses. -/
def requestFlits (a : Access) (p : Piece) (page : Nat → Nat) (epoch stack port : Nat) (mist : Bool) : List Flit :=
  let es := a.width / 8
  let e0 := p.els.headD (0, 0)
  let block := a.op = 0xA8
  let n := es * p.els.length
  let half := if fmtIsMx a.fmt && a.op = 0xA1 then mxMask a e0.1 else 255
  let o := if block then 256 * redBlock p else es * e0.1
  let bs := if farPayload a p then touchBlocks o (if block then 256 else n) else []
  let opb := if 0xB0 ≤ a.op then (a.b.getD {}).payload % 2 ^ a.width
    else if a.op = 0xA1 && bs = [] then storeElem a e0.1 else 0
  let opc := if a.op = 0xB7 then (a.c.getD {}).payload % 2 ^ a.width else 0
  let v := if block then byteRange a.buf 0 4096 else runPayload a p
  let d := hdrBits (farHdr a) 0 + 2 ^ 256 * (epoch % 256 * 2 ^ 52 + page e0.2 % 2 ^ 52)
    + 2 ^ 320 * (a.op % 256 + 2 ^ 8 * (a.mod % 16 * 16 + a.scope % 4 * 4 + a.ord % 4) + 2 ^ 16 * (stack % 256) + 2 ^ 24 * (port % 256)
        + 2 ^ 32 * (a.stream % 64) + 2 ^ 40 * (n % 2 ^ 24))
    + 2 ^ 384 * (opb % 2 ^ 64) + 2 ^ 448 * (opc % 2 ^ 64)
    + 2 ^ 512 * (o % 2 ^ 32 + 2 ^ 32 * b2n a.ftz + 2 ^ 40 * b2n (mist && bs != []) + 2 ^ 48 * half)
    + (if block then redWords (redRuns a p page) (redCount p page) else 0)
  mkFlit a.outTag 2 false 0 bs.length d :: bs.map fun b => mkFlit a.outTag 1 mist b 0 (byteRange v (256 * b) 256)

/-- A target page is asked for once by a port over the binding (R321): the request names the page, the rights and the port. -/
def askPage (s : State) (l : Loc) (lane page : Nat) (w : Bool) : State :=
  if (getLane s lane).asked.any fun x => x.1 == l && x.2.1 == page then s
  else
    let q := recPlace s l.part (getRegion s (rgnOf l)).place (getElem s l)
    let key := q.2.1 * 256 + q.2.2
    modLane s lane fun x => { x.post [ctlFlit ckAsk page (b2n w + 256 * key) 0] with asked := (l, page, key) :: x.asked }

/-- A target page that translation waits for is asked for (R321). -/
def askFar (s : State) (l : Loc) (a : Access) (p : Piece) : State :=
  (p.pageVas).foldl (fun s va =>
    match rmemOf (getRegion s (rgnOf l)) va with
    | none => s
    | some q =>
      (match bindLane s l.part l.handle q.1, (remoteXlat s l (pieceNeed a p) va q).1 with
       | some lane, .wait => askPage s l lane ((q.2.t + (va - q.2.v)) / 4096 * 4096) (pieceNeed a p).w
       | _, _ => s)) s

/-- The request of a remote piece goes to its lane group (R318), by the translation that the port holds now (R321, R322). It waits
while a request of its stream that used another EPOCH waits, which the target may refuse: the stream's order stays (R187). -/
def sendRemote (s : State) (l : Loc) (n k : Nat) (a : Access) (p : Piece) : State :=
  match p.els with
  | [] => s
  | e :: _ =>
    match rmemOf (getRegion s (rgnOf l)) e.2 with
    | none => s
    | some q =>
      match bindLane s l.part l.handle q.1 with
      | none => s
      | some lane =>
        let page (va : Nat) : Nat := ((remoteXlat s l (pieceNeed a p) va q).2 - remotePage lane) * 4096 + va % 4096
        match (p.pageVas.map fun va => (remoteXlat s l (pieceNeed a p) va q).1).find? fun x => x != .ok with
        | some (.fault c va) => let x := holdAccess s l a c va; putAccess x.1 l n { x.2 with xl := k }
        | some _ => askFar s l a p
        | none =>
          let el := getElem s l
          let t := q.2.t + (e.2 - q.2.v)
          let ent := (el.port.tlb.find? fun x => x.coversFar lane t).getD { base := 0, size := 0, entry := 0 }
          let w := recPlace s l.part (getRegion s (rgnOf l)).place el
          let mist := mistOp a && bindMist (getLane s lane) q.2 && bit ent.entry 63
          let fs := requestFlits a p page ((ent.far.map Prod.snd).getD 0) w.2.1 w.2.2 mist
          let key := w.2.1 * 2 ^ 16 + w.2.2 * 2 ^ 8 + a.stream
          let now := (ent.far.map Prod.snd).getD 0
          let runs := if a.op = 0xA8 then [p.els] else farRuns (a.width / 8) page p.els
          if 1 < runs.length then
            putAccess s l n { a with pieces := modNth a.pieces k (fun p => { p with els := runs.headD [] })
                                      ++ (runs.drop 1).map fun r => { p with els := r } }
          else if (getLane s lane).waits.any fun x => x.key == key && x.epoch != now then s
          else
            let s := modLane s lane fun x => { x.post fs with waits := x.waits ++ [⟨l, a.id, k, key, now⟩] }
            putAccess s l n { a with pieces := modNth a.pieces k fun p => { p with sent := true } }

/-- An access whose first step is performed goes on to its second (R113, R195). -/
def nextStep (s : State) (l : Loc) (a : Access) : State × Access :=
  if a.op ≠ 0x0D then recStep s l a
  else if a.begun && a.held.isNone && !a.headed && a.pieces.all (·.done) then sortSide s l a 1
  else (s, a)

/-- After a begin (`first`) or a performed piece: the second step, and the cut and translation of what is new. -/
def goOn (s : State) (l : Loc) (a : Access) (first : Bool) : State × Access :=
  let x := nextStep s l a
  if x.2.begun && x.2.held.isNone && (first || x.2.headed != a.headed) then
    advanceXl x.1 l (farCut (getRegion x.1 (rgnOf l)) x.2) 0
  else x

/-- The step PORT_ACCESS_PERFORM of access n of a port, piece k (R187): a port checks, cuts and translates an access whose
turn has come, by its cached translations; then it performs one single-copy atomic piece, and sends a remote one. -/
def portPerform (s : State) (l : Loc) (n k : Nat) : State :=
  let g := getRegion s (rgnOf l)
  let e := getElem s l
  match getAccess s l n with
  | none => s
  | some a =>
    if !portRuns g then s
    else if !a.begun then
      if a.held.isNone && mayBegin g e n a then
        let x := beginAccess s l a
        let y := goOn x.1 l x.2 true
        putAccess y.1 l n y.2
      else s
    else if a.held.isNone && !a.opened && a.pieces.all (·.done) then
      let y := goOn s l a false
      putAccess y.1 l n y.2
    else match pieceOpen a k with
    | none => s
    | some p =>
      if p.rmw || !mayPerform s l n a p || !copyReady a p then s
      else
        let s := relSettle s a
        if p.remote a then sendRemote s l n k a p
        else
          let x := if p.wr then (writePiece s l a p, a) else readPiece s l a (forwardFrom g e n a) p
          let y := goOn x.1 l (x.2.setDone k) false
          putAccess y.1 l n y.2

/-- The step PORT_ACCESS_PERFORM. -/
def execEvPortAccessPerform (l : Loc) (n k : Nat) (s : State) : Host.Outcome State Fault Refusal := .next (portPerform s l n k)

/-- The step PAGE_WALK (R385): the walk of the first page that an access still needs ends with a leaf, which the port
caches, or holds the access with TRANSLATION or PERMISSION. -/
def execEvPageWalk (l : Loc) (n : Nat) (s : State) : Host.Outcome State Fault Refusal :=
  match getAccess s l n with
  | none => .next s
  | some a =>
    if portRuns (getRegion s (rgnOf l)) && a.begun && a.held.isNone && a.xl < a.pieces.length then
      let x := advanceXl s l a 1
      let s := putAccess x.1 l n x.2
      .next (match x.2.pieces[x.2.xl]? with
        | some p => if x.2.held.isNone then askFar s l x.2 p else s
        | none => s)
    else .next s

/-- A float update (R197, R199): the exact result rounded once, RNE, with the record's FTZ. -/
def fpUpdate (f : Fmt) (ftz : Bool) (xs : List FVal) (x : FVal × Flags) : Nat × Flags :=
  let r := roundFp f.lay .rne false ftz 0 x.1
  (r.1, r.2 ||| x.2 ||| sigFlags xs)

/-- old op b for `add` (0), `max` (1) and `min` (2) (R199, Table 8.5). Where both are NaN the old value in memory gives the sign:
R35 orders the operands a, b and c and speaks of no memory value (the model's choice, log entry 57). -/
def combine (f : Fmt) (ftz : Bool) (k old b : Nat) : Nat × Flags :=
  if f.isFloat then
    let x := decodeF f.lay ftz old
    let y := decodeF f.lay ftz b
    fpUpdate f ftz [x, y] (if k = 0 then sumF .rne [x, y] else (extremeF (k == 1) false x y, fNone))
  else if k = 0 then ((old + b) % 2 ^ f.width, fNone)
  else
    let x := intVal f old
    let y := intVal f b
    (uval f.width (if k = 1 then max x y else min x y), fNone)

/-- An atomic's new value, flags and STAT (Table 8.5); `none` where nothing is written. -/
def atomicNew (a : Access) (f : Fmt) (old : Nat) : Option Nat × Flags × Nat :=
  let b := (a.b.getD {}).payload % 2 ^ f.width
  let c := (a.c.getD {}).payload % 2 ^ f.width
  let some' (r : Nat × Flags) : Option Nat × Flags × Nat := (some r.1, r.2, 0)
  match a.op with
  | 0xB0 => some' (combine f a.ftz 0 old b)
  | 0xB1 => some' (combine f a.ftz 2 old b)
  | 0xB2 => some' (combine f a.ftz 1 old b)
  | 0xB3 => (some (Nat.land old b), fNone, 0)
  | 0xB4 => (some (Nat.lor old b), fNone, 0)
  | 0xB5 => (some (Nat.xor old b), fNone, 0)
  | 0xB6 => (some b, fNone, 0)
  | 0xB7 => if old = b then (some c, fNone, 0) else (none, fNone, 4)
  | _ => if intVal f old < intVal f b then (some ((old + 1) % 2 ^ f.width), fNone, 0) else (none, fNone, 1)

/-- The lowest element whose result is non-finite. -/
def lowerOf (x : Option Nat) (k : Nat) : Option Nat := match x with | some y => some (min k y) | none => some k

/-- A result of an update judged for R36. -/
def judgeUpdate (a : Access) (f : Fmt) (k c : Nat) : Access :=
  if badCode f c then { a with nonfinAt := lowerOf a.nonfinAt k } else a

/-- One element update of an atomic or of `red` (R197 to R199, R405): an uncorrectable line is not written. -/
def updateElem (s : State) (l : Loc) (a : Access) (p : Piece) (e : Nat × Nat) : State × Access :=
  let f := (Fmt.ofCode a.fmt).getD .fp32
  let es := a.width / 8
  let pa := a.phys e.2
  let q := touchLines s l a p
  let old := elemRead q.1 pa es
  let bad := lineBad q.1 pa
  if a.op = 0xA7 then
    if bad then q
    else
      let r := combine f a.ftz a.mod old (lane a.width a.buf e.1)
      (writeEls q.1 l a [(e.2, r.1)] es, judgeUpdate { q.2 with flags := q.2.flags ||| r.2 } f e.1 r.1)
  else
    let b := { q.2 with buf := old }
    if bad || a.poison then (q.1, b)
    else
      let r := atomicNew a f old
      let b := { b with flags := b.flags ||| r.2.1, stat := r.2.2 }
      match r.1 with
      | some v => (writeEls q.1 l a [(e.2, v)] es, if a.op ≤ 0xB2 then judgeUpdate b f 0 v else b)
      | none => (q.1, b)

/-- A sum cell of `red.m` finalisation (R200): s, s × TOT / v or s / v rounded once. -/
def redMeanCell (a : Access) (v c : Nat) : Nat × Flags :=
  let x := decodeF layFp32 a.ftz c
  let y : FVal := match x with
    | .fin n p q => (match a.mod with | 2 => .fin n (p * mdTot a.desc) (q * v) | 3 => .fin n p (q * v) | _ => .fin n p q)
    | z => z
  fpUpdate .fp32 a.ftz [x] (y, fNone)

/-- One block of `red.m` (R200): sum cells and count in one step. -/
def updateBlock (s : State) (l : Loc) (a : Access) (p : Piece) : State × Access :=
  let q := touchLines s l a p
  let s := q.1
  let bad := p.els.any fun e => lineBad s (a.phys e.2)
  let rd (e : Nat × Nat) : Nat := elemRead s (a.phys e.2) 4
  let cells := p.els.filter fun e => e.1 < 1024
  let cnts := p.els.filter fun e => 1024 ≤ e.1
  if a.mod = 0 then
    if bad then q
    else
      let rs := cells.map fun e => (e, combine .fp32 a.ftz 0 (rd e) (lane 32 a.buf e.1))
      let ws := rs.map (fun r => (r.1.2, r.2.1)) ++ cnts.map fun e => (e.2, (rd e + 1) % 2 ^ 32)
      let b := rs.foldl (fun b r => judgeUpdate { b with flags := b.flags ||| r.2.2 } .fp32 r.1.1 r.2.1) q.2
      (writeEls s l a ws 4, b)
  else
    let buf := p.els.foldl (fun b e => setByteRange b (4 * e.1) 4 (rd e)) q.2.buf
    let b := { q.2 with buf := buf }
    if bad || a.poison then (s, b) else (writeEls s l a (p.els.map fun e => (e.2, 0)) 4, b)

/-- An update of host memory is performed at its target, behind the writes of its path (R198, R281). -/
def settlePiece (s : State) (a : Access) (p : Piece) : State :=
  match p.els with | [] => s | e :: _ => readSettle s (a.phys e.2)

/-- The step OWNER_RMW (R197 to R200): the update k of access n runs whole at the owning port of its line; in host memory
it is a PCIe AtomicOp, behind the writes of its path. -/
def ownerRmw (s : State) (l : Loc) (n k : Nat) : State :=
  let g := getRegion s (rgnOf l)
  match getAccess s l n with
  | none => s
  | some a =>
    if !portRuns g then s
    else match pieceOpen a k with
    | none => s
    | some p =>
      if !p.rmw || !mayPerform s l n a p then s
      else
        let s := relSettle s a
        if p.remote a then sendRemote s l n k a p else
        let s := settlePiece s a p
        let x := match p.els with
          | [] => (s, a)
          | e :: _ => if a.op = 0xA8 then updateBlock s l a p else updateElem s l a p e
        putAccess (settlePiece x.1 a p) l n (x.2.setDone k)

/-- The step OWNER_RMW. -/
def execEvOwnerRmw (l : Loc) (n k : Nat) (s : State) : Host.Outcome State Fault Refusal := .next (ownerRmw s l n k)

/-- A gauge steps (R204): while TARGET > 0 and COUNT ≥ TARGET. -/
def Gauge.step (g : Gauge) : Gauge :=
  if g.target = 0 then g
  else { g with gen := (g.gen + g.count / g.target) % 2 ^ 32, count := g.count % g.target }

/-- A change of a gauge (R204, R205). COUNT wraps modulo 2^48. -/
def Gauge.apply (g : Gauge) (op : GaugeOp) : Gauge :=
  match op with
  | .set _ v => { g with target := v % 2 ^ 48 }.step
  | .clr _ v => { g with target := v % 2 ^ 48, count := 0 }
  | .add _ v => { g with count := (g.count + v) % 2 ^ 48 }.step

/-- The gauge that a change names. -/
def GaugeOp.index : GaugeOp → Nat
  | .set g _ => g
  | .clr g _ => g
  | .add g _ => g

/-- Changes made to an element's gauges, in order. -/
def applyGauges (ops : List GaugeOp) (gs : List Gauge) : List Gauge :=
  ops.foldl (fun gs op => modNth gs op.index fun x => x.apply op) gs

/-- The element's own gauge firing (R205): behind the additions that arrive in its clk (R204). -/
def Elem.ownGauge (clk : Nat) (ops : List GaugeOp) (e : Elem) : Elem :=
  if ops = [] then e
  else
    let q := match e.gaugeOwn with | some q => if q.1 = clk then q.2 else (e.gauges, []) | none => (e.gauges, [])
    { e with gaugeOwn := some (clk, q.1, q.2 ++ ops), gauges := applyGauges (q.2 ++ ops) q.1 }

/-- An addition that arrives (R201, R286): before the element's own gauge firings of its clk (R204). -/
def Elem.addGauge (clk k n : Nat) (e : Elem) : Elem :=
  match e.gaugeOwn with
  | some q =>
    if q.1 = clk then
      let b := applyGauges [.add k n] q.2.1
      { e with gaugeOwn := some (clk, b, q.2.2), gauges := applyGauges q.2.2 b }
    else { e with gauges := applyGauges [.add k n] e.gauges }
  | none => { e with gauges := applyGauges [.add k n] e.gauges }

/-- Gauge number GID of the image in file order, 1 up (Table 8.2): credited with bytes; ports' `copy` and ingress alike. -/
def creditGauge (s : State) (r : Rgn) (gid n : Nat) : State :=
  match (if gid = 0 then none else (getRegion s r).img.gauges[gid - 1]?) with
  | none => s
  | some q =>
    let clk := s.clk
    busy (modRegion s r fun g => { g with elems := g.elems.map fun (e : Elem) =>
      if e.x = q.1 && e.y = q.2.1 && e.kind = q.2.2.1 then e.addGauge clk q.2.2.2.1 n else e }) r

/-- The write pieces of a `copy` in one destination piece: an aligned block of 256 bytes (R201). -/
def copyBlock (a : Access) (b : Nat) : List Piece :=
  a.pieces.filter fun p => p.wr && p.els.any fun e => e.2 / 256 == b

/-- The step COPY_PIECE_PERFORMED (R201, R286): the destination piece b is performed at the firing's scope and its byte
count reaches gauge GID, once. -/
def copyPiece (s : State) (l : Loc) (n b : Nat) : State :=
  match getAccess s l n with
  | none => s
  | some a =>
    let ps := copyBlock a b
    if a.op = 0xA6 && a.begun && ps != [] && ps.all (·.done) && !a.credited.contains b && mdGid a.desc ≠ 0 then
      let s := if a.scope = 2 then drainHost (drainHost s 0) 1 else s
      let bytes := (ps.map fun p => (p.els.filter fun e => e.2 / 256 == b).length).sum * (a.width / 8)
      putAccess (creditGauge s (rgnOf l) (mdGid a.desc) bytes) l n { a with credited := b :: a.credited }
    else s

/-- The step COPY_PIECE_PERFORMED. -/
def execEvCopyPiecePerformed (l : Loc) (n b : Nat) (s : State) : Host.Outcome State Fault Refusal := .next (copyPiece s l n b)

/-- Every gauge addition of a `copy` has been applied (R201). -/
def creditsDone (a : Access) : Bool :=
  a.op != 0xA6 || mdGid a.desc == 0 || (a.pieces.filter (·.wr)).all fun p => p.els.all fun e => a.credited.contains (e.2 / 256)

/-- The payload and VMASK of a `red.m` finalisation (R200): block k from its sums and its count. -/
def redMResult (a : Access) : Nat × Nat × Flags :=
  (List.range 16).foldl (fun (acc : Nat × Nat × Flags) k =>
    let v := byteRange a.buf (4096 + 4 * k) 4
    if v = 0 then acc
    else
      let rs := (List.range 64).map fun j => redMeanCell a v (lane 32 a.buf (64 * k + j))
      (setByteRange acc.1 (256 * k) 256 (packLanes 32 (rs.map Prod.fst)), acc.2.1 + 2 ^ k,
        acc.2.2 ||| orFlags (rs.map Prod.snd))) (0, 0, fNone)

/-- The first non-finite valid cell of what an update combines into memory, or of its results; of a `red.m` finalisation, of
the tile that it emits (R36, R327). The old values in memory are not judged (log entry 24). -/
def updateBad (a : Access) : Option (List Int) :=
  let f := (Fmt.ofCode a.fmt).getD .fp32
  let b := a.b.getD {}
  if !f.isFloat then none
  else if a.op = 0xA8 && a.mod ≠ 0 then
    let r := redMResult a
    ((List.range 1024).find? fun k => bit r.2.1 (k / 64) && badCode .fp32 (lane 32 r.1 k)).map fun k =>
      [Int.ofNat (k % 32), Int.ofNat (k / 32), 3]
  else if a.op = 0xB0 || a.op = 0xB1 || a.op = 0xB2 then
    if badCode f (b.payload % 2 ^ f.width) then some [0, 0, 1]
    else a.nonfinAt.map fun _ => [0, 0, 3]
  else if a.op = 0xA7 || (a.op = 0xA8 && a.mod = 0) then
    let cols := if b.hdr.pkind = 3 then b.hdr.tcols else vecLanes f.width
    let place (k p : Nat) : List Int := [Int.ofNat (k % cols), Int.ofNat (k / cols), Int.ofNat p]
    let ks := if b.hdr.pkind = 3 then
        ((cellsOf b.hdr.trows b.hdr.tcols).filter fun p => p.1 < b.hdr.vrows && p.2 < b.hdr.vcols).map fun p => p.1 * cols + p.2
      else List.range cols
    match ks.find? fun k => badCode f (lane f.width b.payload k) with
    | some k => some (place k 1)
    | none => a.nonfinAt.map fun k => place k 3
  else none

/-- The header and payload that an access completes with, and its flags (R190, R192 to R202). -/
def completion (a : Access) : Hdr × Nat × Flags :=
  if a.eos then ({ tag := a.outTag, kind := 1 }, 0, a.flags)
  else if a.op = 0xC5 || a.op = 0xC6 then (a.hdr, a.buf, a.flags)
  else if a.isRec then
    let t := tokenOfBeats a.buf
    ({ t.hdr with tag := a.outTag, chan := 0, stat := 0 }, t.payload, a.flags)
  else if a.op = 0xA8 && a.mod ≠ 0 then
    let r := redMResult a
    ({ a.hdr with vmask := r.2.1, stat := a.stat }, r.1, a.flags ||| r.2.2)
  else if a.isLoad && a.op ≠ 0xA6 then ({ a.hdr with stat := a.stat }, if a.stat = 2 then 0 else a.buf, a.flags)
  else ((ackToken a.outTag a.stat false 0).hdr, 0, a.flags)

/-- A loaded record that is poisoned passes its stored fault index on (R195). -/
def poisonOf (a : Access) (h : Hdr) : Bool × Nat :=
  if a.eos then (false, 0)
  else if a.poison then (true, a.fidx)
  else match a.bad with
    | some n => (true, n)
    | none => if a.isRec then (h.poison, if h.poison then h.fidx else 0) else (false, 0)

/-- The sequence fields of a completion token (R292): the access's, or those of a token that no access made. -/
def complSeq (g : Region) (a : Access) (h : Hdr) : Hdr :=
  if a.seq then { h with seq := true, seqp := a.seqp, seqo := a.seqo, seqs := a.seqs } else withSeq g h

/-- The bytes of a payload in its pool buffer, as the port writes them (R51). -/
def landPayload (e : Elem) (b : Option Nat) (h : Hdr) (v : Nat) : Elem :=
  match b with
  | some n => e.wr (poolBase n) (payloadBytes h) v
  | none => e

/-- An access may complete (R188 to R190, R201): performed, its time passed, its gauge additions applied; ORD and `sbar`
hold the completion of a sequenced access; an EOS set follows every earlier firing of its slot; a `pwait` completes by
PWAIT_FORWARD. -/
def mayComplete (s : State) (e : Elem) (n : Nat) (a : Access) : Bool :=
  (a.op != 0xC4 || a.eos) && a.performed && a.notBefore ≤ s.clk && creditsDone a
    && (!a.seq || (a.ordered && (earlier e n).all fun x => x.reached a || !followsOrd x a))
    && (!a.eos || (earlier e n).all fun x => x.slot != a.slot)

/-- The completion token of access n goes to injection on each of its channels (R190), the quota that the issue reserved
becoming theirs; its flags are raised; it is outstanding no longer. `c` is its header, payload and flags, `pz` its POISON and
FIDX. -/
def emitAccess (s : State) (l : Loc) (n : Nat) (a : Access) (c : Hdr × Nat × Flags) (pz : Bool × Nat) : State :=
  let r := rgnOf l
  let clk := s.clk
  let h := complSeq (getRegion s r) a { c.1 with poison := pz.1, fidx := if pz.1 then pz.2 else 0 }
  let toks := a.dest.map fun ch => ({ chan := ch, tok := { hdr := { h with chan := ch }, payload := c.2.1 }, slot := a.slot, buf := a.buffer, since := clk } : InjTok)
  let s := modElem s l fun e =>
    let e := landPayload e a.buffer h c.2.1
    let e := if a.dest = [] then (match a.buffer with | some b => freeLoc e (.pool b) | none => e) else e
    { e with inject := e.inject ++ toks, flags := e.flags ||| c.2.2,
             port := { e.port with accs := e.port.accs.eraseIdx n } }
  busy s r

/-- Poison of a non-finite value that originates at an access's completion (R36, R325): `cs` are the coordinates of its
record. -/
def originAt (s : State) (l : Loc) (a : Access) (cs : List Int) : State × Nat :=
  let d := drawOrigin s (rgnOf l)
  (putRec d.1 (rgnOf l) (atElem d.1 l { cause := 0x24, tag := a.tag, slot := a.slot, fidx := d.2, coords := cs }), d.2)

/-- The step COMPLETION_TOKEN of access n (R190). Poison of non-finite values originates here (R36); `.sys` completions
follow the far stores of the paths (R281). -/
def completeAccess (s : State) (l : Loc) (n : Nat) : State :=
  match getAccess s l n with
  | none => s
  | some a =>
    if !portRuns (getRegion s (rgnOf l)) || !mayComplete s (getElem s l) n a then s
    else
      let r := rgnOf l
      let s := if a.scope = 2 then drainHost (drainHost s 0) 1 else s
      let c := completion a
      let pz := poisonOf a c.1
      let q := match (if a.nfp && !pz.1 && a.stat ≠ 3 then updateBad a else none) with
        | some cs => let d := originAt s l a cs; (d.1, true, d.2)
        | none => (s, pz)
      let s := if a.eos then modRegion q.1 r fun g => { g with eosLeft := (l.elem, a.slot) :: g.eosLeft } else q.1
      emitAccess s l n a c q.2

/-- The step COMPLETION_TOKEN. -/
def execEvCompletionToken (l : Loc) (n : Nat) (s : State) : Host.Outcome State Fault Refusal := .next (completeAccess s l n)

end Sys2Proof.Machine
end

