-- ==== Sys2Proof/Machine/Taps.lean ====
section
/-! DEFINITION. Weathervane taps: what a tap sees of a token on its way, and the trace FIFO (spec/20: R396 to R398). -/

namespace Sys2Proof.Machine

/-- The die of a channel's end. -/
def endDie (s : State) (r : Rgn) (g : Region) (e : ChEnd) : Nat :=
  match e with
  | .elem n => let q := nth g.elems n {}; if q.kind = 2 then (portDie q.x).1 else (recPlace s r.part g.place q).1
  | .link l => (portDie (l / 4)).1
  | _ => 0

/-- The die of the router at which a token stands after k hops of its route. -/
def hopDie (s : State) (r : Rgn) (g : Region) (c : Chan) (k : Nat) : Nat :=
  match c.hops[k]? with
  | some h => (physElem g.place h.x h.y).1
  | none => endDie s r g c.dst

/-- Router k of a route is the first receiving router on its die (R397). -/
def firstOnDie (s : State) (r : Rgn) (g : Region) (c : Chan) (k : Nat) : Bool :=
  (List.range k).all fun j => j == 0 || hopDie s r g c j != hopDie s r g c k

/-- A tap of a die's block is the partition's (Table 20.4). -/
def ownsTap (s : State) (p d t : Nat) : Bool :=
  bit (partDies s p) d && (match (pmapOf s p).half with | 0 => t < 16 | 1 => t < 8 | 2 => 8 ≤ t && t < 16 | _ => false)

/-- A trace record and its bytes (Table 20.6). -/
def traceRec (clk d t tap handle ch : Nat) (tok : Token) : Nat × Nat :=
  let nb := beatsOf tok.hdr - 1
  let pay := bit tap 62
  let head := clk % 2 ^ 48 + nb % 256 * 2 ^ 48 + b2n pay * 2 ^ 56 + d % 8 * 2 ^ 57 + t % 16 * 2 ^ 60
  let v := head + ch % 2 ^ 16 * 2 ^ 64 + handle % 256 * 2 ^ 80 + 2 ^ 128 * hdrBits tok.hdr ch
  if pay then (v + 2 ^ 512 * (tok.payload % 2 ^ (1024 * nb)), 64 + 128 * nb) else (v, 64)

/-- A record enters a die's trace FIFO of 64 KiB, or is dropped (R398). -/
def WVane.take (w : WVane) (x : Nat × Nat) : WVane :=
  if 65536 < (w.fifo.map Prod.snd).sum + x.2 then { w with drops := (w.drops + 1) % 2 ^ 64 } else { w with fifo := w.fifo ++ [x] }

/-- The header beat of a token reaches router k of its route: every tap on that die that watches the channel copies it, while
its region runs (R396, R397). -/
def tapSee (s : State) (r : Rgn) (ch k : Nat) (tok : Token) : State :=
  let g := getRegion s r
  if (getPart s r.part).wvane == [] || !(g.st == 2 || g.st == 3) then s
  else match g.chans.find? fun (c : Chan) => c.num == ch with
    | none => s
    | some c =>
      let d := hopDie s r g c k
      let clk := dieClk s d
      let see (q : Nat × WVane) : Nat × WVane :=
        if q.1 = d && q.2.cen && firstOnDie s r g c k then
          (q.1, ((List.range 16).filter fun t => ownsTap s r.part d t && bit (nth q.2.taps t 0) 63
              && bits (nth q.2.taps t 0) 53 48 == r.handle && bits (nth q.2.taps t 0) 10 0 == regChan g ch).foldl
            (fun w t => w.take (traceRec clk d t (nth q.2.taps t 0) r.handle (regChan g ch) tok)) q.2)
        else q
      modPart s r.part fun p => { p with wvane := p.wvane.map see }

/-- A token enters a channel: one without a route stands at its receiver. -/
def tapEnter (s : State) (r : Rgn) (ch : Nat) (tok : Token) : State :=
  match (getRegion s r).chans.find? fun (c : Chan) => c.num == ch with
  | some c => if c.hops = [] then tapSee s r ch 0 tok else s
  | none => s

end Sys2Proof.Machine
end

