-- ==== Sys2Proof/Machine/TileOps.lean ====
section
/-! DEFINITION. Matrix multiply-accumulate, accumulator nodes and the elementwise tile forms (spec/06: R147 to R163). -/

namespace Sys2Proof.Machine

/-- The bank that a firing writes (R68). -/
def FireIn.bankNo (i : FireIn) : Nat := i.w.imm12 / 1024 % 4

/-- That bank, cleared first where c is zero (R151). -/
def FireIn.bankIn (i : FireIn) : Bank := if i.w.src 2 = 9 then {} else nth i.e.banks i.bankNo {}

/-- Cell (r, j) of a bank (R147). -/
def Bank.cell (b : Bank) (r j : Nat) : Nat := lane 32 b.cells (32 * r + j)

/-- K of a matrix form (Table 6.3). -/
def matrixK (f : Fmt) : Nat := if f == .mxfp4 then 128 else if f.width = 8 then 64 else 32

/-- The stored shapes of a matrix form (Table 6.3). -/
def matrixShapes (opc : Nat) (f : Fmt) : (Nat × Nat) × (Nat × Nat) :=
  ((32, matrixK f), if opc = 0x60 then (32, 32) else (32, matrixK f))

/-- A list cut into groups of g. -/
def chunks {α : Type} (g : Nat) : Nat → List α → List (List α)
  | 0, _ => []
  | n + 1, l => if l.isEmpty then [] else l.take g :: chunks g n (l.drop g)

/-- A row of operand codes with +0 from Kv up to Kg (R151). -/
def padRow (kv kg : Nat) (l : List Nat) : List Nat := l.take kv ++ List.replicate (kg - kv) 0

/-- One cell of a matrix firing (R38, R151): groups of A's row and B's column, with their scales. -/
def matrixCell (f : Fmt) (ftz : Bool) (acc : Nat) (arow bcol : List Nat) (sa sb : List Nat) : Nat × Flags :=
  let g := groupSize f
  if f.isFloat || f.isMx then
    let ps := (arow.zip bcol).map fun p => (decodeF f.lay ftz p.1, decodeF f.lay ftz p.2)
    let gs := chunks g ps.length ps
    groupSum ftz acc (gs.zipIdx.map fun q =>
      (q.1, if f.isMx then some (nth sa q.2 0, nth sb q.2 0) else none))
  else
    groupSumInt acc (chunks g arow.length ((arow.zip bcol).map fun p => (intVal f p.1, intVal f p.2)))

/-- mma_mask (R152): the bits of bank MASK that cleared blocks of A and B leave set. -/
def mmaMask (bytes am bm : Nat) : Nat :=
  let n := cdiv bytes 256
  let cover := 2 ^ n - 1
  if bm &&& cover ≠ cover then 0
  else if 8 < n && !bit am 8 then 0
  else ((List.range 8).filter fun k => bit am k).foldl (fun m k => m ||| (3 <<< (2 * k))) 0

/-- The bank after a contribution (R151, R156, R159): shape, mask, poison and sequence context. -/
def FireIn.contribute (i : FireIn) (b : Bank) (cells vr vc mask : Nat) : Bank :=
  let pz := i.poison
  { cells := cells, vr := max b.vr vr, vc := max b.vc vc, mask := b.mask &&& mask,
    poison := b.poison || pz, fidx := if b.poison then b.fidx else if pz then i.fidx else 0,
    sctx := if b.sctx = 0 && (polSeq i.g || i.e.kind == 2) then 2 ^ 16 + tagCtx i.tag else b.sctx }

/-- The done token of a contribution (R151). -/
def FireIn.doneTok (i : FireIn) : Nat × Token := i.emit i.dest (scalarHdr .int32 (outTag i.w i.tag)) 1 i.poison

/-- The first non-finite cell of a bank among the first m rows and n columns, as operand c (2) or as the result (3) (R327). -/
def Bank.bad (b : Bank) (pos m n : Nat) : Option (List Int) :=
  ((cellsOf m n).find? fun p => badCode .fp32 (b.cell p.1 p.2)).map fun p => [Int.ofNat p.2, Int.ofNat p.1, Int.ofNat pos]

/-- A matrix firing (R151). Table 6.5 frees the A and B buffers of `mma` 30 clk before its commit; the model takes the same for
every matrix form (log entry 20, DESIGN CHOICE: the spec shows `mma` alone). Of an A or B that a link delivers in another format
than the record's, R150 names no outcome: its codes are read in the record's format (the model's choice, log entry 68). -/
def matrixFire (i : FireIn) : FireRes :=
  let f := i.fmt
  let sh := matrixShapes i.opc f
  let a := i.tile i.a sh.1.1 sh.1.2
  let b := i.tile i.b sh.2.1 sh.2.2
  if (a.rows, a.cols) ≠ sh.1 || (b.rows, b.cols) ≠ sh.2 then formatEdge
  else
    let plain := i.opc == 0x60
    let m := a.vr
    let n := if plain then b.vc else b.vr
    let kv := min a.vc (if plain then b.vr else b.vc)
    let kg := roundUp kv (groupSize f)
    let bank := i.bankIn
    let arows := (List.range m).map fun r => padRow kv kg ((List.range kv).map fun k => a.cell r k)
    let bcols := (List.range n).map fun j =>
      padRow kv kg ((List.range kv).map fun k => if plain then b.cell k j else b.cell j k)
    let sa (r : Nat) := if f.isMx then (List.range 4).map (a.scale r) else []
    let sb (j : Nat) := if f.isMx then (List.range 4).map (b.scale j) else []
    let res := (cellsOf 32 32).map fun p =>
      if p.1 < m && p.2 < n && kv ≠ 0 then
        matrixCell f i.ftz (bank.cell p.1 p.2) (nth arows p.1 []) (nth bcols p.2 []) (sa p.1) (sb p.2)
      else (bank.cell p.1 p.2, fNone)
    let nb := i.contribute bank (packLanes 32 (res.map Prod.fst)) m n (mmaMask (tileBytes f.code a.rows a.cols) a.mask b.mask)
    let ra := { a with vc := kv }
    let rb := if plain then { b with vr := kv } else { b with vc := kv }
    let ok := m ≠ 0 && n ≠ 0 && kv ≠ 0
    .go { outs := [i.doneTok], banks := [(i.bankNo, nb)], flags := orFlags (res.map Prod.snd),
          nonfin := if !ok || f == .int8 then none else ra.bad 0 <|> rb.bad 1 <|> bank.bad 2 m n <|> nb.bad 3 m n,
          lat := if f.isMx then 97 else 95, occ := 32, hold := if f.isMx then 67 else 65 }

/-- `mma` (R150, R151). -/
def execOpMma (w : OpWord) (s : State) : Host.Outcome State Fault Refusal := .next (fire s w 0x60 fun i => matrixFire i)

/-- `mma.mx` (R150, R151). -/
def execOpMmaMx (w : OpWord) (s : State) : Host.Outcome State Fault Refusal := .next (fire s w 0x61 fun i => matrixFire i)

/-- `mma.tb` (R150, R151). -/
def execOpMmaTb (w : OpWord) (s : State) : Host.Outcome State Fault Refusal := .next (fire s w 0x62 fun i => matrixFire i)

/-- `accz` (R155): clears the bank; the trigger's poison goes only to the done token. -/
def execOpAccz (w : OpWord) (s : State) : Host.Outcome State Fault Refusal :=
  .next (fireGo s w 0x63 fun i => { outs := [i.doneTok], banks := [(i.bankNo, {})], lat := 2 })

/-- One cell of `accadd` (R156). -/
def accCell (f : Fmt) (ftz : Bool) (acc x : Nat) : Nat × Flags :=
  if f.isFloat then
    let a := decodeF layFp32 ftz acc
    let b := decodeF layFp32 ftz x
    let t := sumF .rne [b, a]
    let r := roundFp layFp32 .rne false ftz 0 t.1
    (r.1, r.2 ||| t.2 ||| sigFlags [a, b])
  else intResult .int32 true (intVal .int32 acc + intVal .int32 x)

/-- `accadd` (R156). -/
def execOpAccadd (w : OpWord) (s : State) : Host.Outcome State Fault Refusal :=
  .next (fire s w 0x64 fun i =>
    let a := i.tile i.a 32 32
    if a.rows ≠ 32 || a.cols ≠ 32 || a.fmt ≠ i.fmt then formatEdge
    else
      let bank := i.bankIn
      let res := (cellsOf 32 32).map fun p =>
        if a.valid p.1 p.2 then accCell i.fmt i.ftz (bank.cell p.1 p.2) (a.cell p.1 p.2)
        else (bank.cell p.1 p.2, fNone)
      let nb := i.contribute bank (packLanes 32 (res.map Prod.fst)) a.vr a.vc a.mask
      .go { outs := [i.doneTok], banks := [(i.bankNo, nb)], flags := orFlags (res.map Prod.snd),
            nonfin := if i.fmt.isFloat then a.bad 0 <|> bank.bad 2 a.vr a.vc <|> nb.bad 3 a.vr a.vc else none, lat := 36, occ := 32 })

/-- The cells of a bank as a released tile: +0 outside its valid shape (R157). -/
def releaseCells (b : Bank) : Nat :=
  packLanes 32 ((cellsOf 32 32).map fun p => if p.1 < b.vr && p.2 < b.vc then b.cell p.1 p.2 else 0)

/-- The token of a release (R157). -/
def releaseTok (i : FireIn) (entry tag : Nat) (b : Bank) (pz : Bool) (fx : Nat) : Nat × Token :=
  let h := tileHdr i.fmt tag 32 32 b.vr b.vc b.mask
  let poisoned := pz || b.poison
  let t := i.emit entry h (releaseCells b) poisoned
  (t.1, { t.2 with hdr := { t.2.hdr with fidx := if b.poison then b.fidx else if pz then fx else 0 } })

/-- `accrel` (R157): counts; at N it releases the bank as a tile and clears it. -/
def execOpAccrel (w : OpWord) (s : State) : Host.Outcome State Fault Refusal :=
  .next (fireGo s w 0x65 fun i =>
    let n := (i.st % 2 ^ 32 + 1) % 2 ^ 32
    let was := bit i.st 63
    let pz := was || i.poison
    let fx := if was then bits i.st 47 32 else i.fidx
    if releasesNow i then
      let b := nth i.e.banks i.bankNo {}
      { outs := [releaseTok i i.dest (outTag i.w i.tag) b pz fx], banks := [(i.bankNo, {})], st := some 0,
        lat := 34, occ := 32 }
    else { st := some (b2n pz * 2 ^ 63 + (if pz then fx % 2 ^ 16 else 0) * 2 ^ 32 + n) })

/-- The stored shape that an elementwise tile firing takes: a's, or b's where PAD stands for a (R160). -/
def FireIn.tileShape (i : FireIn) : Nat × Nat :=
  match i.a.tok, i.b.tok with
  | some t, _ => (t.hdr.trows, t.hdr.tcols)
  | none, some t => (t.hdr.trows, t.hdr.tcols)
  | none, none => (32, 32)

/-- An elementwise tile firing (R160): `op` gives the code and flags of a cell from its SR key and its two codes. -/
def tileFire (i : FireIn) (op : Nat → Nat → Nat → Nat × Flags) : FireRes :=
  let f := i.fmt
  let sh := i.tileShape
  let a := i.tile i.a sh.1 sh.2
  let b := i.tile i.b sh.1 sh.2
  if b.rows ≠ a.rows || b.cols ≠ a.cols then formatEdge
  else
    let vr := min a.vr b.vr
    let vc := min a.vc b.vc
    let res := (cellsOf a.rows a.cols).map fun p =>
      if p.1 < vr && p.2 < vc then op (p.1 * a.cols + p.2) (a.cell p.1 p.2) (b.cell p.1 p.2) else (0, fNone)
    let out : Tile := { fmt := f, rows := a.rows, cols := a.cols, vr := vr, vc := vc, mask := a.mask &&& b.mask,
                        payload := packLanes f.width (res.map Prod.fst) }
    let h := tileHdr f (outTag i.w i.tag) a.rows a.cols vr vc out.mask
    let va := { a with vr := vr, vc := vc }
    let vb := { b with vr := vr, vc := vc }
    .go { outs := [i.emit i.dest h out.payload i.poison], flags := orFlags (res.map Prod.snd),
          nonfin := va.bad 0 <|> vb.bad 1 <|> out.bad 3, fwd := [if i.a.tok.isSome then 0 else 1], lat := 36,
          occ := 32 }

/-- `tadd` (R160). -/
def execOpTadd (w : OpWord) (s : State) : Host.Outcome State Fault Refusal :=
  .next (fire s w 0x66 fun i => tileFire i fun k a b =>
    if i.fmt.isFloat then
      let x := i.val i.fmt a
      let y := i.val i.fmt b
      i.roundLane i.fmt k [x, y] (sumF i.mode [x, y])
    else intResult i.fmt i.sat (intVal i.fmt a + intVal i.fmt b))

/-- `tsub` (R160). -/
def execOpTsub (w : OpWord) (s : State) : Host.Outcome State Fault Refusal :=
  .next (fire s w 0x67 fun i => tileFire i fun k a b =>
    if i.fmt.isFloat then
      let x := i.val i.fmt a
      let y := i.val i.fmt b
      i.roundLane i.fmt k [x, y] (sumF i.mode [x, negF y])
    else intResult i.fmt i.sat (intVal i.fmt a - intVal i.fmt b))

/-- `tmul` (R160). -/
def execOpTmul (w : OpWord) (s : State) : Host.Outcome State Fault Refusal :=
  .next (fire s w 0x68 fun i => tileFire i fun k a b =>
    if i.fmt.isFloat then
      let x := i.val i.fmt a
      let y := i.val i.fmt b
      i.roundLane i.fmt k [x, y] (mulF x y)
    else intResult i.fmt i.sat (intVal i.fmt a * intVal i.fmt b))

/-- `tmax` (R160). -/
def execOpTmax (w : OpWord) (s : State) : Host.Outcome State Fault Refusal :=
  .next (fire s w 0x69 fun i => tileFire i fun _ a b => i.extreme i.fmt true (i.w.mod == 1) a b)

/-- `tmin` (R160). -/
def execOpTmin (w : OpWord) (s : State) : Host.Outcome State Fault Refusal :=
  .next (fire s w 0x6A fun i => tileFire i fun _ a b => i.extreme i.fmt false (i.w.mod == 1) a b)

/-- `ttr` (R161): out[j][i] := a[i][j]. -/
def execOpTtr (w : OpWord) (s : State) : Host.Outcome State Fault Refusal :=
  .next (fire s w 0x6B fun i =>
    let a := i.tile i.a 32 32
    let wd := a.fmt.width
    if 32 < a.cols then formatEdge
    else
      let cs := (cellsOf a.cols a.rows).map fun p => a.cell p.2 p.1
      let moves := (cellsOf a.cols a.rows).map fun p =>
        ((p.1 * a.rows + p.2) * wd / 8, (p.2 * a.cols + p.1) * wd / 8)
      let h := tileHdr a.fmt (outTag i.w i.tag) a.cols a.rows a.vc a.vr (moveMask a.mask moves)
      .go { outs := [i.emit i.dest h (packLanes wd cs) i.poison], lat := 35, occ := 32 })

/-- The exact value of a valid cell of a `tcvt` source: an MX cell under its block's scale (R21, R162). DESIGN CHOICE (log
entry 17): an integer converts to MX, and an MX cell to an integer, from this exact value by R37 and R33; Table 1.6 has no row
for either. -/
def Tile.value (t : Tile) (ftz : Bool) (r j : Nat) : FVal :=
  if t.fmt.isMx then mxValue t.fmt ftz (t.scale r (j / 32)) (t.cell r j)
  else if t.fmt.isFloat then decodeF t.fmt.lay ftz (t.cell r j)
  else intToF (intVal t.fmt (t.cell r j))

/-- One cell of `tcvt` to a target that is not MX (R162, R32 to R34). -/
def tcvtCell (i : FireIn) (a : Tile) (r j : Nat) : Nat × Flags :=
  let k := i.sr (r * a.cols + j)
  if a.fmt.isMx then
    let x := a.value i.ftz r j
    if i.fmt.isFloat then roundFp i.fmt.lay i.mode i.sat i.ftz k x else floatToInt i.fmt i.mode k x
  else convert a.fmt i.fmt i.mode i.sat i.ftz k (a.cell r j)

/-- The bytes of the input that a cell is read from: its own, and its scale's (R161, R162). -/
def Tile.readBytes (t : Tile) (r j : Nat) : List Nat :=
  (r * t.cols + j) * t.fmt.width / 8 ::
    (if t.fmt.isMx then [t.plane + r * (t.cols / 32) + j / 32] else [])

/-- `tcvt` to a target that is not MX (R162). -/
def tcvtPlain (i : FireIn) (a : Tile) : FireOut :=
  let f := i.fmt
  let res := (cellsOf a.rows a.cols).map fun p => if a.valid p.1 p.2 then tcvtCell i a p.1 p.2 else (0, fNone)
  let out := { a with fmt := f, payload := packLanes f.width (res.map Prod.fst) }
  let moves := ((cellsOf a.rows a.cols).filter fun p => a.valid p.1 p.2).flatMap fun p =>
    (a.readBytes p.1 p.2).map fun b => ((p.1 * a.cols + p.2) * f.width / 8, b)
  let h := tileHdr f (outTag i.w i.tag) a.rows a.cols a.vr a.vc (moveMask a.mask moves)
  { outs := [i.emit i.dest h out.payload i.poison], flags := orFlags (res.map Prod.snd), nonfin := a.bad 0 <|> out.bad 3,
    lat := 37, occ := 32 }

/-- One 32-cell row segment into an MX block (R37, R162): invalid cells count for nothing and become code 0. -/
def mxSegment (i : FireIn) (a : Tile) (r q : Nat) : Nat × List Nat × Flags :=
  let js := (List.range 32).map fun n => 32 * q + n
  let vs := (js.filter (a.valid r)).map fun j => a.value i.ftz r j
  let e := mxEncode i.fmt i.mode i.ftz (fun n => i.sr (r * a.cols + 32 * q + n)) vs
  -- the valid cells of a segment come first in it
  (e.1, e.2.1 ++ List.replicate (32 - vs.length) 0, e.2.2)

/-- `tcvt` into MX blocks (R162, R37). -/
def tcvtMx (i : FireIn) (a : Tile) : FireOut :=
  let f := i.fmt
  let segs := (List.range a.rows).flatMap fun r => (List.range (a.cols / 32)).map fun q => mxSegment i a r q
  let eb := planeOff f.code a.rows a.cols
  let payload := packLanes f.width (segs.flatMap fun e => e.2.1) + 2 ^ (8 * eb) * packLanes 8 (segs.map Prod.fst)
  let moves := ((cellsOf a.rows a.cols).filter fun p => a.valid p.1 p.2).flatMap fun p =>
    (a.readBytes p.1 p.2).flatMap fun b =>
      [((p.1 * a.cols + p.2) * f.width / 8, b), (eb + p.1 * (a.cols / 32) + p.2 / 32, b)]
  let h := tileHdr f (outTag i.w i.tag) a.rows a.cols a.vr a.vc (moveMask a.mask moves)
  let sig := (cellsOf a.rows a.cols).map fun p => if a.valid p.1 p.2 then sigFlags [a.value i.ftz p.1 p.2] else fNone
  { outs := [i.emit i.dest h payload i.poison], flags := orFlags (segs.map fun e => e.2.2) ||| orFlags sig,
    nonfin := a.bad 0, lat := 40, occ := 32 }

/-- `tcvt` (R162). -/
def execOpTcvt (w : OpWord) (s : State) : Host.Outcome State Fault Refusal :=
  .next (fire s w 0x6C fun i =>
    let a := i.tile i.a 32 32
    if 4096 < tileBytes i.fmt.code a.rows a.cols || (i.fmt.isMx && a.cols % 32 != 0) then formatEdge
    else .go (if i.fmt.isMx then tcvtMx i a else tcvtPlain i a))

end Sys2Proof.Machine
end

