-- ==== Sys2Proof/Machine/Commit.lean ====
section
/-! DEFINITION. Commit, EOS sets, TRUNC, injection, `pwait` and the window messages of a commit (spec/02: R44, R45, R60;
spec/04: R92 to R95, R101, R104, R108, R109; spec/06: R157; spec/08: R190, R204 to R208; spec/14: R325). -/

namespace Sys2Proof.Machine

/-- A pending fault index that has been drawn takes its place everywhere in the element (R325). -/
def patchFidx (p n : Nat) (e : Elem) : Elem :=
  let fx (x : Nat) : Nat := if x = p then n else x
  let h (t : OutTok) : OutTok := { t with tok := { t.tok with hdr := { t.tok.hdr with fidx := fx t.tok.hdr.fidx } } }
  let bk (b : Bank) : Bank := { b with fidx := fx b.fidx }
  { e with banks := e.banks.map bk,
           pending := e.pending.map fun (f : Firing) =>
             { f with banks := f.banks.map (fun q => (q.1, bk q.2)), outs := f.outs.map h, recs := f.recs.map (fun (r : FRec) => { r with fidx := fx r.fidx }),
                      access := f.access.map fun (a : Access) => { a with fidx := fx a.fidx } } }

/-- The home element of a body (R94): where its `ctxnew` slots stand, or e(0,0). -/
def homeOf (g : Region) (b : Nat) : Nat :=
  match g.elems.findIdx? fun (e : Elem) => e.cfg.slots.any fun w => opCode w == 0x04 && (opFields w).imm12 / 32 % 64 == b with
  | some n => n
  | none => (g.elems.findIdx? fun (e : Elem) => e.kind == 0 && e.x == 0 && e.y == 0).getD 0

/-- An ORPHAN record of a firing whose message the home discards (R101, R104). -/
def orphanRec (s : State) (r : Rgn) (m : MsgFlight) : State :=
  let l : Loc := ⟨r.part, r.handle, m.src⟩
  putRec s r (atElem s l { cause := 0x61, slot := m.slot, tag := m.tag })

/-- A body's state changed. -/
def modBody (s : State) (r : Rgn) (b : Nat) (f : BodySt → BodySt) : State :=
  modRegion s r fun g => { g with bodies := g.bodies.map fun (x : BodySt) => if x.desc.num = b then f x else x }

/-- Every number that iterations below j can take has been passed by the frontier (R292). -/
def passedBelow (g : Region) (j : Nat) : Bool :=
  let sumK := (g.bodies.map fun (b : BodySt) => b.desc.k).sum
  !polSeq g || (g.frontier + 2 ^ 24 - j * ((curVariant g).nr * sumK) % 2 ^ 24) % 2 ^ 24 < 2 ^ 23

/-- The oldest live iteration of an instance advances past every retired iteration (R104). `fuel` bounds W. -/
def retireInst (g : Region) (d : Body) : Nat → Inst → Inst
  | 0, i => i
  | fuel + 1, i =>
    let k := i.oldest % bodyW d
    if nth i.counts k 0 = d.c && passedBelow g i.oldest then
      retireInst g d fuel { i with oldest := (i.oldest + 1) % 2 ^ 16, counts := modNth i.counts k fun _ => 0 }
    else i

/-- The advance of an instance goes to every element (R94). -/
def sendAdvance (s : State) (r : Rgn) (b n o : Nat) : State :=
  modRegion s r fun g => { g with bcasts := g.bcasts ++ (List.range g.elems.length).map fun e =>
    { dst := e, body := b, inst := n, free := false, oldest := o } }

/-- ITERATION_RETIRE (R104): what has its C counts retires, in order. -/
def retire (s : State) (r : Rgn) (b n : Nat) : State :=
  let g := getRegion s r
  match g.bodies.find? fun (x : BodySt) => x.desc.num == b with
  | none => s
  | some x =>
    let i := nth x.insts n {}
    let j := retireInst g x.desc (bodyW x.desc) i
    if j.oldest = i.oldest then s
    else sendAdvance (modBody s r b fun y => { y with insts := modNth y.insts n fun _ => j }) r b n j.oldest

/-- The retirements that a move of the frontier lets happen (R292). -/
def retireAll (s : State) (r : Rgn) : State :=
  (getRegion s r).bodies.foldl (fun s (x : BodySt) => (List.range x.insts.length).foldl (fun s n => retire s r x.desc.num n) s) s

/-- The home applies an `itdone` count (R104). An iteration ahead of what the window holds has nowhere to be counted and is
discarded like one that holds C counts. -/
def applyDone (s : State) (r : Rgn) (m : MsgFlight) (t : Nat) : State :=
  let g := getRegion s r
  let n := tagInst t
  match g.bodies.find? fun (x : BodySt) => x.desc.num == tagBody t with
  | none => orphanRec s r m
  | some x =>
    let i := nth x.insts n {}
    let ag := (tagIter t + 2 ^ 16 - i.oldest) % 2 ^ 16
    let k := tagIter t % bodyW x.desc
    if i.st ≠ 1 || bodyW x.desc ≤ ag || nth i.counts k 0 = x.desc.c then orphanRec s r m
    else
      retire (modBody s r (tagBody t) fun y => { y with insts := modNth y.insts n fun i =>
        { i with counts := modNth i.counts k (· + 1) } }) r (tagBody t) n

/-- The home applies a free (R101, R255): the instance stays live for R100 until every element has acknowledged. -/
def applyFree (s : State) (r : Rgn) (m : MsgFlight) (b n : Nat) : State :=
  let g := getRegion s r
  match g.bodies.find? fun (x : BodySt) => x.desc.num == b with
  | none => orphanRec s r m
  | some x =>
    if !x.desc.dyn || (nth x.insts n {}).st ≠ 1 then orphanRec s r m
    else
      let s := modBody s r b fun y => { y with insts := modNth y.insts n fun _ =>
        { st := 2, counts := List.replicate (bodyW y.desc) 0 } }
      modRegion s r fun g =>
        { g with frees := g.frees ++ [((b, n), List.range g.elems.length)],
                 bcasts := g.bcasts ++ (List.range g.elems.length).map fun e => { dst := e, body := b, inst := n, free := true } }

/-- The home applies one window message (R94). -/
def applyMsg (s : State) (r : Rgn) (m : MsgFlight) : State :=
  match m.msg with
  | .done t => applyDone s r m t
  | .free b n => applyFree s r m b n

/-- A window message of a firing: applied at once where the firing runs at the home, on its way otherwise (R94). -/
def sendMsg (s : State) (l : Loc) (f : Firing) (w : WinMsg) : State :=
  let g := getRegion s (rgnOf l)
  let m : MsgFlight := { src := l.elem, slot := f.slot, tag := f.tag, msg := w }
  let b := match w with | .done t => tagBody t | .free b _ => b
  if homeOf g b = l.elem && !(g.msgs.any fun (x : MsgFlight) => x.src == l.elem) then applyMsg s (rgnOf l) m
  else modRegion s (rgnOf l) fun g => { g with msgs := g.msgs ++ [m] }

/-- The tokens that a commit hands to injection (R45, R47); a buffer with no token to carry it is freed (R261). Of two tokens
on one channel the second takes its unit of quota when it leaves. -/
def handOuts (f : Firing) (clk : Nat) (e : Elem) : Elem :=
  let its := f.outs.zipIdx.map fun (q : OutTok × Nat) =>
    ({ chan := q.1.chan, tok := q.1.tok, slot := f.slot, buf := if bigTok q.1.tok then f.bufs.head? else none, since := clk,
       owes := (f.outs.take q.2).any fun (x : OutTok) => x.chan == q.1.chan, ord := some f.ord } : InjTok)
  let e := { e with inject := e.inject ++ its }
  if its.any fun t => t.buf.isSome then e else f.bufs.foldl (fun e b => freeLoc e (.pool b)) e

/-- Two firings write one slot's state, one bank, or bytes of the scratchpad in common. -/
def Firing.meets (f g : Firing) : Bool :=
  (f.st.isSome && g.st.isSome && f.slot == g.slot) || (f.banks.any fun p => g.banks.any fun q => p.1 == q.1)
    || f.scratch.any fun p => g.scratch.any fun q => p.1 < q.1 + q.2.1 && q.1 < p.1 + p.2.1

/-- The index of the pending firing that commits next: due, and no earlier firing still to write what it writes
(R44); the earliest due, then the earliest issued (R60). -/
def commitNext (e : Elem) (clk : Nat) : Option Nat :=
  let ok (f : Firing) : Bool :=
    f.due ≤ clk && e.pending.all fun (g : Firing) => f.ord ≤ g.ord || !g.meets f
  let best := e.pending.foldl (fun (b : Option Firing) f =>
    if !ok f then b else match b with
      | none => some f
      | some x => if f.due * 2 ^ 64 + f.ord < x.due * 2 ^ 64 + x.ord then some f else b) none
  best.bind fun b => e.pending.findIdx? fun f => f.ord == b.ord

/-- The clk of a bank's last commit (R154). -/
def noteBanks (f : Firing) (clk : Nat) (e : Elem) : Elem :=
  match bankUse (slotWord e f.slot) with
  | some (b, m) => { e with bankDone := putKey e.bankDone b (clk, m) }
  | none => e

/-- A firing commits (R60): its poison originates, its records are written, its slot state, banks and scratchpad bytes are
written, its flags raised, its gauge changes and window messages made, its signal sent, its access passed to the port, its
tokens handed to injection. -/
def commit (s : State) (l : Loc) (k : Nat) : State :=
  let r := rgnOf l
  match (getElem s l).pending[k]? with
  | none => s
  | some f0 =>
    let q := if f0.origin then drawOrigin s r else (s, 0)
    let s := if f0.origin then modElem q.1 l (patchFidx (pendingFidx f0.ord) q.2) else q.1
    let f := nth (getElem s l).pending k f0
    let recs := f.recs.map fun (x : FRec) => if f.origin && (x.cause = 0x12 || x.cause = 0x24) then { x with fidx := q.2 } else x
    let s := putRecs s r (recs.map fun x => atElem s l x)
    let s := modElem s l fun e =>
      let e := noteBanks f s.clk (f.land e)
      let e := { e.ownGauge s.clk f.gauge with pending := e.pending.eraseIdx k, flags := e.flags ||| f.flags }
      let e := match f.access with
        | some a => { e with port := { e.port with accs := e.port.accs ++ [{ a with id := f.ord }] } }
        | none => e
      handOuts f s.clk e
    let s := f.win.foldl (fun s w => sendMsg s l f w) s
    let s := match f.signal with
      | some n => modRegion s r fun g => { g with signals := Nat.lor g.signals (2 ^ n) }
      | none => s
    busy s r

/-- Elements commit until the cut is complete (R329). -/
def execEvFiringCommit (l : Loc) (s : State) : Host.Outcome State Fault Refusal :=
  match (if running (getRegion s (rgnOf l)) then commitNext (getElem s l) s.clk else none) with
  | some k => .next (commit s l k)
  | none => .next s

/-- The entry of a launch id (R208). -/
def launchOf (s : State) (p id : Nat) : Option LaunchEnt := (getPart s p).launches.find? fun (x : LaunchEnt) => x.id == id

/-- What a `pwait` may do now (R207, R208): wait, forward, or forward poisoned. -/
def pwaitTest (s : State) (p id : Nat) : Option Bool :=
  match launchOf s p id with
  | none => none
  | some x => if x.st = 1 then some false else if x.st = 2 then some true else none

/-- The step PWAIT_FORWARD of the n-th access of a port (R207): a `pwait` whose launch is done completes with its token, with
SCOPE 10 once the launch's stores are at their targets; of an aborted launch poisoned, with STAT 5, and where no operand
brought the poison it originates here with FIDX 0 (R325). -/
def execEvPwaitForward (l : Loc) (n : Nat) (s : State) : Host.Outcome State Fault Refusal :=
  match getAccess s l n with
  | none => .next s
  | some a =>
    match (if a.op = 0xC4 && !a.eos then pwaitTest s l.part a.desc else none) with
    | none => .next s
    | some ab =>
      if !portRuns (getRegion s (rgnOf l)) then .next s
      else
        let s := if a.scope = 2 then drainHost (drainHost s 0) 1 else s
        let s := if ab && !a.poison then (drawOrigin s (rgnOf l)).1 else s
        let t := a.a.getD {}
        let h := if ab then { t.hdr with stat := 5 } else t.hdr
        .next (emitAccess s l n a (h, t.payload, 0) (a.poison || ab, if a.poison then a.fidx else 0))

/-- What an EOS set emits before its EOS, and the slot state that it leaves (R92, R108, R109, R113, R157). -/
def eosExtra (i : FireIn) : FireOut :=
  let n := i.st % 2 ^ 32
  let pz := bit i.st 63
  let fx := bits i.st 47 32
  match i.opc with
  | 0x0A =>
    let t := int32Tok i i.dest (outTag i.w i.tag) n pz
    { outs := if n = 0 then [] else [(t.1, { t.2 with hdr := { t.2.hdr with fidx := if pz then fx else 0 } })], st := some 0 }
  | 0x0C => { st := some (2 ^ 63 + i.st % 2 ^ 63) }
  | 0x65 =>
    let b := nth i.e.banks i.bankNo {}
    if n = 0 then { st := some 0 }
    else { outs := [releaseTok i i.dest (outTag i.w i.tag) b pz fx], banks := [(i.bankNo, {})], st := some 0, lat := 34, occ := 32 }
  | 0x0D => { st := some 0 }
  | _ => {}

/-- The EOS of a memory slot goes through its port, behind its firings (R190): of a `pwait` where it names a launch. -/
def eosByPort (opc mod const : Nat) : Bool :=
  opc == 0x0D || (opc == 0xC4 && const % 2 ^ 32 != 0) || opc == 0xC5 || opc == 0xC6 || (0xA0 ≤ opc && opc ≤ 0xB8 && !((opc == 0xA0 || opc == 0xA1) && 2 ≤ mod && mod ≤ 4))

/-- The EOS access of a memory slot. -/
def eosAccess (i : FireIn) : Access :=
  { mkAccess i with eos := true, seq := false, poison := false, write := i.opc == 0x0D, notBefore := i.clk + 1, big := false,
                    stream := if i.opc = 0x0D then (i.w.imm12 / 64) % 64 else 0, scope := 0, ord := 0, a := none, b := none, c := none }

/-- The EOS flags of a slot cleared, and the EOS heads of its HEAD positions removed (R92); their quota returns. -/
def clearEos (s : State) (f : Focus) (w : OpWord) : State :=
  (tokPos w).foldl (fun s p =>
    let e := getElem s f.loc
    if w.src p = 0 then
      let k := recvIndex e f.slot p
      modElem s f.loc fun e => { e with eosFlags := if bit e.eosFlags k then e.eosFlags - 2 ^ k else e.eosFlags,
                                        eosTags := delKey e.eosTags k }
    else match recvOf e f.slot p with
      | some v => modRegion (modElem s f.loc fun e => popHead e v.chan s.clk) (rgnOf f.loc) fun g => ackChan g v.chan
      | none => s) s

/-- The EOS tokens that a set emits: one on each entry of its opcode (R92). -/
def eosOuts (i : FireIn) : List (Nat × Token) :=
  (entriesOf i.opc i.w).map fun k => (k, { hdr := withSeq i.g (eosToken (outTag i.w i.tag)).hdr })

/-- What an EOS set does (R92). -/
def eosOut (i : FireIn) : FireOut :=
  let x := eosExtra i
  if eosByPort i.opc i.w.mod.toNat i.const then { x with eat := [], access := some (eosAccess i) }
  else { x with eat := [], outs := x.outs ++ eosOuts i }

/-- The step EOS_SET_FIRE (R92). -/
def execEvEosSetFire (s : State) : Host.Outcome State Fault Refusal :=
  match s.focus with
  | none => .next s
  | some f =>
    let wd := slotWord (getElem s f.loc) f.slot
    let w := opFields wd
    let i := { gather s f w (opCode wd).toNat with a := {}, b := {}, c := {} }
    .next (issue (clearEos s f w) f i (eosOut i) false)

/-- The step TRUNC_DISCARD (R93): the data heads and the matched data set are consumed; nothing is emitted, nothing
updated; the EOS heads stay. -/
def execEvTruncDiscard (s : State) : Host.Outcome State Fault Refusal :=
  match s.focus with
  | none => .next s
  | some f =>
    let w := opFields (slotWord (getElem s f.loc) f.slot)
    let s := (eatAll s f w {}).1
    let opc := (opCode (slotWord (getElem s f.loc) f.slot)).toNat
    .next (busy { modElem s f.loc (fun e => listFrames s.clk (applyIssue s.clk w opc {} false e)) with focus := none } (rgnOf f.loc))

/-- Where a token that has been sent stands: at the receiver, or waiting at its route's first hop. -/
def launchTok (clk : Nat) (c : Chan) (t : Token) : Chan :=
  if c.hops = [] then { c with arrived := c.arrived ++ [t] } else { c with flights := c.flights ++ [{ tok := t, since := clk }] }

/-- A unit of quota goes from reserved to outstanding as its token is sent (R57). -/
def passOn (clk : Nat) (c : Chan) (t : Token) : Chan :=
  launchTok clk { c with reserved := c.reserved - 1, outstanding := c.outstanding + 1 } t

/-- Tokens at a lane group's receiver pass into its recv channel in order, within that channel's quota (R308, R311), with the
sequence fields that the receiving pour gives them (R81, R292). `fuel` bounds them. -/
def passRx (g : Nat) : Nat → State → State
  | 0, s => s
  | fuel + 1, s =>
    let l := getLane s g
    match l.bind, l.rxq with
    | some b, t :: r =>
      let r' : Rgn := ⟨b.1, b.2.1⟩
      let x := getRegion s r'
      (match x.chans.find? fun (c : Chan) => c.src == .link g with
       | some c =>
         if running x && c.outstanding < c.quota then
           let t := { t with hdr := withSeq x { t.hdr with chan := c.num } }
           let go (c' : Chan) : Chan := if c'.num = c.num then launchTok s.clk { c' with outstanding := c'.outstanding + 1 } t else c'
           let s := tapEnter (busy (setRegion s r' { x with chans := x.chans.map go }) r') r' c.num t
           passRx g fuel (modLane s g fun l => { l with rxq := r, tcred := l.tcred + 1 })
         else s
       | none => s)
    | _, _ => s

/-- The token of a channel that may leave (R45): a completion token, or the earliest issued, once no earlier firing that
sends on the channel is still under way. -/
def injectNext (e : Elem) (ch : Nat) : Option Nat :=
  let ok (t : InjTok) : Bool := t.chan == ch && (match t.ord with
    | none => true
    | some o =>
      (e.inject.all fun (u : InjTok) => u.chan != ch || match u.ord with | some o' => o ≤ o' | none => true)
        && e.pending.all fun (f : Firing) => o ≤ f.ord || !f.outs.any fun (x : OutTok) => x.chan == ch)
  e.inject.findIdx? ok

/-- Poison of an uncorrectable word that injection reads (R406). -/
def injectBad (s : State) (l : Loc) (t : InjTok) : State × Token :=
  match t.buf.bind fun b => badRead (getElem s l) [(poolBase b, payloadBytes t.tok.hdr)] with
  | none => (s, t.tok)
  | some off =>
    let q := drawOrigin s (rgnOf l)
    let s := putRec q.1 (rgnOf l) (atElem q.1 l { cause := 0x12, slot := t.slot, tag := t.tok.hdr.tag, addr := scratchCode q.1 l off, fidx := q.2 })
    (s, { t.tok with hdr := if t.tok.hdr.poison then t.tok.hdr else { t.tok.hdr with poison := true, fidx := q.2 } })

/-- The step TOKEN_INJECT (R45): the last beat of a channel's next token is injected, the injector having sent one beat per
clk since the token was handed to it; the token's buffer is freed in the clk after its last channel's last beat (R261). -/
def injectToken (s : State) (l : Loc) (ch : Nat) : State :=
  let e := getElem s l
  match injectNext e ch with
  | none => s
  | some k =>
    let t := nth e.inject k { chan := 0, tok := {} }
    let n := beatsOf t.tok.hdr
    let full := match (getRegion s (rgnOf l)).chans.find? fun (c : Chan) => c.num == ch with
      | some c => c.quota ≤ c.outstanding + c.reserved
      | none => false
    if !running (getRegion s (rgnOf l)) || s.clk + 1 < max e.injFree t.since + n || t.owes && full then s
    else
      let q := injectBad s l t
      let s := modElem q.1 l fun e =>
        let rest := e.inject.eraseIdx k
        let e := { e with inject := rest, injFree := s.clk + 1 }
        match t.buf with
        | some b => if rest.any fun (u : InjTok) => u.buf == some b then e else freeLater e b (s.clk + 1)
        | none => e
      let go (c : Chan) : Chan :=
        if c.num ≠ ch then c else passOn s.clk (if t.owes then { c with reserved := c.reserved + 1 } else c) q.2
      tapEnter (busy (modRegion s (rgnOf l) fun g => { g with chans := g.chans.map go }) (rgnOf l)) (rgnOf l) ch q.2

/-- A token that `inj` sends: it is outstanding from now on (R57, R245). -/
def injSend (clk : Nat) (t : Token) (c : Chan) : Chan :=
  launchTok clk { c with outstanding := c.outstanding + 1, eosDone := c.eosDone || t.hdr.kind == 1 } t

/-- The EOS that `rdrain` queued on an `inj` channel is sent once quota allows (R244). -/
def sendEos (s : State) (r : Rgn) (ch : Nat) : State :=
  let g := getRegion s r
  match g.chans.find? fun (c : Chan) => c.num == ch && c.src == .inj with
  | none => s
  | some c =>
    if running g && g.eosInj.contains ch && c.reserved + c.outstanding < c.quota then
      let t : Token := { hdr := withSeq g { tag := g.rdrain.getD 0, kind := 1, chan := ch } }
      let g := { g with eosInj := g.eosInj.filter (· ≠ ch),
                        chans := g.chans.map fun c => if c.num = ch then injSend s.clk t c else c }
      tapEnter (busy (setRegion s r g) r) r ch t
    else s

/-- The step TOKEN_INJECT: of an element's injector, or of an `inj` channel on which an EOS waits. -/
def execEvTokenInject (l : Loc) (ch : Nat) (s : State) : Host.Outcome State Fault Refusal :=
  if (getRegion s (rgnOf l)).eosInj.contains ch then .next (sendEos s (rgnOf l) ch) else .next (injectToken s l ch)

/-- The step WINDOW_MESSAGE (R94): the home applies message n, the first of its sender that waits. -/
def execEvWindowMessage (r : Rgn) (n : Nat) (s : State) : Host.Outcome State Fault Refusal :=
  let g := getRegion s r
  match g.msgs[n]? with
  | none => .next s
  | some m =>
    if !running g || (g.msgs.take n).any fun (x : MsgFlight) => x.src == m.src then .next s
    else .next (applyMsg (setRegion s r { g with msgs := g.msgs.eraseIdx n }) r m)

/-- A broadcast that an element may take: the first of those on their way to it (R94). -/
def bcastReady (g : Region) (n : Nat) : Option BcastFlight :=
  match g.bcasts[n]? with
  | none => none
  | some b => if running g && !(g.bcasts.take n).any fun (x : BcastFlight) => x.dst == b.dst then some b else none

/-- The step WINDOW_ADVANCE (R94, R95): an element's copy of an oldest live iteration moves forward. -/
def execEvWindowAdvance (r : Rgn) (n : Nat) (s : State) : Host.Outcome State Fault Refusal :=
  let g := getRegion s r
  match bcastReady g n with
  | none => .next s
  | some b =>
    if b.free then .next s
    else .next (modElem (setRegion s r { g with bcasts := g.bcasts.eraseIdx n }) ⟨r.part, r.handle, b.dst⟩ fun e =>
      { e with oldest := putKey e.oldest (b.body, b.inst) b.oldest })

/-- A token of an instance (R255); EOS tags name none. -/
def tokOf (b i : Nat) (t : Token) : Bool := t.hdr.kind != 1 && tagBody t.hdr.tag == b && tagInst t.hdr.tag == i

/-- The operands and heads of an instance resident at an element: slot, tag, channel and place. -/
def residentsOf (b i : Nat) (e : Elem) : List (Nat × Nat × Nat × PLoc) :=
  (e.sets.flatMap fun m => (m.a.toList ++ m.b.toList ++ m.c.toList).filterMap fun (h : Held) =>
      if tagBody m.tag = b ∧ tagInst m.tag = i then some (m.slot, m.tag, h.tok.hdr.chan, h.loc) else none)
    ++ e.heads.flatMap fun q => (q.2.filter fun (h : Held) => tokOf b i h.tok).map fun (h : Held) =>
      (((e.cfg.recv.find? fun v => v.valid && v.chan == q.1).map fun v => v.slot).getD 0, h.tok.hdr.tag, q.1, h.loc)

/-- An element discards an instance's operands, heads and marks, and its copy of the oldest live iteration is 0 again. -/
def dropInst (b i clk : Nat) (e : Elem) : Elem :=
  let e := (residentsOf b i e).foldl (fun e x => freeLoc e x.2.2.2) e
  let top (l : List Held) : List Held := match l with | h :: r => { h with stamp := max h.stamp clk } :: r | [] => []
  let keep (q : Nat × List Held) : Option (Nat × List Held) :=
    let l := q.2.filter fun (h : Held) => !tokOf b i h.tok
    if l = [] then none else some (q.1, if l.head? = q.2.head? then l else top l)
  let gone (m : MSet) : Bool := tagBody m.tag == b && tagInst m.tag == i
  listFrames clk
    ((e.sets.filter gone).foldl (fun e m => touchEos e m.slot clk)
      { e with sets := e.sets.filter fun m => !gone m, heads := e.heads.filterMap keep, oldest := delKey e.oldest (b, i) })

/-- The discarded resident of the lowest slot. -/
def lowestSlot : List (Nat × Nat × Nat × PLoc) → Nat × Nat
  | [] => (0, 0)
  | x :: r => let y := lowestSlot r; if r == [] || x.1 ≤ y.1 then (x.1, x.2.1) else y

/-- The step FREE_APPLY (R255): an element applies a free, records what it discards as ORPHAN, and acknowledges. -/
def execEvFreeApply (r : Rgn) (n : Nat) (s : State) : Host.Outcome State Fault Refusal :=
  let g := getRegion s r
  match bcastReady g n with
  | none => .next s
  | some b =>
    if !b.free then .next s
    else
      let l : Loc := ⟨r.part, r.handle, b.dst⟩
      let gone := residentsOf b.body b.inst (getElem s l)
      let s := setRegion s r { g with bcasts := g.bcasts.eraseIdx n,
                                      frees := g.frees.map fun q => if q.1 = (b.body, b.inst) then (q.1, q.2.filter (· ≠ b.dst)) else q }
      let s := modElem s l (dropInst b.body b.inst s.clk)
      let s := gone.foldl (fun s x => modRegion s r fun g => ackChan g x.2.2.1) s
      let q := lowestSlot gone
      .next (if gone = [] then s else putRec s r (atElem s l { cause := 0x61, slot := q.1, tag := q.2, addr := gone.length }))

/-- The step FREE_COMPLETE (R255): every element has acknowledged; the instance is free. -/
def execEvFreeComplete (r : Rgn) (b i : Nat) (s : State) : Host.Outcome State Fault Refusal :=
  let g := getRegion s r
  if running g && g.frees.any fun q => q.1 == (b, i) && q.2 == [] then
    .next (modBody (setRegion s r { g with frees := g.frees.filter fun q => q.1 ≠ (b, i) }) r b fun y =>
      { y with insts := modNth y.insts i fun x => { x with st := 0 } })
  else .next s

end Sys2Proof.Machine
end

