-- ==== Sys2Proof/Machine/Arrive.lean ====
section
/-! DEFINITION. Arrivals, spill fetches, the wheels and the acknowledgements (spec/02: R53 to R55, R57; spec/03: R75 to R79;
spec/04: R91, R99; spec/10: R256 to R263; spec/18: R362 to R364). -/

namespace Sys2Proof.Machine

/-- The position whose operand a slot would forward as its constant under PAD (R89, R93, R205): it has another HEAD position. -/
def padForwards (opc : Nat) (w : OpWord) : Option Nat :=
  let p := if opc = 0xC2 then 1 else 0
  if w.eosm = 1 && w.src p = 1 && 2 ≤ (headPos w).length && (opc == 0x00 || opc == 0x01 || opc == 0x05 || opc == 0x08 || opc == 0xC2)
  then some p else none

/-- A slot that forms vector or tile payloads itself (R261): a `cmerge` where its a edge is one (R99), a slot under PAD that
forwards its constant as one (R93). -/
def slotForms (g : Region) (e : Elem) (slot : Nat) (wd : Word64) : Bool :=
  let opc := (opCode wd).toNat
  let w := opFields wd
  let sh := w.shape
  if opc < 0x20 || opc = 0xC2 || opc = 0xFF then
    (match (if opc = 0x03 then some 0 else padForwards opc w) with
     | some p => 2 ≤ (edgeKind g e slot p).2
     | none => false)
  else if opc < 0x48 then sh = 2 && opc ≠ 0x2E
  else if opc = 0x4B then true
  else if opc < 0x63 then false
  else if opc < 0x80 then opc = 0x65 || opc = 0x6B || opc = 0x6C
  else if opc < 0xA0 then sh ≥ 2
  else opc = 0xA0 && sh ≥ 2 || opc = 0xA2 || opc = 0xA8 && w.mod.toNat ≠ 0 || opc = 0xC5 || opc = 0xC6

/-- OUTRES (R261). -/
def outRes (g : Region) (e : Elem) : Nat := if e.cfg.slots.zipIdx.any fun q => slotForms g e q.2 q.1 then 2 else 0

/-- pool_free() (R261). -/
def poolFree (g : Region) (e : Elem) : Nat := e.cfg.pooln - (e.poolHeld.filter (· < e.cfg.pooln)).length - outRes g e

/-- The lowest free spill slot. -/
def freeSpill (e : Elem) : Option Nat := (List.range e.cfg.spsize).find? fun n => !e.spillHeld.contains n

/-- Where an arriving payload goes (R53): none is needed, a buffer, a spill slot, or it is refused. -/
inductive Room where
  | none
  | pool (b : Nat)
  | spill (n : Nat)
  | refuse
  deriving DecidableEq, Repr

def roomFor (g : Region) (e : Elem) (t : Token) : Room :=
  if !bigTok t then .none
  else match (if 0 < poolFree g e then freeBuf e else Option.none) with
    | some b => .pool b
    | Option.none => match freeSpill e with | some n => .spill n | Option.none => .refuse

def Room.loc : Room → PLoc
  | .pool b => .pool b
  | .spill n => .spill n
  | _ => .here

/-- The virtual address of a spill slot (R51). -/
def spillVa (e : Elem) (n : Nat) : Nat := e.cfg.spbase + 4096 * n

/-- A payload enters its place: a buffer's bytes, or the spill area's, `none` where that is not mapped writable (R261). -/
def placePayload (s : State) (l : Loc) (t : Token) (rm : Room) : Option State :=
  let n := payloadBytes t.hdr
  match rm with
  | .pool b => some (modElem s l fun e => { e.wr (poolBase b) n t.payload with poolHeld := b :: e.poolHeld })
  | .spill k =>
    let va := spillVa (getElem s l) k
    if mappedAll s l.part { w := true } va n then
      some (modElem (vwriteLong s l.part 128 va n t.payload) l fun e => { e with spillHeld := k :: e.spillHeld })
    else none
  | _ => some s

/-- A channel of a region by number. -/
def chanOf (g : Region) (ch : Nat) : Option Chan := g.chans.find? fun (c : Chan) => c.num == ch

def modChan (s : State) (r : Rgn) (ch : Nat) (f : Chan → Chan) : State :=
  modRegion s r fun g => { g with chans := g.chans.map fun (c : Chan) => if c.num = ch then f c else c }

/-- The token at the head of a channel that ends at an element, with its receive entry. -/
def arriving (s : State) (l : Loc) (ch : Nat) : Option (Token × RecvEnt) :=
  let g := getRegion s (rgnOf l)
  match chanOf g ch with
  | none => none
  | some c =>
    if !running g || c.dst ≠ .elem l.elem then none
    else match c.arrived, (getElem s l).cfg.recv.find? fun v => v.valid && v.chan == ch with
      | t :: _, some v => some (t, v)
      | _, _ => none

/-- The arrival leaves the head of its channel. -/
def takeHead (s : State) (l : Loc) (ch : Nat) : State :=
  busy (modChan s (rgnOf l) ch fun c => { c with arrived := c.arrived.tail }) (rgnOf l)

/-- has_frame (R262). -/
def hasFrame (e : Elem) (body slot : Nat) : Bool :=
  e.cfg.frames.any fun f => f.body == body && bit f.smask slot

/-- The set that holds a tag's frame entry under another tag (R262, R263). -/
def collides (g : Region) (e : Elem) (slot tag : Nat) : Bool :=
  match bodyOf g (tagBody tag) with
  | none => false
  | some b => e.sets.any fun m => m.inFrame && m.slot == slot && m.tag != tag && tagCtx m.tag == tagCtx tag
      && tagIter m.tag % bodyW b == tagIter tag % bodyW b

/-- What an arrival of a MATCH operand meets (R53, R54, R99, R257, R263). -/
inductive Meet where
  /-- a stopping cause; the token stays -/
  | stop (cause : Nat)
  /-- back-pressure; it is offered again -/
  | refuse
  /-- an orphan mark -/
  | orphan
  /-- a place: whether the set stands in a frame -/
  | place (frame : Bool)
  deriving DecidableEq, Repr

def meetArrival (g : Region) (e : Elem) (t : Token) (v : RecvEnt) : Meet :=
  let tag := t.hdr.tag
  if !tagInRange g tag then .stop 0x25
  else if roomFor g e t = .refuse then .refuse
  else match setOf e v.slot tag with
    | some m => if bit m.orphan v.pos then .orphan else if (m.pos v.pos).isSome then .stop 0x20 else .place m.inFrame
    | none =>
      if (e.sets.filter fun m => !m.inFrame).length < 64 then .place false
      else if hasFrame e (tagBody tag) v.slot then (if collides g e v.slot tag then .refuse else .place true)
      else .refuse

/-- A stopping cause of an arrival (R54, R257): slot, tag and channel. -/
def stopArrival (s : State) (l : Loc) (cause : Nat) (t : Token) (v : RecvEnt) : State :=
  meetStop s l { cause := cause, tag := t.hdr.tag, slot := v.slot, chan := regChan (getRegion s (rgnOf l)) v.chan } (v.chan * 2 ^ 32 + t.hdr.tag)

/-- A spill write that meets no translation (R261): slot, tag and address. -/
def stopSpill (s : State) (l : Loc) (t : Token) (v : RecvEnt) (rm : Room) : State :=
  let a := match rm with | .spill k => spillVa (getElem s l) k | _ => 0
  meetStop s l { cause := 0x10, tag := t.hdr.tag, slot := v.slot, addr := a } (v.chan * 2 ^ 32 + t.hdr.tag)

/-- A mark cleared, and the set with it when nothing else is there (R99). -/
def clearMark (slot tag pos : Nat) (e : Elem) : Elem :=
  let ms := e.sets.map fun m => if m.slot = slot ∧ m.tag = tag then { m with orphan := m.orphan - 2 ^ pos } else m
  { e with sets := ms.filter fun m => !m.empty }

/-- The clk in which an arriving operand stands in its set (R53, R63): the clk after its arrival; six clk after it where the
store does not hold its set and the frame is probed. -/
def placedAt (e : Elem) (clk slot tag : Nat) : Nat :=
  let stored := match setOf e slot tag with | some m => !m.inFrame | none => false
  if !stored && hasFrame e (tagBody tag) slot then clk + 6 else clk + 1

/-- An operand placed in its set; a complete set in the store is a candidate from the operand's clk on, one in a frame joins
the frame-ready list as room allows (R53). -/
def placeOperand (clk slot tag pos : Nat) (frame : Bool) (h : Held) (e : Elem) : Elem :=
  let e := if (setOf e slot tag).isSome then e else { e with sets := e.sets ++ [{ slot := slot, tag := tag, inFrame := frame }] }
  let fin (m : MSet) : MSet := if !m.inFrame && setFull e m && m.ready.isNone then { m with ready := some m.stamp } else m
  let put (m : MSet) : MSet := if m.slot = slot ∧ m.tag = tag then fin (m.put pos (some h)) else m
  listFrames clk { e with sets := e.sets.map put }

/-- The step TOKEN_ARRIVAL (R53): the head of a MATCH-bound channel is placed, discarded at an orphan mark, refused, or
stops the region. -/
def tokenArrival (s : State) (l : Loc) (ch : Nat) : State :=
  match arriving s l ch with
  | none => s
  | some (t, v) =>
    let g := getRegion s (rgnOf l)
    let e := getElem s l
    if v.head || t.hdr.kind = 1 then s
    else match meetArrival g e t v with
    | .stop c => stopArrival s l c t v
    | .refuse => s
    | .orphan =>
      let s := modElem (takeHead s l ch) l (clearMark v.slot t.hdr.tag v.pos)
      putRec (modRegion s (rgnOf l) fun g => ackChan g ch) (rgnOf l) (atElem s l { cause := 0x61, slot := v.slot, tag := t.hdr.tag })
    | .place fr =>
      match roomFor g e t with
      | .refuse => s
      | rm =>
        match placePayload s l t rm with
        | none => stopSpill s l t v rm
        | some s =>
          modElem (takeHead s l ch) l fun e =>
            placeOperand s.clk v.slot t.hdr.tag v.pos fr { tok := t, loc := rm.loc, stamp := placedAt e s.clk v.slot t.hdr.tag } e

/-- The step TOKEN_ARRIVAL. -/
def execEvTokenArrival (l : Loc) (ch : Nat) (s : State) : Host.Outcome State Fault Refusal := .next (tokenArrival s l ch)

/-- The step HEAD_ARRIVAL (R55, R91): the head of a HEAD-bound channel, data or EOS, joins the tail of the FIFO. -/
def headArrival (s : State) (l : Loc) (ch : Nat) : State :=
  match arriving s l ch with
  | none => s
  | some (t, v) =>
    if !v.head then s
    else if t.hdr.kind ≠ 1 && !tagInRange (getRegion s (rgnOf l)) t.hdr.tag then stopArrival s l 0x25 t v
    else match roomFor (getRegion s (rgnOf l)) (getElem s l) t with
    | .refuse => s
    | rm =>
      match placePayload s l t rm with
      | none => stopSpill s l t v rm
      | some s =>
        modElem (takeHead s l ch) l fun e =>
          { e with heads := putKey e.heads ch (headsOf e ch ++ [{ tok := t, loc := rm.loc, stamp := s.clk + 1 }]) }

/-- The step HEAD_ARRIVAL. -/
def execEvHeadArrival (l : Loc) (ch : Nat) (s : State) : Host.Outcome State Fault Refusal := .next (headArrival s l ch)

/-- The step EOS_ARRIVAL (R91): an EOS on a MATCH-bound channel sets its flag; a second one is a duplicate. It holds no
storage, so its quota returns. -/
def eosArrival (s : State) (l : Loc) (ch : Nat) : State :=
  match arriving s l ch with
  | none => s
  | some (t, v) =>
    if v.head || t.hdr.kind ≠ 1 then s
    else
      let k := recvIndex (getElem s l) v.slot v.pos
      if bit (getElem s l).eosFlags k then stopArrival s l 0x20 t v
      else
        let s := modElem (takeHead s l ch) l fun e =>
          { e with eosFlags := e.eosFlags + 2 ^ k, eosTags := putKey e.eosTags k (t.hdr.tag, s.clk + 1) }
        modRegion s (rgnOf l) fun g => ackChan g ch

/-- The step EOS_ARRIVAL. -/
def execEvEosArrival (l : Loc) (ch : Nat) (s : State) : Host.Outcome State Fault Refusal := .next (eosArrival s l ch)

/-- A held operand back from spill slot n in buffer b. -/
def Held.fetch (h : Held) (n b v : Nat) : Held :=
  if h.loc = .spill n then { h with loc := .pool b, tok := { h.tok with payload := v } } else h

/-- The slot that waits for the payload in spill slot n, and its token: in a complete set, or at the head of a FIFO. -/
def spillOwner (e : Elem) (n : Nat) : Option (Nat × Token) :=
  let inSet := (e.sets.filter (setFull e)).findSome? fun m =>
    let ps := if opCode (nth e.cfg.slots m.slot 0) = 0x03 then takes e 0x03 m.slot m.tag false else [0, 1, 2]
    ((ps.filterMap m.pos).find? fun (h : Held) => h.loc == .spill n).map fun h => (m.slot, h.tok)
  let inHead := e.heads.findSome? fun q => match q.2 with
    | h :: _ => if h.loc = .spill n then some (((e.cfg.recv.find? fun v => v.valid && v.chan == q.1).map fun v => v.slot).getD 0, h.tok) else none
    | [] => none
  inSet <|> inHead

/-- The step SPILL_FETCH_DONE (R53, R261): the payload in spill slot n is back in a pool buffer. A line that no code corrects
poisons it (R405); a page that no longer translates stops the region. -/
def spillFetch (s : State) (l : Loc) (n : Nat) : State :=
  let g := getRegion s (rgnOf l)
  let e := getElem s l
  match spillOwner e n, freeBuf e with
  | some (slot, t), some b =>
    if !running g then s
    else
      let len := payloadBytes t.hdr
      let read := vreadLong s l.part 128 (spillVa e n) len
      let s := logVreadLong s l.part g.launch 128 (spillVa e n) len
      let bring (s : State) (v : Nat) : State :=
        busy (modElem s l fun e =>
          let f (h : Held) : Held := h.fetch n b v
          { e.wr (poolBase b) len v with
            poolHeld := b :: e.poolHeld, spillHeld := e.spillHeld.filter (· ≠ n),
            sets := e.sets.map fun m => { m with a := m.a.map f, b := m.b.map f, c := m.c.map f },
            heads := e.heads.map fun q => (q.1, q.2.map f) }) (rgnOf l)
      match read with
      | .ok v => bring s v
      | .error 0x12 =>
        let q := drawOrigin { s with fresh := s.fresh + 1 } (rgnOf l)
        let v := ofBytes ((List.range len).map fun i => Config.badByte s.fresh (spillVa e n + i))
        let s := putRec q.1 (rgnOf l) (atElem q.1 l { cause := 0x12, slot := slot, tag := t.hdr.tag, addr := spillVa e n, fidx := q.2 })
        let mark (h : Held) : Held :=
          if h.loc = .spill n && !h.tok.hdr.poison then { h with tok := { h.tok with hdr := { h.tok.hdr with poison := true, fidx := q.2 } } } else h
        bring (modElem s l fun e =>
          { e with sets := e.sets.map fun m => { m with a := m.a.map mark, b := m.b.map mark, c := m.c.map mark },
                   heads := e.heads.map fun q => (q.1, q.2.map mark) }) v
      | .error _ => meetStop s l { cause := 0x10, slot := slot, tag := t.hdr.tag, addr := spillVa e n } n
  | _, _ => s

/-- The step SPILL_FETCH_DONE. -/
def execEvSpillFetchDone (l : Loc) (n : Nat) (s : State) : Host.Outcome State Fault Refusal := .next (spillFetch s l n)

/-- The physical column of a logical one (R363). -/
def physColumn (s : State) (d x : Nat) : Nat := nth (nth s.colmaps d []) x x

/-- The columns that the map skips on a hop (R363, Table 3.7): east (code 1), west (code 3), or, of a die-to-die hop (code 5) to
another column of dies, those behind the last column of the one die and before the first of the other. -/
def skipped (s : State) (place : Nat) (h : Hop) (next : Option Hop) : Nat :=
  let q := physElem place h.x h.y
  let p (x : Nat) : Nat := physColumn s q.1 x
  if h.out = 1 then p (q.2.1 + 1) - p q.2.1 - 1
  else if h.out = 3 then p q.2.1 - p (q.2.1 - 1) - 1
  else if h.out = 5 then
    match next with
    | none => 0
    | some n =>
      let z := physElem place n.x n.y
      if h.x < n.x then (41 - p q.2.1) + physColumn s z.1 z.2.1
      else if n.x < h.x then p q.2.1 + (41 - physColumn s z.1 z.2.1)
      else 0
  else 0

/-- The columns that a route has bypassed before its hop k (R364). -/
def bypassed (s : State) (place : Nat) (hs : List Hop) (k : Nat) : Nat :=
  ((hs.take k).zipIdx.map fun q => skipped s place q.1 hs[q.2 + 1]?).sum

/-- The rotation of a channel's wheel indices at a hop of its route (R364): the die's, and one for every column that the
route has bypassed before it. -/
def hopRot (s : State) (g : Region) (c : Chan) (k : Nat) : Nat :=
  match c.hops[k]? with
  | none => 0
  | some h => (lookupKey g.rots (regChan g c.num, (physElem g.place h.x h.y).1)).getD 0 + bypassed s g.place c.hops k

/-- A channel owns a wheel index at a hop of its route (R360, R364). -/
def ownsIndex (s : State) (g : Region) (c : Chan) (k i : Nat) : Bool :=
  match c.hops[k]? with
  | none => false
  | some h => bit h.map ((i + 64 - hopRot s g c k % 64) % 64)

/-- The die of a hop's router. -/
def hopOn (place : Nat) (c : Chan) (k : Nat) : Nat := match c.hops[k]? with | some h => (physElem place h.x h.y).1 | none => 0

/-- A channel owns the wheel's slot of this clk at a hop (R77). -/
def ownsSlot (s : State) (g : Region) (c : Chan) (k : Nat) : Bool := ownsIndex s g c k (wheelIndex s (hopOn g.place c k))

/-- A hop stands at an output of a physical router: die, x, y; output. -/
def Hop.at_ (place : Nat) (ph : Nat × Nat × Nat) (o : Nat) (h : Hop) : Bool := physElem place h.x h.y == ph && h.out == o

/-- Every region of the module. -/
def allRegions (s : State) : List (Rgn × Region) :=
  (List.range 16).flatMap fun p => (getPart s p).regions.map fun q => (⟨p, q.1⟩, q.2)

/-- The switch words that a region puts at index i of an output's wheel (R75): its channels', and trace entries. -/
def regionWords (s : State) (g : Region) (ph : Nat × Nat × Nat) (o i : Nat) : List Nat :=
  (g.chans.flatMap fun (c : Chan) => c.hops.zipIdx.filterMap fun h =>
      if h.1.at_ g.place ph o && ownsIndex s g c h.2 i then some (h.1.kind % 4 * 2 ^ 14 + c.num % 2 ^ 11 * 2 ^ 3 + h.1.inp % 8) else none)
    ++ ((curVariant g).routes.flatMap fun q => q.2.filterMap fun h =>
      if h.kind = 3 && h.at_ g.place ph o && bit h.map i then some 0xC007 else none)

/-- The switch word at index i of an output's wheel (R75, R76): of the region that holds the entry; else KIND 00, CHAN 0, PORT
7. -/
def wheelWord (s : State) (ph : Nat × Nat × Nat) (o i : Nat) : Nat :=
  ((allRegions s).flatMap fun q => regionWords s q.2 ph o i).headD 7

/-- The first token of a channel that waits at an output: its place among the channel's tokens, and its hop. -/
def waitingAt (g : Region) (c : Chan) (ph : Nat × Nat × Nat) (o : Nat) : Option (Nat × Nat) :=
  (c.flights.findIdx? fun f => match c.hops[f.hop]? with | some h => h.at_ g.place ph o | none => false).map
    fun k => (k, (nth c.flights k { tok := {} }).hop)

/-- A token that waits at an output: region, channel, its place among the channel's tokens, whether its channel owns this clk's
slot, and since when it waits. -/
structure Waiter where
  rgn : Rgn
  chan : Chan
  tok : Nat
  owns : Bool
  since : Nat

/-- The tokens of running regions that wait at an output. -/
def waiters (s : State) (ph : Nat × Nat × Nat) (o : Nat) : List Waiter :=
  ((allRegions s).filter fun q => running q.2).flatMap fun q => q.2.chans.filterMap fun (c : Chan) =>
    (waitingAt q.2 c ph o).map fun w =>
      { rgn := q.1, chan := c, tok := w.1, owns := ownsSlot s q.2 c w.2, since := (nth c.flights w.1 { tok := {} }).since }

/-- Some die's trace FIFO holds a record: trace beats wait on their way to a ring (R396, R398). -/
def tracing (s : State) : Bool := s.parts.toList.any fun p => p.wvane.any fun q => q.2.fifo != []

/-- A trace beat leaves an output now (R77): the entry has KIND 11 and a trace beat waits. At which outputs the beats of waiting
records stand the specification does not say: their way to the ring is no route of an image (log entry 27). -/
def traceTakes (s : State) (ph : Nat × Nat × Nat) (o : Nat) : Bool :=
  wheelWord s ph o (wheelIndex s ph.1) / 2 ^ 14 == 3 && tracing s && Config.traceWaits s.clk ph o

/-- The beat that leaves an output now (R77): of the channel that the entry names; else the oldest waiting mist beat, of any
region. -/
def wheelPick (s : State) (ph : Nat × Nat × Nat) (o : Nat) : Option Waiter :=
  let w := wheelWord s ph o (wheelIndex s ph.1)
  let ws := waiters s ph o
  let k := w / 2 ^ 14
  match (if k = 1 || k = 2 then ws.find? fun q => q.owns && q.chan.num % 2 ^ 11 == bits w 13 3 else none) with
  | some q => some q
  | none =>
    match ws.filter fun q => q.chan.mist with
    | [] => none
    | m :: r => some (r.foldl (fun a c => if c.since < a.since then c else a) m)

/-- One beat of a token leaves its hop; with its last beat the token stands at the next hop, or at its receiver (R78). -/
def beatOn (clk k : Nat) (c : Chan) : Chan :=
  match c.flights[k]? with
  | none => c
  | some f =>
    if f.sent + 1 < beatsOf f.tok.hdr then { c with flights := modNth c.flights k fun f => { f with sent := f.sent + 1 } }
    else if f.hop + 1 < c.hops.length then
      { c with flights := modNth c.flights k fun f => { f with hop := f.hop + 1, sent := 0, since := clk } }
    else { c with flights := c.flights.eraseIdx k, arrived := c.arrived ++ [f.tok] }

/-- The output has sent its beat of this clk (R77). -/
def useOutput (s : State) (ph : Nat × Nat × Nat) (o : Nat) : State := { s with wheelAt := putKey s.wheelAt (ph, o) s.clk }

/-- The step WHEEL_SLOT at output o of the router at virtual (x, y) of a region (R77): at most one beat in a clk, of whichever
region has it. -/
def execEvWheelSlot (r : Rgn) (x y o : Nat) (s : State) : Host.Outcome State Fault Refusal :=
  let g := getRegion s r
  let ph := physElem g.place x y
  if !running g || lookupKey s.wheelAt (ph, o) = some s.clk then .next s
  else if traceTakes s ph o then .next (busy (useOutput s ph o) r)
  else match wheelPick s ph o with
  | none => .next s
  | some q =>
    let s' := busy (modChan (useOutput s ph o) q.rgn q.chan.num (beatOn s.clk q.tok)) q.rgn
    .next (match q.chan.flights[q.tok]? with
      | some f => if f.sent = 0 then tapSee s' q.rgn q.chan.num (f.hop + 1) f.tok else s'
      | none => s')

/-- Acknowledgements of a channel cross a hop back, in one sideband (R79): those that wait there together are summed, up to 15. -/
def crossAcks (clk h : Nat) (c : Chan) : Chan :=
  let n := ((c.acks.filter fun a => a.hops = h).map fun a => a.count).sum
  { c with acks := (c.acks.filter fun a => a.hops ≠ h) ++ (if 15 < n then [{ hops := h, count := n - 15 }] else [])
                     ++ [{ hops := h - 1, count := min 15 n }]
           ackAt := putKey c.ackAt h clk }

/-- The step ACKNOWLEDGEMENT of the n-th acknowledgement of a channel (R79): it crosses one hop back in a slot that the
channel owns on that hop's forward wheel, one sideband in a clk, or, at the sender, returns its quota (R57). -/
def execEvAcknowledgement (r : Rgn) (ch n : Nat) (s : State) : Host.Outcome State Fault Refusal :=
  let g := getRegion s r
  match chanOf g ch with
  | none => .next s
  | some c =>
    match c.acks[n]? with
    | none => .next s
    | some a =>
      if !running g then .next s
      else if a.hops = 0 then
        let s := modChan s r ch fun c => { c with acks := c.acks.eraseIdx n, outstanding := c.outstanding - a.count }
        .next (match c.src with | .link g => passRx g 128 s | _ => s)
      else if ownsSlot s g c (a.hops - 1) && lookupKey c.ackAt a.hops != some s.clk then
        .next (modChan s r ch (crossAcks s.clk a.hops))
      else .next s

end Sys2Proof.Machine
end

