-- ==== Sys2Proof/Machine/FnMath.lean ====
section
/-! DEFINITION. The seventeen elementary functions on exact arguments (spec/07: R164, R167, R168). A value that is not
exact is computed in fixed point with 1,400 fraction bits; truncations and tails together stay below 2^-1000, far
below the distance of any argument's value from a rounding boundary (the second phase of R169 needs 128 bits), except where
an argument's own smallness brings its value near a boundary, and there below 2^-600 of it. So rounding the approximation
is rounding the value. -/

namespace Sys2Proof.Machine

/-- Fraction bits of the fixed-point values. -/
def fixBits : Nat := 1400
/-- 1 in fixed point. -/
def fixOne : Int := ((2 ^ fixBits : Nat) : Int)
/-- A ratio in fixed point. -/
def toFix (n : Int) (d : Nat) : Int := n * fixOne / (d : Int)
/-- A fixed-point value as an exact value. -/
def ofFix (x : Int) : FVal := .fin (x < 0) x.natAbs (2 ^ fixBits)
/-- Fixed-point product and quotient. -/
def fmul (x y : Int) : Int := x * y / fixOne
def fdiv (x y : Int) : Int := x * fixOne / y

/-- The sum of `n` terms t, t · step 1, …: `step k t` is the term after the k-th. -/
def fixSeries (step : Nat → Int → Int) : Nat → Nat → Int → Int
  | 0, _, _ => 0
  | n + 1, k, t => t + fixSeries step n (k + 1) (step k t)

/-- atanh t for |t| ≤ 1/3, by its odd series. -/
def fixAtanhGo (q : Int) : Nat → Nat → Int → Int
  | 0, _, _ => 0
  | n + 1, k, p => p / ((2 * k + 1 : Nat) : Int) + fixAtanhGo q n (k + 1) (fmul p q)

def fixAtanh (t : Int) : Int := fixAtanhGo (fmul t t) 460 0 t

/-- ln 2 = 2 atanh(1/3). -/
def fixLn2 : Int := 2 * fixAtanh (toFix 1 3)

/-- atan(1/m) by its odd series. -/
def fixAtanInvGo (m2 : Int) : Nat → Nat → Int → Int
  | 0, _, _ => 0
  | n + 1, k, p => (if k % 2 = 0 then 1 else -1) * (p / ((2 * k + 1 : Nat) : Int)) + fixAtanInvGo m2 n (k + 1) (p / m2)

def fixAtanInv (m : Nat) : Int := fixAtanInvGo ((m * m : Nat) : Int) 320 0 (toFix 1 m)

/-- π = 16 atan(1/5) − 4 atan(1/239). -/
def fixPi : Int := 16 * fixAtanInv 5 - 4 * fixAtanInv 239

/-- √x of a positive ratio. -/
def fixSqrt (n d : Nat) : Int := Int.ofNat (Nat.sqrt (n * 4 ^ fixBits / d))

/-- Nearest integer of a fixed-point value. -/
def fixRound (x : Int) : Int := (2 * x + fixOne) / (2 * fixOne)

/-- e^r for |r| below 1, by its series. -/
def fixExpSmall (r : Int) : Int := fixSeries (fun k t => fmul t r / ((k + 1 : Nat) : Int)) 260 0 fixOne

/-- x · 2^k. -/
def fixShift (x k : Int) : Int := if 0 ≤ k then x * ((2 ^ k.toNat : Nat) : Int) else x / ((2 ^ (-k).toNat : Nat) : Int)

/-- e^x for |x| ≤ 400. -/
def fixExp (x : Int) : Int :=
  let k := fixRound (fdiv x fixLn2)
  fixShift (fixExpSmall (x - k * fixLn2)) k

/-- ln of a positive ratio: m · 2^e with m from 3/4 to 3/2. -/
def fixLog (n d : Nat) : Int :=
  let e0 := ratioLog2 n d
  -- m = n / d / 2^e in [1, 2), halved where it is 3/2 or more
  let m (e : Int) : Nat × Nat := if 0 ≤ e then (n, d * 2 ^ e.toNat) else (n * 2 ^ (-e).toNat, d)
  let e := if 2 * (m e0).1 ≥ 3 * (m e0).2 then e0 + 1 else e0
  let q := m e
  2 * fixAtanh (toFix ((q.1 : Int) - (q.2 : Int)) (q.1 + q.2)) + e * fixLn2

/-- sin and cos of |r| ≤ 1, by their series. -/
def fixSinSmall (r : Int) : Int :=
  let q := fmul r r
  fixSeries (fun k t => -(fmul t q / (((2 * k + 2) * (2 * k + 3) : Nat) : Int))) 140 0 r

def fixCosSmall (r : Int) : Int :=
  let q := fmul r r
  fixSeries (fun k t => -(fmul t q / (((2 * k + 1) * (2 * k + 2) : Nat) : Int))) 140 0 fixOne

/-- sin(n · π/2 + r). -/
def fixSinQuad (n r : Int) : Int :=
  match (n % 4).toNat with
  | 0 => fixSinSmall r
  | 1 => fixCosSmall r
  | 2 => -fixSinSmall r
  | _ => -fixCosSmall r

/-- Reduction by π/2 of an argument in fixed point. -/
def fixQuad (x : Int) : Int × Int :=
  let n := fixRound (fdiv (2 * x) fixPi)
  (n, x - n * fixPi / 2)

/-- Reduction of π · x for an exact x: the nearest multiple of 1/2, and π times the rest. -/
def piQuad (x : Int) (d : Nat) : Int × Int :=
  let n := (4 * x + (d : Int)) / (2 * (d : Int))
  (n, fmul fixPi (toFix (2 * x - n * (d : Int)) (2 * d)))

/-- The series of erf without its factor 2/√π: Σ (−1)^k z^(2k+1) / (k! (2k+1)). -/
def fixErfGo (q : Int) : Nat → Nat → Int → Int
  | 0, _, _ => 0
  | n + 1, k, p => p / ((2 * k + 1 : Nat) : Int) + fixErfGo q n (k + 1) (-(fmul p q / ((k + 1 : Nat) : Int)))

/-- erf z for |z| ≤ 15. -/
def fixErf (z : Int) : Int :=
  let s := fixErfGo (fmul z z) 1700 0 z
  fdiv (2 * s) (fixSqrt fixPi.toNat (2 ^ fixBits))

/-- A value above 0 and below half the smallest code of every format. -/
def underTiny (neg : Bool) : FVal := .fin neg 1 (2 ^ 400)
/-- A value beyond every format's overflow boundary. -/
def overHuge : FVal := .fin false (2 ^ 400) 1
/-- A value below x > 0 and nearer to it than any rounding boundary of 24 bits. -/
def justBelow (neg : Bool) (n d : Nat) : FVal := .fin neg (n * (2 ^ 60 - 1)) (d * 2 ^ 60)

/-- |x| ≥ k. -/
def magGe (n d k : Nat) : Bool := k * d ≤ n

/-- The signed numerator. -/
def signedNum (neg : Bool) (n : Nat) : Int := if neg then -(n : Int) else (n : Int)

/-- A non-zero finite x is an integer. -/
def ratInt (n d : Nat) : Option Nat := if n % d = 0 then some (n / d) else none

/-- x = 2^k for a positive ratio. -/
def ratPow2 (n d : Nat) : Option Int :=
  let k := ratioLog2 n d
  if (if 0 ≤ k then n = d * 2 ^ k.toNat else n * 2 ^ (-k).toNat = d) then some k else none

/-- 2^k as an exact value. -/
def pow2F (k : Int) : FVal := if 0 ≤ k then .fin false (2 ^ k.toNat) 1 else .fin false 1 (2 ^ (-k).toNat)

/-- The special arguments of Table 7.3: the result and its flags. NaN arguments are the caller's. -/
def fnSpecial (opc : Nat) (x : FVal) : Option (FVal × Flags) :=
  let nan := some (FVal.nan false false, fInvalid)
  let zero (s : Bool) := some (FVal.fin s 0 1, fNone)
  let one (s : Bool) := some (FVal.fin s 1 1, fNone)
  let half := some (FVal.fin false 1 2, fNone)
  let inf (s : Bool) := some (FVal.inf s, fNone)
  let pole (s : Bool) := some (FVal.inf s, fDivz)
  match x with
  | .nan _ _ => none
  | .inf s =>
    (match opc with
     | 0x80 | 0x81 => if s then zero false else inf false
     | 0x85 => if s then one true else inf false
     | 0x82 | 0x83 | 0x84 | 0x8F => if s then nan else inf false
     | 0x86 | 0x87 | 0x88 | 0x89 => nan
     | 0x8A | 0x8C => one s
     | 0x8B => if s then zero false else one false
     | 0x8D => if s then zero true else inf false
     | 0x8E => if s then nan else zero false
     | _ => zero s)
  | .fin s n d =>
    if n = 0 then
      (match opc with
       | 0x80 | 0x81 | 0x87 | 0x89 => one false
       | 0x82 | 0x83 => pole true
       | 0x8B => half
       | 0x8E | 0x90 => pole s
       | _ => zero s)
    else
      (match opc with
       | 0x82 | 0x83 | 0x8E | 0x8F => if s then nan else none
       | 0x84 => if s && n = d then pole true else if s && d < n then nan else none
       | 0x88 => if (ratInt n d).isSome then zero s else none
       | 0x89 => if (ratInt (2 * n) d).isSome && (ratInt n d).isNone then zero false else none
       | _ => none)

/-- The exact points of Table 7.4. -/
def fnExact (opc : Nat) (s : Bool) (n d : Nat) : Option FVal :=
  match opc with
  | 0x81 => (ratInt n d).map fun k => pow2F (max (-1000) (min 1000 (signedNum s k)))
  | 0x82 => if n = d then some (.fin false 0 1) else none
  | 0x83 => (ratPow2 n d).map intToF
  | 0x88 => (ratInt (2 * n) d).map fun k => .fin ((k % 4 == 3) != s) 1 1
  | 0x89 => (ratInt n d).map fun k => .fin (k % 2 == 1) 1 1
  | 0x90 => (ratPow2 n d).map fun _ => .fin s d n
  | 0x8F => let r := Nat.sqrt (n * d); if r * r = n * d then some (.fin false r d) else none
  | 0x8E => let r := Nat.sqrt (n * d); if r * r = n * d then some (.fin false d r) else none
  | _ => none

/-- A finite non-special argument's value that is no exact point, up to what no rounding can tell. -/
def fnApprox (opc : Nat) (s : Bool) (n d : Nat) : FVal :=
  let x := toFix (signedNum s n) d
  match opc with
  | 0x80 => if magGe n d 200 then (if s then underTiny false else overHuge) else ofFix (fixExp x)
  | 0x81 =>
    if magGe n d 400 then (if s then underTiny false else overHuge)
    else ofFix (fixExp (fmul x fixLn2))
  | 0x82 => ofFix (fixLog n d)
  | 0x83 => ofFix (fdiv (fixLog n d) fixLn2)
  | 0x84 => ofFix (fixLog (signedNum s n + (d : Int)).toNat d)
  | 0x85 => if magGe n d 200 then (if s then justBelow true 1 1 else overHuge) else ofFix (fixExp x - fixOne)
  | 0x86 => let q := fixQuad x; ofFix (fixSinQuad q.1 q.2)
  | 0x87 => let q := fixQuad x; ofFix (fixSinQuad (q.1 + 1) q.2)
  | 0x88 => let q := piQuad (signedNum s n) d; ofFix (fixSinQuad q.1 q.2)
  | 0x89 => let q := piQuad (signedNum s n) d; ofFix (fixSinQuad (q.1 + 1) q.2)
  | 0x8A =>
    if magGe n d 50 then justBelow s 1 1
    else
      let t := fixExp (toFix (-2 * (n : Int)) d)
      let y := fdiv (fixOne - t) (fixOne + t)
      ofFix (if s then -y else y)
  | 0x8B =>
    if magGe n d 200 then (if s then underTiny false else justBelow false 1 1)
    else let t := fixExp (toFix (-(n : Int)) d)
      ofFix (if s then fdiv t (fixOne + t) else fdiv fixOne (fixOne + t))
  | 0x8C => if magGe n d 8 then justBelow s 1 1 else ofFix (fixErf x)
  | 0x8D =>
    if magGe n d 20 then (if s then underTiny true else justBelow false n d)
    else
      let e := fixErf (fmul x (fixSqrt 1 2))
      ofFix (fmul x (fixOne + e) / 2)
  | 0x8E => .fin false (d * 2 ^ 1000) (Nat.sqrt (n * d * 4 ^ 1000))
  | 0x8F => .fin false (Nat.sqrt (n * d * 4 ^ 1000)) (d * 2 ^ 1000)
  | _ => .fin s d n

/-- One lane of a function firing (R166, R172): the code and flags. `up` chooses the neighbour of a faithful form, `extra`
its OVERFLOW and UNDERFLOW. -/
def fnLane (opc : Nat) (f : Fmt) (mode : RMode) (fa sat ftz : Bool) (c : Nat) : Nat × Flags :=
  match decodeF f.lay ftz c with
  | .nan s sg => (signed f.lay s f.lay.canonNan, flagIf sg fInvalid)
  | x =>
    match fnSpecial opc x with
    | some (y, fl) => let r := roundFp f.lay mode sat ftz 0 y; (r.1, r.2 ||| fl)
    | none =>
      match x with
      | .fin s n d =>
        let y := (fnExact opc s n d).getD (fnApprox opc s n d)
        if !fa then roundFp f.lay mode sat ftz 0 y
        else
          let k := f.code + 16 * b2n ftz
          let r := roundFp f.lay (if Config.faithfulUp opc k c then .rup else .rdn) sat ftz 0 y
          let e := Config.faithfulFlags opc k c
          if r.2 = fNone then r
          else (r.1, (r.2 &&& fInexact) ||| flagIf (e.getLsbD 1) fOverflow ||| flagIf (e.getLsbD 0) fUnderflow)
      | _ => (0, fNone)

/-- An exact point whose value the format holds (R168, Table 7.4). -/
def exactPoint (opc : Nat) (f : Fmt) (ftz : Bool) (s : Bool) (n d : Nat) : Bool :=
  match fnExact opc s n d with
  | some y => (roundFp f.lay .rdn false ftz 0 y).2 == fNone
  | none => false

/-- The positive finite FP32 codes below 2^(e - 127), zero apart; subnormals are none with FTZ. -/
def codesBelow (e : Nat) (ftz : Bool) : Nat := if ftz then (e - 1) * 2 ^ 23 else e * 2 ^ 23 - 1

/-- The non-special finite FP32 arguments of a function (R167, Table 7.3): those of `log`, `log2` and `rsqrt` are above 0, those
of `log1p` above −1, of `sinpi` no integers, of `cospi` no n + ½. -/
def fnArguments (opc : Nat) (ftz : Bool) : Nat :=
  let p := codesBelow 255 ftz
  match opc with
  | 0x82 | 0x83 | 0x8E => p
  | 0x84 => p + codesBelow 127 ftz
  | 0x88 => 2 * (codesBelow 127 ftz + 22 * 2 ^ 23 + 1)
  | 0x89 => 2 * (p - 2 ^ 23)
  | _ => 2 * p

/-- The most of them that are undecided (R169, Table 7.5). -/
def undecidedMax (opc : Nat) (ftz : Bool) : Nat :=
  let k := match opc with
    | 0x8E => 13
    | 0x81 | 0x83 => 12
    | 0x86 | 0x87 | 0x8D => 10
    | _ => 11
  if opc = 0x8F || opc = 0x90 then 0 else fnArguments opc ftz / 2 ^ k

/-- A lane that the second phase serves (R169): an FP32 argument that is neither special nor an exact point, of a function
other than `sqrt` and `rcp`, in the unpublished set. -/
def secondPhase (opc : Nat) (f : Fmt) (mode : Nat) (ftz : Bool) (c : Nat) : Bool :=
  f == .fp32 && opc != 0x8F && opc != 0x90 &&
  (match decodeF f.lay ftz c with
   | .fin s n d => (fnSpecial opc (.fin s n d)).isNone && !exactPoint opc f ftz s n d
       && ((Config.undecided opc mode ftz).take (undecidedMax opc ftz)).contains c
   | _ => false)

end Sys2Proof.Machine
end

