-- ==== Sys2Proof/Machine/Functions.lean ====
section
/-! DEFINITION. The elementary functions as firings (spec/07: R164 to R174). -/

namespace Sys2Proof.Machine

/-- The valid lanes of a function firing: key, code, and column and row (R166). -/
def fnLanes (i : FireIn) : List (Nat × Nat × Nat × Nat) :=
  let f := i.fmt
  match i.w.shape with
  | 3 =>
    let a := i.tile i.a 32 32
    ((cellsOf a.rows a.cols).filter fun p => a.valid p.1 p.2).map fun p => (p.1 * a.cols + p.2, a.cell p.1 p.2, p.2, p.1)
  | 2 => (List.range (vecLanes f.width)).map fun k => (k, i.a.cell f.width k, k, 0)
  | _ => [(0, i.a.cell f.width 0, 0, 0)]

/-- A result put at its key among zero lanes. -/
def placeLane (wd : Nat) (acc : Nat) (p : Nat × Nat) : Nat := acc + 2 ^ (wd * p.1) * p.2

/-- The effect of a function firing (R166, R169, R172): 8 clk for each 128 bytes of argument, and 48 for each undecided
lane. -/
def fnFire (i : FireIn) : FireOut :=
  let f := i.fmt
  let m := i.w.mod.toNat
  let fa := 8 ≤ m
  let mode := effModeF m (recRnd i.rec_)
  let ls := fnLanes i
  let rs := ls.map fun l => (l.1, fnLane i.opc f mode fa i.sat i.ftz l.2.1)
  let payload := (rs.map fun r => (r.1, r.2.1)).foldl (placeLane f.width) 0
  let h := { i.a.hdr with tag := outTag i.w i.tag, fmt := f.code, kind := 0, stat := 0 }
  let bad := ((ls.find? fun l => badCode f l.2.1).map fun l => [Int.ofNat l.2.2.1, Int.ofNat l.2.2.2, 0]) <|>
    (((ls.zip rs).find? fun q => badCode f q.2.2.1).map fun q => [Int.ofNat q.1.2.2.1, Int.ofNat q.1.2.2.2, 3])
  let p := if i.w.shape = 3 then cdiv (payloadBytes i.a.hdr) 128 else 1
  let key := match mode with | .rne => 1 | .rtz => 2 | .rup => 3 | .rdn => 4 | _ => 0
  let hh := if fa then 0 else (ls.filter fun l => secondPhase i.opc f key i.ftz l.2.1).length
  { outs := [i.emit i.dest h payload i.poison], flags := orFlags (rs.map fun r => r.2.2), nonfin := bad,
    lat := 8 * p + 48 * hh, occ := 8 * p + 48 * hh }

/-- `exp` (R164, R166). -/
def execOpExp (w : OpWord) (s : State) : Host.Outcome State Fault Refusal :=
  .next (fireGo s w 0x80 fun i => fnFire i)

/-- `exp2` (R164, R166). -/
def execOpExp2 (w : OpWord) (s : State) : Host.Outcome State Fault Refusal :=
  .next (fireGo s w 0x81 fun i => fnFire i)

/-- `log` (R164, R166). -/
def execOpLog (w : OpWord) (s : State) : Host.Outcome State Fault Refusal :=
  .next (fireGo s w 0x82 fun i => fnFire i)

/-- `log2` (R164, R166). -/
def execOpLog2 (w : OpWord) (s : State) : Host.Outcome State Fault Refusal :=
  .next (fireGo s w 0x83 fun i => fnFire i)

/-- `log1p` (R164, R166). -/
def execOpLog1p (w : OpWord) (s : State) : Host.Outcome State Fault Refusal :=
  .next (fireGo s w 0x84 fun i => fnFire i)

/-- `expm1` (R164, R166). -/
def execOpExpm1 (w : OpWord) (s : State) : Host.Outcome State Fault Refusal :=
  .next (fireGo s w 0x85 fun i => fnFire i)

/-- `sin` (R164, R166). -/
def execOpSin (w : OpWord) (s : State) : Host.Outcome State Fault Refusal :=
  .next (fireGo s w 0x86 fun i => fnFire i)

/-- `cos` (R164, R166). -/
def execOpCos (w : OpWord) (s : State) : Host.Outcome State Fault Refusal :=
  .next (fireGo s w 0x87 fun i => fnFire i)

/-- `sinpi` (R164, R166). -/
def execOpSinpi (w : OpWord) (s : State) : Host.Outcome State Fault Refusal :=
  .next (fireGo s w 0x88 fun i => fnFire i)

/-- `cospi` (R164, R166). -/
def execOpCospi (w : OpWord) (s : State) : Host.Outcome State Fault Refusal :=
  .next (fireGo s w 0x89 fun i => fnFire i)

/-- `tanh` (R164, R166). -/
def execOpTanh (w : OpWord) (s : State) : Host.Outcome State Fault Refusal :=
  .next (fireGo s w 0x8A fun i => fnFire i)

/-- `logistic` (R164, R166). -/
def execOpLogistic (w : OpWord) (s : State) : Host.Outcome State Fault Refusal :=
  .next (fireGo s w 0x8B fun i => fnFire i)

/-- `erf` (R164, R166). -/
def execOpErf (w : OpWord) (s : State) : Host.Outcome State Fault Refusal :=
  .next (fireGo s w 0x8C fun i => fnFire i)

/-- `gelu` (R164, R166). -/
def execOpGelu (w : OpWord) (s : State) : Host.Outcome State Fault Refusal :=
  .next (fireGo s w 0x8D fun i => fnFire i)

/-- `rsqrt` (R164, R166). -/
def execOpRsqrt (w : OpWord) (s : State) : Host.Outcome State Fault Refusal :=
  .next (fireGo s w 0x8E fun i => fnFire i)

/-- `sqrt` (R164, R166). -/
def execOpSqrt (w : OpWord) (s : State) : Host.Outcome State Fault Refusal :=
  .next (fireGo s w 0x8F fun i => fnFire i)

/-- `rcp` (R164, R166). -/
def execOpRcp (w : OpWord) (s : State) : Host.Outcome State Fault Refusal :=
  .next (fireGo s w 0x90 fun i => fnFire i)

end Sys2Proof.Machine
end

