-- ==== Sys2Proof/Machine/HostPort.lean ====
section
/-! DEFINITION. The host's side: the aperture, the management window, ingress windows, the invalidation block and Weathervane
blocks (spec/20: R387 to R392, R394, R396, R398; spec/22: R405; spec/23: R421). -/

namespace Sys2Proof.Machine

/-- n bytes read at a physical address for the host, line by line, and whether a line was uncorrectable (R405). -/
def hostBytes (p : Nat) : Nat → State → Nat → Nat → State × Nat × Bool
  | 0, s, _, _ => (s, 0, false)
  | fuel + 1, s, pa, n =>
    if n = 0 then (s, 0, false)
    else
      let k := min n (64 - pa % 64)
      let t := logRead s p 0 pa
      let r := hostBytes p fuel t (pa + k) (n - k)
      (r.1, physRead t pa k + 2 ^ (8 * k) * r.2.1, lineBad t pa || r.2.2)

/-- n bytes written at a physical address for the host, line by line. -/
def hostWrite (p : Nat) : Nat → State → Nat → Nat → Nat → State
  | 0, s, _, _, _ => s
  | fuel + 1, s, pa, n, v =>
    if n = 0 then s
    else
      let k := min n (64 - pa % 64)
      hostWrite p fuel (physWrite (logWrite s p 0 pa k) none pa k (v % 2 ^ (8 * k))) (pa + k) (n - k) (v >>> (8 * k))

/-- A request lies within one 4 KiB page (R389). -/
def onePage (va n : Nat) : Bool := 1 ≤ n && va % 4096 + n ≤ 4096

/-- Counters of MW_HREJ saturate (Table 20.2). -/
def countW (q : Part) : Part := { q with hrejW := min (2 ^ 32 - 1) (q.hrejW + 1) }
def countR (q : Part) : Part := { q with hrejR := min (2 ^ 32 - 1) (q.hrejR + 1) }

/-- The functions of a partition take requests (R394, R395, R416): the boot has passed, and no reset is under way. -/
def takesRequests (s : State) (p : Nat) : Bool := !(getPart s p).inReset && s.bootst != 2

/-- A posted write has room in the host port (R394). -/
def takesPosted (s : State) (p : Nat) : Bool :=
  takesRequests s p && (getPart s p).posted + ((getPart s p).inbound.filter fun x => x.write).length < 256

/-- The host port on which a request of a partition comes and its completion returns: the one bound to it; of both, port 1
where bit 61 of the step's address argument is set (log entry 14). -/
def readPort (s : State) (p off : Nat) : Nat :=
  let m := (pmapOf s p).ports % 4
  if m = 1 then 0 else if m = 2 then 1 else b2n (bit off 61)

/-- The address argument without the port's bit. -/
def plainOff (off : Nat) : Nat := if bit off 61 then off - 2 ^ 61 else off

/-- Completions: successful with data, Unsupported Request, Completer Abort (R388, R389). A completion follows every posted
write that the module has sent on its port (R282). -/
def reply (s : State) (port status data : Nat) : State :=
  { drainHost s port with hostReply := some (status, data) }

/-- An ingress window of a partition (Table 20.3). -/
def ingressOf (s : State) (p w : Nat) : Ingress := (lookupKey (getPart s p).ingress w).getD {}

/-- The address of an ingress descriptor (R390). -/
def ingressVa (w : Nat) : Nat := 0x120000 + 64 * w

/-- An ingress window changed, and W3 to W5 written (R390). -/
def putIngress (s : State) (p w : Nat) (x : Ingress) : State :=
  let s := modPart s p fun q => { q with ingress := putKey q.ingress w x }
  vwriteD s p (ingressVa w + 24) 24 (x.bytes % 2 ^ 64 + 2 ^ 64 * (x.rej % 2 ^ 32 * 2 ^ 32 + x.gdrop % 2 ^ 32) + 2 ^ 128 * (x.fva % 2 ^ 56))

/-- The checks of a window that need no translation (R391): EN, SIZE, requester. -/
def ingressOpen (x : Ingress) (a n rq : Nat) : Bool :=
  bit x.w0 63 && a + n ≤ x.w1 % 2 ^ 35 && (!bit x.w2 63 || bits x.w2 55 40 == rq % 2 ^ 16)

/-- The gauge of a window: element by X, Y and SE, and gauge number (R235); `none` where the image has no such gauge or the
region's state takes no addition (R391). -/
def ingressGauge (s : State) (p : Nat) (x : Ingress) : Option (Rgn × Nat) :=
  let r : Rgn := ⟨p, x.w2 % 64⟩
  let g := getRegion s r
  if g.st = 0 || g.st = 6 then none
  else (g.img.gauges.findIdx? fun q =>
    q.1 == bits x.w2 13 6 && q.2.1 == bits x.w2 19 14 && q.2.2.2.1 == bits x.w2 27 20 && q.2.2.1 == b2n (bit x.w2 28)).map fun k => (r, k + 1)

/-- What follows the last byte of a request (R286, R389, R391): of an ingress write BYTES and one addition to the window's
gauge; of a read its completion. -/
def inboundDone (s : State) (p : Nat) (x : Inbound) : State :=
  if x.write then
    match x.win with
    | none => s
    | some w =>
      let y := ingressOf s p w
      let y := { y with bytes := (y.bytes + x.n) % 2 ^ 64 }
      if !bit y.w2 31 then putIngress s p w y
      else match ingressGauge s p y with
        | some q => creditGauge (putIngress s p w y) q.1 q.2 x.n
        | none => putIngress s p w { y with gdrop := (y.gdrop + 1) % 2 ^ 32 }
  else if x.bad then reply (if x.win.isNone then modPart s p countR else s) x.port 2 0
  else reply s x.port 0 x.data

/-- Request y waits for x, which arrived before it (R282, R392): a posted write, neither with Relaxed Ordering that is honoured,
of one requester as far as the requests tell. -/
def Inbound.before (x y : Inbound) : Bool :=
  x.write && !x.relaxed && !y.relaxed && (x.rq == y.rq || x.rq.isNone || y.rq.isNone)

/-- One line of a request is performed (R274). -/
def inboundLine (s : State) (p : Nat) (x : Inbound) (line : Nat) : State × Inbound :=
  let lo := max x.pa (64 * line)
  let k := min (x.pa + x.n) (64 * line + 64) - lo
  if x.write then (physWrite (logWrite s p 0 lo k) none lo k (byteRange x.data (lo - x.pa) k), x)
  else
    let t := logRead s p 0 lo
    (t, { x with data := x.data + 2 ^ (8 * (lo - x.pa)) * physRead t lo k, bad := x.bad || lineBad t lo })

/-- The j-th line to come of request k of a partition is performed, where no request before it holds it back; with its last line
the request is done. -/
def inboundPiece (s : State) (p k j : Nat) : State :=
  let l := (getPart s p).inbound
  match l[k]? with
  | none => s
  | some x =>
    match x.todo[j]? with
    | none => s
    | some line =>
      if (l.take k).any fun y => y.before x then s
      else
        let q := inboundLine s p x line
        let y : Inbound := { q.2 with todo := x.todo.eraseIdx j }
        if y.todo = [] then inboundDone (modPart q.1 p fun z => { z with inbound := z.inbound.eraseIdx k }) p y
        else modPart q.1 p fun z => { z with inbound := modNth z.inbound k fun _ => y }

/-- Every posted write under way that a later request waits for is performed. -/
def inboundFlush (s : State) (p : Nat) : State :=
  let l := (getPart s p).inbound
  (List.range ((l.map fun x => x.todo.length).sum)).foldl (fun s _ =>
    match (getPart s p).inbound.findIdx? fun x => x.write && !x.relaxed with
    | some k => inboundPiece s p k 0
    | none => s) s

/-- The physical lines of a request. -/
def linesOf (pa n : Nat) : List Nat := (List.range (cdiv (pa % 64 + n) 64)).map fun i => lineOf pa + i

/-- A request that has passed its checks is performed: at once, behind what it waits for, or line by line from now on (R274). -/
def inboundTake (s : State) (p : Nat) (x : Inbound) : State :=
  if (getPart s p).byLine then modPart s p fun q => { q with inbound := q.inbound ++ [{ x with todo := linesOf x.pa x.n }] }
  else
    let s := inboundFlush s p
    if x.write then inboundDone (hostWrite p 66 s x.pa x.n x.data) p x
    else
      let r := hostBytes p 66 s x.pa x.n
      inboundDone r.1 p { x with data := r.2.1, bad := r.2.2 }

/-- The step HOST_APERTURE_WRITE (R389, R394): n bytes at aperture offset off; dropped whole and counted where it is
refused. -/
def execEvHostApertureWrite (p off n data : Nat) (s : State) : Host.Outcome State Fault Refusal :=
  let va := (getPart s p).apbase + off
  if !takesPosted s p || !onePage va n then .next (modPart s p countW)
  else match xlatW s p va with
    | .error _ => .next (modPart (logWalk s [] p va) p countW)
    | .ok pa => .next (inboundTake (logWalk s [] p va) p { write := true, va := va, pa := pa, n := n, data := data, todo := [] })

/-- BAR0 stands at this offset of the step's address argument (log entry 14). -/
def bar0 : Nat := 2 ^ 62

/-- A register of the management window as 8 bytes (Table 20.2). -/
def mwReg (s : State) (p o : Nat) : Nat :=
  let q := getPart s p
  let m := pmapOf s p
  match o with
  | 0x000 => 0x7E08 * 2 ^ 48 + 1 * 2 ^ 40 + p % 16 * 2 ^ 8
  | 0x008 => 0x0100010101000000
  | 0x010 => (if m.valid then m.dmask % 256 * 2 ^ 8 + m.ports % 4 * 2 ^ 4 + m.half % 4 else 0)
  | 0x018 => q.almbase
  | 0x020 => q.almseq
  | 0x028 => q.apbase
  | 0x030 => q.hrejW * 2 ^ 32 + q.hrejR
  | _ =>
    let k := (o - 0x40) / 8
    if 0x40 ≤ o && k < 18 && ownsLinkPort s p k then
      let ls := (List.range 4).map fun n => nth s.lanes (4 * k + n) {}
      let l := ls.headD {}
      l.major % 256 * 2 ^ 24 + l.minor % 256 * 2 ^ 16 + (ls.zipIdx.map fun x => b2n (x.1.up && !x.1.lost) * 2 ^ x.2).sum
    else 0

/-- A read of BAR0 (R389): naturally aligned, 4 or 8 bytes. -/
def mwRead (s : State) (p o n : Nat) : Option Nat :=
  if (n = 4 || n = 8) && o % n = 0 && o < 4096 then some (byteRange (mwReg s p (o / 8 * 8)) (o % 8) n) else none

/-- The step HOST_APERTURE_READ (R389, R394, R405): data, or Completer Abort and a count; of a partition in reset,
Unsupported Request. Offsets from `bar0` up read the management window. -/
def execEvHostApertureRead (p off n : Nat) (s : State) : Host.Outcome State Fault Refusal :=
  let port := readPort s p off
  let off := plainOff off
  if !takesRequests s p then .next (reply s port 1 0)
  else if bar0 ≤ off then
    (match mwRead s p (off - bar0) n with
     | some v => .next (reply s port 0 v)
     | none => .next (reply s port 1 0))
  else
    let va := (getPart s p).apbase + off
    match (if onePage va n then xlatR s p va else .error .translation) with
    | .error _ => .next (reply (modPart (logWalk s [] p va) p countR) port 2 0)
    | .ok pa => .next (inboundTake (logWalk s [] p va) p { write := false, va := va, pa := pa, n := n, port := port, todo := [] })

/-- The new value of a PCIe AtomicOp (R388): FetchAdd (0), Swap (1), CAS (2) of x, with y the new value of CAS. -/
def pcieAtomic (op n old x y : Nat) : Nat :=
  match op with
  | 0 => (old + x) % 2 ^ (8 * n)
  | 1 => x % 2 ^ (8 * n)
  | _ => if old = x % 2 ^ (8 * n) then y % 2 ^ (8 * n) else old

/-- The step HOST_APERTURE_ATOMIC (R388, R389): at the owning port of HBM, 32 or 64 bits, naturally aligned. -/
def execEvHostApertureAtomic (p off n op x y : Nat) (s : State) : Host.Outcome State Fault Refusal :=
  let port := readPort s p off
  if !takesRequests s p || !(n == 4 || n == 8) || 2 < op then .next (reply s port 1 0)
  else
    let va := (getPart s p).apbase + plainOff off
    match (if va % n = 0 then xlat s p { r := true, w := true } va else .error .translation) with
    | .error _ => .next (reply (modPart (logWalk s [] p va) p countR) port 2 0)
    | .ok pa =>
      let s := inboundFlush (logWalk s [] p va) p
      if !ownsHbm s p pa then .next (reply (modPart s p countR) port 2 0)
      else
        let r := hostBytes p 2 s pa n
        if r.2.2 then .next (reply (modPart r.1 p countR) port 2 0)
        else .next (reply (hostWrite p 2 r.1 pa n (pcieAtomic op n r.2.1 x y)) port 0 r.2.1)

/-- The step MW_APBASE_WRITE (R389, Table 20.2): a naturally aligned write of 4 or 8 bytes to MW_APBASE keeps [55:12]. -/
def execEvMwApbaseWrite (p off n data : Nat) (s : State) : Host.Outcome State Fault Refusal :=
  if !takesPosted s p then .next (modPart s p countW)
  else if (n = 4 || n = 8) && off % n = 0 && off / 8 = 5 then
    .next (modPart s p fun q => { q with apbase := setByteRange q.apbase (off % 8) n data % 2 ^ 56 / 4096 * 4096 })
  else .next s

/-- The step REGISTER_WRITE (R389): a host write to any other register is ignored. -/
def execEvRegisterWrite (p _off _n _data : Nat) (s : State) : Host.Outcome State Fault Refusal :=
  .next (if takesPosted s p then s else modPart s p countW)

/-- The step INGRESS_WRITE (R390 to R392): n bytes at BAR4 offset off from requester rq. The bytes are performed, then the
gauge takes one addition; or the write is dropped and counted. With Relaxed Ordering, which a window with RLX = 1 honours, it is
ordered against nothing. -/
def execEvIngressWrite (p off n data rq : Nat) (ro : Bool) (s : State) : Host.Outcome State Fault Refusal :=
  let w := off / 2 ^ 34
  let a := off % 2 ^ 34
  let x := ingressOf s p w
  let va := bits x.w0 55 0 / 4096 * 4096 + a
  if !takesPosted s p then .next (modPart s p countW)
  else if 64 ≤ w then .next s
  else if !ingressOpen x a n rq || n = 0 then .next (putIngress s p w { x with rej := (x.rej + 1) % 2 ^ 32 })
  else match (if onePage va n then xlatW s p va else .error .translation) with
    | .error _ => .next (putIngress (logWalk s [] p va) p w { x with rej := (x.rej + 1) % 2 ^ 32, fva := if x.fva = 0 then va % 2 ^ 56 else x.fva })
    | .ok pa => .next (inboundTake (logWalk s [] p va) p
        { write := true, win := some w, va := va, pa := pa, n := n, data := data, rq := some rq, relaxed := ro && bit x.w0 62, todo := [] })

/-- The step INGRESS_READ (R391): the same checks, with R; Completer Abort on failure. -/
def execEvIngressRead (p off n rq : Nat) (s : State) : Host.Outcome State Fault Refusal :=
  let port := readPort s p off
  let off := plainOff off
  let w := off / 2 ^ 34
  let a := off % 2 ^ 34
  let x := ingressOf s p w
  let va := bits x.w0 55 0 / 4096 * 4096 + a
  if !takesRequests s p then .next (reply s port 1 0)
  else if 64 ≤ w || !ingressOpen x a n rq then .next (reply s port 2 0)
  else match (if onePage va n then xlatR s p va else .error .translation) with
    | .error _ => .next (reply (logWalk s [] p va) port 2 0)
    | .ok pa => .next (inboundTake (logWalk s [] p va) p
        { write := false, win := some w, va := va, pa := pa, n := n, rq := some rq, port := port, todo := [] })

/-- The step INGRESS_DESCRIPTOR_UPDATE (R390): W0 to W2 read again; FVA counts from when EN is set. -/
def execEvIngressDescriptorUpdate (p win : Nat) (s : State) : Host.Outcome State Fault Refusal :=
  if 64 ≤ win then .next s
  else match vread s p (ingressVa win) 24 with
    | .error _ => .next s
    | .ok v =>
      let x := ingressOf s p win
      let opens := bit v 63 && !bit x.w0 63
      .next (putIngress (logVread s p 0 (ingressVa win)) p win
        { x with w0 := byteRange v 0 8, w1 := byteRange v 8 8, w2 := byteRange v 16 8, fva := if opens then 0 else x.fva })

/-- A cached translation of the partition's own table covers pages of a range. -/
def TlbEnt.inRange (t : TlbEnt) (q : InvalReq) : Bool :=
  t.far.isNone && (q.all || (q.vpn * 4096 < t.base + 2 ^ t.size && t.base < (q.vpn + q.npages) * 4096))

/-- A walker's entry of the partition covers pages of a range. -/
def WalkEnt.inRange (w : WalkEnt) (p : Nat) (q : InvalReq) : Bool :=
  w.part == p && (q.all || (q.vpn * 4096 < (w.base + 1) * 2 ^ levelShift w.lv && w.base * 2 ^ levelShift w.lv < (q.vpn + q.npages) * 4096))

/-- A virtual 4 KiB page lies in a range. -/
def pageIn (q : InvalReq) (page : Nat) : Bool := q.all || (q.vpn ≤ page && page < q.vpn + q.npages)

/-- A page that an access still uses: of one of its pieces that is translated and not performed (R332). -/
def Access.uses (a : Access) (page : Nat) : Bool := (a.pieces.take a.xl).any fun p => !p.done && p.els.any fun e => e.2 / 4096 == page

/-- The pages of a range that a held access keeps for pieces at its frontier or above it are dropped: it translates them again
when it goes on (R334, R387). -/
def forgetPages (q : InvalReq) (a : Access) : Access :=
  if a.held.isSome then { a with pages := a.pages.filter fun x => !pageIn q x.1 || a.uses x.1 } else a

/-- Every port, core and walker drops the translations of a range of a partition, and held accesses the pages that they keep
(R386, R387). -/
def dropCached (s : State) (p : Nat) (q : InvalReq) : State :=
  let keep (l : List TlbEnt) : List TlbEnt := l.filter fun t => !t.inRange q
  let port (e : Elem) : Elem := { e with port := { e.port with tlb := keep e.port.tlb, accs := e.port.accs.map (forgetPages q) } }
  let s := modPart s p fun x => { x with regions := x.regions.map fun y => (y.1, { y.2 with elems := y.2.elems.map port }) }
  { s with cores := s.cores.mapFinIdx fun i c _ => if ownsCore s p i then { c with tlb := keep c.tlb } else c
           walkc := s.walkc.map fun l => l.filter fun w => !w.inRange p q }

/-- An invalidation begins: the caches drop the range, and INVs go out on the partition's `rmem` lane groups (R322, R387). -/
def dropRange (s : State) (p : Nat) (q : InvalReq) : State :=
  let s := dropCached s p q
  let first := if q.all then 0 else q.vpn
  let n := if q.all then 2 ^ 44 else q.npages
  let clk := s.clk
  let inv (l : Lane) : Lane := { l.post [ctlFlit ckInv first n 0] with invsOut := l.invsOut ++ [(first, n, clk)] }
  { s with lanes := s.lanes.map fun (l : Lane) => match l.bind, laneBind s l with
      | some b, some k => if b.1 = p && k.form = 1 && l.up && !l.lost then inv l else l
      | _, _ => l }

/-- The invalidation block (R387). -/
def invalVa : Nat := 0x110000

/-- A request is answered: GO = 0, with SEQ. -/
def endInval (s : State) (p w0 seq : Nat) : State :=
  vwriteD (vwriteD s p invalVa 8 (w0 % 2 ^ 63)) p (invalVa + 16) 4 seq

/-- The step INVALIDATION_REQUEST (R387): the hardware takes a request. With a reserved bit set it completes with nothing
dropped and SEQ unchanged; of no pages, it completes at once. -/
def execEvInvalidationRequest (p : Nat) (s : State) : Host.Outcome State Fault Refusal :=
  let q := getPart s p
  match vread s p invalVa 16 with
  | .error _ => .next s
  | .ok v =>
    let s := logVread s p 0 invalVa
    let w0 := v % 2 ^ 64
    let w1 := v >>> 64
    if !bit w0 63 || q.inval.isSome then .next s
    else if bits w0 61 56 ≠ 0 || bits w0 11 0 ≠ 0 || w1 / 2 ^ 32 ≠ 0 then .next (endInval s p w0 q.invalSeq)
    else if !bit w0 62 && w1 % 2 ^ 32 = 0 then
      let n := (q.invalSeq + 1) % 2 ^ 32
      .next (endInval (modPart s p fun q => { q with invalSeq := n }) p w0 n)
    else
      let r : InvalReq := { all := bit w0 62, vpn := bits w0 55 12, npages := w1 % 2 ^ 32 }
      .next (dropRange (modPart s p fun q => { q with inval := some r }) p r)

/-- An access of a partition's ports still uses a translation of a range (R387). -/
def usesRange (s : State) (p : Nat) (q : InvalReq) : Bool :=
  (getPart s p).regions.any fun y => y.2.elems.any fun (e : Elem) => e.port.accs.any fun (a : Access) =>
    a.begun && !a.performed && a.pages.any fun x => pageIn q x.1 && (a.held.isNone || a.uses x.1)

/-- The step INVALIDATION_COMPLETE (R387): no access uses the range, far accesses are at their targets, every INV is answered or
cut off. What a walk has cached of the range since the request was taken, and what accesses held since then keep, is dropped. -/
def execEvInvalidationComplete (p : Nat) (s : State) : Host.Outcome State Fault Refusal :=
  let q := getPart s p
  match q.inval with
  | none => .next s
  | some r =>
    let waiting := usesRange s p r || (q.inbound.any fun x => pageIn r (x.va / 4096))
      || ((List.range 32).any fun k => ownsCore s p k && match s.cores[k]? with | some c => c.buf != [] | none => false)
      || s.lanes.any fun (l : Lane) => match l.bind with | some b => b.1 == p && l.invsOut != [] | none => false
    if waiting then .next s
    else
      let s := dropCached (drainHost (drainHost s 0) 1) p r
      let n := (q.invalSeq + 1) % 2 ^ 32
      match vread s p invalVa 8 with
      | .error _ => .next (modPart s p fun q => { q with inval := none, invalSeq := n })
      | .ok w0 => .next (endInval (modPart s p fun q => { q with inval := none, invalSeq := n }) p w0 n)

/-- The address of a die's Weathervane block (R396). -/
def wvaneVa (d : Nat) : Nat := 0x130000 + 512 * d

/-- The Weathervane of a die of a partition. -/
def wvaneOf (s : State) (p d : Nat) : WVane := (lookupKey (getPart s p).wvane d).getD {}

/-- The step WEATHERVANE_UPDATE (R396): the block is read again; RHEAD and DROPS are the hardware's. -/
def execEvWeathervaneUpdate (p d : Nat) (s : State) : Host.Outcome State Fault Refusal :=
  if !bit (partDies s p) d then .next s
  else match vreadLong s p 8 (wvaneVa d) 0xB0 with
    | .error _ => .next s
    | .ok v =>
      let x := wvaneOf s p d
      let y := { x with taps := lanes 64 16 v, rbase := bits (byteRange v 0x80 8) 55 0, rsize := bits (byteRange v 0x88 8) 32 0,
                        rtail := bits (byteRange v 0x98 8) 32 0, cen := bit (byteRange v 0xA8 8) 0 }
      .next (modPart (logVreadLong s p 0 8 (wvaneVa d) 0xB0) p fun q => { q with wvane := putKey q.wvane d y })

/-- A record at RBASE + RHEAD modulo RSIZE, in pieces of 64 bytes (R397). -/
def ringWrite (p : Nat) : Nat → State → WVane → Nat → Nat → Nat → State
  | 0, s, _, _, _, _ => s
  | fuel + 1, s, w, at_, n, v =>
    if n = 0 then s
    else ringWrite p fuel (vwriteD s p (w.rbase + at_ % w.rsize) 64 (v % 2 ^ 512)) w (at_ + 64) (n - 64) (v >>> 512)

/-- Every byte of a record's place in the ring is mapped writable. -/
def ringMapped (s : State) (p : Nat) (w : WVane) (at_ n : Nat) : Bool :=
  (List.range (n / 64)).all fun i => (xlatW s p (w.rbase + (at_ + 64 * i) % w.rsize)).isOk

/-- The step TAP_COPY (R397, R398): the oldest record of a die's trace FIFO enters the ring, RHEAD following it with a release,
or is dropped whole: with the ring full, or its place not mapped writable (no record is partly written; log entry 71). -/
def execEvTapCopy (p d : Nat) (s : State) : Host.Outcome State Fault Refusal :=
  let x := wvaneOf s p d
  match x.fifo with
  | [] => .next s
  | f :: r =>
    let used := (x.rhead + f.2 + 2 ^ 33 - x.rtail) % 2 ^ 33
    let lost := x.rsize < used || !ringMapped s p x x.rhead f.2
    let y := if lost then { x with fifo := r, drops := (x.drops + 1) % 2 ^ 64 }
      else { x with fifo := r, rhead := (x.rhead + f.2) % 2 ^ 33 }
    let s := if lost then s else ringWrite p 70 s x x.rhead f.2 f.1
    let s := modPart s p fun q => { q with wvane := putKey q.wvane d y }
    .next (vwriteD (vwriteD s p (wvaneVa d + 0x90) 8 y.rhead) p (wvaneVa d + 0xA0) 8 y.drops)

end Sys2Proof.Machine
end

