-- ==== Sys2Proof/Machine/WordRules.lean ====
section
/-! DEFINITION. The encoding rules that an armed slot's operation word must meet (spec/03: R64 to R71; spec/04: R88;
spec/05: R116, R117, R121; spec/06: R149; spec/07: R165; spec/08: R175, R176; spec/01: R27, R28). -/

namespace Sys2Proof.Machine

/-- What an operand position may hold (Tables 4.1, 5.3, 6.2, 7.2, 8.1). -/
inductive PosRule where
  /-- — : code 31 -/
  | no
  /-- T: code 0 or 1 -/
  | tok
  /-- code 0 -/
  | mat
  /-- T, 2 or 3 -/
  | ctl
  /-- V: codes 0 to 3, 8, 9 -/
  | val
  /-- V or — -/
  | valNo
  /-- T or — -/
  | tokNo
  /-- codes 4 to 7 -/
  | bank
  /-- codes 4 to 7 or 9 -/
  | bank9
  /-- T, 3 or 9 -/
  | atom
  /-- T or 3 -/
  | tokSt
  /-- T, 2, 3 or 9 -/
  | thr
  deriving DecidableEq, Repr

/-- A source code stands in a position. -/
def PosRule.ok (p : PosRule) (c : Nat) : Bool :=
  match p with
  | .no => c == 31
  | .tok => c < 2
  | .mat => c == 0
  | .ctl => c < 4
  | .val => c < 4 || c == 8 || c == 9
  | .valNo => c < 4 || c == 8 || c == 9 || c == 31
  | .tokNo => c < 2 || c == 31
  | .bank => 4 ≤ c && c < 8
  | .bank9 => (4 ≤ c && c < 8) || c == 9
  | .atom => c < 2 || c == 3 || c == 9
  | .tokSt => c < 2 || c == 3
  | .thr => c < 4 || c == 9

/-- The mod classes (R67); a class V opcode lists its variants. -/
inductive ModClass where
  | r
  | c
  | f
  | v (top : Nat)
  deriving DecidableEq, Repr

/-- A row of the encoding tables: mod class and operand positions. -/
structure OpRow where
  cls : ModClass
  a : PosRule
  b : PosRule
  c : PosRule
  deriving DecidableEq, Repr

/-- The rows of the tables; `none` for an opcode that Table 3.6 does not assign. `ld` and `st` take MOD 0 to 5 and 0 to 4. -/
def opRow (opc mod : Nat) : Option OpRow :=
  let r (m : ModClass) (a b c : PosRule) : Option OpRow := some ⟨m, a, b, c⟩
  match opc with
  | 0x00 => r (.v 0) .tok .ctl .no
  | 0x01 => r (.v 0) .tok .ctl .no
  | 0x02 => r (.v 0) .tok .tok .no
  | 0x03 => r (.v 0) .mat .mat .mat
  | 0x04 => r (.v 0) .tok .no .no
  | 0x05 => r (.v 1) .tok .ctl .no
  | 0x06 => r (.v 0) .tok .no .no
  | 0x07 => r (.v 0) .tok .no .no
  | 0x08 => r (.v 0) .tok .tok .no
  | 0x09 => r (.v 0) .tok .no .no
  | 0x0A => r (.v 0) .tok .no .no
  | 0x0B => r (.v 0) .tok .no .no
  | 0x0C => r (.v 0) .tok .no .no
  | 0x0D => r (.v 0) .tok .ctl .no
  | 0x0E => r (.v 0) .tok .no .no
  | 0x0F => r (.v 0) .tok .no .no
  | 0x10 => r (.v 0) .tok .no .no
  | 0x11 => r (.v 0) .tok .no .no
  | 0x20 => r .r .val .val .no
  | 0x21 => r .r .val .val .no
  | 0x22 => r .r .val .val .no
  | 0x23 => r .r .val .val .val
  | 0x24 => r (.v 1) .val .val .no
  | 0x25 => r (.v 1) .val .val .no
  | 0x26 => r (.v 0) .val .no .no
  | 0x27 => r (.v 0) .val .no .no
  | 0x28 => r .c .val .val .no
  | 0x29 => r (.v 0) .val .val .val
  | 0x2A => r (.v 0) .val .val .val
  | 0x2B => r .r .val .val .no
  | 0x2C => r .r .val .val .no
  | 0x2D => r (.v 1) .val .no .no
  | 0x2E => r .r .val .val .valNo
  | 0x30 => r (.v 0) .val .val .no
  | 0x31 => r (.v 0) .val .val .no
  | 0x32 => r (.v 0) .val .val .no
  | 0x33 => r (.v 0) .val .no .no
  | 0x34 => r (.v 0) .val .valNo .no
  | 0x35 => r (.v 0) .val .valNo .no
  | 0x36 => r (.v 0) .val .valNo .no
  | 0x37 => r (.v 0) .val .no .no
  | 0x38 => r (.v 0) .val .no .no
  | 0x40 => r .r .tok .no .no
  | 0x41 => r (.v 1) .tok .no .no
  | 0x42 => r (.v 0) .tok .tok .no
  | 0x43 => r (.v 1) .tok .no .no
  | 0x44 => r (.v 5) .tok .tokNo .no
  | 0x45 => r (.v 1) .tok .no .no
  | 0x46 => r (.v 0) .tok .no .no
  | 0x47 => r (.v 1) .tok .no .no
  | 0x48 => r .r .tok .no .no
  | 0x49 => r (.v 1) .tok .no .no
  | 0x4A => r (.v 1) .tok .no .no
  | 0x4B => r .r .tok .tok .tokNo
  | 0x60 => r (.v 0) .tok .tok .bank9
  | 0x61 => r (.v 0) .tok .tok .bank9
  | 0x62 => r (.v 0) .tok .tok .bank9
  | 0x63 => r (.v 0) .tok .no .bank
  | 0x64 => r (.v 0) .tok .no .bank
  | 0x65 => r (.v 0) .tok .no .bank
  | 0x66 => r .r .tok .val .no
  | 0x67 => r .r .tok .val .no
  | 0x68 => r .r .tok .val .no
  | 0x69 => r (.v 1) .tok .val .no
  | 0x6A => r (.v 1) .tok .val .no
  | 0x6B => r (.v 0) .tok .no .no
  | 0x6C => r .r .tok .no .no
  | 0xA0 => r (.v 5) .tok .no .tokNo
  | 0xA1 => r (.v 4) .tok .tok .tokNo
  | 0xA2 => r (.v 0) .tok .no .tokNo
  | 0xA3 => r (.v 0) .tok .tok .tokNo
  | 0xA4 => r (.v 0) .tok .no .tokNo
  | 0xA5 => r (.v 0) .tok .no .no
  | 0xA6 => r (.v 0) .tok .tok .tokNo
  | 0xA7 => r (.v 2) .tok .tok .tokNo
  | 0xA8 => r (.v 3) .tok (if mod = 0 then .tok else .no) .tokNo
  | 0xB0 => r (.v 0) .tok .atom .tokNo
  | 0xB1 => r (.v 0) .tok .atom .tokNo
  | 0xB2 => r (.v 0) .tok .atom .tokNo
  | 0xB3 => r (.v 0) .tok .atom .tokNo
  | 0xB4 => r (.v 0) .tok .atom .tokNo
  | 0xB5 => r (.v 0) .tok .atom .tokNo
  | 0xB6 => r (.v 0) .tok .atom .tokNo
  | 0xB7 => r (.v 0) .tok .atom .atom
  | 0xB8 => r (.v 0) .tok .atom .tokNo
  | 0xC0 => r (.v 1) .tokSt .no .no
  | 0xC1 => r (.v 0) .tokSt .no .no
  | 0xC2 => r (.v 0) .tok .tokNo .no
  | 0xC3 => r (.v 0) .tok .no .no
  | 0xC4 => r (.v 0) .tok .no .no
  | 0xC5 => r .c .tok .thr .no
  | 0xC6 => r (.v 0) .tok .tok .no
  | 0xFF => r (.v 0) .tokNo .tokNo .tokNo
  | _ => if 0x80 ≤ opc && opc ≤ 0x90 then r .f .tok .no .no else none

/-- MOD by its class (R28, R67). -/
def ModClass.ok (m : ModClass) (mod : Nat) : Bool :=
  match m with
  | .r => mod ≤ 6
  | .c => mod ≤ 0xB
  | .f => if 8 ≤ mod then mod == 8 else mod ≤ 4
  | .v top => mod ≤ top

/-- The local forms of `ld` and `st` (Table 8.1). -/
def localForm (opc mod : Nat) : Bool := (opc == 0xA0 || opc == 0xA1) && 2 ≤ mod && mod ≤ 4

/-- An opcode that stands only in a stack element (R175). -/
def portOnly (opc mod : Nat) : Bool :=
  opc == 0x0D || opc == 0xC5 || opc == 0xC6 || (0xA0 ≤ opc && opc ≤ 0xB8 && !localForm opc mod)

/-- The dataflow and tag group, `nop` with it. -/
def flowGroup (opc : Nat) : Bool := opc < 0x20 || opc == 0xFF

/-- IMM12 of the dataflow group (Table 4.1). -/
def imm12Ok (opc : Nat) (w : OpWord) : Bool :=
  let n := w.imm12
  match opc with
  | 0x00 => n < 32
  | 0x01 => 2 ≤ n && n ≤ 32 && w.dest.toNat + n ≤ 32
  | 0x04 => n < 2048
  | 0x06 => 1 ≤ n && n < 256
  | 0x0A | 0x10 | 0x11 => true
  | 0x0D => n % 64 == 0
  | _ => n == 0

/-- SHAPE and IMM10 of the scalar and vector group, as far as the word alone fixes them (Table 5.3). -/
def vecAuxOk (opc : Nat) (w : OpWord) : Bool :=
  let n := w.imm10
  let m := w.mod.toNat
  let sh := w.shape
  let vec := opc == 0x2E || opc == 0x41 || opc == 0x42 || opc == 0x43 || opc == 0x44 || opc == 0x45 || opc == 0x46
    || (0x48 ≤ opc && opc ≤ 0x4B)
  sh != 3 && (!vec || sh == 2) &&
  match opc with
  | 0x22 | 0x2B | 0x48 => n ≤ 1
  | 0x34 | 0x35 | 0x36 => if w.src 1 = 31 then n < 128 else n == 0
  | 0x41 => n < 4 && (n < 2 || m == 0)
  | 0x44 => (if m = 1 || m = 2 then n < 128 else n == 0) && (if 1 ≤ m && m ≤ 3 then w.src 1 == 31 else w.src 1 != 31)
  | 0x45 => if m = 1 then n < 128 else n == 0
  | 0x46 => true
  | 0x4B => n < 3
  | _ => n == 0

/-- BANK and IMM10 of the tile group (R68, R149). -/
def tileAuxOk (opc : Nat) (w : OpWord) : Bool :=
  let c := w.src 2
  let bank := w.shape
  (if 4 ≤ c && c < 8 then bank == c - 4 else if c = 31 then bank == 0 else true) && (opc == 0x65 || w.imm10 == 0)

/-- ORD values that a port form takes (Table 8.1). -/
def ordOk (opc mod ord : Nat) : Bool :=
  match opc with
  | 0xA0 | 0xA2 => ord ≤ 1
  | 0xA1 | 0xA3 | 0xA6 | 0xA7 => ord == 0 || ord == 2
  | 0xA8 => if mod = 0 then ord == 0 || ord == 2 else ord ≤ 1
  | _ => ord ≤ 2

/-- SHAPE, STREAM, SCOPE and ORD of the memory group (R68, R176). -/
def memAuxOk (opc : Nat) (w : OpWord) : Bool :=
  let m := w.mod.toNat
  let sh := w.shape
  let shapeOk :=
    match opc with
    | 0xA0 | 0xA1 => if m = 3 || m = 4 then sh == 3 else true
    | 0xA2 | 0xA3 | 0xA8 | 0xC5 | 0xC6 => sh == 3
    | 0xA4 => sh == 2
    | 0xA7 => sh == 2 || sh == 3
    | 0xA5 | 0xA6 | 0xC0 | 0xC1 | 0xC2 | 0xC3 | 0xC4 => sh == 0
    | _ => sh ≤ 1
  let none_ := w.stream == 0 && w.scope == 0 && w.ord == 0
  shapeOk &&
  (if localForm opc m || opc = 0xC0 || opc = 0xC1 || opc = 0xC2 || opc = 0xC3 || opc = 0xC5 || opc = 0xC6 then none_
   else if opc = 0xA4 then w.scope == 0 && w.ord == 0
   else if opc = 0xA5 then w.scope != 3 && w.ord == 0 && w.stream == 0
   else if opc = 0xC4 then (w.scope == 0 || w.scope == 2) && w.ord == 0 && w.stream == 0
   else w.scope != 3 && (w.ord == 0 || w.scope != 0) && ordOk opc m w.ord)

/-- AUX by the opcode's group (R68). EOSM stands only with a HEAD operand. -/
def auxOk (opc : Nat) (w : OpWord) : Bool :=
  let head := w.src 0 == 1 || w.src 1 == 1 || w.src 2 == 1
  w.eosm != 3 && (w.eosm == 0 || head) &&
  (if flowGroup opc then imm12Ok opc w
   else if opc < 0x60 then vecAuxOk opc w
   else if opc < 0x80 then tileAuxOk opc w
   else if opc < 0xA0 then w.eosm == 0 && w.shape != 1 && w.imm10 == 0
   else memAuxOk opc w)

/-- An opcode that reads the record that FMT names (R69, Table 8.1). -/
def usesRecord (opc : Nat) : Bool :=
  opc == 0x0B || (0x20 ≤ opc && opc < 0xA4) || (0xA7 ≤ opc && opc < 0xC0) || opc == 0xC5 || opc == 0xC6

/-- SAT may be 1 (R69, R117, R149). -/
def satOk (opc : Nat) : Bool :=
  if flowGroup opc || 0xA0 ≤ opc then false
  else if opc < 0x60 then
    !((0x30 ≤ opc && opc ≤ 0x38) || opc == 0x28 || opc == 0x29 || opc == 0x2D || opc == 0x44 || opc == 0x45 || opc == 0x47)
  else if opc < 0x80 then opc == 0x66 || opc == 0x67 || opc == 0x68 || opc == 0x6C
  else true

/-- An opcode that sends to no entry (R66). -/
def noDest (opc : Nat) : Bool := opc == 0x07 || opc == 0x0C || opc == 0x10 || opc == 0xFF

/-- TAGA must be 00 (Table 4.1). -/
def noTaga (opc : Nat) : Bool := opc == 0x04 || opc == 0x06 || opc == 0x07 || opc == 0xFF

/-- An operation word keeps every rule that the word alone can break (R64 to R70). -/
def wordOk (opc : Nat) (w : OpWord) : Bool :=
  match opRow opc w.mod.toNat with
  | none => false
  | some r =>
    r.cls.ok w.mod.toNat && r.a.ok (w.src 0) && r.b.ok (w.src 1) && r.c.ok (w.src 2) && auxOk opc w
      && w.taga != 3 && (!noTaga opc || w.taga == 0) && (!noDest opc || w.dest == 0) && (usesRecord opc || w.fmt == 0)
      && (!w.sat || satOk opc) && (w.gen || (!w.gsense && w.gidx == 0)) && !(w.gen && w.gsense && w.gidx == 15)
      && (w.pact != 0 || w.pidx == 0) && (opc != 0xFF || w.pact == 0) && (opc != 0x02 || w.src 0 == w.src 1)
      && !(opc == 0x22 && w.imm10 == 1 && w.sat)

/-- A format record with no reserved value (R27). -/
def recordOk (r : Nat) : Bool := bits r 15 12 ≤ 13 && bits r 11 9 ≤ 5 && bits r 5 0 == 0

/-- "float" and "int" of Tables 5.3 and 6.2 by format code. -/
def isFloatCode (f : Nat) : Bool := f ≤ 4
def isIntCode (f : Nat) : Bool := 8 ≤ f && f ≤ 13

/-- The formats that an opcode takes in its record (Tables 5.3, 6.2, 7.2, 8.1, 8.5). -/
def fmtFits (opc : Nat) (w : OpWord) (f : Nat) : Bool :=
  let m := w.mod.toNat
  let mx := fmtIsMx f
  match opc with
  | 0x0B => !mx
  | 0x2C | 0x2D => isFloatCode f
  | 0x2E => !mx && f != 13
  | 0x41 => f == 3 || (f == 4 && w.imm10 == 3)
  | 0x46 => isIntCode f
  | 0x47 => if m = 0 then f == 12 else f == 0
  | 0x4B => f ≤ 2
  | 0x60 => f == 1 || f == 2
  | 0x61 => f == 5
  | 0x62 => f == 1 || f == 2 || f == 3 || f == 4 || f == 8
  | 0x63 | 0x64 | 0x65 => f == 0 || f == 11
  | 0x66 | 0x67 | 0x68 | 0x69 | 0x6A => !mx && f != 13
  | 0x6B => !mx
  | 0x6C => f != 13
  | 0xA0 => !mx || (m == 0 && w.shape == 3)
  | 0xA1 => !mx || (m == 0 && w.shape == 3)
  | 0xA7 => f == 0 || f == 1 || f == 2 || f == 11 || (f == 12 && m != 0)
  | 0xA8 => f == 0
  | 0xB0 | 0xB1 | 0xB2 | 0xB6 | 0xB7 => f == 0 || f == 11 || f == 12 || f == 13
  | 0xB3 | 0xB4 | 0xB5 | 0xB8 => f == 11 || f == 12 || f == 13
  | _ =>
    if 0x30 ≤ opc && opc ≤ 0x38 then isIntCode f
    else if 0x80 ≤ opc && opc ≤ 0x90 then isFloatCode f
    else !mx

/-- Conversions, in which RNA and SR are legal (R28). -/
def isConversion (opc : Nat) : Bool := (0x40 ≤ opc && opc ≤ 0x43) || opc == 0x6C

/-- The record's rounding stands where MOD names none: 0 RNE, 1 RTZ, 2 RUP, 3 RDN, 4 RNA, 5 SR (R28). -/
def effRnd (cls : ModClass) (mod rnd : Nat) : Nat :=
  match cls with
  | .r => if mod = 0 then rnd else mod - 1
  | _ => rnd

/-- Rounding rules that need the record (R28, R67, R117, R165). -/
def rndOk (opc : Nat) (cls : ModClass) (w : OpWord) (r : Nat) : Bool :=
  let m := w.mod.toNat
  let rnd := bits r 11 9
  match cls with
  | .r => (isConversion opc || effRnd cls m rnd ≤ 3) && (!isIntCode (bits r 15 12) || m == 0 || isConversion opc)
  | .f => (m != 0 && m != 8) || rnd ≤ 3
  | _ => true

/-- The compare conditions by format (R67, R202). -/
def condOk (m f : Nat) : Bool := if m = 6 || m = 7 then isFloatCode f else m < 8 || isIntCode f

/-- The lanes of a vector. -/
def lanesOf (f : Nat) : Nat := 1024 / max 1 (fmtWidth f)

/-- An operation word keeps every rule that its format record can break (R27, R28, R67, R68, R70, R116, R121, R149). A slot whose
opcode uses no record selects none, though its field holds 0: a malformed f0 is no fault of that slot (DEDUCED, log entry 31).
`pack` with INT64 and `unpack` with an 8-bit record leave their operand no format (R137, R138): the slot is refused with
ILLEGAL_OP here, not the edge with FORMAT_EDGE (the model's choice, log entry 60). -/
def recOk (opc : Nat) (w : OpWord) (r : Nat) : Bool :=
  if !usesRecord opc then true
  else
    let f := bits r 15 12
    let m := w.mod.toNat
    let cls := match opRow opc m with | some x => x.cls | none => .v 0
    let src (p : Nat) : Nat := w.src p
    let shaped := (0x20 ≤ opc && opc < 0x60) || (0xA0 ≤ opc && opc ≤ 0xA1) || (0xB0 ≤ opc && opc ≤ 0xB8)
    recordOk r && fmtFits opc w f && rndOk opc cls w r
      && (cls != .c || condOk m f)
      && (!shaped || (w.shape == 1) == (f == 13 && w.shape < 2))
      && ([0, 1, 2].all fun p => src p != 8 || f == 11 || f == 12 || f == 13)
      && ([0, 1, 2].all fun p => !((src p == 2 || src p == 3) && fmtIsMx f))
      && !((opc == 0x24 || opc == 0x25 || opc == 0x49 || opc == 0x4A) && m == 1 && !isFloatCode f)
      && !((opc == 0x22 || opc == 0x2B) && w.imm10 == 1 && !isIntCode f)
      && !(opc == 0x48 && w.imm10 == 1 && (f == 0 || f == 13))
      && !(opc == 0x44 && (m == 1 || m == 2) && lanesOf f ≤ w.imm10)
      && !(opc == 0x45 && m == 1 && lanesOf f ≤ w.imm10)
      && !(opc == 0x42 && f == 13) && !(opc == 0x43 && fmtWidth f < 16)

/-- An opcode and its source codes stand in an element of a kind (R42, R70, R175, R312). -/
def kindOk (kind opc : Nat) (w : OpWord) : Bool :=
  let bankSrc := [0, 1, 2].any fun p => 4 ≤ w.src p && w.src p < 8
  match kind with
  | 1 => !(0x60 ≤ opc && opc < 0x80) && !bankSrc
  | 2 => !portOnly opc w.mod.toNat && !(0x60 ≤ opc && opc ≤ 0x62) && !(0x80 ≤ opc && opc ≤ 0x90)
  | _ => !portOnly opc w.mod.toNat

end Sys2Proof.Machine
end

