-- ==== Sys2Proof/Machine/Desc.lean ====
section
/-! DEFINITION. Slot constants read as descriptors (spec/08: R177, Tables 8.2 and 8.3; spec/04: R113). -/

namespace Sys2Proof.Machine

/-- A slot that reads its constant as MDESC (R177). -/
def readsMdesc (opc mod : Nat) : Bool :=
  portOnly opc mod && opc != 0x0D && opc != 0xC5 && opc != 0xC6 && opc != 0xA4 && opc != 0xA5

/-- A layout handle that the image declares. -/
def declared (img : Image) (h : Nat) : Bool := img.layouts.any fun q => q.1 == h

/-- The cause for which an MDESC is refused (Table 8.2), 0 for none. -/
def mdescFault (img : Image) (opc mod c : Nat) : Nat :=
  let arg := bits c 31 16
  let h2 := bits c 15 8
  let field :=
    if opc = 0xA8 && mod = 2 then bits c 31 26 != 0 && bits c 25 16 == 0
    else if opc = 0xA6 then bits c 31 27 == 0
    else arg == 0
  let two := opc = 0xA6 || opc = 0xA8
  if !field || (!two && h2 != 0) then 0x01
  else if !declared img (bits c 7 0) || (two && !declared img h2) then 0x03
  else if opc = 0xA6 && img.gauges.length < bits c 26 16 then 0x03
  else 0

/-- The cause for which an LDESC is refused (Table 8.3), 0 for none. -/
def ldescFault (mod sh c : Nat) : Nat :=
  let q := bits c 18 14
  let cols := bits c 13 6
  let rows := bits c 5 0
  if c / 2 ^ 19 ≠ 0 then 0x01
  else if !(if mod = 3 || mod = 4 then 7 ≤ q && q ≤ 20 else q == 0) then 0x01
  else if !(if sh = 3 then 1 ≤ cols && cols ≤ 128 && 1 ≤ rows && rows ≤ 32 else cols == 0 && rows == 0) then 0x01
  else 0

/-- The cause for which a slot's constant is refused by `argw` and at load (R177, R241), 0 for none. -/
def descFault (img : Image) (opc : Nat) (w : OpWord) (c : Nat) : Nat :=
  let m := w.mod.toNat
  if localForm opc m then ldescFault m w.shape c
  else if readsMdesc opc m then mdescFault img opc m c
  else 0

/-- What a load refuses in the constant of any other opcode (R177, R113): sort2, `sbar`, `agen`, gauges and signals. -/
def constFault (img : Image) (opc : Nat) (w : OpWord) (c gaugen : Nat) : Nat :=
  match opc with
  | 0x0D =>
    if bits c 31 22 ≠ 0 || bits c 21 16 = 0 || 33 < bits c 21 16 then 0x01
    else if !declared img (bits c 7 0) || !declared img (bits c 15 8) then 0x03 else 0
  | 0xA4 | 0xA5 => if c ≠ 0 then 0x01 else 0
  | 0xC0 | 0xC1 | 0xC2 => if c / 2 ^ 8 ≠ 0 then 0x01 else if gaugen ≤ c then 0x03 else 0
  | 0xC3 => if c / 2 ^ 4 ≠ 0 then 0x01 else 0
  | _ => descFault img opc w c

end Sys2Proof.Machine
end

