-- ==== Sys2Proof/Machine/SaveSize.lean ====
section
/-! DEFINITION. The size of a region's saved state (spec/19: R378, Table 19.3). -/

namespace Sys2Proof.Machine

/-- Bytes of the body section before rounding: 16 + 272 × K for each body. -/
def bodyBytes (g : Region) : Nat := (g.bodies.map fun b => 16 + 272 * b.desc.k).sum

/-- Bytes of an element's block in the element section. -/
def elemBlock (e : Elem) : Nat := if e.kind = 1 then 0x15000 else 0xD000

/-- Units of an element's carve that are saved: pool, frames, resident area, gauges. -/
def carveUnits (e : Elem) : Nat :=
  e.cfg.pooln + e.cfg.frmsize + e.cfg.ressize + (if e.cfg.gaugen > 0 then 1 else 0)

/-- The tokens of one channel in arrival order: at the receiver, then those nearest to it, then those that wait for
injection at the sender (R330). -/
def chanTokens (s : State) (g : Region) (c : Chan) : List Token :=
  let waiting := match c.src with
    | .elem e => ((nth g.elems e {}).inject.filter (·.chan == c.num)).map (·.tok)
    | .link l => (nth s.lanes l {}).rxq
    | _ => []
  c.arrived ++ c.flights.map (·.tok) ++ waiting

/-- Every token in a channel, ascending channel (R378). -/
def allChanTokens (s : State) (g : Region) : List (Nat × Token) :=
  (List.range 2048).flatMap fun n =>
    (g.chans.filter (·.num == n)).flatMap fun c => (chanTokens s g c).map fun t => (n, t)

/-- Beats of the channel section. -/
def chanBeats (s : State) (g : Region) : Nat :=
  (g.chans.map fun c => ((chanTokens s g c).map fun t => beatsOf t.hdr).sum).sum

/-- The elements that a save holds: those of the running variant's records, in their order (R378). -/
def savedElems (g : Region) : List Elem := g.elems.take (curVariant g).elems.length

/-- Offsets of the body, element, carve and channel sections, and the total size (Table 19.3). -/
def saveOffsets (s : State) (g : Region) : Nat × Nat × Nat × Nat × Nat :=
  let body := 0x1000
  let el := body + roundUp (bodyBytes g) 4096
  let carve := el + ((savedElems g).map elemBlock).sum
  let ch := carve + 4096 * ((savedElems g).map carveUnits).sum
  (body, el, carve, ch, ch + 128 * chanBeats s g)

/-- KS_RSAVESZ: bytes of saved state the region needs; 0 for an UNARMED region, which has none. -/
def saveSize (s : State) (g : Region) : Nat :=
  if g.st = 0 then 0 else (saveOffsets s g).2.2.2.2

end Sys2Proof.Machine
end

