-- ==== Sys2Proof/Machine/KCsr.lean ====
section
/-! DEFINITION. The control and status registers of the kettle core, traps, events and waiting (spec/09: R225 to R235,
R251, Tables 9.6 to 9.11). -/

namespace Sys2Proof.Machine

/-- Access rights of a CSR at a level (Table 9.6). -/
inductive Access1 where
  | denied
  | ro
  | rw
  | w1c
  deriving DecidableEq, Repr

/-- Table 9.6: rights at runtime and firmware level; none for a number that is not in the table. -/
def csrRights (n : Nat) : Option (Access1 × Access1) :=
  match n with
  | 0x000 => some (.ro, .ro)
  | 0x001 => some (.rw, .rw)
  | 0x002 => some (.ro, .rw)
  | 0x003 => some (.rw, .rw)
  | 0x004 => some (.ro, .rw)
  | 0x005 => some (.denied, .rw)
  | 0x006 => some (.rw, .rw)
  | 0x007 => some (.ro, .rw)
  | 0x008 => some (.rw, .rw)
  | 0x009 => some (.w1c, .w1c)
  | 0x00A => some (.rw, .rw)
  | 0x00B => some (.rw, .rw)
  | 0x00C => some (.ro, .ro)
  | 0x00D => some (.rw, .rw)
  | 0x010 => some (.rw, .rw)
  | 0x011 => some (.ro, .ro)
  | 0x012 => some (.ro, .ro)
  | 0x013 => some (.ro, .ro)
  | 0x014 => some (.ro, .ro)
  | 0x015 => some (.rw, .rw)
  | 0x016 => some (.ro, .ro)
  | 0x017 => some (.ro, .ro)
  | 0x018 => some (.w1c, .w1c)
  | 0x019 => some (.ro, .ro)
  | 0x020 => some (.ro, .rw)
  | 0x030 => some (.rw, .rw)
  | 0x031 => some (.rw, .rw)
  | 0x032 => some (.rw, .rw)
  | 0x033 => some (.rw, .rw)
  | _ => none

/-- The rights of the current core at its level. -/
def csrRight (s : State) (n : Nat) : Option Access1 :=
  (csrRights n).map fun r => if (curCore s).prv then r.2 else r.1

/-- The region that KS_RSEL selects (R226, R251). -/
def selRgn (s : State) : Rgn := ⟨curPart s, (curCore s).rsel.toNat % 64⟩

/-- KS_RSTATE (Table 9.11). -/
def rstate (g : Region) : Nat :=
  g.pour % 2 ^ 16 * 2 ^ 32 + g.faultq.length % 2 ^ 16 * 2 ^ 16 + g.foot % 4 * 2 ^ 8 + b2n g.cutp * 128 + b2n g.load * 64
    + b2n g.shrp * 32 + g.st % 16

/-- KS_ID (Table 9.6). -/
def ksId (p c : Nat) : Nat := 0x7E08 * 2 ^ 48 + 0x01 * 2 ^ 40 + p % 16 * 2 ^ 8 + c % 32

/-- The value of a CSR (Table 9.6). -/
def csrGet (s : State) (n : Nat) : Word64 :=
  let c := curCore s
  let g := getRegion s (selRgn s)
  match n with
  | 0x000 => BitVec.ofNat 64 (ksId (curPart s) s.cur.toNat)
  | 0x001 => c.status
  | 0x002 => c.cause
  | 0x003 => c.epc
  | 0x004 => c.tval
  | 0x005 => c.ftvec
  | 0x006 => c.rtvec
  | 0x007 => c.tdeleg
  | 0x008 => c.ien
  | 0x009 => c.event
  | 0x00A => c.mona
  | 0x00B => c.wlimit
  | 0x00C => BitVec.ofNat 64 s.ns
  | 0x00D => c.timecmp
  | 0x010 => c.rsel
  | 0x011 => BitVec.ofNat 64 (rstate g)
  | 0x012 => BitVec.ofNat 64 g.rflags.toNat
  | 0x013 => BitVec.ofNat 64 g.launch
  | 0x014 => BitVec.ofNat 64 g.rcause
  | 0x015 => BitVec.ofNat 64 (b2n g.brken)
  | 0x016 => BitVec.ofNat 64 (saveSize s g)
  | 0x017 => BitVec.ofNat 64 g.fltlost
  | 0x018 => c.revt
  | 0x019 => c.scrubu
  | 0x020 => BitVec.ofNat 64 (getPart s (curPart s)).ptbase
  | 0x030 => c.scratch[0]
  | 0x031 => c.scratch[1]
  | 0x032 => c.scratch[2]
  | 0x033 => c.scratch[3]
  | _ => 0

/-- The bits of a CSR that a write may change (R16, R226, Tables 9.8 to 9.10). -/
def csrMask (n : Nat) : Word64 :=
  match n with
  | 0x001 => 0xC2
  | 0x002 => 0x800000000000FFFF
  | 0x005 => 0xFFFFFFFFFFFFFE00
  | 0x006 => 0xFFFFFFFFFFFFFE00
  | 0x007 => 0xFF
  | 0x008 => 0x3
  | 0x010 => 0x3F
  | 0x015 => 0x1
  | 0x020 => 0x000FFFFFFFF00000
  | _ => BitVec.allOnes 64

/-- The value that a write of v leaves: bits that may not change stay. -/
def csrMerge (n : Nat) (old v : Word64) : Word64 := (old &&& ~~~ csrMask n) ||| (v &&& csrMask n)

/-- A write to KS_STATUS (R230): a runtime write that would change PPRV raises KETTLE_ACCESS with the value. -/
def statusWrite (s : State) (v : Word64) : Except (KTrap × State) State :=
  let c := curCore s
  if !c.prv && v.getLsbD 7 != c.pprv then .error (trapAccess v, s)
  else .ok (setCore s { c with status := csrMerge 0x001 c.status v })

/-- A W1C write to KS_EVENT (R232): REGION and TIMER; MON and KS_REVT stay. -/
def eventWrite (s : State) (v : Word64) : State :=
  setCore s { curCore s with event := (curCore s).event &&& ~~~ (v &&& 3) }

/-- A W1C write to KS_REVT (R232): the writing core's copy only. -/
def revtWrite (s : State) (v : Word64) : State :=
  setCore s { curCore s with revt := (curCore s).revt &&& ~~~ v }

/-- A write to KS_MONA (R233): arms the monitor on the line that the address reaches and clears MON; an unreachable value
raises KETTLE_ACCESS, one that does not translate with R the memory trap, before any effect but what its walk logs (R407). -/
def monaWrite (s : State) (v : Word64) : Except (KTrap × State) State :=
  let arm (t : State) (l : MonLine) : State :=
    setCore t { curCore t with mona := v, monitor := some l, event := (curCore t).event &&& ~~~ (4 : Word64) }
  match kplace v with
  | .none => .error (trapAccess v, s)
  | .loc x => .ok (arm s (.loc (lineOf x)))
  | .virt va =>
    match kxlat s { r := true } va with
    | (.error e, t) => .error (trapMemory e.code v, t)
    | (.ok pa, t) => .ok (arm t (.phys (lineOf pa)))

/-- A write of v to a writable CSR (R225, R226). -/
def csrSet (s : State) (n : Nat) (v : Word64) : Except (KTrap × State) State :=
  let c := curCore s
  match n with
  | 0x001 => statusWrite s v
  | 0x002 => .ok (setCore s { c with cause := csrMerge n c.cause v })
  | 0x003 => .ok (setCore s { c with epc := v })
  | 0x004 => .ok (setCore s { c with tval := v })
  | 0x005 => .ok (setCore s { c with ftvec := csrMerge n c.ftvec v })
  | 0x006 => .ok (setCore s { c with rtvec := csrMerge n c.rtvec v })
  | 0x007 => .ok (setCore s { c with tdeleg := csrMerge n c.tdeleg v })
  | 0x008 => .ok (setCore s { c with ien := csrMerge n c.ien v })
  | 0x009 => .ok (eventWrite s v)
  | 0x00A => monaWrite s v
  | 0x00B => .ok (setCore s { c with wlimit := v })
  | 0x00D => .ok (setCore s { c with timecmp := v })
  | 0x010 => .ok (setCore s { c with rsel := csrMerge n c.rsel v })
  | 0x015 => .ok (modRegion s (selRgn s) fun g => { g with brken := v.getLsbD 0 })
  | 0x018 => .ok (revtWrite s v)
  | 0x020 => .ok (modPart s (curPart s) fun q => { q with ptbase := (csrMerge n 0 v).toNat })
  | 0x030 => .ok (setCore s { c with scratch := c.scratch.set 0 v })
  | 0x031 => .ok (setCore s { c with scratch := c.scratch.set 1 v })
  | 0x032 => .ok (setCore s { c with scratch := c.scratch.set 2 v })
  | 0x033 => .ok (setCore s { c with scratch := c.scratch.set 3 v })
  | _ => .ok s

/-- A CSR access that its number or level refuses (R225, R226): ILLEGAL_INSN with the word, KETTLE_ACCESS with the
number. -/
def csrGuard (s : State) (n word : Nat) (f : Access1 → State) : State :=
  match csrRight s n with
  | none => ktrap s (trapIllegal (BitVec.ofNat 64 word))
  | some .denied => ktrap s (trapAccess (BitVec.ofNat 64 n))
  | some r => f r

/-- A write to a CSR, or its trap. -/
def csrEnd (r : Except (KTrap × State) State) : State :=
  match r with | .ok t => kadvance t | .error e => ktrap e.2 e.1

/-- What a write does by its rights: a RO register ignores it; a W1C register ignores `csrc` (R225). `clear` marks csrc. -/
def csrWrite (s : State) (n : Nat) (r : Access1) (clear : Bool) (v : Word64) : State :=
  match r with
  | .rw => csrEnd (csrSet s n v)
  | .w1c => if clear then kadvance s else csrEnd (csrSet s n v)
  | _ => kadvance s

/-- The word of a CSR instruction, for KS_TVAL (R216). -/
def csrWord (sel d a n : Nat) : Nat := 0x2D * 2 ^ 26 + d * 2 ^ 21 + a * 2 ^ 16 + sel * 2 ^ 12 + n

/-- `csrr` (R225): kd := csr. -/
def execKCsrr (d : KReg) (c : BitVec 12) (s : State) : Host.Outcome State Fault Refusal :=
  .next (csrGuard s c.toNat (csrWord 0 d.toNat 0 c.toNat) fun _ => kret s d (csrGet s c.toNat))

/-- `csrw` (R225): csr := ka. -/
def execKCsrw (a : KReg) (c : BitVec 12) (s : State) : Host.Outcome State Fault Refusal :=
  .next (csrGuard s c.toNat (csrWord 1 0 a.toNat c.toNat) fun r => csrWrite s c.toNat r false (kreg s a))

/-- `csrs` (R225): csr := csr or ka; a W1C register is cleared where ka is 1. -/
def execKCsrs (a : KReg) (c : BitVec 12) (s : State) : Host.Outcome State Fault Refusal :=
  .next (csrGuard s c.toNat (csrWord 2 0 a.toNat c.toNat) fun r =>
    csrWrite s c.toNat r false (if r = .w1c then kreg s a else csrGet s c.toNat ||| kreg s a))

/-- `csrc` (R225): csr := csr and not ka. -/
def execKCsrc (a : KReg) (c : BitVec 12) (s : State) : Host.Outcome State Fault Refusal :=
  .next (csrGuard s c.toNat (csrWord 3 0 a.toNat c.toNat) fun r =>
    csrWrite s c.toNat r true (csrGet s c.toNat &&& ~~~ kreg s a))

/-- The step KS_STATUS_WRITE (R230): the current core writes KS_STATUS, or takes KETTLE_ACCESS. -/
def execEvKsStatusWrite (v : Word64) (s : State) : Host.Outcome State Fault Refusal :=
  .next (csrEnd (statusWrite s v))

/-- The step KS_EVENT_WRITE (R232). -/
def execEvKsEventWrite (v : Word64) (s : State) : Host.Outcome State Fault Refusal := .next (kadvance (eventWrite s v))

/-- The step KS_REVT_WRITE (R232). -/
def execEvKsRevtWrite (v : Word64) (s : State) : Host.Outcome State Fault Refusal := .next (kadvance (revtWrite s v))

/-- The step KS_MONA_WRITE (R233). -/
def execEvKsMonaWrite (v : Word64) (s : State) : Host.Outcome State Fault Refusal :=
  .next (csrEnd (monaWrite s v))

/-- The step UNDEFINED_ENCODING (R216): ILLEGAL_INSN before any effect, KS_TVAL the word. -/
def execEvUndefinedEncoding (w : Word32) (s : State) : Host.Outcome State Fault Refusal :=
  .next (ktrap s (trapIllegal (w.zeroExtend 64)))

/-- `trap` (R231): vector 3 with the immediate in KS_TVAL; KS_EPC points past it. -/
def execKTrap (i : BitVec 16) (s : State) : Host.Outcome State Fault Refusal :=
  .next (setCore s ((curCore s).enterTrap false ⟨3, 0x40, zext64 i⟩ ((curCore s).pc + 4)))

/-- `tret` (R229): at runtime level with PPRV = 1 it raises KETTLE_ACCESS; KS_TVAL holds KS_EPC, the operand. -/
def execKTret (s : State) : Host.Outcome State Fault Refusal :=
  let c := curCore s
  if !c.prv && c.pprv then .next (ktrap s (trapAccess c.epc)) else .next (setCore s c.leaveTrap)

/-- An asynchronous trap is due (R228): IE = 1 and a bit of KS_EVENT and KS_IEN is 1; REGION first. TIMER's vector is not
taken while KS_TIME lies below KS_TIMECMP. -/
def asyncDue (c : Core) (ns : Nat) : Option Nat :=
  if !c.ie then none
  else if c.event.getLsbD 0 && c.ien.getLsbD 0 then some 4
  else if c.event.getLsbD 1 && c.ien.getLsbD 1 && c.timecmp.toNat ≤ ns % 2 ^ 64 then some 5
  else none

/-- The step TIMER (R232): TIMER is set where KS_TIME ≥ KS_TIMECMP. -/
def execEvTimer (s : State) : Host.Outcome State Fault Refusal := .next (setCore s ((curCore s).timer s.ns))

/-- The step ASYNC_TRAP (R228): vector 4 or 5 is taken between instructions, KS_EPC the next instruction not completed; a
wait ends with kd unchanged and runs again after `tret`. KS_TVAL is 0, or KS_TIME for the timer (Table 9.7). -/
def execEvAsyncTrap (s : State) : Host.Outcome State Fault Refusal :=
  let c := curCore s
  match asyncDue c s.ns with
  | some v =>
    let t : KTrap := ⟨v, 0, if v = 5 then BitVec.ofNat 64 s.ns else 0⟩
    .next (setCore s { c.enterTrap true t c.pc with wait := none })
  | none => .next s

/-- The reasons for which a `kwait` that began in kettle cycle `since` ends: monitor, event, limit (R234). -/
def kwaitReason (s : State) (a : KReg) (since : Nat) : Nat :=
  let c := curCore s
  b2n (c.event.getLsbD 2)
    + 2 * b2n ((c.event &&& kreg s a &&& 3) != 0)
    + 4 * b2n (c.wlimit != 0 && c.wlimit.toNat ≤ s.kcyc - since)

/-- A `kwait` ends, or goes on waiting (R234). -/
def kwaitTry (s : State) (d a : KReg) (since : Nat) : State :=
  let r := kwaitReason s a since
  if r ≠ 0 then kret (setCore s { curCore s with wait := none }) d (BitVec.ofNat 64 r)
  else setCore s { curCore s with wait := some (.kwait d a since) }

/-- `kwait` (R234): a condition that already holds ends it at once. -/
def execKKwait (d a : KReg) (s : State) : Host.Outcome State Fault Refusal := .next (kwaitTry s d a s.kcyc)

/-- The step KWAIT_WAKE (R234): a waiting core looks again; a core that does not wait is untouched. -/
def execEvKwaitWake (s : State) : Host.Outcome State Fault Refusal :=
  match (curCore s).wait with
  | some (.kwait d a since) => .next (kwaitTry s d a since)
  | _ => .next s

/-- The gauge word's reserved bits [63:29] are 0 (R235). -/
def gaugeWordOk (w : Nat) : Bool := w / 2 ^ 29 == 0

/-- The element of a region that X, Y and SE name (R235, R241): its index. -/
def findElem (g : Region) (x y : Nat) (se : Bool) : Option Nat :=
  g.elems.findIdx? fun e => e.x == x && e.y == y && (if se then e.kind == 1 else e.kind == 0)

/-- The gauge that a gauge word names: the element's index and the gauge's (R235). The image must declare it. -/
def findGauge (g : Region) (w : Nat) : Option (Nat × Nat) :=
  let x := bits w 13 6
  let y := bits w 19 14
  let n := bits w 27 20
  if g.img.gauges.any fun q => q.1 == x && q.2.1 == y && q.2.2.1 == b2n (bit w 28) && q.2.2.2.1 == n then
    (findElem g x y (bit w 28)).map fun e => (e, n)
  else none

/-- A generation is reached: (GEN - b) mod 2^32 < 2^31 (R205, R235). -/
def genReached (gen b : Nat) : Bool := (gen + 2 ^ 32 - b % 2 ^ 32) % 2 ^ 32 < 2 ^ 31

/-- A `gwaitk` judged now (R235): a word that names no gauge of the image, or a region in UNARMED or SAVED, raises
KETTLE_ACCESS; the generation reached or the limit passed ends it, and kd holds GEN. Its acceptance and its end reset the
Doldrums idle counter (R267). -/
def gwaitkTry (s : State) (d a b : KReg) (since : Nat) : State :=
  let w := (kreg s a).toNat
  let g := getRegion s ⟨curPart s, w % 64⟩
  match (if gaugeWordOk w && g.st ≠ 0 && g.st ≠ 6 then findGauge g w else none) with
  | none => ktrap (setCore s { curCore s with wait := none }) (trapAccess (kreg s a))
  | some (e, n) =>
    let gen := (nth (nth g.elems e {}).gauges n {}).gen
    let c := curCore s
    if genReached gen (kreg s b).toNat || (c.wlimit != 0 && c.wlimit.toNat ≤ s.kcyc - since) then
      kret (setCore (busy s ⟨curPart s, w % 64⟩) { c with wait := none }) d (BitVec.ofNat 64 gen)
    else setCore (if c.wait.isNone then busy s ⟨curPart s, w % 64⟩ else s) { c with wait := some (.gwaitk d a b since) }

/-- `gwaitk` (R235). It acts as a fabric instruction: the core's earlier accesses are performed first (R237), and it returns BUSY
while LOAD or CUTP of its region is 1 (R238). -/
def execKGwaitk (d a b : KReg) (s : State) : Host.Outcome State Fault Refusal :=
  let u := korder s false
  let g := getRegion u ⟨curPart u, (kreg u a).toNat % 64⟩
  if gaugeWordOk (kreg u a).toNat && (g.load || g.cutp || saving g) then .next (kret u d 1)
  else .next (gwaitkTry u d a b s.kcyc)

/-- The step GWAITK_WAKE (R235). -/
def execEvGwaitkWake (s : State) : Host.Outcome State Fault Refusal :=
  match (curCore s).wait with
  | some (.gwaitk d a b since) => .next (gwaitkTry s d a b since)
  | _ => .next s

end Sys2Proof.Machine
end

