-- ==== Sys2Proof/Machine/Edges.lean ====
section
/-! DEFINITION. Formats on the edges of a graph (spec/18: R361, step 5; spec/05: R116, R126 to R144; spec/06: R149; spec/07:
R165; spec/08: R176; spec/09: R245; spec/01: R28; spec/13: R310). -/

namespace Sys2Proof.Machine

/-- A format code and a payload kind. -/
abbrev FmtKind := Nat × Nat

/-- Payload kind of a scalar of a format. -/
def scalarKind (f : Nat) : Nat := if f = 13 then 1 else 0

/-- The payload kind that SHAPE names. -/
def shapeKind (sh : Nat) : Nat := sh

/-- Every non-MX format code. -/
def plainFmts : List Nat := [0, 1, 2, 3, 4, 8, 9, 10, 11, 12, 13]

/-- The formats of a lane width. -/
def fmtsOfWidth (n : Nat) : List Nat := plainFmts.filter fun f => fmtWidth f == n

/-- A shape's kind for each of several formats: a 64-bit scalar has its own. -/
def kindsOf (fs : List Nat) (sh : Nat) : List FmtKind := fs.map fun f => (f, if sh < 2 then scalarKind f else sh)

/-- The signed integer of a lane width (R132, R133); the mask format of a lane width (R126). -/
def signedOf (n : Nat) : Nat := match n with | 8 => 8 | 16 => 10 | 32 => 11 | _ => 13
def maskOf (n : Nat) : Nat := match n with | 8 => 9 | 16 => 10 | 32 => 12 | _ => 13

/-- The result format of `dot` (Table 5.6), and the wide format of `rsum` (R142). -/
def dotResFmt (f : Nat) : Nat := if isFloatCode f then 0 else if f = 11 || f = 12 then 13 else 11

/-- An entry that reads its operands as bits (R118). -/
def readsBits (opc f : Nat) : Bool :=
  opc == 0x29 || opc == 0x44 || opc == 0x45 || (0x30 ≤ opc && opc ≤ 0x38) || ((opc == 0x26 || opc == 0x27) && isFloatCode f)

/-- The pairs of an operand whose bits are read by its payload kind, whatever its format (R183). -/
def bitsKinds (ks : List Nat) : List FmtKind := (List.range 14).flatMap fun f => ks.map fun k => (f, k)

/-- The (FMT, PKIND) pairs that a token position requires; `none` where it requires none: arcs, triggers, `sink`, controls and
links. Of `rand` (R146 reads bits [31:0] of its a) any plain scalar is taken (DEDUCED, log entry 33). -/
def posReq (opc : Nat) (w : OpWord) (f p : Nat) : Option (List FmtKind) :=
  let sh := w.shape
  let m := w.mod.toNat
  let wd := fmtWidth f
  let own : Option (List FmtKind) := some [(f, if sh < 2 then scalarKind f else sh)]
  let anyScalar := plainFmts.map fun f => (f, scalarKind f)
  if flowGroup opc then none
  else if opc < 0x60 then
    if opc = 0x29 && p = 2 then some (anyScalar ++ if sh = 2 then kindsOf (fmtsOfWidth wd) 2 else [])
    else if opc = 0x44 && p = 1 && m = 0 then some [(maskOf wd, 2)]
    else if opc = 0x45 && m = 0 then some (kindsOf (fmtsOfWidth wd) 0)
    else if readsBits opc f then some (kindsOf (fmtsOfWidth wd) sh)
    else match opc with
      | 0x2C => if p = 1 then some [(signedOf wd, sh)] else own
      | 0x2E => if p = 2 then some [(dotResFmt f, scalarKind (dotResFmt f))] else own
      | 0x40 => some (kindsOf plainFmts sh)
      | 0x41 => some [(9, 2)]
      | 0x42 => some (kindsOf (fmtsOfWidth (2 * wd)) 2)
      | 0x43 => some (kindsOf (fmtsOfWidth (wd / 2)) 2)
      | 0x46 => some [(f, scalarKind f)]
      | 0x47 => some anyScalar
      | _ => own
  else if opc < 0x80 then
    match opc with
    | 0x63 | 0x65 => none
    | 0x6C => some ((List.range 14).map fun f => (f, 3))
    | _ => some [(f, 3)]
  else if opc < 0xA0 then own
  else if p = 2 && opc != 0xB7 then none
  else match opc with
    | 0xA0 => if localForm opc m then some (bitsKinds [0, 1]) else if m = 1 then none else some (bitsKinds [0, 1, 2])
    | 0xA1 => if p = 1 then own else if localForm opc m then some (bitsKinds [0, 1]) else if m = 1 then none
              else some (bitsKinds [0, 1, 2])
    | 0xA2 => some (kindsOf (fmtsOfWidth 32) 2)
    | 0xA3 => if p = 1 then own else some (kindsOf (fmtsOfWidth 32) 2)
    | 0xA4 => some (kindsOf plainFmts 2)
    | 0xA6 => some (bitsKinds [0, 1, 2])
    | 0xA7 | 0xA8 => if p = 1 then own else some (bitsKinds [0, 1, 2])
    | 0xA5 | 0xC3 | 0xC4 => none
    | 0xC0 | 0xC1 => some anyScalar
    | 0xC2 => if p = 0 then some anyScalar else none
    | 0xC5 => if p = 1 then some [(f, scalarKind f)] else own
    | 0xC6 => if p = 1 then some [(12, 2)] else own
    | _ => if p = 0 then some (bitsKinds [0, 1]) else own

/-- A position whose operand is read as bits (R118): it takes any format of its lane width from an element (R116), and any format
and kind from an `inj` channel (R245). A scalar `bcast` is one of them (R118), though R140 names the record's format for its a
(DEDUCED, log entry 33). -/
def bitsPos (opc : Nat) (w : OpWord) (f p : Nat) : Bool :=
  0x20 ≤ opc && opc < 0x60 && readsBits opc f && !(opc == 0x29 && p == 2) && !(opc == 0x44 && p == 1 && w.mod == 0)

/-- What a firing sends on an entry: nothing with data, a token of known format and kind, or the operand that it forwards. -/
inductive Sent where
  | nothing
  | data (k : FmtKind)
  | fwd (ps : List Nat)
  deriving DecidableEq, Repr

/-- The tokens that a slot's data firings send on entry `n` (R89; each entry's output format). -/
def sentOn (opc : Nat) (w : OpWord) (f n : Nat) : Sent :=
  let sh := w.shape
  let wd := fmtWidth f
  let own : Sent := .data (f, if sh < 2 then scalarKind f else sh)
  let ack : Sent := .data (0, 0)
  let done : Sent := .data (11, 0)
  match opc with
  | 0x00 | 0x01 | 0x05 | 0x06 | 0x08 | 0x0E | 0x11 => .fwd [0]
  | 0x02 | 0x03 => .fwd [0, 1]
  | 0x04 => if n = w.dest.toNat then .fwd [0] else done
  | 0x0A | 0x0F => done
  | 0x0B => .data (f, scalarKind f)
  | 0x07 | 0x09 | 0x0C | 0x10 | 0xFF => .nothing
  | 0x0D => ack
  | 0x28 => if sh < 2 && wd ≤ 32 then .data (12, 0) else .data (maskOf wd, if sh < 2 then 1 else 2)
  | 0x2D => if w.mod = 1 then .data (signedOf wd, sh) else own
  | 0x2E => .data (dotResFmt f, scalarKind (dotResFmt f))
  | 0x48 => let g := if w.imm10 = 1 then dotResFmt f else f; .data (g, scalarKind g)
  | 0x49 | 0x4A => .data (f, scalarKind f)
  | 0x60 | 0x61 | 0x62 | 0x63 | 0x64 => done
  | 0x65 | 0x66 | 0x67 | 0x68 | 0x69 | 0x6A | 0x6B | 0x6C => .data (f, 3)
  | 0xA2 => .data (f, 3)
  | 0xA8 => if w.mod = 0 then ack else .data (0, 3)
  | 0xA1 | 0xA3 | 0xA4 | 0xA5 | 0xA6 | 0xA7 | 0xC0 | 0xC1 | 0xC3 => ack
  | 0xC2 => if w.src 1 = 31 then .fwd [0] else .fwd [1]
  | 0xC4 => .fwd [0]
  | 0xC5 | 0xC6 => .data (f, 3)
  | _ => own

/-- The destination entries to which a slot sends data or EOS (R92). -/
def entriesFor (opc : Nat) (w : OpWord) : List Nat :=
  let d := w.dest.toNat
  match opc with
  | 0x00 => [d, w.imm12 % 32]
  | 0x01 => (List.range (w.imm12 % 64)).map (d + ·)
  | 0x04 => [d, w.imm12 % 32]
  | 0x07 | 0x0C | 0x10 | 0xFF => []
  | _ => [d]

/-- A slot of a variant: the element's index and the slot, its opcode, word and record. -/
structure SlotRef where
  elem : Nat
  slot : Nat
  opc : Nat
  w : OpWord
  f : Nat
  deriving DecidableEq, Repr

/-- Slot n of an element record. -/
def slotRef (c : ElemCfg) (k n : Nat) : SlotRef :=
  let wd := nth c.slots n 0xFF00000FFFE00000
  let w := opFields wd
  { elem := k, slot := n, opc := (opCode wd).toNat, w := w, f := bits (nth c.fmts w.fmt.toNat 0) 15 12 }

/-- Every slot of a variant that is not empty. -/
def slotRefs (v : Variant) : List SlotRef :=
  v.elems.zipIdx.flatMap fun q => (List.range 32).filterMap fun n =>
    if nth q.1.2.2.2.slots n 0xFF00000FFFE00000 = 0xFF00000FFFE00000 then none else some (slotRef q.1.2.2.2 q.2 n)

/-- The configuration of element k of a variant. -/
def cfgOf (v : Variant) (k : Nat) : ElemCfg := (nth v.elems k (0, 0, 0, {})).2.2.2

/-- The channels of the entries on which a slot sends, with what it sends. -/
def sendsOf (v : Variant) (r : SlotRef) : List (Nat × Sent) :=
  (entriesFor r.opc r.w).flatMap fun n => (nth (cfgOf v r.elem).dest n []).map fun ch => (ch, sentOn r.opc r.w r.f n)

/-- The slot and position that a channel feeds. -/
def feeds (v : Variant) (ch : Nat) : Option (Nat × RecvEnt) :=
  v.elems.zipIdx.findSome? fun q => (q.1.2.2.2.recv.find? fun e => e.valid && e.chan == ch).map fun e => (q.2, e)

/-- The channel that feeds a slot's position. -/
def fedBy (v : Variant) (k slot pos : Nat) : Option Nat :=
  ((cfgOf v k).recv.find? fun e => e.valid && e.slot == slot && e.pos == pos).map fun e => e.chan

/-- The channels that a channel's tokens are forwarded onto. -/
def forwards (v : Variant) (ch : Nat) : List Nat :=
  match feeds v ch with
  | none => []
  | some (k, e) =>
    (sendsOf v (slotRef (cfgOf v k) k e.slot)).filterMap fun q =>
      match q.2 with | .fwd ps => if ps.contains e.pos then some q.1 else none | _ => none

/-- The channels reached from some by forwarding operands (R89), within `fuel` rounds. -/
def reachFwd (v : Variant) : Nat → List Nat → List Nat
  | 0, cs => cs
  | fuel + 1, cs =>
    let n := (cs.flatMap (forwards v)).filter fun c => !cs.contains c
    if n = [] then cs else reachFwd v fuel (cs ++ n.dedup)

/-- What the position that a channel feeds requires. -/
def chanReq (v : Variant) (ch : Nat) : Option (List FmtKind) :=
  match feeds v ch with
  | none => none
  | some (k, e) => let r := slotRef (cfgOf v k) k e.slot; posReq r.opc r.w r.f e.pos

/-- Both of two requirements. -/
def bothReq (a b : Option (List FmtKind)) : Option (List FmtKind) :=
  match a, b with
  | none, y => y
  | x, none => x
  | some x, some y => some (x.filter fun k => y.contains k)

/-- What a channel's tokens must be, followed through forwarding operands (R361). -/
def pathReq (v : Variant) (ch : Nat) : Option (List FmtKind) :=
  (reachFwd v 2048 [ch]).foldl (fun acc c => bothReq acc (chanReq v c)) none

/-- What the position that a channel feeds requires of a token that `inj` sends: nothing where it is read as bits (R245). -/
def injReq (v : Variant) (ch : Nat) : Option (List FmtKind) :=
  match feeds v ch with
  | none => none
  | some (k, e) =>
    let r := slotRef (cfgOf v k) k e.slot
    if bitsPos r.opc r.w r.f e.pos then none else posReq r.opc r.w r.f e.pos

/-- The format of an `inj` channel (R245): what the positions on its path require. -/
def injFmts (v : Variant) (ch : Nat) : Option (List FmtKind) :=
  (reachFwd v 2048 [ch]).foldl (fun acc c => bothReq acc (injReq v c)) none

/-- The channels of a variant: those that its receive and destination entries, its routes and the image's links name. A binding
names no channel by 0xFFFF (PRESUMED, log entry 29). A route record that holds trace or idle entries alone (R76) names none. -/
def variantChans (v : Variant) (links : List LinkBind) : List Nat :=
  let rs := v.elems.flatMap fun q => (q.2.2.2.recv.filter fun e => e.valid).map fun e => e.chan
  let ds := v.elems.flatMap fun q => q.2.2.2.dest.flatten
  let ls := links.flatMap fun l => if l.form = 0 then [l.send, l.recv].filter (· < 2048) else []
  let ts := (v.routes.filter fun q => q.2 == [] || q.2.any fun h => h.kind != 0 && h.kind != 3).map fun q => q.1
  let all := rs ++ ds ++ ts ++ ls
  (List.range 2048).filter fun n => all.contains n

/-- The formats that producers put on each channel themselves: channel, format and kind. -/
def produced (v : Variant) : List (Nat × FmtKind) :=
  (slotRefs v).flatMap fun r => (sendsOf v r).filterMap fun q => match q.2 with | .data k => some (q.1, k) | _ => none

/-- The formats that reach a channel, forwarded ones with them. -/
def reaching (v : Variant) (ch : Nat) : List FmtKind :=
  ((produced v).filter fun q => (reachFwd v 2048 [q.1]).contains ch).map fun q => q.2

/-- A channel's formats: the one its producer fixes, or those that its consumers admit. -/
def chanFmts (v : Variant) (ch : Nat) : Option (List FmtKind) :=
  match (reaching v ch).dedup with
  | [] => injFmts v ch
  | ks => some ks

/-- A floating-point format: precision, least and greatest exponent of a normal value. -/
def floatRange (f : Nat) : Nat × Int × Int :=
  match f with
  | 0 => (24, -126, 127)
  | 1 => (11, -14, 15)
  | 2 => (8, -126, 127)
  | 3 => (4, -6, 8)
  | _ => (3, -14, 15)

/-- Bits of an integer format's magnitude, and whether it is signed. -/
def intRange (f : Nat) : Nat × Bool :=
  match f with
  | 8 => (7, true)
  | 9 => (8, false)
  | 10 => (15, true)
  | 11 => (31, true)
  | 12 => (32, false)
  | _ => (63, true)

/-- Format t holds every value of format s exactly (R28). An MX format holds the values of its own element format and those of
MXFP4 (R162: the target is not narrower; log entry 59). -/
def holdsAll (t s : Nat) : Bool :=
  if fmtIsMx t then t == s || s == 5 || (t == 6 && s == 3) || (t == 7 && s == 4)
  else if fmtIsMx s then false
  else if isFloatCode t then
    let x := floatRange t
    if isFloatCode s then
      let y := floatRange s
      y.1 ≤ x.1 && y.2.2 ≤ x.2.2 && decide (x.2.1 - (x.1 : Int) ≤ y.2.1 - (y.1 : Int))
    else (intRange s).1 ≤ x.1 && decide (((intRange s).1 : Int) ≤ x.2.2)
  else if isFloatCode s then false
  else
    let x := intRange t
    let y := intRange s
    y.1 ≤ x.1 && (x.2 || !y.2)

/-- A conversion slot whose effective mode is SR (R28). -/
def convSr (v : Variant) (r : SlotRef) : Bool :=
  let rnd := bits (nth (cfgOf v r.elem).fmts r.w.fmt.toNat 0) 15 9 % 8
  isConversion r.opc && (match opRow r.opc r.w.mod.toNat with | some x => effRnd x.cls r.w.mod.toNat rnd == 5 | none => false)

/-- The formats that an `inj` channel refuses, because a conversion under SR would hold them exactly (R245). -/
def srRefused (v : Variant) (ch : Nat) : List Nat :=
  (reachFwd v 2048 [ch]).flatMap fun c =>
    match feeds v c with
    | none => []
    | some (k, e) =>
      let r := slotRef (cfgOf v k) k e.slot
      if convSr v r && r.opc != 0x41 && r.opc != 0x43 then (List.range 14).filter (holdsAll r.f) else []

/-- Flits of a token on a send channel, by its producer's kind (R310). -/
def flitsPer (v : Variant) (ch : Nat) : Nat :=
  let one (k : FmtKind) : Nat := if k.2 < 2 then 1 else if k.2 = 2 then 2 else 17
  match reaching v ch with
  | [] => 17
  | ks => (ks.map one).foldl max 1

/-- The first channel that breaks step 5 (R361). A `cvt` between integers with MOD other than 0 (R117 names no cause) is refused
here, with FORMAT_EDGE, where a producer fixes its source; one whose source `inj` alone feeds is not refused (the model's
choice, log entry 66). -/
def edgeFault (v : Variant) (links : List LinkBind) : Option Nat :=
  (variantChans v links).find? fun ch =>
    let made := ((produced v).filter fun q => q.1 == ch).map fun q => q.2
    let req := pathReq v ch
    let fromInj := (made = [] && !(slotRefs v).any (fun r => (sendsOf v r).any fun q => q.1 == ch)
        && !links.any fun l => l.form == 0 && l.recv == ch)
    let bad := match req with
      | none => false
      | some ks => made.any fun k => !ks.contains k
    -- the source formats of a conversion: SR only where it narrows; between integers no rounding; `pack` and `cmerge` pair
    let conv := match feeds v ch with
      | none => false
      | some (k, e) =>
        let r := slotRef (cfgOf v k) k e.slot
        let rs := reaching v ch
        let other (p : Nat) : List FmtKind := match fedBy v k e.slot p with | some c => reaching v c | none => []
        (convSr v r && (r.opc == 0x41 || r.opc == 0x43 || rs.any fun x => holdsAll r.f x.1))
          || (r.opc == 0x40 && r.w.mod != 0 && isIntCode r.f && rs.any fun x => isIntCode x.1)
          || (r.opc == 0x42 && e.pos == 1 && rs.any fun x => (other 0).any fun y => y.1 != x.1)
          || (r.opc == 0x03 && e.pos == 1 && rs.any fun x => (other 0).any fun y => y != x)
    let only := match injFmts v ch with
      | some ks => fromInj && ks != [] && ks.all fun x => (srRefused v ch).contains x.1
      | none => false
    bad || conv || only || (fromInj && injFmts v ch == some [])

end Sys2Proof.Machine
end

