-- ==== Sys2Proof/Machine/Place.lean ====
section
/-! DEFINITION. Placement of a region's rectangle: the elements that it covers, those that regions hold, retirement, the
Infusers that a load uses (spec/09: R239, R240; spec/18: R362, R363; spec/19: R375, R377; spec/22: R412). -/

namespace Sys2Proof.Machine

/-- A rectangle of logical elements on one die: columns x0 to x1 − 1, rows y0 to y1 − 1. -/
structure DieRect where
  d : Nat
  x0 : Nat
  x1 : Nat
  y0 : Nat
  y1 : Nat
  deriving DecidableEq, Repr

/-- The elements that a w × h region covers by a placement (R362). -/
def dieRects (place w h : Nat) : List DieRect :=
  let m := bits place 27 20
  if m = 0 then
    let x := bits place 14 9
    let y := bits place 19 15
    [⟨placeDie place, x, min 40 (x + w), y, min 20 (y + h)⟩]
  else
    let d0 := lowestDie m
    ((List.range 8).filter fun d => bit m d).map fun d =>
      ⟨d, 0, min 40 (w - 40 * (d % 4 - d0 % 4)), 0, min 20 (h - 20 * (d / 4 - d0 / 4))⟩

/-- Two rectangles share an element. -/
def DieRect.meets (a b : DieRect) : Bool :=
  a.d == b.d && max a.x0 b.x0 < min a.x1 b.x1 && max a.y0 b.y0 < min a.y1 b.y1

/-- A rectangle lies in the partition. -/
def DieRect.owned (s : State) (p : Nat) (a : DieRect) : Bool :=
  bit (partDies s p) a.d && (List.range (a.x1 - a.x0)).all fun i => ownsColumn s p a.d (a.x0 + i)

/-- A rectangle covers a retired element, which the list names by its physical column (R363, R412, Table 23.2). -/
def DieRect.retired (s : State) (a : DieRect) : Bool :=
  s.retired.any fun e => e.1 == 1 && e.2.1 == a.d && a.y0 ≤ e.2.2.2.1 && e.2.2.2.1 < a.y1
    && (List.range (a.x1 - a.x0)).any fun i => physColumn s a.d (a.x0 + i) == e.2.2.1

/-- Every field of a placement word is in its range (R239). -/
def placeOk (w : Nat) : Bool :=
  w / 2 ^ 28 == 0 && bits w 19 15 < 20 && bits w 14 9 < 40
    && (bits w 27 20 == 0 || (bits w 19 15 == 0 && bits w 14 9 == 0 && bits w 8 6 == 0))

/-- The shapes that Table 3.9 allows. -/
def shapeAllowed (w h : Nat) : Bool :=
  (1 ≤ w && w ≤ 40 && 1 ≤ h && h ≤ 20)
    || ((w == 40 || w == 80 || w == 120 || w == 160) && (h == 20 || h == 40))

/-- A placement of a shape (R362): within one die, or dies of DMASK that fill the rectangle in the die grid. -/
def shapePlaced (place w h : Nat) : Bool :=
  let m := bits place 27 20
  if m = 0 then bits place 14 9 + w ≤ 40 && bits place 19 15 + h ≤ 20
  else
    let d0 := lowestDie m
    w % 40 == 0 && h % 20 == 0
      && (List.range 8).all fun d =>
        bit m d == (d0 % 4 ≤ d % 4 && d % 4 < d0 % 4 + w / 40 && d0 / 4 ≤ d / 4 && d / 4 < d0 / 4 + h / 20)
      && d0 % 4 + w / 40 ≤ 4 && d0 / 4 + h / 20 ≤ 2

/-- A region holds elements: loading or restoring, or in any state but UNARMED and SAVED. -/
def holdsElems (g : Region) : Bool := g.load || (g.st != 0 && g.st != 6)

/-- Width and height that a region holds: the image's, or its variant's rectangle at a smaller footprint (R377). -/
def heldShape (g : Region) : Nat × Nat :=
  if g.foot = 0 then (g.img.regw, g.img.regh) else ((curVariant g).w, (curVariant g).h)

/-- The rectangles that a region holds. -/
def heldRects (g : Region) : List DieRect :=
  if holdsElems g then dieRects g.place (heldShape g).1 (heldShape g).2 else []

/-- The other regions of a partition. -/
def otherRegions (s : State) (r : Rgn) : List (Nat × Region) := (getPart s r.part).regions.filter fun q => q.1 != r.handle

/-- Some rectangle meets an element that another region holds. -/
def rectsHeld (s : State) (r : Rgn) (rs : List DieRect) : Bool :=
  (otherRegions s r).any fun q => (heldRects q.2).any fun a => rs.any fun b => a.meets b

/-- A placement names elements outside the partition, held by another region, or retired (R239). -/
def placeDenied (s : State) (r : Rgn) (place w h : Nat) : Bool :=
  let rs := dieRects place w h
  !(rs.all fun a => a.owned s r.part) || rs.any (fun a => a.retired s) || rectsHeld s r rs

/-- Some Infuser that a load by a placement would use is occupied (R240), by a load of the partition: one of another partition
on a half of the die changes no status (R394; log entry 72). -/
def infuserBusy (s : State) (p place : Nat) : Bool := s.infuser.any fun q => q.2.1 == p && bit (placeDies place) q.1

/-- The Infusers of a placement's dies are occupied by a region's load. -/
def occupyInfusers (s : State) (r : Rgn) (place : Nat) : State :=
  { s with infuser := s.infuser ++ ((List.range 8).filter fun d => bit (placeDies place) d).map fun d => (d, (r.part, r.handle)) }

/-- The load ends: its Infusers are free. -/
def freeInfusers (s : State) (r : Rgn) : State := { s with infuser := s.infuser.filter fun q => q.2 != (r.part, r.handle) }

/-- The REGW and REGH of the image at an address, where its header can be read. -/
def peekShape (s : State) (p va : Nat) : Option (Nat × Nat) :=
  match vread s p (va + 32) 4 with
  | .ok x => some (x % 2 ^ 16, x / 2 ^ 16)
  | .error _ => none

end Sys2Proof.Machine
end

