-- ==== Sys2Proof/Machine/Configure.lean ====
section
/-! DEFINITION. Configuring a region with a pour (spec/18: R366, R367, R368; spec/10: R254; spec/08: R203; spec/09: R240;
spec/13: R309; launch table spec/08: R208). -/

namespace Sys2Proof.Machine

/-- The lane group that a binding of form channel names. -/
def LinkBind.lane (l : LinkBind) : Nat := 4 * l.k + l.n

/-- Where a channel of a variant starts. -/
def chanSrc (v : Variant) (links : List LinkBind) (ch : Nat) : ChEnd :=
  match v.elems.findIdx? fun q => q.2.2.2.dest.any fun d => d.contains ch with
  | some k => .elem k
  | none => match links.find? fun l => l.form == 0 && l.recv == ch with
    | some l => .link l.lane
    | none => .inj

/-- Where it ends, and its quota (R57, R310). The image has no place for the quota of a channel that ends at a lane group: it is a
free value within R310's bound (log entry 39). -/
def chanDst (v : Variant) (links : List LinkBind) (ch : Nat) : ChEnd × Nat :=
  match feeds v ch with
  | some (k, e) => (.elem k, e.quota)
  | none => match links.find? fun l => l.form == 0 && l.send == ch with
    | some l => (.link l.lane, max 1 (min (Config.sendQuota v.size l.lane ch) (128 / flitsPer v ch)))
    | none => (.none, 0)

/-- A binding of form channel binds a channel. -/
def LinkBind.binds (l : LinkBind) (ch : Nat) : Bool := l.form == 0 && (l.send == ch || l.recv == ch)

/-- The class of a channel (R304): its binding's, mist where one of two bindings is (R291, R300); of a channel without a binding
it is mist where a hop of its route has KIND 10, the one place where the image tells `mist` of `.chan` (PRESUMED, log entry
26). -/
def chanMist (v : Variant) (links : List LinkBind) (ch : Nat) : Bool :=
  match links.filter fun l => l.binds ch with
  | _ :: _ => links.any fun l => l.binds ch && l.mist
  | [] => v.routes.any fun q => q.1 == ch && q.2.any fun h => h.kind == 2

/-- A hop that grants a channel its slots: KIND 01 or 10 (R76). -/
def Hop.ofChan (h : Hop) : Bool := h.kind == 1 || h.kind == 2

/-- The route of a channel: the hops of its records that grant it slots (R360). -/
def routeOf (v : Variant) (ch : Nat) : List Hop := ((v.routes.filter fun q => q.1 == ch).flatMap fun q => q.2).filter Hop.ofChan

/-- A channel at the start of a pour, its number relocated by the region's channel base (R364). `spares` are the lane groups
that stand for lost ones (R323); `owed` are the tokens of earlier pours that the far receivers have not passed on, which count
still (R311). -/
def mkChan (v : Variant) (links : List LinkBind) (spares owed : List (Nat × Nat)) (base ch : Nat) : Chan :=
  let d := chanDst v links ch
  let now (e : ChEnd) : ChEnd := match e with | .link g => .link ((lookupKey spares g).getD g) | _ => e
  { num := base + ch, src := now (chanSrc v links ch), dst := now d.1, quota := d.2, mist := chanMist v links ch,
    outstanding := (match now d.1 with | .link g => (lookupKey owed g).getD 0 | _ => 0),
    hops := routeOf v ch, fmts := chanFmts v ch, refuse := srRefused v ch }

/-- The gauges of an element at a launch (R203): as many as its carve holds, TARGET of the image, COUNT and GEN 0. -/
def freshGauges (img : Image) (kind x y n : Nat) : List Gauge :=
  let gs := img.gauges.filter fun q => q.1 == x && q.2.1 == y && q.2.2.1 == b2n (kind == 1)
  let n := gs.foldl (fun m q => max m (q.2.2.2.1 + 1)) n
  if kind = 2 then List.replicate n {}
  else gs.foldl (fun l q => modNth l q.2.2.2.1 fun _ => { target := q.2.2.2.2 % 2 ^ 48 }) (List.replicate n {})

/-- Gauge words that a pour finds (R203): those of the launch, and the fresh words of an area that grows. -/
def keepGauges (old : Option (List Gauge)) (fresh : List Gauge) : List Gauge :=
  match old with
  | some l => l ++ fresh.drop l.length
  | none => fresh

/-- The element records of a variant, and behind them an idle record for each element that only a gauge of the image
names. -/
def allElems (img : Image) (v : Variant) : List (Nat × Nat × Nat × ElemCfg) :=
  let idle : ElemCfg := {}
  let more := (img.gauges.map fun q => (b2n (q.2.2.1 == 1), q.1, q.2.1)).filter fun q =>
    !v.elems.any fun e => e.1 == q.1 && e.2.1 == q.2.1 && e.2.2.1 == q.2.2
  v.elems ++ more.dedup.map fun q => (q.1, q.2.1, q.2.2, idle)

/-- An element of the region by kind and coordinates. -/
def sameElem (g : Region) (kind x y : Nat) : Option Elem := g.elems.find? fun e => e.kind == kind && e.x == x && e.y == y

/-- The cells of carried buffers (R368): buffer b at offset 4,096 × b. -/
def carriedCells (carry : List (Nat × Nat × Nat)) (kind x y : Nat) (m : List Host.Cell) : List Host.Cell :=
  m.filter fun c => kind == 0 && carry.any fun q => q.1 == x && q.2.1 == y && q.2.2 == c.1 / 4096

/-- A configuration as the loader writes it: channels relocated by the region's base, the spill area by the spill region's
address (R364, R366). -/
def relocate (g : Region) (c : ElemCfg) : ElemCfg :=
  { c with recv := c.recv.map fun e => { e with chan := g.chBase + e.chan }
           dest := c.dest.map fun d => d.map fun ch => g.chBase + ch
           spbase := spillRegion g + 4096 * c.spbase }

/-- An element at the start of a pour (R367): scratchpad 0 but for carried buffers, predicates PINIT, banks, flags, layout
copies and instances cleared; gauges stay, of an element that the last pour did not hold too. -/
def configElem (g : Region) (carry : List (Nat × Nat × Nat)) (q : Nat × Nat × Nat × ElemCfg) : Elem :=
  let c : ElemCfg := relocate g q.2.2.2
  let old := sameElem g q.1 q.2.1 q.2.2.1
  { kind := q.1, x := q.2.1, y := q.2.2.1, cfg := c, consts := c.consts, states := c.states, preds := Nat.lor c.pinit 0x8000,
    gauges := keepGauges ((old.map fun e => e.gauges) <|> lookupKey g.parked (q.1, q.2.1, q.2.2.1))
      (freshGauges g.img q.1 q.2.1 q.2.2.1 c.gaugen),
    scratch := carriedCells carry q.1 q.2.1 q.2.2.1 ((old.map fun e => e.scratch).getD []),
    badWords := ((old.map fun e => e.badWords).getD []).filter fun w => q.1 == 0 &&
      carry.any fun z => z.1 == q.2.1 && z.2.1 == q.2.2.1 && z.2.2 == w / 64,
    port := { tlb := (old.map fun e => e.port.tlb).getD [] } }

/-- A body at the start of a launch or a pour (R254, R270): no live copy of a dynamic body, every one of a static body. DYN of
the body's descriptor says which it is; an image whose DYN disagrees with R94's `ctxnew` slots is not refused (DESIGN CHOICE,
log entry 32). -/
def freshBody (b : Body) : BodySt :=
  { desc := b, insts := List.replicate b.k { st := b2n (!b.dyn), counts := List.replicate (2 ^ b.logw) 0 } }

/-- D starts with the pour's number (R301). -/
def pourHeader (n : Nat) : Sponge := (({} : Sponge).absorb 4 n).absorb 4 0

/-- The gauge words of every element of the launch so far. -/
def parkGauges (g : Region) : List ((Nat × Nat × Nat) × List Gauge) :=
  g.elems.foldl (fun l (e : Elem) => putKey l (e.kind, e.x, e.y) (keepGauges (some e.gauges) ((lookupKey l (e.kind, e.x, e.y)).getD []))) g.parked

/-- The region configured for the variant of its pour at its footprint (R367), with the buffers carried over. -/
def configure (g : Region) (carry : List (Nat × Nat × Nat)) : Region :=
  let v := curVariant g
  { g with
    parked := parkGauges g
    elems := (allElems g.img v).map (configElem g carry)
    chans := (variantChans v g.img.links).map (mkChan v g.img.links g.spares g.linkOwed g.chBase)
    bodies := g.img.bodies.map freshBody
    msgs := [], bcasts := [], frees := []
    frontier := 0, wraps := 0, seqClk := none, digest := pourHeader g.pour, digq := []
    eosLeft := [], eosInj := [], between := false, pass := none, stopAt := none }

/-- Every gauge as it stands at a launch (R203). -/
def resetGauges (g : Region) : Region :=
  { g with parked := [], elems := g.elems.map fun e => { e with gauges := freshGauges g.img e.kind e.x e.y e.cfg.gaugen } }

/-- Pour 0 configured cold, with the image's gauges (R240, R367). -/
def configureCold (g : Region) : Region :=
  resetGauges (configure { g with pour := 0, elems := [], shadow := some 0, shrp := false } [])

/-- The launch table keeps every pending launch and the 4,096 that ended most recently (R208). -/
def pruneLaunches (l : List LaunchEnt) : List LaunchEnt :=
  let excess := (l.filter fun x => x.st != 0).length - 4096
  let drop := ((l.filter fun x => x.st != 0).take excess).map fun x => x.id
  l.filter fun x => x.st == 0 || !drop.contains x.id

/-- A launch accepted by `launch` stands in the table as pending (R208). -/
def putLaunch (s : State) (r : Rgn) (id : Nat) : State :=
  modPart s r.part fun q => { q with launches := q.launches.filter (fun x => x.id != id) ++ [{ id := id, st := 0, handle := r.handle }] }

/-- The launch of a region ends (R208): done (1) or aborted (2). An entry that a later launch of the same id has taken is
not that launch's. -/
def endLaunch (s : State) (r : Rgn) (id st : Nat) : State :=
  modPart s r.part fun q =>
    match q.launches.find? fun x => x.id == id with
    | none => q
    | some x =>
      if x.st != 0 || x.handle != r.handle then q
      else { q with launches := pruneLaunches (q.launches.filter (fun y => y.id != id) ++ [{ x with st := st }]) }

/-- Every lane group that an image binds is bound to the region (R309), no spare standing for another. -/
def bindLanes (s : State) (r : Rgn) (img : Image) : State :=
  let s := modRegion s r fun g => { g with spares := [] }
  { s with lanes := s.lanes.zipIdx.map fun q =>
      match img.links.findIdx? fun l => l.lane == q.2 with
      | some i => { q.1 with bind := some (r.part, r.handle, i), bindDue := false, bindSeen := none, spareFor := none }
      | none => q.1 }

/-- A lane group with its binding ended (R309): its numbering and what it has sent stay; nothing waits for its region. -/
def Lane.unbound (l : Lane) : Lane :=
  { l with bind := none, bindDue := false, bindSeen := none, sendq := [], rx := none, rxq := [], reqs := [], reps := [],
           waits := [], tcred := 0, invs := [], invsOut := [], asked := [], spareFor := none }

/-- Every lane group of a region is free. -/
def unbindLanes (s : State) (r : Rgn) : State :=
  { s with lanes := s.lanes.map fun l => match l.bind with
      | some b => if b.1 = r.part ∧ b.2.1 = r.handle then l.unbound else l
      | none => l }

/-- KS_RCAUSE of a refusal that names an element (Table 9.6). -/
def rcauseAt (s : State) (p place cause step : Nat) (e : Elem) (slot chan : Nat) : Nat :=
  let q := recPlace s p place e
  cause + chan % 2 ^ 11 * 2 ^ 8 + q.1 % 8 * 2 ^ 24 + e.kind % 4 * 2 ^ 27 + e.x % 256 * 2 ^ 32 + e.y % 64 * 2 ^ 40 + slot % 32 * 2 ^ 46
    + step * 2 ^ 56

/-- KS_RCAUSE of a refusal that names no element. -/
def rcauseRgn (cause step chan : Nat) : Nat := cause + chan % 2 ^ 11 * 2 ^ 8 + 3 * 2 ^ 27 + step * 2 ^ 56

end Sys2Proof.Machine
end

