-- ==== Sys2Proof/Machine/Residents.lean ====
section
/-! DEFINITION. What is resident in a region, element by element, and why an element waits (spec/10: R264, R265, R267, R268,
R270, Tables 10.4 and 10.5). -/

namespace Sys2Proof.Machine

/-- A resident set, head or token on its way: the element at which it counts (none: queued by `inj` for a lane group),
its slot, tag and channel, its place under ARRIVAL, its tokens that are not EOS, and its payloads. -/
structure Resid where
  at_ : Option Nat
  slot : Nat
  tag : Nat
  chan : Nat
  ready : Nat
  toks : Nat
  pays : Nat
  deriving DecidableEq, Repr

/-- A token counts as a data token (R270): KIND data. -/
def dataCount (t : Token) : Nat := b2n (t.hdr.kind == 0)

/-- The sets and heads resident in element n. -/
def residIn (g : Region) (e : Elem) (n : Nat) : List Resid :=
  let sets := (e.sets.filter fun m => m.a.isSome || m.b.isSome || m.c.isSome).map fun m =>
    let hs := (m.a.toList ++ m.b.toList ++ m.c.toList).map fun (h : Held) => h.tok
    ({ at_ := some n, slot := m.slot, tag := m.tag, chan := 0, ready := m.ready.getD m.stamp, toks := (hs.map dataCount).sum,
       pays := (hs.filter bigTok).length } : Resid)
  let heads := e.heads.flatMap fun q => q.2.map fun (h : Held) =>
    ({ at_ := some n, slot := ((e.cfg.recv.find? fun v => v.valid && v.chan == q.1).map fun v => v.slot).getD 0,
       tag := h.tok.hdr.tag, chan := regChan g q.1, ready := h.stamp, toks := dataCount h.tok, pays := b2n (bigTok h.tok) } : Resid)
  sets ++ heads

/-- The element at which a token of a channel counts, and the slot of its receive entry (R268). -/
def countsAt (g : Region) (c : Chan) : Option Nat × Nat :=
  match c.dst, c.src with
  | .elem e, _ => (some e, (((nth g.elems e {}).cfg.recv.find? fun v => v.valid && v.chan == c.num).map fun v => v.slot).getD 0)
  | _, .elem e => (some e, 0)
  | _, _ => (none, 0)

/-- An EOS that the controller still has to send on an `inj` channel (R244). -/
def queuedEos (g : Region) (c : Chan) : List Token :=
  if g.eosInj.contains c.num then [{ hdr := { tag := g.rdrain.getD 0, kind := 1, chan := c.num } }] else []

/-- The tokens in a region's channels, injection queues and far receivers. -/
def residOut (s : State) (g : Region) : List Resid :=
  g.chans.flatMap fun c =>
    let q := countsAt g c
    (chanTokens s g c ++ queuedEos g c).map fun t =>
      ({ at_ := q.1, slot := q.2, tag := t.hdr.tag, chan := regChan g c.num, ready := s.clk, toks := dataCount t,
         pays := b2n (bigTok t) } : Resid)

/-- Everything resident in a region. -/
def resids (s : State) (g : Region) : List Resid :=
  (g.elems.zipIdx.flatMap fun q => residIn g q.1 q.2) ++ residOut s g

/-- R58's order of what is resident: by age and tag, or by arrival. -/
def residKey (g : Region) (x : Resid) : Nat :=
  let e := match x.at_ with | some n => nth g.elems n {} | none => {}
  if polArrival g then x.ready * 32 + x.slot
  else ((tagBody x.tag * 1024 + tagInst x.tag) * 65536 + ageOf e x.tag) * 32 + x.slot

/-- The first of a list by a key. -/
def firstResid (k : Resid → Nat) : List Resid → Option Resid
  | [] => none
  | x :: r => match firstResid k r with | some y => if k y < k x then some y else some x | none => some x

/-- The place of an element in reports and records (R268, R337): compute elements, then stack elements, then link-side
elements, each by die, then y, then x. -/
def reportKey (s : State) (l : Loc) : Nat :=
  let e := getElem s l
  let q := recPlace s l.part (getRegion s (rgnOf l)).place e
  ((e.kind * 16 + q.1) * 256 + q.2.2) * 256 + q.2.1

/-- An element index put in its place by a key. -/
def insertBy (k : Nat → Nat) (n : Nat) : List Nat → List Nat
  | [] => [n]
  | m :: r => if k n < k m then n :: m :: r else m :: insertBy k n r

/-- The elements of a region in the order of reports. -/
def reportOrder (s : State) (r : Rgn) : List Nat :=
  (List.range (getRegion s r).elems.length).foldl (fun acc n => insertBy (fun m => reportKey s ⟨r.part, r.handle, m⟩) n acc) []

/-- The arrival that waits at the head of a channel: token and receive entry. -/
def waitingArrival (s : State) (l : Loc) (c : Chan) : Option (Token × RecvEnt) :=
  if c.dst = .elem l.elem then arriving s l c.num else none

/-- The reasons of a refused arrival (Table 10.4): a frame collision, no place in pool and spill, no place in the store. -/
def arrivalReason (s : State) (l : Loc) (c : Chan) : Nat :=
  let g := getRegion s (rgnOf l)
  let e := getElem s l
  match waitingArrival s l c with
  | none => 0
  | some (t, v) =>
    let full := if roomFor g e t = .refuse then 8 else 0
    if v.head then full
    else if t.hdr.kind = 1 then 0
    else match meetArrival g e t v with
      | .refuse => if full ≠ 0 then full else if hasFrame e (tagBody t.hdr.tag) v.slot then 2 else 64
      | .place _ => full
      | _ => 0

/-- The reasons of a candidate that is not eligible (Table 10.4). -/
def candReason (s : State) (c : Cand) : Nat :=
  let f := c.foc
  let e := getElem s f.loc
  let g := getRegion s (rgnOf f.loc)
  let w := opFields (slotWord e f.slot)
  let opc := (opCode (slotWord e f.slot)).toNat
  match f.mode with
  | .data =>
    let i := gather s f w opc
    b2n (!allocTurn i) + 2 * b2n (!((tagsOut i).all (inWindow g e)) || !bankTurn i) + 4 * b2n (!quotaOk g e (entriesOf opc w))
      + 32 * b2n (!guardHolds e w || !gaugeTurn i)
  | .eos => 4 * b2n (!quotaOk g e (entriesOf opc w))
  | .trunc => 4 * b2n (!quotaOk g e (entriesOf opc w))
  | .mismatch =>
    2 * b2n (!((tagsOut (gather s f w opc)).all (inWindow g e))) + 4 * b2n (!quotaOk g e (entriesOf opc w))

/-- A slot whose heads carry different tags (R55). -/
def headsDiffer (e : Elem) (slot : Nat) : Bool :=
  let w := opFields (slotWord e slot)
  let ts := ((headPos w).filterMap fun p => headOf e slot p).filterMap fun (h : Held) =>
    if h.tok.hdr.kind = 1 then none else some h.tok.hdr.tag
  ts.any fun t => ts.any fun u => t != u

/-- A request held at the sequencer (R295). -/
def seqHeld (g : Region) (a : Access) : Bool := a.seq && a.reaches && !a.ordered && a.seqo != g.frontier

/-- The block reasons of an element (Table 10.4). -/
def reasons (s : State) (l : Loc) : Nat :=
  let g := getRegion s (rgnOf l)
  let e := getElem s l
  let cs := (candidates s l).foldl (fun m c => Nat.lor m (candReason s c)) 0
  let as := g.chans.foldl (fun m c => Nat.lor m (arrivalReason s l c)) 0
  let hd := if (List.range 32).any (headsDiffer e) then 16 else 0
  let sq := if e.port.accs.any (seqHeld g) then 2 else 0
  Nat.lor (Nat.lor cs as) (Nat.lor hd sq)

end Sys2Proof.Machine
end

