-- ==== Sys2Proof/Machine/Pours.lean ====
section
/-! DEFINITION. The end of a pour and the start of the next (spec/10: R270; spec/12: R293, R301, R303; spec/18: R367, R368;
spec/19: R370, R377; spec/04: R109; spec/01: R40). -/

namespace Sys2Proof.Machine

/-- The `sink` slots of the pour: element and slot (R109). -/
def sinkSlots (g : Region) : List (Nat × Nat) :=
  g.elems.zipIdx.flatMap fun q => (List.range 32).filterMap fun n =>
    if (opCode (nth q.1.cfg.slots n 0xFF00000FFFE00000)).toNat = 0x0C then some (q.2, n) else none

/-- A store that is not acknowledged (R190): at its port, or in a firing that has not committed. -/
def storesOut (e : Elem) : Bool :=
  e.port.accs.any (fun a => a.write) || e.pending.any fun f => match f.access with | some a => a.write | none => false

/-- A pour ends (R270): every `sink` slot holds EOS, and no store is unacknowledged. -/
def pourOver (g : Region) : Bool :=
  let ks := sinkSlots g
  running g && !g.stopping && g.bcastClk.isNone && ks != []
    && ks.all (fun k => bit (nth (nth g.elems k.1 {}).states k.2 0) 63)
    && g.elems.all fun e => !storesOut e

/-- The LEAK record of an element (R270): the first of its sets by R58's order, and the number of discarded tokens. -/
def leakRec (g : Region) (rs : List Resid) : Option FRec :=
  let rs := rs.filter fun x => x.toks != 0
  (firstResid (residKey g) rs).map fun x =>
    { cause := 0x60, tag := x.tag, slot := x.slot, addr := (rs.map fun y => y.toks).sum }

/-- The LEAK records of a pour's end, in the order of reports; tokens of `inj` for a lane group in one record (R270). -/
def leakRecs (s : State) (r : Rgn) : State :=
  let g := getRegion s r
  let all := resids s g
  let s := (reportOrder s r).foldl (fun s n =>
    match leakRec g (all.filter fun x => x.at_ == some n) with
    | some f => putRec s r (atElem s ⟨r.part, r.handle, n⟩ f)
    | none => s) s
  match leakRec g (all.filter fun x => x.at_ == none) with
  | some f => putRec s r { f with slot := 0, ekind := 3 }
  | none => s

/-- The digest of a pour (R301, R303): 32 zero bytes of a pour that is not sequenced. -/
def pourDigest (g : Region) : Nat :=
  if polSeq g then ((g.digq.flatMap fun d => sortLines d.lns).foldl Sponge.line g.digest).digest else 0

/-- Everything still in the pour's elements and channels is discarded; the launch's flags take the elements' (R40, R270). -/
def clearPour (g : Region) : Region :=
  { g with
    rflags := g.elems.foldl (fun f e => f ||| e.flags) g.rflags
    elems := g.elems.map fun e =>
      { e with sets := [], heads := [], eosFlags := 0, eosTags := [], pending := [], inject := [], poolHeld := [],
               spillHeld := [], oldest := [], flags := 0, port := { e.port with accs := [], nests := [] } }
    chans := g.chans.map fun c =>
      { c with reserved := 0, outstanding := 0, flights := [], arrived := [], acks := [] }
    bodies := g.bodies.map fun b => freshBody b.desc
    msgs := [], bcasts := [], frees := [], digq := [], eosInj := [], pass := none, stopAt := none }

/-- The tokens that lie in the far receivers of the pour's channels are discarded; they count as passed on (R311). -/
def clearFar (s : State) (g : Region) : State :=
  { s with lanes := s.lanes.zipIdx.map fun q =>
      if g.chans.any fun c => c.src == .link q.2 then { q.1 with rxq := [], tcred := q.1.tcred + q.1.rxq.length } else q.1 }

/-- What an element has issued commits, in order (R60). -/
def commitElem (l : Loc) : Nat → State → State
  | 0, s => s
  | n + 1, s =>
    let e := getElem s l
    match commitNext e ((e.pending.map fun (f : Firing) => f.due).foldl max 0) with
    | some k => commitElem l n (commit s l k)
    | none => s

/-- Every issued firing of a region commits before its pour is cleared (R60, R270, log entry 21). -/
def commitPour (s : State) (r : Rgn) : State :=
  (List.range (getRegion s r).elems.length).foldl (fun s k =>
    let l : Loc := ⟨r.part, r.handle, k⟩
    commitElem l (getElem s l).pending.length s) s

/-- The step POUR_END (R270). -/
def pourEnd (s : State) (r : Rgn) : State :=
  let g := getRegion s r
  if !pourOver g then s
  else
    let s := leakRecs (commitPour s r) r
    let s := vwriteD s r.part (workArea g + 0x4000 + 32 * g.pour) 32 (pourDigest g)
    let s := clearFar s g
    let h := clearPour (getRegion s r)
    if h.pour + 1 < h.img.npour then setRegion s r { h with between := true }
    else postRegion (endLaunch (setRegion s r { h with st := 4, shrp := false, rdrain := none }) r h.launch 1) r.part r.handle

/-- The step POUR_END. -/
def execEvPourEnd (r : Rgn) (s : State) : Host.Outcome State Fault Refusal := .next (pourEnd s r)

/-- The variant of pour n at footprint f. -/
def variantOf (g : Region) (n f : Nat) : Option Variant := (nth g.img.pours n []).find? fun v => v.foot == f

/-- The buffers that pour n lists at the current footprint (R368). -/
def liveBuffers (g : Region) (n : Nat) : List (Nat × Nat × Nat) :=
  match variantOf g n g.foot with | some v => v.carry | none => []

/-- FORCE of pour n at the current footprint (R368). -/
def forced (g : Region) (n : Nat) : Bool := match variantOf g n g.foot with | some v => v.force == 1 | none => false

/-- The elements that the region would need at footprint f are held by another (R377). -/
def growHeld (s : State) (r : Rgn) (g : Region) (n f : Nat) : Bool :=
  match variantOf g n f with
  | none => true
  | some v => rectsHeld s r (dieRects g.place v.w v.h)

/-- The discard report (R365, R368). -/
def discardReport (g : Region) (bs : List (Nat × Nat × Nat)) : Nat :=
  let l := bs.take 511
  l.length + (g.pour + 1) * 2 ^ 32
    + 2 ^ 64 * packLanes 64 (l.map fun q => q.2.2 % 2 ^ 16 + q.1 % 256 * 2 ^ 16 + q.2.1 % 256 * 2 ^ 24)

/-- RECONFIG_BUSY (R368): the footprint stays, the shrink waits, KS_RCAUSE names the first live buffer. -/
def reconfigBusy (s : State) (r : Rgn) (q : Nat × Nat × Nat) : State :=
  let g := getRegion s r
  let e := (sameElem g 0 q.1 q.2.1).getD { kind := 0, x := q.1, y := q.2.1 }
  postRegion (setRegion s r { g with rcause := rcauseAt s r.part g.place 0x04 0xF e 0 q.2.2 }) r.part r.handle

/-- The next pour starts at the region's footprint, with the buffers it carries over (R367); in DRAINING, one EOS is queued
for each `inj` channel (R370). -/
def startPour (s : State) (r : Rgn) (carry : List (Nat × Nat × Nat)) : State :=
  let g := getRegion s r
  let h := configure { g with pour := g.pour + 1 } carry
  let inj := (h.chans.filter fun c => c.src == .inj).map fun c => c.num
  setRegion s r { h with idleBase := s.clk, shadow := none, eosInj := if h.st = 3 then inj else [] }

/-- The next pour at the footprint of a shrunk region needs an element that was given up and that another region holds now: the
pour waits for it, since regions are disjoint (R8, R377; DESIGN CHOICE, log entry 70). -/
def pourWaits (s : State) (r : Rgn) : Bool :=
  let g := getRegion s r
  g.foot != 0 && growHeld s r g (g.pour + 1) g.foot

/-- The next pour starts at the footprint that the region has, or waits for its elements; `s'`: what the boundary has changed. -/
def keepFoot (s s' : State) (r : Rgn) (carry : List (Nat × Nat × Nat)) : State :=
  if pourWaits s r then s else startPour s' r carry

/-- What a pending shrink does at the boundary (R368, R377). -/
def boundary (s : State) (r : Rgn) : State :=
  let g := getRegion s r
  let n := g.pour + 1
  let live := liveBuffers g n
  if !g.shrp then keepFoot s s r live
  else if g.shrink = g.foot then keepFoot s (setRegion s r { g with shrp := false }) r live
  else match live with
    | q :: _ =>
      if !forced g n then keepFoot s (reconfigBusy s r q) r live
      else if growHeld s r g n g.shrink then keepFoot s s r live
      else
        let k := 8 + 8 * (live.take 511).length
        let s := vwriteLong s r.part 66 (workArea g + 0x1C000) k (discardReport g live)
        startPour (setRegion s r { g with shrp := false, foot := g.shrink }) r []
    | [] =>
      if growHeld s r g n g.shrink then keepFoot s s r []
      else startPour (setRegion s r { g with shrp := false, foot := g.shrink }) r []

/-- The first pour of a launch starts, as configured (R77, R367). -/
def startFirst (s : State) (r : Rgn) : State :=
  modRegion s r fun g => { g with between := false, starting := false, idleBase := s.clk }

/-- The step POUR_START (R77, R367): in a clk in which the wheels stand at index 0, the first pour of a launch or the next one. -/
def execEvPourStart (r : Rgn) (s : State) : Host.Outcome State Fault Refusal :=
  let g := getRegion s r
  if g.between && (g.st == 2 || g.st == 3) && wheelIndex s (firstDie g.place) == 0 then .next (if g.starting then startFirst s r else boundary s r) else .next s

end Sys2Proof.Machine
end

