-- ==== Sys2Proof/Machine/KFabric.lean ====
section
/-! DEFINITION. The fabric instructions of the kettle core (spec/09: R236 to R248; spec/10: R254; spec/14: R328, R331, R334;
spec/18: R362; spec/19: R370, R377). -/

namespace Sys2Proof.Machine

/-- A status in kd (Table 9.5). -/
def fstatus (s : State) (d : KReg) (n : Nat) : State := kret s d (BitVec.ofNat 64 n)

/-- LOAD or CUTP is 1, or a save is under way: every fabric instruction but `fltq` returns BUSY (R238). -/
def regionBusy (g : Region) : Bool := g.load || g.cutp || saving g

/-- The judgement of a fabric instruction that names a region by its handle alone (R236, R237, R238): the core's earlier
accesses first; BADHANDLE, BUSY, BADSTATE; then the entry's own. Acceptance resets the Doldrums idle counter (R267). -/
def fabric (s : State) (d : KReg) (v : Word64) (states : List Nat) (f : State → Rgn → Region → Nat × State) : State :=
  let s := korder s false
  if v.toNat / 64 ≠ 0 then fstatus s d 3
  else
    let r : Rgn := ⟨curPart s, v.toNat⟩
    let g := getRegion s r
    if regionBusy g then fstatus s d 1
    else if !states.contains g.st then fstatus s d 2
    else
      let q := f s r g
      fstatus (if q.1 = 0 then busy q.2 r else s) d q.1

/-- A region in a new state, and its event (R232). -/
def enterState (s : State) (r : Rgn) (g : Region) (st : Nat) : State :=
  postRegion (setRegion s r { g with st := st }) r.part r.handle

/-- `iload` (R239, R240): the image is handed to the Infuser. The placement is judged by REGW and REGH of the image's header;
where that cannot be read, by its origin alone: 1 × 1 in one die, the whole dies of DMASK (DESIGN CHOICE, log entry 28). -/
def iload (s : State) (r : Rgn) (va place : Nat) : Nat × State :=
  let g := getRegion s r
  let sh := peekShape s r.part va
  let w := (sh.map fun q => q.1).getD (if bits place 27 20 = 0 then 1 else 160)
  let h := (sh.map fun q => q.2).getD (if bits place 27 20 = 0 then 1 else 40)
  if regionBusy g then (1, s)
  else if g.st ≠ 0 then (2, s)
  else if va % 4096 ≠ 0 || 2 ^ 56 ≤ va then (4, s)
  else if !placeOk place then (3, s)
  else if placeDenied s r place w h then (6, s)
  else if infuserBusy s r.part place then (1, s)
  else
    (0, busy (occupyInfusers (setRegion s r
      { g with load := true, failed := false, place := place, imgAddr := va, foot := 0, img := { regw := w, regh := h }, copy := {}, job := some (.load va place) })
      r place) r)

/-- `iload` (R240). -/
def execKIload (d a b : KReg) (s : State) : Host.Outcome State Fault Refusal :=
  let s := korder s false
  let pw := (kreg s b).toNat
  let q := iload s ⟨curPart s, pw % 64⟩ (kreg s a).toNat pw
  .next (fstatus (if q.1 = 0 then q.2 else s) d q.1)

/-- The footprint of pour 0 at an `arm`: the region's, where pour 0 has a variant of it, else the full one. -/
def armFoot (g : Region) : Nat := if (variantOf g 0 g.foot).isSome then g.foot else 0

/-- `arm` (R240): DONE becomes ARMED with pour 0 restored. -/
def armRegion (s : State) (r : Rgn) (g : Region) : Nat × State :=
  let f := armFoot g
  if f ≠ g.foot && growHeld s r g 0 f then (6, s)
  else (0, enterState s r { configureCold { g with foot := f } with rdrain := none, stopping := false, recorded := [], stopW0 := 0 } 1)

/-- `arm` (R240). -/
def execKArm (d a : KReg) (s : State) : Host.Outcome State Fault Refusal :=
  .next (fabric s d (kreg s a) [4] armRegion)

/-- What `arm.off` leaves of a region (R240, R226): UNARMED, with the CSRs that survive. -/
def offRegion (g : Region) : Region := { launch := g.launch, rcause := g.rcause, rflags := g.rflags }

/-- A region goes UNARMED (R240, R208): its launch, if pending, is aborted; its lane groups are free. -/
def armOff (s : State) (r : Rgn) : State :=
  let g := getRegion s r
  enterState (unbindLanes (endLaunch s r g.launch 2) r) r (offRegion g) 0

/-- `arm.off` (R240). -/
def execKArmOff (d a : KReg) (s : State) : Host.Outcome State Fault Refusal :=
  .next (fabric s d (kreg s a) [1, 4, 5, 6] fun s r _ => (0, armOff s r))

/-- `pour` (R246): stages a pour into the shadow. -/
def execKPour (d a b : KReg) (s : State) : Host.Outcome State Fault Refusal :=
  let n := (kreg s b).toNat
  .next (fabric s d (kreg s a) [1, 2, 3, 5] fun s r g =>
    if g.img.npour ≤ n then (4, s) else (0, setRegion s r { g with shadow := some n }))

/-- Control state with an uncorrectable error is met by a launch, and again by a resume: the record names the place by its
location code (R406). -/
def meetCtrl (s : State) (r : Rgn) : State :=
  (getRegion s r).elems.zipIdx.foldl (fun s q => match q.1.badCtrl with
    | some c => meetStop s ⟨r.part, r.handle, q.2⟩ { cause := 0x12, addr := elemCode s ⟨r.part, r.handle, q.2⟩ c } c
    | none => s) s

/-- `launch` (R246, R203, R208, R248, R309, R325): pour 0 starts when the wheels next stand at index 0 (R77, R367). -/
def launchRegion (s : State) (r : Rgn) (g : Region) (id : Nat) : State :=
  let g := resetGauges { g with launch := id, rflags := 0, faultq := [], fltlost := 0, signals := 0, origin := 0, nfront := 0,
                                launchClk := s.clk, rdrain := none, resumeSt := 2, between := true, starting := true }
  let s := { s with lanes := s.lanes.map fun l => match l.bind with
    | some b => if b.1 = r.part ∧ b.2.1 = r.handle then { l with bindDue := true, bindSeen := none } else l
    | none => l }
  meetLost (meetCtrl (putLaunch (enterState s r g 2) r id) r) r

/-- `launch` (R246). -/
def execKLaunch (d a b : KReg) (s : State) : Host.Outcome State Fault Refusal :=
  let n := (kreg s b).toNat
  .next (fabric s d (kreg s a) [1] fun s r g => if n = 0 || 2 ^ 32 ≤ n then (4, s) else (0, launchRegion s r g n))

/-- The header of a token image may be sent (R245, R81, R82): data or EOS; shape fields within R81; an EOS carries VMASK 0. -/
def imageHdrOk (h : Hdr) : Bool :=
  if h.kind = 0 then shapeOk h
  else h.kind == 1 && h.vmask == 0
    && ((h.vrows == 0 && h.vcols == 0 && h.tcols == 0 && h.trows == 0) || (h.pkind == 3 && shapeOk { h with kind := 0 }))

/-- A header has the channel's format and kind, and none that a conversion under SR refuses (R245, which exempts no EOS). -/
def chanTakes (c : Chan) (h : Hdr) : Bool :=
  (match c.fmts with | none => true | some l => l.contains (h.fmt, h.pkind)) && !c.refuse.contains h.fmt

/-- The token that `inj` forms of an image (R245): its poison and, with it, its fault index are carried; the sequence fields
are the pour's. -/
def injToken (g : Region) (t : Token) : Token :=
  { t with hdr := withSeq g { t.hdr with chan := g.chBase + t.hdr.chan, fidx := if t.hdr.poison then t.hdr.fidx else 0,
                                         poison := t.hdr.poison && t.hdr.kind != 1 } }

/-- `inj` judged by the controller (R245). -/
def inject (s : State) (r : Rgn) (g : Region) (t : Token) : Nat × State :=
  match g.chans.find? fun (c : Chan) => c.num == g.chBase + t.hdr.chan && c.src == .inj with
  | none => (4, s)
  | some c =>
    if !imageHdrOk t.hdr || !chanTakes c t.hdr then (5, s)
    else if c.quota ≤ c.reserved + c.outstanding then (1, s)
    else
      let g' := { g with origin := if t.hdr.poison && t.hdr.kind != 1 then nextOrigin g.origin else g.origin,
                         eosInj := if t.hdr.kind = 1 then g.eosInj.filter (· ≠ c.num) else g.eosInj,
                         chans := g.chans.map fun x => if x.num = c.num then injSend s.clk (injToken g t) x else x }
      (0, tapEnter (setRegion s r g') r c.num (injToken g t))

/-- The token image at a local address (R245): header, scalar at byte 32, or beats from byte 128; and its length. -/
def tokenImage (m : List Host.Cell) (a : Nat) : Token × Nat :=
  let h := hdrOfBits (readBytes m a 32)
  let n := payloadBytes h
  if h.kind ≠ 0 then ({ hdr := h }, 128)
  else if h.pkind < 2 then ({ hdr := h, payload := readBytes m (a + 32) n }, 128)
  else ({ hdr := h, payload := if 4096 < n then 0 else readBytes m (a + 128) n }, 128 + min n 4096)

/-- A line of the current core's local memory between two addresses is uncorrectable (R406). -/
def localBadIn (s : State) (a n : Nat) : Bool :=
  (curCore s).badLocal.any fun l => a / 64 ≤ l && l ≤ (a + n - 1) / 64

/-- `inj` (R245): the token image at a local address, 128-byte aligned (R236). -/
def execKInj (d a b : KReg) (s : State) : Host.Outcome State Fault Refusal :=
  let x := (kreg s a).toNat
  let t := tokenImage (curCore s).lmem x
  if x % 128 ≠ 0 || localTop ≤ x || localTop < x + t.2 then .next (ktrap s (trapAccess (kreg s a)))
  else if localBadIn s x t.2 then .next (ktrap s (trapMemory 0x12 (kreg s a)))
  else .next (fabric s d (kreg s b) [1, 2] fun s r g => inject s r g t.1)

/-- `argw` judged by the controller (R241). -/
def argWrite (s : State) (r : Rgn) (g : Region) (v k : Nat) : Nat × State :=
  let slot := bits k 10 6
  match g.elems.findIdx? fun e => e.x == bits k 18 11 && e.y == bits k 24 19 && e.kind == b2n (bit k 25) with
  | none => (4, s)
  | some n =>
    let e := nth g.elems n {}
    let wd := nth e.cfg.slots slot 0xFF00000FFFE00000
    if (curVariant g).elems.length ≤ n then (4, s)
    else if descFault g.img (opCode wd).toNat (opFields wd) v ≠ 0 then (4, s)
    else (0, setRegion s r { g with elems := modNth g.elems n fun e => { e with consts := modNth e.consts slot fun _ => v } })

/-- `argw` (R241): BUSY and BADSTATE for the handle of the slot word, BADHANDLE for its zero bits, then RANGE. -/
def execKArgw (d a b : KReg) (s : State) : Host.Outcome State Fault Refusal :=
  let k := (kreg s b).toNat
  .next (fabric s d (BitVec.ofNat 64 (k % 64)) [1, 2, 3, 5] fun s r g =>
    if k / 2 ^ 26 ≠ 0 then (3, s) else argWrite s r g ((kreg s a).toNat % 2 ^ 32) k)

/-- A stop is broadcast (R242, R328): CUTP is 1 until the cut is complete. -/
def beginCut (s : State) (r : Rgn) : State :=
  modRegion s r fun g => { g with stopping := true, cutp := true, bcastClk := some (g.bcastClk.getD s.clk) }

/-- `rstop` (R242). -/
def execKRstop (d a : KReg) (s : State) : Host.Outcome State Fault Refusal :=
  .next (fabric s d (kreg s a) [2, 3] fun s r _ => (0, beginCut s r))

/-- A held access is judged again after a resume (R334): a malformed record or an address out of bounds from its start, of a
`sort2` from the side that it had reached. -/
def unhold (a : Access) : Access :=
  match a.held with
  | some 0x13 => if a.op = 0x0D then { a with held := none } else { a with held := none, begun := false, headed := false, pieces := [], xl := 0 }
  | some _ => { a with held := none }
  | none => a

/-- The region goes on from its cut (R243, R331, R334). -/
def resume (g : Region) (pass : Bool) (clk : Nat) : Region :=
  { g with elems := g.elems.map fun e => { e with port := { e.port with accs := e.port.accs.map unhold } }
           pass := if pass then g.stopAt else none
           stopAt := none, recorded := [], stopW0 := 0, stopping := false, bcastClk := none, cutp := false, fronts := [],
           idleBase := clk }

/-- `rresume` (R243): kb [63:1] must be 0. -/
def execKRresume (d a b : KReg) (s : State) : Host.Outcome State Fault Refusal :=
  let v := (kreg s b).toNat
  .next (fabric s d (kreg s a) [5] fun s r g =>
    if 2 ≤ v then (4, s) else (0, meetLost (meetCtrl (enterState s r (resume g (v == 1) s.clk) g.resumeSt) r) r))

/-- `rdrain` (R244): DRAINING; an EOS is queued on each `inj` channel of the pour that has not carried one. -/
def drainRegion (s : State) (r : Rgn) (g : Region) (tag : Nat) : State :=
  let qs := (g.chans.filter fun (c : Chan) => c.src == .inj && !c.eosDone).map fun c => c.num
  enterState s r { g with rdrain := some tag, eosInj := if g.between && !g.starting then [] else qs } 3

/-- `rdrain` (R244). -/
def execKRdrain (d a b : KReg) (s : State) : Host.Outcome State Fault Refusal :=
  .next (fabric s d (kreg s a) [2] fun s r g => (0, drainRegion s r g ((kreg s b).toNat % 2 ^ 32)))

/-- A save area is 4 KiB aligned, in the 56-bit virtual space (R236, R247). -/
def areaOk (v : Nat) : Bool := v % 4096 == 0 && v < 2 ^ 56

/-- `rsave` (R247). -/
def execKRsave (d a b : KReg) (s : State) : Host.Outcome State Fault Refusal :=
  let v := (kreg s b).toNat
  .next (fabric s d (kreg s a) [5] fun s r g =>
    if !areaOk v then (4, s) else (0, setRegion s r { g with job := some (.save v) }))

/-- `evict` (R247): a stop at a cut, then the save. -/
def execKEvict (d a b : KReg) (s : State) : Host.Outcome State Fault Refusal :=
  let v := (kreg s b).toNat
  .next (fabric s d (kreg s a) [2, 3] fun s r g =>
    if !areaOk v then (4, s) else (0, beginCut (setRegion s r { g with job := some (.evict v) }) r))

/-- The header of a save area (Table 19.3), where it can be read. -/
def saveHeader (s : State) (p area : Nat) : Option Nat :=
  match vreadLong s p 8 area 0x160 with
  | .ok x => some x
  | .error _ => none

/-- A placement's shape is not w × h (R247): a one-die placement holds at most 40 × 20; DMASK has its dies' rectangle. -/
def shapeDiffers (place w h : Nat) : Bool :=
  if bits place 27 20 = 0 then 40 < w || 20 < h else !shapePlaced place w h

/-- `rrestore` judged by the controller (R247). -/
def rrestore (s : State) (r : Rgn) (area place : Nat) : Nat × State :=
  let g := getRegion s r
  if regionBusy g then (1, s)
  else if g.st ≠ 6 then (2, s)
  else if area % 4096 ≠ 0 || 2 ^ 56 ≤ area then (4, s)
  else if !placeOk place then (3, s)
  else match saveHeader s r.part area with
    | none => (4, s)
    | some x =>
      let w := byteRange x 0x20 2
      let h := byteRange x 0x22 2
      if shapeDiffers place w h then (4, s)
      else if placeDenied s r place w h then (6, s)
      else if infuserBusy s r.part place then (1, s)
      else (0, busy (occupyInfusers (setRegion s r
        { g with load := true, place := place, copy := {}, job := some (.restore place area) }) r place) r)

/-- `rrestore` (R247). -/
def execKRrestore (d a b : KReg) (s : State) : Host.Outcome State Fault Refusal :=
  let s := korder s false
  let pw := (kreg s a).toNat
  let q := rrestore s ⟨curPart s, pw % 64⟩ (kreg s b).toNat pw
  .next (fstatus (if q.1 = 0 then q.2 else s) d q.1)

/-- A shrink to footprint f is possible (R246, R377): a pour remains after the current one, and every such pour has a
variant of f. -/
def shrinkOk (g : Region) (f : Nat) : Bool :=
  g.pour + 1 < g.img.npour && (g.img.pours.drop (g.pour + 1)).all fun vs => vs.any fun v => v.foot == f

/-- `shrink` (R246, R377). -/
def execKShrink (d a b : KReg) (s : State) : Host.Outcome State Fault Refusal :=
  let f := (kreg s b).toNat
  .next (fabric s d (kreg s a) [2, 3] fun s r g =>
    if 3 ≤ f || !shrinkOk g f then (4, s) else (0, setRegion s r { g with shrp := true, shrink := f }))

/-- `fltq` (R248): the oldest record to a 64-byte aligned local address, its cause to kd; 0 with the queue empty. It is
accepted in every state. -/
def execKFltq (d a b : KReg) (s : State) : Host.Outcome State Fault Refusal :=
  let x := (kreg s b).toNat
  let h := (kreg s a).toNat
  if x % 64 ≠ 0 || localTop ≤ x then .next (ktrap s (trapAccess (kreg s b)))
  else if localBadIn s x 64 then .next (ktrap s (trapMemory 0x12 (kreg s b)))
  else
    let s := korder s false
    if h / 64 ≠ 0 then .next (fstatus s d 3)
    else
      let r : Rgn := ⟨curPart s, h⟩
      let g := getRegion s r
      match g.faultq with
      | [] => .next (fstatus (busy s r) d 0)
      | f :: q => .next (fstatus (lstore (setRegion s r { g with faultq := q, idleBase := s.clk }) x 64 f) d (bits f 63 56))

end Sys2Proof.Machine
end

