-- ==== Sys2Proof/Machine/Power.lean ====
section
/-! DEFINITION. Boot, resets, attestation, power, the Squall governor, the Isobar regulator and refresh (spec/00: R4, R5, R6;
spec/09: R213; spec/20: R395; spec/22: R409 to R412; spec/23: R414 to R418). -/

namespace Sys2Proof.Machine

/-- A byte of the firmware image in the flash; one that the flash does not list is free (log entry 6). -/
def flashByte (s : State) (i : Nat) : Byte := s.flash.getD i (Config.firmwareByte i)

/-- n bytes of the firmware image. -/
def flashRange (s : State) (off n : Nat) : Nat := ofBytes ((List.range n).map fun i => flashByte s (off + i))

/-- Entries of the retirement list that ends the image (Table 23.2). -/
def retireCount (s : State) : Nat := flashRange s (flashRange s 1120 8) 4

/-- The bytes that the firmware's signature covers: up to the end of its retirement list (Table 23.1, log entry 6). -/
def firmwareBody (s : State) : Nat := flashRange s 1120 8 + 8 + 8 * retireCount s

/-- An entry of the partition map (Table 23.1). -/
def firmwarePart (s : State) (p : Nat) : PmapEnt :=
  let o := 1056 + 4 * p
  { dmask := flashRange s o 1, half := flashRange s (o + 1) 1, ports := flashRange s (o + 2) 1 % 4, valid := bit (flashRange s (o + 3) 1) 0 }

/-- The partition map of the image. -/
def firmwareMap (s : State) : List PmapEnt := (List.range 16).map (firmwarePart s)

/-- Each die belongs to one whole-die partition or to two half partitions, which hold no other die; each partition has a host
port (R9, R417). -/
def mapOk (m : List PmapEnt) : Bool :=
  let vs := m.filter fun e => e.valid
  (vs.all fun e => e.ports != 0 && e.dmask != 0 && (e.half == 0 || ((e.half == 1 || e.half == 2) && popcount 8 e.dmask == 1)))
    && (List.range 8).all fun d =>
      let on := vs.filter fun e => bit e.dmask d
      (on.map fun e => e.half) == [0] || (on.map fun e => e.half) == [1, 2] || (on.map fun e => e.half) == [2, 1]

/-- A die's boot ROM accepts the image: its header and its XMSS signature under the fused key (R416). -/
def dieAccepts (s : State) (key : Nat) : Bool :=
  let n := firmwareBody s
  flashRange s 0 8 == 0x5257464F4C494F4E && flashRange s 24 8 ≤ 0x80000 && flashRange s 8 8 < flashRange s 24 8
    && retireCount s ≤ 1024 && xmssVerify key n (flashRange s 0 n) (flashRange s n sigBytes)

/-- The retirement list of the image: KIND, D, X, Y, ROW (Table 23.2). -/
def firmwareRetired (s : State) : List (Nat × Nat × Nat × Nat × Nat) :=
  let o := flashRange s 1120 8
  (List.range (retireCount s)).map fun j =>
    let b (k : Nat) : Nat := flashRange s (o + 8 + 8 * j + k) 1
    (b 0, b 1, b 2, b 3, flashRange s (o + 12 + 8 * j) 4)

/-- The columns of a die that hold a failed element, each once (R412). -/
def failedColumns (l : List (Nat × Nat × Nat × Nat × Nat)) (d : Nat) : List Nat :=
  ((l.filter fun e => e.1 == 1 && e.2.1 == d).map fun e => e.2.2.1).dedup

/-- The column repair map of a die: the first 40 of its 42 physical columns that the first two failed columns leave (R363,
R412). -/
def repairMap (l : List (Nat × Nat × Nat × Nat × Nat)) (d : Nat) : List Nat :=
  let out := (failedColumns l d).take 2
  ((List.range 42).filter fun x => !out.contains x).take 40

/-- A line of HBM lies in a DRAM row that the list names, which is repaired (R412): die, stack, port, bank and row. Which row a
line lies in is a free value. -/
def rowRepaired (l : List (Nat × Nat × Nat × Nat × Nat)) (line : Nat) : Bool :=
  l.any fun e => e.1 == 3 && e.2.2.1 == line / 2 ^ 31 && e.2.2.2.1 == bits (64 * line) 12 8 && e.2.2.2.2 == (Config.dramRow line).toNat

/-- A kettle core as a boot ROM starts it (R213, R416). A pc is a multiple of 4 (R210): bits [1:0] of ENTRY are dropped (log
entry 6). -/
def bootCore (entry : Nat) (lmem : List Host.Cell) : Core :=
  { Core.reset with pc := BitVec.ofNat 64 entry &&& 0xFFFFFFFFFFFFFFFC, lmem := lmem }

/-- What a boot leaves of the module: its memories outside, its fuses and its flash; regions UNARMED; HBM as given (R5, R416). -/
def bareModule (s : State) (hbm : List Host.Cell) : State :=
  { State.reset with powered := true, hbm := hbm, hostMem := s.hostMem, hostOut := [], badLines := s.badLines,
                     softLines := s.softLines, flash := s.flash, flashing := s.flashing, flashOk := s.flashOk, rootKeys := s.rootKeys, attIndex := s.attEnd, attEnd := s.attEnd + 1024,
                     agenda := s.agenda, cur := s.cur, fresh := s.fresh, ids := s.ids }

/-- A boot (R213, R416, R417): the image is copied and verified by every die; then the code section is in each core's local
memory and the cores start at ENTRY. Where a die's check or the partition map fails, or a write of the flash was cut, no core
starts, and BOOTST is 2. -/
def boot (s : State) (hbm : List Host.Cell) (lmem : Nat → List Host.Cell) : State :=
  let t := bareModule s hbm
  let alm (p : Nat) : Part := { almbase := (getPart s p).almbase, almseq := if s.powered then (getPart s p).almseq else 0 }
  let t := { t with parts := t.parts.mapFinIdx fun i _ _ => alm i }
  if s.flashOk && s.rootKeys.all (dieAccepts s) && mapOk (firmwareMap s) then
    let l := firmwareRetired s
    let size := flashRange s 24 8
    let code := flashRange s (flashRange s 16 8) size
    let entry := flashRange s 8 8
    { t with
      cores := t.cores.mapFinIdx fun i _ _ => bootCore entry (writeBytes (lmem i) 0 size code)
      keys := (List.range 16).map fun k => flashRange s (32 + 64 * k) 64
      badLines := t.badLines.filter fun x => !rowRepaired l x, softLines := t.softLines.filter fun x => !rowRepaired l x.1
      pmap := firmwareMap s, retired := l, colmaps := (List.range 8).map (repairMap l), entry := entry, bootst := 0 }
  else { t with cores := t.cores.map fun c => { c with started := false }, bootst := 2 }

/-- The step POWER_UP (R416), on an unpowered module. -/
def execEvPowerUp (s : State) : Host.Outcome State Fault Refusal :=
  if s.powered then .next s else .next (boot s [] fun _ => [])

/-- The step MODULE_RESET (R416): HBM and local memory keep their bytes (log entry 6). -/
def execEvModuleReset (s : State) : Host.Outcome State Fault Refusal :=
  if s.powered then .next (boot s s.hbm fun k => (s.cores[k]?.map fun c => c.lmem).getD []) else .next s

/-- The step POWER_OFF (R5): all HBM and SRAM state is lost; a write to the flash that it interrupts leaves no valid image
(R416). -/
def execEvPowerOff (s : State) : Host.Outcome State Fault Refusal :=
  let t := bareModule s []
  .next { t with powered := false, flashing := none, flashOk := s.flashOk && s.flashing.isNone, badLines := [], softLines := [], attIndex := s.attIndex, attEnd := s.attEnd,
                 cores := t.cores.map fun c => { c with started := false } }

/-- A lane group of a partition that resets: its binding ends and UNBIND goes out (R395). -/
def Lane.partReset (l : Lane) : Lane := if l.bind.isSome then l.unbound.post [ctlFlit ckUnbind 0 0 0] else l.unbound

/-- The effects of a partition reset (R208, R395): new requests are refused; regions are UNARMED without records and what they
held is discarded; lane groups send UNBIND; the cores stop. HBM and the Almanac are kept. -/
def resetPart (s : State) (p : Nat) : State :=
  let q := getPart s p
  let s := { s with lanes := s.lanes.map fun l => match l.bind with | some b => if b.1 = p then l.partReset else l | none => l
                    infuser := s.infuser.filter fun x => x.2.1 != p
                    walkc := s.walkc.map fun l => l.filter fun w => w.part != p
                    cores := s.cores.mapFinIdx fun i c _ => if ownsCore s p i then { c with started := false, wait := none, buf := [] } else c }
  let s := q.inbound.foldl (fun s x => if x.write then s else { s with hostReply := some (1, 0) }) s
  setPart s p { q with inReset := true, inbound := [], ptbase := 0, regions := [], launches := [], inval := none, noticed := [], grace := [],
                       graceFor := [], expired := [], evicting := [] }

/-- The end of a partition reset (R213, R395): its cores start again at ENTRY. -/
def restartPart (s : State) (p : Nat) : State :=
  let s := modPart s p fun q => { q with inReset := false }
  { s with cores := s.cores.mapFinIdx fun i c _ => if ownsCore s p i then bootCore s.entry c.lmem else c }

/-- The step PARTITION_RESET (R395): it begins, and by a second step it is complete. -/
def execEvPartitionReset (p : Nat) (s : State) : Host.Outcome State Fault Refusal :=
  .next (if (getPart s p).inReset then restartPart s p else resetPart s p)

/-- The bytes that a quote holds before its signature (R418): the nonce, the digest of the firmware image, MW_VERS, the
partition's PMAP entry. -/
def quoteBytes (s : State) (p nonce : Nat) : Nat :=
  let e := pmapOf s p
  let n := firmwareBody s + sigBytes
  nonce % 2 ^ 256 + 2 ^ 256 * (shake256 [(n, flashRange s 0 n)] % 2 ^ 256) + 2 ^ 512 * 0x0100010101000000
    + 2 ^ 576 * (e.dmask % 256 + e.half % 256 * 2 ^ 8 + e.ports % 256 * 2 ^ 16 + b2n e.valid * 2 ^ 24)

/-- The step ATTESTATION_REQUEST (R418): a nonce whose request byte is 1 is answered with a quote at 0x15_8040, and the byte
cleared with a release; after 2^20 indices no quote is written. -/
def execEvAttestationRequest (p : Nat) (s : State) : Host.Outcome State Fault Refusal :=
  match vread s p 0x158000 64 with
  | .error _ => .next s
  | .ok v =>
    let s := logVread s p 0 0x158000
    if byteRange v 32 1 ≠ 1 then .next s
    else if 2 ^ 20 ≤ s.attIndex then .next (vwriteD (vwriteLong s p 64 0x158040 2896 0) p 0x158020 1 0)
    else
      let b := quoteBytes s p v
      let sig := (Config.quoteSig s.attIndex b).toNat
      let next := s.attIndex + 1
      let t := { s with attIndex := next, attEnd := if next = s.attEnd then s.attEnd + 1024 else s.attEnd }
      .next (vwriteD (vwriteLong t p 64 0x158040 2896 (b + 2 ^ 608 * sig)) p 0x158020 1 0)

/-- The step SUPPLY_DROOP (R415): a sensor of die d sees a sag; the die's clocks are stretched by x eighths of a period, 1 to 4;
counts do not change. -/
def execEvSupplyDroop (d x : Nat) (s : State) : Host.Outcome State Fault Refusal :=
  .next { s with stretch := modNth s.stretch d fun _ => min 4 (max 1 x), sagEnd := modNth s.sagEnd d fun _ => none }

/-- The stretch of a die has been held for 1 µs after its sag ended (R415). -/
def sagHeld (s : State) (d : Nat) : Bool := match nth s.sagEnd d none with | some t => t + 1000 ≤ s.ns | none => false

/-- The step SQUALL_RELEASE (R415): the stretch ends, at least 1 µs after the sag. -/
def execEvSquallRelease (d : Nat) (s : State) : Host.Outcome State Fault Refusal :=
  .next (if sagHeld s d then { s with stretch := modNth s.stretch d fun _ => 0 } else s)

/-- The step DIE_POWER_LIMIT (R414): die d has reached its limit and is slowed by x eighths, or runs free again with x = 0. -/
def execEvDiePowerLimit (d x : Nat) (s : State) : Host.Outcome State Fault Refusal :=
  .next { s with slowed := modNth s.slowed d fun _ => min 4 x }

/-- Firmware may share the power budget anew: at most once in every 1 ms (R409). All that it sets at one time is one sharing. -/
def mayShare (s : State) : Bool := match s.isobarAt with | some t => t == s.ns || t + 1000000 ≤ s.ns | none => true

/-- The step ISOBAR_RECOMPUTE (R409, R414): firmware sets the ACTMAX of stack st, at least 256, or for st from 24 up the power
limit of die st − 24. -/
def execEvIsobarRecompute (st x : Nat) (s : State) : Host.Outcome State Fault Refusal :=
  if !mayShare s then .next s
  else
    let s := { s with isobarAt := some s.ns }
    if st < 24 then .next { s with isobar := modNth s.isobar st fun q => (min 65535 (max 256 x), q.2) }
    else .next { s with power := modNth s.power (st - 24) fun _ => x }

/-- The activates of a stack in the window of 1 µs that ends now (R409). -/
def actNow (s : State) (st : Nat) : Nat := ((nth s.acts st []).filter fun t => s.ns < t + 1000).length

/-- An activate of a row of a stack, now (R409). -/
def activated (s : State) (st : Nat) : State :=
  let now := s.ns
  { s with acts := modNth s.acts st fun l => now :: l.filter fun t => now < t + 1000 }

/-- An access activates a row (R409): counted, or held, and counted in THROT, where the count would exceed ACTMAX. -/
def activate (s : State) (st : Nat) : State :=
  if actNow s st < (nth s.isobar st (0, 0)).1 then activated s st
  else { s with actsHeld := modNth s.actsHeld st (· + 1), isobar := modNth s.isobar st fun q => (q.1, (q.2 + 1) % 2 ^ 64) }

/-- The step ISOBAR_RELEASE (R409): an activate that the regulator holds goes ahead, once the count has fallen. -/
def execEvIsobarRelease (st : Nat) (s : State) : Host.Outcome State Fault Refusal :=
  if 0 < nth s.actsHeld st 0 && actNow s st < (nth s.isobar st (0, 0)).1 then
    .next (activated { s with actsHeld := modNth s.actsHeld st (· - 1) } st)
  else .next s

/-- The status block of a stack as a partition reads it (Table 22.2): 0 for a stack outside the partition (R410). -/
def isobarBlock (s : State) (p st : Nat) : Nat :=
  let q := nth s.isobar st (0, 0)
  if ownsStack s p st then q.1 % 2 ^ 16 + actNow s st % 2 ^ 16 * 2 ^ 32 + q.2 % 2 ^ 64 * 2 ^ 64 else 0

/-- The retirement list as firmware publishes it (Table 23.2): its bytes, and how many. -/
def retireBlock (s : State) : Nat × Nat :=
  (s.retired.length + 2 ^ 64 * packLanes 64 (s.retired.map fun e =>
    e.1 % 256 + e.2.1 % 256 * 2 ^ 8 + e.2.2.1 % 256 * 2 ^ 16 + e.2.2.2.1 % 256 * 2 ^ 24 + e.2.2.2.2 % 2 ^ 32 * 2 ^ 32),
   8 + 8 * s.retired.length)

/-- The bytes at an address are these: written where they are not, on a page that is mapped, whatever its rights (a read-only
block that hardware or firmware keeps; log entry 73). -/
def keepBytes (s : State) (p : Nat) : Nat → Nat → Nat → Nat → State
  | 0, _, _, _ => s
  | fuel + 1, va, n, v =>
    if n = 0 then s
    else
      let k := min n (64 - va % 64)
      let s := match xlat s p {} va with
        | .error _ => s
        | .ok pa => if physRead s pa k = v % 2 ^ (8 * k) then s else physWrite s none pa k (v % 2 ^ (8 * k))
      keepBytes s p fuel (va + k) (n - k) (v >>> (8 * k))

/-- A page of a partition is mapped. -/
def pageMapped (s : State) (p va : Nat) : Bool := (xlat s p {} va).isOk

/-- The read-only blocks of a partition show what they report (R410, R412, R417). -/
def publishPart (s : State) (p : Nat) : State :=
  let s := if pageMapped s p 0x148000 then
      (List.range 24).foldl (fun s st => keepBytes s p 2 (0x148000 + 64 * st) 64 (isobarBlock s p st)) s
    else s
  keepBytes s p 200 0x150000 (retireBlock s).2 (retireBlock s).1

/-- The read-only blocks of every partition show what they report. -/
def publish (s : State) : State :=
  (List.range 16).foldl (fun s p => if (pmapOf s p).valid then publishPart s p else s) s

/-- The step REFRESH (R411): the bank's postponed refreshes are done; no value, order or count changes. -/
def execEvRefresh (st b : Nat) (s : State) : Host.Outcome State Fault Refusal :=
  .next { s with refresh := delKey s.refresh (st, b) }

end Sys2Proof.Machine
end

