-- ==== Sys2Proof/Machine/EnvActs.lean ====
section
/-! DEFINITION. What the environment does between two moves: memory and SRAM errors, beat errors, the host path, delayed kettle
stores (spec/22: R404 to R407, R411; spec/13: R304; spec/11: R281; spec/09: R221; spec/20: R394). -/

namespace Sys2Proof.Machine

/-- An uncorrectable error in a bank's cells (R406): POISON with a new fault index; the region continues. What an issued firing
will write to the bank is poisoned too, but for a firing that clears it (R155, R157). -/
def bankError (s : State) (l : Loc) (b : Nat) : State :=
  let s := logSram s l 7 (4096 * b)
  let q := drawOrigin s (rgnOf l)
  let bad (x : Bank) : Bank := { x with poison := true, fidx := q.2 }
  let s := modElem q.1 l fun e =>
    let clears (f : Firing) : Bool := let c := (opCode (slotWord e f.slot)).toNat; c == 0x63 || c == 0x65
    { e with banks := modNth e.banks b bad
             pending := e.pending.map fun (f : Firing) =>
               if clears f then f else { f with banks := f.banks.map fun x => if x.1 = b then (b, bad x.2) else x } }
  putRec s (rgnOf l) (atElem s l { cause := 0x12, addr := elemCode s l (4096 * b), fidx := q.2 })

/-- An uncorrectable error in control state or in a gauge word (R406): the region stops before the word is used. -/
def stopError (s : State) (l : Loc) (off : Nat) : State :=
  let s := logSram s l 7 off
  let st := (getRegion s (rgnOf l)).st
  if st = 2 || st = 3 then meetStop s l { cause := 0x12, addr := elemCode s l off } off else s

/-- A beat error on a mist channel (R304): the 128 bytes of the beat are zeros, and the VMASK bit of the validity block that holds
it is cleared. -/
def beatLost (beat : Nat) (t : Token) : Token :=
  { hdr := { t.hdr with vmask := maskLost t.hdr.vmask [beat / 2] }, payload := setByteRange t.payload (128 * beat) 128 0 }

/-- The image size that the header holds (Table 18.1). -/
def copySize (c : ImgCopy) : Nat := byteRange c.bytes 16 8

/-- The bytes that the staging copy comes to (R359): the header, then as much as it says the image has. -/
def copyTop (c : ImgCopy) : Nat :=
  if c.len < 256 || copySize c < 3076 || 2 ^ 32 < copySize c then 256 else copySize c

/-- The staging copy is whole, or has met a page that cannot be read (R359). -/
def ImgCopy.done (c : ImgCopy) : Bool := c.bad || (256 ≤ c.len && copyTop c ≤ c.len)

/-- The Infuser copies the next n bytes of the image, in ascending address order (R359). -/
def stageMore (s : State) (r : Rgn) (n : Nat) : State :=
  let g := getRegion s r
  let c := g.copy
  if !g.load || c.done then s
  else
    let k := min n (copyTop c - c.len)
    let read := vreadLong s r.part (k / 64 + 2) (g.imgAddr + c.len) k
    modRegion (logVreadLong s r.part 0 (k / 64 + 2) (g.imgAddr + c.len) k) r fun g =>
      { g with copy := match read with
        | .error _ => { c with bad := true }
        | .ok v => { c with bytes := c.bytes + 2 ^ (8 * c.len) * v, len := c.len + k } }

/-- An error in one 16-bit symbol of an HBM line (R404): the on-die ECC corrects it (layer 0), or it is left to the device symbol
code, which corrects what one symbol holds; with a second such symbol the line is uncorrectable. -/
def softError (s : State) (line sym layer : Nat) : State :=
  let e := (s.softLines.find? (·.1 == line)).getD (line, 0, 0)
  let bitOf := 2 ^ (sym % 32)
  let e := if layer = 0 then (line, Nat.lor e.2.1 bitOf, e.2.2) else (line, e.2.1, Nat.lor e.2.2 bitOf)
  let rest := s.softLines.filter (·.1 ≠ line)
  if s.badLines.contains line then s
  else if 1 < popcount 32 e.2.2 then { s with softLines := rest, badLines := line :: s.badLines }
  else { s with softLines := e :: rest }

/-- The location code of a lane group's replay buffer (R406): die, link port, group. -/
def replayCode (g off : Nat) : Nat := locCode (portDie (g / 4)).1 2 (g / 4) (g % 4) off

/-- The partition that holds the link port of a lane group. -/
def lanePart (s : State) (g : Nat) : Option Nat := (List.range 16).find? fun p => ownsLinkPort s p (g / 4)

/-- An SRAM event of a replay buffer goes to the log of the partition that holds its port (R406, R407). -/
def logReplay (s : State) (g kind off : Nat) : State :=
  match lanePart s g with
  | some p => errLog s p 0 0xFF 0 kind 0 (replayCode g off)
  | none => s

/-- An SRAM event of a kettle core goes to the log of its partition (R406, R407). -/
def logCore (s : State) (k kind off : Nat) : State := errLog s (corePart s k) 0 0xFF 0 kind 0 (locCode (k / 4) 3 k 0 off)

/-- Die d's clock may be stretched now (R414, R415). -/
def stretched (s : State) (d : Nat) : Bool := nth s.stretch d 0 != 0 || nth s.slowed d 0 != 0

/-- One act of the environment. -/
def applyEnv (s : State) (a : EnvAct) : State :=
  match a with
  | .soft pa sym layer =>
    (match target pa with | .hbm _ _ => softError s (lineOf pa) sym layer | _ => s)
  | .hard pa =>
    (match target pa with
     | .hbm _ _ => { s with badLines := lineOf pa :: s.badLines.filter (· ≠ lineOf pa) }
     | _ => s)
  | .hostDrain port => drainHostOne s port
  | .hostStore port bus n v =>
    hitMonitors { s with hostMem := writeBytes s.hostMem (bus % 2 ^ 50) n v } none
      (.phys (lineOf (2 ^ 51 + 2 ^ 50 * (port % 2) + bus % 2 ^ 50)))
  | .hold k on => { s with holding := if on then k :: s.holding.filter (· ≠ k) else s.holding.filter (· ≠ k) }
  | .drain k => drainCore s k
  | .scratchErr l off => logSram (modElem s l fun e => { e with badWords := (off / 64) :: e.badWords }) l 7 off
  | .bankErr l b => bankError s l b
  | .gaugeErr l off =>
    let st := (getRegion s (rgnOf l)).st
    stopError (if st = 2 || st = 3 then s else modElem s l fun e => { e with badCtrl := some off }) l off
  | .ctrlErr l off => stopError (modElem s l fun e => { e with badCtrl := some off }) l off
  | .sramFix l off => logSram s l 6 off
  | .localErr k line =>
    logCore (modCore s k fun c => { c with badLocal := line :: c.badLocal }) k 7 (64 * line)
  | .localFix k line => logCore s k 6 (64 * line)
  | .cacheErr k pa => logCore (modCore s k fun c => { c with badCache := lineOf pa :: c.badCache }) k 7 (pa / 64 * 64)
  | .cacheFix k pa => logCore s k 6 (pa / 64 * 64)
  | .replayErr g off => loseLane (logReplay s g 7 off) g
  | .replayFix g off => logReplay s g 6 off
  | .meshErr r ch n beat =>
    modRegion s r fun g => { g with chans := g.chans.map fun (c : Chan) =>
      if c.num = ch && c.mist then { c with flights := modNth c.flights n fun f => { f with tok := beatLost beat f.tok } } else c }
  | .posted p n => modPart s p fun q => { q with posted := n }
  | .byLine p on => modPart s p fun q => { q with byLine := on }
  | .inPiece p k j => inboundPiece s p k j
  | .configRead p port => reply s (if (pmapOf s p).ports % 4 = 3 then port % 2 else if (pmapOf s p).ports % 4 = 2 then 1 else 0) 0 s.bootst
  | .flashBegin img => if s.rootKeys.all (dieAccepts { s with flash := img }) && s.flashing.isNone then { s with flashing := some img } else s
  | .flashEnd => (match s.flashing with | some img => { s with flash := img, flashing := none, flashOk := true } | none => s)
  | .sagOver d => let now := s.ns; { s with sagEnd := modNth s.sagEnd d fun x => if x.isNone then some now else x }
  | .lag d n => if stretched s d then { s with lag := modNth s.lag d fun x => min s.clk (x + n) } else s
  | .activate st => activate s st
  | .stage r n => stageMore s r n
  | .postpone st b => { s with refresh := putKey s.refresh (st, b) (min 8 ((lookupKey s.refresh (st, b)).getD 0 + 1)) }

end Sys2Proof.Machine
end

