-- ==== Sys2Proof/Machine/Parse.lean ====
section
/-! DEFINITION. Reading a graph image from its bytes (spec/18: R359, R360, Tables 18.1 to 18.3; spec/02: Tables 2.3 to 2.7;
spec/10: Tables 10.1, 10.2). An image is the little-endian number of its bytes. -/

namespace Sys2Proof.Machine

/-- A section entry (R359, Table 18.1): type, the word that must be 0, offset, size. -/
structure Sect where
  typ : Nat
  zero : Nat
  off : Nat
  size : Nat
  deriving DecidableEq, Repr

/-- The eight section entries. -/
def sections (b : Nat) : List Sect :=
  (List.range 8).map fun i =>
    let w (k : Nat) : Nat := byteRange b (128 + 16 * i + 4 * k) 4
    { typ := w 0, zero := w 1, off := w 2, size := w 3 }

/-- The section of a type; an absent one is empty. -/
def sectOf (b t : Nat) : Sect := ((sections b).find? fun x => x.typ == t).getD { typ := 0, zero := 0, off := 256, size := 0 }

/-- Offset of entry i, of n bytes each, in the section of a type. -/
def entryOff (b t n i : Nat) : Nat := (sectOf b t).off + n * i

/-- A body descriptor (Table 10.1); its number is its place in the section. -/
def bodyAt (b i : Nat) : Option Body :=
  let w := byteRange b (entryOff b 1 4 i) 4
  if bit w 31 then
    some { num := i, dyn := bit w 30, frame := bit w 29, logw := bits w 28 25, k := bits w 24 14, c := bits w 13 6 }
  else none

/-- A layout entry (R360): handle and record. -/
def layoutAt (b i : Nat) : Nat × Nat := (byteRange b (entryOff b 2 72 i) 4, byteRange b (entryOff b 2 72 i + 8) 64)

/-- A gauge entry (R360): X, Y, SE, g, TARGET. -/
def gaugeAt (b i : Nat) : Nat × Nat × Nat × Nat × Nat :=
  let o := entryOff b 3 16 i
  (byteRange b o 1, byteRange b (o + 1) 1, byteRange b (o + 2) 1, byteRange b (o + 3) 1, byteRange b (o + 8) 8)

/-- A stack entry (R360): V, first and last port. -/
def vstackAt (b i : Nat) : Nat × Nat × Nat :=
  let o := entryOff b 4 8 i
  (byteRange b o 1, byteRange b (o + 1) 1, byteRange b (o + 2) 1)

/-- A link binding (R360). -/
def linkAt (b i : Nat) : LinkBind :=
  let o := entryOff b 5 40 i
  { form := byteRange b o 1, k := byteRange b (o + 1) 1, n := byteRange b (o + 2) 1, mist := byteRange b (o + 3) 1 == 1,
    send := byteRange b (o + 4) 2, recv := byteRange b (o + 6) 2, altk := byteRange b (o + 8) 1, altn := byteRange b (o + 9) 1,
    v := byteRange b (o + 16) 8, s := byteRange b (o + 24) 8, t := byteRange b (o + 32) 8 }

/-- A receive-table entry (Table 2.3). -/
def recvAt (w : Nat) : RecvEnt :=
  { valid := bit w 31, head := bit w 30, pos := bits w 29 28, slot := bits w 27 23, chan := bits w 22 12, quota := bits w 11 4 }

/-- The valid channels of a destination entry (Table 2.4). -/
def destAt (w : Nat) : List Nat :=
  (List.range 4).filterMap fun k => if bit w (16 * k + 15) then some (bits w (16 * k + 10) (16 * k)) else none

/-- A frame descriptor (Table 10.2). -/
def frameAt (w : Nat) : Option FrameDesc :=
  if bit w 63 then some { body := bits w 62 57, base := bits w 54 40, smask := bits w 31 0 } else none

/-- Bytes of an element record (Table 18.3). -/
def elemRecBytes : Nat := 1312

/-- An element record (Table 18.3): kind, x, y, configuration. -/
def elemAt (b o : Nat) : Nat × Nat × Nat × ElemCfg :=
  let w := byteRange b o 4
  let cv := byteRange b (o + 16) 8
  let sp := byteRange b (o + 24) 8
  let words (at_ n k : Nat) : List Nat := (List.range k).map fun i => byteRange b (o + at_ + n * i) n
  (bits w 31 30, bits w 7 0, bits w 15 8,
   { slots := (words 96 8 32).map (BitVec.ofNat 64), recv := (words 736 4 64).map recvAt, dest := (words 992 8 32).map destAt,
     fmts := words 8 2 4, pinit := byteRange b (o + 4) 2, consts := words 352 4 32, states := words 480 8 32,
     pooln := bits cv 63 54, poolswz := bits cv 53 52, frmbase := bits cv 51 42, frmsize := bits cv 41 32,
     resbase := bits cv 31 22, ressize := bits cv 21 12, resswz := bits cv 11 10, gaugen := bits cv 9 2,
     spsize := bits sp 63 44, spbase := bits sp 43 0, frames := (words 32 8 8).filterMap frameAt,
     ranks := (words 1248 2 32).map fun x => (x % 256, x / 256) })

/-- A hop of a route (R360). -/
def hopAt (b o : Nat) : Hop :=
  { x := byteRange b o 1, y := byteRange b (o + 1) 1, out := byteRange b (o + 2) 1, inp := byteRange b (o + 3) 1,
    kind := byteRange b (o + 4) 1, map := byteRange b (o + 8) 8 }

/-- n route records from an offset on (R360): channel and hops; and the offset behind them. -/
def routesAt (b : Nat) : Nat → Nat → List (Nat × List Hop) × Nat
  | 0, o => ([], o)
  | n + 1, o =>
    let h := byteRange b (o + 4) 4
    let q := routesAt b n (o + 8 + 16 * h)
    ((byteRange b o 4, (List.range h).map fun i => hopAt b (o + 8 + 16 * i)) :: q.1, q.2)

/-- Counts of a variant (Table 18.2): elements, routes, carry entries. -/
def varCounts (b o : Nat) : Nat × Nat × Nat := (byteRange b (o + 8) 2, byteRange b (o + 10) 2, byteRange b (o + 12) 2)

/-- Offset of a variant's element records, and of its routes. -/
def varElems (b o : Nat) : Nat := o + 32 + 4 * (varCounts b o).2.2
def varRoutes (b o : Nat) : Nat := varElems b o + elemRecBytes * (varCounts b o).1

/-- A variant (Table 18.2). -/
def variantAt (b o : Nat) : Variant :=
  let n := varCounts b o
  { foot := byteRange b o 1, pol := byteRange b (o + 1) 1, force := byteRange b (o + 2) 1, w := byteRange b (o + 4) 2,
    h := byteRange b (o + 6) 2, nr := byteRange b (o + 14) 2, size := byteRange b (o + 16) 4,
    carry := (List.range n.2.2).map fun i =>
      (byteRange b (o + 32 + 4 * i) 1, byteRange b (o + 33 + 4 * i) 1, byteRange b (o + 34 + 4 * i) 2),
    elems := (List.range n.1).map fun i => elemAt b (varElems b o + elemRecBytes * i),
    routes := (routesAt b n.2.1 (varRoutes b o)).1 }

/-- The offsets of n variants from an offset on: each begins on the next multiple of 8 (R360). -/
def variantOffs (b : Nat) : Nat → Nat → List Nat
  | 0, _ => []
  | n + 1, o => roundUp o 8 :: variantOffs b n (roundUp o 8 + byteRange b (roundUp o 8 + 16) 4)

/-- The offset of each pour record: a record's size counts its own first 8 bytes. -/
def pourOffs (b : Nat) : Nat → Nat → List Nat
  | 0, _ => []
  | n + 1, o => o :: pourOffs b n (o + byteRange b (o + 4) 4)

/-- The number of pours (Table 18.1). -/
def npourOf (b : Nat) : Nat := byteRange b 36 2

/-- The offsets of every pour's variants. -/
def allVariantOffs (b : Nat) : List (List Nat) :=
  (pourOffs b (npourOf b) (sectOf b 6).off).map fun o => variantOffs b (min 3 (byteRange b o 4)) (o + 8)

/-- Bytes of an image (Table 18.1). -/
def imgSizeOf (b : Nat) : Nat := byteRange b 16 8

/-- An image (R359, R360). -/
def parseImage (b : Nat) : Image :=
  { fmaj := byteRange b 8 2, fmin := byteRange b 10 2, keyslot := byteRange b 12 4, size := imgSizeOf b,
    regw := byteRange b 32 2, regh := byteRange b 34 2, npour := npourOf b, dlim := byteRange b 44 1,
    famark := byteRange b 48 32, mistmark := byteRange b 80 32,
    bodies := (List.range (byteRange b 38 2)).filterMap (bodyAt b),
    layouts := (List.range (byteRange b 40 2)).map (layoutAt b),
    gauges := (List.range (byteRange b 42 2)).map (gaugeAt b),
    vstacks := (List.range ((sectOf b 4).size / 8)).map (vstackAt b),
    links := (List.range ((sectOf b 5).size / 40)).map (linkAt b),
    pours := (allVariantOffs b).map fun vs => vs.map (variantAt b) }

end Sys2Proof.Machine
end

