-- ==== Sys2Proof/Machine/Container.lean ====
section
/-! DEFINITION. Steps 1 and 2 of the Infuser: the container of an image (spec/18: R359, R360, R361, Tables 18.1 to 18.3). -/

namespace Sys2Proof.Machine

/-- What the Infuser reports of a check that fails (R361, Table 9.6): cause, step, element by kind and coordinates, slot,
channel. -/
structure Refused where
  cause : Nat
  step : Nat
  at_ : Option (Nat × Nat × Nat) := none
  slot : Nat := 0
  chan : Nat := 0
  deriving DecidableEq, Repr

/-- BOUNDS_IMAGE of a step, naming nothing. -/
def boundsAt (step : Nat) : Refused := { cause := 0x03, step := step }

/-- Bytes [o, o + n) of the image are 0. -/
def zeroAt (b o n : Nat) : Bool := byteRange b o n == 0

/-- Bytes of the signed part. -/
def sigOff (b : Nat) : Nat := byteRange b 24 8

/-- The sections that an image uses. -/
def usedSects (b : Nat) : List Sect := (sections b).filter fun x => x.typ != 0

/-- The size that R360 gives a section: of the counts in the header, or a whole number of entries; the pours have their own. -/
def sectSized (b : Nat) (x : Sect) : Bool :=
  match x.typ with
  | 1 => x.size == 4 * byteRange b 38 2
  | 2 => x.size == 72 * byteRange b 40 2
  | 3 => x.size == 16 * byteRange b 42 2
  | 4 => x.size % 8 == 0
  | 5 => x.size % 40 == 0
  | _ => true

/-- Sections as R360: each type at most once, the pours present, none above 6, each in [256, SIGOFF), none overlapping,
each of the size given. -/
def sectsOk (b : Nat) : Bool :=
  let us := usedSects b
  us.all (fun x => x.typ ≤ 6 && x.zero == 0 && 256 ≤ x.off && x.off + x.size ≤ sigOff b && sectSized b x)
    && us.zipIdx.all (fun p => us.zipIdx.all fun q => p.2 == q.2
      || (p.1.typ != q.1.typ && (p.1.off + p.1.size ≤ q.1.off || q.1.off + q.1.size ≤ p.1.off)))
    && us.any (fun x => x.typ == 6)
    && (byteRange b 38 2 == 0 || us.any fun x => x.typ == 1) && (byteRange b 40 2 == 0 || us.any fun x => x.typ == 2)
    && (byteRange b 42 2 == 0 || us.any fun x => x.typ == 3)

/-- n route records from an offset stay below an end (R360). -/
def routesFit (b top : Nat) : Nat → Nat → Bool
  | 0, o => o ≤ top
  | n + 1, o =>
    let h := byteRange b (o + 4) 4
    o + 8 + 16 * h ≤ top && byteRange b o 4 < 2048
      && (List.range h).all (fun i => zeroAt b (o + 8 + 16 * i + 5) 3)
      && routesFit b top n (o + 8 + 16 * h)

/-- A variant lies in its record, its parts in it, and its reserved bytes are 0 (Tables 18.2, 18.3). -/
def variantFits (b top o : Nat) : Bool :=
  let n := varCounts b o
  let sz := byteRange b (o + 16) 4
  o + 32 ≤ top && o + sz ≤ top && varRoutes b o ≤ o + sz
    && routesFit b (o + sz) n.2.1 (varRoutes b o)
    && byteRange b (o + 1) 1 < 16 && byteRange b (o + 2) 1 < 2 && zeroAt b (o + 3) 1 && zeroAt b (o + 20) 12
    && (List.range n.1).all fun i =>
      let e := varElems b o + elemRecBytes * i
      byteRange b e 4 / 2 ^ 16 % 2 ^ 14 == 0 && bits (byteRange b e 4) 31 30 != 3 && zeroAt b (e + 6) 2

/-- The variants of a pour stand in the order full, half, quarter, the full one first (R360). -/
def footsOk : List Nat → Bool
  | [] => false
  | f :: r => f == 0 && (match r with
    | [] => true
    | [g] => g == 1 || g == 2
    | [g, h] => g == 1 && h == 2
    | _ => false)

/-- n pour records from an offset stay below an end (R360). -/
def poursFit (b top : Nat) : Nat → Nat → Bool
  | 0, o => o ≤ top
  | n + 1, o =>
    let nv := byteRange b o 4
    let sz := byteRange b (o + 4) 4
    let vs := variantOffs b nv (o + 8)
    1 ≤ nv && nv ≤ 3 && 8 ≤ sz && o + sz ≤ top
      && vs.all (variantFits b (o + sz)) && footsOk (vs.map fun v => byteRange b v 1)
      && poursFit b top n (o + sz)

/-- Entries of the sections hold 0 where R360 says so, and the bytes that name a form or a class are in range. -/
def entriesOk (b : Nat) : Bool :=
  (List.range (byteRange b 40 2)).all (fun i => zeroAt b (entryOff b 2 72 i + 4) 4 && byteRange b (entryOff b 2 72 i) 4 < 256)
    && (List.range (byteRange b 42 2)).all (fun i => zeroAt b (entryOff b 3 16 i + 4) 4 && byteRange b (entryOff b 3 16 i + 2) 1 < 2)
    && (List.range ((sectOf b 4).size / 8)).all (fun i => zeroAt b (entryOff b 4 8 i + 3) 5)
    && (List.range ((sectOf b 5).size / 40)).all fun i =>
      let o := entryOff b 5 40 i
      byteRange b o 1 ≤ 2 && byteRange b (o + 3) 1 ≤ 1 && zeroAt b (o + 10) 6

/-- The structure of the container (R359, R360). -/
def structOk (b : Nat) : Bool :=
  byteRange b 0 8 == 0x474D494F4C494F4E
    && 3076 ≤ imgSizeOf b && imgSizeOf b ≤ 2 ^ 32 && sigOff b + sigBytes == imgSizeOf b
    && sectsOk b && 1 ≤ npourOf b && npourOf b ≤ 256 && byteRange b 38 2 ≤ 64 && byteRange b 40 2 ≤ 256
    && byteRange b 42 2 ≤ 1024 && entriesOk b
    && poursFit b ((sectOf b 6).off + (sectOf b 6).size) (npourOf b) (sectOf b 6).off

/-- Step 1 (R361): the container; a key in its slot; the signature over bytes 0 to SIGOFF − 1. -/
def step1 (s : State) (b : Nat) : Option Refused :=
  let k := byteRange b 12 4
  let key := nth s.keys k 0
  if structOk b && k < 16 && key != 0 && xmssVerify key (sigOff b) (b % 2 ^ (8 * sigOff b)) (b >>> (8 * sigOff b)) then none
  else some (boundsAt 1)

/-- Step 2 (R361): versions, reserved header bytes, MISTMARK with FMIN 0, DLIM. -/
def step2 (b : Nat) : Option Refused :=
  let d := byteRange b 44 1
  if byteRange b 8 2 == 1 && byteRange b 10 2 ≤ 1 && zeroAt b 45 3 && zeroAt b 112 16
      && (byteRange b 10 2 != 0 || zeroAt b 80 32) && (d == 0 || (10 ≤ d && d ≤ 30)) then none
  else some (boundsAt 2)

end Sys2Proof.Machine
end

