-- ==== Sys2Proof/Machine/Claims.lean ====
section
/-! DEFINITION. Step 3 of the Infuser: shape, elements, stack ports, lane groups, channels, wheels, work area and spill region
(spec/18: R361 to R366; spec/03: R76, Table 3.7). -/

namespace Sys2Proof.Machine

/-- Every variant of an image in reading order: pour, variant (R361). -/
def imgVariants (img : Image) : List (Nat × Variant) := img.pours.zipIdx.flatMap fun q => q.1.map fun v => (q.2, v)

/-- A link-side element's port and index exist in the partition. -/
def linkElemOk (s : State) (p k i : Nat) : Bool := k < 18 && i < 8 && ownsLinkPort s p k

/-- An element record stands where its variant and the partition allow (R361, step 3). -/
def elemStands (s : State) (p place : Nat) (v : Variant) (q : Nat × Nat × Nat × ElemCfg) : Bool :=
  match q.1 with
  | 0 => q.2.1 < v.w && q.2.2.1 < v.h
  | 1 => q.2.1 < (placeStacks s p place).length && q.2.2.1 < 32
  | _ => linkElemOk s p q.2.1 q.2.2.1

/-- The physical stack ports that an image names by `.stack`, by its gauges and by its elements: stack, port. -/
def claimPorts (s : State) (p place : Nat) (img : Image) : List (Nat × Nat) :=
  let st := placeStacks s p place
  let named := img.vstacks.flatMap fun q => (List.range (q.2.2 + 1 - q.2.1)).map fun i => (nth st q.1 24, q.2.1 + i)
  let gauges := (img.gauges.filter fun q => q.2.2.1 == 1).map fun q => (nth st q.1 24, q.2.1)
  named ++ gauges ++ (imgVariants img).flatMap fun v => (v.2.elems.filter fun e => e.1 == 1).map fun e => (nth st e.2.1 24, e.2.2.1)

/-- The link-side elements that an image names. -/
def claimLinks (img : Image) : List (Nat × Nat) :=
  (imgVariants img).flatMap fun v => (v.2.elems.filter fun e => e.1 == 2).map fun e => (e.2.1, e.2.2.1)

/-- Every region of the partition that holds resources, but one: partition and region. Partitions share none, and none sees
another's (R393, R394; log entry 72). -/
def holders (s : State) (r : Rgn) : List (Nat × Region) :=
  ((getPart s r.part).regions.filter fun q => q.1 != r.handle && (q.2.st != 0 && q.2.st != 6)).map fun q => (r.part, q.2)

/-- An element named by an image is held by another region, or names what does not exist (R361). -/
def elemRefused (s : State) (r : Rgn) (place : Nat) (v : Variant) (q : Nat × Nat × Nat × ElemCfg) : Bool :=
  !elemStands s r.part place v q
    || (q.1 == 1 && (holders s r).any fun h =>
        (claimPorts s h.1 h.2.place h.2.img).contains (nth (placeStacks s r.part place) q.2.1 24, q.2.2.1))
    || (q.1 == 2 && (holders s r).any fun h => (claimLinks h.2.img).contains (q.2.1, q.2.2.1))

/-- A gauge entry names an element outside the region, or a stack port that does not exist or that another region holds (R361,
R362). -/
def gaugeRefused (s : State) (r : Rgn) (place : Nat) (img : Image) (q : Nat × Nat × Nat × Nat × Nat) : Bool :=
  let st := placeStacks s r.part place
  if q.2.2.1 = 1 then
    !(q.1 < st.length && q.2.1 < 32)
      || (holders s r).any fun h => (claimPorts s h.1 h.2.place h.2.img).contains (nth st q.1 24, q.2.1)
  else !(q.1 < img.regw && q.2.1 < img.regh)

/-- A `.stack` entry names a stack that the partition holds, ports that exist, and none that another region holds. -/
def stackRefused (s : State) (r : Rgn) (place : Nat) (q : Nat × Nat × Nat) : Bool :=
  let st := placeStacks s r.part place
  !(q.1 < st.length && q.2.1 ≤ q.2.2 && q.2.2 < 32)
    || (holders s r).any fun h => (claimPorts s h.1 h.2.place h.2.img).any fun c =>
        c.1 == nth st q.1 24 && q.2.1 ≤ c.2 && c.2 ≤ q.2.2

/-- A binding names a lane group of the partition that no other region holds. -/
def laneRefused (s : State) (r : Rgn) (l : LinkBind) : Bool :=
  !(l.k < 18 && l.n < 4 && ownsLinkPort s r.part l.k)
    || (match (nth s.lanes l.lane {}).bind with | some b => !(b.1 == r.part && b.2.1 == r.handle) | none => false)

/-- The channel that a refusal of a binding names (R310): its send or recv channel, or 0. -/
def bindChan (l : LinkBind) : Nat := if l.form ≠ 0 then 0 else if l.send < 2048 then l.send else if l.recv < 2048 then l.recv else 0

/-- 1 + the highest channel number that an image uses (R364). -/
def chanCount (img : Image) : Nat :=
  (imgVariants img).foldl (fun m v => (variantChans v.2 img.links).foldl (fun m c => max m (c + 1)) m) 0

/-- The dies that a region's elements, stacks and link ports touch (R364), as a mask. -/
def touchedDies (place : Nat) (img : Image) : Nat :=
  let m := img.links.foldl (fun m l => Nat.lor m (2 ^ (portDie l.k).1)) (placeDies place)
  (claimLinks img).foldl (fun m q => Nat.lor m (2 ^ (portDie q.1).1)) m

/-- The ranges of physical channels that other regions hold on the same dies (R364): base and top. -/
def heldRanges (s : State) (r : Rgn) (dies : Nat) : List (Nat × Nat) :=
  ((holders s r).filter fun h => Nat.land (touchedDies h.2.place h.2.img) dies != 0).map fun h =>
    (h.2.chBase, h.2.chBase + chanCount h.2.img)

/-- The lowest channel base for which the range is free (R364). -/
def findBase (s : State) (r : Rgn) (place : Nat) (img : Image) : Option Nat :=
  let n := chanCount img
  let hs := heldRanges s r (touchedDies place img)
  -- the lowest free base is 0 or the top of a range that is held
  ((List.range 2049).filter fun b => b == 0 || hs.any fun h => h.2 == b).find? fun b =>
    b + n ≤ 2048 && hs.all fun h => b + n ≤ h.1 || h.2 ≤ b

/-- A wheel map with every index moved on. -/
def rotMap (m k : Nat) : Nat := rotl64 (m % 2 ^ 64) (k % 64)

/-- The hops of a channel at outputs toward a stack or a link port (code 6): physical router, map, its route and place there, in
any variant (R364). -/
def sharedHops (place : Nat) (img : Image) (ch : Nat) : List ((Nat × Nat × Nat) × Nat × List Hop × Nat) :=
  (imgVariants img).flatMap fun v =>
    let hs := routeOf v.2 ch
    hs.zipIdx.filterMap fun h => if h.1.out = 6 then some (physElem place h.1.x h.1.y, h.1.map, hs, h.2) else none

/-- The trace entries of an image at such outputs (R76): they are not rotated. -/
def traceEntries (place : Nat) (img : Image) : List ((Nat × Nat × Nat) × Nat) :=
  (imgVariants img).flatMap fun v => v.2.routes.flatMap fun q => (q.2.filter fun h => h.kind == 3 && h.out == 6).map fun h =>
    (physElem place h.x h.y, h.map)

/-- The entries of shared outputs that other regions hold: physical router and map. -/
def heldEntries (s : State) (r : Rgn) : List ((Nat × Nat × Nat) × Nat) :=
  (holders s r).flatMap fun h =>
    ((List.range (chanCount h.2.img)).flatMap fun ch =>
      (sharedHops h.2.place h.2.img ch).map fun q =>
        (q.1, rotMap q.2.1 ((lookupKey h.2.rots (ch, q.1.1)).getD 0 + bypassed s h.2.place q.2.2.1 q.2.2.2)))
      ++ traceEntries h.2.place h.2.img

/-- The rotation of a channel on a die (R364): the lowest that collides with no entry held at a shared output. -/
def findRot (s : State) (place : Nat) (img : Image) (held : List ((Nat × Nat × Nat) × Nat)) (ch d : Nat) : Option Nat :=
  let hs := (sharedHops place img ch).filter fun q => q.1.1 == d
  (List.range 64).find? fun k => hs.all fun q => held.all fun e =>
    e.1 != q.1 || Nat.land e.2 (rotMap q.2.1 (k + bypassed s place q.2.2.1 q.2.2.2)) == 0

/-- Every channel and die that the image's routes cross, channels ascending (R361). -/
def crossed (place : Nat) (img : Image) : List (Nat × Nat) :=
  let all := ((imgVariants img).flatMap fun v => v.2.routes.flatMap fun q => (q.2.filter Hop.ofChan).map fun h =>
    (q.1, (physElem place h.x h.y).1)).dedup
  (List.range (chanCount img)).flatMap fun ch => all.filter fun q => q.1 == ch

/-- The spill region's size (R366): the largest sum over a variant. -/
def spillBytes (img : Image) : Nat :=
  4096 * ((imgVariants img).map fun v => (v.2.elems.map fun q => q.2.2.2.spsize).sum).foldl max 0

/-- The image's own rectangle is no longer the one that `iload` judged, and the placement would be denied (R239, R359): an image
that has changed since takes no element outside the partition, held by another region, or retired. -/
def shapeDenied (s : State) (r : Rgn) (place : Nat) (img : Image) : Bool :=
  let h := (getRegion s r).img
  let rs := dieRects place img.regw img.regh
  !(rs.all fun a => a.owned s r.part) || rectsHeld s r rs
    || (!(h.regw == img.regw && h.regh == img.regh) && rs.any fun a => a.retired s)

/-- The shape fails step 3: not one of Table 3.9, not the placement's, or a variant beyond it (R361, Table 18.2). -/
def shapeFails (s : State) (r : Rgn) (place : Nat) (img : Image) : Bool :=
  !shapeAllowed img.regw img.regh || !shapePlaced place img.regw img.regh || shapeDenied s r place img
    || (imgVariants img).any fun v => !(v.2.w ≤ img.regw && v.2.h ≤ img.regh)
        || (v.2.foot == 0 && !(v.2.w == img.regw && v.2.h == img.regh))

/-- What step 3 finds for the placement: channel base and rotations, or what it refuses (R361). -/
def step3 (s : State) (r : Rgn) (va place : Nat) (img : Image) : Except Refused (Nat × List ((Nat × Nat) × Nat)) :=
  if shapeFails s r place img then .error (boundsAt 3)
  else match (imgVariants img).findSome? fun v => v.2.elems.find? (elemRefused s r place v.2) with
  | some e => .error { boundsAt 3 with at_ := some (e.1, e.2.1, e.2.2.1) }
  | none =>
  match img.gauges.find? (gaugeRefused s r place img) with
  | some q => .error { boundsAt 3 with at_ := some (b2n (q.2.2.1 == 1), q.1, q.2.1) }
  | none =>
  if img.vstacks.any (stackRefused s r place) then .error (boundsAt 3)
  else match img.links.find? (laneRefused s r) with
  | some l => .error { boundsAt 3 with chan := bindChan l }
  | none =>
  match findBase s r place img with
  | none => .error { boundsAt 3 with chan := chanCount img - 1 }
  | some base =>
    let held := heldEntries s r
    let rots := (crossed place img).map fun q => (q, findRot s place img held q.1 q.2)
    match rots.find? fun q => q.2.isNone with
    | some q => .error { boundsAt 3 with chan := q.1.1 }
    | none =>
      let wa := va + roundUp img.size 4096
      if !mappedAll s r.part { w := true } wa (0x1D000 + spillBytes img) then .error { cause := 0x10, step := 3 }
      else .ok (base, rots.filterMap fun q => q.2.bind fun k => if k = 0 then none else some (q.1, k))

end Sys2Proof.Machine
end

