-- ==== Sys2Proof/Machine/ImageRules.lean ====
section
/-! DEFINITION. Step 4 of the Infuser: encodings and structure (spec/18: R361, R368; spec/01: R22, R27; spec/02: R42, R46, R52,
R56; spec/03: R70, R76; spec/04: R88, R94; spec/05: R116; spec/06: R148, R149, R159; spec/07: R165, R173; spec/08: R175, R177;
spec/10: R253, R260, R262; spec/12: R291, R300; spec/13: R310, R312). -/

namespace Sys2Proof.Machine

/-- ILLEGAL_OP, BOUNDS_IMAGE and FORMAT_EDGE of step 4 (Table 14.5). -/
def illegalOp (e : Nat × Nat × Nat) (slot : Nat) : Refused := { cause := 0x01, step := 4, at_ := some e, slot := slot }
def boundsElem (e : Nat × Nat × Nat) (slot : Nat) : Refused := { cause := 0x03, step := 4, at_ := some e, slot := slot }
def boundsChan (ch : Nat) : Refused := { cause := 0x03, step := 4, chan := ch }

/-- The first refusal of several. -/
def firstOf (l : List (Option Refused)) : Option Refused := l.findSome? id

/-- A body descriptor's word keeps R253: W up to 256, K 1 to 1,024, C 1 to 255, reserved bits 0. -/
def bodyWordOk (w : Nat) : Bool :=
  if bit w 31 then bits w 28 25 ≤ 8 && 1 ≤ bits w 24 14 && bits w 24 14 ≤ 1024 && 1 ≤ bits w 13 6 && bits w 5 0 == 0 else w == 0

/-- The body descriptors (R253). -/
def bodiesOk (b : Nat) : Bool :=
  (List.range (byteRange b 38 2)).all fun i => bodyWordOk (byteRange b (entryOff b 1 4 i) 4)

/-- A layout of MX data has rows of whole blocks (R22). -/
def layoutMxOk (q : Nat × Nat) : Bool :=
  let r := layoutOf q.2
  !fmtIsMx r.fmt || (r.bcols % 32 == 0 && r.extent 0 % 32 == 0)

/-- A send or recv channel of a binding: ch0 to ch2047, or 0xFFFF for none (R11; PRESUMED, log entry 29). -/
def bindNumOk (n : Nat) : Bool := n < 2048 || n == 0xFFFF

/-- A binding of form channel names a channel that an earlier binding names for the same direction: the channel's end is then
not this lane group (R310). -/
def boundTwice (ms : List LinkBind) (l : LinkBind) : Bool :=
  l.form == 0 && ms.any fun m => m.form == 0 && ((l.send < 2048 && m.send == l.send) || (l.recv < 2048 && m.recv == l.recv))

/-- A binding of form channel that names no channel, or none that exists (Table 13.2, R11). -/
def bindNamesBad (l : LinkBind) : Bool :=
  l.form == 0 && (!bindNumOk l.send || !bindNumOk l.recv || (2048 ≤ l.send && 2048 ≤ l.recv))

/-- The bindings of the image (R310): the first that breaks a rule. -/
def linksFault (s : State) (p : Nat) (img : Image) : Option Refused :=
  (img.links.zipIdx.find? fun q =>
    let l := q.1
    let alt := l.altk != 0xFF || l.altn != 0xFF
    let win := l.form == 1
    (img.links.take q.2).any (fun m => m.lane == l.lane) || bindNamesBad l || boundTwice (img.links.take q.2) l
      || (alt && !((img.links.any fun m => m.form == 2 && m.k == l.altk && m.n == l.altn) && ownsLinkPort s p l.altk))
      || (win && (l.v % 2 ^ 21 != 0 || l.s % 2 ^ 21 != 0 || l.t % 2 ^ 21 != 0 || l.s == 0 || 2 ^ 56 < l.v + l.s || 2 ^ 56 < l.t + l.s
            || (img.links.take q.2).any fun m => m.form == 1 && m.v < l.v + l.s && l.v < m.v + m.s))).map
    fun q => boundsChan (bindChan q.1)

/-- The areas of a carve that hold something: base and units (R51, R52). -/
def carveAreas (kind : Nat) (c : ElemCfg) : List (Nat × Nat) :=
  let top := if kind = 0 then 640 else 128
  ([(0, c.pooln), (c.frmbase, c.frmsize), (c.resbase, c.ressize)] ++ (if c.gaugen = 0 then [] else [(top - 1, 1)])).filter
    fun q => q.2 != 0

/-- The carve (R52). -/
def carveOk (kind : Nat) (c : ElemCfg) (ecarve : Nat) : Bool :=
  let top := if kind = 0 then 640 else 128
  let as := carveAreas kind c
  ecarve % 4 == 0 && c.poolswz != 3 && c.resswz != 3 && c.pooln ≤ top
    && as.all (fun a => a.1 + a.2 ≤ top)
    && as.zipIdx.all fun a => (as.drop (a.2 + 1)).all fun b => a.1.1 + a.1.2 ≤ b.1 || b.1 + b.2 ≤ a.1.1

/-- The receive table (R46): words of the entries. An entry with V = 0 holds no position and no quota, so POS and QUOTA are judged
of valid entries only (DEDUCED, log entry 30). -/
def recvOk (ws : List Nat) : Bool :=
  ws.all (fun w => bits w 3 0 == 0 && (!bit w 31 || (bits w 29 28 != 3 && bits w 11 4 != 0)))
    && (ws.filter fun w => bit w 31).zipIdx.all fun q =>
      !((ws.filter fun w => bit w 31).take q.2).any fun v => bits v 22 12 == bits q.1 22 12

/-- Reserved bits of a destination entry are 0 (Table 2.4). -/
def destOk (w : Nat) : Bool := (List.range 4).all fun k => bits w (16 * k + 14) (16 * k + 11) == 0

/-- The frames of an element (R262): reserved bits, a declared body, and each frame in the frame area. -/
def framesOk (img : Image) (c : ElemCfg) (ws : List Nat) : Bool :=
  ws.all fun w =>
    if !bit w 63 then true
    else bits w 56 55 == 0 && bits w 39 32 == 0 &&
      match img.bodies.find? fun b => b.num == bits w 62 57 with
      | none => false
      | some b =>
        let base := bits w 54 40
        32 * c.frmbase ≤ base && base + b.k * 2 ^ b.logw * popcount 32 (bits w 31 0) ≤ 32 * (c.frmbase + c.frmsize)

/-- The quotas of an element's HEAD-bound entries (R260). -/
def headsOk (c : ElemCfg) : Bool := ((c.recv.filter fun e => e.valid && e.head).map fun e => e.quota).sum ≤ 256

/-- An access slot of a sequenced pour (R291). -/
def accessSlot (opc mod : Nat) : Bool :=
  (0xA0 ≤ opc && opc ≤ 0xB8) && !localForm opc mod && opc != 0xA4 && opc != 0xA5

/-- The canonical empty slot (R71). -/
def emptyWord : Word64 := 0xFF00000FFFE00000

/-- What a slot's word, record, element and receive entries refuse with ILLEGAL_OP (R70 and the rules it gathers). -/
def slotIllegal (img : Image) (kind : Nat) (c : ElemCfg) (n : Nat) : Bool :=
  let wd := nth c.slots n emptyWord
  let w := opFields wd
  let opc := (opCode wd).toNat
  let m := w.mod.toNat
  let rec_ := nth c.fmts w.fmt.toNat 0
  let ents (p : Nat) : List RecvEnt := c.recv.filter fun e => e.valid && e.slot == n && e.pos == p
  let bound := [0, 1, 2].all fun p =>
    match w.src p with
    | 0 => (ents p).any (fun e => !e.head) && (ents p).all fun e => !e.head
    | 1 => (ents p).any (fun e => e.head) && (ents p).all fun e => e.head
    | _ => ents p == []
  if wd = emptyWord then !bound
  else !(wordOk opc w && recOk opc w rec_ && kindOk kind opc w && bound)
    || ((readsMdesc opc m || localForm opc m) && [0, 1, 2].any fun p => w.src p == 2)
    || (opc == 0x04 && !img.bodies.any fun b => b.num == w.imm12 / 32 % 64)

/-- What a slot of a sequenced pour refuses with ILLEGAL_OP (Table 12.1, R173): an access slot without rank and cover; any other
slot, an empty one too, with either. -/
def seqIllegal (img : Image) (pour : Nat) (c : ElemCfg) (n : Nat) : Bool :=
  let wd := nth c.slots n emptyWord
  let w := opFields wd
  let opc := (opCode wd).toNat
  let cover := (nth c.ranks n (0, 0)).2
  let rank := (nth c.ranks n (0, 0)).1
  opc == 0x04 || opc == 0x02 || opc == 0x0A || opc == 0x0D
    || (0x80 ≤ opc && opc ≤ 0x90 && bit w.mod.toNat 3 && !bit img.famark pour)
    || (if accessSlot opc w.mod.toNat then cover == 0 else cover != 0 || rank != 0)

/-- A constant or state read as a tag names a body that is not declared (R253). -/
def tagUndeclared (img : Image) (c : ElemCfg) (n : Nat) : Bool :=
  let wd := nth c.slots n emptyWord
  let w := opFields wd
  (opCode wd).toNat == 0x05 && w.mod == 1
    && ((w.src 1 == 2 && !img.bodies.any fun b => b.num == tagBody (nth c.consts n 0))
        || (w.src 1 == 3 && !img.bodies.any fun b => b.num == tagBody (nth c.states n 0)))

/-- The bank that a tile slot names, its type, and whether it contributes (R148, R159). -/
def slotBank (c : ElemCfg) (n : Nat) : Option (Nat × Nat × Bool) :=
  let wd := nth c.slots n emptyWord
  let w := opFields wd
  let opc := (opCode wd).toNat
  let f := bits (nth c.fmts w.fmt.toNat 0) 15 12
  if 0x60 ≤ opc && opc ≤ 0x65 then
    some (w.shape, if 0x63 ≤ opc then f else if f = 8 then 11 else 0, opc != 0x63 && opc != 0x65)
  else none

/-- A bank's type disagrees with an earlier slot's, or two slots contribute to it where that is forbidden (R148, R159, R313). -/
def bankIllegal (c : ElemCfg) (one : Bool) (n : Nat) : Bool :=
  match slotBank c n with
  | none => false
  | some u => (List.range n).any fun m => match slotBank c m with
    | none => false
    | some v => u.1 == v.1 && (u.2.1 != v.2.1 || (one && u.2.2 && v.2.2))

/-- The body that a `ctxnew` slot names (R94). -/
def ctxBody (c : ElemCfg) (n : Nat) : Option Nat :=
  let wd := nth c.slots n emptyWord
  if (opCode wd).toNat = 0x04 then some ((opFields wd).imm12 / 32 % 64) else none

/-- The bodies that `ctxnew` slots of some elements name. -/
def ctxBodies (es : List (Nat × Nat × Nat × ElemCfg)) : List Nat :=
  es.flatMap fun q => (List.range 32).filterMap (ctxBody q.2.2.2)

/-- The refusal of one slot, in the order of its causes. `homes`: the bodies that `ctxnew` slots of earlier elements name
(R94). -/
def slotFault (img : Image) (pour : Nat) (v : Variant) (homes : List Nat) (e : Nat × Nat × Nat) (c : ElemCfg) (n : Nat) :
    Option Refused :=
  let wd := nth c.slots n emptyWord
  let w := opFields wd
  let opc := (opCode wd).toNat
  let seq := bit v.pol 2
  if slotIllegal img e.1 c n || (seq && seqIllegal img pour c n) || bankIllegal c (seq || e.1 == 2) n then some (illegalOp e n)
  else if wd = emptyWord then none
  else
    let k := constFault img opc w (nth c.consts n 0) c.gaugen
    if k = 1 then some (illegalOp e n)
    else if k ≠ 0 || tagUndeclared img c n || (ctxBody c n).any homes.contains then some (boundsElem e n)
    else if seq && accessSlot opc w.mod.toNat && (v.nr < (nth c.ranks n (0, 0)).1 + (nth c.ranks n (0, 0)).2 || 256 < v.nr) then
      some (boundsElem e 0)
    else none

/-- The configuration of a compute element in a variant. -/
def computeAt (v : Variant) (x y : Nat) : Option ElemCfg :=
  (v.elems.find? fun e => e.1 == 0 && e.2.1 == x && e.2.2.1 == y).map fun e => e.2.2.2

/-- A carry entry breaks R368: its buffer does not lie in the pool of the pour before and in the resident area of the same
element, at the same footprint. -/
def carryBad (img : Image) (pour : Nat) (v : Variant) (q : Nat × Nat × Nat) : Bool :=
  let prev := (nth img.pours (pour - 1) []).find? fun u => u.foot == v.foot
  pour == 0 || !(match prev.bind fun u => computeAt u q.1 q.2.1, computeAt v q.1 q.2.1 with
    | some a, some c => q.2.2 < a.pooln && c.resbase ≤ q.2.2 && q.2.2 < c.resbase + c.ressize
    | _, _ => false)

/-- The first carry entry that names an element of which the variant has no record (R368). -/
def carryFault (img : Image) (pour : Nat) (v : Variant) : Option Refused :=
  (v.carry.find? fun q => carryBad img pour v q && (computeAt v q.1 q.2.1).isNone).map fun q => boundsElem (0, q.1, q.2.1) 0

/-- An element's ranks and covers differ from those of the full variant's corresponding slots (Table 12.1). -/
def ranksDiffer (full v : Variant) (q : Nat × Nat × Nat × ElemCfg) : Bool :=
  bit v.pol 2 && match full.elems.find? fun f => f.1 == q.1 && f.2.1 == q.2.1 && f.2.2.1 == q.2.2.1 with
    | none => false
    | some f => (List.range 32).any fun n =>
      (nth q.2.2.2.ranks n (0, 0)).2 != 0 && (nth f.2.2.2.ranks n (0, 0)).2 != 0
        && nth q.2.2.2.ranks n (0, 0) != nth f.2.2.2.ranks n (0, 0)

/-- The refusal of one element, o its record's offset: its tables, then its slots. -/
def elemFault (b : Nat) (img : Image) (pour : Nat) (full v : Variant) (homes : List Nat) (o : Nat)
    (q : Nat × Nat × Nat × ElemCfg) : Option Refused :=
  let e := (q.1, q.2.1, q.2.2.1)
  let c := q.2.2.2
  let words (at_ n k : Nat) : List Nat := (List.range k).map fun i => byteRange b (o + at_ + n * i) n
  if !carveOk q.1 c (byteRange b (o + 16) 8) || !recvOk (words 736 4 64) || !(words 992 8 32).all destOk
      || !framesOk img c (words 32 8 8) || !headsOk c || ranksDiffer full v q
      || v.carry.any (fun z => q.1 == 0 && z.1 == q.2.1 && z.2.1 == q.2.2.1 && carryBad img pour v z) then some (boundsElem e 0)
  else (List.range 32).findSome? (slotFault img pour v homes e c)

/-- The elements of a variant, in image order. -/
def elemsFault (b : Nat) (img : Image) (pour : Nat) (full v : Variant) (o : Nat) : Option Refused :=
  v.elems.zipIdx.findSome? fun q =>
    elemFault b img pour full v (ctxBodies (v.elems.take q.2)) (varElems b o + elemRecBytes * q.2) q.1

/-- What a variant names in its first element. -/
def firstElem (v : Variant) : Nat × Nat × Nat := match v.elems with | q :: _ => (q.1, q.2.1, q.2.2.1) | [] => (0, 0, 0)

/-- The highest r + c of a variant's access slots, which NR is (Table 12.1). -/
def maxRank (v : Variant) : Nat :=
  v.elems.foldl (fun m q => q.2.2.2.ranks.foldl (fun m x => max m (x.1 + x.2)) m) 0

/-- Rules of a sequenced variant as a whole (Table 12.1). A variant that is not sequenced beside a full one that is, or the
reverse, has another sequence table than it. -/
def seqFault (full v : Variant) (img : Image) : Option Refused :=
  if bit v.pol 2 != bit full.pol 2 then some (boundsElem (firstElem v) 0)
  else if !bit v.pol 2 then none
  else
    let sk := v.nr * (img.bodies.map fun b => b.k).sum
    if bit v.pol 0 then some (illegalOp (firstElem v) 0)
    else if 65536 < sk || img.bodies.any (fun b => 2 ^ 22 < sk * 2 ^ b.logw) || v.nr != full.nr
        || max (maxRank full) (maxRank v) < v.nr then some (boundsElem (firstElem v) 0)
    else none

/-- A hop's input port leads from outside the region (R76): an edge of the rectangle, or a die-to-die port at no seam inside
it. -/
def fromOutside (v : Variant) (h : Hop) : Bool :=
  match h.inp with
  | 0 => h.y == 0
  | 1 => h.x + 1 == v.w
  | 2 => h.y + 1 == v.h
  | 3 => h.x == 0
  | 5 => !((h.x % 40 == 0 && 0 < h.x) || (h.x % 40 == 39 && h.x + 1 < v.w) || (h.y % 20 == 0 && 0 < h.y) || (h.y % 20 == 19 && h.y + 1 < v.h))
  | _ => false

/-- A hop that breaks R76: the wheel index to report. KIND 00 and 11 stand for channel 0 with PORT 7; KIND 01 and 10 name an
input port inside the region and grant an index, KIND 10 of a mist channel. Of an empty MAP the index reported is 0 (the model's
choice, log entry 63). -/
def hopFault (v : Variant) (ch : Nat) (mist : Bool) (h : Hop) : Option Nat :=
  let words := if h.kind == 0 || h.kind == 3 then ch == 0 && h.inp == 7
    else h.kind < 3 && (h.kind == 1 || mist) && h.inp < 7 && h.map != 0 && !fromOutside v h
  if words && h.out < 7 && h.x < v.w && h.y < v.h then none else some (((List.range 64).find? (bit h.map)).getD 0)

/-- The first wheel index that two hops of a variant hold at one output (R76). -/
def sharedIndex (hs : List Hop) (h : Hop) : Option Nat :=
  hs.findSome? fun g =>
    if g.x = h.x ∧ g.y = h.y ∧ g.out = h.out then (List.range 64).find? fun i => bit g.map i && bit h.map i else none

/-- The wheel entries of one channel (R76): BOUNDS_IMAGE with the router and the wheel index. `hs`: every hop of the variant,
channels ascending. KS_RCAUSE has no field named for the wheel index: it stands in the channel field (the model's choice, log
entry 63). -/
def wheelFault (img : Image) (v : Variant) (hs : List (Nat × Hop)) (ch : Nat) : Option Refused :=
  (hs.zipIdx.filter fun q => q.1.1 == ch).findSome? fun q =>
    ((hopFault v ch (chanMist v img.links ch) q.1.2).or (sharedIndex ((hs.take q.2).map fun x => x.2) q.1.2)).map fun i =>
      { cause := 0x03, step := 4, at_ := some (0, q.1.2.x, q.1.2.y), chan := i }

/-- A channel breaks R310 or Table 12.1: an end other than its lane group; the mist class in a sequenced pour without the mark. -/
def chanBad (img : Image) (pour : Nat) (v : Variant) (ch : Nat) : Bool :=
  (img.links.any fun l => l.form == 0 && l.send == ch && (feeds v ch).isSome)
    || (img.links.any fun l => l.form == 0 && l.recv == ch && v.elems.any fun q => q.2.2.2.dest.any fun d => d.contains ch)
    || (bit v.pol 2 && !bit img.mistmark pour && chanMist v img.links ch)

/-- The channels of a variant, ascending: the wheel entries and then the ends and class of each. -/
def chansFault (img : Image) (pour : Nat) (v : Variant) : Option Refused :=
  let cs := variantChans v img.links
  let all := (List.range 2048).filter fun ch => cs.contains ch || v.routes.any fun q => q.1 == ch
  let hs := all.flatMap fun ch => (v.routes.filter fun q => q.1 == ch).flatMap fun q => q.2.map fun h => (ch, h)
  all.findSome? fun ch => (wheelFault img v hs ch).or (if cs.contains ch && chanBad img pour v ch then some (boundsChan ch) else none)

/-- A remote-memory binding of class mist in a sequenced pour without the mark (R304, Table 12.1): channel 0. -/
def mistBindFault (img : Image) (pour : Nat) (v : Variant) : Option Refused :=
  if bit v.pol 2 && !bit img.mistmark pour && img.links.any fun l => l.form == 1 && l.mist then some (boundsChan 0) else none

/-- Step 4 on one variant in the reading order of R361: the variant, its elements and slots, its channels. -/
def variantFault (b : Nat) (img : Image) (pour : Nat) (full v : Variant) (o : Nat) : Option Refused :=
  firstOf [seqFault full v img, carryFault img pour v, elemsFault b img pour full v o, mistBindFault img pour v, chansFault img pour v]

/-- Step 4 (R361). -/
def step4 (s : State) (p b : Nat) (img : Image) : Option Refused :=
  if !bodiesOk b then some (boundsAt 4)
  else if !img.layouts.all layoutMxOk then some { cause := 0x02, step := 4 }
  else match linksFault s p img with
    | some f => some f
    | none => (img.pours.zip (allVariantOffs b)).zipIdx.findSome? fun q =>
      match q.1.1 with
      | [] => none
      | full :: _ => (q.1.1.zip q.1.2).findSome? fun v => variantFault b img q.2 full v.1 v.2

/-- Step 5 (R361): formats on every edge. -/
def step5 (img : Image) : Option Refused :=
  (imgVariants img).findSome? fun v => (edgeFault v.2 img.links).map fun ch => { cause := 0x02, step := 5, chan := ch }

end Sys2Proof.Machine
end

