-- ==== Sys2Proof/Machine/Infuse.lean ====
section
/-! DEFINITION. The Infuser as a whole, and the end of a load (spec/09: R240, R248; spec/18: R359, R361, R364, R365, R367). -/

namespace Sys2Proof.Machine

/-- The image at an address, read in one step (R375); an image that cannot be read fails step 1. -/
def readImage (s : State) (p va : Nat) : Except Refused Nat :=
  match vreadLong s p 8 va 256 with
  | .error _ => .error (boundsAt 1)
  | .ok h =>
    let n := imgSizeOf h
    if n < 3076 || 2 ^ 32 < n then .error (boundsAt 1)
    else match vreadLong s p (n / 64 + 2) va n with
      | .error _ => .error (boundsAt 1)
      | .ok b => .ok b

/-- The image in the staging copy (R359); one that could not be read, or whose size is out of range, fails step 1. -/
def stagedImage (c : ImgCopy) : Except Refused Nat :=
  if c.bad || c.len < 256 || c.len != copySize c then .error (boundsAt 1) else .ok c.bytes

/-- What the Infuser finds of an image that passes: the image, the channel base, the rotations. -/
structure Passed where
  img : Image
  base : Nat
  rots : List ((Nat × Nat) × Nat)
  deriving DecidableEq, Repr

/-- The five steps of Table 18.4 on the copy (R361): the first failure, or what placement fixes. -/
def infuse (s : State) (r : Rgn) (va place : Nat) : Except Refused Passed :=
  match stagedImage (getRegion s r).copy with
  | .error e => .error e
  | .ok b =>
    match firstOf [step1 s b, step2 b] with
    | some e => .error e
    | none =>
      let img := parseImage b
      match step3 s r va place img with
      | .error e => .error e
      | .ok q =>
        match firstOf [step4 s r.part b img, step5 img] with
        | some e => .error e
        | none => .ok { img := img, base := q.1, rots := q.2 }

/-- KS_RCAUSE of a refusal (R361). -/
def refusedCause (s : State) (p place : Nat) (f : Refused) : Nat :=
  match f.at_ with
  | some e => rcauseAt s p place f.cause f.step { kind := e.1, x := e.2.1, y := e.2.2 } f.slot f.chan
  | none => rcauseRgn f.cause f.step f.chan

/-- The bytes of the layout table of an image, one record each 64 bytes (R178, R365). -/
def layoutTable (img : Image) : Nat := packLanes 512 ((List.range 256).map fun h => (lookupKey img.layouts h).getD 0)

/-- The layout table is written and the rest of the work area zeroed (R365). -/
def writeWork (s : State) (p : Nat) (g : Region) : State := vwriteLong s p 1860 (workArea g) 0x1D000 (layoutTable g.img)

/-- A load that fails (R361): UNARMED, everything it held released. -/
def loadFailed (s : State) (r : Rgn) (place : Nat) (f : Refused) : State :=
  let g := getRegion s r
  let c := refusedCause s r.part place f
  postRegion (freeInfusers (setRegion s r { g with load := false, failed := true, job := none, copy := {}, img := {}, imgAddr := 0, place := 0, rcause := c }) r) r.part r.handle

/-- The region as a load that passes leaves it (R240, R248): ARMED with pour 0 configured, breaks off, no fault records. -/
def armedRegion (g : Region) (va place clk : Nat) (q : Passed) : Region :=
  configureCold { launch := g.launch, rcause := g.rcause, rflags := g.rflags, st := 1, place := place, imgAddr := va, img := q.img,
                  chBase := q.base, rots := q.rots, idleBase := clk }

/-- A load that passes. -/
def loadPassed (s : State) (r : Rgn) (va place : Nat) (q : Passed) : State :=
  let g := armedRegion (getRegion s r) va place s.clk q
  let s := writeWork s r.part g
  postRegion (bindLanes (freeInfusers (setRegion s r g) r) r q.img) r.part r.handle

/-- The step ILOAD_COMPLETE (R240): nothing while the staging copy is under way (R359). -/
def execEvIloadComplete (r : Rgn) (s : State) : Host.Outcome State Fault Refusal :=
  match (getRegion s r).job with
  | some (.load va place) =>
    if !(getRegion s r).copy.done then .next s
    else (match infuse s r va place with
     | .error f => .next (loadFailed s r place f)
     | .ok q => .next (loadPassed s r va place q))
  | _ => .next s

end Sys2Proof.Machine
end

