-- ==== Sys2Proof/Machine/KAlu.lean ====
section
/-! DEFINITION. The integer operations of the kettle core (spec/09: R217, R218). -/

namespace Sys2Proof.Machine

/-- kd := ka ∘ kb, and on (R217). -/
def kbin (s : State) (d a b : KReg) (f : Word64 → Word64 → Word64) : State := kret s d (f (kreg s a) (kreg s b))

/-- kd := f ka, and on (R218). -/
def kimm (s : State) (d a : KReg) (f : Word64 → Word64) : State := kret s d (f (kreg s a))

/-- High 64 bits of the signed 128-bit product (Table 9.2). -/
def mulHigh (x y : Word64) : Word64 := BitVec.ofInt 64 (x.toInt * y.toInt / 2 ^ 64)

/-- High 64 bits of the unsigned 128-bit product (Table 9.2). -/
def mulHighU (x y : Word64) : Word64 := BitVec.ofNat 64 (x.toNat * y.toNat / 2 ^ 64)

/-- Signed quotient (Table 9.2): all ones on divisor 0; the most negative value over -1 wraps to itself. -/
def divS (x y : Word64) : Word64 := if y = 0 then BitVec.allOnes 64 else BitVec.ofInt 64 (x.toInt.tdiv y.toInt)

/-- Unsigned quotient (Table 9.2): all ones on divisor 0. -/
def divU (x y : Word64) : Word64 := if y = 0 then BitVec.allOnes 64 else x / y

/-- Signed remainder, sign of ka (Table 9.2): all ones on divisor 0. -/
def remS (x y : Word64) : Word64 := if y = 0 then BitVec.allOnes 64 else BitVec.ofInt 64 (x.toInt.tmod y.toInt)

/-- Unsigned remainder (Table 9.2): all ones on divisor 0. -/
def remU (x y : Word64) : Word64 := if y = 0 then BitVec.allOnes 64 else x % y

/-- `add` (R217): kd := ka + kb, wrapping. -/
def execKAdd (d a b : KReg) (s : State) : Host.Outcome State Fault Refusal := .next (kbin s d a b fun x y => x + y)

/-- `sub` (R217): kd := ka - kb, wrapping. -/
def execKSub (d a b : KReg) (s : State) : Host.Outcome State Fault Refusal := .next (kbin s d a b fun x y => x - y)

/-- `and` (R217): kd := ka and kb. -/
def execKAnd (d a b : KReg) (s : State) : Host.Outcome State Fault Refusal := .next (kbin s d a b fun x y => x &&& y)

/-- `or` (R217): kd := ka or kb. -/
def execKOr (d a b : KReg) (s : State) : Host.Outcome State Fault Refusal := .next (kbin s d a b fun x y => x ||| y)

/-- `xor` (R217): kd := ka xor kb. -/
def execKXor (d a b : KReg) (s : State) : Host.Outcome State Fault Refusal := .next (kbin s d a b fun x y => x ^^^ y)

/-- `shl` (R217): kd := ka << (kb mod 64). -/
def execKShl (d a b : KReg) (s : State) : Host.Outcome State Fault Refusal := .next (kbin s d a b fun x y => x <<< (y.toNat % 64))

/-- `shr` (R217): kd := ka >> (kb mod 64), logical. -/
def execKShr (d a b : KReg) (s : State) : Host.Outcome State Fault Refusal := .next (kbin s d a b fun x y => x >>> (y.toNat % 64))

/-- `sra` (R217): kd := ka >> (kb mod 64), arithmetic. -/
def execKSra (d a b : KReg) (s : State) : Host.Outcome State Fault Refusal := .next (kbin s d a b fun x y => x.sshiftRight (y.toNat % 64))

/-- `slt` (R217): kd := 1 if ka < kb signed, else 0. -/
def execKSlt (d a b : KReg) (s : State) : Host.Outcome State Fault Refusal := .next (kbin s d a b fun x y => if x.slt y then 1 else 0)

/-- `sltu` (R217): kd := 1 if ka < kb unsigned, else 0. -/
def execKSltu (d a b : KReg) (s : State) : Host.Outcome State Fault Refusal := .next (kbin s d a b fun x y => if x.ult y then 1 else 0)

/-- `mul` (R217): kd := low 64 bits of ka × kb. -/
def execKMul (d a b : KReg) (s : State) : Host.Outcome State Fault Refusal := .next (kbin s d a b fun x y => x * y)

/-- `mulh` (R217): kd := high 64 bits of the signed product. -/
def execKMulh (d a b : KReg) (s : State) : Host.Outcome State Fault Refusal := .next (kbin s d a b fun x y => mulHigh x y)

/-- `mulhu` (R217): kd := high 64 bits of the unsigned product. -/
def execKMulhu (d a b : KReg) (s : State) : Host.Outcome State Fault Refusal := .next (kbin s d a b fun x y => mulHighU x y)

/-- `div` (R217): kd := signed quotient, truncated toward zero; all ones on divisor 0. -/
def execKDiv (d a b : KReg) (s : State) : Host.Outcome State Fault Refusal := .next (kbin s d a b fun x y => divS x y)

/-- `divu` (R217): kd := unsigned quotient; all ones on divisor 0. -/
def execKDivu (d a b : KReg) (s : State) : Host.Outcome State Fault Refusal := .next (kbin s d a b fun x y => divU x y)

/-- `rem` (R217): kd := signed remainder, sign of ka; all ones on divisor 0. -/
def execKRem (d a b : KReg) (s : State) : Host.Outcome State Fault Refusal := .next (kbin s d a b fun x y => remS x y)

/-- `remu` (R217): kd := unsigned remainder; all ones on divisor 0. -/
def execKRemu (d a b : KReg) (s : State) : Host.Outcome State Fault Refusal := .next (kbin s d a b fun x y => remU x y)

/-- `addi` (R218): kd := ka + sext(imm16). -/
def execKAddi (d a : KReg) (i : BitVec 16) (s : State) : Host.Outcome State Fault Refusal := .next (kimm s d a fun x => x + sext64 i)

/-- `andi` (R218): kd := ka and zext(imm16). -/
def execKAndi (d a : KReg) (i : BitVec 16) (s : State) : Host.Outcome State Fault Refusal := .next (kimm s d a fun x => x &&& zext64 i)

/-- `ori` (R218): kd := ka or zext(imm16). -/
def execKOri (d a : KReg) (i : BitVec 16) (s : State) : Host.Outcome State Fault Refusal := .next (kimm s d a fun x => x ||| zext64 i)

/-- `xori` (R218): kd := ka xor zext(imm16). -/
def execKXori (d a : KReg) (i : BitVec 16) (s : State) : Host.Outcome State Fault Refusal := .next (kimm s d a fun x => x ^^^ zext64 i)

/-- `shli` (R218): kd := ka << imm16[5:0]. -/
def execKShli (d a : KReg) (i : BitVec 6) (s : State) : Host.Outcome State Fault Refusal := .next (kimm s d a fun x => x <<< i.toNat)

/-- `shri` (R218): kd := ka >> imm16[5:0], logical. -/
def execKShri (d a : KReg) (i : BitVec 6) (s : State) : Host.Outcome State Fault Refusal := .next (kimm s d a fun x => x >>> i.toNat)

/-- `srai` (R218): kd := ka >> imm16[5:0], arithmetic. -/
def execKSrai (d a : KReg) (i : BitVec 6) (s : State) : Host.Outcome State Fault Refusal := .next (kimm s d a fun x => x.sshiftRight i.toNat)

/-- `slti` (R218): kd := 1 if ka < sext(imm16) signed, else 0. -/
def execKSlti (d a : KReg) (i : BitVec 16) (s : State) : Host.Outcome State Fault Refusal := .next (kimm s d a fun x => if x.slt (sext64 i) then 1 else 0)

/-- `lui` (R218): kd := sext(imm16) << 16. -/
def execKLui (d : KReg) (i : BitVec 16) (s : State) : Host.Outcome State Fault Refusal := .next (kret s d (sext64 i <<< 16))

end Sys2Proof.Machine
end

