-- ==== Sys2Proof/Machine/KBranch.lean ====
section
/-! DEFINITION. The branches and jumps of the kettle core (spec/09: R214, R219). -/

namespace Sys2Proof.Machine

/-- The target of a branch or jump: the instruction's own address + 4 × the signed word offset (R214). -/
def ktarget {n : Nat} (s : State) (o : BitVec n) : Word64 := (curCore s).pc + (sext64 o <<< 2)

/-- A branch: to its target when the comparison holds, else on (R219). -/
def kbranch (s : State) (c : Bool) (o : BitVec 16) : State := if c then kjump s (ktarget s o) else kadvance s

/-- `beq` (R219): branches when ka and kb compare as equal. -/
def execKBeq (a b : KReg) (o : BitVec 16) (s : State) : Host.Outcome State Fault Refusal :=
  .next (kbranch s (kreg s a == kreg s b) o)

/-- `bne` (R219): branches when ka and kb compare as not equal. -/
def execKBne (a b : KReg) (o : BitVec 16) (s : State) : Host.Outcome State Fault Refusal :=
  .next (kbranch s (kreg s a != kreg s b) o)

/-- `blt` (R219): branches when ka and kb compare as signed less than. -/
def execKBlt (a b : KReg) (o : BitVec 16) (s : State) : Host.Outcome State Fault Refusal :=
  .next (kbranch s ((kreg s a).slt (kreg s b)) o)

/-- `bge` (R219): branches when ka and kb compare as signed greater or equal. -/
def execKBge (a b : KReg) (o : BitVec 16) (s : State) : Host.Outcome State Fault Refusal :=
  .next (kbranch s (!(kreg s a).slt (kreg s b)) o)

/-- `bltu` (R219): branches when ka and kb compare as unsigned less than. -/
def execKBltu (a b : KReg) (o : BitVec 16) (s : State) : Host.Outcome State Fault Refusal :=
  .next (kbranch s ((kreg s a).ult (kreg s b)) o)

/-- `bgeu` (R219): branches when ka and kb compare as unsigned greater or equal. -/
def execKBgeu (a b : KReg) (o : BitVec 16) (s : State) : Host.Outcome State Fault Refusal :=
  .next (kbranch s (!(kreg s a).ult (kreg s b)) o)

/-- `j` (R219): jumps to its target. -/
def execKJ (o : BitVec 26) (s : State) : Host.Outcome State Fault Refusal := .next (kjump s (ktarget s o))

/-- `jal` (R219): k31 := pc + 4, and jumps. -/
def execKJal (o : BitVec 26) (s : State) : Host.Outcome State Fault Refusal :=
  .next (kjump (kret s 31 ((curCore s).pc + 4)) (ktarget s o))

/-- `jalr` (R219): kd := pc + 4 and pc := (ka + sext(imm16)) with bits [1:0] cleared; ka is read first. -/
def execKJalr (d a : KReg) (i : BitVec 16) (s : State) : Host.Outcome State Fault Refusal :=
  .next (kjump (kret s d ((curCore s).pc + 4)) ((kreg s a + sext64 i) &&& BitVec.ofNat 64 (2 ^ 64 - 4)))

end Sys2Proof.Machine
end

