-- ==== Sys2Proof/Machine/KMem.lean ====
section
/-! DEFINITION. Loads, stores, ordered forms, atomics, fences, scrub and the Almanac append of the kettle core
(spec/09: R220 to R224, R249, R250; spec/22: R405, R408; spec/23: R419, R420). -/

namespace Sys2Proof.Machine

/-- The address of a load or store: ka + sext(imm16) (R220). -/
def kaddr (s : State) (a : KReg) (i : BitVec 16) : Word64 := kreg s a + sext64 i

/-- A 32-bit value sign-extended. -/
def sext32 (v : Nat) : Word64 := (BitVec.ofNat 32 v).signExtend 64

/-- `ld` (R220): 8 bytes. -/
def execKLd (d a : KReg) (i : BitVec 16) (s : State) : Host.Outcome State Fault Refusal :=
  .next (kloadTo s d (kaddr s a i) 8 (BitVec.ofNat 64))

/-- `lw` (R220): 4 bytes, sign-extended. -/
def execKLw (d a : KReg) (i : BitVec 16) (s : State) : Host.Outcome State Fault Refusal :=
  .next (kloadTo s d (kaddr s a i) 4 sext32)

/-- `lwu` (R220): 4 bytes, zero-extended. -/
def execKLwu (d a : KReg) (i : BitVec 16) (s : State) : Host.Outcome State Fault Refusal :=
  .next (kloadTo s d (kaddr s a i) 4 (BitVec.ofNat 64))

/-- `lbu` (R220): 1 byte, zero-extended. -/
def execKLbu (d a : KReg) (i : BitVec 16) (s : State) : Host.Outcome State Fault Refusal :=
  .next (kloadTo s d (kaddr s a i) 1 (BitVec.ofNat 64))

/-- `sd` (R220): the low 8 bytes of the register in the kd field. -/
def execKSd (r a : KReg) (i : BitVec 16) (s : State) : Host.Outcome State Fault Refusal :=
  .next (kstoreFrom s (kaddr s a i) 8 (kreg s r).toNat true)

/-- `sw` (R220): the low 4 bytes. -/
def execKSw (r a : KReg) (i : BitVec 16) (s : State) : Host.Outcome State Fault Refusal :=
  .next (kstoreFrom s (kaddr s a i) 4 (kreg s r).toNat true)

/-- `sb` (R220): the low byte. -/
def execKSb (r a : KReg) (i : BitVec 16) (s : State) : Host.Outcome State Fault Refusal :=
  .next (kstoreFrom s (kaddr s a i) 1 (kreg s r).toNat true)

/-- `ld.acq` (R222): the load at ka; a core performs no later access before it, since its accesses follow one another. -/
def execKLdAcq (d a : KReg) (_c : Bool) (s : State) : Host.Outcome State Fault Refusal :=
  .next (kloadTo s d (kreg s a) 8 (BitVec.ofNat 64))

/-- `lw.acq` (R222): 32 bits, zero-extended. -/
def execKLwAcq (d a : KReg) (_c : Bool) (s : State) : Host.Outcome State Fault Refusal :=
  .next (kloadTo s d (kreg s a) 4 (BitVec.ofNat 64))

/-- A `.rel` store (R222): performed at its scope only after every earlier access of the core is performed there. A
`.sys` store is performed at its target before the core goes on. -/
def krelease (s : State) (a b : KReg) (n : Nat) (sys : Bool) : State :=
  match kstore s (kreg s a) n (kreg s b).toNat false with
  | (.error e, t) => ktrap t e
  | (.ok (), _) =>
    match kstore (korder s sys) (kreg s a) n (kreg s b).toNat false with
    | (.ok (), t) => kadvance (if sys then korder t true else t)
    | (.error e, t) => ktrap t e

/-- `sd.rel` (R222). -/
def execKSdRel (a b : KReg) (c : Bool) (s : State) : Host.Outcome State Fault Refusal := .next (krelease s a b 8 c)

/-- `sw.rel` (R222). -/
def execKSwRel (a b : KReg) (c : Bool) (s : State) : Host.Outcome State Fault Refusal := .next (krelease s a b 4 c)

/-- `fence` (R223): every earlier access of the core is performed at the scope before any later one. -/
def execKFence (c : Bool) (s : State) : Host.Outcome State Fault Refusal := .next (kadvance (korder s c))

/-- Bytes of an atomic (Table 9.3, W). -/
def amoBytes (w : Bool) : Nat := if w then 4 else 8

/-- An atomic's old value into kd: a 32-bit one sign-extended, or zero-extended with U = 1 (R224). -/
def amoOld (w u : Bool) (v : Nat) : Word64 := if w && !u then sext32 v else BitVec.ofNat 64 v

/-- A kettle atomic (R224). `f` gives the new value of the old, in the width's bits, and `hostOk` says whether the
operation has a PCIe AtomicOp (R198); an atomic on host memory that has none meets the memory trap with PERMISSION. The
access needs R and W (R385). Releases order it after the core's earlier accesses. An atomic on a core's local memory is
atomic with respect to the core. -/
def kamo (s : State) (d a : KReg) (w : Bool) (o : BitVec 2) (sys u hostOk : Bool) (f : Nat → Nat) : State :=
  let n := amoBytes w
  let va := kreg s a
  if va.toNat % n ≠ 0 then ktrap s (trapAccess va)
  else match kplace va with
  | .none => ktrap s (trapAccess va)
  | .loc x =>
    if localBad s x then ktrap s (trapMemory 0x12 va)
    else
      let t := if o.getLsbD 1 then korder s sys else s
      let old := readBytes (curCore t).lmem x n
      kret (lstore t x n (f old)) d (amoOld w u old)
  | .virt v =>
    match kxlat s { r := true, w := true } v with
    | (.error e, t) => ktrap t (trapMemory e.code va)
    | (.ok pa, t) =>
      match target pa with
      | .host _ _ =>
        if !hostOk then ktrap t (trapMemory 0x11 va)
        else
          let t := readSettle (korder t (o.getLsbD 1 && sys)) pa
          let old := physRead t pa n
          kret (readSettle (physWrite t (some t.cur.toNat) pa n (f old)) pa) d (amoOld w u old)
      | _ =>
        if cacheBad t pa then ktrap t (trapMemory 0x12 va)
        else if lineBad t pa then ktrap (logRead t (curPart t) 0 pa) (trapMemory 0x12 va)
        else
          let t := logRead (korder t (o.getLsbD 1 && sys)) (curPart t) 0 pa
          let old := physRead t pa n
          kret (physWrite t (some t.cur.toNat) pa n (f old)) d (amoOld w u old)

/-- The low bits of a register that an atomic of width W uses. -/
def amoArg (s : State) (w : Bool) (r : KReg) : Nat := (kreg s r).toNat % 2 ^ (8 * amoBytes w)

/-- a < b by an atomic's signedness (Table 9.3, U). -/
def amoLess (w u : Bool) (x y : Nat) : Bool :=
  if u then x < y else decide (sval (8 * amoBytes w) x < sval (8 * amoBytes w) y)

/-- `amo.add` (R224): old + kb, wrapping. -/
def execKAmoAdd (d a b : KReg) (w : Bool) (o : BitVec 2) (c : Bool) (s : State) : Host.Outcome State Fault Refusal :=
  .next (kamo s d a w o c false true fun x => (x + amoArg s w b) % 2 ^ (8 * amoBytes w))

/-- `amo.swp` (R224): kb. -/
def execKAmoSwp (d a b : KReg) (w : Bool) (o : BitVec 2) (c : Bool) (s : State) : Host.Outcome State Fault Refusal :=
  .next (kamo s d a w o c false true fun _ => amoArg s w b)

/-- `amo.cas` (R224): kb if old equals the incoming kd, otherwise unchanged. -/
def execKAmoCas (d a b : KReg) (w : Bool) (o : BitVec 2) (c : Bool) (s : State) : Host.Outcome State Fault Refusal :=
  .next (kamo s d a w o c false true fun x => if x = amoArg s w d then amoArg s w b else x)

/-- `amo.and` (R224). -/
def execKAmoAnd (d a b : KReg) (w : Bool) (o : BitVec 2) (c : Bool) (s : State) : Host.Outcome State Fault Refusal :=
  .next (kamo s d a w o c false false fun x => x &&& amoArg s w b)

/-- `amo.or` (R224). -/
def execKAmoOr (d a b : KReg) (w : Bool) (o : BitVec 2) (c : Bool) (s : State) : Host.Outcome State Fault Refusal :=
  .next (kamo s d a w o c false false fun x => x ||| amoArg s w b)

/-- `amo.min` (R224): by signedness U. -/
def execKAmoMin (d a b : KReg) (w : Bool) (o : BitVec 2) (c u : Bool) (s : State) : Host.Outcome State Fault Refusal :=
  .next (kamo s d a w o c u false fun x => if amoLess w u x (amoArg s w b) then x else amoArg s w b)

/-- `amo.max` (R224): by signedness U. -/
def execKAmoMax (d a b : KReg) (w : Bool) (o : BitVec 2) (c u : Bool) (s : State) : Host.Outcome State Fault Refusal :=
  .next (kamo s d a w o c u false fun x => if amoLess w u x (amoArg s w b) then amoArg s w b else x)

/-- The pages of a scrub range (R408): the physical base of each 4 KiB page, or the first cause met. The range must
translate to HBM of the partition with R and W. -/
def scrubPages (s : State) : Nat → Nat → Except (Nat × Nat) (List Nat) × State
  | 0, _ => (.ok [], s)
  | n + 1, va =>
    if 2 ^ 56 ≤ va then (.error (0x10, va), s)
    else match kxlat s { r := true, w := true } va with
    | (.error e, t) => (.error (e.code, va), t)
    | (.ok pa, t) =>
      if !ownsHbm t (curPart t) pa then (.error (0x11, va), t)
      else match scrubPages t n (va + 4096) with
        | (.ok r, u) => (.ok (pa :: r), u)
        | (.error e, u) => (.error e, u)

/-- The byte offsets in the scrubbed range of a physical line: one for each of its pages that holds it. -/
def scrubOffs (pages : List Nat) (line : Nat) : List Nat :=
  pages.zipIdx.filterMap fun q => if q.1 = line * 64 / 4096 * 4096 then some (4096 * q.2 + line * 64 % 4096) else none

/-- The bitmap of the chunks that hold the given offsets (R250). -/
def chunkMap (len : Nat) (offs : List Nat) : Nat :=
  offs.foldl (fun m o => m ||| 2 ^ (o / (len / 64))) 0

/-- `kscrub` (R250, R408): every line of the range with a correctable error is rewritten good and logged with KIND 3; an
uncorrectable line stays and is logged with KIND 4. kd and KS_SCRUBU take the bitmaps of the 64 chunks. An address that is
not 4 KiB aligned gives RANGE in kd (R236); one that lies in no virtual memory raises KETTLE_ACCESS with it. -/
def execKKscrub (d a b : KReg) (s : State) : Host.Outcome State Fault Refusal :=
  let va := kreg s a
  let len := (kreg s b).toNat
  if len % 2 ^ 18 ≠ 0 || 2 ^ 34 < len then .next (ktrap s (trapAccess (kreg s b)))
  else if va.toNat % 4096 ≠ 0 then .next (kret s d 4)
  else if va.toNat < localTop || 2 ^ 56 ≤ va.toNat then .next (ktrap s (trapAccess va))
  else
    let s := kdrain s
    match scrubPages s (len / 4096) va.toNat with
    | (.error e, t) => .next (ktrap t (trapMemory e.1 (BitVec.ofNat 64 e.2)))
    | (.ok pages, t) =>
      let bad := t.badLines.filter fun l => scrubOffs pages l != []
      let soft := t.softLines.filter fun e => scrubOffs pages e.1 != [] && !t.badLines.contains e.1
      let p := curPart t
      let t := soft.foldl (fun u e => errLog u p 0 (stackOf (e.1 * 64)) (softSyms e) 3 (softLayer e) (e.1 * 64)) t
      let t := bad.foldl (fun u l => errLog u p 0 (stackOf (l * 64)) 0 4 0 (l * 64)) t
      let t := { t with softLines := t.softLines.filter fun e => !soft.contains e }
      let m := chunkMap len (soft.flatMap fun e => scrubOffs pages e.1)
      let u := chunkMap len (bad.flatMap (scrubOffs pages))
      let t := setCore t { curCore t with scrubu := BitVec.ofNat 64 u }
      .next (kret t d (BitVec.ofNat 64 m))

/-- An Almanac record is taken (R420): its sequence number is the next one not taken; the record is written to the ring
(R419); the head follows later. -/
def almTake (s : State) (p rec_ : Nat) : State × Nat :=
  let q := getPart s p
  let n := (q.almseq + q.almq.length) % 2 ^ 64
  let r := rec_ % 2 ^ 384 + s.ns % 2 ^ 64 * 2 ^ 384 + n * 2 ^ 448
  let s := vwriteD s p (q.almbase + 64 * (n % 65536)) 64 r
  (modPart s p fun q => { q with almq := q.almq ++ [(n, true)] }, n)

/-- A record image that `almw` accepts (R420): KIND 1 to 5, reserved bits 0. SEQ and TIME are the hardware's. -/
def almOk (r : Nat) : Bool := 1 ≤ bits r 7 0 && bits r 7 0 ≤ 5 && bits r 86 8 == 0

/-- `almw` (R249, R420): appends the record image at kb, a 64-byte aligned local address (R236), and returns its sequence
number; a reserved KIND or non-zero reserved bits write nothing and return all ones. -/
def execKAlmw (d b : KReg) (s : State) : Host.Outcome State Fault Refusal :=
  let a := kreg s b
  if a.toNat % 64 ≠ 0 || localTop ≤ a.toNat then .next (ktrap s (trapAccess a))
  else if localBad s a.toNat then .next (ktrap s (trapMemory 0x12 a))
  else
    let r := readBytes (curCore s).lmem a.toNat 64
    if !almOk r then .next (kret s d (BitVec.allOnes 64))
    else
      let s := korder s false
      let t := almTake s (curPart s) r
      .next (kret t.1 d (BitVec.ofNat 64 t.2))

end Sys2Proof.Machine
end

