-- ==== Sys2Proof/Machine/LinkMove.lean ====
section
/-! DEFINITION. Lane groups send and receive (spec/13: R305 to R309, R311, R314, R315, R323, R324; spec/20: R395). -/

namespace Sys2Proof.Machine

/-- The last FSEQ received in order (R306). -/
def Lane.lastRx (l : Lane) : Nat := (l.rxSeq + 65535) % 2 ^ 16

/-- A flit leaves. -/
def Lane.put (l : Lane) (clk : Nat) (f : Flit) : Lane := { l with wire := l.wire ++ [f], lastSend := clk }

/-- A flit leaves for the first time: it takes the next FSEQ; a reliable one reports TCRED and is kept for replay (R306,
R314). -/
def Lane.putNew (l : Lane) (clk : Nat) (f : Flit) : Lane :=
  let n := if f.mist then 0 else min l.tcred 255
  let x := f.stamp l.txSeq l.lastRx n
  let l := { l with txSeq := (l.txSeq + 1) % 2 ^ 16, tcred := l.tcred - n, replay := if f.mist then l.replay else l.replay ++ [x] }
  l.put clk x

/-- A control flit without a number of its own: it carries the last FSEQ (R308). -/
def Lane.putPlain (l : Lane) (clk : Nat) (f : Flit) : Lane := l.put clk (f.stamp ((l.txSeq + 65535) % 2 ^ 16) l.lastRx 0)

/-- The replay buffer holds 256 flits; while it is full nothing leaves for the first time (R314). -/
def Lane.room (l : Lane) : Bool := l.replay.length < 256

/-- The lane group carries flits. -/
def Lane.live (l : Lane) : Bool := l.up && !l.lost

/-- The BIND flit of a launch (R309): form, class and version. -/
def bindFlit (l : Lane) (b : LinkBind) : Flit := ctlFlit ckBind b.form (b2n b.mist) (l.major * 256 + l.minor)

/-- The send channel of a lane group and its oldest token that has reached the group. -/
def sendHead (s : State) (g : Nat) : Option (Rgn × Chan × Token) :=
  match (getLane s g).bind with
  | none => none
  | some b =>
    let r : Rgn := ⟨b.1, b.2.1⟩
    let x := getRegion s r
    if !running x then none
    else match x.chans.find? fun (c : Chan) => c.dst == .link g with
      | some c => (match c.arrived with | t :: _ => some (r, c, t) | [] => none)
      | none => none

/-- The next token of the send channel becomes flits (R307, R308). -/
def takeToken (s : State) (g : Nat) : State :=
  match sendHead s g with
  | none => s
  | some (r, c, t) =>
    let l := getLane s g
    let mist := match laneBind s l with | some b => bindMist l b | none => false
    let s := busy (modRegion s r fun x =>
      { x with chans := x.chans.map fun (y : Chan) => if y.num = c.num then { y with arrived := y.arrived.tail } else y
               linkOwed := putKey x.linkOwed g ((lookupKey x.linkOwed g).getD 0 + 1) }) r
    modLane s g fun l => l.post (tokenFlits t c.num mist)

/-- The first flit of the queue leaves, if the replay buffer has room. -/
def sendQueued (s : State) (g : Nat) : State :=
  let clk := s.clk
  modLane s g fun l =>
    match l.sendq with
    | f :: r => if l.room then { l with sendq := r }.putNew clk f else l
    | [] => l

/-- The BIND flit is outstanding (R309): nothing but it may open a unit. -/
def Lane.bindWait (l : Lane) : Bool := l.bind.isSome && l.bindSeen.isNone

/-- What a lane group sends next (R307 to R309, R314): a NAK, a flit again, the rest of a unit, its BIND flit, and once the far
side's has come, a queued unit, the next token, or a report of TCRED. -/
def flitSend (s : State) (g : Nat) : State :=
  let l := getLane s g
  let clk := s.clk
  if !l.live || (l.wire != [] && clk < l.lastSend + 3) then s
  else match l.urgent, l.resend with
  | f :: r, _ => modLane s g fun l => { l with urgent := r }.putPlain clk f
  | [], f :: r => modLane s g fun l => { l with resend := r }.put clk (f.stamp f.fseq l.lastRx f.tcred)
  | [], [] =>
    if l.midUnit then sendQueued s g
    else if l.bindDue then
      (match laneBind s l with
       | some b => if l.room then modLane s g fun l => { l with bindDue := false }.putNew clk (bindFlit l b) else s
       | none => s)
    else if l.bindWait then s
    else if l.sendq != [] then sendQueued s g
    else if (sendHead s g).isSome && l.replay.length < 256 then sendQueued (takeToken s g) g
    else if 0 < l.tcred && l.replay.length < 256 then modLane s g fun l => l.putNew clk (ctlFlit ckCred 0 0 0)
    else s

/-- The step FLIT_SEND of lane group g. -/
def execEvFlitSend (g : Nat) (s : State) : Host.Outcome State Fault Refusal := .next (flitSend s g)

/-- The step LINK_IDLE_FLIT (R308): after 64 clk with nothing to send, a control flit carries the last FSEQ. -/
def execEvLinkIdleFlit (g : Nat) (s : State) : Host.Outcome State Fault Refusal :=
  let l := getLane s g
  let clk := s.clk
  if l.live && l.wire != [] && l.lastSend + 64 ≤ clk && l.urgent == [] && l.resend == [] && !l.bindDue && l.tcred == 0
      && !l.midUnit && (l.bindWait || (l.sendq == [] && (sendHead s g).isNone)) then
    .next (modLane s g fun l => l.putPlain clk (ctlFlit ckIdle 0 0 0))
  else .next s

/-- A count of returned tokens as acknowledgements of at most 15 each (R79). -/
def ackList (hops n : Nat) : List AckFlight :=
  (List.range (cdiv n 15)).map fun i => { hops := hops, count := min 15 (n - 15 * i) }

/-- Tokens that the far receiver has passed on return quota to the send channel (R311). -/
def farCredit (s : State) (g n : Nat) : State :=
  match (if n = 0 then none else (getLane s g).bind) with
  | none => s
  | some b =>
    let r : Rgn := ⟨b.1, b.2.1⟩
    let back (c : Chan) : Chan := if c.dst == .link g then { c with acks := c.acks ++ ackList c.hops.length n } else c
    modRegion s r fun x => { x with chans := x.chans.map back, linkOwed := putKey x.linkOwed g ((lookupKey x.linkOwed g).getD 0 - n) }

/-- The step FLIT_RECEIVE (R306, R308, R311, R314, R315): flit f arrives at lane group g, its 256 data bytes below its sideband;
`err` says that it was corrupted on the way. -/
def flitReceive (s : State) (g f : Nat) (err : Bool) : State :=
  let l := getLane s g
  if !l.live then s
  else
    let x : Flit := { data := f % 2 ^ 2048, side := f / 2 ^ 2048 % 2 ^ 128 }
    let cls := match laneBind s l with | some b => bindMist l b && b.form == 0 | none => false
    let q := l.receive cls x (err || !x.crcOk)
    let s := modLane s g fun _ => q.1
    passRx g 128 (if q.2 then farCredit s g x.tcred else s)

/-- The step FLIT_RECEIVE. -/
def execEvFlitReceive (g f : Nat) (err : Bool) (s : State) : Host.Outcome State Fault Refusal := .next (flitReceive s g f err)

/-- The oldest control flit of a kind that a lane group has accepted, taken away. -/
def takeCtl (k : Nat) (l : Lane) : Option ((Nat × Nat × Nat) × Lane) :=
  match l.ctl.findIdx? fun c => c.1 == k with
  | none => none
  | some n => some ((nth l.ctl n (0, 0, 0, 0)).2, { l with ctl := l.ctl.eraseIdx n })

/-- The step NAK (R314, step 3): every reliable flit from the NAKed FSEQ on is sent again. -/
def execEvNak (g : Nat) (s : State) : Host.Outcome State Fault Refusal :=
  match takeCtl ckNak (getLane s g) with
  | none => .next s
  | some (a, l) => .next (modLane s g fun _ => { l with resend := l.replay.filter fun f => !seqLt f.fseq a.1 })

/-- The step BIND (R309): once its region runs and its own BIND flit has been sent, a lane group takes the far side's; where
form or class disagree it is lost. -/
def execEvBind (g : Nat) (s : State) : Host.Outcome State Fault Refusal :=
  let l := getLane s g
  match laneBind s l, l.bind, takeCtl ckBind l with
  | some b, some r, some (a, l') =>
    let st := (getRegion s ⟨r.1, r.2.1⟩).st
    if l.bindDue || l.bindSeen.isSome || !(st == 2 || st == 3 || st == 5) then .next s
    else
      let s := modLane s g fun _ => { l' with bindSeen := some (a.1, a.2.1) }
      .next (if a.1 = b.form && (a.1 = 2 || a.2.1 = b2n b.mist) then s else loseLane s g)
  | _, _, _ => .next s

/-- The step LANE_GROUP_LOST (R323). -/
def execEvLaneGroupLost (g : Nat) (s : State) : Host.Outcome State Fault Refusal := .next (loseLane s g)

/-- The step UNBIND (R395): the partner's partition resets; the lane group is treated as lost. -/
def execEvUnbind (g : Nat) (s : State) : Host.Outcome State Fault Refusal :=
  match takeCtl ckUnbind (getLane s g) with
  | none => .next s
  | some (_, l) => .next (loseLane (modLane s g fun _ => l) g)

/-- The step LINK_TRAINING (R324): the port of lane group g settles on the highest version that both sides offer, 1.0 or 1.1; with
none in common it stays down. -/
def execEvLinkTraining (g major minor : Nat) (s : State) : Host.Outcome State Fault Refusal :=
  let ok := major = 1 && minor ≤ 1
  .next { s with lanes := s.lanes.zipIdx.map fun (x : Lane × Nat) =>
    if x.2 / 4 = g / 4 then
      { x.1 with up := ok, lost := if ok then false else x.1.lost, major := if ok then major else 0, minor := if ok then minor else 0 }
    else x.1 }

end Sys2Proof.Machine
end

