-- ==== Sys2Proof/Machine/Remote.lean ====
section
/-! DEFINITION. Remote memory: requests performed at the target, replies at the source, translations, and their invalidation
(spec/13: R317 to R322; spec/11: R283). What Table 13.3 does not place is the model's own (log entry 13). -/

namespace Sys2Proof.Machine

/-- Fields of a request (Table 13.3; bytes 64 up by log entry 13). -/
structure FarReq where
  hdr : Hdr
  epoch : Nat
  pa : Nat
  op : Nat
  mod : Nat
  origin : Nat
  n : Nat
  opb : Nat
  opc : Nat
  off : Nat
  ftz : Bool
  half : Nat
  /-- `red.m`: runs of cells as address, cells and first cell, and the count's address -/
  runs : List (Nat × Nat × Nat)
  cnt : Option Nat
  deriving DecidableEq, Repr

/-- The fields of a request unit. -/
def farReq (d : Nat) : FarReq :=
  { hdr := hdrOfBits (d % 2 ^ 256), epoch := bits (byteRange d 32 8) 59 52, pa := bits (byteRange d 32 8) 51 0,
    op := byteRange d 40 1, mod := byteRange d 41 1 / 16, origin := byteRange d 40 8, n := byteRange d 45 3,
    opb := byteRange d 48 8, opc := byteRange d 56 8, off := byteRange d 64 4, ftz := bit (byteRange d 68 1) 0,
    half := byteRange d 70 1,
    runs := (List.range (byteRange d 71 1 % 8)).map fun i =>
      let x := byteRange d (72 + 8 * i) 8
      (bits x 51 0, bits x 57 52 + 1, bits x 63 58)
    cnt := if bit (byteRange d 71 1) 7 then some (byteRange d 104 8) else none }

/-- n bytes read at a physical address, line by line (R274, R404, R405), and whether a line was uncorrectable. -/
def farRead (p : Nat) : Nat → State → Nat → Nat → State × Nat × Bool
  | 0, s, _, _ => (s, 0, false)
  | fuel + 1, s, pa, n =>
    if n = 0 then (s, 0, false)
    else
      let k := min n (64 - pa % 64)
      let t := logRead s p 0 pa
      let bad := lineBad t pa
      let v := elemRead t pa k
      let r := farRead p fuel (if bad then { t with fresh := t.fresh + 1 } else t) (pa + k) (n - k)
      (r.1, v + 2 ^ (8 * k) * r.2.1, bad || r.2.2)

/-- n bytes written at a physical address where a byte mask is set, line by line. -/
def farWrite (p : Nat) : Nat → State → Nat → Nat → Nat → Nat → State
  | 0, s, _, _, _, _ => s
  | fuel + 1, s, pa, n, v, m =>
    if n = 0 then s
    else
      let k := min n (64 - pa % 64)
      let mk := m % 2 ^ k
      let s := if mk = 0 then s
        else physWriteMask (logWrite s p 0 pa (if mk = 2 ^ k - 1 then k else 1)) none pa k (v % 2 ^ (8 * k)) mk
      farWrite p fuel s (pa + k) (n - k) (v >>> (8 * k)) (m >>> k)

/-- The flits of a reply (R318): the request's header and tag with STAT and POISON; bytes 40 to 47 name the source port and
stream, the rest is the model's own (log entry 13). -/
def replyFlits (q : FarReq) (r : FarAns) : List Flit :=
  let n := cdiv r.bytes 256
  let d := hdrBits { q.hdr with stat := r.stat, poison := r.poison, vmask := r.vmask } 0
    + 2 ^ 256 * (r.scalar % 2 ^ 64) + 2 ^ 320 * (q.origin % 2 ^ 64) + 2 ^ 384 * (r.flags.toNat % 2 ^ 16)
    + 2 ^ 400 * ((match r.nonfin with | some k => k + 1 | none => 0) % 2 ^ 16) + 2 ^ 448 * (r.badLines % 2 ^ 64)
  mkFlit q.hdr.tag 3 false 0 n d :: (List.range n).map fun b => mkFlit q.hdr.tag 1 false b 0 (byteRange r.data (256 * b) 256)

/-- The bytes of a payload, from offset `off` on, that lie in blocks not lost. -/
def keptBytes (off n : Nat) (lost : List Nat) : Nat :=
  ((List.range n).filter fun i => !lost.contains ((off + i) / 256)).foldl (fun m i => m + 2 ^ i) 0

/-- The part of a request's bytes that lies in a line: the first byte's place among them, and their number. -/
def linePart (q : FarReq) (ln : Nat) : Nat × Nat :=
  let lo := max q.pa (64 * ln)
  (lo - q.pa, min (q.pa + q.n) (64 * ln + 64) - lo)

/-- A line of a load (R273, R318). -/
def farLoad (s : State) (p : Nat) (q : FarReq) (r : FarAns) (ln : Nat) : State × FarAns :=
  let w := linePart q ln
  let x := farRead p 1 s (q.pa + w.1) w.2
  let r := { r with poison := r.poison || x.2.2 }
  (x.1, if q.hdr.pkind < 2 then { r with scalar := setByteRange r.scalar w.1 w.2 x.2.1 }
        else { r with data := setByteRange r.data w.1 w.2 x.2.1, bytes := q.n })

/-- A line of a store (R320): bytes of lost blocks are not written. Of a byte of which only half is stored, the answer names the
byte as it was written (R302). -/
def farStore (s : State) (p : Nat) (q : FarReq) (u : RxUnit) (ln : Nat) : State × FarAns :=
  let w := linePart q ln
  let v := if u.blocks = [] && u.lost = [] then byteRange q.opb w.1 w.2 else byteRange (blockBytes u.blocks) (q.off + w.1) w.2
  let v := if q.half = 15 then v % 16 + elemRead s q.pa 1 / 16 * 16 else v
  (farWrite p 1 s (q.pa + w.1) w.2 v (keptBytes (q.off + w.1) w.2 u.lost),
    if q.half = 15 then { u.ans with scalar := v } else u.ans)

/-- The operands of an update as an access holds them. -/
def farAccess (q : FarReq) : Access :=
  { op := q.op, mod := q.mod, fmt := q.hdr.fmt, ftz := q.ftz, b := some { payload := q.opb }, c := some { payload := q.opc } }

/-- An atomic (R197, R198), at its owner: an uncorrectable line is not written (R405), nor is anything that poison suppresses
(R196). -/
def farAtomic (s : State) (p : Nat) (q : FarReq) : State × FarAns :=
  let f := (Fmt.ofCode q.hdr.fmt).getD .fp32
  let r := farRead p 2 s q.pa q.n
  let old := r.2.1
  if r.2.2 || q.hdr.poison then (r.1, { scalar := old, poison := r.2.2 })
  else
    let x := atomicNew (farAccess q) f old
    let nf := match x.1 with | some v => if q.op ≤ 0xB2 && badCode f v then some 0 else none | none => none
    (match x.1 with | some v => farWrite p 2 r.1 q.pa q.n v (2 ^ q.n - 1) | none => r.1,
      { stat := x.2.2, scalar := old, flags := x.2.1, nonfin := nf })

/-- The elements of a `red` request in a line (R199, R320): each one atomic update; those of lost blocks and of an uncorrectable
line are left. A sequenced source is given the old bytes for its digest (R301). -/
def farRed (s : State) (p : Nat) (q : FarReq) (u : RxUnit) (r : FarAns) (ln : Nat) : State × FarAns :=
  let f := (Fmt.ofCode q.hdr.fmt).getD .fp32
  let es := f.width / 8
  let w := linePart q ln
  let x := farRead p 1 s (q.pa + w.1) w.2
  let b := blockBytes u.blocks
  let ks := (List.range (w.2 / es)).map fun k => w.1 / es + k
  let new (k : Nat) : Nat × Flags :=
    combine f q.ftz q.mod (byteRange x.2.1 (es * k - w.1) es) (byteRange b (q.off + es * k) es)
  let live := ks.filter fun k => !u.lost.contains ((q.off + es * k) / 256)
  let r := if q.hdr.seq then { r with data := setByteRange r.data w.1 w.2 x.2.1, bytes := q.n } else r
  if x.2.2 then (x.1, { r with poison := true, badLines := Nat.lor r.badLines (2 ^ (ln % 64)) })
  else
    let s := live.foldl (fun s k => farWrite p 1 s (q.pa + es * k) es (new k).1 (2 ^ es - 1)) x.1
    (s, live.foldl (fun (r : FarAns) k =>
      { r with flags := r.flags ||| (new k).2, nonfin := if badCode f (new k).1 then lowerOf r.nonfin k else r.nonfin }) r)

/-- The cells of a block read from their runs, and whether a line was uncorrectable. -/
def farCells (p : Nat) (s : State) (runs : List (Nat × Nat × Nat)) (v : Nat) : State × Nat × Bool :=
  runs.foldl (fun (q : State × Nat × Bool) r =>
    let x := farRead p 66 q.1 r.1 (4 * r.2.1)
    (x.1, setByteRange q.2.1 (4 * r.2.2) (4 * r.2.1) x.2.1, q.2.2 || x.2.2)) (s, v, false)

/-- The cells of a block written to their runs. -/
def farPutCells (p : Nat) (s : State) (runs : List (Nat × Nat × Nat)) (v : Nat) : State :=
  runs.foldl (fun s r => farWrite p 66 s r.1 (4 * r.2.1) (byteRange v (4 * r.2.2) (4 * r.2.1)) (2 ^ (4 * r.2.1) - 1)) s

/-- A block of `red.m` (R200, R320): its cells and count in one step; a lost block adds nothing and counts nothing, and a poisoned
finalisation clears nothing (R196). -/
def farBlock (s : State) (p : Nat) (q : FarReq) (u : RxUnit) : State × FarAns :=
  let r1 := farCells p s q.runs 0
  let r3 := match q.cnt with | some c => farRead p 2 r1.1 c 4 | none => (r1.1, 0, false)
  let old := r1.2.1
  let bad := r1.2.2 || r3.2.2
  let ans : FarAns := { scalar := r3.2.1, data := old, bytes := if q.mod ≠ 0 || q.hdr.seq then 256 else 0, poison := bad }
  let put (v c : Nat) : State :=
    let s := farPutCells p r3.1 q.runs v
    match q.cnt with | some x => farWrite p 2 s x 4 c 15 | none => s
  if u.lost ≠ [] then (r3.1, { ans with stat := 6, vmask := maskLost 0xFFFF u.lost })
  else if bad || q.hdr.poison then (r3.1, ans)
  else if q.mod ≠ 0 then (put 0 0, ans)
  else
    let add := (u.blocks.map Prod.snd).headD 0
    let rs := (List.range 64).map fun k => combine .fp32 q.ftz 0 (lane 32 old k) (lane 32 add k)
    let live := q.runs.flatMap fun r => (List.range r.2.1).map fun k => r.2.2 + k
    let nf := live.find? fun k => badCode .fp32 (nth rs k (0, fNone)).1
    (put (packLanes 32 (rs.map Prod.fst)) ((r3.2.1 + 1) % 2 ^ 32),
      { ans with flags := orFlags (live.map fun k => (nth rs k (0, fNone)).2), nonfin := nf })

/-- STAT of a refused request (R322): not seen by a graph; the source translates again. -/
def farRefused : Nat := 0xFF

/-- An EPOCH older than the lane group's (R322). -/
def epochOld (now e : Nat) : Bool := 1 ≤ (now + 256 - e) % 256 && (now + 256 - e) % 256 < 128

/-- The lines of a request that is performed line by line. -/
def farLines (q : FarReq) : List Nat := (List.range (cdiv (q.pa % 64 + q.n) 64)).map fun k => q.pa / 64 + k

/-- Which of k choices is taken. -/
def farChoice (s : State) (k : Nat) : Nat := if k ≤ 1 then 0 else Config.farPick s.fresh % k

/-- One line of a request (R274). -/
def farLine (s : State) (p : Nat) (u : RxUnit) (ln : Nat) : State × FarAns :=
  let q := farReq u.data
  if q.op = 0xA7 then farRed s p q u u.ans ln
  else if q.op = 0xA1 || q.op = 0xA3 || q.op = 0x0D || (q.op = 0xA6 && (u.blocks != [] || u.lost != [])) then
    farStore s p q u ln
  else farLoad s p q u.ans ln

/-- A request performed at the target, as far as one step goes (R274, R283, R319): refused; whole, an atomic or a block of
`red.m`; or one of its lines, in any order. A request that has begun is not refused any more. The answer is the request as it
stands and, once it is performed, what it gives back. -/
def farPerform (s : State) (p now : Nat) (u : RxUnit) : State × RxUnit × Option FarAns :=
  let q := farReq u.data
  let pas := q.runs.map (fun r => r.1) ++ q.cnt.toList ++ if q.op = 0xA8 then [] else [q.pa]
  if u.lns.isNone && (epochOld now q.epoch || pas.any (fun x => !ownsHbm s p x)) then (s, u, some { stat := farRefused })
  else if q.op = 0xA8 then let x := farBlock s p q u; (x.1, u, some x.2)
  else if 0xB0 ≤ q.op then let x := farAtomic s p q; (x.1, u, some x.2)
  else
    let ls := u.lns.getD (farLines q)
    let k := farChoice s ls.length
    let x := farLine { s with fresh := s.fresh + 1 } p u (nth ls k 0)
    let rest := ls.eraseIdx k
    let v := { u with lns := some rest, ans := x.2 }
    let part (r : FarAns) : FarAns := { r with stat := if u.lost = [] then 0 else 6, vmask := maskLost 0xFFFF u.lost }
    (x.1, v, if rest = [] then some (part x.2) else none)

/-- The source port and stream that a request or a reply names. -/
def farKey (d : Nat) : Nat := byteRange d 42 1 * 2 ^ 16 + byteRange d 43 1 * 2 ^ 8 + byteRange d 44 1 % 64

/-- The requests that a target may perform: of each source port and stream the oldest (R283). -/
def farOpen (us : List RxUnit) : List Nat :=
  (List.range us.length).filter fun k =>
    match us[k]? with
    | some u => (us.take k).all fun v => farKey v.data != farKey u.data
    | none => false

/-- Request k of a lane group goes a step further here; performed, its reply is queued. -/
def farAdvance (s : State) (g k : Nat) : State :=
  let l := getLane s g
  match l.bind, l.reqs[k]? with
  | some b, some u =>
    let x := farPerform { s with fresh := s.fresh + 1 } b.1 l.epoch u
    modLane x.1 g fun l =>
      match x.2.2 with
      | some r => { l with reqs := l.reqs.eraseIdx k }.post (replyFlits (farReq u.data) r)
      | none => { l with reqs := modNth l.reqs k fun _ => x.2.1 }
  | _, _ => s

/-- The step REMOTE_REQUEST (R283, R319): one of a lane group's requests goes a step further here. -/
def execEvRemoteRequest (g : Nat) (s : State) : Host.Outcome State Fault Refusal :=
  let ks := farOpen (getLane s g).reqs
  .next (farAdvance s g (nth ks (farChoice s ks.length) 0))

/-- The requests of a lane group that have begun are performed to their end. `fuel` bounds the lines. -/
def farFinish (g : Nat) : Nat → State → State
  | 0, s => s
  | fuel + 1, s =>
    match (getLane s g).reqs.findIdx? fun u => u.lns.isSome with
    | some k => farFinish g fuel (farAdvance s g k)
    | none => s

/-- The bytes that a remote update wrote enter the digest (R301, R302): computed as the target computed them; nothing of what
poison suppressed. -/
def farDigest (s : State) (l : Loc) (a : Access) (p : Piece) (h : Hdr) (scalar data badLines : Nat) : State :=
  let es := a.width / 8
  let f := (Fmt.ofCode a.fmt).getD .fp32
  let pa0 := a.phys ((p.els.map Prod.snd).headD 0)
  let kept (e : Nat × Nat) : Bool := bit h.vmask (e.1 * es / 256)
  if !a.seq || !p.wr then s
  else if a.op = 0xA8 then
    if h.stat = 6 || h.poison || (a.mod ≠ 0 && a.poison) then s
    else
      let val (e : Nat × Nat) : Nat :=
        if a.mod ≠ 0 then 0
        else if 1024 ≤ e.1 then (scalar + 1) % 2 ^ 32
        else (combine .fp32 a.ftz 0 (lane 32 data (e.1 % 64)) (lane 32 a.buf e.1)).1
      p.els.foldl (fun s e => digWrite s l a e.2 4 (val e)) s
  else if a.op = 0xA7 then
    (p.els.filter fun e => kept e && !bit badLines (a.phys e.2 / 64 % 64)).foldl (fun s e =>
      digWrite s l a e.2 es (combine f a.ftz a.mod (byteRange data (a.phys e.2 - pa0) es) (lane a.width a.buf e.1)).1) s
  else if 0xB0 ≤ a.op then
    (match (if h.poison || a.poison then none else (atomicNew a f scalar).1) with
     | some v => p.els.foldl (fun s e => digWrite s l a e.2 es v) s
     | none => s)
  else
    let val (e : Nat × Nat) : Nat :=
      if fmtIsMx a.fmt && a.op == 0xA1 && mxMask a e.1 != 255 then scalar % 256 else storeElem a e.1
    (p.els.filter kept).foldl (fun s e => digWrite s l a e.2 es (val e)) s

/-- What a reply brings to its access (R319, R320): poison keeps STAT SUPPRESSED (R196, R197). -/
def farResult (a : Access) (p : Piece) (h : Hdr) (scalar data fl nf : Nat) : Access :=
  let es := a.width / 8
  let i0 := (p.els.map Prod.fst).headD 0
  let a := { a with flags := a.flags ||| BitVec.ofNat _ fl }
  let nfAt (k : Nat) : Option Nat := if nf = 0 then a.nonfinAt else lowerOf a.nonfinAt k
  if a.op = 0xA8 then
    if a.mod = 0 then { a with stat := if h.stat = 6 then 6 else a.stat, nonfinAt := nfAt (64 * redBlock p + (nf - 1)) }
    else
      let buf := p.els.foldl (fun b e => setByteRange b (4 * e.1) 4 (if 1024 ≤ e.1 then scalar else lane 32 data (e.1 % 64))) a.buf
      { a with buf := buf }
  else if a.op = 0xA7 then { a with stat := if h.stat = 6 then 6 else a.stat, nonfinAt := nfAt (i0 + (nf - 1)) }
  else if 0xB0 ≤ a.op then { a with buf := scalar, stat := if a.poison then 3 else h.stat, nonfinAt := nfAt 0 }
  else if p.wr then { a with stat := if h.stat = 6 then 6 else a.stat }
  else
    let v := if (farHdr a).pkind < 2 then scalar else data
    { a with buf := (p.els.zipIdx.foldl (fun b e => setByteRange b (e.1.1 * es) es (byteRange v (e.2 * es) es)) a.buf) }

/-- A port drops the remote translations of a lane group that a test names (R322). -/
def dropFar (g : Nat) (out : TlbEnt → Bool) (q : Port) : Port :=
  { q with tlb := q.tlb.filter fun t => !((t.far.map fun x => x.1) == some g && out t) }

/-- A reply meets the piece that waits for it (R319, R322). -/
def farReply (s : State) (g : Nat) (w : FarWait) (u : RxUnit) : State :=
  let l := w.loc
  match (getElem s l).port.accs.findIdx? fun a => a.id == w.id with
  | none => s
  | some n =>
    match getAccess s l n with
    | none => s
    | some a =>
      match a.pieces[w.piece]? with
      | none => s
      | some p =>
        let h := hdrOfBits (u.data % 2 ^ 256)
        if h.stat = farRefused then
          putAccess (modPort s l (dropFar g fun _ => true)) l n
            { a with pieces := modNth a.pieces w.piece fun p => { p with sent := false } }
        else
          let scalar := byteRange u.data 32 8
          let data := blockBytes u.blocks
          let b := farResult a p h scalar data (byteRange u.data 48 2) (byteRange u.data 50 2)
          let x := if h.poison then meetBad s l b ((p.els.map Prod.snd).headD 0) else (s, b)
          let s := farDigest x.1 l a p h scalar data (byteRange u.data 56 8)
          let y := goOn s l (x.2.setDone w.piece) false
          putAccess (busy y.1 (rgnOf l)) l n y.2

/-- The step REMOTE_REPLY (R319): the oldest reply of a lane group meets the first request of its port and stream that waits. -/
def execEvRemoteReply (g : Nat) (s : State) : Host.Outcome State Fault Refusal :=
  let l := getLane s g
  match l.reps with
  | [] => .next s
  | u :: r =>
    match l.waits.findIdx? fun w => w.key == farKey u.data with
    | none => .next (modLane s g fun l => { l with reps := r })
    | some n =>
      let s := modLane s g fun l => { l with reps := r, waits := l.waits.eraseIdx n }
      .next (match l.waits[n]? with | some w => farReply s g w u | none => s)

/-- The step REMOTE_TRANSLATE_REQUEST (R321): the target's walk of its partition's table; only its HBM is reached. The reply
carries the page, its log2 size below a failure's cause, the entry, the EPOCH and the port that asked. -/
def execEvRemoteTranslateRequest (g : Nat) (s : State) : Host.Outcome State Fault Refusal :=
  let l := getLane s g
  match l.bind, takeCtl ckAsk l with
  | some b, some (a, l') =>
    let key := 2 ^ 16 * (a.2.1 / 256)
    let tell := match walk s b.1 a.1 with
      | .error e => ctlFlit ckTell (a.1 + e.code * 2 ^ 56) 0 (l.epoch + key)
      | .ok t => if ownsHbm s b.1 (t.phys a.1) then ctlFlit ckTell a.1 t.entry (l.epoch + 256 * t.size + key)
        else ctlFlit ckTell (a.1 + 0x11 * 2 ^ 56) 0 (l.epoch + key)
    .next (modLane s g fun _ => l'.post [tell])
  | _, _ => .next s

/-- The accesses of a port that wait for a page of the target are held (R209, R321). -/
def failFar (s : State) (l : Loc) (k : LinkBind) (page cause : Nat) : State :=
  let fails (va : Nat) : Bool := k.v ≤ va && va < k.v + k.s && (k.t + (va - k.v)) / 4096 * 4096 == page
  let waits (a : Access) : Option (Nat × Nat) :=
    if !a.begun || a.held.isSome then none
    else (a.pieces.zipIdx.filter fun q => q.2 ≤ a.xl && !q.1.done && !q.1.sent).findSome? fun q =>
      (q.1.pageVas.find? fails).map fun va => (va, q.2)
  (List.range (getElem s l).port.accs.length).foldl (fun s n =>
    match getAccess s l n with
    | none => s
    | some a => match waits a with
      | some q => let x := holdAccess s l a cause q.1; putAccess x.1 l n { x.2 with xl := min x.2.xl q.2 }
      | none => s) s

/-- The step REMOTE_TRANSLATE_REPLY (R321): the port that asked holds the translation in its cache, with its lane group and
EPOCH, or its accesses that wait for the page meet its failure. -/
def execEvRemoteTranslateReply (g : Nat) (s : State) : Host.Outcome State Fault Refusal :=
  let l := getLane s g
  match laneBind s l, takeCtl ckTell l with
  | some k, some (a, l') =>
    let page := a.1 % 2 ^ 56
    let cause := a.1 / 2 ^ 56
    (match l.asked.find? fun x => x.2.1 == page && x.2.2 == a.2.2 / 2 ^ 16 % 2 ^ 16 with
     | none => .next (modLane s g fun _ => l')
     | some x =>
       let s := modLane s g fun _ => { l' with asked := l'.asked.filter fun y => y != x }
       if cause ≠ 0 then .next (failFar s x.1 k page cause)
       else
         let size := a.2.2 / 256 % 64
         let t : TlbEnt := { base := page / 2 ^ size * 2 ^ size, size := size, entry := a.2.1, far := some (g, a.2.2 % 256) }
         .next (modPort s x.1 fun q => { q with tlb := (t :: q.tlb).take 512 }))
  | _, _ => .next s

/-- A range of target pages meets an address range of 2^size bytes from base. -/
def pagesMeet (first n base size : Nat) : Bool := first * 4096 < base + 2 ^ size && base < (first + n) * 4096

/-- An INV has been accepted behind no translation reply that still stands (R322): that one entered the cache first. -/
def invTurn (l : Lane) : Bool := !(l.ctl.takeWhile fun c => c.1 != ckInv).any fun c => c.1 == ckTell

/-- The step INV (R322): every port of the source region drops the matching entries; the answer waits for the requests that used
them. -/
def execEvInv (g : Nat) (s : State) : Host.Outcome State Fault Refusal :=
  match (if invTurn (getLane s g) then takeCtl ckInv (getLane s g) else none) with
  | none => .next s
  | some (a, l) =>
    let clk := s.clk
    let drop (e : Elem) : Elem := { e with port := dropFar g (fun t => pagesMeet a.1 a.2.1 t.base t.size) e.port }
    let s := modLane s g fun _ => { l with invs := l.invs ++ [(a.1, a.2.1, clk)] }
    .next (match l.bind with
      | some b => modRegion s ⟨b.1, b.2.1⟩ fun x => { x with elems := x.elems.map drop }
      | none => s)

/-- A request that waits for its reply uses a page of a range (R322). -/
def usesPages (s : State) (l : Lane) (first n : Nat) : Bool :=
  match laneBind s l with
  | none => false
  | some k => l.waits.any fun w =>
    match (getElem s w.loc).port.accs.find? fun a => a.id == w.id with
    | none => false
    | some a => match a.pieces[w.piece]? with
      | none => false
      | some p => p.els.any fun e => first ≤ (k.t + (e.2 - k.v)) / 4096 && (k.t + (e.2 - k.v)) / 4096 < first + n

/-- The step INVACK_SEND (R322): every request that used the page of the oldest INV has its reply. -/
def execEvInvackSend (g : Nat) (s : State) : Host.Outcome State Fault Refusal :=
  let l := getLane s g
  match l.invs with
  | [] => .next s
  | i :: r =>
    if usesPages s l i.1 i.2.1 then .next s
    else .next (modLane s g fun l => { l with invs := r }.post [ctlFlit ckInvack i.1 i.2.1 0])

/-- The step INVACK_RECEIVE (R322). -/
def execEvInvackReceive (g : Nat) (s : State) : Host.Outcome State Fault Refusal :=
  match takeCtl ckInvack (getLane s g) with
  | none => .next s
  | some (a, l) => .next (modLane s g fun _ => { l with invsOut := l.invsOut.filter fun i => !(i.1 == a.1 && i.2.1 == a.2.1) })

/-- The step REMOTE_INVALIDATE_TIMEOUT (R322): an INV has stood for 2^17 clk; the source region stops, the page in its record. -/
def execEvRemoteInvalidateTimeout (g : Nat) (s : State) : Host.Outcome State Fault Refusal :=
  let l := getLane s g
  match l.bind, l.invs.find? fun i => i.2.2 + 2 ^ 17 ≤ s.clk with
  | some b, some i =>
    let st := (getRegion s ⟨b.1, b.2.1⟩).st
    if st = 2 || st = 3 then .next (meetStopRgn s ⟨b.1, b.2.1⟩ { cause := 0x51, addr := i.1 * 4096 } (i.1 * 128 + g)) else .next s
  | _, _ => .next s

/-- The step EPOCH_ADVANCE (R322): an INV has stood unanswered for 2^18 clk; the epoch advances and the page may be reused. What
has begun on it is performed first: no access reaches a reused page. -/
def execEvEpochAdvance (g : Nat) (s : State) : Host.Outcome State Fault Refusal :=
  let clk := s.clk
  let late (i : Nat × Nat × Nat) : Bool := i.2.2 + 2 ^ 18 ≤ clk
  if (getLane s g).invsOut.any late then
    let s := farFinish g ((((getLane s g).reqs.filterMap (·.lns)).map List.length).sum) s
    .next (modLane s g fun l => { l with epoch := (l.epoch + 1) % 256, invsOut := l.invsOut.filter fun i => !late i })
  else .next s

end Sys2Proof.Machine
end

