-- ==== Sys2Proof/Machine/Save.lean ====
section
/-! DEFINITION. Writing a region's state to its save area and reading it back (spec/19: R378, R379, Table 19.3; spec/10:
Table 10.3; spec/09: R247). -/

namespace Sys2Proof.Machine

/-- n bytes of a value at an offset. -/
def fld (off n v : Nat) : Nat := v % 2 ^ (8 * n) * 2 ^ (8 * off)

/-- Equal byteChunks of n bytes, one after another. -/
def byteChunks (n : Nat) (l : List Nat) : Nat := packLanes (8 * n) l

/-- The header and the state to resume (Table 19.3): STOPPED where a stopping cause was met, else the state. -/
def resumeByte (g : Region) : Nat := if g.st = 5 || g.recorded != [] then 5 else g.st

/-- The first 4 KiB of a save area (Table 19.3). -/
def saveHead (s : State) (g : Region) : Nat :=
  let o := saveOffsets s g
  fld 0x00 8 0x5641534F4C494F4E + fld 0x08 2 1 + fld 0x0A 1 (resumeByte g) + fld 0x0B 1 g.foot + fld 0x0C 4 g.launch
    + fld 0x10 8 g.imgAddr + fld 0x18 8 o.2.2.2.2
    + fld 0x20 2 g.img.regw + fld 0x22 2 g.img.regh + fld 0x24 2 g.pour + fld 0x26 2 g.origin
    + fld 0x28 8 (s.clk - g.launchClk) + fld 0x30 4 g.frontier + fld 0x34 4 (allChanTokens s g).length + fld 0x38 2 g.faultq.length
    + fld 0x40 8 o.1 + fld 0x48 8 o.2.1 + fld 0x50 8 o.2.2.1 + fld 0x58 8 o.2.2.2.1
    + fld 0x60 8 (if resumeByte g = 5 then g.stopW0 else 0)
    + fld 0x80 200 g.digest.state + fld 0x148 8 g.digest.absorbed
    + fld 0x800 2048 (byteChunks 64 g.faultq)

/-- One live copy of a body (Table 19.3). -/
def instBytes (i : Inst) : Nat := fld 0 1 i.st + fld 4 4 i.oldest + fld 16 256 (byteChunks 1 i.counts)

/-- One body: header, then K copies. -/
def bodyBlock (b : BodySt) : Nat :=
  fld 0 2 b.desc.num + fld 2 2 b.desc.k + fld 4 4 b.alloc + 2 ^ 128 * byteChunks 272 (b.insts.map instBytes)

/-- The body section. -/
def bodySection : List BodySt → Nat
  | [] => 0
  | b :: r => bodyBlock b + 2 ^ (8 * (16 + 272 * b.desc.k)) * bodySection r

/-- Where a payload stands, as 8 bytes: a scalar itself, a pool buffer, or a spill slot with [63] (Table 10.3). -/
def placeBytes (h : Held) : Nat :=
  match h.loc with
  | .here => h.tok.payload
  | .pool b => b
  | .spill n => 2 ^ 63 + n
  | .fetching n _ => 2 ^ 63 + n

/-- Header words HW1 to HW6, with the region's channel number (R364). -/
def midWords (g : Region) (h : Hdr) : Nat := byteRange (hdrBits h (regChan g h.chan)) 4 24

/-- The channel that feeds a position of a slot. -/
def feedChan (e : Elem) (slot pos : Nat) : Option Nat :=
  (e.cfg.recv.find? fun v => v.valid && v.slot == slot && v.pos == pos).map fun v => v.chan

/-- Position p of a set (Table 10.3). A position with an orphan mark alone holds the channel of the token that it awaits, in HW1
(DESIGN CHOICE, log entry 34). -/
def posBytes (g : Region) (e : Elem) (m : MSet) (p : Nat) (h : Option Held) : Nat :=
  match h with
  | some x => midWords g x.tok.hdr + fld 24 8 (placeBytes x)
  | none => if bit m.orphan p then match feedChan e m.slot p with | some c => midWords g { chan := c } | none => 0 else 0

/-- A set as a frame entry (Table 10.3). -/
def setBytes (g : Region) (e : Elem) (m : MSet) : Nat :=
  fld 0 4 m.tag
    + fld 4 1 (b2n m.a.isSome + 2 * b2n m.b.isSome + 4 * b2n m.c.isSome + 8 * m.orphan + 64 * b2n (m.inFrame && m.ready.isSome))
    + fld 32 32 (posBytes g e m 0 m.a) + fld 64 32 (posBytes g e m 1 m.b) + fld 96 32 (posBytes g e m 2 m.c)

/-- The byte offset of a frame entry in the scratchpad (R262). -/
def frameOff (g : Region) (e : Elem) (slot tag : Nat) : Option Nat :=
  match e.cfg.frames.find? fun f => f.body == tagBody tag && bit f.smask slot, bodyOf g (tagBody tag) with
  | some f, some b =>
    let n := popcount 32 f.smask
    some (128 * (f.base + (tagInst tag * bodyW b + tagIter tag % bodyW b) * n + popcount slot f.smask))
  | _, _ => none

/-- A head (Table 19.3): HW0 to HW6, then the payload or where it stands. -/
def headBytes (g : Region) (h : Held) : Nat := hdrBits h.tok.hdr (regChan g h.tok.hdr.chan) % 2 ^ 224 + fld 32 8 (placeBytes h)

/-- The piece frontier of an access (R332): the lowest of its pieces that is not performed. -/
def pieceFront (a : Access) : Nat := (a.pieces.findIdx? fun p => !p.done).getD a.pieces.length

/-- An operand of a request: a scalar, or the first 8 bytes of a larger payload. -/
def operandBytes (t : Option Token) : Nat := (t.getD {}).payload % 2 ^ 64

/-- An access as its request beats with the piece frontier (Table 19.3): what it is, its coordinates, its operands, its
destination. The bytes are the model's own (DESIGN CHOICE, log entry 34): byte 0 shows that the entry is in use. -/
def requestBytes (g : Region) (a : Access) : Nat :=
  fld 0 1 (0x80 + b2n a.begun + 2 * b2n a.headed + 4 * b2n a.eos + 8 * b2n a.ended + 16 * b2n a.poison + 32 * b2n a.seq + 64 * b2n a.ordered)
    + fld 1 1 a.op + fld 2 1 a.mod + fld 3 1 a.slot + fld 4 4 a.tag + fld 8 4 a.outTag + fld 12 1 a.stream + fld 13 1 a.ord
    + fld 14 1 a.scope + fld 15 1 a.stat + fld 16 2 a.fidx + fld 18 2 (pieceFront a) + fld 20 4 a.seqo + fld 24 4 a.desc + fld 28 4 a.seqp
    + fld 32 8 a.fva + fld 40 4 a.seqs + fld 44 1 (a.held.getD 0)
    + fld 45 1 (b2n a.coords.isSome + 2 * b2n a.a.isSome + 4 * b2n a.b.isSome + 8 * b2n a.c.isSome + 16 * b2n a.fill.isSome
        + 32 * b2n a.atSeq)
    + fld 48 24 (byteChunks 4 ((a.coords.getD []).map (uval 32)))
    + fld 72 8 (operandBytes a.a) + fld 80 8 (operandBytes a.b) + fld 88 8 (operandBytes a.c)
    + fld 96 8 (byteChunks 2 (a.dest.map fun ch => regChan g ch + 1)) + fld 104 8 (a.fill.getD 0) + fld 112 8 a.state
    + fld 120 2 ((a.buffer.map (· + 1)).getD 0)

/-- A loop-nest unit (Table 19.3): the program, the exhausted byte, and the low byte of each of v0 to v5: 128 bytes hold no more
beside the program (DESIGN CHOICE, log entry 34). -/
def nestBytes (u : LoopNest) : Nat := fld 0 121 u.prog + fld 121 1 (b2n u.exhausted) + fld 122 6 (byteChunks 1 (u.v.map fun x => x % 256))

/-- A bank (Table 19.3): CELLS, then VR, VC, MASK, POISON, FIDX of 2 bytes each and SCTX of 4. -/
def bankBytes (b : Bank) : Nat :=
  fld 0 4096 b.cells + fld 4096 2 b.vr + fld 4098 2 b.vc + fld 4100 2 b.mask + fld 4102 2 (b2n b.poison) + fld 4104 2 b.fidx
    + fld 4106 4 b.sctx

/-- The block of one element in the element section (Table 19.3). -/
def elemBytesSaved (g : Region) (e : Elem) : Nat :=
  fld 0 2 e.preds + fld 2 1 e.flags.toNat + fld 8 8 e.eosFlags + fld 16 256 (byteChunks 8 e.states) + fld 272 128 (byteChunks 4 e.consts)
    + fld 0x1000 0x2000 (byteChunks 128 ((e.sets.filter fun m => !m.inFrame).map (setBytes g e)))
    + fld 0x3000 0x100 (byteChunks 4 ((e.sets.filter fun m => m.inFrame && m.ready.isSome).filterMap fun m => frameOff g e m.slot m.tag))
    + fld 0x4000 0x4000 (byteChunks 64 ((e.heads.flatMap fun q => q.2).map (headBytes g)))
    + fld 0x8000 0x5000 (byteChunks 4160 (e.banks.map bankBytes))
    + (if e.kind = 1 then
        fld 0xD000 0x4000 (byteChunks 64 ((List.range 256).map fun h => (lookupKey e.port.layc h).getD 0))
          + fld 0x11000 0x2000 (byteChunks 128 ((e.port.accs.take 64).map (requestBytes g)))
          + fld 0x13000 0x2000 (byteChunks 128 ((List.range 64).map fun n => nestBytes ((lookupKey e.port.nests n).getD {})))
      else 0)

/-- The element section. -/
def elemSection (g : Region) : List Elem → Nat
  | [] => 0
  | e :: r => elemBytesSaved g e + 2 ^ (8 * elemBlock e) * elemSection g r

/-- The scratchpad offset of the gauge area (R51). -/
def gaugeBase (kind : Nat) : Nat := 4096 * ((if kind = 0 then 640 else 128) - 1)

/-- A gauge word (R203). -/
def gaugeBytes (q : Gauge) : Nat := q.count % 2 ^ 48 + q.target % 2 ^ 48 * 2 ^ 48 + q.gen % 2 ^ 32 * 2 ^ 96

/-- The scratchpad with its frames and gauge words in their places. -/
def fullScratch (g : Region) (e : Elem) : List Host.Cell :=
  let m := (e.sets.filter fun x => x.inFrame).foldl (fun m x => match frameOff g e x.slot x.tag with
    | some o => writeBytes m o 128 (setBytes g e x)
    | none => m) e.scratch
  writeBytes m (gaugeBase e.kind) (16 * e.gauges.length) (byteChunks 16 (e.gauges.map gaugeBytes))

/-- The units of an element's carve that are saved, in address order. -/
def carveList (e : Elem) : List Nat :=
  let c := e.cfg
  let us := List.range c.pooln ++ (List.range c.frmsize).map (c.frmbase + ·) ++ (List.range c.ressize).map (c.resbase + ·)
    ++ (if c.gaugen = 0 then [] else [gaugeBase e.kind / 4096])
  us.foldl (fun acc n => insertBy id n acc) []

/-- The carve section. -/
def carveSection (g : Region) (es : List Elem) : Nat :=
  byteChunks 4096 (es.flatMap fun e => (carveList e).map fun u => readBytes (fullScratch g e) (4096 * u) 4096)

/-- The channel section: every token as its beats, with its region channel number (R378). -/
def chanSection : List (Nat × Token) → Nat
  | [] => 0
  | q :: r => tokenBeats q.2 q.1 % 2 ^ (1024 * beatsOf q.2.hdr) + 2 ^ (1024 * beatsOf q.2.hdr) * chanSection r

/-- A section of n bytes written to the save area. -/
def writeSection (s : State) (p area off n v : Nat) : State := vwriteLong s p (n / 64 + 2) (area + off) n v

/-- The whole save area (Table 19.3). -/
def writeSave (s : State) (r : Rgn) (area : Nat) : State :=
  let g := getRegion s r
  let o := saveOffsets s g
  let es := savedElems g
  let body := bodySection g.bodies
  let elems := elemSection g es
  let carve := carveSection g es
  let chans := chanSection ((allChanTokens s g).map fun q => (regChan g q.1, q.2))
  let head := saveHead s g
  let s := writeSection s r.part area 0 0x1000 head
  let s := writeSection s r.part area o.1 (o.2.1 - o.1) body
  let s := writeSection s r.part area o.2.1 (o.2.2.1 - o.2.1) elems
  let s := writeSection s r.part area o.2.2.1 (o.2.2.2.1 - o.2.2.1) carve
  writeSection s r.part area o.2.2.2.1 (o.2.2.2.2 - o.2.2.2.1) chans

/-- The far receivers of a region's lane groups are empty: their tokens are in the save area. -/
def clearRxq (s : State) (r : Rgn) : State :=
  { s with lanes := s.lanes.map fun l => match l.bind with
      | some b => if b.1 = r.part ∧ b.2.1 = r.handle then { l with rxq := [] } else l
      | none => l }

/-- The step SAVE_COMPLETE (R247, R378): the area is written, STATE is SAVED, and the region's elements are free. -/
def execEvSaveComplete (r : Rgn) (s : State) : Host.Outcome State Fault Refusal :=
  match (getRegion s r).job with
  | some (.save area) =>
    let s := clearRxq (writeSave s r area) r
    let g := getRegion s r
    .next (enterState s r { g with job := none, frontier := g.frontier } 6)
  | _ => .next s

/-- A header with its channel relocated by a base (R364). -/
def Hdr.onBase (base : Nat) (h : Hdr) : Hdr := { h with chan := base + h.chan }

/-- A header word pair and place read back as an operand (Table 10.3). -/
def heldOf (base clk tag x : Nat) (e : Elem) : Held :=
  let h := (hdrOfBits (tag % 2 ^ 32 + 2 ^ 32 * (x % 2 ^ 192))).onBase base
  let v := byteRange x 24 8
  let big := h.kind == 0 && 2 ≤ h.pkind
  if !big then { tok := { hdr := h, payload := if h.kind = 0 then v % 2 ^ (8 * payloadBytes h) else 0 }, stamp := clk }
  else if bit v 63 then { tok := { hdr := h }, loc := .spill (v % 2 ^ 28), stamp := clk }
  else { tok := { hdr := h, payload := readBytes e.scratch (poolBase (v % 1024)) (payloadBytes h) }, loc := .pool (v % 1024), stamp := clk }

/-- A set read back from 128 bytes, for a slot. -/
def setOfBytes (base clk slot x : Nat) (frame : Bool) (e : Elem) : MSet :=
  let tag := byteRange x 0 4
  let pr := byteRange x 4 1
  let p (n : Nat) : Option Held := if bit pr n then some (heldOf base clk tag (byteRange x (32 + 32 * n) 32) e) else none
  { slot := slot, tag := tag, a := p 0, b := p 1, c := p 2, orphan := bits pr 5 3, inFrame := frame,
    ready := if bit pr 6 then some clk else none }

/-- The slot of a set of the matching store: that of the receive entry of the channel of a present or awaited operand. -/
def slotOfBytes (base x : Nat) (e : Elem) : Option Nat :=
  let used := Nat.lor (byteRange x 4 1 % 8) (bits (byteRange x 4 1) 5 3)
  ((List.range 3).find? fun p => bit used p).bind fun p =>
    let ch := base + (hdrOfBits (2 ^ 32 * byteRange x (32 + 32 * p) 24)).chan
    (e.cfg.recv.find? fun v => v.valid && v.chan == ch).map fun v => v.slot

/-- A set whose slot is known, complete or not. -/
def settle (clk : Nat) (e : Elem) (m : MSet) : MSet := if setFull e m then { m with ready := some clk } else m

/-- The sets of the matching store read back. -/
def storeSets (base clk x : Nat) (e : Elem) : List MSet :=
  (List.range 64).filterMap fun i =>
    let y := byteRange x (0x1000 + 128 * i) 128
    (slotOfBytes base y e).map fun n => settle clk e { setOfBytes base clk n y false e with ready := none }

/-- The sets of an element's frames read back from the frame area. -/
def frameSets (clk : Nat) (g : Region) (e : Elem) (mem : List Host.Cell) : List MSet :=
  e.cfg.frames.flatMap fun f =>
    match bodyOf g f.body with
    | none => []
    | some b => (List.range b.k).flatMap fun i => (List.range (bodyW b)).flatMap fun t =>
        ((List.range 32).filter fun n => bit f.smask n).filterMap fun n =>
          (frameOff g e n (mkTag f.body i t)).bind fun o =>
            let x := readBytes mem o 128
            if byteRange x 4 1 % 64 = 0 then none else some (setOfBytes g.chBase clk n x true e)

/-- The heads of an element read back, by channel. -/
def headLists (base clk x : Nat) (e : Elem) : List (Nat × List Held) :=
  (List.range 256).foldl (fun hs i =>
    let w := byteRange x (0x4000 + 64 * i) 64
    if w = 0 then hs
    else
      let h := heldOf base clk (w % 2 ^ 32) (byteRange w 4 24 + fld 24 8 (byteRange w 32 8)) e
      let c := h.tok.hdr.chan
      putKey hs c ((lookupKey hs c).getD [] ++ [h])) []

/-- A bank read back. -/
def bankOfBytes (x : Nat) : Bank :=
  { cells := byteRange x 0 4096, vr := byteRange x 4096 2, vc := byteRange x 4098 2, mask := byteRange x 4100 2,
    poison := byteRange x 4102 2 != 0, fidx := byteRange x 4104 2, sctx := byteRange x 4106 4 }

/-- A gauge word read back. -/
def gaugeOfBytes (x : Nat) : Gauge := { count := bits x 47 0, target := bits x 95 48, gen := bits x 127 96 }

/-- The pool buffers and spill slots that held operands occupy. -/
def heldPlaces (e : Elem) : List PLoc :=
  (e.sets.flatMap fun m => (m.a.toList ++ m.b.toList ++ m.c.toList).map fun (h : Held) => h.loc)
    ++ e.heads.flatMap fun q => q.2.map fun (h : Held) => h.loc

/-- An access that the region kept, in the region restored: its destinations relocated (R364). -/
def Access.moved (g oldG : Region) (a : Access) : Access := { a with dest := a.dest.map fun ch => g.chBase + regChan oldG ch }

/-- An operand read back: its low 8 bytes, and from the operand that the region kept the rest. -/
def operandOf (has : Bool) (o : Option Token) (x : Nat) : Option Token :=
  if has then some { (o.getD {}) with payload := (o.getD {}).payload / 2 ^ 64 * 2 ^ 64 + x } else none

/-- An access read back: what its 128 bytes give, and from the access that the region kept the rest. -/
def accOfBytes (g oldG : Region) (o : Access) (x : Nat) : Access :=
  let b (k : Nat) : Bool := bit (byteRange x 0 1) k
  let c (k : Nat) : Bool := bit (byteRange x 45 1) k
  let k := byteRange x 18 2
  { o with
    begun := b 0, headed := b 1, eos := b 2, ended := b 3, poison := b 4, seq := b 5, ordered := b 6
    op := byteRange x 1 1, mod := byteRange x 2 1, slot := byteRange x 3 1, tag := byteRange x 4 4, outTag := byteRange x 8 4
    stream := byteRange x 12 1, ord := byteRange x 13 1, scope := byteRange x 14 1, stat := byteRange x 15 1, fidx := byteRange x 16 2
    seqo := byteRange x 20 4, desc := byteRange x 24 4, seqp := byteRange x 28 4, fva := byteRange x 32 8, seqs := byteRange x 40 4
    held := if byteRange x 44 1 = 0 then none else some (byteRange x 44 1)
    pieces := o.pieces.zipIdx.map fun q => if q.2 < k then { q.1 with done := true } else if q.2 = k then { q.1 with done := false } else q.1
    coords := if c 0 then some ((List.range 6).map fun j => sval 32 (byteRange x (48 + 4 * j) 4)) else none
    a := operandOf (c 1) o.a (byteRange x 72 8), b := operandOf (c 2) o.b (byteRange x 80 8), c := operandOf (c 3) o.c (byteRange x 88 8)
    fill := if c 4 then some (byteRange x 104 8) else none
    atSeq := c 5, state := byteRange x 112 8
    buffer := if byteRange x 120 2 = 0 then none else some (byteRange x 120 2 - 1)
    dest := ((List.range 4).filterMap fun i =>
      let n := byteRange x (96 + 2 * i) 2
      if n = 0 then none else some (g.chBase + n - 1)) ++ ((o.moved g oldG).dest.drop 4) }

/-- The replay queue read back, and behind it what waited in the input channel (R332). -/
def accsOfBytes (g oldG : Region) (old : List Access) (x : Nat) : List Access :=
  ((List.range 64).filterMap fun i =>
    let y := byteRange x (0x11000 + 128 * i) 128
    if bit y 7 then some (accOfBytes g oldG (nth old i {}) y) else none)
  ++ (old.drop 64).map (Access.moved g oldG)

/-- The loop-nest units read back. -/
def nestsOfBytes (old : List (Nat × LoopNest)) (x : Nat) : List (Nat × LoopNest) :=
  (List.range 64).filterMap fun n =>
    let y := byteRange x (0x13000 + 128 * n) 128
    (lookupKey old n).map fun u =>
      (n, { prog := Nat.lor (byteRange y 0 121) (u.prog / 2 ^ 968 * 2 ^ 968), exhausted := byteRange y 121 1 != 0
            v := u.v.zipIdx.map fun q => q.1 / 256 * 256 + byteRange y (122 + q.2) 1 })

/-- An element read back: its block x, the bytes of its carve, and what the area does not hold, from the region as it was
saved. -/
def restoreElem (clk : Nat) (g oldG : Region) (e old : Elem) (x : Nat) (carve : List (Nat × Nat)) : Elem :=
  let mem := carve.foldl (fun m q => writeBytes m (4096 * q.1) 4096 q.2) []
  let plain := mem.filter fun c => (c.1 / 4096 < e.cfg.pooln) || (e.cfg.resbase ≤ c.1 / 4096 && c.1 / 4096 < e.cfg.resbase + e.cfg.ressize)
  let e := { e with
    preds := byteRange x 0 2, flags := BitVec.ofNat 5 (byteRange x 2 1), eosFlags := byteRange x 8 8
    states := (List.range 32).map fun i => byteRange x (16 + 8 * i) 8
    consts := (List.range 32).map fun i => byteRange x (272 + 4 * i) 4
    banks := (List.range 4).map fun i => bankOfBytes (byteRange x (0x8000 + 4160 * i) 4160)
    gauges := (List.range e.gauges.length).map fun i => gaugeOfBytes (readBytes mem (gaugeBase e.kind + 16 * i) 16)
    scratch := plain, pending := [], eosTags := old.eosTags
    port := { e.port with
      -- a `pwait` of another element, which waits (R207, R330), has no place in the area
      accs := if e.kind = 1 then accsOfBytes g oldG old.port.accs x else old.port.accs.map (Access.moved g oldG)
      nests := nestsOfBytes old.port.nests x
      layc := (List.range 256).filterMap fun h =>
        let v := byteRange x (0xD000 + 64 * h) 64
        if e.kind = 1 && v != 0 then some (h, v) else none } }
  let e := { e with sets := storeSets g.chBase clk x e ++ frameSets clk g e mem, heads := headLists g.chBase clk x e }
  { e with poolHeld := (heldPlaces e).filterMap (fun q => match q with | .pool b => some b | _ => none)
             ++ e.port.accs.filterMap fun a => a.buffer
           spillHeld := (heldPlaces e).filterMap fun q => match q with | .spill n => some n | _ => none }

/-- The live copies of a body read back. -/
def restoreBody (b : BodySt) (x : Nat) : BodySt :=
  { b with alloc := byteRange x 4 4
           insts := (List.range b.desc.k).map fun i =>
             let y := byteRange x (16 + 272 * i) 272
             { st := byteRange y 0 1, oldest := byteRange y 4 4, counts := (List.range (bodyW b.desc)).map fun t => byteRange y (16 + t) 1 } }

/-- The bodies read back from their section. -/
def restoreBodies : List BodySt → Nat → List BodySt
  | [], _ => []
  | b :: r, x => restoreBody b x :: restoreBodies r (x >>> (8 * (16 + 272 * b.desc.k)))

/-- The tokens of the channel section. -/
def restoreToks (base : Nat) : Nat → Nat → List Token
  | 0, _ => []
  | n + 1, x =>
    let t := tokenOfBeats x
    { t with hdr := t.hdr.onBase base } :: restoreToks base n (x >>> (1024 * beatsOf t.hdr))

/-- The number of tokens of a channel resident at its receiver. -/
def residentOf (e : Elem) (ch : Nat) : Nat :=
  (e.sets.map fun m => ((m.a.toList ++ m.b.toList ++ m.c.toList).filter fun (h : Held) => h.tok.hdr.chan == ch).length).sum
    + ((lookupKey e.heads ch).getD []).length

/-- A channel with its tokens put back: they wait at the source, and count against its quota with those at the receiver
(R330). What a far receiver had not passed on stays out, by quota. -/
def restoreChan (clk : Nat) (g : Region) (ts : List Token) (c : Chan) (old : Option Chan) : Chan × List Token :=
  let mine := ts.filter fun t => t.hdr.chan == c.num
  let here := match c.dst with | .elem k => residentOf (nth g.elems k {}) c.num | _ => 0
  let n := match c.src with | .link _ => c.quota - here | _ => mine.length
  let c := (mine.take n).foldl (fun c t => launchTok clk c t) c
  ({ c with outstanding := here + min n mine.length, reserved := (old.map fun o => o.reserved).getD 0,
            eosDone := (old.map fun o => o.eosDone).getD false }, mine.drop n)

/-- The broadcasts that send the oldest live iterations again from the homes (R378). -/
def resendOldest (g : Region) : List BcastFlight :=
  g.bodies.flatMap fun b => b.insts.zipIdx.flatMap fun i =>
    if i.1.st = 1 && i.1.oldest != 0 then
      (List.range g.elems.length).map fun e => { dst := e, body := b.desc.num, inst := i.2, free := false, oldest := i.1.oldest }
    else []

/-- The block and the carve of each element, cut from their sections. -/
def cutElems : List Elem → Nat → Nat → List (Nat × List (Nat × Nat))
  | [], _, _ => []
  | e :: r, x, c =>
    let us := carveList e
    (x % 2 ^ (8 * elemBlock e), us.zipIdx.map fun u => (u.1, byteRange c (4096 * u.2) 4096))
      :: cutElems r (x >>> (8 * elemBlock e)) (c >>> (8 * 4096 * us.length))

/-- What a save area must show beside a passing image (R379): magic, version, a state that Table 19.1 has a restore enter, image,
shape, and the sections' offsets. -/
def areaAgrees (s : State) (g : Region) (img : Image) (h : Nat) : Bool :=
  byteRange h 0 8 == 0x5641534F4C494F4E && byteRange h 8 2 == 1 && [2, 3, 5].contains (byteRange h 0x0A 1) && byteRange h 0x10 8 == g.imgAddr
    && byteRange h 0x20 2 == img.regw && byteRange h 0x22 2 == img.regh
    && byteRange h 0x40 8 == (saveOffsets s g).1 && byteRange h 0x48 8 == (saveOffsets s g).2.1
    && byteRange h 0x50 8 == (saveOffsets s g).2.2.1 && byteRange h 0x58 8 == (saveOffsets s g).2.2.2.1
    && byteRange h 0x58 8 ≤ byteRange h 0x18 8 && (byteRange h 0x18 8 - byteRange h 0x58 8) % 128 == 0

/-- A failed restore (R379): the region stays SAVED, LOAD clears, KS_RCAUSE tells. -/
def restoreFailed (s : State) (r : Rgn) (c : Nat) : State :=
  let g := getRegion s r
  postRegion (freeInfusers (setRegion s r { g with load := false, job := none, copy := {}, rcause := c }) r) r.part r.handle

/-- The region configured for the saved pour and footprint, before its state is written. -/
def restoreBase (g : Region) (place : Nat) (q : Passed) (h clk : Nat) : Region :=
  let foot := byteRange h 0x0B 1
  let pour := byteRange h 0x24 2
  let c := configure { g with place := place, img := q.img, chBase := q.base, rots := q.rots, foot := foot, pour := pour, elems := [],
                              origin := byteRange h 0x26 2, launch := byteRange h 0x0C 4, launchClk := clk - byteRange h 0x28 8 } []
  { c with frontier := byteRange h 0x30 4, wraps := g.wraps, digest := { state := byteRange h 0x80 200, absorbed := byteRange h 0x148 8 },
           digq := g.digq, stopW0 := byteRange h 0x60 8, eosLeft := g.eosLeft, eosInj := g.eosInj.map fun ch => q.base + regChan g ch,
           pass := none, stopAt := g.stopAt, fltlost := 0,
           faultq := (List.range (min 32 (byteRange h 0x38 2))).map fun i => byteRange h (0x800 + 64 * i) 64 }

/-- The saved state written into the configured region, with the tokens left to far receivers by channel. -/
def restoreState (old c : Region) (body elems carve chans : Nat) (h clk : Nat) : Region × List (Nat × List Token) :=
  let n := (curVariant c).elems.length
  let cut := cutElems (c.elems.take n) elems carve
  let c := { c with bodies := restoreBodies c.bodies body }
  let one (q : Elem × Nat) : Elem :=
    let o := (sameElem old q.1.kind q.1.x q.1.y).getD {}
    match cut[q.2]? with
    | some x => restoreElem clk c old q.1 o x.1 x.2
    | none => { q.1 with gauges := o.gauges }
  let c := { c with elems := c.elems.zipIdx.map one }
  let ts := restoreToks c.chBase (byteRange h 0x34 4) chans
  let cs := c.chans.map fun x => restoreChan clk c ts x (old.chans.find? fun y => regChan old y.num == regChan c x.num)
  ({ c with chans := cs.map fun (x : Chan × List Token) => x.1, bcasts := resendOldest c }, (cs.filter fun (x : Chan × List Token) => x.2 != []).map fun (x : Chan × List Token) => (x.1.num, x.2))

/-- The tokens of far receivers go back to their lane groups. -/
def refillRx (s : State) (g : Region) (l : List (Nat × List Token)) : State :=
  { s with lanes := s.lanes.zipIdx.map fun q =>
      match g.chans.find? fun (c : Chan) => c.src == .link q.2 with
      | some c => { q.1 with rxq := (lookupKey l c.num).getD q.1.rxq }
      | none => q.1 }

/-- The step RESTORE_COMPLETE (R247, R379): the checks of R361 again, the area's own, then the saved state. -/
def restoreComplete (s : State) (r : Rgn) (place area : Nat) : State :=
  let g := getRegion s r
  match infuse s r g.imgAddr place with
  | .error f => restoreFailed s r (refusedCause s r.part place f)
  | .ok q =>
    match vreadLong s r.part 80 area 0x1000 with
    | .error e => restoreFailed s r (rcauseRgn e 0 0)
    | .ok h =>
      let c := restoreBase g place q h s.clk
      if !areaAgrees s c q.img h then restoreFailed s r (rcauseRgn 0x03 0 0)
      else
        let rd (a b : Nat) : Except Nat Nat :=
          let o := byteRange h a 8
          let n := byteRange h b 8 - o
          vreadLong s r.part (n / 64 + 2) (area + o) n
        match rd 0x40 0x48, rd 0x48 0x50, rd 0x50 0x58, rd 0x58 0x18 with
        | .ok bo, .ok el, .ok ca, .ok ch =>
          let s := logVreadLong s r.part 0 (byteRange h 0x18 8 / 64 + 2) area (byteRange h 0x18 8)
          let z := restoreState g c bo el ca ch h s.clk
          let st := byteRange h 0x0A 1
          let w := if st = 5 then z.1 else resume z.1 false s.clk
          let s := freeInfusers (refillRx s z.1 z.2) r
          let s := enterState s r { w with load := false, job := none, copy := {}, idleBase := s.clk, cutp := false } st
          if st = 5 then s else meetLost (meetCtrl s r) r
        | _, _, _, _ => restoreFailed s r (rcauseRgn 0x10 0 0)

/-- The step RESTORE_COMPLETE. -/
def execEvRestoreComplete (r : Rgn) (s : State) : Host.Outcome State Fault Refusal :=
  match (getRegion s r).job with
  | some (.restore place area) => if !(getRegion s r).copy.done then .next s else .next (restoreComplete s r place area)
  | _ => .next s

end Sys2Proof.Machine
end

