-- ==== Sys2Proof/Machine/Scheduler.lean ====
section
/-! DEFINITION. The hardware scheduler of a partition: the dispatch table, completion gauges, placement, pre-emption, aborts,
the journal (spec/19: R371 to R377, R380 to R382; spec/23: R420). -/

namespace Sys2Proof.Machine

/-- The address of dispatch entry n (R371). -/
def entVa (n : Nat) : Nat := 0x100000 + 128 * n

/-- The sixteen words of a dispatch entry; `none` while its page cannot be read. -/
def readEnt (s : State) (p n : Nat) : Option (List Nat) :=
  match vread s p (entVa n) 64, vread s p (entVa n + 64) 64 with
  | .ok a, .ok b => some (lanes 64 8 a ++ lanes 64 8 b)
  | _, _ => none

/-- A word of an entry. -/
def word (w : List Nat) (k : Nat) : Nat := nth w k 0

/-- Fields of an entry (Table 19.2). -/
def entState (w : List Nat) : Nat := bits (word w 0) 63 56
def entPrio (w : List Nat) : Nat := bits (word w 0) 55 48
def entAbort (w : List Nat) : Bool := bit (word w 0) 47
def entNopre (w : List Nat) : Bool := bit (word w 0) 43
def entKeep (w : List Nat) : Bool := bit (word w 0) 42
def entHold (w : List Nat) : Bool := bit (word w 0) 41
def entEarly (w : List Nat) : Bool := bit (word w 0) 40
def entRh (w : List Nat) : Nat := bits (word w 0) 37 32
def entLaunch (w : List Nat) : Nat := bits (word w 0) 31 0

/-- The region of an entry. -/
def entRgn (p : Nat) (w : List Nat) : Rgn := ⟨p, entRh w⟩

/-- The scheduler writes a word of an entry. -/
def setEnt (s : State) (p n k v : Nat) : State := vwriteD s p (entVa n + 8 * k) 8 v

/-- STATE changed by a read-modify-write of E0 (R371). -/
def putState (s : State) (p n st : Nat) : State :=
  match vread s p (entVa n) 8 with
  | .ok v => setEnt s p n 0 (setBits v 63 56 st)
  | .error _ => s

/-- STATUS, CAUSE and PLACED written where they are given (E9). -/
def putNine (s : State) (p n status cause : Nat) (placed : Option Nat) : State :=
  match vread s p (entVa n + 72) 8 with
  | .ok v =>
    let v := setBits (setBits v 39 32 status) 47 40 cause
    setEnt s p n 9 (match placed with | some x => setBits v 27 0 x | none => v)
  | .error _ => s

/-- Every field that Table 19.2 reserves is 0 (R371). -/
def entClean (w : List Nat) : Bool :=
  bits (word w 0) 46 44 == 0 && bits (word w 0) 39 38 == 0 && bits (word w 1) 63 56 == 0 && bits (word w 2) 63 28 == 0
    && bits (word w 2) 5 0 == 0 && bits (word w 3) 63 56 == 0 && bits (word w 4) 63 56 == 0 && bits (word w 6) 63 56 == 0
    && bits (word w 7) 63 56 == 0 && bits (word w 8) 27 20 == 0 && bits (word w 9) 63 48 == 0 && bits (word w 9) 31 28 == 0
    && word w 12 == 0 && word w 13 == 0 && word w 14 == 0 && word w 15 == 0

/-- The judgement of an entry as it leaves PENDING (R371): RANGE (4), BADSTATE (2), or 0. -/
def judgeEnt (s : State) (p : Nat) (w : List Nat) : Nat :=
  if !entClean w || entLaunch w == 0 || word w 1 % 4096 != 0 || word w 7 % 4096 != 0 || word w 3 % 16 != 0 || word w 4 % 16 != 0
      || word w 6 % 16 != 0 then 4
  else if (getRegion s (entRgn p w)).st ≠ 0 then 2
  else 0

/-- What a dependence says (R372): none, waiting, met, failed, or an unreadable gauge with its cause. -/
inductive Dep where
  | waiting
  | met
  | failed
  | unreadable (cause : Nat)
  deriving DecidableEq, Repr

/-- One dependence: its gauge and the generation it waits for. -/
def depOf (s : State) (p gauge gen : Nat) : Dep :=
  if gauge = 0 then .met
  else match vread s p gauge 8 with
    | .error c => .unreadable c
    | .ok v =>
      if (bits v 31 0 + 2 ^ 32 - gen) % 2 ^ 32 < 2 ^ 31 then (if bits v 39 32 = 0 then .met else .failed) else .waiting

/-- Both dependences of an entry. -/
def depsOf (s : State) (p : Nat) (w : List Nat) : Dep × Dep :=
  (depOf s p (word w 3) (bits (word w 5) 31 0), depOf s p (word w 4) (bits (word w 5) 63 32))

def Dep.cause : Dep → Option Nat
  | .unreadable c => some c
  | _ => none

/-- PRED has sent SIG, or is done (R206, R376). -/
def signalSent (s : State) (p : Nat) (w : List Nat) : Bool :=
  match launchOf s p (bits (word w 8) 63 32) with
  | none => false
  | some x => x.st == 1 || (x.st == 0 && (let g := getRegion s ⟨p, x.handle⟩; g.launch == x.id && bit g.signals (bits (word w 8) 31 28)))

/-- A journal record of the scheduler (Table 23.3): KIND, ENTRY, LAUNCH; its DIGEST is a free value. -/
def journal (s : State) (p n kind launch : Nat) : State :=
  let d := (Config.journalDigest s.fresh).toNat
  (almTake { s with fresh := s.fresh + 1 } p (kind % 256 + n % 512 * 2 ^ 87 + launch % 2 ^ 32 * 2 ^ 96 + d * 2 ^ 128)).1

/-- COMPLETION_GAUGE_WRITE (R372): LAUNCH, then STATUS and GEN + 1 with a release at `.sys`. -/
def writeGauge (s : State) (p gauge status launch : Nat) : State :=
  if gauge = 0 then s
  else
    let s := drainHost (drainHost (vwriteD s p (gauge + 8) 8 launch) 0) 1
    match vread s p gauge 8 with
    | .ok v => vwriteD s p gauge 8 (status % 256 * 2 ^ 32 + (bits v 31 0 + 1) % 2 ^ 32)
    | .error _ => s

/-- What the scheduler keeps of an entry beside its words is dropped. -/
def forget (s : State) (p n : Nat) : State :=
  modPart s p fun q => { q with noticed := q.noticed.filter (· ≠ n), grace := q.grace.filter (·.1 ≠ n),
                                graceFor := q.graceFor.filter (·.1 ≠ n), expired := q.expired.filter (· ≠ n),
                                evicting := q.evicting.filter (· ≠ n) }

/-- An entry ends (R372 to R374, R382): STATE 7 DONE, 8 ABORTED, 9 REFUSED; TEND; the journal; DONEG. -/
def endEnt (s : State) (p n : Nat) (w : List Nat) (st : Nat) : State :=
  let s := setEnt (putState s p n st) p n 11 s.ns
  let s := if st = 7 then journal s p n 3 (entLaunch w) else if st = 8 then journal s p n 4 (entLaunch w) else s
  forget (writeGauge s p (word w 6) (st - 7) (entLaunch w)) p n

/-- A refused entry (R373). -/
def refuseEnt (s : State) (p n : Nat) (w : List Nat) (status cause : Nat) : State :=
  endEnt (putNine s p n status cause none) p n w 9

/-- What automatic placement finds: a placement word, none that is free, or an image header that cannot be used, with its
cause (R375). -/
inductive Auto where
  | at_ (place : Nat)
  | none
  | bad (cause : Nat)
  deriving DecidableEq, Repr

/-- The placements of a shape in the order of R375: die, Y0, X0; of a multi-die shape ascending DMASK. -/
def placements (w h : Nat) : List Nat :=
  if w ≤ 40 && h ≤ 20 then
    (List.range 8).flatMap fun d => (List.range (21 - h)).flatMap fun y => (List.range (41 - w)).map fun x =>
      x * 2 ^ 9 + y * 2 ^ 15 + d * 2 ^ 6
  else ((List.range 256).map fun m => m * 2 ^ 20).filter fun q => q != 0 && shapePlaced q w h

/-- The checks of R239 and, of an image that can be read, step 3 of R361. -/
def placeFree (s : State) (r : Rgn) (va w h : Nat) (img : Option Image) (place : Nat) : Bool :=
  !placeDenied s r (place + r.handle) w h
    && (match img with
      | some i => (match step3 s r va (place + r.handle) i with | .ok _ => true | .error _ => false)
      | none => true)

/-- Automatic placement (R375). -/
def autoPlace (s : State) (r : Rgn) (va : Nat) : Auto :=
  match vread s r.part va 64 with
  | .error c => .bad c
  | .ok x =>
    let w := byteRange x 32 2
    let h := byteRange x 34 2
    if byteRange x 0 8 ≠ 0x474D494F4C494F4E || !shapeAllowed w h then .bad 0x03
    else
      let img := match readImage s r.part va with
        | .ok b => if structOk b then some (parseImage b) else none
        | .error _ => none
      match (placements w h).find? (placeFree s r va w h img) with
      | some q => .at_ q
      | none => .none

/-- The placement that an entry's region would take now (R373, R375). -/
def entPlace (s : State) (p : Nat) (w : List Nat) : Auto :=
  if bits (word w 2) 27 0 ≠ 0 then .at_ (bits (word w 2) 27 0) else autoPlace s (entRgn p w) (word w 1)

def Auto.found : Auto → Bool
  | .at_ _ => true
  | _ => false

/-- Entry a comes before entry b: PRIO descending, then index ascending (R373). -/
def entFirst (a b : Nat × List Nat) : Bool :=
  entPrio b.2 < entPrio a.2 || (entPrio b.2 == entPrio a.2 && a.1 < b.1)

/-- Victim a comes before victim b: PRIO ascending, then TSTART descending (R380). -/
def victimFirst (a b : Nat × List Nat) : Bool :=
  entPrio a.2 < entPrio b.2 || (entPrio a.2 == entPrio b.2 && word b.2 10 < word a.2 10)

/-- The first of a list by an order. -/
def foremost (f : Nat × List Nat → Nat × List Nat → Bool) : List (Nat × List Nat) → Option (Nat × List Nat)
  | [] => none
  | x :: r => match foremost f r with | none => some x | some y => some (if f x y then x else y)

/-- The entries that the scheduler knows of, with their words (R371). -/
def knownEnts (s : State) (p : Nat) : List (Nat × List Nat) :=
  (getPart s p).noticed.filterMap fun n => (readEnt s p n).map fun w => (n, w)

/-- The smallest footprint that a running region can shrink to (R377, R380). -/
def shrinkTo (g : Region) : Option Nat :=
  if !(g.st == 2 || g.st == 3) || regionBusy g then none
  else ([2, 1].filter fun f => g.foot < f && shrinkOk g f).head?

/-- A victim is evicted, or, where its SAVE is 0, passed over (R380). -/
def evictEnt (s : State) (p : Nat) (v : Nat × List Nat) : Option State :=
  let r := entRgn p v.2
  let g := getRegion s r
  if word v.2 7 = 0 || !(g.st == 2 || g.st == 3) || regionBusy g then none
  else
    let s := busy (beginCut (setRegion s r { g with job := some (.evict (word v.2 7)) }) r) r
    some (putNine (modPart s p fun q => { q with evicting := v.1 :: q.evicting }) p v.1 0 0 none)

/-- A victim's shrink for entry n has taken effect: its GRACE mark is left from this pass over the victims. -/
def shrunk (s : State) (p n : Nat) (v : Nat × List Nat) : Bool :=
  ((getPart s p).grace.any (fun x => x.1 == v.1) || (getPart s p).expired.contains v.1)
    && lookupKey (getPart s p).graceFor v.1 == some n && !(getRegion s (entRgn p v.2)).shrp

/-- The marks of some victims are dropped. -/
def unmark (s : State) (p : Nat) (done : List Nat) : State :=
  modPart s p fun q => { q with grace := q.grace.filter fun x => !done.contains x.1, expired := q.expired.filter fun x => !done.contains x,
                                graceFor := q.graceFor.filter fun x => !done.contains x.1 }

/-- Entry n waits to be placed. -/
def stillWaits (s : State) (p n : Nat) : Bool := match readEnt s p n with | some w => entState w == 2 | none => false

/-- The victims whose shrink was meant for an entry that waits no longer: it is placed, or has ended (R380). -/
def staleMarks (s : State) (p : Nat) : List Nat :=
  ((getPart s p).graceFor.filter fun x => !stillWaits s p x.2).map fun x => x.1

/-- A pass over the victims has ended (R380): the next one takes up again the victims that have shrunk. -/
def endPass (s : State) (p n : Nat) (all : List (Nat × List Nat)) : Option State :=
  let done := (all.filter (shrunk s p n)).map fun v => v.1
  if done = [] then none else some (unmark s p done)

/-- PREEMPT for entry n (R380): victims in their order, each shrunk or evicted, one at a time; `none` where nothing can be done
now: a victim's GRACE runs, its eviction is under way, or its region's controller is BUSY. `fuel` bounds the victims; `all` are
the victims of the pass. -/
def preempt (p n : Nat) (all : List (Nat × List Nat)) : Nat → State → List (Nat × List Nat) → Option State
  | 0, _, _ => none
  | fuel + 1, s, vs =>
    match foremost victimFirst vs with
    | none => endPass s p n all
    | some v =>
      let q := getPart s p
      let g := getRegion s (entRgn p v.2)
      let rest := vs.filter fun x => x.1 != v.1
      if q.evicting.contains v.1 || regionBusy g then none
      else if shrunk s p n v then preempt p n all fuel s rest
      else if q.grace.any fun x => x.1 == v.1 then none
      else if q.expired.contains v.1 then (match evictEnt s p v with | some t => some t | none => preempt p n all fuel s rest)
      else match shrinkTo g with
        | some f =>
          let s := busy (setRegion s (entRgn p v.2) { g with shrp := true, shrink := f }) (entRgn p v.2)
          some (putNine (modPart s p fun q => { q with grace := (v.1, s.ns + bits (word v.2 8) 19 0 * 1000) :: q.grace,
                                                        graceFor := putKey q.graceFor v.1 n, expired := q.expired.filter (· ≠ v.1) }) p v.1 0 0 none)
        | none => match evictEnt s p v with | some t => some t | none => preempt p n all fuel s rest

/-- The victims of an entry (R380): RUNNING, of lower PRIO, not NOPRE. -/
def victimsOf (s : State) (p : Nat) (w : List Nat) : List (Nat × List Nat) :=
  (knownEnts s p).filter fun x => entState x.2 == 5 && entPrio x.2 < entPrio w && !entNopre x.2

/-- The scheduler's `iload` (R373): the entry is LOADING, or refused, or, with BUSY, as it was. -/
def loadEnt (s : State) (p n : Nat) (w : List Nat) (place : Nat) : Option State :=
  let q := iload s (entRgn p w) (word w 1) (place + entRh w)
  if q.1 = 0 then some (putNine (putState q.2 p n 3) p n 0 0 (some (place + entRh w)))
  else if q.1 = 1 then none
  else some (refuseEnt s p n w q.1 0)

/-- A WAITING entry (R373, R376, R380, R382). An EARLY entry whose dependences are met is placed too, as the steps of R373 say;
R376 names the signal alone (DEDUCED, log entry 35). -/
def waitingEnt (s : State) (p n : Nat) (w : List Nat) : Option State :=
  let d := depsOf s p w
  match (d.1.cause <|> d.2.cause) with
  | some c => some (refuseEnt s p n w 4 c)
  | none =>
    if d.1 = .failed || d.2 = .failed || entAbort w then some (endEnt s p n w 8)
    else if (d.1 = .met && d.2 = .met) || (entEarly w && signalSent s p w) then
      match entPlace s p w with
      | .at_ q => loadEnt s p n w q
      | .bad c => some (refuseEnt s p n w 4 c)
      | .none =>
        let vs := victimsOf s p w
        let t := unmark s p (staleMarks s p)
        preempt p n vs 512 t vs
    else none

/-- ABORT_ENTRY on an entry that has left WAITING (R382): a stop, then `arm.off`. -/
def abortEnt (s : State) (p n : Nat) (w : List Nat) : Option State :=
  let r := entRgn p w
  let g := getRegion s r
  if regionBusy g then none
  else if g.st = 2 || g.st = 3 then (if g.stopping then none else some (putNine (busy (beginCut s r) r) p n 0 0 none))
  else if g.st = 0 then some (endEnt s p n w 8)
  else some (endEnt (putNine (armOff s r) p n 0 0 none) p n w 8)

/-- An EARLY entry's dependence has failed (R376, R382). -/
def earlyFailed (s : State) (p : Nat) (w : List Nat) : Bool :=
  entEarly w && ((depsOf s p w).1 == .failed || (depsOf s p w).2 == .failed)

/-- The fault of a gauge that an EARLY entry past WAITING depends on and that cannot be read (R372). -/
def earlyUnread (s : State) (p : Nat) (w : List Nat) : Option Nat :=
  if entEarly w then (depsOf s p w).1.cause <|> (depsOf s p w).2.cause else none

/-- A region has been seen RUNNING (R373): TSTART is now. -/
def startedEnt (s : State) (p n : Nat) (w : List Nat) : State :=
  journal (setEnt (putState s p n 5) p n 10 s.ns) p n 2 (entLaunch w)

/-- A LOADING or ARMED entry (R373, R374): refused where the load failed, aborted where another agent freed the region. -/
def loadingEnt (s : State) (p n : Nat) (w : List Nat) : Option State :=
  let r := entRgn p w
  let g := getRegion s r
  if 2 ≤ g.st && g.st ≤ 5 then some (startedEnt s p n w)
  else if g.st = 1 && entState w = 3 then
    if entHold w then some (putState s p n 4)
    else if regionBusy g then none
    else some (putNine (busy (launchRegion s r g (entLaunch w)) r) p n 0 0 none)
  else if g.st = 0 && !g.load then
    (if entState w = 3 && g.failed then some (refuseEnt s p n w 0 (g.rcause % 256)) else some (endEnt s p n w 8))
  else none

/-- A RUNNING entry (R374, R380): its eviction is complete, or its region has been freed by another agent. -/
def runningEnt (s : State) (p n : Nat) (w : List Nat) : Option State :=
  let g := getRegion s (entRgn p w)
  if g.st = 0 && !g.load then some (endEnt s p n w 8)
  else if g.st = 6 && (getPart s p).evicting.contains n then
    let s := unmark (modPart s p fun q => { q with evicting := q.evicting.filter (· ≠ n) }) p [n]
    some (journal (putState s p n 6) p n 5 (entLaunch w))
  else none

/-- The placement of a SAVED region (R375, R380). -/
def savedPlace (s : State) (p : Nat) (w : List Nat) (g : Region) : Option Nat :=
  if bits (word w 2) 27 0 ≠ 0 then some (bits (word w 2) 27 0)
  else (placements g.img.regw g.img.regh).find? (placeFree s (entRgn p w) g.imgAddr g.img.regw g.img.regh (some g.img))

/-- A WAITING entry of higher PRIO that could be placed now, had its Infuser or its controller not been busy (R380). -/
def outranked (s : State) (p : Nat) (w : List Nat) : Bool :=
  (knownEnts s p).any fun x => entState x.2 == 2 && entPrio w < entPrio x.2
    && (depsOf s p x.2 == (.met, .met) || (entEarly x.2 && signalSent s p x.2)) && (entPlace s p x.2).found

/-- A SAVED entry (R379, R380): restored where it can be placed and no WAITING entry of higher PRIO can; RUNNING once its region
goes on. A refused `rrestore` leaves its status in E9 once (R371), a BUSY one nothing (R373). -/
def savedEnt (s : State) (p n : Nat) (w : List Nat) : Option State :=
  let g := getRegion s (entRgn p w)
  if g.st = 0 && !g.load then some (endEnt s p n w 8)
  else if 2 ≤ g.st && g.st ≤ 5 then some (putState s p n 5)
  else if outranked s p w then none
  else match savedPlace s p w g with
    | none => none
    | some q =>
      let x := rrestore s (entRgn p w) (word w 7) (q + entRh w)
      if x.1 = 0 then some (putNine x.2 p n 0 0 (some (q + entRh w)))
      else if x.1 = 1 || bits (word w 9) 39 32 = x.1 then none
      else some (putNine s p n x.1 0 none)

/-- An entry past WAITING (R372, R376, R382): an unreadable gauge of an EARLY entry refuses it, an abort request or a failed
dependence of an EARLY entry aborts it; an abort request has no effect once its region is DONE, a failed dependence has (R402).
Else it goes on. -/
def pastEnt (s : State) (p n : Nat) (w : List Nat) (go : Option State) : Option State :=
  match earlyUnread s p w with
  | some c => some (refuseEnt s p n w 4 c)
  | none => if (entAbort w && (getRegion s (entRgn p w)).st != 4) || earlyFailed s p w then abortEnt s p n w else go

/-- The action that an entry has open, done (R373); `none` where it has none. -/
def actEnt (s : State) (p n : Nat) (w : List Nat) : Option State :=
  match entState w with
  | 1 =>
    let c := judgeEnt s p w
    if c ≠ 0 then some (refuseEnt s p n w c 0)
    else
      let s := putState s p n 2
      some ((waitingEnt s p n w).getD s)
  | 2 => waitingEnt s p n w
  | 3 => pastEnt s p n w (loadingEnt s p n w)
  | 4 => pastEnt s p n w (loadingEnt s p n w)
  | 5 => pastEnt s p n w (runningEnt s p n w)
  | 6 => pastEnt s p n w (savedEnt s p n w)
  | _ => none

/-- The first entry in order that has an action open acts (R373). `fuel` bounds the entries. -/
def actFirst (s : State) (p : Nat) : Nat → List (Nat × List Nat) → State
  | 0, _ => s
  | fuel + 1, l =>
    match foremost entFirst l with
    | none => s
    | some x => match actEnt s p x.1 x.2 with
      | some t => t
      | none => actFirst s p fuel (l.filter fun y => y.1 != x.1)

/-- The step DISPATCH_ENTRY_NOTICE (R371): the scheduler notices entry e; entry 0 is never dispatched. -/
def execEvDispatchEntryNotice (p e : Nat) (s : State) : Host.Outcome State Fault Refusal :=
  if 1 ≤ e && e < 512 && (readEnt s p e).isSome && !(getPart s p).noticed.contains e then
    .next (modPart s p fun q => { q with noticed := e :: q.noticed })
  else .next s

/-- What the scheduler's reads of its entries and of their gauges report to the error log (R407). -/
def logEnts (s : State) (p : Nat) : State :=
  if s.badLines == [] && s.softLines == [] then s
  else ((getPart s p).noticed.flatMap fun n => [entVa n, entVa n + 64] ++ ((readEnt s p n).map fun w =>
    (if entState w = 2 || entEarly w then [word w 3, word w 4].filter (· ≠ 0) else [])
      ++ (if entState w = 2 && bits (word w 2) 27 0 = 0 then [word w 1] else [])).getD []).foldl (fun t va => logVread t p 0 va) s

/-- The step SCHEDULER_STEP (R373). -/
def execEvSchedulerStep (p : Nat) (s : State) : Host.Outcome State Fault Refusal :=
  .next (if (getPart s p).inReset then s else actFirst (logEnts s p) p 512 (knownEnts s p))

/-- The step GRACE_EXPIRE (R380): a victim whose shrink has not taken effect is evicted, or passed over, where the entry for
which it was to shrink still waits. -/
def execEvGraceExpire (p e : Nat) (s : State) : Host.Outcome State Fault Refusal :=
  match (getPart s p).grace.find? fun x => x.1 == e, readEnt s p e with
  | some x, some w =>
    if s.ns < x.2 || !(getRegion s (entRgn p w)).shrp then .next s
    else if (staleMarks s p).contains e then .next (unmark s p [e])
    else
      let s := modPart s p fun q => { q with grace := q.grace.filter (·.1 ≠ e), expired := e :: q.expired.filter (· ≠ e) }
      .next ((evictEnt s p (e, w)).getD s)
  | _, _ => .next s

/-- The step ENTRY_DONE (R374): a RUNNING entry whose region is DONE; the journal, then DONEG, then `arm.off` unless KEEP. An
EARLY entry whose dependence has failed ends ABORTED (R382, R402). -/
def execEvEntryDone (p e : Nat) (s : State) : Host.Outcome State Fault Refusal :=
  match (if (getPart s p).noticed.contains e then readEnt s p e else none) with
  | none => .next s
  | some w =>
    let r := entRgn p w
    let g := getRegion s r
    if entState w ≠ 5 || g.st ≠ 4 || regionBusy g then .next s
    else if earlyFailed s p w then .next ((abortEnt s p e w).getD s)
    else
      let s := endEnt s p e w 7
      .next (if entKeep w then s else putNine (armOff s r) p e 0 0 none)

/-- The step ALMANAC_HEAD_ADVANCE (R420): the head passes its record once that is performed, in sequence order. -/
def execEvAlmanacHeadAdvance (p : Nat) (s : State) : Host.Outcome State Fault Refusal :=
  match (getPart s p).almq with
  | x :: r => .next (if x.2 then modPart s p fun q => { q with almseq := (x.1 + 1) % 2 ^ 64, almq := r } else s)
  | [] => .next s

end Sys2Proof.Machine
end

