-- ==== Sys2Proof/Machine/Sequencer.lean ====
section
/-! DEFINITION. The sequencer of a sequenced pour (spec/12: R292, R293, R295, R296). -/

namespace Sys2Proof.Machine

/-- The blocks of numbers of two requests overlap (R295). -/
def blocksMeet (x y : Access) : Bool :=
  let within (n : Nat) (z : Access) : Bool := (n + 2 ^ 24 - z.seqo) % 2 ^ 24 < (z.seqs + 2 ^ 24 - z.seqo) % 2 ^ 24
  within x.seqo y || within y.seqo x

/-- A request that reaches the sequencer finds a number of its block passed, or taken by a request that has reached it
(R295). -/
def seqTaken (g : Region) (a : Access) : Bool :=
  seqBefore a.seqo g.frontier
    || g.elems.any fun (e : Elem) => e.port.accs.any fun x => x.seq && x.id != a.id && x.atSeq && !x.ordered && blocksMeet x a

/-- F moves to a number at or above it; `wraps` counts its passes through 2^24. -/
def moveFrontier (g : Region) (f : Nat) : Region := { g with frontier := f, wraps := if f < g.frontier then g.wraps + 1 else g.wraps }

/-- The step SEQUENCER_ORDER (R293, R295): the request of access n at element e of a sequenced pour reaches the sequencer, or
meets DUPLICATE_TOKEN there; it is ordered when its bytes are known and its number is the frontier's, one request in a clk. -/
def sequencerOrder (s : State) (l : Loc) (n : Nat) : State :=
  let r := rgnOf l
  let g := getRegion s r
  match getAccess s l n with
  | none => s
  | some a =>
    if !(portRuns g && a.seq && a.reaches && !a.ordered) then s
    else if !a.atSeq && seqTaken g a then
      meetStop s l { cause := 0x20, tag := a.tag, slot := a.slot, addr := a.seqo } a.id
    else if a.known && a.seqo = g.frontier && g.seqClk ≠ some s.clk then
      let clk := s.clk
      let s := modRegion s r fun g =>
        { moveFrontier g a.seqs with
          seqClk := some clk
          digq := if g.digq.any fun (d : DigRec) => d.seqo == a.seqo then g.digq else g.digq ++ [{ seqo := a.seqo }] }
      retireAll (putAccess s l n { a with atSeq := true, ordered := true }) r
    else putAccess s l n { a with atSeq := true }

/-- The step SEQUENCER_ORDER. -/
def execEvSequencerOrder (l : Loc) (n : Nat) (s : State) : Host.Outcome State Fault Refusal := .next (sequencerOrder s l n)

/-- An access slot of the pour may still take a number, counted without wrap: its rank block covers the number's rank and its
EOS has not left (R291, R295). -/
def slotCovers (g : Region) (num : Nat) : Bool :=
  let nr := (curVariant g).nr
  g.elems.zipIdx.any fun q => (List.range 32).any fun sl =>
    let rk := nth q.1.cfg.ranks sl (0, 0)
    rk.2 ≠ 0 && nr ≠ 0 && rk.1 ≤ num % nr && num % nr < rk.1 + rk.2 && !g.eosLeft.contains (q.2, sl)

/-- The next number from `num` on that some slot may still take, within `fuel` numbers; where no slot is left, F moves past
them all and rests there (R295). -/
def nextTaken (g : Region) : Nat → Nat → Nat
  | 0, num => num
  | fuel + 1, num => if slotCovers g num then num else nextTaken g fuel (num + 1)

/-- F without wrap: the number that it would be if numbers had no bound (R292). -/
def fullFrontier (g : Region) : Nat := g.wraps * 2 ^ 24 + g.frontier

/-- The step FRONTIER_PASS (R295): F passes numbers that every slot whose block covers them can no longer take. -/
def execEvFrontierPass (r : Rgn) (s : State) : Host.Outcome State Fault Refusal :=
  let g := getRegion s r
  let f := fullFrontier g
  if polSeq g && portRuns g && !slotCovers g f
      && !(g.elems.any fun (e : Elem) => e.port.accs.any fun a => a.seq && !a.ordered && a.seqo == g.frontier) then
    let n := nextTaken g (curVariant g).nr f
    .next (retireAll (setRegion s r { g with frontier := n % 2 ^ 24, wraps := n / 2 ^ 24 }) r)
  else .next s

end Sys2Proof.Machine
end

