-- ==== Sys2Proof/Machine/Stops.lean ====
section
/-! DEFINITION. The stop broadcast, the complete cut and the Doldrums monitor (spec/14: R328 to R330, R332, R333; spec/10:
R265 to R268; spec/09: R242). -/

namespace Sys2Proof.Machine

/-- A page that an access still waits for lies behind a lane group that is lost (R323). -/
def farLost (s : State) (r : Rgn) (va : Nat) : Bool :=
  match rmemOf (getRegion s r) va with
  | none => false
  | some q => (match bindLane s r.part r.handle q.1 with | none => true | some g => (getLane s g).lost || !(getLane s g).up)

/-- The lane group on which a remote piece's request stands is lost. -/
def pieceLost (s : State) (r : Rgn) (p : Piece) : Bool := match p.els with | [] => false | e :: _ => farLost s r e.2

/-- An access that its port can still take a step of: until none is left, the cut is not complete (R329, R332). A
completion that only waits for its time counts as such; a `pwait` that waits is held at the port (R330). -/
def accessMoves (s : State) (l : Loc) (n : Nat) (a : Access) : Bool :=
  let r := rgnOf l
  let g := getRegion s r
  let e := getElem s l
  if a.op = 0xC4 && !a.eos then false
  else if !a.begun then a.held.isNone && mayBegin g e n a
  else if a.seq && a.reaches && !a.ordered && (a.known || a.seqo != g.frontier) then !a.atSeq || a.seqo == g.frontier
  else if a.performed then !creditsDone a || mayComplete s e n { a with notBefore := 0 }
  else
    (a.held.isNone && !a.opened && a.pieces.all (·.done))
      || (match a.pieces[a.xl]? with | some p => a.held.isNone && !pieceLost s r p | none => false)
      || (List.range a.xl).any fun k =>
        let p := nth a.pieces k { els := [] }
        !p.done && (if p.sent then !pieceLost s r p else mayPerform s l n a p && copyReady a p)

/-- No token of the region stands half sent or half received at a lane group, unless the group is lost (R323, R329). -/
def laneWhole (r : Rgn) (l : Lane) : Bool :=
  match l.bind with
  | some b => b.1 != r.part || b.2.1 != r.handle || l.lost || !l.up || (l.rx.isNone && !l.midUnit)
  | none => true

/-- Every condition of a complete cut (R329): no issued firing, every token whole in one place, every message and
acknowledgement arrived, every access performed or held. -/
def cutDone (s : State) (r : Rgn) : Bool :=
  let g := getRegion s r
  (match g.bcastClk with | some b => b + 64 ≤ s.clk | none => false)
    && (g.elems.all fun e => e.pending == [])
    && (g.chans.all fun c => c.acks == [] && c.flights.all fun f => f.sent == 0)
    && s.lanes.all (laneWhole r)
    && g.msgs == [] && g.bcasts == [] && g.frees == []
    && (List.range g.elems.length).all fun k =>
      let l : Loc := ⟨r.part, r.handle, k⟩
      (getElem s l).port.accs.zipIdx.all fun q => !accessMoves s l q.2 q.1

/-- The step STOP_BROADCAST (R328): the controller broadcasts the stop in the clk after a cause was met. -/
def stopBroadcast (s : State) (r : Rgn) : State :=
  let g := getRegion s r
  if g.stopping && g.bcastClk.isNone && running g then setRegion s r { g with bcastClk := some s.clk, cutp := true } else s

/-- The step STOP_BROADCAST. -/
def execEvStopBroadcast (r : Rgn) (s : State) : Host.Outcome State Fault Refusal := .next (stopBroadcast s r)

/-- The report area of a region (R365). -/
def reportArea (g : Region) : Nat := workArea g + 0x8000

/-- An entry of a frontier block (Table 14.3). -/
def frontEntry (e : Elem) (st : Nat) : Nat :=
  match e.port.accs.filter fun a => a.inStream && a.stream == st && !a.performed with
  | [] => 0
  | a :: r => 2 ^ 63 + (r.length + 1) % 2 ^ 24 * 2 ^ 32 + a.tag % 2 ^ 32

/-- A frontier block (R333). -/
def frontBlock (e : Elem) : Nat := packLanes 64 ((List.range 64).map (frontEntry e))

/-- The frontier blocks of a cut are written (R333). -/
def writeFronts (s : State) (r : Rgn) : State :=
  let g := getRegion s r
  let s := g.fronts.foldl (fun s q =>
    vwriteLong s r.part 9 (reportArea g + 0x10000 + 512 * (q.2 % 32)) 512 (frontBlock (getElem s ⟨r.part, r.handle, q.1⟩))) s
  modRegion s r fun g => { g with nfront := g.nfront + g.fronts.length, fronts := [] }

/-- The step CUT_COMPLETE (R242, R329): frontier blocks are written and the region is STOPPED. The cut of an `evict` leads on to
the save, with STATE kept until it is SAVED (R247, R378). -/
def cutComplete (s : State) (r : Rgn) : State :=
  if !running (getRegion s r) || !cutDone s r then s
  else
    let s := writeFronts s r
    let g := getRegion s r
    let g := { g with cutp := false, stopping := false, bcastClk := none, idleBase := s.clk }
    match g.job with
    | some (.evict area) => setRegion s r { g with job := some (.save area), resumeSt := g.st }
    | _ => postRegion (setRegion s r { g with resumeSt := g.st, st := 5 }) r.part r.handle

/-- The step CUT_COMPLETE. -/
def execEvCutComplete (r : Rgn) (s : State) : Host.Outcome State Fault Refusal := .next (cutComplete s r)

/-- An access is outstanding (R190, R267): passed to its port and not complete; a request held at the sequencer and a plain
EOS set are not. -/
def outstanding (g : Region) (a : Access) : Bool := !seqHeld g a && !(a.eos && a.op != 0x0D)

/-- A gauge of the region that an open ingress window of the partition credits (R267, R390): X, Y, SE and g of the gauge
words. -/
def creditedGauges (s : State) (r : Rgn) : List Nat :=
  (getPart s r.part).ingress.filterMap fun q =>
    if bit q.2.w0 63 && bit q.2.w2 31 && q.2.w2 % 64 = r.handle then some (bits q.2.w2 28 6) else none

/-- A gauge wait is outstanding that an open ingress window can end (R267): a `gwait` set in an element, or a core's
`gwaitk`. -/
def gaugeWaits (s : State) (r : Rgn) : Bool :=
  let ws := creditedGauges s r
  let g := getRegion s r
  ws != [] &&
    ((List.range 32).any fun k =>
      match (s.cores[k]?.bind fun c => c.wait.map fun w => (c, w)) with
      | some (c, .gwaitk _ a _ _) =>
        let v := (c.reg a).toNat
        ownsCore s r.part k && v % 64 == r.handle && ws.contains (bits v 28 6)
      | _ => false)
    || (g.elems.zipIdx.any fun q => (candidates s ⟨r.part, r.handle, q.2⟩).any fun c =>
      let wd := slotWord q.1 c.foc.slot
      (opCode wd).toNat == 0xC2
        && ws.contains (q.1.x + 2 ^ 8 * q.1.y + 2 ^ 14 * (nth q.1.consts c.foc.slot 0 % 256) + 2 ^ 22 * b2n (q.1.kind == 1)))

/-- A bound lane group of the region awaits its far BIND flit (R309). -/
def awaitsBind (s : State) (r : Rgn) : Bool :=
  s.lanes.any fun l => (match l.bind with | some b => b.1 == r.part && b.2.1 == r.handle && l.bindSeen.isNone | none => false)

/-- The Doldrums monitor fires (R267). -/
def doldrumsDue (s : State) (r : Rgn) : Bool :=
  let g := getRegion s r
  running g && !g.stopping && g.img.dlim != 0 && g.idleBase + 2 ^ g.img.dlim ≤ s.clk
    && (g.elems.all fun e => !(e.port.accs.any (outstanding g)) && e.pending == [])
    && !gaugeWaits s r && !awaitsBind s r && resids s g != []

/-- An entry of the block report (Table 10.5). -/
def blockEntry (g : Region) (rs : List Resid) (e : Elem) (reason : Nat) : Nat :=
  let o := firstResid (residKey g) rs
  (match o with | some x => x.tag % 2 ^ 32 * 2 ^ 96 + x.slot % 32 * 2 ^ 91 | none => 0)
    + rs.length % 2 ^ 16 * 2 ^ 64 + (rs.map fun x => x.pays).sum % 2 ^ 16 * 2 ^ 48 + reason % 256 * 2 ^ 32
    + b2n (e.kind == 1) * 2 ^ 31 + e.x % 256 * 2 ^ 16 + e.y % 256 * 2 ^ 8

/-- The elements of a block report, with what is resident and the reasons (R268). -/
def blocked (s : State) (r : Rgn) : List (Nat × List Resid × Nat) :=
  let g := getRegion s r
  let all := resids s g
  ((reportOrder s r).map fun n => (n, all.filter (fun x => x.at_ == some n), reasons s ⟨r.part, r.handle, n⟩)).filter
    fun q => q.2.1 != [] || q.2.2 != 0

/-- A block report (R268). -/
def blockReport (s : State) (g : Region) (bs : List (Nat × List Resid × Nat)) : Nat :=
  g.launch % 2 ^ 32 + g.pour % 2 ^ 16 * 2 ^ 32 + bs.length % 2 ^ 16 * 2 ^ 48 + stamp s g * 2 ^ 64
    + 2 ^ 128 * packLanes 128 (bs.map fun q => blockEntry g q.2.1 (nth g.elems q.1 {}) q.2.2)

/-- The step DOLDRUMS_FIRE (R267, R268): the block report is written, one record queued, and the region stops. -/
def doldrumsFire (s : State) (r : Rgn) : State :=
  if !doldrumsDue s r then s
  else
    let g := getRegion s r
    let all := blocked s r
    let bs := all.take 4095
    let cause := if all.any fun q => bit q.2.2 3 || bit q.2.2 6 then 0x31 else 0x30
    let n := 16 + 16 * bs.length
    let s := vwriteLong s r.part (n / 64 + 2) (reportArea g) n (blockReport s g bs)
    match bs with
    | q :: _ =>
      let o := firstResid (residKey g) q.2.1
      meetStop s ⟨r.part, r.handle, q.1⟩ { cause := cause, slot := (o.map fun x => x.slot).getD 0, tag := (o.map fun x => x.tag).getD 0 } g.idleBase
    | [] =>
      let o := firstResid (residKey g) (resids s g)
      meetStopRgn s r { cause := cause, tag := (o.map fun x => x.tag).getD 0, chan := (o.map fun x => x.chan).getD 0 } g.idleBase

/-- The step DOLDRUMS_FIRE. -/
def execEvDoldrumsFire (r : Rgn) (s : State) : Host.Outcome State Fault Refusal := .next (doldrumsFire s r)

end Sys2Proof.Machine
end

