-- ==== Sys2Proof/Machine/Vector.lean ====
section
/-! DEFINITION. Conversions, lane operations, the generator and reductions (spec/05: R135 to R146; spec/01: R25). -/

namespace Sys2Proof.Machine

/-- The source format of a conversion, from the operand's header (R69); under PAD, that of the other operand. A `pack` whose two
`inj` operands carry different formats reads both in that of a: nothing refuses them and the spec names no outcome (the model's
choice, log entry 64). -/
def FireIn.srcFmt (i : FireIn) : Fmt :=
  match i.a.tok, i.b.tok with
  | some t, _ => (Fmt.ofCode t.hdr.fmt).getD i.fmt
  | none, some t => (Fmt.ofCode t.hdr.fmt).getD i.fmt
  | none, none => i.fmt

/-- One converted lane (R135), in the mode of `cvt`, or in the record's for `pack` and `unpack` (class V, Table 5.3). -/
def FireIn.conv (i : FireIn) (src : Fmt) (key c : Nat) : Nat × Flags :=
  convert src i.fmt (if i.opc = 0x40 then i.mode else recRnd i.rec_) i.sat i.ftz (i.sr key) c

/-- A conversion firing: lane k's source operand and lane; every result is judged (R36). -/
def convFire (i : FireIn) (lat : Nat) (srcs : List (Nat × Nat)) : FireOut :=
  let sf := i.srcFmt
  let ins := srcs.map fun p => (p.1, p.2, (i.opd p.1).cell sf.width p.2)
  let rs := ins.zipIdx.map fun q => i.conv sf q.2 q.1.2.2
  let bad := (ins.find? fun q => badCode sf q.2.2).map fun q => [Int.ofNat q.2.1, 0, Int.ofNat q.1]
  { outs := [i.laneTok i.fmt (rs.map Prod.fst)], flags := orFlags (rs.map Prod.snd),
    nonfin := bad <|> badOut i.fmt (rs.map Prod.fst), lat := lat }

/-- `cvt` (R135). -/
def execOpCvt (w : OpWord) (s : State) : Host.Outcome State Fault Refusal :=
  .next (fireGo s w 0x40 fun i =>
    let n := if i.vec then 1024 / max i.srcFmt.width i.fmt.width else 1
    let lat := if i.vec then 2 else if i.srcFmt.isFloat || i.fmt.isFloat then 4 else 1
    convFire i lat ((List.range n).map fun k => (0, k)))

/-- Code n of a narrow code of `expand` in the source (Table 1.3). -/
def narrowCode (code n x : Nat) : Nat :=
  if code < 2 then lane 4 x n else (x >>> (24 * (n / 4) + 6 * (n % 4))) % 64

/-- The value of a narrow code (Table 1.3). -/
def narrowVal (code c : Nat) : FVal :=
  match code with
  | 0 => intToF (sval 4 c)
  | 1 => intToF c
  | 2 => decodeF layE2m3 false c
  | _ => decodeF layE3m2 false c

/-- `expand` (R136): 128 narrow codes to FP8, exactly. -/
def execOpExpand (w : OpWord) (s : State) : Host.Outcome State Fault Refusal :=
  .next (fireGo s w 0x41 fun i =>
    let x := match i.a.tok with | some t => t.payload | none => packLanes 8 (List.replicate 128 (i.a.raw % 256))
    let code := i.w.imm10 % 4
    let base := if i.w.mod = 1 then 128 else 0
    let cs := (List.range 128).map fun k =>
      (roundFp i.fmt.lay .rne false false 0 (narrowVal code (narrowCode code (base + k) x))).1
    { outs := [i.laneTok i.fmt cs], lat := 2 })

/-- `pack` (R137): a's lanes to the lower half, b's to the upper. -/
def execOpPack (w : OpWord) (s : State) : Host.Outcome State Fault Refusal :=
  .next (fireGo s w 0x42 fun i =>
    let h := vecLanes i.fmt.width / 2
    convFire i 2 (((List.range h).map fun k => (0, k)) ++ (List.range h).map fun k => (1, k)))

/-- `unpack` (R138): one half of a's lanes, widened. -/
def execOpUnpack (w : OpWord) (s : State) : Host.Outcome State Fault Refusal :=
  .next (fireGo s w 0x43 fun i =>
    let n := vecLanes i.fmt.width
    let base := if i.w.mod = 1 then n else 0
    convFire i 2 ((List.range n).map fun k => (0, base + k)))

/-- Lane k of `shuf` by its form (R139). -/
def shufLane (i : FireIn) (k : Nat) : Nat :=
  let wd := i.fmt.width
  let n := vecLanes wd
  let kk := i.w.imm10 % 128
  let a (j : Nat) := i.a.cell wd j
  let b (j : Nat) := i.b.cell wd j
  match i.w.mod.toNat with
  | 0 => if b k < n then a (b k) else 0
  | 1 => a ((k + kk) % n)
  | 2 => a (k ^^^ kk)
  | 3 => a (n - 1 - k)
  | 4 => if k % 2 = 0 then a (k / 2) else b (k / 2)
  | _ => if k % 2 = 0 then a (n / 2 + k / 2) else b (n / 2 + k / 2)

/-- `shuf` (R139). -/
def execOpShuf (w : OpWord) (s : State) : Host.Outcome State Fault Refusal :=
  .next (fireGo s w 0x44 fun i => bitFire i 2 fun k _ _ _ => shufLane i k)

/-- `bcast` (R140). -/
def execOpBcast (w : OpWord) (s : State) : Host.Outcome State Fault Refusal :=
  .next (fireGo s w 0x45 fun i =>
    let v := i.a.cell i.fmt.width (if i.w.mod = 1 then i.w.imm10 % 128 else 0)
    bitFire i 2 fun _ _ _ _ => v)

/-- `iota` (R141). -/
def execOpIota (w : OpWord) (s : State) : Host.Outcome State Fault Refusal :=
  .next (fireGo s w 0x46 fun i =>
    let start := intVal i.fmt (i.a.cell i.fmt.width 0)
    laneFire i i.fmt 2 [] false fun k _ _ _ => intResult i.fmt i.sat (start + (k : Int) * sval 10 i.w.imm10))

/-- `rand` (R146). -/
def execOpRand (w : OpWord) (s : State) : Host.Outcome State Fault Refusal :=
  .next (fireGo s w 0x47 fun i =>
    let ctr := i.a.low32
    laneFire i i.fmt (if i.vec then 3 else 2) [] false fun k _ _ _ =>
      let h := randWord i.const (outTag i.w i.tag) k ctr
      if i.w.mod = 1 then ((roundFp layFp32 .rne false false 0 (.fin false (h / 256) (2 ^ 24))).1, fNone) else (h, fNone))

/-- The result format of `rsum` (R142). -/
def rsumFmt (f : Fmt) (wide : Bool) : Fmt :=
  if !wide then f else if f.isFloat then .fp32 else if f.width ≤ 16 then .int32 else .int64

/-- `rsum` (R142): the exact sum of all lanes, rounded once. -/
def execOpRsum (w : OpWord) (s : State) : Host.Outcome State Fault Refusal :=
  .next (fireGo s w 0x48 fun i =>
    let f := i.fmt
    let g := rsumFmt f (bit i.w.imm10 0)
    let n := vecLanes f.width
    let cs := (List.range n).map fun k => i.a.cell f.width k
    let r :=
      if f.isFloat then
        let xs := cs.map (i.val f)
        i.roundLane g 0 xs (sumF i.mode xs)
      else intResult g i.sat ((cs.map (intVal f)).foldl (· + ·) 0)
    { outs := [i.scalarTok g r.1], flags := r.2, nonfin := (i.badIn f n [0]) <|> badOut g [r.1], lat := 6 })

/-- R143: the maximum or minimum of all lanes by R124. -/
def reduceExtreme (i : FireIn) (big : Bool) : FireOut :=
  let f := i.fmt
  let n := vecLanes f.width
  let nan := i.w.mod == 1
  let cs := (List.range n).map fun k => i.a.cell f.width k
  let r := match cs with
    | [] => (0, fNone)
    | c :: rest => rest.foldl (fun (q : Nat × Flags) x =>
        let y := i.extreme f big nan q.1 x
        (y.1, q.2 ||| y.2)) (i.extreme f big nan c c)
  { outs := [i.scalarTok f r.1], flags := r.2, nonfin := (i.badIn f n [0]) <|> badOut f [r.1], lat := 6 }

/-- `rmax` (R143). -/
def execOpRmax (w : OpWord) (s : State) : Host.Outcome State Fault Refusal :=
  .next (fireGo s w 0x49 fun i => reduceExtreme i true)

/-- `rmin` (R143). -/
def execOpRmin (w : OpWord) (s : State) : Host.Outcome State Fault Refusal :=
  .next (fireGo s w 0x4A fun i => reduceExtreme i false)

/-- The exact rescale of `rsum.m`: MODE 0 none, 1 scale by T / v, 2 mean (R144). -/
def rescaleF (mode t v : Nat) (x : FVal) : FVal :=
  match x with
  | .fin s a b => if mode = 1 then .fin s (a * t) (b * v) else if mode = 2 then .fin s a (b * v) else x
  | y => y

/-- `rsum.m` (R144): adds the valid operands lane by lane. -/
def execOpRsumM (w : OpWord) (s : State) : Host.Outcome State Fault Refusal :=
  .next (fireGo s w 0x4B fun i =>
    let f := i.fmt
    let n := vecLanes f.width
    let ps := [0, 1, 2].filter fun p => i.w.src p != 31
    let vs := ps.filter fun p => bit (i.opd p).mask 0
    let lanesOut := (List.range n).map fun k =>
      if vs = [] then (0, fNone)
      else
        let xs := vs.map fun p => i.val f ((i.opd p).cell f.width k)
        let x := sumF i.mode xs
        i.roundLane f k xs (rescaleF (i.w.imm10 % 4) ps.length vs.length x.1, x.2)
    let cs := lanesOut.map Prod.fst
    let t := outTag i.w i.tag
    { outs := [i.emit i.dest (vectorHdr f t (b2n (vs ≠ []))) (packLanes f.width cs) i.poison],
      flags := orFlags (lanesOut.map Prod.snd), nonfin := (i.badIn f n vs) <|> badOut f cs, lat := 6 })

end Sys2Proof.Machine
end

