-- ==== Sys2Proof/Machine/Dispatch.lean ====
section
/-! DEFINITION. One arm per constructor of Instr. -/

namespace Sys2Proof.Machine

/-- What one instruction or event does to a state. -/
def exec (i : Instr) (s : State) : Host.Outcome State Fault Refusal :=
  match i with
  | .opSteer w => Sys2Proof.Machine.execOpSteer w s
  | .opSwitch w => Sys2Proof.Machine.execOpSwitch w s
  | .opMerge w => Sys2Proof.Machine.execOpMerge w s
  | .opCmerge w => Sys2Proof.Machine.execOpCmerge w s
  | .opCtxnew w => Sys2Proof.Machine.execOpCtxnew w s
  | .opRetag w => Sys2Proof.Machine.execOpRetag w s
  | .opNextit w => Sys2Proof.Machine.execOpNextit w s
  | .opItdone w => Sys2Proof.Machine.execOpItdone w s
  | .opCtxend w => Sys2Proof.Machine.execOpCtxend w s
  | .opEos w => Sys2Proof.Machine.execOpEos w s
  | .opCnt w => Sys2Proof.Machine.execOpCnt w s
  | .opConst w => Sys2Proof.Machine.execOpConst w s
  | .opSink w => Sys2Proof.Machine.execOpSink w s
  | .opSort2 w => Sys2Proof.Machine.execOpSort2 w s
  | .opPnop w => Sys2Proof.Machine.execOpPnop w s
  | .opTagof w => Sys2Proof.Machine.execOpTagof w s
  | .opTrap w => Sys2Proof.Machine.execOpTrap w s
  | .opBrk w => Sys2Proof.Machine.execOpBrk w s
  | .opNop w => Sys2Proof.Machine.execOpNop w s
  | .evEosSetFire => Sys2Proof.Machine.execEvEosSetFire s
  | .evTruncDiscard => Sys2Proof.Machine.execEvTruncDiscard s
  | .opAdd w => Sys2Proof.Machine.execOpAdd w s
  | .opSub w => Sys2Proof.Machine.execOpSub w s
  | .opMul w => Sys2Proof.Machine.execOpMul w s
  | .opMad w => Sys2Proof.Machine.execOpMad w s
  | .opMin w => Sys2Proof.Machine.execOpMin w s
  | .opMax w => Sys2Proof.Machine.execOpMax w s
  | .opAbs w => Sys2Proof.Machine.execOpAbs w s
  | .opNeg w => Sys2Proof.Machine.execOpNeg w s
  | .opCmp w => Sys2Proof.Machine.execOpCmp w s
  | .opSel w => Sys2Proof.Machine.execOpSel w s
  | .opClamp w => Sys2Proof.Machine.execOpClamp w s
  | .opDiv w => Sys2Proof.Machine.execOpDiv w s
  | .opLdexp w => Sys2Proof.Machine.execOpLdexp w s
  | .opFrexp w => Sys2Proof.Machine.execOpFrexp w s
  | .opDot w => Sys2Proof.Machine.execOpDot w s
  | .opAnd w => Sys2Proof.Machine.execOpAnd w s
  | .opOr w => Sys2Proof.Machine.execOpOr w s
  | .opXor w => Sys2Proof.Machine.execOpXor w s
  | .opNot w => Sys2Proof.Machine.execOpNot w s
  | .opShl w => Sys2Proof.Machine.execOpShl w s
  | .opShr w => Sys2Proof.Machine.execOpShr w s
  | .opSra w => Sys2Proof.Machine.execOpSra w s
  | .opPopc w => Sys2Proof.Machine.execOpPopc w s
  | .opClz w => Sys2Proof.Machine.execOpClz w s
  | .opCvt w => Sys2Proof.Machine.execOpCvt w s
  | .opExpand w => Sys2Proof.Machine.execOpExpand w s
  | .opPack w => Sys2Proof.Machine.execOpPack w s
  | .opUnpack w => Sys2Proof.Machine.execOpUnpack w s
  | .opShuf w => Sys2Proof.Machine.execOpShuf w s
  | .opBcast w => Sys2Proof.Machine.execOpBcast w s
  | .opIota w => Sys2Proof.Machine.execOpIota w s
  | .opRand w => Sys2Proof.Machine.execOpRand w s
  | .opRsum w => Sys2Proof.Machine.execOpRsum w s
  | .opRmax w => Sys2Proof.Machine.execOpRmax w s
  | .opRmin w => Sys2Proof.Machine.execOpRmin w s
  | .opRsumM w => Sys2Proof.Machine.execOpRsumM w s
  | .opMma w => Sys2Proof.Machine.execOpMma w s
  | .opMmaMx w => Sys2Proof.Machine.execOpMmaMx w s
  | .opMmaTb w => Sys2Proof.Machine.execOpMmaTb w s
  | .opAccz w => Sys2Proof.Machine.execOpAccz w s
  | .opAccadd w => Sys2Proof.Machine.execOpAccadd w s
  | .opAccrel w => Sys2Proof.Machine.execOpAccrel w s
  | .opTadd w => Sys2Proof.Machine.execOpTadd w s
  | .opTsub w => Sys2Proof.Machine.execOpTsub w s
  | .opTmul w => Sys2Proof.Machine.execOpTmul w s
  | .opTmax w => Sys2Proof.Machine.execOpTmax w s
  | .opTmin w => Sys2Proof.Machine.execOpTmin w s
  | .opTtr w => Sys2Proof.Machine.execOpTtr w s
  | .opTcvt w => Sys2Proof.Machine.execOpTcvt w s
  | .opExp w => Sys2Proof.Machine.execOpExp w s
  | .opExp2 w => Sys2Proof.Machine.execOpExp2 w s
  | .opLog w => Sys2Proof.Machine.execOpLog w s
  | .opLog2 w => Sys2Proof.Machine.execOpLog2 w s
  | .opLog1p w => Sys2Proof.Machine.execOpLog1p w s
  | .opExpm1 w => Sys2Proof.Machine.execOpExpm1 w s
  | .opSin w => Sys2Proof.Machine.execOpSin w s
  | .opCos w => Sys2Proof.Machine.execOpCos w s
  | .opSinpi w => Sys2Proof.Machine.execOpSinpi w s
  | .opCospi w => Sys2Proof.Machine.execOpCospi w s
  | .opTanh w => Sys2Proof.Machine.execOpTanh w s
  | .opLogistic w => Sys2Proof.Machine.execOpLogistic w s
  | .opErf w => Sys2Proof.Machine.execOpErf w s
  | .opGelu w => Sys2Proof.Machine.execOpGelu w s
  | .opRsqrt w => Sys2Proof.Machine.execOpRsqrt w s
  | .opSqrt w => Sys2Proof.Machine.execOpSqrt w s
  | .opRcp w => Sys2Proof.Machine.execOpRcp w s
  | .opLd w => Sys2Proof.Machine.execOpLd w s
  | .opLdLoc w => Sys2Proof.Machine.execOpLdLoc w s
  | .opLdRec w => Sys2Proof.Machine.execOpLdRec w s
  | .opSt w => Sys2Proof.Machine.execOpSt w s
  | .opStLoc w => Sys2Proof.Machine.execOpStLoc w s
  | .opLdg w => Sys2Proof.Machine.execOpLdg w s
  | .opStg w => Sys2Proof.Machine.execOpStg w s
  | .opAgen w => Sys2Proof.Machine.execOpAgen w s
  | .opSbar w => Sys2Proof.Machine.execOpSbar w s
  | .opCopy w => Sys2Proof.Machine.execOpCopy w s
  | .opRed w => Sys2Proof.Machine.execOpRed w s
  | .opRedM w => Sys2Proof.Machine.execOpRedM w s
  | .opAadd w => Sys2Proof.Machine.execOpAadd w s
  | .opAmin w => Sys2Proof.Machine.execOpAmin w s
  | .opAmax w => Sys2Proof.Machine.execOpAmax w s
  | .opAand w => Sys2Proof.Machine.execOpAand w s
  | .opAor w => Sys2Proof.Machine.execOpAor w s
  | .opAxor w => Sys2Proof.Machine.execOpAxor w s
  | .opAswp w => Sys2Proof.Machine.execOpAswp w s
  | .opAcas w => Sys2Proof.Machine.execOpAcas w s
  | .opAincB w => Sys2Proof.Machine.execOpAincB w s
  | .opGset w => Sys2Proof.Machine.execOpGset w s
  | .opGadd w => Sys2Proof.Machine.execOpGadd w s
  | .opGwait w => Sys2Proof.Machine.execOpGwait w s
  | .opPsig w => Sys2Proof.Machine.execOpPsig w s
  | .opPwait w => Sys2Proof.Machine.execOpPwait w s
  | .evPwaitForward l n => Sys2Proof.Machine.execEvPwaitForward l n s
  | .opFilt w => Sys2Proof.Machine.execOpFilt w s
  | .opCmpct w => Sys2Proof.Machine.execOpCmpct w s
  | .evTokenArrival l ch => Sys2Proof.Machine.execEvTokenArrival l ch s
  | .evHeadArrival l ch => Sys2Proof.Machine.execEvHeadArrival l ch s
  | .evEosArrival l ch => Sys2Proof.Machine.execEvEosArrival l ch s
  | .evSpillFetchDone l n => Sys2Proof.Machine.execEvSpillFetchDone l n s
  | .evFiringCommit l => Sys2Proof.Machine.execEvFiringCommit l s
  | .evTokenInject l ch => Sys2Proof.Machine.execEvTokenInject l ch s
  | .evWheelSlot r x y o => Sys2Proof.Machine.execEvWheelSlot r x y o s
  | .evAcknowledgement r ch n => Sys2Proof.Machine.execEvAcknowledgement r ch n s
  | .evWindowMessage r n => Sys2Proof.Machine.execEvWindowMessage r n s
  | .evWindowAdvance r n => Sys2Proof.Machine.execEvWindowAdvance r n s
  | .evFreeApply r n => Sys2Proof.Machine.execEvFreeApply r n s
  | .evFreeComplete r b n => Sys2Proof.Machine.execEvFreeComplete r b n s
  | .evPortAccessPerform l n k => Sys2Proof.Machine.execEvPortAccessPerform l n k s
  | .evPageWalk l n => Sys2Proof.Machine.execEvPageWalk l n s
  | .evCompletionToken l n => Sys2Proof.Machine.execEvCompletionToken l n s
  | .evOwnerRmw l n k => Sys2Proof.Machine.execEvOwnerRmw l n k s
  | .evCopyPiecePerformed l n b => Sys2Proof.Machine.execEvCopyPiecePerformed l n b s
  | .evSequencerOrder l n => Sys2Proof.Machine.execEvSequencerOrder l n s
  | .evFrontierPass r => Sys2Proof.Machine.execEvFrontierPass r s
  | .evStopBroadcast r => Sys2Proof.Machine.execEvStopBroadcast r s
  | .evCutComplete r => Sys2Proof.Machine.execEvCutComplete r s
  | .evDoldrumsFire r => Sys2Proof.Machine.execEvDoldrumsFire r s
  | .evPourEnd r => Sys2Proof.Machine.execEvPourEnd r s
  | .evPourStart r => Sys2Proof.Machine.execEvPourStart r s
  | .evIloadComplete r => Sys2Proof.Machine.execEvIloadComplete r s
  | .evSaveComplete r => Sys2Proof.Machine.execEvSaveComplete r s
  | .evRestoreComplete r => Sys2Proof.Machine.execEvRestoreComplete r s
  | .evFlitReceive g f err => Sys2Proof.Machine.execEvFlitReceive g f err s
  | .evNak g => Sys2Proof.Machine.execEvNak g s
  | .evLinkIdleFlit g => Sys2Proof.Machine.execEvLinkIdleFlit g s
  | .evBind g => Sys2Proof.Machine.execEvBind g s
  | .evLaneGroupLost g => Sys2Proof.Machine.execEvLaneGroupLost g s
  | .evLinkTraining g major minor => Sys2Proof.Machine.execEvLinkTraining g major minor s
  | .evRemoteRequest g => Sys2Proof.Machine.execEvRemoteRequest g s
  | .evRemoteReply g => Sys2Proof.Machine.execEvRemoteReply g s
  | .evRemoteTranslateRequest g => Sys2Proof.Machine.execEvRemoteTranslateRequest g s
  | .evRemoteTranslateReply g => Sys2Proof.Machine.execEvRemoteTranslateReply g s
  | .evInv g => Sys2Proof.Machine.execEvInv g s
  | .evInvackSend g => Sys2Proof.Machine.execEvInvackSend g s
  | .evInvackReceive g => Sys2Proof.Machine.execEvInvackReceive g s
  | .evRemoteInvalidateTimeout g => Sys2Proof.Machine.execEvRemoteInvalidateTimeout g s
  | .evEpochAdvance g => Sys2Proof.Machine.execEvEpochAdvance g s
  | .evUndefinedEncoding w => Sys2Proof.Machine.execEvUndefinedEncoding w s
  | .kAdd d a b => Sys2Proof.Machine.execKAdd d a b s
  | .kSub d a b => Sys2Proof.Machine.execKSub d a b s
  | .kAnd d a b => Sys2Proof.Machine.execKAnd d a b s
  | .kOr d a b => Sys2Proof.Machine.execKOr d a b s
  | .kXor d a b => Sys2Proof.Machine.execKXor d a b s
  | .kShl d a b => Sys2Proof.Machine.execKShl d a b s
  | .kShr d a b => Sys2Proof.Machine.execKShr d a b s
  | .kSra d a b => Sys2Proof.Machine.execKSra d a b s
  | .kSlt d a b => Sys2Proof.Machine.execKSlt d a b s
  | .kSltu d a b => Sys2Proof.Machine.execKSltu d a b s
  | .kMul d a b => Sys2Proof.Machine.execKMul d a b s
  | .kMulh d a b => Sys2Proof.Machine.execKMulh d a b s
  | .kMulhu d a b => Sys2Proof.Machine.execKMulhu d a b s
  | .kDiv d a b => Sys2Proof.Machine.execKDiv d a b s
  | .kDivu d a b => Sys2Proof.Machine.execKDivu d a b s
  | .kRem d a b => Sys2Proof.Machine.execKRem d a b s
  | .kRemu d a b => Sys2Proof.Machine.execKRemu d a b s
  | .kAddi d a imm => Sys2Proof.Machine.execKAddi d a imm s
  | .kAndi d a imm => Sys2Proof.Machine.execKAndi d a imm s
  | .kOri d a imm => Sys2Proof.Machine.execKOri d a imm s
  | .kXori d a imm => Sys2Proof.Machine.execKXori d a imm s
  | .kShli d a imm => Sys2Proof.Machine.execKShli d a imm s
  | .kShri d a imm => Sys2Proof.Machine.execKShri d a imm s
  | .kSrai d a imm => Sys2Proof.Machine.execKSrai d a imm s
  | .kSlti d a imm => Sys2Proof.Machine.execKSlti d a imm s
  | .kLui d imm => Sys2Proof.Machine.execKLui d imm s
  | .kLd d a imm => Sys2Proof.Machine.execKLd d a imm s
  | .kLw d a imm => Sys2Proof.Machine.execKLw d a imm s
  | .kLwu d a imm => Sys2Proof.Machine.execKLwu d a imm s
  | .kLbu d a imm => Sys2Proof.Machine.execKLbu d a imm s
  | .kSd r a imm => Sys2Proof.Machine.execKSd r a imm s
  | .kSw r a imm => Sys2Proof.Machine.execKSw r a imm s
  | .kSb r a imm => Sys2Proof.Machine.execKSb r a imm s
  | .kLdAcq d a c => Sys2Proof.Machine.execKLdAcq d a c s
  | .kLwAcq d a c => Sys2Proof.Machine.execKLwAcq d a c s
  | .kSdRel a b c => Sys2Proof.Machine.execKSdRel a b c s
  | .kSwRel a b c => Sys2Proof.Machine.execKSwRel a b c s
  | .kAmoAdd d a b w o c => Sys2Proof.Machine.execKAmoAdd d a b w o c s
  | .kAmoSwp d a b w o c => Sys2Proof.Machine.execKAmoSwp d a b w o c s
  | .kAmoCas d a b w o c => Sys2Proof.Machine.execKAmoCas d a b w o c s
  | .kAmoAnd d a b w o c => Sys2Proof.Machine.execKAmoAnd d a b w o c s
  | .kAmoOr d a b w o c => Sys2Proof.Machine.execKAmoOr d a b w o c s
  | .kAmoMin d a b w o c u => Sys2Proof.Machine.execKAmoMin d a b w o c u s
  | .kAmoMax d a b w o c u => Sys2Proof.Machine.execKAmoMax d a b w o c u s
  | .kBeq a b o => Sys2Proof.Machine.execKBeq a b o s
  | .kBne a b o => Sys2Proof.Machine.execKBne a b o s
  | .kBlt a b o => Sys2Proof.Machine.execKBlt a b o s
  | .kBge a b o => Sys2Proof.Machine.execKBge a b o s
  | .kBltu a b o => Sys2Proof.Machine.execKBltu a b o s
  | .kBgeu a b o => Sys2Proof.Machine.execKBgeu a b o s
  | .kJ o => Sys2Proof.Machine.execKJ o s
  | .kJal o => Sys2Proof.Machine.execKJal o s
  | .kJalr d a imm => Sys2Proof.Machine.execKJalr d a imm s
  | .kKscrub d a b => Sys2Proof.Machine.execKKscrub d a b s
  | .kFence c => Sys2Proof.Machine.execKFence c s
  | .kCsrr d c => Sys2Proof.Machine.execKCsrr d c s
  | .kCsrw a c => Sys2Proof.Machine.execKCsrw a c s
  | .kCsrs a c => Sys2Proof.Machine.execKCsrs a c s
  | .kCsrc a c => Sys2Proof.Machine.execKCsrc a c s
  | .evKsStatusWrite v => Sys2Proof.Machine.execEvKsStatusWrite v s
  | .evKsEventWrite v => Sys2Proof.Machine.execEvKsEventWrite v s
  | .evKsRevtWrite v => Sys2Proof.Machine.execEvKsRevtWrite v s
  | .evKsMonaWrite v => Sys2Proof.Machine.execEvKsMonaWrite v s
  | .kTrap imm => Sys2Proof.Machine.execKTrap imm s
  | .kTret => Sys2Proof.Machine.execKTret s
  | .kKwait d a => Sys2Proof.Machine.execKKwait d a s
  | .evKwaitWake => Sys2Proof.Machine.execEvKwaitWake s
  | .kIload d a b => Sys2Proof.Machine.execKIload d a b s
  | .kArm d a => Sys2Proof.Machine.execKArm d a s
  | .kArmOff d a => Sys2Proof.Machine.execKArmOff d a s
  | .kPour d a b => Sys2Proof.Machine.execKPour d a b s
  | .kLaunch d a b => Sys2Proof.Machine.execKLaunch d a b s
  | .kInj d a b => Sys2Proof.Machine.execKInj d a b s
  | .kArgw d a b => Sys2Proof.Machine.execKArgw d a b s
  | .kRstop d a => Sys2Proof.Machine.execKRstop d a s
  | .kRresume d a b => Sys2Proof.Machine.execKRresume d a b s
  | .kRdrain d a b => Sys2Proof.Machine.execKRdrain d a b s
  | .kRsave d a b => Sys2Proof.Machine.execKRsave d a b s
  | .kRrestore d a b => Sys2Proof.Machine.execKRrestore d a b s
  | .kShrink d a b => Sys2Proof.Machine.execKShrink d a b s
  | .kEvict d a b => Sys2Proof.Machine.execKEvict d a b s
  | .kFltq d a b => Sys2Proof.Machine.execKFltq d a b s
  | .kAlmw d b => Sys2Proof.Machine.execKAlmw d b s
  | .evAlmanacHeadAdvance p => Sys2Proof.Machine.execEvAlmanacHeadAdvance p s
  | .kGwaitk d a b => Sys2Proof.Machine.execKGwaitk d a b s
  | .evGwaitkWake => Sys2Proof.Machine.execEvGwaitkWake s
  | .evTimer => Sys2Proof.Machine.execEvTimer s
  | .evAsyncTrap => Sys2Proof.Machine.execEvAsyncTrap s
  | .evDispatchEntryNotice p e => Sys2Proof.Machine.execEvDispatchEntryNotice p e s
  | .evSchedulerStep p => Sys2Proof.Machine.execEvSchedulerStep p s
  | .evGraceExpire p e => Sys2Proof.Machine.execEvGraceExpire p e s
  | .evEntryDone p e => Sys2Proof.Machine.execEvEntryDone p e s
  | .evInvalidationRequest p => Sys2Proof.Machine.execEvInvalidationRequest p s
  | .evInvalidationComplete p => Sys2Proof.Machine.execEvInvalidationComplete p s
  | .evHostApertureWrite p off n data => Sys2Proof.Machine.execEvHostApertureWrite p off n data s
  | .evHostApertureRead p off n => Sys2Proof.Machine.execEvHostApertureRead p off n s
  | .evHostApertureAtomic p off n op x y => Sys2Proof.Machine.execEvHostApertureAtomic p off n op x y s
  | .evMwApbaseWrite p off n data => Sys2Proof.Machine.execEvMwApbaseWrite p off n data s
  | .evRegisterWrite p off n data => Sys2Proof.Machine.execEvRegisterWrite p off n data s
  | .evIngressWrite p off n data rq ro => Sys2Proof.Machine.execEvIngressWrite p off n data rq ro s
  | .evIngressRead p off n rq => Sys2Proof.Machine.execEvIngressRead p off n rq s
  | .evIngressDescriptorUpdate p win => Sys2Proof.Machine.execEvIngressDescriptorUpdate p win s
  | .evWeathervaneUpdate p d => Sys2Proof.Machine.execEvWeathervaneUpdate p d s
  | .evTapCopy p d => Sys2Proof.Machine.execEvTapCopy p d s
  | .evPartitionReset p => Sys2Proof.Machine.execEvPartitionReset p s
  | .evAttestationRequest p => Sys2Proof.Machine.execEvAttestationRequest p s
  | .evPowerUp => Sys2Proof.Machine.execEvPowerUp s
  | .evModuleReset => Sys2Proof.Machine.execEvModuleReset s
  | .evPowerOff => Sys2Proof.Machine.execEvPowerOff s
  | .evSupplyDroop d x => Sys2Proof.Machine.execEvSupplyDroop d x s
  | .evSquallRelease d => Sys2Proof.Machine.execEvSquallRelease d s
  | .evDiePowerLimit d x => Sys2Proof.Machine.execEvDiePowerLimit d x s
  | .evIsobarRecompute st x => Sys2Proof.Machine.execEvIsobarRecompute st x s
  | .evIsobarRelease st => Sys2Proof.Machine.execEvIsobarRelease st s
  | .evRefresh st b => Sys2Proof.Machine.execEvRefresh st b s
  | .evUnbind g => Sys2Proof.Machine.execEvUnbind g s
  | .evFlitSend g => Sys2Proof.Machine.execEvFlitSend g s

end Sys2Proof.Machine
end

