-- ==== Sys2Proof/Machine/Install.lean ====
section
/-! DEFINITION. Placing one operation word in an element of a running region with its operands present, so that the next
step issues it: what `iload`, `arm`, `launch` and the arrivals of its operands would leave (assumption 10). -/

namespace Sys2Proof.Machine

/-- A data token that suits an opcode's operand: a tile for the tile group, a vector or tile where SHAPE asks for one, else
a scalar of 32 bits; every payload bit 0. -/
def sampleHdr (opc : Nat) (w : OpWord) (ch : Nat) : Hdr :=
  let kind := if flowGroup opc then 0 else if 0x60 ≤ opc && opc < 0x80 then 3 else if opc < 0xA0 then w.shape else 0
  let h : Hdr := { chan := ch, pkind := kind }
  let h := if kind = 3 then { h with fmt := 3, trows := 32, tcols := 32, vrows := 32, vcols := 32 } else h
  { h with vmask := fullMask h }

/-- The receive entries of slot 0: position p is bound to channel p (Table 2.3). -/
def sampleRecv (w : OpWord) : List RecvEnt :=
  (tokPos w).map fun p => { valid := true, head := w.src p == 1, pos := p, slot := 0, chan := p, quota := 8 }

/-- The configuration of an element with one armed slot. -/
def sampleCfg (x : Word64) : ElemCfg :=
  { slots := x :: List.replicate 31 0xFF00000FFFE00000, recv := sampleRecv (opFields x), dest := List.replicate 32 [],
    fmts := [0, 0, 0, 0], consts := List.replicate 32 0, states := List.replicate 32 0, pooln := 8 }

/-- The element: slot 0 holds the word, its operands are in a matched set or at the heads of their channels, its guard
predicate lets it issue. -/
def sampleElem (x : Word64) : Elem :=
  let w := opFields x
  let opc := (opCode x).toNat
  let cfg := sampleCfg x
  let held (p : Nat) : Held := { tok := { hdr := sampleHdr opc w p } }
  let at0 (p : Nat) : Option Held := if w.src p = 0 then some (held p) else none
  let sets : List MSet :=
    if matchPos w = [] then [] else [{ slot := 0, tag := 0, a := at0 0, b := at0 1, c := at0 2, ready := some 0 }]
  let heads : List (Nat × List Held) := (headPos w).map fun p => (p, [held p])
  { kind := if portOnly opc w.mod.toNat then 1 else 0, cfg := cfg, consts := cfg.consts, states := cfg.states,
    preds := if w.gsense then 0x8000 else 0xFFFF, sets := sets, heads := heads, gauges := List.replicate 256 {} }

/-- The body that tag 0 names. -/
def sampleBody : BodySt :=
  { desc := { num := 0, dyn := true, frame := false, logw := 4, k := 4, c := 1 },
    insts := [{ st := 0, counts := List.replicate 16 0 }, {}, {}, {}] }

/-- Region 0 of partition 0 runs one element with the word; its first firing may issue 312 clk after the launch (R246),
which the next turn lets pass. -/
def installOp (s : State) (x : Nat) : State :=
  let g : Region := { st := 2, elems := [sampleElem (BitVec.ofNat 64 x)], bodies := [sampleBody], launchClk := s.clk }
  { setRegion s ⟨0, 0⟩ g with agenda := [{ clk := 312, act := .fire ⟨0, 0, 0⟩ }] }

end Sys2Proof.Machine
end

