-- ==== Sys2Proof/Machine/Step.lean ====
section
/-! DEFINITION. One step of the module: the next agent of the agenda moves; with an empty agenda the current kettle core
executes one instruction. -/

namespace Sys2Proof.Machine

/-- The word that a core fetched is executed: its instruction, or ILLEGAL_INSN (R216). -/
def runWord (w : Word32) (s : State) : Host.Outcome State Fault Refusal :=
  match decodeKettle w with
  | .ok i => exec i s
  | .error _ => exec (.evUndefinedEncoding w) s

/-- The current core moves (R228, R234): an asynchronous trap that is due, a look at what it waits for, or one
instruction. A core that has not been started does nothing. -/
def runCore (s : State) : Host.Outcome State Fault Refusal :=
  if !(curCore s).started then .next s
  else
    let s := setCore s ((curCore s).timer s.ns)
    match asyncDue (curCore s) s.ns with
    | some _ => exec .evAsyncTrap s
    | none =>
      match (curCore s).wait with
      | some (.kwait _ _ _) => exec .evKwaitWake s
      | some (.gwaitk _ _ _ _) => exec .evGwaitkWake s
      | none =>
        match kfetch s with
        | (.error t, u) => .next (ktrap u t)
        | (.ok w, u) => runWord w u

/-- An element issues at most one firing (R58). -/
def runElem (s : State) (l : Loc) : Host.Outcome State Fault Refusal :=
  match selectFocus s l with
  | none => .next s
  | some f =>
    let s := { s with focus := some f }
    match f.mode with
    | .eos => exec .evEosSetFire s
    | .trunc => exec .evTruncDiscard s
    | _ =>
      match decodeOp (nth (getElem s l).cfg.slots f.slot 0) with
      | .ok i => exec i s
      | .error _ => .next s

/-- Who moves. -/
def runAct (s : State) (a : Act) : Host.Outcome State Fault Refusal :=
  match a with
  | .core c => runCore { s with cur := c }
  | .fire l => runElem s l
  | .ev i => exec i s

/-- Every element's buffers whose time has come are free (R261). -/
def settleBuffers (s : State) : State :=
  { s with parts := s.parts.map fun p => { p with regions := p.regions.map fun q =>
      (q.1, { q.2 with elems := q.2.elems.map (Elem.settle s.clk) }) } }

/-- The time of a turn passes and the environment acts. -/
def beginTurn (s : State) (t : Turn) (rest : List Turn) : State :=
  let s := { s with agenda := rest, ns := s.ns + t.ns, clk := s.clk + t.clk, kcyc := s.kcyc + t.kcyc }
  t.env.foldl applyEnv (if t.clk = 0 then s else settleBuffers s)

/-- One step. An unpowered module runs nothing until POWER_UP (R5, R416). Before the move the read-only blocks of memory show what
they report (R410, R412). -/
def step (s : State) : Host.Outcome State Fault Refusal :=
  match s.agenda with
  | [] => if s.powered then runCore (publish s) else .fault .unpowered
  | t :: rest =>
    if s.powered then runAct (publish (beginTurn s t rest)) t.act
    else match t.act with
      | .ev .evPowerUp => exec .evPowerUp { s with agenda := rest }
      | _ => .fault .unpowered

/-- A state whose next step fetches and runs the given instruction: a kettle word at the current core's pc, which is in its
local memory after reset; an operation word in a slot of a running element with its operands present. -/
def State.withFetchWord (s : State) (nbits w : Nat) : State :=
  if nbits ≤ 32 then
    { setCore s { curCore s with lmem := writeBytes (curCore s).lmem (curCore s).pc.toNat 4 w } with agenda := [] }
  else installOp s w

end Sys2Proof.Machine
end

