-- ==== Sys2Proof/WellFormed.lean ====
section
/-! DEFINITION. Well-formed instructions: operation words that keep the encoding rules (spec/03: R64 to R71), and steps that
name something that the module has (spec/00: R11; spec/09: R236). -/

namespace Sys2Proof

/-- The MOD values of the constructors that share an opcode (Table 8.1). -/
def variantOk (i : Instr) : Bool :=
  match i with
  | .opLd w => w.mod.toNat ≤ 1
  | .opLdLoc w => 2 ≤ w.mod.toNat && w.mod.toNat ≤ 4
  | .opLdRec w => w.mod.toNat == 5
  | .opSt w => w.mod.toNat ≤ 1
  | .opStLoc w => 2 ≤ w.mod.toNat && w.mod.toNat ≤ 4
  | _ => true

/-- A partition P0 to P15. -/
def partOk (p : Nat) : Bool := p < 16
/-- A region: a partition and a handle 0 to 63 (R236). -/
def rgnOk (r : Rgn) : Bool := r.part < 16 && r.handle < 64
/-- An element of a region. -/
def locOk (l : Loc) : Bool := l.part < 16 && l.handle < 64
/-- A lane group: 18 ports of four groups (R305). -/
def laneOk (g : Nat) : Bool := g < 72
/-- A die, a memory stack, a bank (R1, R5). -/
def dieOk (d : Nat) : Bool := d < 8
def stackOk (st : Nat) : Bool := st < 24

/-- The steps that no word encodes name what the module has. -/
def namesOk (i : Instr) : Bool :=
  match i with
  | .evPwaitForward l _ => locOk l
  | .evTokenArrival l _ => locOk l
  | .evHeadArrival l _ => locOk l
  | .evEosArrival l _ => locOk l
  | .evSpillFetchDone l _ => locOk l
  | .evFiringCommit l => locOk l
  | .evTokenInject l _ => locOk l
  | .evWheelSlot r _ _ _ => rgnOk r
  | .evAcknowledgement r _ _ => rgnOk r
  | .evWindowMessage r _ => rgnOk r
  | .evWindowAdvance r _ => rgnOk r
  | .evFreeApply r _ => rgnOk r
  | .evFreeComplete r _ _ => rgnOk r
  | .evPortAccessPerform l _ _ => locOk l
  | .evPageWalk l _ => locOk l
  | .evCompletionToken l _ => locOk l
  | .evOwnerRmw l _ _ => locOk l
  | .evCopyPiecePerformed l _ _ => locOk l
  | .evSequencerOrder l _ => locOk l
  | .evFrontierPass r => rgnOk r
  | .evStopBroadcast r => rgnOk r
  | .evCutComplete r => rgnOk r
  | .evDoldrumsFire r => rgnOk r
  | .evPourEnd r => rgnOk r
  | .evPourStart r => rgnOk r
  | .evIloadComplete r => rgnOk r
  | .evSaveComplete r => rgnOk r
  | .evRestoreComplete r => rgnOk r
  | .evFlitReceive g _ _ => laneOk g
  | .evNak g => laneOk g
  | .evLinkIdleFlit g => laneOk g
  | .evBind g => laneOk g
  | .evLaneGroupLost g => laneOk g
  | .evLinkTraining g _ _ => laneOk g
  | .evRemoteRequest g => laneOk g
  | .evRemoteReply g => laneOk g
  | .evRemoteTranslateRequest g => laneOk g
  | .evRemoteTranslateReply g => laneOk g
  | .evInv g => laneOk g
  | .evInvackSend g => laneOk g
  | .evInvackReceive g => laneOk g
  | .evRemoteInvalidateTimeout g => laneOk g
  | .evEpochAdvance g => laneOk g
  | .evAlmanacHeadAdvance p => partOk p
  | .evDispatchEntryNotice p _ => partOk p
  | .evSchedulerStep p => partOk p
  | .evGraceExpire p _ => partOk p
  | .evEntryDone p _ => partOk p
  | .evInvalidationRequest p => partOk p
  | .evInvalidationComplete p => partOk p
  | .evHostApertureWrite p _ _ _ => partOk p
  | .evHostApertureRead p _ _ => partOk p
  | .evHostApertureAtomic p _ _ _ _ _ => partOk p
  | .evMwApbaseWrite p _ _ _ => partOk p
  | .evRegisterWrite p _ _ _ => partOk p
  | .evIngressWrite p _ _ _ _ _ => partOk p
  | .evIngressRead p _ _ _ => partOk p
  | .evIngressDescriptorUpdate p _ => partOk p
  | .evWeathervaneUpdate p d => partOk p && dieOk d
  | .evTapCopy p d => partOk p && dieOk d
  | .evPartitionReset p => partOk p
  | .evAttestationRequest p => partOk p
  | .evSupplyDroop d _ => dieOk d
  | .evSquallRelease d => dieOk d
  | .evDiePowerLimit d _ => dieOk d
  | .evIsobarRecompute st _ => (st : Nat) < 32
  | .evIsobarRelease st => stackOk st
  | .evRefresh st _ => stackOk st
  | .evUnbind g => laneOk g
  | .evFlitSend g => laneOk g
  | _ => true

/-- A well-formed instruction. -/
def Instr.wf (i : Instr) : Bool :=
  match opCodeOf i with
  | some q => Machine.wordOk q.1.toNat q.2 && variantOk i
  | none => namesOk i

end Sys2Proof
end

