-- ==== Sys2Proof/Safety.lean ====
section
/-! DEFINITION. The terms in which claims are stated: an instruction completes, what a kettle instruction may change, a trap
that is taken, a firing that is issued. -/

namespace Sys2Proof.Machine

/-- The instruction answers a next state of which P holds. -/
def Completes (i : Instr) (s : State) (P : State → Prop) : Prop := ∃ t, exec i s = .next t ∧ P t

/-! ### Kettle cores -/

/-- Register d holds v afterwards (k0 keeps 0, R210) and the pc is one instruction further; every other register, every other
field of the core, every other core and the rest of the module are as they were. -/
def SetsReg (s t : State) (d : KReg) (v : Word64) : Prop :=
  t = setCore s { curCore s with regs := (curCore t).regs, pc := (curCore s).pc + 4 } ∧
  ∀ r, kreg t r = if r = d ∧ d ≠ 0 then v else kreg s r

/-- The pc afterwards; nothing else changes. -/
def SetsPc (s t : State) (a : Word64) : Prop := t = setCore s { curCore s with pc := a }

/-- n bytes of v stored at address x of the current core's local memory; nothing else changes. -/
def WritesLocal (s t : State) (x n v : Nat) : Prop :=
  t = setCore s { curCore s with lmem := (curCore t).lmem } ∧
  (curCore t).lmem = writeBytes (curCore s).lmem x n v ∧
  (Memory.wf (curCore s).lmem = true → ∀ y, getByte (curCore t).lmem y =
    if x ≤ y ∧ y < x + n then BitVec.ofNat 8 (v / 256 ^ (y - x)) else getByte (curCore s).lmem y)

/-- n bytes of v stored at the physical address pa of HBM: a correctable error of the line is gone (R405) and every other core
that watches the line has MON set (R233); nothing else changes. -/
def WritesHbm (s t : State) (pa n v : Nat) : Prop :=
  t = { s with hbm := t.hbm, softLines := s.softLines.filter fun e => e.1 != pa / 64, cores := t.cores } ∧
  t.hbm = writeBytes s.hbm pa n v ∧
  (Memory.wf s.hbm = true → ∀ y, getByte t.hbm y =
    if pa ≤ y ∧ y < pa + n then BitVec.ofNat 8 (v / 256 ^ (y - pa)) else getByte s.hbm y) ∧
  ∀ k : Fin 32, t.cores[k] =
    if s.cores[k].monitor = some (.phys (pa / 64)) ∧ s.cur.toNat ≠ k then { s.cores[k] with event := s.cores[k].event ||| 4 }
    else s.cores[k]

/-- The address va translates for an access, and the line of HBM it reaches has no error, nor has the core's copy of it: the
state after the walk is u, which differs from s only in the core's translation cache, in its die walker's (R385, R386) and in what
the walk writes to the error log where it meets a line with an error (R405, R407). -/
structure Reaches (s : State) (nd : Need) (va pa : Nat) (u : State) : Prop where
  xlat : kxlat s nd va = (.ok pa, u)
  hbm : ∃ st off, target pa = .hbm st off
  good : u.badLines.contains (pa / 64) = false
  fine : ∀ e ∈ u.softLines, e.1 ≠ pa / 64
  copy : (curCore u).badCache.contains (pa / 64) = false

/-- The fields that R228 writes at the entry to a trap on vector v, and nothing else: PPRV, PIE, IE, PRV, KS_CAUSE, KS_TVAL,
KS_EPC and the pc (R227). A wait under way ends. -/
structure TrapTaken (s t : State) (async : Bool) (v code : Nat) (tval epc : Word64) : Prop where
  frame : t = setCore s { curCore s with status := (curCore t).status, cause := (curCore t).cause,
                                         tval := (curCore t).tval, epc := (curCore t).epc, pc := (curCore t).pc,
                                         wait := (curCore t).wait }
  pprv : (curCore t).pprv = (curCore s).prv
  pie : (curCore t).pie = (curCore s).ie
  ie : (curCore t).ie = false
  prv : (curCore t).prv = ((curCore s).prv || !(curCore s).tdeleg.getLsbD v)
  cause : (curCore t).cause = BitVec.ofNat 64 (b2n async * 2 ^ 63 + v * 256 + code)
  tval : (curCore t).tval = tval
  epc : (curCore t).epc = epc
  pc : (curCore t).pc = (if (curCore t).prv then (curCore s).ftvec else (curCore s).rtvec) + BitVec.ofNat 64 (64 * v)

/-- Every earlier store of the current core, and every write on a host path, is performed (R221, R281). -/
def Settled (s : State) : Prop := (curCore s).buf = [] ∧ s.hostOut = []

/-- The access of a load, store or atomic: its address, its bytes and the rights it needs (R220, R222, R224, R385). -/
def kettleAccess (s : State) : Instr → Option (Word64 × Nat × Need)
  | .kLd _ a i => some (kreg s a + i.signExtend 64, 8, { r := true })
  | .kLw _ a i => some (kreg s a + i.signExtend 64, 4, { r := true })
  | .kLwu _ a i => some (kreg s a + i.signExtend 64, 4, { r := true })
  | .kLbu _ a i => some (kreg s a + i.signExtend 64, 1, { r := true })
  | .kLdAcq _ a _ => some (kreg s a, 8, { r := true })
  | .kLwAcq _ a _ => some (kreg s a, 4, { r := true })
  | .kSd _ a i => some (kreg s a + i.signExtend 64, 8, { w := true })
  | .kSw _ a i => some (kreg s a + i.signExtend 64, 4, { w := true })
  | .kSb _ a i => some (kreg s a + i.signExtend 64, 1, { w := true })
  | .kSdRel a _ _ => some (kreg s a, 8, { w := true })
  | .kSwRel a _ _ => some (kreg s a, 4, { w := true })
  | .kAmoAdd _ a _ w _ _ => some (kreg s a, if w then 4 else 8, { r := true, w := true })
  | .kAmoSwp _ a _ w _ _ => some (kreg s a, if w then 4 else 8, { r := true, w := true })
  | .kAmoCas _ a _ w _ _ => some (kreg s a, if w then 4 else 8, { r := true, w := true })
  | .kAmoAnd _ a _ w _ _ => some (kreg s a, if w then 4 else 8, { r := true, w := true })
  | .kAmoOr _ a _ w _ _ => some (kreg s a, if w then 4 else 8, { r := true, w := true })
  | .kAmoMin _ a _ w _ _ _ => some (kreg s a, if w then 4 else 8, { r := true, w := true })
  | .kAmoMax _ a _ w _ _ _ => some (kreg s a, if w then 4 else 8, { r := true, w := true })
  | _ => none

/-- The register that a load writes and the value it makes of the n bytes that it read (R220, R222). -/
def kettleLoad : Instr → Option (KReg × (Nat → Word64))
  | .kLd d _ _ => some (d, fun v => BitVec.ofNat 64 v)
  | .kLw d _ _ => some (d, fun v => (BitVec.ofNat 32 v).signExtend 64)
  | .kLwu d _ _ => some (d, fun v => BitVec.ofNat 64 v)
  | .kLbu d _ _ => some (d, fun v => BitVec.ofNat 64 v)
  | .kLdAcq d _ _ => some (d, fun v => BitVec.ofNat 64 v)
  | .kLwAcq d _ _ => some (d, fun v => BitVec.ofNat 64 v)
  | _ => none

/-- The register that a plain store writes to memory (R220). -/
def kettleStore : Instr → Option KReg
  | .kSd r _ _ => some r
  | .kSw r _ _ => some r
  | .kSb r _ _ => some r
  | _ => none

/-- The register that a releasing store writes to memory, and whether its scope is `.sys` (R222). -/
def kettleRelease : Instr → Option (KReg × Bool)
  | .kSdRel _ b c => some (b, c)
  | .kSwRel _ b c => some (b, c)
  | _ => none

/-- What Table 9.3 says of an atomic: kd, the operation on the old value (of the width's bits), whether the old value is
zero-extended, and whether the operation is one of the three that host memory takes (R198, R224). -/
structure AmoForm where
  d : KReg
  a : KReg
  w : Bool
  rel : Bool
  sys : Bool
  u : Bool
  host : Bool
  new : Nat → Nat

/-- a < b, signed or unsigned, in n bytes. -/
def lessIn (n : Nat) (u : Bool) (x y : Nat) : Bool :=
  if u then x < y else (BitVec.ofNat (8 * n) x).slt (BitVec.ofNat (8 * n) y)

/-- Table 9.3. -/
def amoForm (s : State) : Instr → Option AmoForm
  | .kAmoAdd d a b w o c =>
    let m := if w then 2 ^ 32 else 2 ^ 64
    some ⟨d, a, w, o.getLsbD 1, c, false, true, fun x => (x + (kreg s b).toNat) % m⟩
  | .kAmoSwp d a b w o c =>
    let m := if w then 2 ^ 32 else 2 ^ 64
    some ⟨d, a, w, o.getLsbD 1, c, false, true, fun _ => (kreg s b).toNat % m⟩
  | .kAmoCas d a b w o c =>
    let m := if w then 2 ^ 32 else 2 ^ 64
    some ⟨d, a, w, o.getLsbD 1, c, false, true, fun x => if x = (kreg s d).toNat % m then (kreg s b).toNat % m else x⟩
  | .kAmoAnd d a b w o c =>
    let m := if w then 2 ^ 32 else 2 ^ 64
    some ⟨d, a, w, o.getLsbD 1, c, false, false, fun x => x &&& ((kreg s b).toNat % m)⟩
  | .kAmoOr d a b w o c =>
    let m := if w then 2 ^ 32 else 2 ^ 64
    some ⟨d, a, w, o.getLsbD 1, c, false, false, fun x => x ||| ((kreg s b).toNat % m)⟩
  | .kAmoMin d a b w o c u =>
    let m := if w then 2 ^ 32 else 2 ^ 64
    let y := (kreg s b).toNat % m
    some ⟨d, a, w, o.getLsbD 1, c, u, false, fun x => if lessIn (if w then 4 else 8) u x y then x else y⟩
  | .kAmoMax d a b w o c u =>
    let m := if w then 2 ^ 32 else 2 ^ 64
    let y := (kreg s b).toNat % m
    some ⟨d, a, w, o.getLsbD 1, c, u, false, fun x => if lessIn (if w then 4 else 8) u x y then y else x⟩
  | _ => none

/-- The old value as kd takes it (R224). -/
def AmoForm.old (f : AmoForm) (v : Nat) : Word64 :=
  if f.w && !f.u then (BitVec.ofNat 32 v).signExtend 64 else BitVec.ofNat 64 v

/-- Bytes of an atomic. -/
def AmoForm.bytes (f : AmoForm) : Nat := if f.w then 4 else 8

/-! ### The control and status registers (Table 9.6) -/

/-- Registers whose written bits read back as written, with the bits that a write may change, and whether only firmware may
write them (Tables 9.6, 9.9 and 9.10). -/
def plainCsrs : List (BitVec 12 × Word64 × Bool) :=
  [(0x002, 0x800000000000FFFF, true), (0x003, 0xFFFFFFFFFFFFFFFF, false), (0x004, 0xFFFFFFFFFFFFFFFF, true),
   (0x005, 0xFFFFFFFFFFFFFE00, true), (0x006, 0xFFFFFFFFFFFFFE00, false), (0x007, 0xFF, true), (0x008, 0x3, false),
   (0x00B, 0xFFFFFFFFFFFFFFFF, false), (0x00D, 0xFFFFFFFFFFFFFFFF, false), (0x010, 0x3F, false),
   (0x030, 0xFFFFFFFFFFFFFFFF, false), (0x031, 0xFFFFFFFFFFFFFFFF, false), (0x032, 0xFFFFFFFFFFFFFFFF, false),
   (0x033, 0xFFFFFFFFFFFFFFFF, false)]

/-- The registers that a write leaves alone: at both levels, or at runtime level (R225, Table 9.6). -/
def readOnlyCsrs (firmware : Bool) : List (BitVec 12) :=
  [0x000, 0x00C, 0x011, 0x012, 0x013, 0x014, 0x016, 0x017, 0x019] ++ (if firmware then [] else [0x002, 0x004, 0x007, 0x020])

/-- The registers of the region that KS_RSEL names (R226). -/
def selectedCsrs : List Nat := [0x011, 0x012, 0x013, 0x014, 0x015, 0x016, 0x017]

/-- The numbers of Table 9.6. -/
def listedCsrs : List (BitVec 12) :=
  [0x000, 0x001, 0x002, 0x003, 0x004, 0x005, 0x006, 0x007, 0x008, 0x009, 0x00A, 0x00B, 0x00C, 0x00D, 0x010, 0x011, 0x012,
   0x013, 0x014, 0x015, 0x016, 0x017, 0x018, 0x019, 0x020, 0x030, 0x031, 0x032, 0x033]

/-- CSR n holds v afterwards and the pc is one instruction further; every other CSR (but those of the region that KS_RSEL
names, when KS_RSEL is written), every register and every memory is as it was. -/
def SetsCsr (s t : State) (n : BitVec 12) (v : Word64) : Prop :=
  csrGet t n.toNat = v ∧
  (∀ k, k ≠ n.toNat → (n = 0x010 → k ∉ selectedCsrs) → csrGet t k = csrGet s k) ∧
  (∀ r, kreg t r = kreg s r) ∧ (curCore t).pc = (curCore s).pc + 4 ∧
  (curCore t).lmem = (curCore s).lmem ∧ t.hbm = s.hbm ∧ t.hostMem = s.hostMem ∧ t.hostOut = s.hostOut ∧
  (∀ k : Fin 32, s.cur.toNat ≠ k → t.cores[k] = s.cores[k])

/-! ### Fabric instructions -/

/-- The controller of the region r that v names by its handle is free to judge (R236, R237, R238): the core has no store held
back, v is a handle, LOAD and CUTP are 0 and no save is under way. -/
structure Free (s : State) (v : Word64) (r : Rgn) : Prop where
  done : (curCore s).buf = []
  small : v.toNat < 64
  rgn : r = ⟨curPart s, v.toNat⟩
  load : (getRegion s r).load = false
  cutp : (getRegion s r).cutp = false
  save : saving (getRegion s r) = false

/-- kd holds v afterwards (k0 keeps 0) and the pc is one instruction further; the other registers, HBM, host memory, the core's
local memory and every region but r are as they were. -/
structure Answers (s t : State) (d : KReg) (v : Word64) (r : Rgn) : Prop where
  regs : ∀ q, kreg t q = if q = d ∧ d ≠ 0 then v else kreg s q
  pc : (curCore t).pc = (curCore s).pc + 4
  lmem : (curCore t).lmem = (curCore s).lmem
  hbm : t.hbm = s.hbm
  host : t.hostMem = s.hostMem ∧ t.hostOut = s.hostOut
  others : ∀ q, q ≠ r → getRegion t q = getRegion s q

/-- Every core of the region's partition sees the event (R232): its bit of KS_REVT and REGION are 1. -/
def Posted (s t : State) (r : Rgn) : Prop :=
  ∀ k : Fin 32, ownsCore s r.part k = true → t.cores[k].revt.getLsbD (r.handle % 64) = true ∧ t.cores[k].event.getLsbD 0 = true

/-- The controller accepts (status 0), and P holds of the region afterwards. -/
def Accepts (i : Instr) (s : State) (d : KReg) (r : Rgn) (P : State → Region → Prop) : Prop :=
  Completes i s fun t => Answers s t d 0 r ∧ P t (getRegion t r)

/-- The fabric instructions that name a region by its handle alone: kd, the handle's register and the states in which the
controller accepts them (Table 9.12). -/
def fabricForm (s : State) : Instr → Option (KReg × Word64 × List Nat)
  | .kArm d a => some (d, kreg s a, [4])
  | .kArmOff d a => some (d, kreg s a, [1, 4, 5, 6])
  | .kPour d a _ => some (d, kreg s a, [1, 2, 3, 5])
  | .kLaunch d a _ => some (d, kreg s a, [1])
  | .kRstop d a => some (d, kreg s a, [2, 3])
  | .kRresume d a _ => some (d, kreg s a, [5])
  | .kRdrain d a _ => some (d, kreg s a, [2])
  | .kRsave d a _ => some (d, kreg s a, [5])
  | .kEvict d a _ => some (d, kreg s a, [2, 3])
  | .kShrink d a _ => some (d, kreg s a, [2, 3])
  | _ => none

/-- No lane group bound to the region is lost. -/
def LanesUp (s : State) (r : Rgn) : Prop :=
  ∀ l ∈ s.lanes, ∀ b, l.bind = some b → b.1 = r.part → b.2.1 = r.handle → l.lost = false ∧ l.up = true

/-! ### Firings -/

/-- A header but for what R292 and R326 add to a token on its way: its channel, poison, fault index and sequence fields. -/
def Hdr.plain (h : Hdr) : Hdr := { h with chan := 0, poison := false, fidx := 0, seq := false, seqp := 0, seqo := 0, seqs := 0 }

/-- A candidate has been chosen on an element of a region, for a data firing (R58). -/
structure Chosen (s : State) (f : Focus) : Prop where
  focus : s.focus = some f
  mode : f.mode = .data
  part : f.loc.part < 16
  elem : f.loc.elem < (getRegion s (rgnOf f.loc)).elems.length

/-- What a firing sends: channel, payload and plain header of each token, in order. -/
def Firing.sent (F : Firing) : List (Nat × Nat × Hdr) := F.outs.map fun o => (o.chan, o.tok.payload, o.tok.hdr.plain)

/-- A token on every channel of a destination entry, in ascending field order (R47). -/
def toEntry (e : Elem) (entry : Nat) (h : Hdr) (payload : Nat) : List (Nat × Nat × Hdr) :=
  (destChans e entry).map fun ch => (ch, payload, h.plain)

/-- The payload of an operand's token, or of the slot constant that stands for it (R93). -/
def Opd.payload (o : Opd) : Nat := o.data.payload

/-- The candidate issues (R59, R60): its firing joins those under way on its element, and P holds of the state and the firing. -/
def Issues (i : Instr) (s : State) (f : Focus) (P : State → Firing → Prop) : Prop :=
  Completes i s fun t => ∃ F, (getElem t f.loc).pending = (getElem s f.loc).pending ++ [F] ∧ F.slot = f.slot ∧ F.tag = f.tag ∧ P t F

/-- The candidate issues and sends exactly one token to an entry. -/
def Sends (i : Instr) (s : State) (f : Focus) (entry : Nat) (h : Hdr) (payload : Nat) : Prop :=
  Issues i s f fun _ F => F.sent = toEntry (getElem s f.loc) entry h payload

/-- The candidate issues and sends one token to its DEST entry, whose first n lanes of w bits are v 0, v 1, … -/
def SendsLanes (i : Instr) (s : State) (f : Focus) (w : OpWord) (h : Hdr) (wd n : Nat) (v : Nat → Nat) : Prop :=
  Issues i s f fun _ F => ∃ p, F.sent = toEntry (getElem s f.loc) w.dest.toNat h p ∧ ∀ k < n, lane wd p k = v k % 2 ^ wd

/-- The same, and the firing raises the flags of these lanes, fl 0, fl 1, …, together (R40). -/
def SendsFlagged (i : Instr) (s : State) (f : Focus) (w : OpWord) (h : Hdr) (wd n : Nat) (v : Nat → Nat) (fl : Nat → Flags) : Prop :=
  SendsLanes i s f w h wd n v ∧ Issues i s f fun _ F => F.flags = orFlags ((List.range n).map fl)

/-- The candidate issues, and every token that it sends has poison p, with the fault index x where it is poisoned (R326). -/
def Marks (i : Instr) (s : State) (f : Focus) (p : Bool) (x : Nat) : Prop :=
  Issues i s f fun _ F => ∀ o ∈ F.outs, o.tok.hdr.poison = p ∧ o.tok.hdr.fidx = if p then x else 0

/-- A value orders below another; −0 orders below +0 (R124). -/
abbrev FVal.below (x y : FVal) : Prop := cmpF x y = .lt ∨ (cmpF x y = .eq ∧ x.neg = true ∧ y.neg = false)

/-- `group_sum` (R38) after n groups of g products of a row and a column, with the scales of an MX form: each group's exact sum is
rounded to FP32, then added to the cell and rounded. No operand is a NaN. -/
def groupCell (f : Fmt) (ftz : Bool) (acc : Nat) (a b : Nat → Nat) (sa sb : Nat → Nat) : Nat → Nat
  | 0 => acc
  | n + 1 =>
    let g := if f = .mxfp4 then 32 else if f = .bf16 ∨ f = .fp16 then 4 else 8
    let val (c : Nat) : FVal := decodeF f.lay ftz c
    let s := (sumF .rne ((List.range g).map fun j => (mulF (val (a (g * n + j))) (val (b (g * n + j)))).1)).1
    let x : FVal := if f.isMx then (if sa n = 255 ∨ sb n = 255 then .nan false false else match s with
        | .fin m p q => .fin m (p * (scaleRatio (sa n)).1 * (scaleRatio (sb n)).1) (q * (scaleRatio (sa n)).2 * (scaleRatio (sb n)).2)
        | v => v)
      else s
    let t := (roundFp layFp32 .rne false ftz 0 x).1
    (roundFp layFp32 .rne false ftz 0 (sumF .rne [decodeF layFp32 ftz t, decodeF layFp32 ftz (groupCell f ftz acc a b sa sb n)]).1).1

/-- The same for INT8: each group's exact sum is added to the INT32 cell, clamped to its range (R38). -/
def groupCellInt (acc : Nat) (a b : Nat → Nat) : Nat → Nat
  | 0 => acc
  | n + 1 =>
    let s := ((List.range 8).map fun j => intVal .int8 (a (8 * n + j)) * intVal .int8 (b (8 * n + j))).sum
    uval 32 (max (intMin .int32) (min (intMax .int32) (intVal .int32 (groupCellInt acc a b n) + s)))

/-- The candidate meets a stopping cause (R61, R328): nothing of its element changes, and its record is queued. -/
def Stops (i : Instr) (s : State) (f : Focus) (x : FRec) : Prop :=
  Completes i s fun t =>
    let g := getRegion s (rgnOf f.loc)
    let h := getRegion t (rgnOf f.loc)
    h.elems = g.elems ∧ h.chans = g.chans ∧ h.stopping = true ∧ t.focus = none ∧
    h.stopAt = some (g.stopAt.getD (f.loc.elem, f.slot, f.tag)) ∧
    (g.recorded.contains (x.cause, f.loc.elem, f.slot, f.tag, 0) = false → g.faultq.length < 32 →
      h.faultq = queueRec (recordBits s g (atElem s f.loc { x with slot := f.slot, tag := f.tag })) g.faultq)

/-- The elementary functions and their opcodes (Table 7.1). -/
def functionOps (w : OpWord) : List (Instr × Nat) :=
  [(.opExp w, 0x80), (.opExp2 w, 0x81), (.opLog w, 0x82), (.opLog2 w, 0x83), (.opLog1p w, 0x84), (.opExpm1 w, 0x85),
   (.opSin w, 0x86), (.opCos w, 0x87), (.opSinpi w, 0x88), (.opCospi w, 0x89), (.opTanh w, 0x8A), (.opLogistic w, 0x8B),
   (.opErf w, 0x8C), (.opGelu w, 0x8D), (.opRsqrt w, 0x8E), (.opSqrt w, 0x8F), (.opRcp w, 0x90)]

/-- The lane-by-lane and reduction forms (Tables 5.3 and 5.6). -/
def laneOps (w : OpWord) : List Instr :=
  [.opAdd w, .opSub w, .opMul w, .opMad w, .opMin w, .opMax w, .opAbs w, .opNeg w, .opCmp w, .opSel w, .opClamp w, .opDiv w,
   .opLdexp w, .opFrexp w, .opDot w, .opAnd w, .opOr w, .opXor w, .opNot w, .opShl w, .opShr w, .opSra w, .opPopc w, .opClz w,
   .opCvt w, .opExpand w, .opPack w, .opUnpack w, .opShuf w, .opBcast w, .opIota w, .opRand w, .opRsum w, .opRmax w, .opRmin w,
   .opRsumM w]

/-! ### Events -/

/-- The element exists, and its region runs (R265). -/
structure Live (s : State) (l : Loc) : Prop where
  part : l.part < 16
  elem : l.elem < (getRegion s (rgnOf l)).elems.length
  run : running (getRegion s (rgnOf l)) = true

/-- What an event of one region leaves alone: HBM, host memory, the links, every other region, and all of the kettle cores but
their event bits. -/
structure Local (s t : State) (r : Rgn) : Prop where
  hbm : t.hbm = s.hbm
  host : t.hostMem = s.hostMem ∧ t.hostOut = s.hostOut
  lanes : t.lanes = s.lanes
  regions : ∀ q, q ≠ r → getRegion t q = getRegion s q
  cores : ∀ k : Fin 32, t.cores[k] = { s.cores[k] with event := t.cores[k].event, revt := t.cores[k].revt }

/-- The region meets a stopping cause: it is stopping, and where the cause has not been met in this stop and the queue has room,
the record is queued: behind those of earlier clks, and among those of its own clk in the order of R337 (R328, R248). -/
def MeetsStop (s t : State) (r : Rgn) (x : FRec) (key : Nat × Nat × Nat × Nat × Nat) : Prop :=
  (getRegion t r).stopping = true ∧
  ((getRegion s r).recorded.contains key = false → (getRegion s r).faultq.length < 32 →
    (getRegion t r).faultq = queueRec (recordBits s (getRegion s r) x) (getRegion s r).faultq)

/-- Piece k of access n of an element's port may be performed there now (R187, R332), each element of it on one line of HBM
that has no error; the access holds back no release at `.sys`. -/
structure MayPerform (s : State) (l : Loc) (n k : Nat) (a : Access) (p : Piece) : Prop where
  acc : getAccess s l n = some a
  piece : pieceOpen a k = some p
  turn : mayPerform s l n a p = true
  copy : copyReady a p = true
  near : p.remote a = false
  rel : (a.rel && a.scope == 2) = false
  hbm : ∀ e ∈ p.els, ∃ st off, target (a.phys e.2) = .hbm st off
  line : ∀ e ∈ p.els, a.phys e.2 % 64 + a.width / 8 ≤ 64
  good : ∀ e ∈ p.els, s.badLines.contains (a.phys e.2 / 64) = false ∧ ∀ x ∈ s.softLines, x.1 ≠ a.phys e.2 / 64

/-- Access n of a port, whose turn has come, goes through the layout records r and q, which the port holds, at origin i (R181,
R183, R185); no page is cached for it and the image binds no remote window. -/
structure MayStart (s : State) (l : Loc) (n : Nat) (a : Access) (r q : Layout) (i : List Int) : Prop where
  acc : getAccess s l n = some a
  fresh : a.begun = false ∧ a.held = none ∧ a.ended = false ∧ a.eos = false ∧ a.poison = false ∧ a.fill = none
  turn : mayBegin (getRegion s (rgnOf l)) (getElem s l) n a = true
  layout : (cachedLayout (getElem s l) (mdHandle a.desc)).map layoutOf = some r
  second : if a.op = 0xA6 ∨ a.op = 0xA8 then (cachedLayout (getElem s l) (mdHandle2 a.desc)).map layoutOf = some q else q = r
  origin : a.coords = some i ∨ (a.coords = none ∧ a.isGen = false ∧ i = coordsOf (a.a.getD {})) ∨
    (a.coords = none ∧ a.isGen = true ∧ ∃ u, nestTuple ((lookupKey (getElem s l).port.nests a.stream).getD {}) = some (i, u))
  tlb : (getElem s l).port.tlb = []
  near : ∀ b ∈ (getRegion s (rgnOf l)).img.links, b.form ≠ 1

/-- The pieces of an access hold exactly these elements, as index and address, none of them performed yet; a piece keeps to one
line (R187). -/
def Access.covers (b : Access) (els : List (Nat × Nat)) (wr rmw : Bool) : Prop :=
  (∀ x, (∃ p ∈ b.pieces, x ∈ p.els) ↔ x ∈ els) ∧
  ∀ p ∈ b.pieces, p.wr = wr ∧ p.rmw = rmw ∧ p.done = false ∧ ∀ x ∈ p.els, ∀ y ∈ p.els, x.2 / 64 = y.2 / 64

/-- An element stops an access at its record (R180): in bounds and past the virtual space, or out of bounds under fault. -/
def Layout.refuses (r : Layout) (i : List Int) : Bool := if r.inBounds i then decide (2 ^ 56 ≤ r.addr i) else r.fault

/-- The in-bounds elements, as index and address. -/
def Layout.reach (r : Layout) (l : List (Nat × List Int)) : List (Nat × Nat) :=
  (l.filter fun e => r.inBounds e.2).map fun e => (e.1, r.addr e.2)

/-- The new value of an atomic, if any, and its STAT (Table 8.5), in a format, from the old value and operands b and c. -/
def atomicTable (f : Fmt) (ftz : Bool) (op old b c : Nat) : Option Nat × Nat :=
  let w := 2 ^ f.width
  let x := decodeF f.lay ftz old
  let y := decodeF f.lay ftz b
  let fp (v : FVal) : Nat := (roundFp f.lay .rne false ftz 0 v).1
  match op with
  | 0xB0 => (some (if f.isFloat then fp (sumF .rne [x, y]).1 else (old + b) % w), 0)
  | 0xB1 => (some (if f.isFloat then fp (extremeF false false x y) else uval f.width (min (intVal f old) (intVal f b))), 0)
  | 0xB2 => (some (if f.isFloat then fp (extremeF true false x y) else uval f.width (max (intVal f old) (intVal f b))), 0)
  | 0xB3 => (some (old &&& b), 0)
  | 0xB4 => (some (old ||| b), 0)
  | 0xB5 => (some (old ^^^ b), 0)
  | 0xB6 => (some b, 0)
  | 0xB7 => if old = b then (some c, 0) else (none, 4)
  | _ => if intVal f old < intVal f b then (some ((old + 1) % w), 0) else (none, 1)

/-! ### The invariant of a step -/

/-- A kettle core: its pc is a multiple of 4 and k0 holds 0 (R210), its local memory has its canonical form, and the reserved
bits of its control registers read 0 (R16, R226, Tables 9.6, 9.8 and 9.10). -/
structure CoreOk (c : Core) : Prop where
  pc : c.pc &&& 3 = 0
  k0 : c.regs[0] = 0
  lmem : Memory.wf c.lmem = true
  status : c.status &&& 0xFFFFFFFFFFFFFF3C = 0
  event : c.event &&& 0xFFFFFFFFFFFFFFF8 = 0
  ien : c.ien &&& 0xFFFFFFFFFFFFFFFC = 0
  tdeleg : c.tdeleg &&& 0xFFFFFFFFFFFFFF00 = 0
  rsel : c.rsel &&& 0xFFFFFFFFFFFFFFC0 = 0
  ftvec : c.ftvec &&& 0x1FF = 0
  rtvec : c.rtvec &&& 0x1FF = 0

/-- What every step keeps: the canonical form of the memories, the cores as above, an ACTMAX of at least 256 (R409), a clock
that is stretched by at most four eighths (R415). -/
structure Inv (s : State) : Prop where
  hbm : Memory.wf s.hbm = true
  hostMem : Memory.wf s.hostMem = true
  cores : ∀ k : Fin 32, CoreOk s.cores[k]
  actmax : ∀ q ∈ s.isobar, 256 ≤ q.1
  stretch : ∀ x ∈ s.stretch, x ≤ 4

end Sys2Proof.Machine
end

