-- ==== Sys2Proof/Certificates/Slice0/Obligations.lean ====
section
/-! DEFINITION. The statements for the provers. -/

open Sys2Proof Sys2Proof.Machine

/-! ### Kettle cores -/

/-- R217, Table 9.2: each ALU function's value, for every pair of registers; the quotient of −2⁶³ by −1 is −2⁶³ and the remainder
0; k0 keeps 0 (R210); the pc moves on by one
instruction and nothing else changes. -/
def Obligations.KettleAluResults : Prop :=
  ∀ (s : State) (d a b : KReg),
    let x := kreg s a
    let y := kreg s b
    let gives (i : Instr) (v : Word64) : Prop := Completes i s fun t => SetsReg s t d v
    gives (.kAdd d a b) (x + y) ∧ gives (.kSub d a b) (x - y) ∧ gives (.kAnd d a b) (x &&& y) ∧ gives (.kOr d a b) (x ||| y) ∧
    gives (.kXor d a b) (x ^^^ y) ∧ gives (.kShl d a b) (x <<< (y.toNat % 64)) ∧ gives (.kShr d a b) (x >>> (y.toNat % 64)) ∧
    gives (.kSra d a b) (x.sshiftRight (y.toNat % 64)) ∧ gives (.kSlt d a b) (if x.toInt < y.toInt then 1 else 0) ∧
    gives (.kSltu d a b) (if x.toNat < y.toNat then 1 else 0) ∧ gives (.kMul d a b) (x * y) ∧
    gives (.kMulh d a b) ((x.signExtend 128 * y.signExtend 128).extractLsb' 64 64) ∧
    gives (.kMulhu d a b) ((x.zeroExtend 128 * y.zeroExtend 128).extractLsb' 64 64) ∧
    gives (.kDiv d a b) (if y = 0 then 0xFFFFFFFFFFFFFFFF else x.sdiv y) ∧
    gives (.kDivu d a b) (if y = 0 then 0xFFFFFFFFFFFFFFFF else BitVec.ofNat 64 (x.toNat / y.toNat)) ∧
    gives (.kRem d a b) (if y = 0 then 0xFFFFFFFFFFFFFFFF else x - x.sdiv y * y) ∧
    gives (.kRemu d a b) (if y = 0 then 0xFFFFFFFFFFFFFFFF else BitVec.ofNat 64 (x.toNat % y.toNat)) ∧
    (x = 0x8000000000000000 → y = 0xFFFFFFFFFFFFFFFF → gives (.kDiv d a b) 0x8000000000000000 ∧ gives (.kRem d a b) 0) ∧
    -- op 0x00 with fn 0 to 16 is these seventeen, in this order; every other fn is undefined
    (∀ n : BitVec 11, decodeKettle ((0 : BitVec 6) ++ d ++ a ++ b ++ n) = match [Instr.kAdd d a b, .kSub d a b, .kAnd d a b, .kOr d a b,
      .kXor d a b, .kShl d a b, .kShr d a b, .kSra d a b, .kSlt d a b, .kSltu d a b, .kMul d a b, .kMulh d a b, .kMulhu d a b,
      .kDiv d a b, .kDivu d a b, .kRem d a b, .kRemu d a b][n.toNat]? with | some i => .ok i | none => .error .fn)

/-- R218: the I-form arithmetic, and the values that its immediates and unused fields admit. -/
def Obligations.KettleImmediateResults : Prop :=
  ∀ (s : State) (d a : KReg) (i : BitVec 16) (k : BitVec 6),
    let x := kreg s a
    let gives (j : Instr) (v : Word64) : Prop := Completes j s fun t => SetsReg s t d v
    gives (.kAddi d a i) (x + i.signExtend 64) ∧ gives (.kAndi d a i) (x &&& i.zeroExtend 64) ∧
    gives (.kOri d a i) (x ||| i.zeroExtend 64) ∧ gives (.kXori d a i) (x ^^^ i.zeroExtend 64) ∧
    gives (.kShli d a k) (x <<< k.toNat) ∧ gives (.kShri d a k) (x >>> k.toNat) ∧
    gives (.kSrai d a k) (x.sshiftRight k.toNat) ∧
    gives (.kSlti d a i) (if x.toInt < (i.signExtend 64).toInt then 1 else 0) ∧
    gives (.kLui d i) (i.signExtend 64 <<< 16) ∧
    -- imm16[15:6] = 0 in a shift, ka = 0 in `lui`
    (∀ w : Word32, w.extractLsb' 26 6 = 5 ∨ w.extractLsb' 26 6 = 6 ∨ w.extractLsb' 26 6 = 7 →
      ((∃ j, decodeKettle w = .ok j) ↔ w.extractLsb' 6 10 = 0)) ∧
    (∀ w : Word32, w.extractLsb' 26 6 = 9 → ((∃ j, decodeKettle w = .ok j) ↔ w.extractLsb' 16 5 = 0))

/-- R214, R219: a branch goes to its own address + 4 × its signed offset where its comparison holds, and on where it does not; the
jumps go where they say; `jal` and `jalr` write their link; `jalr` reads ka before it writes kd. Nothing else changes. The fetch
at a target that reaches nothing raises KETTLE_ACCESS with KS_EPC the target. -/
def Obligations.KettleControlFlow : Prop :=
  (∀ (s : State) (a b : KReg) (o : BitVec 16),
     let x := kreg s a
     let y := kreg s b
     let pc := (curCore s).pc
     let goes (i : Instr) (c : Prop) : Prop :=
       (c → Completes i s fun t => SetsPc s t (pc + 4 * o.signExtend 64)) ∧ (¬c → Completes i s fun t => SetsPc s t (pc + 4))
     goes (.kBeq a b o) (x = y) ∧ goes (.kBne a b o) (x ≠ y) ∧ goes (.kBlt a b o) (x.toInt < y.toInt) ∧
     goes (.kBge a b o) (y.toInt ≤ x.toInt) ∧ goes (.kBltu a b o) (x.toNat < y.toNat) ∧ goes (.kBgeu a b o) (y.toNat ≤ x.toNat)) ∧
  (∀ (s : State) (d a : KReg) (i : BitVec 16) (o : BitVec 26),
     let pc := (curCore s).pc
     (Completes (.kJ o) s fun t => SetsPc s t (pc + 4 * o.signExtend 64)) ∧
     (Completes (.kJal o) s fun t => ∃ u, SetsReg s u 31 (pc + 4) ∧ SetsPc u t (pc + 4 * o.signExtend 64)) ∧
     (Completes (.kJalr d a i) s fun t => ∃ u, SetsReg s u d (pc + 4) ∧
       SetsPc u t ((kreg s a + i.signExtend 64) &&& 0xFFFFFFFFFFFFFFFC))) ∧
  -- the fetch at a target that reaches nothing
  (∀ s : State, s.powered = true → s.agenda = [] → (curCore s).started = true → (curCore s).ie = false → (curCore s).wait = none →
     2 ^ 56 ≤ (curCore s).pc.toNat → ∃ t, step s = .next t ∧
       TrapTaken (setCore s ((curCore s).timer s.ns)) t false 1 0x71 (curCore s).pc (curCore s).pc)

/-- R212, R220, R227, R406: a misaligned address, or one that reaches nothing, raises KETTLE_ACCESS with the address; a
translation that fails raises the memory trap with its cause and the address, and a line of local memory or of the core's cache
with an error that no code corrects the memory trap with UNCORRECTABLE; nothing of the access happens. For every load, store and
atomic. -/
def Obligations.KettleAccessTraps : Prop :=
  ∀ (s : State) (i : Instr) (va : Word64) (n : Nat) (nd : Need), kettleAccess s i = some (va, n, nd) →
    (va.toNat % n ≠ 0 → Completes i s fun t => TrapTaken s t false 1 0x71 va (curCore s).pc) ∧
    (2 ^ 56 ≤ va.toNat → Completes i s fun t => TrapTaken s t false 1 0x71 va (curCore s).pc) ∧
    (∀ e u, va.toNat % n = 0 → 0x80000 ≤ va.toNat → va.toNat < 2 ^ 56 → kxlat s nd va.toNat = (.error e, u) →
      Completes i s fun t => TrapTaken u t false 2 e.code va (curCore s).pc) ∧
    (va.toNat % n = 0 → va.toNat < 0x80000 → (curCore s).badLocal.contains (va.toNat / 64) = true →
      Completes i s fun t => TrapTaken s t false 2 0x12 va (curCore s).pc) ∧
    (∀ pa u st off, va.toNat % n = 0 → 0x80000 ≤ va.toNat → va.toNat < 2 ^ 56 → kxlat s nd va.toNat = (.ok pa, u) →
      target pa = .hbm st off → (curCore u).badCache.contains (pa / 64) = true →
      Completes i s fun t => TrapTaken u t false 2 0x12 va (curCore s).pc)

/-- R212, R220, R222: a load from the core's local memory, below 0x80000: kd takes the bytes at the address, little-endian,
as the instruction extends them; nothing else changes. -/
def Obligations.KettleLocalLoads : Prop :=
  ∀ (s : State) (i : Instr) (va : Word64) (n : Nat) (nd : Need) (d : KReg) (f : Nat → Word64),
    kettleAccess s i = some (va, n, nd) → kettleLoad i = some (d, f) → va.toNat % n = 0 → va.toNat < 0x80000 →
    (curCore s).badLocal.contains (va.toNat / 64) = false →
    Completes i s fun t => SetsReg s t d (f (readBytes (curCore s).lmem va.toNat n))

/-- R220 to R222: a load from HBM through the page table: kd takes the bytes of the line, the core's own latest stores among
them (R221); nothing changes otherwise but what the walk leaves in the translation caches and, where it meets a line with an
error, in the error log. -/
def Obligations.KettleHbmLoads : Prop :=
  ∀ (s u : State) (i : Instr) (va : Word64) (n pa : Nat) (nd : Need) (d : KReg) (f : Nat → Word64),
    kettleAccess s i = some (va, n, nd) → kettleLoad i = some (d, f) → va.toNat % n = 0 → 0x80000 ≤ va.toNat →
    va.toNat < 2 ^ 56 → Reaches s nd va.toNat pa u →
    Completes i s fun t => SetsReg u t d (f (bufOver (curCore s).buf pa n (readBytes u.hbm pa n)))

/-- R212, R220, R222: a store to the core's local memory, on a line without an uncorrectable error, writes its n low bytes there
and nowhere else; a releasing store does so once the core's earlier accesses are performed. -/
def Obligations.KettleLocalStores : Prop :=
  ∀ (s : State) (i : Instr) (va : Word64) (n : Nat) (nd : Need),
    kettleAccess s i = some (va, n, nd) → va.toNat % n = 0 → va.toNat < 0x80000 →
    (curCore s).badLocal.contains (va.toNat / 64) = false →
    (∀ r, kettleStore i = some r →
      Completes i s fun t => ∃ m, WritesLocal s m va.toNat n (kreg s r).toNat ∧ SetsPc m t ((curCore s).pc + 4)) ∧
    (∀ r c, kettleRelease i = some (r, c) → Settled s →
      Completes i s fun t => ∃ m, WritesLocal s m va.toNat n (kreg s r).toNat ∧ SetsPc m t ((curCore s).pc + 4))

/-- R220 to R222, R274 (that a plain store is performed at once, or joins one queue in program order: the model's choice, log
entry 44): a store to HBM writes its n low bytes at the translated address and nowhere else. A plain store of a core that holds
none back is performed at once; of a core that does, it joins the end of the core's stores in program order. A releasing store
is performed at once after the core's earlier accesses. -/
def Obligations.KettleHbmStores : Prop :=
  ∀ (s u : State) (i : Instr) (va : Word64) (n pa : Nat) (nd : Need),
    kettleAccess s i = some (va, n, nd) → va.toNat % n = 0 → 0x80000 ≤ va.toNat → va.toNat < 2 ^ 56 →
    Reaches s nd va.toNat pa u →
    (∀ r, kettleStore i = some r → s.holding.contains s.cur.toNat = false → (curCore s).buf = [] →
      Completes i s fun t => ∃ m, WritesHbm u m pa n (kreg s r).toNat ∧ SetsPc m t ((curCore s).pc + 4)) ∧
    (∀ r, kettleStore i = some r → s.holding.contains s.cur.toNat = true ∨ (curCore s).buf ≠ [] →
      Completes i s fun t => t = setCore u { curCore u with
        buf := (curCore s).buf ++ [⟨pa, n, (kreg s r).toNat % 2 ^ (8 * n)⟩], pc := (curCore s).pc + 4 }) ∧
    (∀ r c, kettleRelease i = some (r, c) → Settled s → u.hostOut = [] →
      Completes i s fun t => ∃ m, WritesHbm u m pa n (kreg s r).toNat ∧ SetsPc m t ((curCore s).pc + 4))

/-- R224, Tables 9.3 and 9.4: an atomic reads its n bytes, writes the operation's result there in the same step, and gives kd
the old value; on the core's local memory and on HBM. -/
def Obligations.KettleAtomics : Prop :=
  ∀ (s : State) (i : Instr) (f : AmoForm), amoForm s i = some f → (kreg s f.a).toNat % f.bytes = 0 → Settled s →
    let va := (kreg s f.a).toNat
    (va < 0x80000 → (curCore s).badLocal.contains (va / 64) = false →
      let old := readBytes (curCore s).lmem va f.bytes
      Completes i s fun t => ∃ m, WritesLocal s m va f.bytes (f.new old) ∧ SetsReg m t f.d (f.old old)) ∧
    (∀ pa u, 0x80000 ≤ va → va < 2 ^ 56 → Reaches s { r := true, w := true } va pa u → u.hostOut = [] →
      let old := readBytes u.hbm pa f.bytes
      Completes i s fun t => ∃ m, WritesHbm u m pa f.bytes (f.new old) ∧ SetsReg m t f.d (f.old old))

/-- R198, R224 (host memory is one array by bus address, whichever port reaches it: the model's choice, log entry 3): on host
memory `amo.add`, `amo.swp` and `amo.cas` read the bytes that a load through the port reads, write the host's bytes at that bus
address and give kd the old value; the other four have no PCIe AtomicOp and raise the memory trap with PERMISSION. -/
def Obligations.KettleHostAtomics : Prop :=
  ∀ (s u : State) (i : Instr) (f : AmoForm) (pa port bus : Nat), amoForm s i = some f →
    let va := (kreg s f.a).toNat
    va % f.bytes = 0 → 0x80000 ≤ va → va < 2 ^ 56 → kxlat s { r := true, w := true } va = (.ok pa, u) →
    target pa = .host port bus →
    (f.host = false → Completes i s fun t => TrapTaken u t false 2 0x11 (kreg s f.a) (curCore s).pc) ∧
    (f.host = true → Settled s → u.hostOut = [] →
      let old := physRead u pa f.bytes
      old = readBytes s.hostMem bus f.bytes ∧
      Completes i s fun t => kreg t = (fun r => if r = f.d ∧ f.d ≠ 0 then f.old old else kreg s r) ∧
        (curCore t).pc = (curCore s).pc + 4 ∧ t.hostOut = [] ∧ t.hbm = u.hbm ∧
        t.hostMem = writeBytes s.hostMem bus f.bytes (f.new old))

/-- R216, R227 to R229, R231, Table 9.7 (KS_TVAL of a denied `tret`, the value of KS_EPC: the model's choice, log entry 45):
`trap` raises vector 3 with its immediate and KS_EPC behind it; an undefined word raises vector 0 with the word; `tret` sets PRV
:= PPRV, IE := PIE and the pc to KS_EPC (R210: a pc is a multiple of 4) and changes nothing else, and raises KETTLE_ACCESS at
runtime level with PPRV = 1. With IE = 1, vector 4 is taken where REGION is pending and enabled; vector 5 where only TIMER is,
and KS_TIME has not fallen below KS_TIMECMP; KS_EPC is the pc, and a wait under way ends. -/
def Obligations.KettleTraps : Prop :=
  ∀ (s : State),
    let c := curCore s
    (∀ i : BitVec 16, Completes (.kTrap i) s fun t => TrapTaken s t false 3 0x40 (i.zeroExtend 64) (c.pc + 4)) ∧
    (∀ w : Word32, Completes (.evUndefinedEncoding w) s fun t => TrapTaken s t false 0 0x70 (w.zeroExtend 64) c.pc) ∧
    (c.prv = true ∨ c.pprv = false → Completes .kTret s fun t =>
      t = setCore s { c with status := (curCore t).status, pc := c.epc &&& 0xFFFFFFFFFFFFFFFC } ∧
      (curCore t).prv = c.pprv ∧ (curCore t).ie = c.pie ∧ (curCore t).pprv = c.pprv ∧ (curCore t).pie = c.pie) ∧
    (c.prv = false → c.pprv = true → Completes .kTret s fun t => TrapTaken s t false 1 0x71 c.epc c.pc) ∧
    (let region := c.event.getLsbD 0 = true ∧ c.ien.getLsbD 0 = true
     let timer := c.event.getLsbD 1 = true ∧ c.ien.getLsbD 1 = true ∧ c.timecmp.toNat ≤ s.ns % 2 ^ 64
     (c.ie = true → region → Completes .evAsyncTrap s fun t => TrapTaken s t true 4 0 0 c.pc ∧ (curCore t).wait = none) ∧
     (c.ie = true → ¬region → timer → Completes .evAsyncTrap s fun t =>
       TrapTaken s t true 5 0 (BitVec.ofNat 64 s.ns) c.pc ∧ (curCore t).wait = none) ∧
     (c.ie = false → Completes .evAsyncTrap s fun t => t = s))

/-- R225, R226, Table 9.6: what `csrr` reads of every register that the level may read. -/
def Obligations.CsrReads : Prop :=
  ∀ (s : State) (d : KReg),
    let c := curCore s
    let g := getRegion s ⟨curPart s, c.rsel.toNat % 64⟩
    let reads (n : BitVec 12) (v : Word64) : Prop := Completes (.kCsrr d n) s fun t => SetsReg s t d v
    reads 0x000 (BitVec.ofNat 64 (0x7E08 * 2 ^ 48 + 0x01 * 2 ^ 40 + curPart s * 2 ^ 8 + s.cur.toNat)) ∧
    reads 0x001 c.status ∧ reads 0x002 c.cause ∧ reads 0x003 c.epc ∧ reads 0x004 c.tval ∧
    (c.prv = true → reads 0x005 c.ftvec) ∧ reads 0x006 c.rtvec ∧ reads 0x007 c.tdeleg ∧ reads 0x008 c.ien ∧
    reads 0x009 c.event ∧ reads 0x00A c.mona ∧ reads 0x00B c.wlimit ∧ reads 0x00C (BitVec.ofNat 64 s.ns) ∧
    reads 0x00D c.timecmp ∧ reads 0x010 c.rsel ∧
    reads 0x011 (BitVec.ofNat 64 (g.st % 16 + b2n g.shrp * 2 ^ 5 + b2n g.load * 2 ^ 6 + b2n g.cutp * 2 ^ 7 + g.foot % 4 * 2 ^ 8
      + g.faultq.length % 2 ^ 16 * 2 ^ 16 + g.pour % 2 ^ 16 * 2 ^ 32)) ∧
    reads 0x012 (g.rflags.zeroExtend 64) ∧ reads 0x013 (BitVec.ofNat 64 g.launch) ∧
    reads 0x014 (BitVec.ofNat 64 g.rcause) ∧ reads 0x015 (if g.brken then 1 else 0) ∧
    reads 0x016 (BitVec.ofNat 64 (saveSize s g)) ∧ reads 0x017 (BitVec.ofNat 64 g.fltlost) ∧ reads 0x018 c.revt ∧
    reads 0x019 c.scrubu ∧ reads 0x020 (BitVec.ofNat 64 (getPart s (curPart s)).ptbase) ∧ reads 0x030 c.scratch[0] ∧
    reads 0x031 c.scratch[1] ∧ reads 0x032 c.scratch[2] ∧ reads 0x033 c.scratch[3]

/-- R225, R226 (the writable bits of KS_CAUSE and KS_TDELEG, [63] with [15:0] and [7:0]: the model's choice, log entry 45):
`csrw`, `csrs` and `csrc` on the plain registers of Table 9.6 write, set and clear the bits that may change, and no other
register, memory or core; a register that is read-only at the level ignores them. -/
def Obligations.CsrWrites : Prop :=
  ∀ (s : State) (a : KReg) (n : BitVec 12),
    let v := kreg s a
    (∀ m f, (n, m, f) ∈ plainCsrs → (f = true → (curCore s).prv = true) →
      let old := csrGet s n.toNat
      (Completes (.kCsrw a n) s fun t => SetsCsr s t n ((old &&& ~~~m) ||| (v &&& m))) ∧
      (Completes (.kCsrs a n) s fun t => SetsCsr s t n (old ||| (v &&& m))) ∧
      (Completes (.kCsrc a n) s fun t => SetsCsr s t n (old &&& ~~~(v &&& m)))) ∧
    (n ∈ readOnlyCsrs (curCore s).prv →
      (Completes (.kCsrw a n) s fun t => SetsPc s t ((curCore s).pc + 4)) ∧
      (Completes (.kCsrs a n) s fun t => SetsPc s t ((curCore s).pc + 4)) ∧
      (Completes (.kCsrc a n) s fun t => SetsPc s t ((curCore s).pc + 4)))

/-- R226, R384, R15 (that KS_PTBASE keeps [51:20] and is one register of the partition: the model's choice, log entry 45):
KS_PTBASE is the partition's and holds a 1 MiB aligned address below 2^52; KS_BRKEN is the selected region's; the writes to
KS_STATUS, KS_EVENT, KS_MONA and KS_REVT are the steps of their names, and `csrc` leaves the two W1C registers alone. -/
def Obligations.CsrSpecialWrites : Prop :=
  ∀ (s : State) (a : KReg),
    let v := kreg s a
    ((curCore s).prv = true → Completes (.kCsrw a 0x020) s fun t => SetsCsr s t 0x020 (v &&& 0x000FFFFFFFF00000)) ∧
    (Completes (.kCsrw a 0x015) s fun t =>
      (getRegion t (selRgn s)).brken = v.getLsbD 0 ∧ csrGet t 0x015 = v &&& 1 ∧ (curCore t).pc = (curCore s).pc + 4 ∧
      ∀ r, kreg t r = kreg s r) ∧
    exec (.kCsrw a 0x001) s = exec (.evKsStatusWrite v) s ∧ exec (.kCsrw a 0x009) s = exec (.evKsEventWrite v) s ∧
    exec (.kCsrw a 0x00A) s = exec (.evKsMonaWrite v) s ∧ exec (.kCsrw a 0x018) s = exec (.evKsRevtWrite v) s ∧
    exec (.kCsrs a 0x009) s = exec (.evKsEventWrite v) s ∧ exec (.kCsrs a 0x018) s = exec (.evKsRevtWrite v) s ∧
    (Completes (.kCsrc a 0x009) s fun t => SetsPc s t ((curCore s).pc + 4)) ∧
    (Completes (.kCsrc a 0x018) s fun t => SetsPc s t ((curCore s).pc + 4))

/-- R225, R226, R227 (KS_TVAL of a denied register, its number: the model's choice, log entry 45): an access to a number that
Table 9.6 does not list raises ILLEGAL_INSN with the word; one that the level is denied raises KETTLE_ACCESS with the number. -/
def Obligations.CsrRefused : Prop :=
  ∀ (s : State) (d : KReg) (n : BitVec 12),
    let word (sel x y : Nat) : Word64 := BitVec.ofNat 64 (0x2D * 2 ^ 26 + x * 2 ^ 21 + y * 2 ^ 16 + sel * 2 ^ 12 + n.toNat)
    (n ∉ listedCsrs →
      (Completes (.kCsrr d n) s fun t => TrapTaken s t false 0 0x70 (word 0 d.toNat 0) (curCore s).pc) ∧
      (Completes (.kCsrw d n) s fun t => TrapTaken s t false 0 0x70 (word 1 0 d.toNat) (curCore s).pc) ∧
      (Completes (.kCsrs d n) s fun t => TrapTaken s t false 0 0x70 (word 2 0 d.toNat) (curCore s).pc) ∧
      (Completes (.kCsrc d n) s fun t => TrapTaken s t false 0 0x70 (word 3 0 d.toNat) (curCore s).pc)) ∧
    ((curCore s).prv = false → n = 0x005 →
      ∀ i, i ∈ [Instr.kCsrr d n, .kCsrw d n, .kCsrs d n, .kCsrc d n] →
        Completes i s fun t => TrapTaken s t false 1 0x71 0x005 (curCore s).pc)

/-- R230, R232, R233: the steps that write KS_STATUS, KS_EVENT, KS_REVT and KS_MONA, and TIMER. A runtime write that would change
PPRV raises KETTLE_ACCESS; a W1C write clears the bits written, of this core only; a write to KS_MONA arms the monitor on the
line and clears MON, or traps before any effect but what its walk leaves; TIMER sets where KS_TIME ≥ KS_TIMECMP. -/
def Obligations.KettleEventSteps : Prop :=
  ∀ (s : State) (v : Word64),
    let c := curCore s
    let pc := c.pc + 4
    (c.prv = true ∨ v.getLsbD 7 = c.pprv → Completes (.evKsStatusWrite v) s fun t =>
      t = setCore s { c with status := (c.status &&& ~~~0xC2) ||| (v &&& 0xC2), pc := pc }) ∧
    (c.prv = false → v.getLsbD 7 ≠ c.pprv → Completes (.evKsStatusWrite v) s fun t => TrapTaken s t false 1 0x71 v c.pc) ∧
    (Completes (.evKsEventWrite v) s fun t => t = setCore s { c with event := c.event &&& ~~~(v &&& 3), pc := pc }) ∧
    (Completes (.evKsRevtWrite v) s fun t => t = setCore s { c with revt := c.revt &&& ~~~v, pc := pc }) ∧
    (v.toNat < 0x80000 → Completes (.evKsMonaWrite v) s fun t =>
      t = setCore s { c with mona := v, monitor := some (.loc (v.toNat / 64)), event := c.event &&& ~~~4, pc := pc }) ∧
    (∀ pa u, 0x80000 ≤ v.toNat → v.toNat < 2 ^ 56 → kxlat s { r := true } v.toNat = (.ok pa, u) →
      Completes (.evKsMonaWrite v) s fun t =>
        t = setCore u { curCore u with mona := v, monitor := some (.phys (pa / 64)), event := (curCore u).event &&& ~~~4, pc := pc }) ∧
    (2 ^ 56 ≤ v.toNat → Completes (.evKsMonaWrite v) s fun t => TrapTaken s t false 1 0x71 v c.pc) ∧
    (∀ e u, 0x80000 ≤ v.toNat → v.toNat < 2 ^ 56 → kxlat s { r := true } v.toNat = (.error e, u) →
      Completes (.evKsMonaWrite v) s fun t => TrapTaken u t false 2 e.code v c.pc) ∧
    (c.timecmp.toNat ≤ s.ns % 2 ^ 64 → Completes .evTimer s fun t => t = setCore s { c with event := c.event ||| 2 }) ∧
    (s.ns % 2 ^ 64 < c.timecmp.toNat → Completes .evTimer s fun t => t = s)

/-- R221, R223, R281: a `fence` performs the stores that the core holds back, in program order, and only then goes on: those to
HBM are written there, those to host memory are on their port's path; a `fence.sys` has every write of the host paths reach host
memory in the order of its path. Nothing else but the pc changes; where nothing was held back, only the pc. -/
def Obligations.KettleFence : Prop :=
  ∀ (s : State) (c : Bool),
    let hbm (b : BufStore) : Prop := (∃ st off, target b.pa = .hbm st off) ∧ s.badLines.contains (b.pa / 64) = false
    let host (b : BufStore) (port bus : Nat) : Prop := target b.pa = .host port bus ∧ s.badLines.contains (b.pa / 64) = false
    ((∀ b ∈ (curCore s).buf, hbm b ∧ b.n < 64) → Completes (.kFence c) s fun t =>
      t.hbm = (curCore s).buf.foldl (fun m b => writeBytes m b.pa b.n b.val) s.hbm ∧
      (c = false → t.hostOut = s.hostOut ∧ t.hostMem = s.hostMem) ∧ t.badLines = s.badLines ∧ (∀ r, getRegion t r = getRegion s r)) ∧
    (∀ b port bus, (curCore s).buf = [b] → host b port bus → c = false → Completes (.kFence c) s fun t =>
      t.hbm = s.hbm ∧ t.hostMem = s.hostMem ∧ t.hostOut = s.hostOut ++ [(port, false, ⟨bus, b.n, b.val⟩)]) ∧
    (∀ p < 2, c = true → (curCore s).buf = [] → (∀ e ∈ s.hostOut, e.1 = p) → Completes (.kFence c) s fun t =>
      t.hostOut = [] ∧ t.hbm = s.hbm ∧ t.hostMem = s.hostOut.foldl (fun m e => writeBytes m e.2.2.pa e.2.2.n e.2.2.val) s.hostMem) ∧
    (Completes (.kFence c) s fun t => (curCore t).buf = [] ∧ (c = true → ∀ e ∈ t.hostOut, e.1 ≠ 0 ∧ e.1 ≠ 1) ∧
      (curCore t).pc = (curCore s).pc + 4 ∧ ∀ r, kreg t r = kreg s r) ∧
    (Settled s → Completes (.kFence c) s fun t => SetsPc s t ((curCore s).pc + 4))

/-- R234, R235, R238, R267 (BUSY while a save is under way, and not only for LOAD and CUTP: the model's choice, log entry 37): a
`kwait`, when it starts or looks again, ends with kd the bitmap of the reasons that hold (MON, a selected event, the limit);
with none of them it waits on, and only the wait is remembered. A `gwaitk` on a gauge of an image, of a region that is neither
UNARMED nor SAVED, ends with kd = GEN once the generation is reached or its limit has passed, and waits on before that, its
acceptance alone resetting the idle counter; a word that names no gauge raises KETTLE_ACCESS, when it starts or looks again;
while the region is loading, being cut or being saved, a `gwaitk` gives BUSY. -/
def Obligations.KettleWaits : Prop :=
  (∀ (s : State) (d a : KReg) (since : Nat),
     let c := curCore s
     let reason (n : Nat) : Nat := b2n (c.event.getLsbD 2) + 2 * b2n ((c.event &&& kreg s a &&& 3) != 0)
       + 4 * b2n (c.wlimit != 0 && c.wlimit.toNat ≤ n)
     let ends (i : Instr) (n : Nat) : Prop := Completes i s fun t =>
       t = setCore s { c with regs := (curCore t).regs, wait := none, pc := c.pc + 4 } ∧
       ∀ q, kreg t q = if q = d ∧ d ≠ 0 then BitVec.ofNat 64 (reason n) else kreg s q
     (reason 0 ≠ 0 → ends (.kKwait d a) 0) ∧
     (reason 0 = 0 → Completes (.kKwait d a) s fun t => t = setCore s { c with wait := some (.kwait d a s.kcyc) }) ∧
     (c.wait = some (.kwait d a since) → reason (s.kcyc - since) ≠ 0 → ends .evKwaitWake (s.kcyc - since)) ∧
     (c.wait = some (.kwait d a since) → reason (s.kcyc - since) = 0 → Completes .evKwaitWake s fun t => t = s)) ∧
  (∀ (s : State) (d a b : KReg) (since : Nat),
     let c := curCore s
     let g := getRegion s ⟨curPart s, (kreg s a).toNat % 64⟩
     let idle := g.load = false ∧ g.cutp = false ∧ saving g = false
     let ends (i : Instr) (v : Word64) : Prop := Completes i s fun t =>
       t = setCore (busy s ⟨curPart s, (kreg s a).toNat % 64⟩) { c with regs := (curCore t).regs, wait := none, pc := c.pc + 4 } ∧
       ∀ q, kreg t q = if q = d ∧ d ≠ 0 then v else kreg s q
     let bad : Prop := 2 ^ 29 ≤ (kreg s a).toNat ∨ g.st = 0 ∨ g.st = 6 ∨ findGauge g (kreg s a).toNat = none
     (∀ e n, ¬bad → findGauge g (kreg s a).toNat = some (e, n) →
       let gen := (nth (nth g.elems e {}).gauges n {}).gen
       (gen + 2 ^ 32 - (kreg s b).toNat % 2 ^ 32) % 2 ^ 32 < 2 ^ 31 →
       (c.buf = [] → idle → ends (.kGwaitk d a b) (BitVec.ofNat 64 gen)) ∧
       (c.wait = some (.gwaitk d a b since) → ends .evGwaitkWake (BitVec.ofNat 64 gen))) ∧
     (∀ e n, ¬bad → findGauge g (kreg s a).toNat = some (e, n) →
       let gen := (nth (nth g.elems e {}).gauges n {}).gen
       2 ^ 31 ≤ (gen + 2 ^ 32 - (kreg s b).toNat % 2 ^ 32) % 2 ^ 32 →
       let limit : Prop := c.wlimit ≠ 0 ∧ c.wlimit.toNat ≤ s.kcyc - since
       (c.buf = [] → idle → c.wait = none → Completes (.kGwaitk d a b) s fun t =>
         t = setCore (busy s ⟨curPart s, (kreg s a).toNat % 64⟩) { c with wait := some (.gwaitk d a b s.kcyc) }) ∧
       (c.wait = some (.gwaitk d a b since) → limit → ends .evGwaitkWake (BitVec.ofNat 64 gen)) ∧
       (c.wait = some (.gwaitk d a b since) → ¬limit → Completes .evGwaitkWake s fun t => t = s)) ∧
     (bad → c.wait = some (.gwaitk d a b since) → Completes .evGwaitkWake s fun t =>
       TrapTaken s t false 1 0x71 (kreg s a) c.pc ∧ (curCore t).wait = none) ∧
     (¬idle → (kreg s a).toNat < 2 ^ 29 → c.buf = [] → Completes (.kGwaitk d a b) s fun t => SetsReg s t d 1) ∧
     (bad → idle ∨ 2 ^ 29 ≤ (kreg s a).toNat → c.buf = [] → c.wait = none →
       Completes (.kGwaitk d a b) s fun t => TrapTaken s t false 1 0x71 (kreg s a) c.pc))

/-- R212, R227, R236, R250, R408 (kb is judged before ka: the model's choice, log entry 37): a scrub rewrites every correctable
line of its range, leaves the uncorrectable ones, and gives kd and KS_SCRUBU the bitmaps of the 64 chunks that held them. A
length that is no multiple of 256 KiB or above 16 GiB raises KETTLE_ACCESS; an address that is not 4 KiB aligned gives RANGE,
and one in no virtual memory KETTLE_ACCESS. -/
def Obligations.KettleScrub : Prop :=
  ∀ (s t : State) (d a b : KReg) (pages : List Nat),
    let va := (kreg s a).toNat
    let len := (kreg s b).toNat
    (len % 2 ^ 18 = 0 → len ≤ 2 ^ 34 → va % 4096 = 0 → 0x80000 ≤ va → va < 2 ^ 56 → (curCore s).buf = [] →
      scrubPages s (len / 4096) va = (.ok pages, t) →
      Completes (.kKscrub d a b) s fun u =>
        (d ≠ 0 → ∀ c < 64, (kreg u d).getLsbD c =
          t.softLines.any fun e => !t.badLines.contains e.1 && (scrubOffs pages e.1).any fun o => o / (len / 64) == c) ∧
        (∀ c < 64, (curCore u).scrubu.getLsbD c =
          t.badLines.any fun l => (scrubOffs pages l).any fun o => o / (len / 64) == c) ∧
        (∀ e ∈ u.softLines, scrubOffs pages e.1 ≠ [] → t.badLines.contains e.1 = true) ∧
        u.badLines = t.badLines ∧ (curCore u).pc = (curCore s).pc + 4 ∧ ∀ r, r ≠ d → kreg u r = kreg s r) ∧
    (len % 2 ^ 18 ≠ 0 ∨ 2 ^ 34 < len → Completes (.kKscrub d a b) s fun u =>
      TrapTaken s u false 1 0x71 (kreg s b) (curCore s).pc) ∧
    (len % 2 ^ 18 = 0 → len ≤ 2 ^ 34 → (va % 4096 ≠ 0 → Completes (.kKscrub d a b) s fun u => SetsReg s u d 4) ∧
      (va % 4096 = 0 → va < 0x80000 ∨ 2 ^ 56 ≤ va → Completes (.kKscrub d a b) s fun u =>
        TrapTaken s u false 1 0x71 (kreg s a) (curCore s).pc))

/-- R236, R249, R419, R420 (a misaligned address traps with KS_TVAL the address, and records not yet performed count toward the
next sequence number: the model's choice, log entry 45): `almw` takes the record image at a 64-byte aligned local address under
the next sequence number, which kd gets; the 64 bytes, with the number as SEQ and KS_TIME as TIME, are written at MW_ALMBASE +
64 × (number mod 65,536); an image of a reserved KIND writes nothing and gives all ones. The head follows the records in
order. -/
def Obligations.AlmanacAppend : Prop :=
  ∀ (s : State) (d b : KReg) (p : Nat),
    let a := (kreg s b).toNat
    let r := readBytes (curCore s).lmem a 64
    let q := getPart s (curPart s)
    let n := (q.almseq + q.almq.length) % 2 ^ 64
    (a % 64 = 0 → a < 0x80000 → (curCore s).badLocal.contains (a / 64) = false → (curCore s).buf = [] →
      (almOk r = true → Completes (.kAlmw d b) s fun t =>
        (∀ x, kreg t x = if x = d ∧ d ≠ 0 then BitVec.ofNat 64 n else kreg s x) ∧ (curCore t).pc = (curCore s).pc + 4 ∧
        (getPart t (curPart s)).almq = q.almq ++ [(n, true)] ∧ (getPart t (curPart s)).almseq = q.almseq) ∧
      (∀ pa st off, almOk r = true → s.badLines = [] → s.softLines = [] →
        xlatW s (curPart s) (q.almbase + 64 * (n % 65536)) = .ok pa → target pa = .hbm st off → Completes (.kAlmw d b) s fun t =>
          t.hbm = writeBytes s.hbm pa 64 (r % 2 ^ 384 + s.ns % 2 ^ 64 * 2 ^ 384 + n * 2 ^ 448) ∧
          getPart t (curPart s) = { q with almq := q.almq ++ [(n, true)] }) ∧
      (∀ e, almOk r = true → s.badLines = [] → s.softLines = [] → xlatW s (curPart s) (q.almbase + 64 * (n % 65536)) = .error e →
        Completes (.kAlmw d b) s fun t => t.hbm = s.hbm) ∧
      (almOk r = false → Completes (.kAlmw d b) s fun t => SetsReg s t d 0xFFFFFFFFFFFFFFFF)) ∧
    (a % 64 ≠ 0 ∨ 0x80000 ≤ a → Completes (.kAlmw d b) s fun t => TrapTaken s t false 1 0x71 (kreg s b) (curCore s).pc) ∧
    (p < 16 → ∀ m rest, (getPart s p).almq = (m, true) :: rest → Completes (.evAlmanacHeadAdvance p) s fun t =>
      t = setPart s p { getPart s p with almseq := (m + 1) % 2 ^ 64, almq := rest })

/-- R77, R232, R238, R240, R246, R367, Table 9.12 (that `arm` leaves SHRP 0 and `arm.off` keeps LAUNCH, KS_RCAUSE and KS_RFLAGS:
the model's choice, log entry 37): the controller accepts `arm`, `arm.off`, `pour` and `launch` in the states that the table
gives, and what they leave; a launched region waits for the wheels to stand at index 0 before pour 0 runs; a change of state is
an event for every core of the partition. -/
def Obligations.FabricLifecycle : Prop :=
  ∀ (s : State) (d a b : KReg) (r : Rgn), Free s (kreg s a) r →
    let g := getRegion s r
    let n := (kreg s b).toNat
    (g.st = 4 → armFoot g = g.foot ∨ growHeld s r g 0 (armFoot g) = false →
      Accepts (.kArm d a) s d r fun t h => h.st = 1 ∧ h.pour = 0 ∧ h.shrp = false ∧ h.img = g.img ∧ Posted s t r) ∧
    (g.st = 1 ∨ g.st = 4 ∨ g.st = 5 ∨ g.st = 6 →
      Accepts (.kArmOff d a) s d r fun t h =>
        h = { launch := g.launch, rcause := g.rcause, rflags := g.rflags, idleBase := s.clk } ∧ Posted s t r) ∧
    (g.st = 1 ∨ g.st = 2 ∨ g.st = 3 ∨ g.st = 5 → n < g.img.npour →
      Accepts (.kPour d a b) s d r fun _ h => h = { g with shadow := some n, idleBase := s.clk }) ∧
    (g.st = 1 → n ≠ 0 → n < 2 ^ 32 → LanesUp s r → (∀ e ∈ g.elems, e.badCtrl = none) →
      Accepts (.kLaunch d a b) s d r fun t h => h.st = 2 ∧ h.pour = g.pour ∧ h.between = true ∧ h.starting = true ∧ h.launch = n ∧ h.rflags = 0 ∧ h.faultq = [] ∧ h.fltlost = 0 ∧
        h.launchClk = s.clk ∧ (launchOf t r.part n).map (fun x => (x.st, x.handle)) = some (0, r.handle) ∧ Posted s t r)

/-- R238, R242, R243, R244, R246, R247, Table 9.12: what the controller accepts of a region that has been launched, and what it
leaves. -/
def Obligations.FabricControl : Prop :=
  ∀ (s : State) (d a b : KReg) (r : Rgn), Free s (kreg s a) r →
    let g := getRegion s r
    let v := (kreg s b).toNat
    (g.st = 2 ∨ g.st = 3 → Accepts (.kRstop d a) s d r fun _ h =>
      h = { g with stopping := true, cutp := true, bcastClk := some (g.bcastClk.getD s.clk), idleBase := s.clk }) ∧
    (g.st = 5 → v < 2 → LanesUp s r → (∀ e ∈ g.elems, e.badCtrl = none) →
      Accepts (.kRresume d a b) s d r fun t h => h.st = g.resumeSt ∧ h.stopping = false ∧ h.cutp = false ∧ h.recorded = [] ∧
        h.pass = (if v = 1 then g.stopAt else none) ∧ Posted s t r) ∧
    (g.st = 2 → Accepts (.kRdrain d a b) s d r fun t h => h.st = 3 ∧ h.rdrain = some (v % 2 ^ 32) ∧
      (g.between = true → g.starting = false → h.eosInj = []) ∧
      (g.between = false ∨ g.starting = true → ∀ n, n ∈ h.eosInj ↔ ∃ c ∈ g.chans, c.num = n ∧ c.src = .inj ∧ c.eosDone = false) ∧ Posted s t r) ∧
    (g.st = 5 → v % 4096 = 0 → v < 2 ^ 56 →
      Accepts (.kRsave d a b) s d r fun _ h => h = { g with job := some (.save v), idleBase := s.clk }) ∧
    (g.st = 2 ∨ g.st = 3 → v % 4096 = 0 → v < 2 ^ 56 →
      Accepts (.kEvict d a b) s d r fun _ h =>
        h = { g with job := some (.evict v), stopping := true, cutp := true, bcastClk := some (g.bcastClk.getD s.clk),
                     idleBase := s.clk }) ∧
    (g.st = 2 ∨ g.st = 3 → v < 3 → g.pour + 1 < g.img.npour →
      (∀ vs ∈ g.img.pours.drop (g.pour + 1), ∃ x ∈ vs, x.foot = v) →
      Accepts (.kShrink d a b) s d r fun _ h => h = { g with shrp := true, shrink := v, idleBase := s.clk })

/-- R239, R240, R247: `iload` and `rrestore` hand a region to the Infusers of its placement with LOAD set and answer OK at once,
where nothing refuses them. -/
def Obligations.FabricLoads : Prop :=
  ∀ (s : State) (d a b : KReg), (curCore s).buf = [] →
    (let w := (kreg s b).toNat
     let r : Rgn := ⟨curPart s, w % 64⟩
     let va := (kreg s a).toNat
     let g := getRegion s r
     g.st = 0 → regionBusy g = false → va % 4096 = 0 → va < 2 ^ 56 → placeOk w = true →
     ∀ x y, peekShape s r.part va = some (x, y) → placeDenied s r w x y = false → infuserBusy s (curPart s) w = false →
       Accepts (.kIload d a b) s d r fun t h => h.st = 0 ∧ h.load = true ∧ h.place = w ∧ h.imgAddr = va ∧ h.copy = {} ∧ h.job = some (.load va w) ∧
         ∀ die < 8, bit (placeDies w) die = true → (die, (r.part, r.handle)) ∈ t.infuser) ∧
    (let w := (kreg s a).toNat
     let r : Rgn := ⟨curPart s, w % 64⟩
     let area := (kreg s b).toNat
     let g := getRegion s r
     g.st = 6 → regionBusy g = false → area % 4096 = 0 → area < 2 ^ 56 → placeOk w = true →
     ∀ x, saveHeader s r.part area = some x → shapeDiffers w (byteRange x 0x20 2) (byteRange x 0x22 2) = false →
       placeDenied s r w (byteRange x 0x20 2) (byteRange x 0x22 2) = false → infuserBusy s (curPart s) w = false →
       Accepts (.kRrestore d a b) s d r fun t h => h = { g with
           load := true, place := w, copy := {}, job := some (.restore w area), idleBase := s.clk } ∧
         ∀ die < 8, bit (placeDies w) die = true → (die, (r.part, r.handle)) ∈ t.infuser)

/-- R241, R245, R248, R406: `argw` writes the constant of one slot; `inj` sends the token of its image on the channel; `fltq`
moves the oldest fault record to local memory and gives its cause, or 0 with none queued; a line of local memory that holds an
uncorrectable error raises the memory trap for both. -/
def Obligations.FabricData : Prop :=
  ∀ (s : State) (d a b : KReg), (curCore s).buf = [] →
    (let k := (kreg s b).toNat
     ∀ r n, Free s (BitVec.ofNat 64 (k % 64)) r → k < 2 ^ 26 →
     let g := getRegion s r
     let e := nth g.elems n {}
     let slot := bits k 10 6
     let wd := nth e.cfg.slots slot 0xFF00000FFFE00000
     let v := (kreg s a).toNat % 2 ^ 32
     (g.st = 1 ∨ g.st = 2 ∨ g.st = 3 ∨ g.st = 5) →
     (g.elems.findIdx? fun e => e.x == bits k 18 11 && e.y == bits k 24 19 && e.kind == b2n (bit k 25)) = some n →
     n < (curVariant g).elems.length → descFault g.img (opCode wd).toNat (opFields wd) v = 0 →
       Accepts (.kArgw d a b) s d r fun _ h =>
         h = { g with elems := modNth g.elems n fun e => { e with consts := modNth e.consts slot fun _ => v }, idleBase := s.clk }) ∧
    (let x := (kreg s a).toNat
     let q := tokenImage (curCore s).lmem x
     ∀ r c, Free s (kreg s b) r →
     let g := getRegion s r
     x % 128 = 0 → x + q.2 ≤ 0x80000 → localBadIn s x q.2 = false → g.st = 1 ∨ g.st = 2 →
     (g.chans.find? fun (c : Chan) => c.num == g.chBase + q.1.hdr.chan && c.src == .inj) = some c →
     imageHdrOk q.1.hdr = true → chanTakes c q.1.hdr = true → c.reserved + c.outstanding < c.quota →
       Accepts (.kInj d a b) s d r fun _ h =>
         (h.chans = g.chans.map fun x => if x.num = c.num then injSend s.clk (injToken g q.1) x else x) ∧
         h.origin = (if q.1.hdr.poison && q.1.hdr.kind != 1 then nextOrigin g.origin else g.origin)) ∧
    (let x := (kreg s a).toNat
     let n := (tokenImage (curCore s).lmem x).2
     x % 128 = 0 → x < 0x80000 → x + n ≤ 0x80000 → localBadIn s x n = true →
       Completes (.kInj d a b) s fun t => TrapTaken s t false 2 0x12 (kreg s a) (curCore s).pc) ∧
    (let x := (kreg s b).toNat
     let h := (kreg s a).toNat
     x % 64 = 0 → x < 0x80000 →
     (localBadIn s x 64 = true → Completes (.kFltq d a b) s fun t => TrapTaken s t false 2 0x12 (kreg s b) (curCore s).pc) ∧
     (localBadIn s x 64 = false → h < 64 →
     let g := getRegion s ⟨curPart s, h⟩
     (g.faultq = [] → Completes (.kFltq d a b) s fun t => SetsReg (busy s ⟨curPart s, h⟩) t d 0) ∧
     (∀ f rest, g.faultq = f :: rest → Completes (.kFltq d a b) s fun t =>
       (∀ q, kreg t q = if q = d ∧ d ≠ 0 then BitVec.ofNat 64 (bits f 63 56) else kreg s q) ∧
       (curCore t).pc = (curCore s).pc + 4 ∧ (curCore t).lmem = writeBytes (curCore s).lmem x 64 f ∧
       (getRegion t ⟨curPart s, h⟩).faultq = rest)))

/-- R236, R238 (BUSY while a save is under way, and not only for LOAD and CUTP: the model's choice, log entry 37): a bad handle,
a region that is loading, being cut or being saved, and a state that the table does not give are answered with BADHANDLE, BUSY
and BADSTATE in this order, and nothing is done. -/
def Obligations.FabricRefusals : Prop :=
  ∀ (s : State) (i : Instr) (d : KReg) (v : Word64) (states : List Nat), fabricForm s i = some (d, v, states) → (curCore s).buf = [] →
    (64 ≤ v.toNat → Completes i s fun t => SetsReg s t d 3) ∧
    (v.toNat < 64 →
      let g := getRegion s ⟨curPart s, v.toNat⟩
      (g.load = true ∨ g.cutp = true ∨ saving g = true → Completes i s fun t => SetsReg s t d 1) ∧
      (g.load = false → g.cutp = false → saving g = false → g.st ∉ states → Completes i s fun t => SetsReg s t d 2))

/-! ### Firings -/

/-- R89, R96 to R103, R110, R205, R207, R326: the operations that send a data token on (`brk` among them, R112) send its payload
and header, under the tag that each gives it, to the entry that each chooses; a `pwait` on a launch hands its token to the port
to wait there (R330). The poison and fault index of what they send; the orphan marks that a `cmerge` with a poisoned control
leaves. -/
def Obligations.ForwardedTokens : Prop :=
  ∀ (s : State) (f : Focus) (w : OpWord), Chosen s f →
    let e := (getElem s f.loc).ahead
    let g := getRegion s (rgnOf f.loc)
    let a := operandAt g e w f.slot f.tag 0
    let b := operandAt g e w f.slot f.tag 1
    let c := operandAt g e w f.slot f.tag 2
    let T := outTag w f.tag
    let d := w.dest.toNat
    let sends (i : Instr) (entry tag : Nat) (o : Opd) : Prop := Sends i s f entry { o.hdr with tag := tag } o.payload
    (b.poison = false → b.low32 ≠ 0 → sends (.opSteer w) d T a) ∧
    (b.poison = false → b.low32 = 0 → sends (.opSteer w) (w.imm12 % 32) T a) ∧
    (b.poison = true → Issues (.opSteer w) s f fun _ F => F.sent =
      toEntry e d { a.hdr with tag := T } a.payload ++ toEntry e (w.imm12 % 32) { a.hdr with tag := T } a.payload) ∧
    (b.poison = false → b.low32 < w.imm12 % 64 → sends (.opSwitch w) (d + b.low32) T a) ∧
    (b.poison = true → Issues (.opSwitch w) s f fun _ F => F.sent =
      (List.range (w.imm12 % 64)).flatMap fun k => toEntry e (d + k) { a.hdr with tag := T } a.payload) ∧
    sends (.opMerge w) d T (if f.mergeB then b else a) ∧
    -- the three operands of `cmerge` are matched (Table 4.1); the control is there
    (w.src 0 = 0 → w.src 1 = 0 → w.src 2 = 0 → c.tok.isSome = true →
      (c.poison = false → sends (.opCmerge w) d T (if c.low32 ≠ 0 then a else b)) ∧
      (c.poison = true → a.tok.isSome = true → sends (.opCmerge w) d T a) ∧
      (c.poison = true → a.tok = none → b.tok.isSome = true → sends (.opCmerge w) d T b) ∧
      (c.poison = true → a.tok = none → b.tok = none → Sends (.opCmerge w) s f d (edgeHdr (edgeKind g e f.slot 0) T) 0)) ∧
    sends (.opRetag w) d (outTag w (if w.mod = 1 then b.low32 else f.tag / 2 ^ 16 % 2 ^ 16 * 2 ^ 16 + b.low32 % 2 ^ 16)) a ∧
    sends (.opNextit w) d (f.tag / 2 ^ 16 % 2 ^ 16 * 2 ^ 16 + (f.tag % 2 ^ 16 + w.imm12 % 256) % 2 ^ 16) a ∧
    (Issues (.opCtxend w) s f fun _ F => F.sent = toEntry e d { a.hdr with tag := outTag w b.low32 } a.payload ∧
      F.win = [.free (tagBody f.tag) (tagInst f.tag)]) ∧
    sends (.opPnop w) d T a ∧
    (g.brken = false ∨ g.pass = some (f.loc.elem, f.slot, f.tag) → sends (.opBrk w) d T a) ∧
    sends (.opGwait w) d T (if w.src 1 = 31 then a else b) ∧
    (let n := nth e.consts f.slot 0 % 2 ^ 32
     (n = 0 → sends (.opPwait w) d T a) ∧
     (n ≠ 0 → Issues (.opPwait w) s f fun _ F => F.sent = [] ∧ ∃ A x, F.access = some A ∧ A.op = 0xC4 ∧ A.desc = n ∧
       A.a = some x ∧ x.payload = a.payload ∧ x.hdr.plain = { a.hdr with tag := T }.plain ∧ A.dest = destChans e d ∧
       (e.badWords = [] → A.poison = (a.poison || b.poison || c.poison)))) ∧
    -- poison: that of any operand, with the fault index of the first poisoned one
    (e.badWords = [] →
      let pz := a.poison || b.poison || c.poison
      let fx := if a.poison then a.hdr.fidx else if b.poison then b.hdr.fidx else c.hdr.fidx
      let marks (i : Instr) : Prop := Marks i s f pz fx
      marks (.opSteer w) ∧ (b.poison = true ∨ b.low32 < w.imm12 % 64 → marks (.opSwitch w)) ∧ marks (.opRetag w) ∧
      marks (.opNextit w) ∧ marks (.opCtxend w) ∧ marks (.opPnop w) ∧ marks (.opGwait w) ∧ marks (.opPwait w) ∧
      (g.brken = false ∨ g.pass = some (f.loc.elem, f.slot, f.tag) → marks (.opBrk w)) ∧
      -- `merge` passes its one operand's on; `cmerge` its selected side's, and all of it is poisoned behind a poisoned control
      (let o := if f.mergeB then b else a
       Issues (.opMerge w) s f fun _ F => ∀ x ∈ F.outs, x.tok.hdr.poison = o.hdr.poison ∧ x.tok.hdr.fidx = o.hdr.fidx) ∧
      (w.src 0 = 0 → w.src 1 = 0 → w.src 2 = 0 → c.tok.isSome = true →
        (c.poison = false → c.low32 ≠ 0 → Marks (.opCmerge w) s f a.poison a.hdr.fidx) ∧
        (c.poison = false → c.low32 = 0 → Marks (.opCmerge w) s f b.poison b.hdr.fidx) ∧
        (c.poison = true → Marks (.opCmerge w) s f true fx))) ∧
    (w.src 0 = 0 → w.src 1 = 0 → w.src 2 = 0 → c.tok.isSome = true → c.poison = true → a.tok = none ∨ b.tok = none →
      Issues (.opCmerge w) s f fun t _ => ∃ m ∈ (getElem t f.loc).sets, m.slot = f.slot ∧ m.tag = f.tag ∧
        m.orphan = b2n a.tok.isNone + 2 * b2n b.tok.isNone)

/-- R60, R100, R104 to R109, R111, R112, R326: the operations that make tokens of their own, or none; the poison and fault index
of these tokens; the slot state that their firing writes at its commit. -/
def Obligations.MadeTokens : Prop :=
  ∀ (s : State) (f : Focus) (w : OpWord), Chosen s f →
    let e := (getElem s f.loc).ahead
    let g := getRegion s (rgnOf f.loc)
    let a := operandAt g e w f.slot f.tag 0
    let T := outTag w f.tag
    let d := w.dest.toNat
    let st := nth e.states f.slot 0
    let pz := a.poison || (operandAt g e w f.slot f.tag 1).poison || (operandAt g e w f.slot f.tag 2).poison
    let fx := if a.poison then a.hdr.fidx else if (operandAt g e w f.slot f.tag 1).poison then (operandAt g e w f.slot f.tag 1).hdr.fidx
      else (operandAt g e w f.slot f.tag 2).hdr.fidx
    let quiet (i : Instr) (win : List WinMsg) : Prop := Issues i s f fun _ F => F.sent = [] ∧ F.win = win
    let count := (st % 2 ^ 32 + 1) % 2 ^ 32
    let bound := if w.imm12 ≠ 0 then w.imm12 else nth e.consts f.slot 0 % 2 ^ 32
    (∀ x, (g.bodies.find? fun (x : BodySt) => x.desc.num == w.imm12 / 32 % 64) = some x →
      let u := mkTag x.desc.num (x.alloc % x.desc.k) 0
      Issues (.opCtxnew w) s f fun t F =>
        F.sent = toEntry e d { a.hdr with tag := u } a.payload ++ toEntry e (w.imm12 % 32) (scalarHdr .int32 u) (f.tag % 2 ^ 32) ∧
        ∀ y ∈ (getRegion t (rgnOf f.loc)).bodies, y.desc.num = x.desc.num → ∃ z ∈ g.bodies, z.desc = y.desc ∧ y.alloc = z.alloc + 1) ∧
    Sends (.opEos w) s f d { tag := T, kind := 1 } 0 ∧
    (bound ≠ 0 → count = bound → Issues (.opCnt w) s f fun _ F =>
      F.sent = toEntry e d (scalarHdr .int32 T) count ∧ F.st = some 0) ∧
    (bound = 0 ∨ count ≠ bound → Issues (.opCnt w) s f fun _ F =>
      F.sent = [] ∧ ∃ v, F.st = some v ∧ v % 2 ^ 32 = count ∧ bit v 63 = (bit st 63 || pz) ∧
        bits v 47 32 = if bit st 63 = true then bits st 47 32 else if pz then fx % 2 ^ 16 else 0) ∧
    (e.badWords = [] →
      (bound ≠ 0 → count = bound → Marks (.opCnt w) s f (bit st 63 || pz) (if bit st 63 = true then bits st 47 32 else fx)) ∧
      Marks (.opConst w) s f pz fx ∧ Marks (.opTagof w) s f pz fx ∧ Marks (.opEos w) s f false 0 ∧
      -- of a `ctxnew` the data token alone, never the link token
      (Issues (.opCtxnew w) s f fun _ F => (F.outs.map fun o => (o.chan, o.tok.hdr.poison, o.tok.hdr.fidx)) =
        (destChans e d).map (fun c => (c, pz, if pz then fx else 0)) ++ (destChans e (w.imm12 % 32)).map fun c => (c, false, 0))) ∧
    (let fm := recFmt (nth e.cfg.fmts w.fmt.toNat 0)
     Sends (.opConst w) s f d (scalarHdr fm T) (fitBits 2 (nth e.consts f.slot 0) fm.width)) ∧
    (a.hdr.kind = 0 → Issues (.opSink w) s f fun _ F => F.sent = [] ∧
      (∃ v, F.st = some v ∧ v % 2 ^ 63 = (st + 1) % 2 ^ 63 ∧ bit v 63 = bit st 63) ∧
      (a.poison = true → ∃ x ∈ F.recs, x.cause = 0x23 ∧ x.slot = f.slot ∧ x.tag = f.tag ∧ x.fidx = a.hdr.fidx)) ∧
    Sends (.opTagof w) s f d (scalarHdr .int32 T) (f.tag % 2 ^ 32) ∧
    quiet (.opItdone w) [.done f.tag] ∧ quiet (.opNop w) [] ∧
    (g.pass = some (f.loc.elem, f.slot, f.tag) → quiet (.opTrap w) [])

/-- R61, R97, R112, R328: a candidate that meets a stopping cause changes nothing of its element: a selector out of range, `trap`
without PASS, `brk` with breaks enabled and without PASS, and for every operation heads of different kinds. -/
def Obligations.StoppingCandidates : Prop :=
  ∀ (s : State) (f : Focus) (w : OpWord), s.focus = some f → f.loc.part < 16 →
    let e := (getElem s f.loc).ahead
    let g := getRegion s (rgnOf f.loc)
    let b := operandAt g e w f.slot f.tag 1
    (f.mode = .data → b.poison = false → w.imm12 % 64 ≤ b.low32 → Stops (.opSwitch w) s f { cause := 0x22, addr := b.low32 }) ∧
    (f.mode = .data → g.pass ≠ some (f.loc.elem, f.slot, f.tag) → Stops (.opTrap w) s f { cause := 0x40, code := w.imm12 }) ∧
    (f.mode = .data → g.brken = true → g.pass ≠ some (f.loc.elem, f.slot, f.tag) →
      Stops (.opBrk w) s f { cause := 0x41, code := w.imm12 }) ∧
    (f.mode = .mismatch → ∀ i opc, opCodeOf i = some (opc, w) → Stops i s f { cause := 0x21 })

/-- R39, R40, R115 to R119, R122 to R125, R128: the integer results of the ALU, lane by lane, wrapped or with SAT clamped (R23),
and the flags that they raise together, OVERFLOW where a lane is clamped and DIVZ where one divides by 0, for scalars and
vectors of every integer format. -/
def Obligations.IntegerLanes : Prop :=
  ∀ (s : State) (f : Focus) (w : OpWord), Chosen s f →
    let e := (getElem s f.loc).ahead
    let g := getRegion s (rgnOf f.loc)
    let fm := recFmt (nth e.cfg.fmts w.fmt.toNat 0)
    let wd := fm.width
    let n := if w.shape = 2 then 1024 / wd else 1
    let x (p k : Nat) : Int := intVal fm ((operandAt g e w f.slot f.tag p).cell wd k)
    let fit (v : Int) : Nat := uval wd (if w.sat then max (intMin fm) (min (intMax fm) v) else v)
    let mask := (operandAt g e w f.slot f.tag 0).mask &&& (operandAt g e w f.slot f.tag 1).mask &&& (operandAt g e w f.slot f.tag 2).mask
    let h : Hdr := { tag := outTag w f.tag, fmt := fm.code, pkind := if w.shape = 2 then 2 else if wd = 64 then 1 else 0, vmask := mask % 2 }
    let clamped (v : Int) : Flags := flagIf (w.sat && (decide (v < intMin fm) || decide (intMax fm < v))) fOverflow
    -- lanes that may be clamped, lanes that raise nothing, and lanes of a division
    let gives (i : Instr) (v : Nat → Int) : Prop := SendsFlagged i s f w h wd n (fun k => fit (v k)) (fun k => clamped (v k))
    let plain (i : Instr) (v : Nat → Nat) : Prop := SendsFlagged i s f w h wd n v (fun _ => fNone)
    let divides (v : Nat → Int) : Prop := SendsFlagged (.opDiv w) s f w h wd n
      (fun k => if x 1 k = 0 then 2 ^ wd - 1 else fit (v k)) (fun k => if x 1 k = 0 then fDivz else clamped (v k))
    fm.isFloat = false → fm.isMx = false →
    gives (.opAdd w) (fun k => x 0 k + x 1 k) ∧ gives (.opSub w) (fun k => x 0 k - x 1 k) ∧
    (bit w.imm10 0 = false → gives (.opMul w) (fun k => x 0 k * x 1 k)) ∧
    (bit w.imm10 0 = true → gives (.opMul w) (fun k => x 0 k * x 1 k / (2 ^ wd : Nat))) ∧
    gives (.opMad w) (fun k => x 0 k * x 1 k + x 2 k) ∧
    plain (.opMin w) (fun k => uval wd (min (x 0 k) (x 1 k))) ∧ plain (.opMax w) (fun k => uval wd (max (x 0 k) (x 1 k))) ∧
    gives (.opAbs w) (fun k => (x 0 k).natAbs) ∧ gives (.opNeg w) (fun k => -(x 0 k)) ∧
    plain (.opClamp w) (fun k => uval wd (min (max (x 0 k) (x 1 k)) (x 2 k))) ∧
    (bit w.imm10 0 = false → divides (fun k => (x 0 k).tdiv (x 1 k))) ∧
    (bit w.imm10 0 = true → divides (fun k => (x 0 k).tmod (x 1 k)))

/-- R20, R28, R29, R39, R40, R117, R122 to R125, R128, R132, R133 (that SAT makes an infinite result of `min`, `max` and `clamp`
finite: the model's choice, log entry 49): the floating-point results of the ALU, lane by lane: the exact result rounded once to
the format in the effective mode, and the flags of the lanes together, those of the operation, of its rounding and INVALID for a
signalling NaN, for scalars and vectors of every floating-point format. -/
def Obligations.FloatLanes : Prop :=
  ∀ (s : State) (f : Focus) (w : OpWord), Chosen s f →
    let e := (getElem s f.loc).ahead
    let g := getRegion s (rgnOf f.loc)
    let r := nth e.cfg.fmts w.fmt.toNat 0
    let fm := recFmt r
    let wd := fm.width
    let n := if w.shape = 2 then 1024 / wd else 1
    let bits (p k : Nat) : Nat := (operandAt g e w f.slot f.tag p).cell wd k
    let x (p k : Nat) : FVal := decodeF fm.lay (recFtz r) (bits p k)
    let mode := (effMode w.mod.toNat (recRnd r)).getD .rne
    let round (k : Nat) (v : FVal) : Nat × Flags :=
      roundFp fm.lay mode w.sat (recFtz r) (srBits (nth e.consts f.slot 0) (outTag w f.tag) k) v
    let mask := (operandAt g e w f.slot f.tag 0).mask &&& (operandAt g e w f.slot f.tag 1).mask &&& (operandAt g e w f.slot f.tag 2).mask
    let h : Hdr := { tag := outTag w f.tag, fmt := fm.code, pkind := if w.shape = 2 then 2 else if wd = 64 then 1 else 0, vmask := mask % 2 }
    -- a result that is rounded, from the operands of the first positions; one that is bits; one that is exact
    let gives (i : Instr) (ps : List Nat) (v : Nat → FVal × Flags) : Prop := SendsFlagged i s f w h wd n
      (fun k => (round k (v k).1).1) (fun k => (round k (v k).1).2 ||| (v k).2 ||| sigFlags (ps.map fun p => x p k))
    let plain (i : Instr) (v : Nat → Nat) : Prop := SendsFlagged i s f w h wd n v (fun _ => fNone)
    let exact (i : Instr) (sat : Bool) (ps : List Nat) (v : Nat → FVal) : Prop := SendsFlagged i s f w h wd n
      (fun k => (roundFp fm.lay .rne sat (recFtz r) 0 (v k)).1) (fun k => sigFlags (ps.map fun p => x p k))
    fm.isFloat = true →
    gives (.opAdd w) [0, 1] (fun k => sumF mode [x 0 k, x 1 k]) ∧
    gives (.opSub w) [0, 1] (fun k => sumF mode [x 0 k, negF (x 1 k)]) ∧
    gives (.opMul w) [0, 1] (fun k => mulF (x 0 k) (x 1 k)) ∧
    gives (.opMad w) [0, 1, 2] (fun k => madF mode (x 0 k) (x 1 k) (x 2 k)) ∧
    gives (.opDiv w) [0, 1] (fun k => divF (x 0 k) (x 1 k)) ∧
    plain (.opAbs w) (fun k => bits 0 k % 2 ^ (wd - 1)) ∧
    plain (.opNeg w) (fun k => bits 0 k ^^^ 2 ^ (wd - 1)) ∧
    gives (.opLdexp w) [0] (fun k => (scaleF (x 0 k) (sval wd (bits 1 k)), fNone)) ∧
    (w.mod ≠ 1 → exact (.opFrexp w) false [0] (fun k => (frexpF (x 0 k)).1)) ∧
    (∀ b, b = (w.mod == 1) →
      exact (.opMin w) w.sat [0, 1] (fun k => extremeF false b (x 0 k) (x 1 k)) ∧
      exact (.opMax w) w.sat [0, 1] (fun k => extremeF true b (x 0 k) (x 1 k))) ∧
    exact (.opClamp w) w.sat [0, 1, 2] (fun k => if (x 0 k).isNan then x 0 k
      else extremeF false false (extremeF true false (x 0 k) (x 1 k)) (x 2 k))

/-- R118, R119, R127, R129 to R131, R139, R140 (a control of `sel` that is no token is read lane by lane in a vector: the
model's choice, log entry 67): the operations that read their operands as bits, lane by lane; they raise no flag. -/
def Obligations.BitLanes : Prop :=
  ∀ (s : State) (f : Focus) (w : OpWord), Chosen s f →
    let e := (getElem s f.loc).ahead
    let g := getRegion s (rgnOf f.loc)
    let fm := recFmt (nth e.cfg.fmts w.fmt.toNat 0)
    let wd := fm.width
    let n := if w.shape = 2 then 1024 / wd else 1
    let c := operandAt g e w f.slot f.tag 2
    let x (p k : Nat) : Nat := (operandAt g e w f.slot f.tag p).cell wd k
    let cnt (k : Nat) : Nat := (if w.src 1 = 31 then w.imm10 % 128 else x 1 k) % wd
    let mask := (operandAt g e w f.slot f.tag 0).mask &&& (operandAt g e w f.slot f.tag 1).mask &&& c.mask
    let h : Hdr := { tag := outTag w f.tag, fmt := fm.code, pkind := if w.shape = 2 then 2 else if wd = 64 then 1 else 0, vmask := mask % 2 }
    let gives (i : Instr) (v : Nat → Nat) : Prop := SendsFlagged i s f w h wd n v (fun _ => fNone)
    gives (.opAnd w) (fun k => x 0 k &&& x 1 k) ∧ gives (.opOr w) (fun k => x 0 k ||| x 1 k) ∧
    gives (.opXor w) (fun k => x 0 k ^^^ x 1 k) ∧ gives (.opNot w) (fun k => 2 ^ wd - 1 - x 0 k % 2 ^ wd) ∧
    gives (.opShl w) (fun k => x 0 k * 2 ^ cnt k) ∧ gives (.opShr w) (fun k => x 0 k / 2 ^ cnt k) ∧
    gives (.opSra w) (fun k => uval wd (sval wd (x 0 k) / (2 ^ cnt k : Nat))) ∧
    gives (.opPopc w) (fun k => ((List.range wd).map fun j => b2n (bit (x 0 k) j)).sum) ∧
    gives (.opClz w) (fun k => ((List.range wd).reverse.takeWhile fun j => !bit (x 0 k) j).length) ∧
    (c.tok = none → w.shape ≠ 2 → gives (.opSel w) (fun k => if c.low32 ≠ 0 then x 0 k else x 1 k)) ∧
    (c.tok = none → w.shape = 2 → gives (.opSel w) (fun k => if x 2 k ≠ 0 then x 0 k else x 1 k)) ∧
    (∀ t, c.tok = some t → t.hdr.pkind ≠ 2 → gives (.opSel w) (fun k => if c.low32 ≠ 0 then x 0 k else x 1 k)) ∧
    (∀ t, c.tok = some t → t.hdr.pkind = 2 → gives (.opSel w) (fun k => if lane wd t.payload k ≠ 0 then x 0 k else x 1 k)) ∧
    (let L := 1024 / wd
     let kk := w.imm10 % 128
     (w.mod = 0 → gives (.opShuf w) (fun k => if x 1 k < L then x 0 (x 1 k) else 0)) ∧
     (w.mod = 1 → gives (.opShuf w) (fun k => x 0 ((k + kk) % L))) ∧ (w.mod = 2 → gives (.opShuf w) (fun k => x 0 (k ^^^ kk))) ∧
     (w.mod = 3 → gives (.opShuf w) (fun k => x 0 (L - 1 - k))) ∧
     (w.mod = 4 → gives (.opShuf w) (fun k => if k % 2 = 0 then x 0 (k / 2) else x 1 (k / 2))) ∧
     (w.mod = 5 → gives (.opShuf w) (fun k => if k % 2 = 0 then x 0 (L / 2 + k / 2) else x 1 (L / 2 + k / 2)))) ∧
    gives (.opBcast w) (fun _ => x 0 (if w.mod = 1 then w.imm10 % 128 else 0))

/-- R39, R40, R117, R126, R133, R135 to R138, R141, R146 (that a scalar `cmp` of 8 and 16 bits gives all ones of UINT32: the
model's choice, log entry 49): compares, exponents, conversions, `iota` and the generator, raw and unit, lane by lane, in the
format that each gives, the lanes beyond those that a conversion fills being 0; the flags of the lanes together. -/
def Obligations.ConvertedLanes : Prop :=
  ∀ (s : State) (f : Focus) (w : OpWord), Chosen s f →
    let e := (getElem s f.loc).ahead
    let g := getRegion s (rgnOf f.loc)
    let r := nth e.cfg.fmts w.fmt.toNat 0
    let fm := recFmt r
    let wd := fm.width
    let vec : Bool := w.shape == 2
    let n := if vec then 1024 / wd else 1
    let a := operandAt g e w f.slot f.tag 0
    let b := operandAt g e w f.slot f.tag 1
    let mask := a.mask &&& b.mask &&& (operandAt g e w f.slot f.tag 2).mask
    let T := outTag w f.tag
    let C := nth e.consts f.slot 0
    let h (o : Fmt) : Hdr := { tag := T, fmt := o.code, pkind := if vec then 2 else if o.width = 64 then 1 else 0, vmask := mask % 2 }
    let gives (i : Instr) (o : Fmt) (n : Nat) (v : Nat → Nat × Flags) : Prop :=
      SendsFlagged i s f w (h o) o.width n (fun k => (v k).1) (fun k => (v k).2)
    let holds (k : Nat) : Bool × Flags := if fm.isFloat
      then cmpFloat w.mod.toNat (decodeF fm.lay (recFtz r) (a.cell wd k)) (decodeF fm.lay (recFtz r) (b.cell wd k))
      else (cmpInt fm w.mod.toNat (a.cell wd k) (b.cell wd k), fNone)
    let signed : Fmt := match wd with | 8 => .int8 | 16 => .int16 | 32 => .int32 | _ => .int64
    let whole : Fmt := match wd with | 8 => .uint8 | 16 => .int16 | 32 => .uint32 | _ => .int64
    let cmpOut : Fmt := if vec || wd = 64 then whole else .uint32
    (wd ∈ [8, 16, 32, 64] → gives (.opCmp w) cmpOut n (fun k => (if (holds k).1 then 2 ^ cmpOut.width - 1 else 0, (holds k).2))) ∧
    (wd ∈ [8, 16, 32, 64] → w.mod = 1 → gives (.opFrexp w) signed n
      (fun k => (uval signed.width (frexpF (decodeF fm.lay (recFtz r) (a.cell wd k))).2,
        sigFlags [decodeF fm.lay (recFtz r) (a.cell wd k)]))) ∧
    (fm.isFloat = false → gives (.opIota w) fm n (fun k =>
      let v := intVal fm (a.cell wd 0) + k * sval 10 w.imm10
      (uval wd (if w.sat then max (intMin fm) (min (intMax fm) v) else v),
        flagIf (w.sat && (decide (v < intMin fm) || decide (intMax fm < v))) fOverflow))) ∧
    (wd = 32 → w.mod ≠ 1 → gives (.opRand w) fm n (fun k => (randWord C T k a.low32, fNone))) ∧
    -- the top 24 bits of the word as a fraction
    (fm = .fp32 → w.mod = 1 → gives (.opRand w) fm n (fun k =>
      ((roundFp layFp32 .rne false false 0 (.fin false (randWord C T k a.low32 / 256) (2 ^ 24))).1, fNone))) ∧
    (∀ t src, a.tok = some t → Fmt.ofCode t.hdr.fmt = some src →
      let cv (mode : RMode) (key c : Nat) : Nat × Flags := convert src fm mode w.sat (recFtz r) (srBits C T key) c
      let mode := (effMode w.mod.toNat (recRnd r)).getD .rne
      gives (.opCvt w) fm (if vec then 1024 / max src.width wd else 1) (fun k => cv mode k (lane src.width t.payload k)) ∧
      (Issues (.opCvt w) s f fun _ F => ∃ p, F.sent = toEntry e w.dest.toNat (h fm) p ∧
        ∀ k, (if vec then 1024 / max src.width wd else 1) ≤ k → lane wd p k = 0) ∧
      gives (.opUnpack w) fm (1024 / wd) (fun k => cv (recRnd r) k (lane src.width t.payload ((if w.mod = 1 then 1024 / wd else 0) + k))) ∧
      (∀ u, b.tok = some u → gives (.opPack w) fm (1024 / wd / 2 + 1024 / wd / 2) (fun k => cv (recRnd r) k
        (if k < 1024 / wd / 2 then lane src.width t.payload k else lane src.width u.payload (k - 1024 / wd / 2)))) ∧
      (wd = 8 → vec = true → gives (.opExpand w) fm 128 (fun k =>
        ((roundFp fm.lay .rne false false 0 (narrowVal (w.imm10 % 4)
          (narrowCode (w.imm10 % 4) ((if w.mod = 1 then 128 else 0) + k) t.payload))).1, fNone))))

/-- R39, R40, R117, R124, R134, R142 to R144 (flags beside a NaN lane: the model's choice, log entry 58): the reductions: one
exact sum of all lanes or products, rounded or wrapped once; the greatest and least lane, of numbers in the number form and with
every NaN in the form `.nan`; and the masked sum of up to three vectors; with the flags that each raises. -/
def Obligations.Reductions : Prop :=
  ∀ (s : State) (f : Focus) (w : OpWord), Chosen s f →
    let e := (getElem s f.loc).ahead
    let g := getRegion s (rgnOf f.loc)
    let r := nth e.cfg.fmts w.fmt.toNat 0
    let fm := recFmt r
    let wd := fm.width
    let L := 1024 / wd
    let opd (p : Nat) := operandAt g e w f.slot f.tag p
    let mask := (opd 0).mask &&& (opd 1).mask &&& (opd 2).mask
    let T := outTag w f.tag
    let mode := (effMode w.mod.toNat (recRnd r)).getD .rne
    let val (o : Fmt) (c : Nat) : FVal := decodeF o.lay (recFtz r) c
    let round (o : Fmt) (key : Nat) (v : FVal) : Nat × Flags :=
      roundFp o.lay mode w.sat (recFtz r) (srBits (nth e.consts f.slot 0) T key) v
    let fit (o : Fmt) (v : Int) : Nat × Flags := (uval o.width (if w.sat then max (intMin o) (min (intMax o) v) else v),
      flagIf (w.sat && (decide (v < intMin o) || decide (intMax o < v))) fOverflow)
    let h (o : Fmt) : Hdr := { tag := T, fmt := o.code, pkind := if o.width = 64 then 1 else 0, vmask := mask % 2 }
    let gives (i : Instr) (o : Fmt) (v : Nat × Flags) : Prop :=
      Issues i s f fun _ F => F.sent = toEntry e w.dest.toNat (h o) (v.1 % 2 ^ o.width) ∧ F.flags = v.2
    -- an exact value rounded once, with the flags of its operation and of the operands read
    let once (o : Fmt) (key : Nat) (v : FVal × Flags) (xs : List FVal) : Nat × Flags :=
      ((round o key v.1).1, (round o key v.1).2 ||| v.2 ||| sigFlags xs)
    let x (p k : Nat) : Nat := (opd p).cell wd k
    (fm.isFloat = false → fm.isMx = false →
      let wide : Fmt := if wd ≤ 16 then .int32 else .int64
      let o := if bit w.imm10 0 then wide else fm
      gives (.opRsum w) o (fit o ((List.range L).map fun k => intVal fm (x 0 k)).sum) ∧
      gives (.opDot w) wide (fit wide (((List.range L).map fun k => intVal fm (x 0 k) * intVal fm (x 1 k)).sum +
        (if w.src 2 = 31 then 0 else intVal wide ((opd 2).cell wide.width 0)))) ∧
      (∀ m, (∀ k < L, intVal fm (x 0 k) ≤ m) → (∃ k < L, intVal fm (x 0 k) = m) → gives (.opRmax w) fm (uval wd m, fNone)) ∧
      (∀ m, (∀ k < L, m ≤ intVal fm (x 0 k)) → (∃ k < L, intVal fm (x 0 k) = m) → gives (.opRmin w) fm (uval wd m, fNone))) ∧
    (fm.isFloat = true →
      let o : Fmt := if bit w.imm10 0 then .fp32 else fm
      let v (p k : Nat) : FVal := val fm (x p k)
      let lanes (p : Nat) : List FVal := (List.range L).map (v p)
      let more : List FVal := if w.src 2 = 31 then [] else [val .fp32 ((opd 2).cell 32 0)]
      gives (.opRsum w) o (once o 0 (sumF mode (lanes 0)) (lanes 0)) ∧
      gives (.opDot w) .fp32 (once .fp32 0 (dotF mode ((List.range L).map fun k => (v 0 k, v 1 k)) more) (lanes 0 ++ lanes 1 ++ more)) ∧
      -- the extremes: lane j is a number, and no other number lies beyond it
      (∀ j < L, (v 0 j).isNan = false → (w.mod ≠ 1 ∨ ∀ k < L, (v 0 k).isNan = false) →
        let is : Nat × Flags := ((roundFp fm.lay .rne w.sat (recFtz r) 0 (v 0 j)).1, sigFlags (lanes 0))
        ((∀ k < L, (v 0 k).isNan = true ∨ ¬(v 0 j).below (v 0 k)) → gives (.opRmax w) fm is) ∧
        ((∀ k < L, (v 0 k).isNan = true ∨ ¬(v 0 k).below (v 0 j)) → gives (.opRmin w) fm is)) ∧
      -- lane j is the NaN that decides
      (∀ j < L, (v 0 j).isNan = true → (∀ k < j, (v 0 k).isNan = false) → (w.mod = 1 ∨ ∀ k < L, (v 0 k).isNan = true) →
        let is : Nat × Flags := ((roundFp fm.lay .rne w.sat (recFtz r) 0 (v 0 j)).1, sigFlags (lanes 0))
        gives (.opRmax w) fm is ∧ gives (.opRmin w) fm is)) ∧
    (let ps := [0, 1, 2].filter fun p => w.src p != 31
     let vs := ps.filter fun p => bit (opd p).mask 0
     let lane_ (k : Nat) : Nat × Flags := if vs = [] then (0, fNone) else
       let sum := sumF mode (vs.map fun p => val fm (x p k))
       once fm k (rescaleF (w.imm10 % 4) ps.length vs.length sum.1, sum.2) (vs.map fun p => val fm (x p k))
     SendsFlagged (.opRsumM w) s f w { tag := T, fmt := fm.code, pkind := 2, vmask := if vs = [] then 0 else 1 } wd L
       (fun k => (lane_ k).1) (fun k => (lane_ k).2))

/-- R39, R40, R164 to R166, R172: a function firing sends a's header in the record's format, with the function's result in every
lane of a scalar or vector and in every valid cell of a tile, and zero bits in the others; it raises the flags of these lanes or
cells together. -/
def Obligations.FunctionLanes : Prop :=
  ∀ (s : State) (f : Focus) (w : OpWord), Chosen s f →
    let e := (getElem s f.loc).ahead
    let g := getRegion s (rgnOf f.loc)
    let r := nth e.cfg.fmts w.fmt.toNat 0
    let fm := recFmt r
    let wd := fm.width
    let a := operandAt g e w f.slot f.tag 0
    let fn (opc c : Nat) : Nat × Flags :=
      fnLane opc fm (effModeF w.mod.toNat (recRnd r)) (decide (8 ≤ w.mod.toNat)) w.sat (recFtz r) c
    let h : Hdr := { a.hdr with tag := outTag w f.tag, fmt := fm.code }
    fm.isFloat = true → ∀ i opc, (i, opc) ∈ functionOps w →
      (w.shape ≠ 3 → SendsFlagged i s f w h wd (if w.shape = 2 then 1024 / wd else 1) (fun k => (fn opc (a.cell wd k)).1)
        fun k => (fn opc (a.cell wd k)).2) ∧
      (∀ t, w.shape = 3 → a.tok = some t → Fmt.ofCode t.hdr.fmt = some fm →
        let valid (y x : Nat) : Prop := y < t.hdr.vrows ∧ x < t.hdr.vcols
        let res (y x : Nat) : Nat × Flags := fn opc (lane wd t.payload (y * t.hdr.tcols + x))
        Issues i s f fun _ F => (∃ p, F.sent = toEntry e w.dest.toNat h p ∧
          ∀ y < t.hdr.trows, ∀ x < t.hdr.tcols, lane wd p (y * t.hdr.tcols + x) = if valid y x then (res y x).1 % 2 ^ wd else 0) ∧
          ∀ j < 5, F.flags.getLsbD j = true ↔
            ∃ y x, y < t.hdr.trows ∧ x < t.hdr.tcols ∧ valid y x ∧ (res y x).2.getLsbD j = true)

/-- R164 to R168, R172, Tables 7.3 and 7.4: FP32 scalars at the special arguments and at exact points, in every mode, both
forms, with FTZ or without, and the flags that they raise; SAT is 0. -/
def Obligations.FunctionSpecials : Prop :=
  ∀ (s : State) (f : Focus) (w : OpWord), Chosen s f →
    let e := (getElem s f.loc).ahead
    let g := getRegion s (rgnOf f.loc)
    let a := operandAt g e w f.slot f.tag 0
    let h : Hdr := { a.hdr with tag := outTag w f.tag, fmt := 0 }
    recFmt (nth e.cfg.fmts w.fmt.toNat 0) = .fp32 → w.shape < 2 → w.sat = false →
    let gives (i : Instr) (x y : Nat) (fl : Flags) : Prop := a.cell 32 0 = x → SendsFlagged i s f w h 32 1 (fun _ => y) (fun _ => fl)
    let no := fNone
    let nan := 0x7FC00000
    -- −∞, −0, +0, +∞, and the flags at each; the NaNs, of which the signalling one raises INVALID
    let row (i : Instr) (p q r t : Nat) (fp fq fr ft : Flags) : Prop :=
      gives i 0xFF800000 p fp ∧ gives i 0x80000000 q fq ∧ gives i 0 r fr ∧ gives i 0x7F800000 t ft ∧ gives i 0x7FA00000 nan fInvalid ∧
      gives i 0xFFC00001 0xFFC00000 no
    row (.opExp w) 0 0x3F800000 0x3F800000 0x7F800000 no no no no ∧ row (.opExp2 w) 0 0x3F800000 0x3F800000 0x7F800000 no no no no ∧
    row (.opExpm1 w) 0xBF800000 0x80000000 0 0x7F800000 no no no no ∧ row (.opLog w) nan 0xFF800000 0xFF800000 0x7F800000 fInvalid fDivz fDivz no ∧
    row (.opLog2 w) nan 0xFF800000 0xFF800000 0x7F800000 fInvalid fDivz fDivz no ∧ row (.opLog1p w) nan 0x80000000 0 0x7F800000 fInvalid no no no ∧
    row (.opSin w) nan 0x80000000 0 nan fInvalid no no fInvalid ∧ row (.opSinpi w) nan 0x80000000 0 nan fInvalid no no fInvalid ∧
    row (.opCos w) nan 0x3F800000 0x3F800000 nan fInvalid no no fInvalid ∧ row (.opCospi w) nan 0x3F800000 0x3F800000 nan fInvalid no no fInvalid ∧
    row (.opTanh w) 0xBF800000 0x80000000 0 0x3F800000 no no no no ∧ row (.opErf w) 0xBF800000 0x80000000 0 0x3F800000 no no no no ∧
    row (.opLogistic w) 0 0x3F000000 0x3F000000 0x3F800000 no no no no ∧ row (.opGelu w) 0x80000000 0x80000000 0 0x7F800000 no no no no ∧
    row (.opSqrt w) nan 0x80000000 0 0x7F800000 fInvalid no no no ∧ row (.opRsqrt w) nan 0xFF800000 0x7F800000 0 fInvalid fDivz fDivz no ∧
    row (.opRcp w) 0x80000000 0xFF800000 0x7F800000 0 no fDivz fDivz no ∧
    -- other special arguments: −1 and −2, ±1, 1/2
    gives (.opLog w) 0xBF800000 nan fInvalid ∧ gives (.opLog2 w) 0xC0000000 nan fInvalid ∧ gives (.opLog1p w) 0xBF800000 0xFF800000 fDivz ∧
    gives (.opLog1p w) 0xC0000000 nan fInvalid ∧ gives (.opSqrt w) 0xC0000000 nan fInvalid ∧ gives (.opRsqrt w) 0xBF800000 nan fInvalid ∧
    gives (.opSinpi w) 0x3F800000 0 no ∧ gives (.opSinpi w) 0xBF800000 0x80000000 no ∧ gives (.opCospi w) 0x3F000000 0 no ∧
    -- exact points: 2³, log 1, log2 8, sin(3π/2), cos π, √9, 1/√16, 1/−4
    gives (.opExp2 w) 0x40400000 0x41000000 no ∧ gives (.opLog w) 0x3F800000 0 no ∧ gives (.opLog2 w) 0x41000000 0x40400000 no ∧
    gives (.opSinpi w) 0x3FC00000 0xBF800000 no ∧ gives (.opCospi w) 0x3F800000 0xBF800000 no ∧
    gives (.opSqrt w) 0x41100000 0x40400000 no ∧ gives (.opRsqrt w) 0x41800000 0x3E800000 no ∧ gives (.opRcp w) 0xC0800000 0xBE800000 no

/-- R38, R40, R60, R61, R147, R150 to R152, R155 to R157 (FTZ reads a subnormal cell as zero: the model's choice, log entry 15):
what the accumulator operations make of their bank at their commit, cell by cell, by the groups of R38, with its shape, mask and
poison, the flags that they raise, and what they send; FORMAT_EDGE for stored shapes other than the form's, and for a tile of
another format at `accadd`. -/
def Obligations.BankOps : Prop :=
  ∀ (s : State) (f : Focus) (w : OpWord), Chosen s f →
    let e := (getElem s f.loc).ahead
    let g := getRegion s (rgnOf f.loc)
    let r := nth e.cfg.fmts w.fmt.toNat 0
    let fm := recFmt r
    let T := outTag w f.tag
    let n := w.imm12 / 1024 % 4
    let old : Bank := if w.src 2 = 9 then {} else nth e.banks n {}
    let bank : Bank := nth e.banks n {}
    let st := nth e.states f.slot 0
    let done : List (Nat × Nat × Hdr) := toEntry e w.dest.toNat (scalarHdr .int32 T) 1
    let opd (p : Nat) := operandAt g e w f.slot f.tag p
    let pz := (opd 0).poison || (opd 1).poison || (opd 2).poison
    let fx := if (opd 0).poison then (opd 0).hdr.fidx else if (opd 1).poison then (opd 1).hdr.fidx else (opd 2).hdr.fidx
    -- the cells that take part, what becomes of each, with its flags, and the MASK bits that stay
    let adds (i : Instr) (vr vc : Nat) (part : Nat → Nat → Prop) (cell : Nat → Nat → Nat × Flags) (mask : Nat → Bool) : Prop :=
      Issues i s f fun _ F => F.sent = done ∧
        (∃ b : Bank, F.banks = [(n, b)] ∧ b.vr = max old.vr vr ∧ b.vc = max old.vc vc ∧
          (∀ y < 32, ∀ x < 32, (part y x → b.cell y x = (cell y x).1 % 2 ^ 32) ∧ (¬part y x → b.cell y x = old.cell y x)) ∧
          (∀ j < 16, bit b.mask j = (bit old.mask j && mask j)) ∧
          (e.badWords = [] → recNfp r = false → b.poison = (old.poison || pz) ∧
            b.fidx = if old.poison then old.fidx else if pz then fx else 0)) ∧
        ∀ j < 5, F.flags.getLsbD j = true ↔ ∃ y x, y < 32 ∧ x < 32 ∧ part y x ∧ (cell y x).2.getLsbD j = true
    (∀ ta tb, (operandAt g e w f.slot f.tag 0).tok = some ta → (operandAt g e w f.slot f.tag 1).tok = some tb →
      Fmt.ofCode ta.hdr.fmt = some fm → Fmt.ofCode tb.hdr.fmt = some fm →
      let a : Tile := ⟨fm, ta.hdr.trows, ta.hdr.tcols, ta.hdr.vrows, ta.hdr.vcols, ta.hdr.vmask, ta.payload⟩
      let b : Tile := ⟨fm, tb.hdr.trows, tb.hdr.tcols, tb.hdr.vrows, tb.hdr.vcols, tb.hdr.vmask, tb.payload⟩
      let K := matrixK fm
      let scales (t : Tile) (k : Nat) : List Nat := if fm.isMx then (List.range 4).map (t.scale k) else []
      -- rows of A against columns of B, or against rows of B for the transposed form, over the valid products, padded with zeros
      let products (i : Instr) (plain : Bool) : Prop :=
        let cols := if plain then b.vc else b.vr
        let kv := min a.vc (if plain then b.vr else b.vc)
        let kg := roundUp kv (groupSize fm)
        let line (g : Nat → Nat) : List Nat := ((List.range kv).map g) ++ List.replicate (kg - kv) 0
        let bv (x k : Nat) : Nat := if plain then b.cell k x else b.cell x k
        let cell (y x : Nat) : Nat × Flags :=
          matrixCell fm (recFtz r) (old.cell y x) (line (a.cell y)) (line (bv x)) (scales a y) (scales b x)
        -- the bits of A's blocks that hold rows of C, the scale plane's of A, and all of B's
        let blocks := cdiv (tileBytes fm.code 32 K) 256
        adds i a.vr cols (fun y x => y < a.vr ∧ x < cols ∧ kv ≠ 0) cell
            (fun j => bit a.mask (j / 2) && (decide (blocks ≤ 8) || bit a.mask 8) && (List.range blocks).all (bit b.mask)) ∧
          -- R38 on numbers: group after group, each rounded once; the places from Kv up are +0
          (∀ y x, y < a.vr → x < cols → kv ≠ 0 →
            let ay (k : Nat) : Nat := if k < kv then a.cell y k else 0
            let bx (k : Nat) : Nat := if k < kv then bv x k else 0
            let isNum (o : Fmt) (c : Nat) : Prop := (decodeF o.lay (recFtz r) c).isNan = false
            (fm.isFloat = true ∨ fm = .mxfp4 → isNum .fp32 (old.cell y x) → (∀ k < kv, isNum fm (ay k) ∧ isNum fm (bx k)) →
              (cell y x).1 = groupCell fm (recFtz r) (old.cell y x) ay bx (a.scale y) (b.scale x) (kg / groupSize fm)) ∧
            (fm = .int8 → (cell y x).1 = groupCellInt (old.cell y x) ay bx (kg / 8)))
      (ta.hdr.trows = 32 → ta.hdr.tcols = K → tb.hdr.trows = 32 → tb.hdr.tcols = 32 → products (.opMma w) true) ∧
      (ta.hdr.trows = 32 → ta.hdr.tcols = K → tb.hdr.trows = 32 → tb.hdr.tcols = K →
        products (.opMmaMx w) false ∧ products (.opMmaTb w) false) ∧
      (¬(ta.hdr.trows = 32 ∧ ta.hdr.tcols = K ∧ tb.hdr.trows = 32 ∧ tb.hdr.tcols = 32) → Stops (.opMma w) s f { cause := 0x02 }) ∧
      (¬(ta.hdr.trows = 32 ∧ ta.hdr.tcols = K ∧ tb.hdr.trows = 32 ∧ tb.hdr.tcols = K) →
        Stops (.opMmaMx w) s f { cause := 0x02 } ∧ Stops (.opMmaTb w) s f { cause := 0x02 })) ∧
    (∀ t src, (operandAt g e w f.slot f.tag 0).tok = some t → Fmt.ofCode t.hdr.fmt = some src →
      t.hdr.trows ≠ 32 ∨ t.hdr.tcols ≠ 32 ∨ src ≠ fm → Stops (.opAccadd w) s f { cause := 0x02 }) ∧
    (∀ t, (operandAt g e w f.slot f.tag 0).tok = some t → Fmt.ofCode t.hdr.fmt = some fm → t.hdr.trows = 32 → t.hdr.tcols = 32 →
      adds (.opAccadd w) t.hdr.vrows t.hdr.vcols (fun y x => y < t.hdr.vrows ∧ x < t.hdr.vcols)
        (fun y x => let c := old.cell y x
          let v := lane fm.width t.payload (y * 32 + x)
          let val := decodeF layFp32 (recFtz r)
          if fm.isFloat then
            let q := sumF .rne [val v, val c]
            let z := roundFp layFp32 .rne false (recFtz r) 0 q.1
            (z.1, z.2 ||| q.2 ||| sigFlags [val v, val c])
          else
            let q := intVal .int32 c + intVal .int32 v
            (uval 32 (max (intMin .int32) (min (intMax .int32) q)), flagIf (decide (q < intMin .int32) || decide (intMax .int32 < q)) fOverflow))
        (bit t.hdr.vmask)) ∧
    (Issues (.opAccz w) s f fun _ F => F.sent = done ∧ F.banks = [(n, {})] ∧ F.flags = fNone) ∧
    (e.badWords = [] → Marks (.opAccz w) s f pz fx) ∧
    (let count := (st % 2 ^ 32 + 1) % 2 ^ 32
     let bound := if w.imm10 ≠ 0 then w.imm10 else nth e.consts f.slot 0 % 2 ^ 32
     (bound ≠ 0 → count = bound → Issues (.opAccrel w) s f fun _ F => F.banks = [(n, {})] ∧ F.st = some 0 ∧ F.flags = fNone ∧
       (e.badWords = [] → ∀ o ∈ F.outs, o.tok.hdr.poison = (bit st 63 || pz || bank.poison) ∧ o.tok.hdr.fidx =
         if bank.poison then bank.fidx else if bit st 63 then bits st 47 32 else if pz then fx else 0) ∧
       ∃ p, F.sent = toEntry e w.dest.toNat (tileHdr fm T 32 32 bank.vr bank.vc bank.mask) p ∧
         ∀ y < 32, ∀ x < 32, lane 32 p (y * 32 + x) = if y < bank.vr ∧ x < bank.vc then bank.cell y x else 0) ∧
     (bound = 0 ∨ count ≠ bound → Issues (.opAccrel w) s f fun _ F => F.sent = [] ∧ F.banks = [] ∧
       ∃ v, F.st = some v ∧ v % 2 ^ 32 = count ∧ bit v 63 = (bit st 63 || pz)))

/-- R21, R22, R37, R39, R40, R65, R117, R124, R160 to R162 (an integer tile into MX, and MX into an integer, by the exact value:
the model's choice, log entry 17): the elementwise tile forms, with a second operand that is a tile or a replicated value: the
result in every cell valid in both operands and zeros elsewhere, the shape and mask of the result; the transpose; the conversion
of a tile, from and into MX formats too, with the mask that the bytes read leave it; the flags of the valid cells together;
FORMAT_EDGE for shapes that differ. -/
def Obligations.TileElementwise : Prop :=
  ∀ (s : State) (f : Focus) (w : OpWord), Chosen s f →
    let e := (getElem s f.loc).ahead
    let g := getRegion s (rgnOf f.loc)
    let r := nth e.cfg.fmts w.fmt.toNat 0
    let fm := recFmt r
    let wd := fm.width
    let T := outTag w f.tag
    let mode := (effMode w.mod.toNat (recRnd r)).getD .rne
    let val (c : Nat) : FVal := decodeF fm.lay (recFtz r) c
    let sr (k : Nat) : Nat := srBits (nth e.consts f.slot 0) T k
    let round (k : Nat) (v : FVal × Flags) (xs : List FVal) : Nat × Flags :=
      let z := roundFp fm.lay mode w.sat (recFtz r) (sr k) v.1
      (z.1, z.2 ||| v.2 ||| sigFlags xs)
    let exact (v : FVal) (xs : List FVal) : Nat × Flags := ((roundFp fm.lay .rne w.sat (recFtz r) 0 v).1, sigFlags xs)
    let fit (v : Int) : Nat × Flags := (uval wd (if w.sat then max (intMin fm) (min (intMax fm) v) else v),
      flagIf (w.sat && (decide (v < intMin fm) || decide (intMax fm < v))) fOverflow)
    -- a tile of rows × cols: what the valid cells hold, 0 in the others, the flags of the valid cells
    let sends (i : Instr) (h : Hdr) (rows cols : Nat) (wd : Nat) (valid : Nat → Nat → Prop) (cell : Nat → Nat → Nat × Flags) : Prop :=
      Issues i s f fun _ F => (∃ p, F.sent = toEntry e w.dest.toNat h p ∧
        ∀ y < rows, ∀ x < cols, (valid y x → lane wd p (y * cols + x) = (cell y x).1 % 2 ^ wd) ∧
          (¬valid y x → lane wd p (y * cols + x) = 0)) ∧
        ∀ j < 5, F.flags.getLsbD j = true ↔ ∃ y x, y < rows ∧ x < cols ∧ valid y x ∧ (cell y x).2.getLsbD j = true
    -- the forms on a tile `ta` and cells `vb` of a second operand of the valid shape vr × vc and the mask mb
    let pairs (ta : Token) (vb : Nat → Nat) (rb cb mb : Nat) : Prop :=
      let cols := ta.hdr.tcols
      let vr := min ta.hdr.vrows rb
      let vc := min ta.hdr.vcols cb
      let h := tileHdr fm T ta.hdr.trows cols vr vc (ta.hdr.vmask &&& mb)
      let gives (i : Instr) (g : Nat → Nat → Nat → Nat × Flags) : Prop := sends i h ta.hdr.trows cols wd (fun y x => y < vr ∧ x < vc)
        fun y x => g (y * cols + x) (lane wd ta.payload (y * cols + x)) (vb (y * cols + x))
      (fm.isFloat = true →
        gives (.opTadd w) (fun k a b => round k (sumF mode [val a, val b]) [val a, val b]) ∧
        gives (.opTsub w) (fun k a b => round k (sumF mode [val a, negF (val b)]) [val a, val b]) ∧
        gives (.opTmul w) (fun k a b => round k (mulF (val a) (val b)) [val a, val b]) ∧
        gives (.opTmax w) (fun _ a b => exact (extremeF true (w.mod == 1) (val a) (val b)) [val a, val b]) ∧
        gives (.opTmin w) (fun _ a b => exact (extremeF false (w.mod == 1) (val a) (val b)) [val a, val b])) ∧
      (fm.isFloat = false →
        gives (.opTadd w) (fun _ a b => fit (intVal fm a + intVal fm b)) ∧
        gives (.opTsub w) (fun _ a b => fit (intVal fm a - intVal fm b)) ∧
        gives (.opTmul w) (fun _ a b => fit (intVal fm a * intVal fm b)) ∧
        gives (.opTmax w) (fun _ a b => (uval wd (max (intVal fm a) (intVal fm b)), fNone)) ∧
        gives (.opTmin w) (fun _ a b => (uval wd (min (intVal fm a) (intVal fm b)), fNone)))
    -- the mask after a move: output byte pairs with an input byte that it was read from
    let moved (m : Nat) (bytes : Nat → Nat → Prop) (old : Nat) : Prop :=
      ∀ j < 16, bit m j = true ↔ ∀ o n, bytes o n → o / 256 = j → bit old (n / 256) = true
    (∀ ta tb, (operandAt g e w f.slot f.tag 0).tok = some ta → (operandAt g e w f.slot f.tag 1).tok = some tb →
      (ta.hdr.trows ≠ tb.hdr.trows ∨ ta.hdr.tcols ≠ tb.hdr.tcols →
        Stops (.opTadd w) s f { cause := 0x02 } ∧ Stops (.opTsub w) s f { cause := 0x02 } ∧ Stops (.opTmul w) s f { cause := 0x02 } ∧
        Stops (.opTmax w) s f { cause := 0x02 } ∧ Stops (.opTmin w) s f { cause := 0x02 }) ∧
      (ta.hdr.trows = tb.hdr.trows → ta.hdr.tcols = tb.hdr.tcols →
        Fmt.ofCode ta.hdr.fmt = some fm → Fmt.ofCode tb.hdr.fmt = some fm → fm.isMx = false →
        pairs ta (lane wd tb.payload) tb.hdr.vrows tb.hdr.vcols tb.hdr.vmask)) ∧
    -- b is no token: its value in every place, all of it valid
    (∀ ta, (operandAt g e w f.slot f.tag 0).tok = some ta → (operandAt g e w f.slot f.tag 1).tok = none →
      Fmt.ofCode ta.hdr.fmt = some fm → fm.isMx = false → ta.hdr.vrows ≤ ta.hdr.trows → ta.hdr.vcols ≤ ta.hdr.tcols →
      pairs ta (fun _ => (operandAt g e w f.slot f.tag 1).cell wd 0) ta.hdr.trows ta.hdr.tcols 0xFFFF) ∧
    (∀ t src, (operandAt g e w f.slot f.tag 0).tok = some t → Fmt.ofCode t.hdr.fmt = some src →
      let rows := t.hdr.trows
      let cols := t.hdr.tcols
      let valid (y x : Nat) : Prop := y < t.hdr.vrows ∧ x < t.hdr.vcols
      let cellAt (y x : Nat) : Nat := lane src.width t.payload (y * cols + x)
      -- the byte of a cell and the byte of its scale in a tile of a format
      let at_ (f : Fmt) (y x : Nat) : Nat := (y * cols + x) * f.width / 8
      let plane (f : Fmt) (y x : Nat) : Nat := roundUp (cdiv (rows * cols * f.width) 8) 128 + y * (cols / 32) + x / 32
      let scale (y x : Nat) : Nat := byteRange t.payload (plane src y x) 1
      let value (y x : Nat) : FVal :=
        if src.isMx then (if scale y x = 255 then .nan false false else match decodeF src.lay (recFtz r) (cellAt y x) with
          | .fin m p q => .fin m (p * (scaleRatio (scale y x)).1) (q * (scaleRatio (scale y x)).2)
          | v => v)
        else if src.isFloat then decodeF src.lay (recFtz r) (cellAt y x) else intToF (intVal src (cellAt y x))
      -- the input bytes that a valid cell is read from
      let reads (y x n : Nat) : Prop := y < rows ∧ x < cols ∧ valid y x ∧ (n = at_ src y x ∨ (src.isMx = true ∧ n = plane src y x))
      (cols ≤ 32 → ∃ m, sends (.opTtr w) (tileHdr src T cols rows t.hdr.vcols t.hdr.vrows m) cols rows src.width
          (fun _ _ => True) (fun y x => (cellAt x y, fNone)) ∧
        moved m (fun o n => ∃ y x, y < cols ∧ x < rows ∧ o = (y * rows + x) * src.width / 8 ∧ n = at_ src x y) t.hdr.vmask) ∧
      (32 < cols → Stops (.opTtr w) s f { cause := 0x02 }) ∧
      (fm.isMx = false → tileBytes fm.code rows cols ≤ 4096 →
        ∃ m, sends (.opTcvt w) (tileHdr fm T rows cols t.hdr.vrows t.hdr.vcols m) rows cols wd valid
            (fun y x =>
              if src.isMx = false then convert src fm mode w.sat (recFtz r) (sr (y * cols + x)) (cellAt y x)
              else if fm.isFloat then roundFp fm.lay mode w.sat (recFtz r) (sr (y * cols + x)) (value y x)
              else floatToInt fm mode (sr (y * cols + x)) (value y x)) ∧
          moved m (fun o n => ∃ y x, reads y x n ∧ o = at_ fm y x) t.hdr.vmask) ∧
      -- into MX: each row of 32 cells is one block, under the scale of its greatest magnitude
      (fm.isMx = true → tileBytes fm.code rows cols ≤ 4096 → cols % 32 = 0 → t.hdr.vcols ≤ cols →
        ∃ m, Issues (.opTcvt w) s f fun _ F => (∃ p, F.sent = toEntry e w.dest.toNat (tileHdr fm T rows cols t.hdr.vrows t.hdr.vcols m) p ∧
          ∀ y < rows, ∀ q < cols / 32,
            let vs := ((List.range 32).map fun k => 32 * q + k).filter fun x => decide (y < t.hdr.vrows) && decide (x < t.hdr.vcols)
            let sc := if vs.any fun x => (value y x).nonFinite then 255 else mxScale fm (vs.map (value y))
            byteRange p (plane fm y (32 * q)) 1 = sc ∧
            ∀ k < 32, let x := 32 * q + k
              lane wd p (y * cols + x) =
                if y < t.hdr.vrows ∧ x < t.hdr.vcols ∧ sc ≠ 255 then
                  (roundFp fm.lay mode true (recFtz r) (sr (y * cols + x)) (match value y x with
                    | .fin m a b => .fin m (a * (scaleRatio sc).2) (b * (scaleRatio sc).1)
                    | v => v)).1 % 2 ^ wd
                else 0) ∧
          moved m (fun o n => ∃ y x, reads y x n ∧ (o = at_ fm y x ∨ o = plane fm y x)) t.hdr.vmask) ∧
      (4096 < tileBytes fm.code rows cols ∨ (fm.isMx = true ∧ cols % 32 ≠ 0) → Stops (.opTcvt w) s f { cause := 0x02 }))

/-- R50, R65, R93, R190, R193, R196: the local forms of `ld` and `st`: the bytes of the resident area that they read, or write
at their commit, by legs, the token that they send, and LAYOUT_BOUNDS for an offset that is refused; a poisoned store writes
nothing. The single leg of `.loc`, the two legs of `.bf2` and the four of `.bf4`, with their alignment. -/
def Obligations.LocalMemory : Prop :=
  ∀ (s : State) (f : Focus) (w : OpWord), Chosen s f →
    let e := (getElem s f.loc).ahead
    let g := getRegion s (rgnOf f.loc)
    let fm := recFmt (nth e.cfg.fmts w.fmt.toNat 0)
    let T := outTag w f.tag
    let k := nth e.consts f.slot 0
    let off := (operandAt g e w f.slot f.tag 0).low32
    let b := operandAt g e w f.slot f.tag 1
    let ld := gather s f w 0xA0
    let st := gather s f w 0xA1
    let ack (n : Nat) : Hdr := { tag := T, kind := 2, stat := n }
    let h : Hdr := match w.shape with
      | 3 => tileHdr fm T (bits k 5 0) (bits k 13 6) (bits k 5 0) (bits k 13 6) 0xFFFF
      | 2 => vectorHdr fm T 1
      | _ => scalarHdr fm T
    (∀ legs, localLegs ld = some legs → Issues (.opLdLoc w) s f fun _ F =>
      F.sent = toEntry e w.dest.toNat h (readLegs e legs % 2 ^ (8 * payloadBytes h))) ∧
    (localLegs ld = none → Stops (.opLdLoc w) s f { cause := 0x13, addr := off }) ∧
    (let fits := w.shape = 3 → (b.tok = none ∧ b.pad ≠ none) ∨ (b.hdr.trows = bits k 5 0 ∧ b.hdr.tcols = bits k 13 6)
     (fits → ∀ legs, localLegs st = some legs →
       (st.poison = false → Issues (.opStLoc w) s f fun _ F => F.sent = toEntry e w.dest.toNat (ack 0) 0 ∧
         F.scratch = localWrites st legs) ∧
       (st.poison = true → Issues (.opStLoc w) s f fun _ F => F.sent = toEntry e w.dest.toNat (ack 3) 0 ∧
         F.scratch = [] ∧ ∃ x ∈ F.recs, x.cause = 0x23 ∧ x.slot = f.slot ∧ x.tag = f.tag)) ∧
     (fits → localLegs st = none → Stops (.opStLoc w) s f { cause := 0x13, addr := off }) ∧
     (¬fits → Stops (.opStLoc w) s f { cause := 0x02 })) ∧
    (let es := fm.width / 8
     let x := 4096 * e.cfg.resbase + off
     let top := 4096 * (e.cfg.resbase + e.cfg.ressize)
     let q := 2 ^ bits k 18 14
     let size := bits k 5 0 * bits k 13 6 * es
     (w.mod = 2 → ∀ i ∈ [ld, st],
       let n := if w.shape = 2 then 128 else if w.shape = 3 then size else es
       localLegs i = if x % es = 0 ∧ n ≤ 4096 ∧ x + n ≤ top then some [(x, n)] else none) ∧
     (w.shape = 3 → ∀ i ∈ [ld, st],
       (w.mod = 3 → localLegs i =
         if x % es = 0 ∧ size = 512 ∧ x % (2 * q) = 0 ∧ x % 256 = 0 ∧ x + q + 256 ≤ top then some [(x, 256), (x + q, 256)] else none) ∧
       (w.mod = 4 → localLegs i =
         if x % es = 0 ∧ size = 512 ∧ x % (4 * q) = 0 ∧ x % 128 = 0 ∧ x + 3 * q + 128 ≤ top
         then some [(x, 128), (x + q, 128), (x + 2 * q, 128), (x + 3 * q, 128)] else none)))

/-- R177, R190, R192, R194, R195, R197, R199 to R201: a memory or atomic firing passes its access to the element's port: the
operation, its operands, the constant that names the layout record, stream, scope and order, its tag and the channels of its
completion token; it sends nothing itself. -/
def Obligations.PortAccesses : Prop :=
  ∀ (s : State) (f : Focus) (w : OpWord), Chosen s f →
    let e := (getElem s f.loc).ahead
    let g := getRegion s (rgnOf f.loc)
    let fm := recFmt (nth e.cfg.fmts w.fmt.toNat 0)
    let k := nth e.consts f.slot 0
    let opd (p : Nat) := operandAt g e w f.slot f.tag p
    -- what a position reads: its token, the slot constant's under PAD, or another source's bits as a scalar of the format
    let reads (p : Nat) : Option Token := if (opd p).code = 31 then none else match (opd p).tok, (opd p).pad with
      | some t, _ => some t
      | none, some t => some t
      | none, none => some { hdr := scalarHdr fm f.tag, payload := fitBits (opd p).code (opd p).raw fm.width }
    let passes (i : Instr) (op : Nat) : Prop := Issues i s f fun _ F => F.sent = [] ∧ ∃ A, F.access = some A ∧
      A.op = op ∧ A.mod = w.mod.toNat ∧ A.shape = w.shape ∧ A.fmt = fm.code ∧ A.slot = f.slot ∧ A.tag = f.tag ∧
      A.outTag = outTag w f.tag ∧ A.stream = w.stream ∧ A.scope = w.scope ∧ A.ord = w.ord ∧ A.desc = k ∧
      A.state = nth e.states f.slot 0 ∧ A.a = reads 0 ∧ A.b = reads 1 ∧ A.c = reads 2 ∧ A.dest = destChans e w.dest.toNat ∧
      A.clk0 = s.clk ∧ A.begun = false ∧ A.pieces = []
    let padded := (opd 1).tok = none ∧ (opd 1).pad ≠ none
    let fits := padded ∨ shapeFits (opd 1).hdr w.shape (layoutAtIssue s f.loc (k % 256)) = true
    passes (.opLd w) 0xA0 ∧ passes (.opLdRec w) 0xA0 ∧ passes (.opLdg w) 0xA2 ∧ passes (.opAgen w) 0xA4 ∧
    passes (.opSbar w) 0xA5 ∧ passes (.opCopy w) 0xA6 ∧ passes (.opAadd w) 0xB0 ∧ passes (.opAmin w) 0xB1 ∧
    passes (.opAmax w) 0xB2 ∧ passes (.opAand w) 0xB3 ∧ passes (.opAor w) 0xB4 ∧ passes (.opAxor w) 0xB5 ∧
    passes (.opAswp w) 0xB6 ∧ passes (.opAcas w) 0xB7 ∧ passes (.opAincB w) 0xB8 ∧
    (fits → passes (.opSt w) 0xA1 ∧ passes (.opStg w) 0xA3 ∧ passes (.opRed w) 0xA7) ∧
    (¬fits → Stops (.opSt w) s f { cause := 0x02 } ∧ Stops (.opStg w) s f { cause := 0x02 } ∧
      Stops (.opRed w) s f { cause := 0x02 }) ∧
    (let whole := w.mod = 0 → (opd 1).hdr.trows = 32 ∧ (opd 1).hdr.tcols = 32
     (whole → passes (.opRedM w) 0xA8) ∧ (¬whole → Stops (.opRedM w) s f { cause := 0x02 }))

/-- R113, R202 to R206: the gauge operations and `psig` hand their change to the commit and send an ack; `filt` and `cmpct`
form a tile of the rows that they keep, in order; `sort2` counts its record in slot state and passes it on. A gauge that is set,
cleared or added to takes TARGET and COUNT modulo 2^48; while TARGET > 0 and COUNT ≥ TARGET, COUNT goes down by TARGET and GEN up
by 1. -/
def Obligations.GaugeAndNear : Prop :=
  (∀ (s : State) (f : Focus) (w : OpWord), Chosen s f →
     let e := (getElem s f.loc).ahead
     let g := getRegion s (rgnOf f.loc)
     let r := nth e.cfg.fmts w.fmt.toNat 0
     let fm := recFmt r
     let a := operandAt g e w f.slot f.tag 0
     let b := operandAt g e w f.slot f.tag 1
     let pz := a.poison || b.poison || (operandAt g e w f.slot f.tag 2).poison
     let k := nth e.consts f.slot 0
     let st := nth e.states f.slot 0
     let v := (match a.tok with | some t => t.payload | none => a.raw) % 2 ^ 48
     let ack : List (Nat × Nat × Hdr) := toEntry e w.dest.toNat { tag := outTag w f.tag, kind := 2 } 0
     let gauges (i : Instr) (o : GaugeOp) : Prop :=
       Issues i s f fun _ F => F.sent = ack ∧ F.gauge = if pz then [] else [o]
     -- the rows of tile a that a test keeps
     let keeps (i : Instr) (test : Nat → Bool) : Prop := ∀ t, a.tok = some t →
       let rb := t.hdr.tcols * fmtWidth t.hdr.fmt / 8
       let rows := (List.range t.hdr.vrows).filter test
       Issues i s f fun _ F => F.sent = [] ∧ ∃ A, F.access = some A ∧ A.begun = true ∧ A.dest = destChans e w.dest.toNat ∧
         A.hdr.vrows = rows.length ∧ A.hdr.trows = t.hdr.trows ∧ A.hdr.tcols = t.hdr.tcols ∧ A.hdr.vcols = t.hdr.vcols ∧
         A.hdr.tag = outTag w f.tag ∧ A.hdr.fmt = t.hdr.fmt ∧
         (∀ n row, rows[n]? = some row → byteRange A.buf (n * rb) rb = byteRange t.payload (row * rb) rb) ∧
         A.buf < 2 ^ (8 * (rows.length * rb))
     (w.mod ≠ 1 → gauges (.opGset w) (.set (k % 256) v)) ∧ (w.mod = 1 → gauges (.opGset w) (.clr (k % 256) v)) ∧
     gauges (.opGadd w) (.add (k % 256) v) ∧
     (Issues (.opPsig w) s f fun _ F => F.sent = ack ∧ F.signal = some (k % 16)) ∧
     keeps (.opCmpct w) (fun row => b.cell 32 row != 0) ∧
     keeps (.opFilt w) (fun row =>
       let x := a.cell fm.width (row * a.hdr.tcols)
       let y := match b.tok with | some t => t.payload % 2 ^ fm.width | none => fitBits b.code b.raw fm.width
       if fm.isFloat then (cmpFloat w.mod.toNat (decodeF fm.lay (recFtz r) x) (decodeF fm.lay (recFtz r) y)).1
       else cmpInt fm w.mod.toNat x y) ∧
     (beatsOf a.hdr ≤ bits k 21 16 →
       let toT := b.poison || b.low32 != 0
       let toF := b.poison || b.low32 == 0
       Issues (.opSort2 w) s f fun _ F => F.sent = [] ∧
         (∃ x, F.st = some x ∧
           x % 2 ^ 32 = (st + b2n toT) % 2 ^ 32 ∧ x / 2 ^ 32 = (st / 2 ^ 32 + b2n toF) % 2 ^ 32) ∧
         ∃ A, F.access = some A ∧ A.op = 0x0D ∧ A.mod = b2n toT + 2 * b2n toF ∧ A.state = st ∧ A.desc = k ∧
           A.stream = w.imm12 / 64 % 64) ∧
     (bits k 21 16 < beatsOf a.hdr → Stops (.opSort2 w) s f { cause := 0x02 })) ∧
  (∀ (g : Gauge) (n v : Nat),
     let steps (c x : Gauge) : Prop := x.target = c.target ∧ (c.target = 0 → x = c) ∧
       (c.target ≠ 0 → x.count < c.target ∧ ∃ k, c.count = k * c.target + x.count ∧ x.gen = (c.gen + k) % 2 ^ 32)
     steps { g with target := v % 2 ^ 48 } (g.apply (.set n v)) ∧ g.apply (.clr n v) = { g with target := v % 2 ^ 48, count := 0 } ∧
     steps { g with count := (g.count + v) % 2 ^ 48 } (g.apply (.add n v)))

/-- R44, R55 to R57, R59 to R61, R79, R98, R99, R112, R190: what no firing of an element changes in its clk, whether it issues
or stops: memory, lanes, other regions, other elements, the element's configuration, constants, slot states, banks, scratchpad,
gauges, flags and port; a kettle core changes in its event bits at most. What a firing that issues does in its clk: its
predicate, by PIDX and PACT, but `brk`'s; its operands leave their set and their FIFOs, each with its unit of quota on the way
back; one unit of quota is reserved on each channel it sends on, or on the channels of its completion token; its unit has
issued. -/
def Obligations.ElementFrame : Prop :=
  (∀ (s t : State) (i : Instr) (opc : BitVec 8) (w : OpWord) (f : Focus), opCodeOf i = some (opc, w) → s.focus = some f →
    f.loc.part < 16 → f.loc.elem < (getRegion s (rgnOf f.loc)).elems.length → exec i s = .next t →
    t.hbm = s.hbm ∧ t.hostMem = s.hostMem ∧ t.hostOut = s.hostOut ∧ t.lanes = s.lanes ∧ t.clk = s.clk ∧ t.ns = s.ns ∧
    (∀ q, q ≠ rgnOf f.loc → getRegion t q = getRegion s q) ∧
    (∀ n, n ≠ f.loc.elem → nth (getRegion t (rgnOf f.loc)).elems n {} = nth (getRegion s (rgnOf f.loc)).elems n {}) ∧
    (∀ k : Fin 32, t.cores[k] = { s.cores[k] with event := t.cores[k].event, revt := t.cores[k].revt }) ∧
    (let e := getElem s f.loc
     let e' := getElem t f.loc
     e'.cfg = e.cfg ∧ e'.consts = e.consts ∧ e'.states = e.states ∧ e'.banks = e.banks ∧ e'.scratch = e.scratch ∧
     e'.badWords = e.badWords ∧ e'.gauges = e.gauges ∧ e'.flags = e.flags ∧ e'.eosFlags = e.eosFlags ∧
     e'.port = e.port ∧ e'.inject = e.inject ∧ e'.oldest = e.oldest ∧ e'.badCtrl = e.badCtrl) ∧
    (let g := getRegion s (rgnOf f.loc)
     let h := getRegion t (rgnOf f.loc)
     h.st = g.st ∧ h.pour = g.pour ∧ h.img = g.img ∧ h.launch = g.launch ∧ h.place = g.place ∧ h.origin = g.origin)) ∧
  (∀ (s t : State) (i : Instr) (opc : BitVec 8) (w : OpWord) (f : Focus) (F : Firing), opCodeOf i = some (opc, w) →
    Chosen s f → exec i s = .next t → (getElem t f.loc).pending = (getElem s f.loc).pending ++ [F] →
    let e := getElem s f.loc
    let e' := getElem t f.loc
    let g := getRegion s (rgnOf f.loc)
    let n := w.pidx.toNat
    let held (p : Nat) := heldAt e w f.slot f.tag p
    let ctl := operandAt g e.ahead w f.slot f.tag 2
    -- the positions that the candidate takes: one of a `merge`, the control and its side of a `cmerge`
    let eats (p : Nat) : Bool :=
      if opc = 0x02 then p == b2n f.mergeB
      else if opc = 0x03 then p == 2 || ctl.poison || p == (if ctl.truth then 0 else 1)
      else true
    let gone (p : Nat) : Option Held := if eats p then (held p).filter fun h => !(w.src p == 1 && h.tok.hdr.kind == 1) else none
    let sends : List Nat := match F.access with | some a => a.dest | none => (F.outs.map fun o => o.chan).dedup
    (opc = 0x11 ∨ n = 15 → e'.preds = e.preds) ∧
    (opc ≠ 0x11 → n ≠ 15 → (∀ k, k ≠ n → bit e'.preds k = bit e.preds k) ∧
      bit e'.preds n = match w.pact.toNat with | 1 => true | 2 => false | 3 => !bit e.preds n | _ => bit e.preds n) ∧
    (∀ p < 3, w.src p = 0 → gone p ≠ none → ∀ m ∈ e'.sets, m.slot = f.slot → m.tag = f.tag → m.pos p = none) ∧
    -- with every token in the FIFO of its own channel, and each taken FIFO and set found once
    ((∀ p < 3, ∀ h, w.src p = 1 → held p = some h → (headsOf e h.tok.hdr.chan).head? = some h) →
     (∀ p < 3, ∀ q < 3, ∀ h k, w.src p = 1 → w.src q = 1 → held p = some h → held q = some k → h.tok.hdr.chan = k.tok.hdr.chan → p = q) →
     (e.sets.filter fun m => m.slot == f.slot && m.tag == f.tag).length ≤ 1 →
     (∀ ch, (∀ p < 3, ∀ h, w.src p = 1 → gone p = some h → h.tok.hdr.chan ≠ ch) → headsOf e' ch = headsOf e ch) ∧
     (∀ p < 3, ∀ h, w.src p = 1 → gone p = some h →
       (headsOf e' h.tok.hdr.chan).map (fun x => x.tok) = ((headsOf e h.tok.hdr.chan).map fun x => x.tok).tail) ∧
     (getRegion t (rgnOf f.loc)).chans = g.chans.map fun (c : Chan) =>
       { c with reserved := c.reserved + sends.count c.num,
                acks := c.acks ++ ([0, 1, 2].filter fun p => match gone p with | some h => h.tok.hdr.chan == c.num | none => false).map
                  fun _ => { hops := c.hops.length, count := 1 } }) ∧
    e'.lastIssue = some s.clk ∧ (getRegion t (rgnOf f.loc)).idleBase = s.clk)

/-- R72, R326: a poisoned operand poisons every token that a lane, reduction or function firing sends, with the fault index of the
first poisoned operand in the order a, b, c; with none poisoned, no uncorrectable word in the element and non-finite
poisoning off, no token is poisoned. -/
def Obligations.PoisonPropagates : Prop :=
  ∀ (s : State) (f : Focus) (w : OpWord) (i : Instr), Chosen s f → i ∈ laneOps w ++ (functionOps w).map Prod.fst →
    let e := (getElem s f.loc).ahead
    let g := getRegion s (rgnOf f.loc)
    let a := operandAt g e w f.slot f.tag 0
    let b := operandAt g e w f.slot f.tag 1
    let c := operandAt g e w f.slot f.tag 2
    let fx := if a.poison then a.hdr.fidx else if b.poison then b.hdr.fidx else c.hdr.fidx
    (a.poison = true ∨ b.poison = true ∨ c.poison = true → Issues i s f fun _ F =>
      ∀ o ∈ F.outs, o.tok.hdr.poison = true ∧ o.tok.hdr.fidx = fx) ∧
    (a.poison = false → b.poison = false → c.poison = false → e.badWords = [] →
      recNfp (nth e.cfg.fmts w.fmt.toNat 0) = false → Issues i s f fun _ F => ∀ o ∈ F.outs, o.tok.hdr.poison = false)

/-! ### Events of elements and channels -/

/-- R53 to R55, R91, R99, R257, R261 (the clk that a placement is stamped with, and an EOS acknowledged as it sets its flag: the
model's choice, log entry 47): the head of a channel arrives: a MATCH operand takes its place in its set, or is discarded at an
orphan mark with its quota returned and an ORPHAN record, or stops the region when its place is taken or its tag is out of
range; a HEAD operand joins its FIFO; an EOS sets its flag and returns its quota, a second one stops the region; a spilled
payload comes back to a pool buffer. -/
def Obligations.Arrivals : Prop :=
  ∀ (s : State) (l : Loc) (ch : Nat), Live s l →
    let r := rgnOf l
    let e := getElem s l
    let g := getRegion s r
    (∀ t v, arriving s l ch = some (t, v) →
      let taken (u : State) : Prop :=
        ∀ c ∈ (getRegion u r).chans, c.num = ch → ∃ c' ∈ g.chans, c'.num = ch ∧ c.arrived = c'.arrived.tail
      let returned (u : State) : Prop := (getRegion u r).chans = g.chans.map fun (c : Chan) =>
        if c.num = ch then { c with arrived := c.arrived.tail, acks := c.acks ++ [{ hops := c.hops.length, count := 1 }] } else c
      (v.head = false → t.hdr.kind ≠ 1 →
        (let stands (u : State) (p : PLoc) : Prop := ∃ m, setOf (getElem u l) v.slot t.hdr.tag = some m ∧
           m.pos v.pos = some { tok := t, loc := p, stamp := placedAt e s.clk v.slot t.hdr.tag }
         let n := payloadBytes t.hdr
         ∀ fr, meetArrival g e t v = .place fr →
           (roomFor g e t = .none → Completes (.evTokenArrival l ch) s fun u =>
             stands u .here ∧ (getElem u l).pending = e.pending ∧ (getElem u l).scratch = e.scratch ∧ taken u ∧ Local s u r) ∧
           (∀ b, roomFor g e t = .pool b → Completes (.evTokenArrival l ch) s fun u =>
             stands u (.pool b) ∧ (getElem u l).scratch = writeBytes e.scratch (4096 * b) n t.payload ∧
             (getElem u l).poolHeld = b :: e.poolHeld ∧ taken u ∧ Local s u r) ∧
           (∀ k, roomFor g e t = .spill k → mappedAll s l.part { w := true } (spillVa e k) n = true →
             Completes (.evTokenArrival l ch) s fun u =>
               stands u (.spill k) ∧ (getElem u l).spillHeld = k :: e.spillHeld ∧ taken u)) ∧
        (meetArrival g e t v = .orphan → Completes (.evTokenArrival l ch) s fun u =>
          returned u ∧ (getElem u l).pending = e.pending ∧ Local s u r ∧ (g.faultq.length < 32 →
            (getRegion u r).faultq =
              queueRec (recordBits s g (atElem s l { cause := 0x61, slot := v.slot, tag := t.hdr.tag })) g.faultq)) ∧
        (∀ c, meetArrival g e t v = .stop c → Completes (.evTokenArrival l ch) s fun u => getElem u l = e ∧
          MeetsStop s u r (atElem s l { cause := c, tag := t.hdr.tag, slot := v.slot, chan := regChan g v.chan })
            (c, l.elem, v.slot, t.hdr.tag, v.chan * 2 ^ 32 + t.hdr.tag))) ∧
      (v.head = true → t.hdr.kind = 1 ∨ tagInRange g t.hdr.tag = true → roomFor g e t = .none →
        Completes (.evHeadArrival l ch) s fun u =>
          headsOf (getElem u l) ch = headsOf e ch ++ [{ tok := t, loc := .here, stamp := s.clk + 1 }] ∧ taken u ∧ Local s u r) ∧
      (v.head = false → t.hdr.kind = 1 →
        let k := recvIndex e v.slot v.pos
        (bit e.eosFlags k = false → Completes (.evEosArrival l ch) s fun u =>
          bit (getElem u l).eosFlags k = true ∧ (∀ j, j ≠ k → bit (getElem u l).eosFlags j = bit e.eosFlags j) ∧ returned u ∧
          Local s u r) ∧
        (bit e.eosFlags k = true → Completes (.evEosArrival l ch) s fun u => getElem u l = e ∧
          MeetsStop s u r (atElem s l { cause := 0x20, tag := t.hdr.tag, slot := v.slot, chan := regChan g v.chan })
            (0x20, l.elem, v.slot, t.hdr.tag, v.chan * 2 ^ 32 + t.hdr.tag)))) ∧
    (∀ n k t b v, spillOwner e n = some (k, t) → freeBuf e = some b →
      vreadLong s l.part 128 (spillVa e n) (payloadBytes t.hdr) = .ok v → Completes (.evSpillFetchDone l n) s fun u =>
        (getElem u l).scratch = writeBytes e.scratch (4096 * b) (payloadBytes t.hdr) v ∧
        (getElem u l).spillHeld = e.spillHeld.filter (· ≠ n) ∧ (getElem u l).poolHeld = b :: e.poolHeld ∧
        (∀ m ∈ (getElem u l).sets, ∀ p h, m.pos p = some h → h.loc ≠ .spill n) ∧ Local s u r)

/-- R44, R45, R57, R60, R77 to R79, R204, R207, R325 (a completion token that owes its unit waits for room at its injection, and
what trace beats wait at an output: the model's choice, log entries 18 and 27): a firing commits: its slot state, banks and
scratchpad bytes, its flags, gauges, access, signal and tokens; a token is injected, and a unit of its channel's quota goes from
reserved to outstanding; a beat crosses a hop, or a trace beat leaves; acknowledgements cross one and return their quota at the
sender; a `pwait` whose launch has ended forwards. -/
def Obligations.FiringEvents : Prop :=
  ∀ (s : State) (l : Loc) (ch : Nat), Live s l →
    let r := rgnOf l
    let e := getElem s l
    let g := getRegion s r
    (∀ k f, commitNext e s.clk = some k → e.pending[k]? = some f → f.origin = false → f.win = [] →
      Completes (.evFiringCommit l) s fun u =>
        let e' := getElem u l
        e'.pending = e.pending.eraseIdx k ∧ e'.flags = e.flags ||| f.flags ∧
        (let runs (ops : List GaugeOp) (gs : List Gauge) := ops.foldl (fun gs op => modNth gs op.index fun x => x.apply op) gs
         (f.gauge = [] → e'.gauges = e.gauges) ∧
         ((∀ q, e.gaugeOwn = some q → q.1 ≠ s.clk) → e'.gauges = runs f.gauge e.gauges) ∧
         -- behind the element's earlier firings of this clk
         (∀ gs ops, e.gaugeOwn = some (s.clk, gs, ops) → f.gauge ≠ [] → e'.gauges = runs (ops ++ f.gauge) gs)) ∧
        e'.states = (match f.st with | some v => modNth e.states f.slot fun _ => v % 2 ^ 64 | none => e.states) ∧
        e'.banks = f.banks.foldl (fun bs q => modNth bs q.1 fun _ => q.2) e.banks ∧
        e'.scratch = f.scratch.foldl (fun m q => writeBytes m q.1 q.2.1 q.2.2) e.scratch ∧
        (e'.inject.map fun t => (t.chan, t.tok)) =
          (e.inject.map fun t => (t.chan, t.tok)) ++ f.outs.map (fun o => (o.chan, o.tok)) ∧
        (∀ a, f.access = some a → e'.port.accs = e.port.accs ++ [{ a with id := f.ord }]) ∧
        (f.access = none → e'.port = e.port) ∧ e'.consts = e.consts ∧
        (∀ n, f.signal = some n → bit (getRegion u r).signals n = true) ∧ (getRegion u r).origin = g.origin ∧ Local s u r) ∧
    (∀ k t, g.eosInj.contains ch = false → injectNext e ch = some k → e.inject[k]? = some t → e.badWords = [] →
      max e.injFree t.since + beatsOf t.tok.hdr ≤ s.clk + 1 →
      (t.owes = true → ∀ c, (g.chans.find? fun (c : Chan) => c.num == ch) = some c → c.outstanding + c.reserved < c.quota) →
      Completes (.evTokenInject l ch) s fun u =>
        (getRegion u r).chans = g.chans.map (fun (c : Chan) => if c.num = ch then
          passOn s.clk { c with reserved := c.reserved + b2n t.owes } t.tok else c) ∧
        (getElem u l).inject = e.inject.eraseIdx k ∧ (getElem u l).pending = e.pending ∧ Local s u r) ∧
    (∀ c, g.eosInj.contains ch = true → (g.chans.find? fun (c : Chan) => c.num == ch && c.src == .inj) = some c →
      c.reserved + c.outstanding < c.quota → Completes (.evTokenInject l ch) s fun u =>
        (getRegion u r).eosInj = g.eosInj.filter (· ≠ ch) ∧ ∀ c' ∈ (getRegion u r).chans, c'.num = ch → c'.eosDone = true) ∧
    (∀ x y o, let ph := physElem g.place x y
      lookupKey s.wheelAt (ph, o) ≠ some s.clk →
      (traceTakes s ph o = true → Completes (.evWheelSlot r x y o) s fun u =>
        lookupKey u.wheelAt (ph, o) = some s.clk ∧ Local s u r ∧ (getRegion u r).chans = g.chans ∧ (getRegion u r).elems = g.elems ∧
        (getRegion u r).idleBase = s.clk) ∧
      (∀ q, traceTakes s ph o = false → wheelPick s ph o = some q → Completes (.evWheelSlot r x y o) s fun u =>
        (getRegion u q.rgn).chans = (getRegion s q.rgn).chans.map (fun (d : Chan) =>
          if d.num = q.chan.num then beatOn s.clk q.tok d else d) ∧
        (getRegion u q.rgn).elems = (getRegion s q.rgn).elems ∧ lookupKey u.wheelAt (ph, o) = some s.clk ∧ Local s u q.rgn)) ∧
    (∀ c n a, chanOf g ch = some c → c.acks[n]? = some a →
      (a.hops = 0 → (∀ x, c.src ≠ .link x) → Completes (.evAcknowledgement r ch n) s fun u =>
        (getRegion u r).chans = g.chans.map (fun (d : Chan) => if d.num = ch then
          { d with acks := d.acks.eraseIdx n, outstanding := d.outstanding - a.count } else d) ∧ Local s u r) ∧
      -- the acknowledgements that wait at the hop cross together, up to 15, one sideband in a clk
      (let total (d : Chan) : Nat := ((d.acks.filter fun b => b.hops = a.hops).map fun b => b.count).sum
       a.hops ≠ 0 → ownsSlot s g c (a.hops - 1) = true → lookupKey c.ackAt a.hops ≠ some s.clk →
       Completes (.evAcknowledgement r ch n) s fun u =>
        (getRegion u r).chans = g.chans.map (fun (d : Chan) => if d.num = ch then
          { d with acks := (d.acks.filter fun b => b.hops ≠ a.hops) ++
                     (if 15 < total d then [{ hops := a.hops, count := total d - 15 }] else []) ++
                     [{ hops := a.hops - 1, count := min 15 (total d) }],
                   ackAt := putKey d.ackAt a.hops s.clk } else d) ∧ Local s u r)) ∧
    (∀ n a x, getAccess s l n = some a → a.op = 0xC4 → a.eos = false → a.scope ≠ 2 → launchOf s l.part a.desc = some x →
      x.st = 1 ∨ x.st = 2 → Completes (.evPwaitForward l n) s fun u =>
        let tok := a.a.getD {}
        (getElem u l).port.accs = e.port.accs.eraseIdx n ∧ ∃ ys, (getElem u l).inject = e.inject ++ ys ∧
          (ys.map fun y => (y.chan, y.tok.payload, y.tok.hdr.plain)) = a.dest.map (fun c => (c, tok.payload,
            (if x.st = 2 then { tok.hdr with stat := 5 } else tok.hdr).plain)) ∧
          ∀ y ∈ ys, y.tok.hdr.poison = (a.poison || x.st == 2) ∧ y.tok.hdr.fidx = (if a.poison then a.fidx else 0))

/-- R57, R79, R92, R93, R108, R109, R157, R190: an EOS set of a slot emits one EOS on every channel of its opcode's entries,
through the port for a memory slot; `cnt` first emits its partial count, with its poison, and `accrel` releases its bank; `sink`
then holds EOS; the slot's EOS flags are clear and its EOS heads gone, their quota on its way back; no predicate changes. TRUNC
takes the matched operands of the candidate away and sends nothing. -/
def Obligations.EosAndTrunc : Prop :=
  ∀ (s : State) (f : Focus), s.focus = some f → Live s f.loc →
    let e := getElem s f.loc
    let g := getRegion s (rgnOf f.loc)
    let wd := slotWord e f.slot
    let w := opFields wd
    let opc := (opCode wd).toNat
    let k := nth e.consts f.slot 0
    let st := nth e.ahead.states f.slot 0
    let n := st % 2 ^ 32
    let T := outTag w f.tag
    let eos : List (Nat × Nat × Hdr) := (entriesOf opc w).flatMap fun k => toEntry e k { tag := T, kind := 1 } 0
    let fires (P : State → Firing → Prop) : Prop := Completes .evEosSetFire s fun t => ∃ F, (getElem t f.loc).pending = e.pending ++ [F] ∧
      F.slot = f.slot ∧ F.tag = f.tag ∧ P t F
    (f.mode = .eos →
      (eosByPort opc w.mod.toNat k = false → opc ∉ [0x0A, 0x65] → fires fun _ F =>
        F.sent.Nodup ∧ (∀ x, x ∈ F.sent ↔ x ∈ eos) ∧ F.banks = [] ∧ F.access = none ∧
        F.st = if opc = 0x0C then some (2 ^ 63 + st % 2 ^ 63) else none) ∧
      (opc = 0x0A → (destChans e w.dest.toNat).Nodup → fires fun _ F => F.st = some 0 ∧ F.banks = [] ∧
        F.sent = (if n = 0 then [] else toEntry e w.dest.toNat (scalarHdr .int32 T) n) ++ eos ∧
        ∀ o ∈ F.outs, o.tok.hdr.kind = 0 → o.tok.hdr.poison = bit st 63 ∧ o.tok.hdr.fidx = if bit st 63 then bits st 47 32 else 0) ∧
      (opc = 0x65 → (destChans e w.dest.toNat).Nodup → fires fun _ F => F.st = some 0 ∧
        let num := w.imm12 / 1024 % 4
        let bank : Bank := nth e.ahead.banks num {}
        (n = 0 → F.banks = [] ∧ F.sent = eos) ∧
        (n ≠ 0 → F.banks = [(num, {})] ∧
          (∃ p, F.sent = toEntry e w.dest.toNat
              (tileHdr (recFmt (nth e.cfg.fmts w.fmt.toNat 0)) T 32 32 bank.vr bank.vc bank.mask) p ++ eos ∧
            ∀ y < 32, ∀ x < 32, lane 32 p (y * 32 + x) = if y < bank.vr ∧ x < bank.vc then bank.cell y x else 0) ∧
          ∀ o ∈ F.outs, o.tok.hdr.kind = 0 → o.tok.hdr.poison = (bit st 63 || bank.poison) ∧
            o.tok.hdr.fidx = if bank.poison then bank.fidx else if bit st 63 then bits st 47 32 else 0)) ∧
      (eosByPort opc w.mod.toNat k = true → fires fun _ F => F.sent = [] ∧ (opc = 0x0D → F.st = some 0) ∧ (opc ≠ 0x0D → F.st = none) ∧
        ∃ a, F.access = some a ∧ a.eos = true ∧ a.outTag = T ∧ a.dest = destChans e w.dest.toNat) ∧
      (fires fun t F =>
        let e' := getElem t f.loc
        let heads (num : Nat) : List Nat := (tokPos w).filter fun p => w.src p == 1 && match recvOf e f.slot p with
          | some v => v.chan == num
          | none => false
        let sends : List Nat := match F.access with | some a => a.dest | none => (F.outs.map fun o => o.chan).dedup
        e'.preds = e.preds ∧ e'.states = e.states ∧ e'.banks = e.banks ∧ e'.scratch = e.scratch ∧ t.focus = none ∧ Local s t (rgnOf f.loc) ∧
        (∀ p ∈ tokPos w, w.src p = 0 → bit e'.eosFlags (recvIndex e f.slot p) = false) ∧
        (∀ j, (∀ p ∈ tokPos w, w.src p = 0 → recvIndex e f.slot p ≠ j) → bit e'.eosFlags j = bit e.eosFlags j) ∧
        (∀ ch, (heads ch).length ≤ 1 → (headsOf e' ch).map (fun h => h.tok) =
          if heads ch = [] then (headsOf e ch).map fun h => h.tok else ((headsOf e ch).map fun h => h.tok).tail) ∧
        (getRegion t (rgnOf f.loc)).chans = g.chans.map fun (c : Chan) =>
          { c with reserved := c.reserved + sends.count c.num,
                   acks := c.acks ++ (heads c.num).map fun _ => { hops := c.hops.length, count := 1 } })) ∧
    (Completes .evTruncDiscard s fun t =>
      let e' := getElem t f.loc
      t.focus = none ∧ e'.pending = e.pending ∧ e'.states = e.states ∧ e'.banks = e.banks ∧ e'.preds = e.preds ∧
      e'.inject = e.inject ∧ e'.scratch = e.scratch ∧ Local s t (rgnOf f.loc) ∧
      ∀ p < 3, w.src p = 0 → heldAt e w f.slot f.tag p ≠ none →
        ∀ m ∈ e'.sets, m.slot = f.slot → m.tag = f.tag → m.pos p = none)

/-- R94, R95, R101, R104, R254, R255: the home counts an `itdone` and advances its oldest live iteration past the complete ones,
or begins a free; an element takes an advance, or a free with everything of the live copy that it holds; the free ends when
every element has taken it. -/
def Obligations.WindowEvents : Prop :=
  ∀ (s : State) (r : Rgn) (n : Nat), r.part < 16 → running (getRegion s r) = true →
    let g := getRegion s r
    (∀ m x, g.msgs[n]? = some m → ((g.msgs.take n).any fun (y : MsgFlight) => y.src == m.src) = false →
      (∀ t, m.msg = .done t → (g.bodies.find? fun (x : BodySt) => x.desc.num == tagBody t) = some x →
        let W := bodyW x.desc
        let i := nth x.insts (tagInst t) {}
        let k := tagIter t % W
        let d := nth i.counts k 0
        i.st = 1 → (tagIter t + 2 ^ 16 - i.oldest) % 2 ^ 16 < W → d ≠ x.desc.c → k < i.counts.length → tagInst t < x.insts.length →
        (d + 1 ≠ x.desc.c → nth i.counts (i.oldest % W) 0 ≠ x.desc.c → Completes (.evWindowMessage r n) s fun u =>
          (getRegion u r).msgs = g.msgs.eraseIdx n ∧
          ((getRegion u r).bodies.find? fun (y : BodySt) => y.desc.num == tagBody t) =
            some { x with insts := modNth x.insts (tagInst t) fun i => { i with counts := modNth i.counts k (· + 1) } }) ∧
        (d + 1 = x.desc.c → k = i.oldest % W → polSeq g = false → 1 < W → nth i.counts ((i.oldest + 1) % 2 ^ 16 % W) 0 ≠ x.desc.c →
          Completes (.evWindowMessage r n) s fun u =>
            ((getRegion u r).bodies.find? fun (y : BodySt) => y.desc.num == tagBody t) =
              some { x with insts := modNth x.insts (tagInst t) fun i =>
                { i with oldest := (i.oldest + 1) % 2 ^ 16, counts := modNth i.counts k fun _ => 0 } } ∧
            ∀ e < g.elems.length, (getRegion u r).bcasts.any (fun b => b.dst == e && b.body == tagBody t && b.inst == tagInst t
              && !b.free && b.oldest == (i.oldest + 1) % 2 ^ 16) = true)) ∧
      (∀ b i, m.msg = .free b i → (g.bodies.find? fun (x : BodySt) => x.desc.num == b) = some x → x.desc.dyn = true →
        (nth x.insts i {}).st = 1 → Completes (.evWindowMessage r n) s fun u =>
          (getRegion u r).frees = g.frees ++ [((b, i), List.range g.elems.length)] ∧
          ∀ e < g.elems.length, (getRegion u r).bcasts.any (fun q => q.dst == e && q.body == b && q.inst == i && q.free) = true)) ∧
    (∀ b, bcastReady g n = some b → b.dst < g.elems.length →
      let l : Loc := ⟨r.part, r.handle, b.dst⟩
      (b.free = false → Completes (.evWindowAdvance r n) s fun u =>
        oldestCopy (getElem u l) b.body b.inst = b.oldest ∧ (getRegion u r).bcasts = g.bcasts.eraseIdx n ∧ Local s u r) ∧
      (b.free = true → Completes (.evFreeApply r n) s fun u =>
        (∀ m ∈ (getElem u l).sets, ¬(tagBody m.tag = b.body ∧ tagInst m.tag = b.inst)) ∧
        (∀ q ∈ (getElem u l).heads, ∀ h ∈ q.2, tokOf b.body b.inst h.tok = false) ∧
        (getRegion u r).bcasts = g.bcasts.eraseIdx n ∧ (∀ q ∈ (getRegion u r).frees, q.1 = (b.body, b.inst) → b.dst ∉ q.2) ∧
        Local s u r)) ∧
    (∀ b i, ((b, i), []) ∈ g.frees → Completes (.evFreeComplete r b i) s fun u =>
      (∀ q ∈ (getRegion u r).frees, q.1 ≠ (b, i)) ∧
      ∀ x ∈ (getRegion u r).bodies, x.desc.num = b → i < x.insts.length → (nth x.insts i {}).st = 0)

/-! ### Events of ports, pours and regions -/

/-- R179 to R181, R183 to R185, R192, R194, R195, R199 to R201 (the byte of a `copy`'s gauge addition is counted in the block of
256 bytes that it lies in, an MX tile is judged against the end of the virtual space as a whole with its plane from BASE, and
what END carries: the model's choice, log entries 50, 62, 65 and 69): an access begins: its layout record is read at its first
use, its coordinates or loop-nest tuple are taken, a malformed record or an element that may not be reached holds it with
LAYOUT_BOUNDS, and else its elements in bounds are cut into pieces, PAD standing for the others. A port performs a piece (R187,
R190, R204, R273, R274, R332, R385, R386): a read takes the bytes of its elements from HBM, a write stores one element and
leaves every other line; an atomic reads, computes and writes in one step; a page walk gives the page or holds the access with
its cause; a completed access hands on its token; a `copy` credits its gauge once for each piece. -/
def Obligations.PortEvents : Prop :=
  (∀ (s : State) (l : Loc) (n k : Nat) (a : Access), Live s l → getAccess s l n = some a → a.begun = false → a.held = none →
    a.eos = false → a.ended = false → a.pieces = [] → mayBegin (getRegion s (rgnOf l)) (getElem s l) n a = true →
    let r := rgnOf l
    let g := getRegion s r
    let h := mdHandle a.desc
    let va := layoutVa g h
    let performs (P : State → Access → Prop) : Prop :=
      Completes (.evPortAccessPerform l n k) s fun t => ∃ b, getAccess t l n = some b ∧ P t b
    let stops (cause va : Nat) : Prop := performs fun t b => (getRegion t r).stopping = true ∧ b.begun = false ∧
      b.held = some cause ∧ b.fva = va % 2 ^ 56
    -- the record's first use
    (∀ u x, a.op ∉ [0x0D, 0xA4, 0xA5] → a.poison = false → a.isGen = false → cachedLayout (getElem s l) h = none →
      portXlat s l { r := true } true va = (u, some x) →
      (∀ pa, x = .ok pa → lineBad u pa = false → u.softLines = [] → performs fun t _ =>
        cachedLayout (getElem t l) h = some (physRead u pa 64)) ∧
      (∀ pa, x = .ok pa → lineBad u pa = true → performs fun t b => (getRegion t r).stopping = true ∧ b.held = some 0x13 ∧
        b.fva = va % 2 ^ 56 ∧ cachedLayout (getElem t l) h = none) ∧
      (∀ c, x = .error c → performs fun t b => (getRegion t r).stopping = true ∧ b.held = some c.code ∧ b.fva = va % 2 ^ 56)) ∧
    -- `agen`, and a `.gen` firing of a unit that has no tuple left
    (a.op = 0xA4 →
      let p := (a.a.getD {}).payload
      let legal : Prop := 1 ≤ byteRange p 120 1 ∧ byteRange p 120 1 ≤ 6 ∧ byteRange p 121 7 = 0
      (legal → performs fun t b => b.begun = true ∧ b.held = none ∧
        lookupKey (getElem t l).port.nests a.stream = some { prog := p, v := [0, 0, 0, 0, 0, 0], exhausted := false }) ∧
      (¬legal → stops 0x13 0)) ∧
    (a.isGen = true → a.coords = none → nestTuple ((lookupKey (getElem s l).port.nests a.stream).getD {}) = none →
      performs fun t b => b.begun = true ∧ b.held = none ∧ b.stat = 2 ∧ b.pieces = [] ∧ (a.op = 0xA0 → b.hdr.vmask = 0) ∧
        getElem t l = { getElem s l with port := (getElem t l).port }) ∧
    -- a poisoned write is suppressed
    (a.poison = true → a.isStore = true → (a.isLoad = false ∨ a.op = 0xA6) → a.isGen = false → a.op ∉ [0x0D, 0xA4, 0xA5] →
      performs fun t b => b.begun = true ∧ b.held = none ∧ b.stat = 3 ∧ b.pieces = [] ∧ t.hbm = s.hbm ∧
        (g.faultq.length < 32 → ∃ x, (getRegion t r).faultq = queueRec x g.faultq ∧ bits x 63 56 = 0x23)) ∧
    (∀ lay lay2 i, MayStart s l n a lay lay2 i →
      let w := fmtWidth lay.fmt
      let f := (Fmt.ofCode lay.fmt).getD .fp32
      let b := a.b.getD {}
      let opens (P : Access → Prop) : Prop := performs fun t x => t.hbm = s.hbm ∧ t.hostMem = s.hostMem ∧ x.begun = true ∧ x.held = none ∧
        x.coords = some i ∧ P x
      let good : Prop := lay.malformed (tileAccess a) = false ∧ lay2.malformed false = false ∧
        (a.op = 0xA6 ∨ a.isRec = true ∨ lay.fmt = a.fmt) ∧ (a.op = 0xA8 → lay2.fmt = 12)
      -- elements in their order: the first that may not be reached holds the access; else those in bounds are cut into pieces
      let judged (y : Layout) (els : List (Nat × List Int)) (wr rmw : Bool) (P : Access → Prop) : Prop :=
        (∀ e, (els.find? fun e => y.refuses e.2) = some e → stops 0x13 (y.addr e.2)) ∧
        ((els.find? fun e => y.refuses e.2) = none → opens fun x => x.covers (y.reach els) wr rmw ∧ P x)
      let pads (n : Nat) (x : Access) : Prop := x.width = w ∧ ∀ m < n, lane w x.buf m = lay.pad % 2 ^ w
      let stores (x : Access) : Prop := x.width = w ∧ x.buf = b.payload
      let valid (e : Nat × List Int) : Bool := decide (e.1 / lay.bcols < b.hdr.vrows) && decide (e.1 % lay.bcols < b.hdr.vcols)
      let box := shapeEls a.shape lay.fmt lay.brows lay.bcols i
      let index (y : Nat) : Int := sval 32 (lane 32 (a.a.getD {}).payload y)
      let row (y n : Nat) : List (Nat × List Int) := if index y = -1 then [] else
        (List.range n).map fun x => (y * lay.bcols + x, sixCoords [Int.ofNat x, index y])
      a.op ∉ [0x0D, 0xA4, 0xA5] →
      (¬good → stops 0x13 va) ∧
      (good → shapeHolds a lay = false → stops 0x02 va) ∧
      (good → shapeHolds a lay = true →
        (a.op = 0xA0 → a.isRec = false → fmtIsMx lay.fmt = false → judged lay box false false fun x => pads box.length x ∧
          (a.shape = 2 → x.hdr = vectorHdr f a.outTag 1) ∧ (a.shape ≠ 2 → a.shape ≠ 3 → x.hdr = scalarHdr f a.outTag) ∧
          (a.shape = 3 → ∃ vr vc, x.hdr = tileHdr f a.outTag lay.brows lay.bcols vr vc 0xFFFF ∧ vr ≤ lay.brows ∧ vc ≤ lay.bcols ∧
            (lay.inBounds i = false → vr = 0 ∧ vc = 0) ∧
            (lay.inBounds i = true → (∀ y < vr, lay.inBounds (shiftCoords i 0 y) = true) ∧
              (∀ y < vc, lay.inBounds (shiftCoords i y 0) = true) ∧ (vr < lay.brows → lay.inBounds (shiftCoords i 0 vr) = false) ∧
              (vc < lay.bcols → lay.inBounds (shiftCoords i vc 0) = false)))) ∧
        (a.op = 0xA1 → fmtIsMx lay.fmt = false → judged lay (if a.shape = 3 then box.filter valid else box) true false stores) ∧
        (a.op = 0xA0 ∨ a.op = 0xA1 → a.isRec = false → fmtIsMx lay.fmt = true →
          let size := tileBytes lay.fmt lay.brows lay.bcols
          let plane := planeOff lay.fmt lay.brows lay.bcols
          let rows := if a.op = 0xA0 then lay.brows else b.hdr.vrows
          let cols := if a.op = 0xA0 then lay.bcols else b.hdr.vcols
          let meets (c : Nat) : Prop := c / lay.bcols < rows ∧ c % lay.bcols < cols
          (a.shape ≠ 3 ∨ (i.all fun c => c == 0) = false → stops 0x13 lay.base) ∧
          (a.shape = 3 → (i.all fun c => c == 0) = true → 2 ^ 56 < lay.base + size → stops 0x13 (2 ^ 56)) ∧
          (a.shape = 3 → (i.all fun c => c == 0) = true → lay.base + size ≤ 2 ^ 56 → opens fun x => x.width = 8 ∧
            x.buf = (if a.op = 0xA0 then 0 else b.payload) ∧
            (a.op = 0xA0 → x.hdr = tileHdr f a.outTag lay.brows lay.bcols lay.brows lay.bcols 0xFFFF) ∧
            ∀ j va, (∃ p ∈ x.pieces, (j, va) ∈ p.els) ↔ va = lay.base + j ∧
              ((j < lay.brows * lay.bcols * w / 8 ∧ meets (j * (8 / w))) ∨
                ∃ m < lay.brows * (lay.bcols / 32), j = plane + m ∧ meets (m / (lay.bcols / 32) * lay.bcols + m % (lay.bcols / 32) * 32)))) ∧
        (a.isRec = true →
          (lay.fmt ≠ 9 ∨ lay.ndim ≠ 1 → stops 0x13 lay.base) ∧
          (lay.fmt = 9 → lay.ndim = 1 → nth i 0 0 % 128 ≠ 0 → stops 0x13 (lay.addr i)) ∧
          (let els := (List.range 128).map fun j => (j, sixCoords [nth i 0 0 + Int.ofNat j])
           lay.fmt = 9 → lay.ndim = 1 → nth i 0 0 % 128 = 0 → lay.reach els ≠ [] → judged lay els false false fun x => pads 128 x ∧ x.headed = false)) ∧
        ((a.op = 0xA2 ∨ a.op = 0xA3 ∨ a.op = 0xA7 ∨ (0xB0 ≤ a.op ∧ a.op ≤ 0xB8)) → fmtIsMx lay.fmt = true → stops 0x13 lay.base) ∧
        (fmtIsMx lay.fmt = false →
          (a.op = 0xA2 → judged lay ((List.range lay.brows).flatMap fun y => row y lay.bcols) false false fun x =>
            pads (lay.brows * lay.bcols) x ∧
            x.hdr = tileHdr f a.outTag lay.brows lay.bcols lay.brows (min lay.bcols (lay.extent 0)) 0xFFFF) ∧
          -- of a repeated index the higher row stays
          (a.op = 0xA3 → judged lay ((List.range (min lay.brows b.hdr.vrows)).flatMap fun y =>
            if (List.range (min lay.brows b.hdr.vrows)).any fun z => decide (y < z) && index z == index y then []
            else row y (min lay.bcols b.hdr.vcols)) true false stores) ∧
          (a.op = 0xA7 → judged lay (if a.shape = 3 then box.filter valid else box) true true stores) ∧
          (0xB0 ≤ a.op → a.op ≤ 0xB8 → judged lay [(0, i)] true true fun x => x.width = w ∧ x.buf = lay.pad % 2 ^ w ∧
            x.hdr = scalarHdr f a.outTag ∧ x.stat = if lay.inBounds i then a.stat else 3)) ∧
        (a.op = 0xA8 →
          let c0 := nth i 0 0
          let r0 := nth i 1 0
          let blocks := if a.mod = 0 then (List.range 16).filter fun j => bit b.hdr.vmask j else List.range 16
          let cells (j : Nat) := (List.range 64).map fun m => (64 * j + m, shiftCoords i (m % 32) (2 * j + m / 32))
          let count (j : Nat) := (1024 + j, sixCoords [16 * (c0 / 32) + Int.ofNat j, r0 / 32])
          let all : List (Layout × List Int) := blocks.flatMap fun j => (cells j).map (fun e => (lay, e.2)) ++ [(lay2, (count j).2)]
          (c0 % 32 ≠ 0 ∨ r0 % 32 ≠ 0 → stops 0x13 (lay.addr i)) ∧
          (c0 % 32 = 0 → r0 % 32 = 0 →
            (∀ e, (all.find? fun e => e.1.refuses e.2) = some e → stops 0x13 (e.1.addr e.2)) ∧
            ((all.find? fun e => e.1.refuses e.2) = none → opens fun x => x.width = 32 ∧ x.pieces = blocks.map (fun j =>
                { els := lay.reach (cells j) ++ lay2.reach [count j], wr := true, rmw := true }) ∧
              (a.mod = 0 → x.buf = b.payload) ∧
              (a.mod ≠ 0 → (∀ m < 1024, lane 32 x.buf m = lay.pad % 2 ^ 32) ∧ ∀ m < 16, lane 32 x.buf (1024 + m) = lay2.pad % 2 ^ 32)))) ∧
        (a.op = 0xA6 →
          let j := coordsOf b
          let at_ (o : List Int) : List (Nat × List Int) :=
            (cellsOf lay.brows lay.bcols).map fun p => (p.1 * lay.bcols + p.2, shiftCoords o p.2 p.1)
          let src : Layout := { lay with fault := false }
          let mixed : Prop := lay.fmt ≠ lay2.fmt ∨ fmtIsMx lay.fmt = true ∨ fmtIsMx lay2.fmt = true
          (mixed → stops 0x13 lay.base) ∧
          (¬mixed → (∀ e, ((at_ i).find? fun e => src.refuses e.2) = some e → stops 0x13 (src.addr e.2)) ∧
            (((at_ i).find? fun e => src.refuses e.2) = none →
              (∀ e, ((at_ j).find? fun e => lay2.refuses e.2) = some e → stops 0x13 (lay2.addr e.2)) ∧
              (((at_ j).find? fun e => lay2.refuses e.2) = none → opens fun x => pads (lay.brows * lay.bcols) x ∧
                ({ x with pieces := x.pieces.filter fun p => !p.wr } : Access).covers
                  ((src.reach (at_ i)).filter fun e => (lay2.reach (at_ j)).any fun d => d.1 == e.1) false false ∧
                ({ x with pieces := x.pieces.filter fun p => p.wr } : Access).covers (lay2.reach (at_ j)) true false))))))) ∧
  -- a unit's tuple, and its induction variables as one count in the mixed radix of the trip counts
  (∀ u : LoopNest,
    let N (j : Nat) : Nat := byteRange u.prog (4 * j) 4
    let nl := byteRange u.prog 120 1
    let O (j : Nat) : Int := sval 32 (byteRange u.prog (24 + 4 * j) 4)
    let C (j m : Nat) : Int := sval 16 (byteRange u.prog (48 + 2 * (6 * j + m)) 2)
    let spent : Prop := u.exhausted = true ∨ ∃ j < nl, N j = 0
    (spent → nestTuple u = none) ∧
    (¬spent → 1 ≤ nl → nl ≤ 6 → u.v.length = 6 → (∀ j < nl, nth u.v j 0 < N j) → ∃ cs u', nestTuple u = some (cs, u') ∧
      u'.prog = u.prog ∧ u'.v.length = 6 ∧ (∀ j < nl - 1, nth u'.v j 0 < N j) ∧
      (∀ j < 6, (-(2 : Int) ^ 31 ≤ nth cs j 0 ∧ nth cs j 0 < 2 ^ 31) ∧
        (nth cs j 0 - (O j + ((List.range nl).map fun m => C j m * (nth u.v m 0 : Int)).sum)) % 2 ^ 32 = 0) ∧
      (let count (v : List Nat) : Nat := ((List.range nl).map fun j => nth v j 0 * ((List.range j).map N).prod).sum
       count u'.v = count u.v + 1) ∧
      u'.exhausted = (nth u'.v (nl - 1) 0 == N (nl - 1)))) ∧
  -- where coordinates stand in an operand, and the causes for which a record is malformed
  (∀ t : Token, (t.hdr.pkind = 0 → coordsOf t = [sval 32 (lane 32 t.payload 0), 0, 0, 0, 0, 0]) ∧
    (t.hdr.pkind = 1 → coordsOf t = [sval 32 (lane 32 t.payload 0), sval 32 (lane 32 t.payload 1), 0, 0, 0, 0]) ∧
    (t.hdr.pkind = 2 → coordsOf t = (List.range 6).map fun j => sval 32 (lane 32 t.payload j))) ∧
  (∀ (y : Layout) (tile : Bool),
    let es := max 1 (fmtWidth y.fmt / 8)
    y.malformed tile = true ↔ y.ndim = 0 ∨ y.ndim = 7 ∨ fmtWidth y.fmt = 0 ∨ (∃ d < 6, y.ndim ≤ d ∧ y.extent d ≠ 1) ∨ y.base % es ≠ 0 ∨
      (∃ d, 1 ≤ d ∧ d < 6 ∧ d < y.ndim ∧ y.stride d % es ≠ 0) ∨ y.reserved ≠ 0 ∨
      (tile = true ∧ (128 < y.bcols ∨ 32 < y.brows ∨ y.bcols = 0 ∨ y.brows = 0 ∨ 4096 < tileBytes y.fmt y.brows y.bcols)) ∨
      (fmtIsMx y.fmt = true ∧ ¬(y.ndim = 2 ∧ y.brows = y.extent 1 ∧ y.bcols = y.extent 0 ∧ y.bcols % 32 = 0 ∧
        y.stride 1 * 8 = y.bcols * fmtWidth y.fmt))) ∧
  (∀ (y : Layout) (i : List Int), (y.inBounds i = true ↔ ∀ d < 6, 0 ≤ nth i d 0 ∧ nth i d 0 < (y.extent d : Int)) ∧
    (y.inBounds i = true → (y.addr i : Int) = y.base + nth i 0 0 * (max 1 (fmtWidth y.fmt / 8) : Nat) +
      ((List.range 5).map fun d => nth i (d + 1) 0 * (nth y.std d 0 : Int)).sum)) ∧
  ∀ (s : State) (l : Loc) (n k : Nat) (a : Access), Live s l →
    let r := rgnOf l
    let g := getRegion s r
    let e := getElem s l
    let es := a.width / 8
    let f := (Fmt.ofCode a.fmt).getD .fp32
    let done : List Piece := modNth a.pieces k fun p => { p with done := true, sent := false }
    (∀ p, MayPerform s l n k a p → (∀ q ∈ a.pieces, farPiece g q = false) →
      (p.rmw = false → p.wr = false → a.isRec = false → a.op ≠ 0x0D ∨ a.headed = true → earlier e n = [] → Completes (.evPortAccessPerform l n k) s fun t =>
        t.hbm = s.hbm ∧ t.hostMem = s.hostMem ∧ (getElem t l).pending = e.pending ∧ ∃ b, getAccess t l n = some b ∧
          b.pieces = done ∧ b.bad = a.bad ∧
          b.buf = p.els.foldl (fun v x => setByteRange v (x.1 * es) es (readBytes s.hbm (a.phys x.2) es)) a.buf) ∧
      (p.rmw = false → p.wr = true → (fmtIsMx a.fmt && a.op == 0xA1) = false → a.seq = false → a.op ≠ 0x0D ∨ a.headed = true → 0 < es →
        Completes (.evPortAccessPerform l n k) s fun t =>
          (∃ b, getAccess t l n = some b ∧ b.pieces = done ∧ b.buf = a.buf) ∧ t.hostMem = s.hostMem ∧
          (∀ x, p.els = [x] → t.hbm = writeBytes s.hbm (a.phys x.2) es (storeElem a x.1)) ∧
          (Memory.wf s.hbm = true → ∀ y, (∀ x ∈ p.els, y / 64 ≠ a.phys x.2 / 64) → getByte t.hbm y = getByte s.hbm y)) ∧
      (∀ x, p.rmw = true → p.els = [x] → 0xB0 ≤ a.op → a.op ≤ 0xB8 → a.poison = false → a.seq = false → 0 < es →
        let old := readBytes s.hbm (a.phys x.2) es
        let new := atomicTable f a.ftz a.op old ((a.b.getD {}).payload % 2 ^ f.width) ((a.c.getD {}).payload % 2 ^ f.width)
        Completes (.evOwnerRmw l n k) s fun t =>
          t.hbm = (match new.1 with | some v => writeBytes s.hbm (a.phys x.2) es v | none => s.hbm) ∧
          ∃ b, getAccess t l n = some b ∧ b.pieces = done ∧ b.buf = old ∧ b.stat = new.2) ∧
      (∀ x, p.rmw = true → p.els = [x] → a.op = 0xA7 → a.seq = false → 0 < es →
        let old := readBytes s.hbm (a.phys x.2) es
        Completes (.evOwnerRmw l n k) s fun t =>
          t.hbm = writeBytes s.hbm (a.phys x.2) es (combine f a.ftz a.mod old (lane a.width a.buf x.1)).1)) ∧
    (∀ p x, getAccess s l n = some a → a.begun = true → a.held = none → a.pieces.length = a.xl + 1 → a.pieces[a.xl]? = some p →
      p.done = false → p.els = [x] → rmemOf g x.2 = none → s.badLines = [] → s.softLines = [] →
      let d := portDieOf s l
      (∀ pa st off tlb wc, translate s (walker s d) l.part e.port.tlb 512 (pieceNeed a p) x.2 = (.ok pa, tlb, wc) →
        target pa = .hbm st off → Completes (.evPageWalk l n) s fun t => (getElem t l).port.tlb = tlb ∧
          t.walkc = modNth s.walkc d (fun _ => wc) ∧ t.hbm = s.hbm ∧ ∃ b, getAccess t l n = some b ∧
          lookupKey b.pages (x.2 / 4096) = some (pa / 4096) ∧ b.xl = a.xl + 1 ∧ b.held = none) ∧
      (∀ err tlb wc, translate s (walker s d) l.part e.port.tlb 512 (pieceNeed a p) x.2 = (.error err, tlb, wc) →
        Completes (.evPageWalk l n) s fun t => (getRegion t r).stopping = true ∧ t.hbm = s.hbm ∧
          ∃ b, getAccess t l n = some b ∧ b.held = some err.code ∧ b.fva = x.2 % 2 ^ 56)) ∧
    (getAccess s l n = some a → mayComplete s e n a = true → a.scope ≠ 2 → a.nfp = false →
      let c := completion a
      Completes (.evCompletionToken l n) s fun t => (getElem t l).port.accs = e.port.accs.eraseIdx n ∧
        ((getElem t l).inject.map fun x => (x.chan, x.tok.payload, x.tok.hdr.plain)) =
          (e.inject.map fun x => (x.chan, x.tok.payload, x.tok.hdr.plain)) ++ a.dest.map (fun ch => (ch, c.2.1, c.1.plain)) ∧
        (a.poison = true → a.eos = false → ∀ x ∈ (getElem t l).inject.drop e.inject.length, x.tok.hdr.poison = true) ∧
        (getElem t l).flags = e.flags ||| c.2.2 ∧ t.hbm = s.hbm) ∧
    (∀ b, getAccess s l n = some a → a.op = 0xA6 → a.begun = true → copyBlock a b ≠ [] → (∀ p ∈ copyBlock a b, p.done = true) →
      b ∉ a.credited → mdGid a.desc ≠ 0 → a.scope ≠ 2 → ∀ q, g.img.gauges[mdGid a.desc - 1]? = some q →
      let bytes := ((copyBlock a b).map fun p => (p.els.filter fun e => e.2 / 256 == b).length).sum * es
      let adds (gs : List Gauge) := modNth gs q.2.2.2.1 fun y => y.apply (.add 0 bytes)
      Completes (.evCopyPiecePerformed l n b) s fun t =>
        (∃ c, getAccess t l n = some c ∧ c.credited = b :: a.credited) ∧
        ∀ m x, g.elems[m]? = some x → x.x = q.1 → x.y = q.2.1 → x.kind = q.2.2.1 →
          ((∀ z, x.gaugeOwn = some z → z.1 ≠ s.clk) → (nth (getRegion t r).elems m {}).gauges = adds x.gauges) ∧
          -- an addition comes before the element's own firings of its clk
          (∀ gs ops, x.gaugeOwn = some (s.clk, gs, ops) → (nth (getRegion t r).elems m {}).gauges =
            ops.foldl (fun gs op => modNth gs op.index fun y => y.apply op) (adds gs)))

/-- R292, R293, R295 (a request reaches the sequencer once its bytes, or the header of an `ld.rec`, are translated, and the
count without wrap: the model's choice, log entry 51): a request reaches the sequencer, or meets DUPLICATE_TOKEN there for a
number that the frontier has passed or that another request there takes; the one whose number is the frontier's is ordered, at
most one in a clk; the frontier passes the numbers that no slot can take any longer, and only those, whatever wraps their 24
bits have made. -/
def Obligations.SequencerEvents : Prop :=
  ∀ (s : State) (l : Loc) (n : Nat) (a : Access), Live s l → getAccess s l n = some a →
    let r := rgnOf l
    let g := getRegion s r
    let passed : Prop := seqBefore a.seqo g.frontier = true
    let taken : Prop := ∃ e ∈ g.elems, ∃ x ∈ e.port.accs, x.seq = true ∧ x.id ≠ a.id ∧ x.atSeq = true ∧ x.ordered = false ∧
      blocksMeet x a = true
    let stays (t : State) : Prop := t.hbm = s.hbm ∧ ∃ b, getAccess t l n = some b ∧ b.pieces = a.pieces ∧ b.buf = a.buf
    (a.seq = true → a.reaches = true → a.ordered = false →
      (a.known = true → a.seqo = g.frontier → g.seqClk ≠ some s.clk → a.atSeq = true ∨ (¬passed ∧ ¬taken) →
        Completes (.evSequencerOrder l n) s fun t => (getRegion t r).frontier = a.seqs ∧ stays t ∧
          (getRegion t r).wraps = g.wraps + (if a.seqs < g.frontier then 1 else 0) ∧
          ∃ b, getAccess t l n = some b ∧ b.ordered = true) ∧
      (a.known = false ∨ a.seqo ≠ g.frontier ∨ g.seqClk = some s.clk → a.atSeq = true ∨ (¬passed ∧ ¬taken) →
        Completes (.evSequencerOrder l n) s fun t => (getRegion t r).frontier = g.frontier ∧ stays t ∧
          ∃ b, getAccess t l n = some b ∧ b.ordered = false ∧ b.atSeq = true) ∧
      (a.atSeq = false → passed ∨ taken → Completes (.evSequencerOrder l n) s fun t =>
        (getRegion t r).frontier = g.frontier ∧ getElem t l = getElem s l ∧
        MeetsStop s t r (atElem s l { cause := 0x20, tag := a.tag, slot := a.slot, addr := a.seqo }) (0x20, l.elem, a.slot, a.tag, a.id))) ∧
    (let F := g.wraps * 2 ^ 24 + g.frontier
     polSeq g = true → slotCovers g F = false →
      (g.elems.any fun (e : Elem) => e.port.accs.any fun b => b.seq && !b.ordered && b.seqo == g.frontier) = false →
      Completes (.evFrontierPass r) s fun t => ∃ k, k ≤ (curVariant g).nr ∧ (getRegion t r).frontier = (g.frontier + k) % 2 ^ 24 ∧
        (getRegion t r).wraps = (F + k) / 2 ^ 24 ∧
        (∀ j < k, slotCovers g (F + j) = false) ∧ (k = (curVariant g).nr ∨ slotCovers g (F + k) = true))

/-- R77, R242, R267, R270, R301, R303, R328, R329, R367, R370 (DONE clears SHRP, and a pour waits for elements that another
region holds: the model's choice, log entries 37 and 70): the stop is broadcast; the cut completes and the region is STOPPED;
the Doldrums monitor stops it, for SPILL_FULL where an element shows bit 3 or 6 of its reasons and else for DEADLOCK; a pour
ends with everything of it discarded, a LEAK record for each element that held data, and its digest in the table, the last one
in DONE; the launch's first pour, and the next one at the region's footprint, starts where the wheels stand at index 0. -/
def Obligations.PourEvents : Prop :=
  ∀ (s : State) (r : Rgn), r.part < 16 →
    let g := getRegion s r
    (g.stopping = true → g.bcastClk = none → running g = true → Completes (.evStopBroadcast r) s fun t =>
      getRegion t r = { g with bcastClk := some s.clk, cutp := true } ∧ Local s t r) ∧
    (running g = true → cutDone s r = true → g.fronts = [] →
      ((∀ area, g.job ≠ some (.evict area)) → Completes (.evCutComplete r) s fun t =>
        getRegion t r = { g with cutp := false, stopping := false, bcastClk := none, idleBase := s.clk, resumeSt := g.st, st := 5 } ∧
        Posted t t r ∧ Local s t r) ∧
      (∀ area, g.job = some (.evict area) → Completes (.evCutComplete r) s fun t =>
        (getRegion t r).job = some (.save area) ∧ (getRegion t r).st = g.st ∧ (getRegion t r).cutp = false)) ∧
    (doldrumsDue s r = true → g.recorded = [] → g.faultq.length < 32 → Completes (.evDoldrumsFire r) s fun t =>
      (getRegion t r).stopping = true ∧ (getRegion t r).elems = g.elems ∧ (getRegion t r).chans = g.chans ∧
      ∃ x, (getRegion t r).faultq = queueRec x g.faultq ∧
        bits x 63 56 = if (blocked s r).any (fun q => bit q.2.2 3 || bit q.2.2 6) then 0x31 else 0x30) ∧
    (pourOver g = true → Completes (.evPourEnd r) s fun t =>
      let h := getRegion t r
      (∀ e ∈ h.elems, e.sets = [] ∧ e.heads = [] ∧ e.pending = [] ∧ e.inject = [] ∧ e.port.accs = [] ∧ e.flags = 0) ∧
      (∀ c ∈ h.chans, c.flights = [] ∧ c.arrived = [] ∧ c.acks = [] ∧ c.outstanding = 0 ∧ c.reserved = 0) ∧
      h.pour = g.pour ∧ ((∀ e ∈ g.elems, e.pending = []) → h.rflags = g.elems.foldl (fun f e => f ||| e.flags) g.rflags) ∧
      -- what was resident, by element, with no firing under way
      (let left (at_ : Option Nat) := (resids s g).filter fun x => x.at_ == at_ && x.toks != 0
       let rec_ (at_ : Option Nat) (o : Resid) : FRec :=
         let f : FRec := { cause := 0x60, tag := o.tag, slot := o.slot, addr := ((left at_).map fun y => y.toks).sum }
         match at_ with | some n => atElem s ⟨r.part, r.handle, n⟩ f | none => { f with slot := 0, ekind := 3 }
       let places : List (Option Nat) := (List.range g.elems.length).map some ++ [none]
       (∀ e ∈ g.elems, e.pending = []) → g.faultq.length + places.length ≤ 32 →
         h.faultq.length = g.faultq.length + (places.filter fun q => left q != []).length ∧ (∀ x ∈ g.faultq, x ∈ h.faultq) ∧
         ∀ q ∈ places, ∀ o, firstResid (residKey g) (left q) = some o → recordBits s g (rec_ q o) ∈ h.faultq) ∧
      (∀ pa st off, (∀ e ∈ g.elems, e.pending = []) → s.badLines = [] → s.softLines = [] → Memory.wf s.hbm = true →
        xlatW s r.part (workArea g + 0x4000 + 32 * g.pour) = .ok pa → target pa = .hbm st off →
        t.hbm = writeBytes s.hbm pa 32 (pourDigest g) ∧ (polSeq g = false → readBytes t.hbm pa 32 = 0)) ∧
      (g.pour + 1 < g.img.npour → h.between = true ∧ h.st = g.st) ∧
      (g.img.npour ≤ g.pour + 1 → h.st = 4 ∧ h.shrp = false ∧ Posted t t r)) ∧
    (g.between = true → g.starting = true → g.st = 2 ∨ g.st = 3 → wheelIndex s (firstDie g.place) = 0 →
      Completes (.evPourStart r) s fun t =>
        getRegion t r = { g with between := false, starting := false, idleBase := s.clk } ∧ Local s t r) ∧
    (wheelIndex s (firstDie g.place) ≠ 0 → Completes (.evPourStart r) s fun t => t = s) ∧
    (g.between = true → g.starting = false → g.st = 2 ∨ g.st = 3 → wheelIndex s (firstDie g.place) = 0 → g.shrp = false →
     (pourWaits s r = true → Completes (.evPourStart r) s fun t => t = s) ∧
     (pourWaits s r = false → Completes (.evPourStart r) s fun t =>
      let h := getRegion t r
      h.digest = pourHeader h.pour ∧ h.pour = g.pour + 1 ∧ h.between = false ∧ h.st = g.st ∧ h.foot = g.foot ∧ h.img = g.img ∧ h.idleBase = s.clk ∧ h.frontier = 0 ∧
      h.elems.length = (allElems g.img (curVariant h)).length ∧ (∀ e ∈ h.elems, e.sets = [] ∧ e.pending = [] ∧ e.banks = ({} : Elem).banks) ∧
      (g.st = 3 → ∀ c ∈ h.chans, c.src = .inj → c.num ∈ h.eosInj) ∧ (g.st = 2 → h.eosInj = []) ∧ Local s t r))

/-- R240, R247, R262, R330, R359, R361, R364, R378, R379, Table 19.3, Table 10.3 (what no rule places in the save area: the
model's choice, log entry 34): a load ends once its staging copy is whole, and judges that copy; one that passes leaves the
region ARMED with pour 0 configured, one that fails leaves it UNARMED with its cause; a save writes its five sections, with the
bytes of the header, of bodies, of elements, of sets and of tokens, and leaves the region SAVED; a restore that passes takes
back elements, bodies, channels, frontier and digest, and resumes a region that was not stopped; one that fails leaves it SAVED
with its cause. -/
def Obligations.LoadEvents : Prop :=
  (∀ (s : State) (g : Region),
    let o := saveOffsets s g
    let v := saveHead s g
    (∀ q ∈ [(0x00, 8, 0x5641534F4C494F4E), (0x08, 2, 1), (0x0A, 1, if g.st = 5 ∨ g.recorded ≠ [] then 5 else g.st), (0x0B, 1, g.foot),
        (0x0C, 4, g.launch), (0x10, 8, g.imgAddr), (0x18, 8, o.2.2.2.2), (0x20, 2, g.img.regw), (0x22, 2, g.img.regh), (0x24, 2, g.pour),
        (0x26, 2, g.origin), (0x28, 8, s.clk - g.launchClk), (0x30, 4, g.frontier), (0x34, 4, (allChanTokens s g).length),
        (0x38, 2, g.faultq.length), (0x40, 8, o.1), (0x48, 8, o.2.1), (0x50, 8, o.2.2.1), (0x58, 8, o.2.2.2.1),
        (0x60, 8, if g.st = 5 ∨ g.recorded ≠ [] then g.stopW0 else 0), (0x80, 200, g.digest.state), (0x148, 8, g.digest.absorbed)],
      byteRange v q.1 q.2.1 = q.2.2 % 256 ^ q.2.1) ∧
    (∀ k < 32, byteRange v (0x800 + 64 * k) 64 = nth g.faultq k 0 % 2 ^ 512) ∧ v < 256 ^ 0x1000 ∧
    o.1 = 0x1000 ∧ o.2.1 % 4096 = 0 ∧ o.2.2.1 % 4096 = 0 ∧ o.2.2.2.1 % 4096 = 0 ∧
    o.1 + (g.bodies.map fun b => 16 + 272 * b.desc.k).sum ≤ o.2.1 ∧
    o.2.2.1 = o.2.1 + ((savedElems g).map fun e => if e.kind = 1 then 0x15000 else 0xD000).sum ∧
    o.2.2.2.1 = o.2.2.1 + 4096 * ((savedElems g).map fun e =>
      e.cfg.pooln + e.cfg.frmsize + e.cfg.ressize + if e.cfg.gaugen > 0 then 1 else 0).sum ∧
    o.2.2.2.2 = o.2.2.2.1 + 128 * chanBeats s g) ∧
  (∀ (b : BodySt) (l : List BodySt), b.insts.length = b.desc.k → (∀ i ∈ b.insts, i.counts.length ≤ 256) →
    let v := bodySection (b :: l)
    let size := 16 + 272 * b.desc.k
    byteRange v 0 2 = b.desc.num % 2 ^ 16 ∧ byteRange v 2 2 = b.desc.k % 2 ^ 16 ∧ byteRange v 4 4 = b.alloc % 2 ^ 32 ∧
    (∀ k i, b.insts[k]? = some i → byteRange v (16 + 272 * k) 1 = i.st % 256 ∧ byteRange v (16 + 272 * k + 4) 4 = i.oldest % 2 ^ 32 ∧
      ∀ j < 256, byteRange v (16 + 272 * k + 16 + j) 1 = nth i.counts j 0 % 256) ∧
    v / 2 ^ (8 * size) = bodySection l) ∧
  (∀ (g : Region) (e : Elem) (l : List Elem),
    let v := elemSection g (e :: l)
    byteRange v 0 2 = e.preds % 2 ^ 16 ∧ byteRange v 2 1 = e.flags.toNat ∧ byteRange v 8 8 = e.eosFlags % 2 ^ 64 ∧
    (∀ k < 32, byteRange v (16 + 8 * k) 8 = nth e.states k 0 % 2 ^ 64 ∧ byteRange v (272 + 4 * k) 4 = nth e.consts k 0 % 2 ^ 32) ∧
    (∀ k m, k < 64 → (e.sets.filter fun m => !m.inFrame)[k]? = some m → byteRange v (0x1000 + 128 * k) 128 = setBytes g e m % 2 ^ 1024) ∧
    (∀ k h, k < 256 → (e.heads.flatMap fun q => q.2)[k]? = some h → byteRange v (0x4000 + 64 * k) 64 = headBytes g h % 2 ^ 512) ∧
    (∀ k b, k < 4 → e.banks[k]? = some b → let at_ := 0x8000 + 4160 * k
      byteRange v at_ 4096 = b.cells % 2 ^ 32768 ∧ byteRange v (at_ + 4096) 2 = b.vr % 2 ^ 16 ∧ byteRange v (at_ + 4098) 2 = b.vc % 2 ^ 16 ∧
      byteRange v (at_ + 4100) 2 = b.mask % 2 ^ 16 ∧ byteRange v (at_ + 4102) 2 = b2n b.poison ∧ byteRange v (at_ + 4104) 2 = b.fidx % 2 ^ 16 ∧
      byteRange v (at_ + 4106) 4 = b.sctx % 2 ^ 32) ∧
    (e.kind = 1 → (∀ k < 256, byteRange v (0xD000 + 64 * k) 64 = (lookupKey e.port.layc k).getD 0 % 2 ^ 512) ∧
      ∀ k < 64, let u := (lookupKey e.port.nests k).getD {}
        byteRange v (0x13000 + 128 * k) 121 = u.prog % 2 ^ 968 ∧ byteRange v (0x13000 + 128 * k + 121) 1 = b2n u.exhausted) ∧
    v / 2 ^ (8 * if e.kind = 1 then 0x15000 else 0xD000) = elemSection g l) ∧
  (∀ (g : Region) (e : Elem) (m : MSet), m.orphan < 8 →
    let v := setBytes g e m
    byteRange v 0 4 = m.tag % 2 ^ 32 ∧
    (∀ p < 3, bit (byteRange v 4 1) p = (m.pos p).isSome ∧ bit (byteRange v 4 1) (p + 3) = bit m.orphan p) ∧
    bit (byteRange v 4 1) 6 = (m.inFrame && m.ready.isSome) ∧
    ∀ p < 3, ∀ h, m.pos p = some h → byteRange v (32 + 32 * p) 24 = byteRange (hdrBits h.tok.hdr (regChan g h.tok.hdr.chan)) 4 24 ∧
      byteRange v (56 + 32 * p) 8 =
        (match h.loc with | .here => h.tok.payload | .pool b => b | .spill n => 2 ^ 63 + n | .fetching n _ => 2 ^ 63 + n) % 2 ^ 64) ∧
  ∀ (s : State) (r : Rgn), r.part < 16 →
    let g := getRegion s r
    (g.copy.done = false → (∀ va place, g.job = some (.load va place) → Completes (.evIloadComplete r) s fun t => t = s) ∧
      (∀ place area, g.job = some (.restore place area) → Completes (.evRestoreComplete r) s fun t => t = s)) ∧
    (∀ va place, g.job = some (.load va place) → g.copy.done = true →
      (∀ q, infuse s r va place = .ok q → Completes (.evIloadComplete r) s fun t =>
        let h := getRegion t r
        h.st = 1 ∧ h.load = false ∧ h.job = none ∧ h.img = q.img ∧ h.imgAddr = va ∧ h.place = place ∧ h.pour = 0 ∧ h.foot = 0 ∧
        h.brken = false ∧ h.faultq = [] ∧ h.launch = g.launch ∧ Posted t t r) ∧
      (∀ f, infuse s r va place = .error f → Completes (.evIloadComplete r) s fun t =>
        let h := getRegion t r
        h.st = g.st ∧ h.load = false ∧ h.job = none ∧ h.img = {} ∧ h.rcause = refusedCause s r.part place f ∧ Posted t t r ∧
        t.hbm = s.hbm)) ∧
    (∀ area, g.job = some (.save area) → Completes (.evSaveComplete r) s fun t =>
      (getRegion t r).st = 6 ∧ (getRegion t r).job = none ∧ Posted t t r ∧
      let o := saveOffsets s g
      let tokens := (allChanTokens s g).map fun q => (regChan g q.1, q.2)
      let sections : List (Nat × Nat × Nat) := [(0, 0x1000, saveHead s g), (o.1, o.2.1 - o.1, bodySection g.bodies),
        (o.2.1, o.2.2.1 - o.2.1, elemSection g (savedElems g)), (o.2.2.1, o.2.2.2.1 - o.2.2.1, carveSection g (savedElems g)),
        (o.2.2.2.1, o.2.2.2.2 - o.2.2.2.1, chanSection tokens)]
      t.hbm = (sections.foldl (fun u q => vwriteLong u r.part (q.2.1 / 64 + 2) (area + q.1) q.2.1 q.2.2) s).hbm) ∧
    (∀ place area, g.job = some (.restore place area) → g.copy.done = true →
      (∀ f, infuse s r g.imgAddr place = .error f → Completes (.evRestoreComplete r) s fun t =>
        (getRegion t r).st = g.st ∧ (getRegion t r).load = false ∧ (getRegion t r).rcause = refusedCause s r.part place f ∧
        Posted t t r ∧ t.hbm = s.hbm) ∧
      (∀ q h bo el ca ch, infuse s r g.imgAddr place = .ok q → vreadLong s r.part 80 area 0x1000 = .ok h →
        areaAgrees s (restoreBase g place q h s.clk) q.img h = true →
        let sect (a b : Nat) : Except Nat Nat :=
          let n := byteRange h b 8 - byteRange h a 8
          vreadLong s r.part (n / 64 + 2) (area + byteRange h a 8) n
        sect 0x40 0x48 = .ok bo → sect 0x48 0x50 = .ok el → sect 0x50 0x58 = .ok ca → sect 0x58 0x18 = .ok ch →
        Completes (.evRestoreComplete r) s fun t =>
          let x := getRegion t r
          x.st = byteRange h 0x0A 1 ∧ x.load = false ∧ x.place = place ∧ x.pour = byteRange h 0x24 2 ∧ x.launch = byteRange h 0x0C 4 ∧
          x.foot = byteRange h 0x0B 1 ∧ x.origin = byteRange h 0x26 2 ∧ Posted t t r ∧
          (s.badLines = [] → s.softLines = [] → t.hbm = s.hbm) ∧
          x.img = q.img ∧ x.frontier = byteRange h 0x30 4 ∧ x.digest = { state := byteRange h 0x80 200, absorbed := byteRange h 0x148 8 } ∧
          (x.st = 5 → x.faultq = (List.range (min 32 (byteRange h 0x38 2))).map (fun k => byteRange h (0x800 + 64 * k) 64) ∧
            x.stopW0 = byteRange h 0x60 8) ∧
          (x.st ≠ 5 → x.pass = none ∧ ∀ e ∈ x.elems, ∀ a ∈ e.port.accs, a.held = none) ∧
          (∀ k < (curVariant x).elems.length, let e := nth x.elems k {}
            let y := el / 2 ^ (8 * ((x.elems.take k).map fun e => if e.kind = 1 then 0x15000 else 0xD000).sum)
            e.pending = [] ∧ e.preds = byteRange y 0 2 ∧ e.flags = BitVec.ofNat 5 (byteRange y 2 1) ∧ e.eosFlags = byteRange y 8 8 ∧
            (∀ j < 32, nth e.states j 0 = byteRange y (16 + 8 * j) 8 ∧ nth e.consts j 0 = byteRange y (272 + 4 * j) 4) ∧
            (∀ j < 4, let at_ := 0x8000 + 4160 * j
              ∃ b, e.banks[j]? = some b ∧ b.cells = byteRange y at_ 4096 ∧ b.vr = byteRange y (at_ + 4096) 2 ∧
                b.vc = byteRange y (at_ + 4098) 2 ∧ b.mask = byteRange y (at_ + 4100) 2 ∧ b.poison = (byteRange y (at_ + 4102) 2 != 0) ∧
                b.fidx = byteRange y (at_ + 4104) 2 ∧ b.sctx = byteRange y (at_ + 4106) 4) ∧
            (∀ j < 64, ∀ slot, slotOfBytes x.chBase (byteRange y (0x1000 + 128 * j) 128) e = some slot →
              let z := byteRange y (0x1000 + 128 * j) 128
              ∃ m ∈ e.sets, m.slot = slot ∧ m.tag = byteRange z 0 4 ∧ m.orphan = bits (byteRange z 4 1) 5 3 ∧ ∀ p < 3,
                (m.pos p).isSome = bit (byteRange z 4 1) p ∧ ∀ d, m.pos p = some d →
                  d.tok.hdr = (hdrOfBits (byteRange z 0 4 + 2 ^ 32 * byteRange z (32 + 32 * p) 24)).onBase x.chBase) ∧
            (∀ j < 256, byteRange y (0x4000 + 64 * j) 64 ≠ 0 → ∃ c ∈ e.heads, ∃ d ∈ c.2,
              d.tok.hdr = (hdrOfBits (byteRange y (0x4000 + 64 * j) 28)).onBase x.chBase ∧ c.1 = d.tok.hdr.chan) ∧
            (e.kind = 1 → ∀ j < 256, lookupKey e.port.layc j =
              if byteRange y (0xD000 + 64 * j) 64 = 0 then none else some (byteRange y (0xD000 + 64 * j) 64))) ∧
          (x.bodies.map (fun b => b.desc) = q.img.bodies ∧ ∀ k b, x.bodies[k]? = some b →
            let y := bo / 2 ^ (8 * ((x.bodies.take k).map fun b => 16 + 272 * b.desc.k).sum)
            b.alloc = byteRange y 4 4 ∧ b.insts.length = b.desc.k ∧ ∀ j i, b.insts[j]? = some i →
              i.st = byteRange y (16 + 272 * j) 1 ∧ i.oldest = byteRange y (16 + 272 * j + 4) 4 ∧
              i.counts = (List.range (bodyW b.desc)).map (fun m => byteRange y (16 + 272 * j + 16 + m) 1) ∧
              (i.st = 1 → i.oldest ≠ 0 → ∀ m < x.elems.length, ∃ c ∈ x.bcasts,
                c.dst = m ∧ c.body = b.desc.num ∧ c.inst = j ∧ c.free = false ∧ c.oldest = i.oldest)) ∧
          ∀ c ∈ x.chans, (∀ l, c.src ≠ .link l) → c.arrived ++ c.flights.map (fun f => f.tok) =
            (restoreToks x.chBase (byteRange h 0x34 4) ch).filter fun d => d.hdr.chan == c.num))

/-! ### Links, remote memory, the scheduler, the host and the module -/

/-- R306 to R309, R311, R314, R323, R324, R395 (control flit data, 3 clk between flits, the late resolution of mist positions,
BIND of a stopped region, the numbering of UNBIND and the trained version as an argument: the model's choice, log entries 12, 53
and 8): a lane group sends, stamps and replays its flits in order; it accepts the next flit, NAKs a corrupt one or a gap, and
discards an old one; it replays on NAK, compares BIND, is lost, moves to its spare in any state of its region or stops its
region, and trains to a common version. -/
def Obligations.LinkEvents : Prop :=
  ∀ (s : State) (g : Nat), g < s.lanes.length →
    let l := getLane s g
    let goes (i : Instr) (x : Lane) : Prop := Completes i s fun t => t = modLane s g fun _ => x
    -- flit f leaves with FSEQ n and TCRED k, CRC and ASEQ stamped; the lane group is then x but for the wire
    let leaves (f : Flit) (n k : Nat) (w : Flit) : Prop := w.crcOk = true ∧ w.data = f.data ∧ w.tag = f.tag ∧ w.fkind = f.fkind ∧
      w.mist = f.mist ∧ w.blk = f.blk ∧ w.nfl = f.nfl ∧ w.fseq = n % 2 ^ 16 ∧ w.tcred = k ∧
      (w.aseq + 1) % 2 ^ 16 = l.rxSeq % 2 ^ 16
    let sends (i : Instr) (f : Flit) (n k : Nat) (x : Flit → Lane) : Prop := Completes i s fun t => ∃ w, leaves f n k w ∧
      t = modLane s g fun _ => { x w with wire := l.wire ++ [w], lastSend := s.clk }
    let stopped (i : Instr) (x : Lane) : Prop := ∀ b k, l.bind = some b → laneBind s l = some k → k.form ≠ 2 → b.1 < 16 →
      (k.altk = 0xFF → k.altn = 0xFF → (let h := getRegion s ⟨b.1, b.2.1⟩; h.st = 2 ∨ h.st = 3) →
        Completes i s fun t => getLane t g = x ∧ MeetsStop s t ⟨b.1, b.2.1⟩ { cause := 0x50, chan := g } (0x50, 2048, 0, 0, g)) ∧
      (k.altk = 0xFF → k.altn = 0xFF → (let h := getRegion s ⟨b.1, b.2.1⟩; h.st ≠ 2 ∧ h.st ≠ 3) → goes i x) ∧
      (∀ q, spareOf s b k = some q → q ≠ g → Completes i s fun t => (getLane t q).bind = l.bind ∧ (getLane t q).resend = l.replay ∧
        (getLane t q).txSeq = l.txSeq ∧ (getLane t q).spareFor = some g ∧ (getLane t q).atMist = false ∧
        getLane t g = { x with bind := none } ∧
        let turn (e : ChEnd) : ChEnd := if e = .link g then .link q else e
        let h := getRegion s ⟨b.1, b.2.1⟩
        getRegion t ⟨b.1, b.2.1⟩ =
          { h with
            chans := h.chans.map (fun (c : Chan) => { c with src := turn c.src, dst := turn c.dst }), spares := (g, q) :: h.spares,
            linkOwed := h.linkOwed.map fun w => if w.1 = g then (q, w.2) else w })
    -- the oldest control flit of kind k says a, and the others stay
    let told (k : Nat) (a : Nat × Nat × Nat) (cs : List (Nat × Nat × Nat × Nat)) : Prop :=
      ∃ before after, l.ctl = before ++ (k, a) :: after ∧ (∀ c ∈ before, c.1 ≠ k) ∧ cs = before ++ after
    (l.live = true → l.wire = [] ∨ l.lastSend + 3 ≤ s.clk →
      let k := min l.tcred 255
      let next (x : Lane) (w : Flit) : Lane := { x with txSeq := (l.txSeq + 1) % 2 ^ 16, tcred := l.tcred - k, replay := l.replay ++ [w] }
      (∀ f r, l.urgent = f :: r → sends (.evFlitSend g) f (l.txSeq + 65535) 0 fun _ => { l with urgent := r }) ∧
      (∀ f r, l.urgent = [] → l.resend = f :: r → sends (.evFlitSend g) f f.fseq f.tcred fun _ => { l with resend := r }) ∧
      (∀ f r, l.urgent = [] → l.resend = [] → l.sendq = f :: r → f.fkind = 1 ∨ (l.bindDue = false ∧ l.bindWait = false) →
        (f.mist = true → l.replay.length < 256 →
          sends (.evFlitSend g) f l.txSeq 0 fun _ => { l with sendq := r, txSeq := (l.txSeq + 1) % 2 ^ 16 }) ∧
        (f.mist = false → l.replay.length < 256 → sends (.evFlitSend g) f l.txSeq k (next { l with sendq := r }))) ∧
      (l.urgent = [] → l.resend = [] → 256 ≤ l.replay.length → Completes (.evFlitSend g) s fun t => t = s) ∧
      (l.urgent = [] → l.resend = [] → l.midUnit = false → l.bindDue = false → l.bindWait = true →
        Completes (.evFlitSend g) s fun t => t = s) ∧
      (l.urgent = [] → l.resend = [] → l.sendq = [] → l.bindDue = false → l.bindWait = false → sendHead s g = none → 0 < l.tcred →
        l.replay.length < 256 → sends (.evFlitSend g) (ctlFlit ckCred 0 0 0) l.txSeq k (next l)) ∧
      (∀ b, l.urgent = [] → l.resend = [] → l.midUnit = false → l.bindDue = true → laneBind s l = some b → l.replay.length < 256 →
        sends (.evFlitSend g) (ctlFlit ckBind b.form (b2n b.mist) (l.major * 256 + l.minor)) l.txSeq k (next { l with bindDue := false })) ∧
      (∀ r c t, l.urgent = [] → l.resend = [] → l.sendq = [] → l.bindDue = false → l.bindWait = false → sendHead s g = some (r, c, t) →
        l.replay.length < 256 → Completes (.evFlitSend g) s fun u => ∃ w, (getLane u g).wire = l.wire ++ [w] ∧ w.crcOk = true ∧
          w.fkind = 0 ∧ w.tag = t.hdr.tag % 2 ^ 32 ∧ w.nfl = payloadFlits t.hdr % 32 ∧ w.data = tokenBeats t c.num % 2 ^ 1024 ∧
          (getLane u g).sendq.length = payloadFlits t.hdr ∧ ∀ n f, (getLane u g).sendq[n]? = some f →
            f.fkind = 1 ∧ f.tag = t.hdr.tag % 2 ^ 32 ∧ f.blk = n % 16 ∧ f.mist = (laneBind s l).any (bindMist l) ∧
            f.data = byteRange (t.payload % 2 ^ (8 * payloadBytes t.hdr)) (256 * n) 256)) ∧
    (l.live = true → l.wire ≠ [] → l.lastSend + 64 ≤ s.clk → l.urgent = [] → l.resend = [] → l.bindDue = false →
      l.tcred = 0 → l.midUnit = false → l.bindWait = true ∨ (l.sendq = [] ∧ sendHead s g = none) → sends (.evLinkIdleFlit g) (ctlFlit ckIdle 0 0 0) (l.txSeq + 65535) 0 fun _ => l) ∧
    (∀ f err, l.live = true → l.rxq = [] →
      let x : Flit := { data := f % 2 ^ 2048, side := f / 2 ^ 2048 % 2 ^ 128 }
      let cls := match laneBind s l with | some b => bindMist l b && b.form == 0 | none => false
      let i : Instr := .evFlitReceive g f err
      let nak (y : Lane) : Lane := { y with nak := some y.rxSeq, urgent := y.urgent ++ [ctlFlit ckNak y.rxSeq 0 0] }
      let got := l.acked x.aseq
      let taken : Lane := { got with nak := none, rxSeq := (l.rxSeq + 1) % 2 ^ 16 }
      (err = true ∨ x.crcOk = false → (l.atMist = false ∨ l.nak ≠ none → goes i (nak l)) ∧ (l.atMist = true → l.nak = none → goes i l)) ∧
      (err = false → x.crcOk = true → x.reserved = true → goes i l) ∧
      (err = false → x.crcOk = true → x.reserved = false → unnumbered x = true → x.tcred = 0 →
        (byteRange x.data 0 1 = ckNak → goes i { got with ctl := l.ctl ++ [ctlOf x] }) ∧
        (byteRange x.data 0 1 = ckIdle → l.atMist = false →
          (seqLt l.rxSeq ((x.fseq + 1) % 2 ^ 16) = true → goes i (nak got)) ∧
          (seqLt l.rxSeq ((x.fseq + 1) % 2 ^ 16) = false → goes i got))) ∧
      (err = false → x.crcOk = true → x.reserved = false → unnumbered x = false →
        (∀ n, l.nak = some n → n ≠ x.fseq → goes i got) ∧
        (l.nak = none → seqLt x.fseq l.rxSeq = true → goes i got) ∧
        (l.nak = none → seqLt l.rxSeq x.fseq = true → l.atMist = false → goes i (nak got)) ∧
        (l.nak = none ∨ l.nak = some x.fseq → x.fseq = l.rxSeq → x.tcred = 0 →
          (x.fkind = 4 → goes i { taken with ctl := l.ctl ++ [ctlOf x] }) ∧
          (let opened : RxUnit := { fkind := x.fkind, data := x.data, mist := x.fkind = 0 && cls, todo := List.range x.nfl }
           x.fkind ≠ 1 → x.fkind ≠ 4 → x.fkind ≠ 2 → x.nfl ≠ 0 → goes i { taken with rx := some opened }) ∧
          (∀ u b c r, x.fkind = 1 → l.rx = some u → u.todo = b :: c :: r →
            goes i { taken with rx := some { u with blocks := u.blocks ++ [(b, x.data)], todo := c :: r } }) ∧
          (∀ u b, x.fkind = 1 → l.rx = some u → u.todo = [b] → u.fkind = 2 →
            let whole : RxUnit := { u with blocks := u.blocks ++ [(b, x.data)], todo := [] }
            goes i { taken with rx := none, reqs := l.reqs ++ [whole] }) ∧
          (∀ b c, x.fkind = 0 → x.nfl = 0 → l.bind = some b → b.1 < 16 → running (getRegion s ⟨b.1, b.2.1⟩) = true →
            ((getRegion s ⟨b.1, b.2.1⟩).chans.find? fun (c : Chan) => c.src == .link g) = some c → c.outstanding < c.quota →
            Completes i s fun t => (getLane t g).rxq = [] ∧ (getLane t g).tcred = l.tcred + 1 ∧
              (getRegion t ⟨b.1, b.2.1⟩).chans = (getRegion s ⟨b.1, b.2.1⟩).chans.map fun (d : Chan) => if d.num = c.num then
                launchTok s.clk { d with outstanding := d.outstanding + 1 }
                  (let u := unitToken { fkind := 0, data := x.data, mist := cls }
                   { u with hdr := withSeq (getRegion s ⟨b.1, b.2.1⟩) { u.hdr with chan := c.num } })
                else d)))) ∧
    (∀ a r, told ckNak a r → goes (.evNak g) { l with ctl := r, resend := l.replay.filter fun f => !seqLt f.fseq a.1 }) ∧
    (∀ q k a b c r, told ckBind (a, b, c) r → l.bind = some q → laneBind s l = some k → l.bindSeen = none → l.bindDue = false →
      let h := getRegion s ⟨q.1, q.2.1⟩
      h.st = 2 ∨ h.st = 3 ∨ h.st = 5 →
      let x : Lane := { l with ctl := r, bindSeen := some (a, b) }
      (a = k.form → a = 2 ∨ b = b2n k.mist → goes (.evBind g) x) ∧
      (a ≠ k.form ∨ (a ≠ 2 ∧ b ≠ b2n k.mist) → k.form ≠ 2 → k.altk = 0xFF → k.altn = 0xFF → h.st ≠ 5 → q.1 < 16 →
        Completes (.evBind g) s fun t => getLane t g = { x with up := false, lost := true } ∧
          MeetsStop s t ⟨q.1, q.2.1⟩ { cause := 0x50, chan := g } (0x50, 2048, 0, 0, g))) ∧
    (l.bind = none → goes (.evLaneGroupLost g) { l with up := false, lost := true }) ∧
    stopped (.evLaneGroupLost g) { l with up := false, lost := true } ∧
    (∀ a r, told ckUnbind a r →
      (l.bind = none → goes (.evUnbind g) { l with ctl := r, up := false, lost := true }) ∧
      (∀ b k, l.bind = some b → laneBind s l = some k → k.form ≠ 2 → (let h := getRegion s ⟨b.1, b.2.1⟩; h.st = 2 ∨ h.st = 3) →
        k.altk = 0xFF → k.altn = 0xFF → b.1 < 16 → Completes (.evUnbind g) s fun t =>
          getLane t g = { l with ctl := r, up := false, lost := true } ∧
          MeetsStop s t ⟨b.1, b.2.1⟩ { cause := 0x50, chan := g } (0x50, 2048, 0, 0, g))) ∧
    (∀ major minor, Completes (.evLinkTraining g major minor) s fun t => t = { s with lanes := t.lanes } ∧
      ∀ n, n < s.lanes.length → getLane t n =
        if n / 4 = g / 4 then
          if major = 1 ∧ minor ≤ 1 then { getLane s n with up := true, lost := false, major := 1, minor := minor }
          else { getLane s n with up := false, major := 0, minor := 0 }
        else getLane s n)

/-- R283, R318 to R322 (the layout of requests and replies beyond Table 13.3 and the room of the translation caches: the model's
choice, log entries 13 and 43): a target performs a request on its own HBM or refuses it, and queues the reply; a reply
completes the piece that waits; translations are asked, told and dropped; INV is answered in its turn, times out and advances
the EPOCH, what has begun performed first. -/
def Obligations.RemoteEvents : Prop :=
  ∀ (s : State) (g : Nat) (b : Nat × Nat × Nat), g < s.lanes.length → (getLane s g).bind = some b → b.1 < 16 →
    let l := getLane s g
    let r : Rgn := ⟨b.1, b.2.1⟩
    let goes (i : Instr) (x : Lane) : Prop := Completes i s fun t => t = modLane s g fun _ => x
    -- the oldest control flit of kind k says a, and the others stay
    let told (k : Nat) (a : Nat × Nat × Nat) (cs : List (Nat × Nat × Nat × Nat)) : Prop :=
      ∃ before after, l.ctl = before ++ (k, a) :: after ∧ (∀ c ∈ before, c.1 ≠ k) ∧ cs = before ++ after
    let clean (pa n : Nat) : Prop := ∀ y, pa ≤ y → y < pa + n → (∃ st off, target y = .hbm st off) ∧
      s.badLines.contains (y / 64) = false ∧ ∀ e ∈ s.softLines, e.1 ≠ y / 64
    (l.reqs ≠ [] → Completes (.evRemoteRequest g) s fun t => ∃ k u, l.reqs[k]? = some u ∧
      (∀ j v, j < k → l.reqs[j]? = some v → farKey v.data ≠ farKey u.data) ∧
      let q := farReq u.data
      let ls := u.lns.getD ((List.range (cdiv (q.pa % 64 + q.n) 64)).map fun j => q.pa / 64 + j)
      let stat := if u.lost = [] then 0 else 6
      let answers (stat : Nat) (poison : Bool) (w : Flit) (ps : List Flit) : Prop :=
        (getLane t g).reqs = l.reqs.eraseIdx k ∧ (getLane t g).sendq = l.sendq ++ w :: ps ∧ w.fkind = 3 ∧
        w.tag = q.hdr.tag % 2 ^ 32 ∧ byteRange w.data 40 8 = q.origin ∧ (hdrOfBits (w.data % 2 ^ 256)).stat = stat ∧
        (hdrOfBits (w.data % 2 ^ 256)).poison = poison
      let places := q.runs.map (fun x => x.1) ++ q.cnt.toList ++ if q.op = 0xA8 then [] else [q.pa]
      let refused : Prop := u.lns = none ∧ (epochOld l.epoch q.epoch = true ∨ ∃ x ∈ places, ownsHbm s b.1 x = false)
      (∀ n, n ≠ g → getLane t n = getLane s n) ∧
      (refused → t.hbm = s.hbm ∧ ∃ w, answers 0xFF false w []) ∧
      (¬refused → q.op < 0xA8 → ls ≠ [] → clean q.pa q.n → 0 < q.n → (∀ x ∈ ls, q.pa / 64 ≤ x ∧ x ≤ (q.pa + q.n - 1) / 64) →
        -- one of its lines
        ∃ j ln, ls[j]? = some ln ∧
          let lo := max q.pa (64 * ln)
          let n := min (q.pa + q.n) (64 * ln + 64) - lo
          let rest := ls.eraseIdx j
          let stays (ans : FarAns) : Prop := (getLane t g).sendq = l.sendq ∧
            (getLane t g).reqs = modNth l.reqs k fun _ => { u with lns := some rest, ans := ans }
          let stores := q.op = 0xA1 ∨ q.op = 0xA3 ∨ q.op = 0x0D ∨ (q.op = 0xA6 ∧ (u.blocks ≠ [] ∨ u.lost ≠ []))
          (q.op ≠ 0xA7 → ¬stores → q.hdr.pkind < 2 → t.hbm = s.hbm ∧
            let v := setByteRange u.ans.scalar (lo - q.pa) n (readBytes s.hbm lo n)
            (rest ≠ [] → stays { u.ans with scalar := v }) ∧
            (rest = [] → u.ans.bytes = 0 → ∃ w, answers stat u.ans.poison w [] ∧ byteRange w.data 32 8 = v % 2 ^ 64)) ∧
          (q.op ≠ 0xA7 → ¬stores → 2 ≤ q.hdr.pkind → t.hbm = s.hbm ∧
            let v := setByteRange u.ans.data (lo - q.pa) n (readBytes s.hbm lo n)
            (rest ≠ [] → stays { u.ans with data := v, bytes := q.n }) ∧
            (rest = [] → ∃ w ps, answers stat u.ans.poison w ps ∧ ps.length = cdiv q.n 256 ∧
              ∀ m f, ps[m]? = some f → f.fkind = 1 ∧ f.mist = false ∧ f.data = byteRange v (256 * m) 256)) ∧
          (stores → q.half ≠ 15 → Memory.wf s.hbm = true →
            let v := if u.blocks = [] ∧ u.lost = [] then q.opb else byteRange (blockBytes u.blocks) q.off q.n
            (rest ≠ [] → stays u.ans) ∧ (rest = [] → u.ans.bytes = 0 → ∃ w, answers stat u.ans.poison w []) ∧
            ∀ y, getByte t.hbm y = if lo ≤ y ∧ y < lo + n ∧ (q.off + (y - q.pa)) / 256 ∉ u.lost then
              BitVec.ofNat 8 (v / 256 ^ (y - q.pa)) else getByte s.hbm y) ∧
          (∀ f, q.op = 0xA7 → Fmt.ofCode q.hdr.fmt = some f → q.pa % (f.width / 8) = 0 → q.n % (f.width / 8) = 0 →
            q.hdr.seq = false → Memory.wf s.hbm = true →
            let es := f.width / 8
            let old (m : Nat) : Nat := readBytes s.hbm (q.pa + es * m) es
            (rest = [] → u.ans.bytes = 0 → ∃ w, answers stat u.ans.poison w []) ∧
            (∀ m, lo ≤ q.pa + es * m → q.pa + es * m < lo + n → readBytes t.hbm (q.pa + es * m) es =
              if (q.off + es * m) / 256 ∈ u.lost then old m
              else (combine f q.ftz q.mod (old m) (byteRange (blockBytes u.blocks) (q.off + es * m) es)).1 % 2 ^ f.width) ∧
            ∀ y, y < lo ∨ lo + n ≤ y → getByte t.hbm y = getByte s.hbm y)) ∧
      (∀ f, ¬refused → 0xB0 ≤ q.op → q.op ≤ 0xB8 → clean q.pa q.n → q.pa % 64 + q.n ≤ 64 → Memory.wf s.hbm = true →
        Fmt.ofCode q.hdr.fmt = some f → f.width = 8 * q.n →
        let old := readBytes s.hbm q.pa q.n
        let new := atomicTable f q.ftz q.op old (q.opb % 2 ^ f.width) (q.opc % 2 ^ f.width)
        (∃ w, answers (if q.hdr.poison then 0 else new.2) false w [] ∧ byteRange w.data 32 8 = old % 2 ^ 64) ∧
        ∀ y, getByte t.hbm y = match (if q.hdr.poison then none else new.1) with
          | some v => if q.pa ≤ y ∧ y < q.pa + q.n then BitVec.ofNat 8 (v / 256 ^ (y - q.pa)) else getByte s.hbm y
          | none => getByte s.hbm y) ∧
      (¬refused → q.op = 0xA8 → (∀ x ∈ q.runs, clean x.1 (4 * x.2.1)) → (∀ c ∈ q.cnt, clean c 4 ∧ c % 64 ≤ 60) →
        (u.lost ≠ [] → t.hbm = s.hbm ∧ ∃ w ps, answers 6 false w ps) ∧
        (u.lost = [] → q.hdr.poison = true → t.hbm = s.hbm ∧ ∃ w ps, answers 0 false w ps) ∧
        (∀ pa n k0, u.lost = [] → q.hdr.poison = false → q.runs = [(pa, n, k0)] → q.cnt = none → k0 + n ≤ 64 → Memory.wf s.hbm = true →
          (∃ w ps, answers 0 false w ps) ∧ ∀ m, m < n → readBytes t.hbm (pa + 4 * m) 4 =
            if q.mod ≠ 0 then 0
            else (combine .fp32 q.ftz 0 (readBytes s.hbm (pa + 4 * m) 4) (lane 32 ((u.blocks.map Prod.snd).headD 0) (k0 + m))).1))) ∧
    (∀ (u : RxUnit) (us : List RxUnit) (ws : List FarWait) (w : FarWait) (ws' : List FarWait) (n : Nat) (a : Access) (p : Piece), l.reps = u :: us → l.waits = ws ++ w :: ws' →
      let key := byteRange u.data 42 1 * 2 ^ 16 + byteRange u.data 43 1 * 2 ^ 8 + byteRange u.data 44 1 % 64
      (∀ x ∈ ws, x.key ≠ key) → w.key = key → Live s w.loc →
      ((getElem s w.loc).port.accs.findIdx? fun a => a.id == w.id) = some n → getAccess s w.loc n = some a →
      a.pieces[w.piece]? = some p → a.seq = false →
      let h := hdrOfBits (u.data % 2 ^ 256)
      let i : Instr := .evRemoteReply g
      let es := a.width / 8
      (h.stat = 0xFF → Completes i s fun t => (getLane t g).reps = us ∧ (getLane t g).waits = ws ++ ws' ∧
        (∀ x, x ∈ (getElem t w.loc).port.tlb ↔ x ∈ (getElem s w.loc).port.tlb ∧ ∀ ep, x.far ≠ some (g, ep)) ∧
        getAccess t w.loc n = some { a with pieces := modNth a.pieces w.piece fun p => { p with sent := false } }) ∧
      (h.stat ≠ 0xFF → h.poison = false → a.isRec = false → a.op ≠ 0x0D ∨ a.headed = true →
        a.op < 0xA7 → Completes i s fun t => (getLane t g).reps = us ∧ (getLane t g).waits = ws ++ ws' ∧ t.hbm = s.hbm ∧
          ∃ c, getAccess t w.loc n = some c ∧ (∃ x ∈ c.pieces, x.els = p.els ∧ x.done = true) ∧
            (p.wr = true → c.buf = a.buf ∧ c.stat = if h.stat = 6 then 6 else a.stat) ∧
            (p.wr = false → c.buf = p.els.zipIdx.foldl (fun v x => setByteRange v (x.1.1 * es) es
              (byteRange (if (farHdr a).pkind < 2 then byteRange u.data 32 8 else blockBytes u.blocks) (x.2 * es) es)) a.buf))) ∧
    (∀ (a c d : Nat) (cs : List (Nat × Nat × Nat × Nat)), told ckAsk (a, c, d) cs →
      let key := 2 ^ 16 * (c / 256)
      (∀ t, walk s b.1 a = .ok t → ownsHbm s b.1 (t.phys a) = true → goes (.evRemoteTranslateRequest g)
        { l with ctl := cs, sendq := l.sendq ++ [ctlFlit ckTell a t.entry (l.epoch + 256 * t.size + key)] }) ∧
      (∀ t, walk s b.1 a = .ok t → ownsHbm s b.1 (t.phys a) = false → goes (.evRemoteTranslateRequest g)
        { l with ctl := cs, sendq := l.sendq ++ [ctlFlit ckTell (a + 0x11 * 2 ^ 56) 0 (l.epoch + key)] }) ∧
      (∀ e, walk s b.1 a = .error e → goes (.evRemoteTranslateRequest g)
        { l with ctl := cs, sendq := l.sendq ++ [ctlFlit ckTell (a + e.code * 2 ^ 56) 0 (l.epoch + key)] })) ∧
    (∀ (page entry size ep key : Nat) (cs : List (Nat × Nat × Nat × Nat)) (k : LinkBind), told ckTell (page, entry, ep + 256 * size + 2 ^ 16 * key) cs → laneBind s l = some k → page < 2 ^ 56 →
      ep < 256 → size < 64 → key < 2 ^ 16 →
      let x : TlbEnt := { base := page / 2 ^ size * 2 ^ size, size := size, entry := entry, far := some (g, ep) }
      let i : Instr := .evRemoteTranslateReply g
      ((l.asked.find? fun y => y.2.1 == page && y.2.2 == key) = none → goes i { l with ctl := cs }) ∧
      (∀ y, (l.asked.find? fun y => y.2.1 == page && y.2.2 == key) = some y → Completes i s fun t =>
        t = modPort (modLane s g fun _ => { l with ctl := cs, asked := l.asked.filter fun z => !decide (z = y) }) y.1
          fun q => { q with tlb := (x :: q.tlb).take 512 })) ∧
    -- a translation that came before it enters the cache first
    (∀ (before after : List (Nat × Nat × Nat × Nat)) (first n z : Nat), l.ctl = before ++ (ckInv, first, n, z) :: after →
      (∀ c ∈ before, c.1 ≠ ckInv) → (∃ c ∈ before, c.1 = ckTell) → goes (.evInv g) l) ∧
    (∀ (before after : List (Nat × Nat × Nat × Nat)) (first n z : Nat), l.ctl = before ++ (ckInv, first, n, z) :: after →
      (∀ c ∈ before, c.1 ≠ ckInv ∧ c.1 ≠ ckTell) → Completes (.evInv g) s fun t =>
      getLane t g = { l with ctl := before ++ after, invs := l.invs ++ [(first, n, s.clk)] } ∧
      (∀ (m : Nat) (e : Elem), (getRegion t r).elems[m]? = some e → ∃ e' : Elem, (getRegion s r).elems[m]? = some e' ∧
        (let kept : Port := { e'.port with tlb := e.port.tlb }
         e = { e' with port := kept }) ∧
        ∀ x : TlbEnt, x ∈ e.port.tlb ↔ x ∈ e'.port.tlb ∧
          ¬((∃ ep, x.far = some (g, ep)) ∧ first * 4096 < x.base + 2 ^ x.size ∧ x.base < (first + n) * 4096)) ∧
      t.hbm = s.hbm ∧ t.cores = s.cores) ∧
    (∀ (first n c : Nat) (is : List (Nat × Nat × Nat)), l.invs = (first, n, c) :: is → usesPages s l first n = false →
      goes (.evInvackSend g) { l with invs := is, sendq := l.sendq ++ [ctlFlit ckInvack first n 0] }) ∧
    (∀ (first n c : Nat) (is : List (Nat × Nat × Nat)), l.invs = (first, n, c) :: is → usesPages s l first n = true → goes (.evInvackSend g) l) ∧
    (∀ (first n z : Nat) (cs : List (Nat × Nat × Nat × Nat)), told ckInvack (first, n, z) cs → goes (.evInvackReceive g)
      { l with ctl := cs, invsOut := l.invsOut.filter fun x => !(x.1 == first && x.2.1 == n) }) ∧
    (∀ (is : List (Nat × Nat × Nat)) (first n c : Nat) (is' : List (Nat × Nat × Nat)), l.invs = is ++ (first, n, c) :: is' → (∀ x ∈ is, s.clk < x.2.2 + 2 ^ 17) → c + 2 ^ 17 ≤ s.clk →
      (getRegion s r).st = 2 ∨ (getRegion s r).st = 3 →
      Completes (.evRemoteInvalidateTimeout g) s fun t => t.hbm = s.hbm ∧ t.lanes = s.lanes ∧
        MeetsStop s t r { cause := 0x51, addr := first * 4096 } (0x51, 2048, 0, 0, first * 128 + g)) ∧
    ((∃ x ∈ l.invsOut, x.2.2 + 2 ^ 18 ≤ s.clk) → (∀ u ∈ l.reqs, u.lns = none) → goes (.evEpochAdvance g)
      { l with epoch := (l.epoch + 1) % 256, invsOut := l.invsOut.filter fun x => !decide (x.2.2 + 2 ^ 18 ≤ s.clk) }) ∧
    ((∃ x ∈ l.invsOut, x.2.2 + 2 ^ 18 ≤ s.clk) → (∀ u ∈ l.reqs, u.lns ≠ some []) → Completes (.evEpochAdvance g) s fun t =>
      (getLane t g).epoch = (l.epoch + 1) % 256 ∧
      (getLane t g).invsOut = (l.invsOut.filter fun x => !decide (x.2.2 + 2 ^ 18 ≤ s.clk)) ∧ ∀ u ∈ (getLane t g).reqs, u.lns = none)

/-- R371 to R374, R376, R380, R382 (EARLY entries placed by signal or dependences, a failed load, an entry SAVED only by
eviction, the victim's GRACE: the model's choice, log entries 35 and 41): an entry written is noticed; while no line of memory
is in error, the scheduler takes the open action of the first entry, in order of priority and index, that has one: it refuses,
loads, launches, restores, aborts or ends it; a grace that expires evicts, unless the entry it was for waits no longer; a DONE
region ends its entry and, unless KEEP is set, goes UNARMED; a failed dependence of an EARLY entry aborts it. -/
def Obligations.SchedulerEvents : Prop :=
  ∀ (s : State) (p : Nat), p < 16 →
    let q := getPart s p
    let quiet : Prop := s.badLines = [] ∧ s.softLines = []
    let step (P : State → Prop) : Prop := quiet → Completes (.evSchedulerStep p) s P
    let meets (gauge gen : Nat) : Prop := gauge = 0 ∨ ∃ v, vread s p gauge 8 = .ok v ∧ bits v 39 32 = 0 ∧
      (bits v 31 0 + 2 ^ 32 - gen) % 2 ^ 32 < 2 ^ 31
    let failed (gauge gen : Nat) : Prop := gauge ≠ 0 ∧ ∃ v, vread s p gauge 8 = .ok v ∧ bits v 39 32 ≠ 0 ∧
      (bits v 31 0 + 2 ^ 32 - gen) % 2 ^ 32 < 2 ^ 31
    let away (gauge : Nat) : Prop := gauge ≠ 0 ∧ ∃ c, vread s p gauge 8 = .error c
    (∀ e, 1 ≤ e → e < 512 → (readEnt s p e).isSome = true → e ∉ q.noticed → Completes (.evDispatchEntryNotice p e) s fun t =>
      t = setPart s p { q with noticed := e :: q.noticed }) ∧
    (Completes (.evDispatchEntryNotice p 0) s fun t => t = s) ∧
    (∀ n k v pa st off, quiet → xlatW s p (0x100000 + 128 * n + 8 * k) = .ok pa → target pa = .hbm st off →
      (setEnt s p n k v).hbm = writeBytes s.hbm pa 8 v) ∧
    (∀ n st x, st < 256 → x < 2 ^ 64 → vread s p (0x100000 + 128 * n) 8 = .ok x →
      putState s p n st = setEnt s p n 0 (st * 2 ^ 56 + x % 2 ^ 56)) ∧
    (∀ n w st, (getPart (endEnt s p n w st) p).noticed = q.noticed.filter (· ≠ n) ∧
      ∀ r, getRegion (endEnt s p n w st) r = getRegion s r) ∧
    (q.inReset = true → step fun t => t = s) ∧ (q.noticed = [] → step fun t => t = s) ∧
    -- an entry that has no action open: it is EMPTY or has ended, waits, loads, is ARMED, runs, or is being loaded again
    let rests (v : List Nat) : Prop :=
      let g := getRegion s ⟨p, entRh v⟩
      let a := if word v 3 = 0 then 0 else bits (word v 5) 31 0
      let b := if word v 4 = 0 then 0 else bits (word v 5) 63 32
      let unread := away (word v 3) ∨ away (word v 4)
      let lost := failed (word v 3) a ∨ failed (word v 4) b
      let calm := entAbort v = false ∧ (entEarly v = true → ¬unread ∧ ¬lost)
      entState v = 0 ∨ 7 ≤ entState v ∨
        (entState v = 2 ∧ ¬unread ∧ ¬lost ∧ entAbort v = false ∧ ¬(meets (word v 3) a ∧ meets (word v 4) b) ∧
          ¬(entEarly v = true ∧ signalSent s p v = true)) ∨
        (calm ∧ ((entState v = 3 ∧ g.st = 0 ∧ g.load = true) ∨ (entState v = 3 ∧ g.st = 1 ∧ entHold v = false ∧ regionBusy g = true) ∨
          (entState v = 4 ∧ g.st = 1) ∨ (entState v = 5 ∧ 1 ≤ g.st ∧ g.st ≤ 5) ∨ (entState v = 6 ∧ g.st = 0 ∧ g.load = true)))
    (∀ n w, q.inReset = false → (n, w) ∈ knownEnts s p → q.noticed.length ≤ 512 →
      (∀ x ∈ knownEnts s p, entPrio w < entPrio x.2 ∨ (entPrio x.2 = entPrio w ∧ x.1 < n) → rests x.2) →
      let r : Rgn := ⟨p, entRh w⟩
      let g := getRegion s r
      let a := if word w 3 = 0 then 0 else bits (word w 5) 31 0
      let b := if word w 4 = 0 then 0 else bits (word w 5) 63 32
      let pl := bits (word w 2) 27 0
      let ends (u : State) (st : Nat) : State := endEnt u p n w st
      let early := entEarly w = true
      let ready := entAbort w = false ∧ ¬away (word w 3) ∧ ¬away (word w 4) ∧ ¬failed (word w 3) a ∧ ¬failed (word w 4) b ∧
        ((meets (word w 3) a ∧ meets (word w 4) b) ∨ (early ∧ signalSent s p w = true))
      let unread := early ∧ (away (word w 3) ∨ away (word w 4))
      let dropped := entAbort w = true ∨ (early ∧ (failed (word w 3) a ∨ failed (word w 4) b))
      -- the one with no action open is passed over
      (rests w → (∀ x ∈ knownEnts s p, x.1 ≠ n → rests x.2) → step fun t => t = s) ∧
      (entState w = 1 →
        let fits := entClean w = true ∧ entLaunch w ≠ 0 ∧ word w 1 % 4096 = 0 ∧ word w 7 % 4096 = 0 ∧ word w 3 % 16 = 0 ∧
          word w 4 % 16 = 0 ∧ word w 6 % 16 = 0
        (¬fits → step fun t => t = refuseEnt s p n w 4 0) ∧ (fits → g.st ≠ 0 → step fun t => t = refuseEnt s p n w 2 0)) ∧
      (entState w = 2 → away (word w 3) ∨ away (word w 4) → step fun t => ∃ c, t = refuseEnt s p n w 4 c) ∧
      (entState w = 2 → ¬away (word w 3) → ¬away (word w 4) → failed (word w 3) a ∨ failed (word w 4) b ∨ entAbort w = true →
        step fun t => t = ends s 8) ∧
      (entState w = 2 → ready → pl ≠ 0 →
        ∀ c u, iload s r (word w 1) (pl + entRh w) = (c, u) →
          (c = 0 → step fun t => t = putNine (putState u p n 3) p n 0 0 (some (pl + entRh w)) ∧ (getRegion t r).load = true) ∧
          (2 ≤ c → step fun t => t = refuseEnt s p n w c 0)) ∧
      (∀ v, entState w = 2 → ready → pl = 0 → autoPlace s r (word w 1) = .none → foremost victimFirst (victimsOf s p w) = some v →
        let rv : Rgn := ⟨p, entRh v.2⟩
        let h := getRegion s rv
        v.1 ∉ q.evicting → v.1 ∉ q.expired → (∀ x ∈ q.grace, x.1 ≠ v.1) → regionBusy h = false →
        (∀ f, shrinkTo h = some f → step fun t => (getRegion t rv).shrp = true ∧ (getRegion t rv).shrink = f ∧
          (getPart t p).grace = (v.1, s.ns + bits (word v.2 8) 19 0 * 1000) :: q.grace.filter fun x => !(staleMarks s p).contains x.1) ∧
        (shrinkTo h = none → word v.2 7 ≠ 0 → h.st = 2 ∨ h.st = 3 → step fun t => (getRegion t rv).job = some (.evict (word v.2 7)) ∧
          (getRegion t rv).stopping = true ∧ (getPart t p).evicting = v.1 :: q.evicting)) ∧
      (∀ c, 3 ≤ entState w → entState w ≤ 6 → early → ((depsOf s p w).1.cause <|> (depsOf s p w).2.cause) = some c →
        step fun t => t = refuseEnt s p n w 4 c) ∧
      (¬unread → ¬dropped →
        (entState w = 3 → g.st = 1 → (entHold w = true → step fun t => t = putState s p n 4) ∧
          (entHold w = false → regionBusy g = false → step fun t =>
            t = putNine (busy (launchRegion s r g (entLaunch w)) r) p n 0 0 none ∧
            (getRegion t r).st = 2 ∧ (getRegion t r).launch = entLaunch w)) ∧
        (entState w = 3 → g.st = 0 → g.load = false → g.failed = true → step fun t => t = refuseEnt s p n w 0 (g.rcause % 256)) ∧
        (entState w = 4 ∨ g.failed = false → entState w = 3 ∨ entState w = 4 → g.st = 0 → g.load = false → step fun t => t = ends s 8) ∧
        (entState w = 5 → g.st = 0 → g.load = false → step fun t => t = ends s 8) ∧
        (entState w = 5 → g.st = 6 → n ∈ q.evicting → step fun t => getRegion t r = g ∧ (getPart t p).evicting = q.evicting.filter (· ≠ n) ∧
          (getPart t p).grace = q.grace.filter fun x => decide (x.1 ≠ n)) ∧
        (entState w = 6 → 2 ≤ g.st → g.st ≤ 5 → step fun t => t = putState s p n 5) ∧
        (entState w = 6 → g.st = 6 → pl ≠ 0 → ∀ c u, rrestore s r (word w 7) (pl + entRh w) = (c, u) →
          (c = 0 → step fun t => t = putNine u p n 0 0 (some (pl + entRh w))) ∧
          (2 ≤ c → bits (word w 9) 39 32 ≠ c → step fun t => t = putNine s p n c 0 none))) ∧
      (¬unread → ¬dropped ∨ (g.st = 4 ∧ ¬(early ∧ (failed (word w 3) a ∨ failed (word w 4) b))) →
        entState w = 3 ∨ entState w = 4 → 2 ≤ g.st → g.st ≤ 5 →
        step fun t => t = journal (setEnt (putState s p n 5) p n 10 s.ns) p n 2 (entLaunch w)) ∧
      (3 ≤ entState w → entState w ≤ 6 → ¬unread → dropped → regionBusy g = false →
        (g.st = 2 ∨ g.st = 3 → g.stopping = false → step fun t => (getRegion t r).stopping = true ∧ (getRegion t r).cutp = true) ∧
        (g.st = 0 → step fun t => t = ends s 8) ∧
        (g.st = 1 ∨ g.st = 5 ∨ g.st = 6 ∨ (g.st = 4 ∧ early ∧ (failed (word w 3) a ∨ failed (word w 4) b)) →
          step fun t => t = ends (putNine (armOff s r) p n 0 0 none) 8 ∧ (getRegion t r).st = 0))) ∧
    (∀ e x w, (q.grace.find? fun y => y.1 == e) = some (e, x) → readEnt s p e = some w → x ≤ s.ns →
      (getRegion s ⟨p, entRh w⟩).shrp = true →
      let g := getRegion s ⟨p, entRh w⟩
      let left := q.grace.filter fun y => decide (y.1 ≠ e)
      -- the entry for which e was to shrink waits no longer
      (∀ m v, (e, m) ∈ q.graceFor → readEnt s p m = some v → entState v ≠ 2 → Completes (.evGraceExpire p e) s fun t =>
        t = setPart s p { q with
          grace := left, graceFor := q.graceFor.filter fun y => decide (y.1 ≠ e), expired := q.expired.filter fun y => decide (y ≠ e) }) ∧
      ((∀ m, (e, m) ∈ q.graceFor → ∃ v, readEnt s p m = some v ∧ entState v = 2) →
      (word w 7 = 0 → Completes (.evGraceExpire p e) s fun t => t = setPart s p { q with
        grace := left, expired := e :: q.expired.filter (· ≠ e) }) ∧
      (word w 7 ≠ 0 → g.st = 2 ∨ g.st = 3 → regionBusy g = false → Completes (.evGraceExpire p e) s fun t =>
        (getPart t p).grace = left ∧ e ∈ (getPart t p).evicting ∧ (getRegion t ⟨p, entRh w⟩).job = some (.evict (word w 7)) ∧
        (getRegion t ⟨p, entRh w⟩).stopping = true))) ∧
    (∀ e w, e ∈ q.noticed → readEnt s p e = some w → entState w = 5 → regionBusy (getRegion s ⟨p, entRh w⟩) = false →
      (getRegion s ⟨p, entRh w⟩).st = 4 →
      let lost := entEarly w = true ∧ ((word w 3 ≠ 0 ∧ failed (word w 3) (bits (word w 5) 31 0)) ∨
        (word w 4 ≠ 0 ∧ failed (word w 4) (bits (word w 5) 63 32)))
      (lost → Completes (.evEntryDone p e) s fun t => t = endEnt (putNine (armOff s ⟨p, entRh w⟩) p e 0 0 none) p e w 8 ∧
        (getRegion t ⟨p, entRh w⟩).st = 0) ∧
      (¬lost → entKeep w = true → Completes (.evEntryDone p e) s fun t => t = endEnt s p e w 7) ∧
      (¬lost → entKeep w = false → Completes (.evEntryDone p e) s fun t => (getRegion t ⟨p, entRh w⟩).st = 0 ∧
        e ∉ (getPart t p).noticed ∧ t = putNine (armOff (endEnt s p e w 7) ⟨p, entRh w⟩) p e 0 0 none))

/-- R387 to R392, R394, R396 to R398 (BAR0 reads as offsets from 2^62 up, wrapping counters, FVA cleared with EN, AtomicOps
counted as reads and aborted where misaligned, requests taken whole or line by line, ALL as 2^44 pages, a record of a ring
written whole or not: the model's choice, log entries 14, 42, 53 and 71): an aperture write, read or atomic acts on HBM, or is
dropped and counted or answered with its completion; the writable register keeps its page; ingress windows, invalidation
requests and Weathervane blocks are read, counted and answered as their tables say, and the invalidation block gets GO 0 and
SEQ. -/
def Obligations.HostEvents : Prop :=
  ∀ (s : State) (p : Nat), p < 16 →
    let q := getPart s p
    let up : Prop := q.inReset = false ∧ s.bootst ≠ 2
    -- no line of memory is in error; a walk of one address meets none
    let quiet : Prop := s.badLines = [] ∧ s.softLines = []
    let walked (va : Nat) : Prop := logWalk s [] p va = s
    -- requests are taken whole, and none is under way
    let whole : Prop := q.byLine = false ∧ q.inbound = []
    let held := q.posted + (q.inbound.filter fun x => x.write).length
    let clean (pa n : Nat) : Prop := ∀ y, pa ≤ y → y < pa + n → (∃ st off, target y = .hbm st off) ∧
      s.badLines.contains (y / 64) = false ∧ ∀ e ∈ s.softLines, e.1 ≠ y / 64
    let stored (t : State) (pa n v : Nat) : Prop := Memory.wf s.hbm = true → ∀ y, getByte t.hbm y =
      if pa ≤ y ∧ y < pa + n then BitVec.ofNat 8 (v / 256 ^ (y - pa)) else getByte s.hbm y
    -- a completion follows the posted writes that wait on its port (R282)
    let replies (i : Instr) (port status data : Nat) : Prop :=
      Completes i s fun t => t = { drainHost s port with hostReply := some (status, data) }
    let dropped (i : Instr) : Prop := Completes i s fun t => t = setPart s p { q with hrejW := min (2 ^ 32 - 1) (q.hrejW + 1) }
    let aborted (i : Instr) (port : Nat) : Prop := Completes i s fun t =>
      t = { drainHost (setPart s p { q with hrejR := min (2 ^ 32 - 1) (q.hrejR + 1) }) port with hostReply := some (2, 0) }
    (∀ off n data : Nat, let va := q.apbase + off
      let one := 1 ≤ n ∧ va % 4096 + n ≤ 4096
      (∀ pa, up → walked va → one → xlatW s p va = .ok pa →
        (whole → q.posted < 256 → clean pa n → Completes (.evHostApertureWrite p off n data) s fun t =>
          stored t pa n data ∧ getPart t p = q ∧ t.hostReply = s.hostReply) ∧
        -- or line by line, in any order
        (q.byLine = true → held < 256 → Completes (.evHostApertureWrite p off n data) s fun t => t = setPart s p { q with
          inbound := q.inbound ++ [{ write := true, va := va, pa := pa, n := n, data := data, todo := (List.range (cdiv (pa % 64 + n) 64)).map fun j => pa / 64 + j }] })) ∧
      (¬up ∨ 256 ≤ held ∨ ¬one ∨ (∃ e, xlatW s p va = .error e ∧ walked va) → dropped (.evHostApertureWrite p off n data))) ∧
    -- a line of the oldest request under way, its first to come
    (∀ x r line rest st off, q.inbound = x :: r → x.todo = line :: rest → max x.pa (64 * line) < min (x.pa + x.n) (64 * line + 64) →
      target (64 * line) = .hbm st off → s.badLines.contains line = false → (∀ e ∈ s.softLines, e.1 ≠ line) → Memory.wf s.hbm = true →
      let t := applyEnv s (.inPiece p 0 0)
      let lo := max x.pa (64 * line)
      let k := min (x.pa + x.n) (64 * line + 64) - lo
      (rest ≠ [] → (getPart t p).inbound = (if x.write then { x with todo := rest }
        else { x with todo := rest, data := x.data + 2 ^ (8 * (lo - x.pa)) * readBytes s.hbm lo k }) :: r) ∧
      (rest = [] → (getPart t p).inbound = r) ∧
      (x.write = true → rest ≠ [] ∨ x.win = none → ∀ y, getByte t.hbm y = if lo ≤ y ∧ y < lo + k then BitVec.ofNat 8 (x.data / 256 ^ (y - x.pa))
        else getByte s.hbm y) ∧
      (x.write = false → rest = [] → x.bad = false →
        t.hostReply = some (0, x.data + 2 ^ (8 * (lo - x.pa)) * readBytes s.hbm lo k) ∧ t.hbm = s.hbm)) ∧
    (∀ off n : Nat, let va := q.apbase + plainOff off
      let port := readPort s p off
      let one := 1 ≤ n ∧ va % 4096 + n ≤ 4096
      (¬up → replies (.evHostApertureRead p off n) port 1 0) ∧
      (∀ pa, up → whole → walked va → plainOff off < 2 ^ 62 → one → xlatR s p va = .ok pa → clean pa n →
        replies (.evHostApertureRead p off n) port 0 (readBytes s.hbm pa n)) ∧
      (up → walked va → plainOff off < 2 ^ 62 → ¬one ∨ (∃ e, xlatR s p va = .error e) → aborted (.evHostApertureRead p off n) port) ∧
      (∀ op x y pa : Nat, up → whole → walked va → n = 4 ∨ n = 8 → op ≤ 2 → va % n = 0 → xlat s p { r := true, w := true } va = .ok pa →
        ownsHbm s p pa = true → clean pa n →
        let old := readBytes s.hbm pa n
        let m := 2 ^ (8 * n)
        Completes (.evHostApertureAtomic p off n op x y) s fun t => t.hostReply = some (0, old) ∧
          stored t pa n (if op = 0 then (old + x) % m else if op = 1 then x % m else if old = x % m then y % m else old)) ∧
      (∀ op x y : Nat, up → walked va → n = 4 ∨ n = 8 → op ≤ 2 → va % n ≠ 0 → aborted (.evHostApertureAtomic p off n op x y) port)) ∧
    (up →
      let reads (o v : Nat) : Prop :=
        replies (.evHostApertureRead p (2 ^ 62 + o) 8) (readPort s p (2 ^ 62 + o)) 0 (v % 2 ^ 64)
      reads 0x18 q.almbase ∧ reads 0x20 q.almseq ∧ reads 0x28 q.apbase ∧ reads 0x30 (q.hrejW * 2 ^ 32 + q.hrejR)) ∧
    (∀ data, up → held < 256 → Completes (.evMwApbaseWrite p 0x28 8 data) s fun t =>
      t = setPart s p { q with apbase := data % 2 ^ 56 / 4096 * 4096 }) ∧
    (∀ off n data, up → held < 256 → Completes (.evRegisterWrite p off n data) s fun t => t = s) ∧
    (∀ w x, lookupKey (getPart (putIngress s p w x) p).ingress w = some x ∧ ∀ pa st off, quiet → xlatW s p (0x120000 + 64 * w + 24) = .ok pa →
      target pa = .hbm st off → (putIngress s p w x).hbm = writeBytes s.hbm pa 24
        (x.bytes % 2 ^ 64 + 2 ^ 64 * (x.rej % 2 ^ 32 * 2 ^ 32 + x.gdrop % 2 ^ 32) + 2 ^ 128 * (x.fva % 2 ^ 56))) ∧
    (∀ off n data rq ro, let w := off / 2 ^ 34
      let a := off % 2 ^ 34
      let x := (lookupKey q.ingress w).getD {}
      let va := bits x.w0 55 0 / 4096 * 4096 + a
      let open_ := bit x.w0 63 = true ∧ a + n ≤ x.w1 % 2 ^ 35 ∧ (bit x.w2 63 = true → bits x.w2 55 40 = rq % 2 ^ 16)
      let one := 1 ≤ n ∧ va % 4096 + n ≤ 4096
      let i : Instr := .evIngressWrite p off n data rq ro
      up → w < 64 →
      (held < 256 → ¬open_ → Completes i s fun t => t = putIngress s p w { x with rej := (x.rej + 1) % 2 ^ 32 }) ∧
      -- line by line; Relaxed Ordering counts where the window honours it
      (∀ pa, held < 256 → q.byLine = true → walked va → open_ → one → xlatW s p va = .ok pa → Completes i s fun t => t = setPart s p { q with
        inbound := q.inbound ++ [{ write := true, win := some w, va := va, pa := pa, n := n, data := data, rq := some rq, relaxed := ro && bit x.w0 62, todo := (List.range (cdiv (pa % 64 + n) 64)).map fun j => pa / 64 + j }] }) ∧
      (∀ pa, whole → walked va → q.posted < 256 → open_ → one → xlatW s p va = .ok pa → clean pa n →
        let y : Ingress := { x with bytes := (x.bytes + n) % 2 ^ 64 }
        Completes i s fun t => ∃ u, stored u pa n data ∧ u.parts = s.parts ∧
          (bit x.w2 31 = false → t = putIngress u p w y) ∧
          (bit x.w2 31 = true → ∀ g, ingressGauge u p y = some g → t = creditGauge (putIngress u p w y) g.1 g.2 n) ∧
          (bit x.w2 31 = true → ingressGauge u p y = none → t = putIngress u p w { y with gdrop := (x.gdrop + 1) % 2 ^ 32 })) ∧
      (held < 256 → walked va → open_ → 1 ≤ n → (∃ e, xlatW s p va = .error e) → Completes i s fun t => t = putIngress s p w
        { x with rej := (x.rej + 1) % 2 ^ 32, fva := if x.fva = 0 then va % 2 ^ 56 else x.fva })) ∧
    (∀ off n rq : Nat, let o := plainOff off
      let x := (lookupKey q.ingress (o / 2 ^ 34)).getD {}
      let a := o % 2 ^ 34
      let va := bits x.w0 55 0 / 4096 * 4096 + a
      let open_ := bit x.w0 63 = true ∧ a + n ≤ x.w1 % 2 ^ 35 ∧ (bit x.w2 63 = true → bits x.w2 55 40 = rq % 2 ^ 16)
      let port := readPort s p off
      up → o / 2 ^ 34 < 64 →
      (¬open_ → replies (.evIngressRead p off n rq) port 2 0) ∧
      (∀ pa, whole → walked va → open_ → 1 ≤ n → va % 4096 + n ≤ 4096 → xlatR s p va = .ok pa → clean pa n →
        replies (.evIngressRead p off n rq) port 0 (readBytes s.hbm pa n))) ∧
    (∀ w v, w < 64 → quiet → vread s p (0x120000 + 64 * w) 24 = .ok v → let x := (lookupKey q.ingress w).getD {}
      Completes (.evIngressDescriptorUpdate p w) s fun t => t = putIngress s p w { x with
        w0 := byteRange v 0 8, w1 := byteRange v 8 8, w2 := byteRange v 16 8,
        fva := if bit v 63 = true ∧ bit x.w0 63 = false then 0 else x.fva }) ∧
    -- no cache of the partition holds a translation of the range (R386, R387)
    let purged (t : State) (r : InvalReq) : Prop :=
      (∀ x ∈ (getPart t p).regions, ∀ e ∈ x.2.elems, (∀ y ∈ e.port.tlb, y.inRange r = false) ∧
        ∀ a ∈ e.port.accs, a.held ≠ none → ∀ y ∈ a.pages, pageIn r y.1 = false ∨ a.uses y.1 = true) ∧
      (∀ k : Fin 32, ownsCore s p k = true → ∀ y ∈ t.cores[k].tlb, y.inRange r = false) ∧
      ∀ l ∈ t.walkc, ∀ y ∈ l, y.inRange p r = false
    -- the block's words GO and SEQ as they stand in memory
    let told (t : State) (v seq : Nat) : Prop := ∀ pa st off st' off', xlatW s p 0x110000 = .ok pa →
      xlatW (vwriteD s p 0x110000 8 (v % 2 ^ 63)) p 0x110010 = .ok (pa + 16) → target pa = .hbm st off → target (pa + 16) = .hbm st' off' →
      t.hbm = writeBytes (writeBytes s.hbm pa 8 (v % 2 ^ 63)) (pa + 16) 4 seq
    (∀ v, quiet → vread s p 0x110000 16 = .ok v → bit v 63 = true → q.inval = none →
      let bad := bits v 61 56 ≠ 0 ∨ bits v 11 0 ≠ 0 ∨ v / 2 ^ 96 ≠ 0
      let r : InvalReq := { all := bit v 62, vpn := bits v 55 12, npages := bits v 95 64 }
      let some_ := r.all = true ∨ r.npages ≠ 0
      (bad → Completes (.evInvalidationRequest p) s fun t => (getPart t p).invalSeq = q.invalSeq ∧ (getPart t p).inval = none ∧
        (getPart t p).regions = q.regions ∧ t.lanes = s.lanes ∧ told t v q.invalSeq) ∧
      (¬bad → ¬some_ → Completes (.evInvalidationRequest p) s fun t => (getPart t p).invalSeq = (q.invalSeq + 1) % 2 ^ 32 ∧
        (getPart t p).inval = none ∧ (getPart t p).regions = q.regions ∧ t.lanes = s.lanes ∧ told t v ((q.invalSeq + 1) % 2 ^ 32)) ∧
      (¬bad → some_ → Completes (.evInvalidationRequest p) s fun t => (getPart t p).inval = some r ∧ t.hbm = s.hbm ∧
        purged t r ∧
        ∀ n l, s.lanes[n]? = some l → ∀ b k, l.bind = some b → laneBind s l = some k → b.1 = p → k.form = 1 → l.up = true →
          l.lost = false → (getLane t n).invsOut = l.invsOut ++ [(if r.all then 0 else r.vpn, if r.all then 2 ^ 44 else r.npages, s.clk)])) ∧
    (∀ r, q.inval = some r →
      let free := usesRange s p r = false ∧ (∀ x ∈ q.inbound, pageIn r (x.va / 4096) = false) ∧ (∀ k : Fin 32, ownsCore s p k = true → s.cores[k].buf = []) ∧
        ∀ l ∈ s.lanes, ∀ b, l.bind = some b → b.1 = p → l.invsOut = []
      (free → Completes (.evInvalidationComplete p) s fun t => (getPart t p).inval = none ∧
        (getPart t p).invalSeq = (q.invalSeq + 1) % 2 ^ 32 ∧ purged t r ∧
        (∀ x ∈ (getPart t p).regions, ∀ e ∈ x.2.elems, ∀ a ∈ e.port.accs, a.begun = true → a.performed = false →
          ∀ y ∈ a.pages, pageIn r y.1 = false) ∧
        ∀ v, quiet → s.hostOut = [] → vread s p 0x110000 8 = .ok v → told t v ((q.invalSeq + 1) % 2 ^ 32)) ∧
      (¬free → Completes (.evInvalidationComplete p) s fun t => t = s)) ∧
    (∀ d v, quiet → bit (partDies s p) d = true → vreadLong s p 8 (0x130000 + 512 * d) 0xB0 = .ok v →
      let x := (lookupKey q.wvane d).getD {}
      Completes (.evWeathervaneUpdate p d) s fun t => ∃ y, lookupKey (getPart t p).wvane d = some y ∧ y.taps.length = 16 ∧
        (∀ k < 16, nth y.taps k 0 = byteRange v (8 * k) 8) ∧ y.rbase = bits (byteRange v 0x80 8) 55 0 ∧
        y.rsize = bits (byteRange v 0x88 8) 32 0 ∧ y.rtail = bits (byteRange v 0x98 8) 32 0 ∧ y.cen = bit (byteRange v 0xA8 8) 0 ∧
        y.rhead = x.rhead ∧ y.drops = x.drops ∧ y.fifo = x.fifo ∧ t.hbm = s.hbm) ∧
    (∀ d x f fs, lookupKey q.wvane d = some x → x.fifo = f :: fs →
      let used := (x.rhead + f.2 + 2 ^ 33 - x.rtail) % 2 ^ 33
      let lost := x.rsize < used ∨ ∃ j < f.2 / 64, ∃ e, xlatW s p (x.rbase + (x.rhead + 64 * j) % x.rsize) = .error e
      Completes (.evTapCopy p d) s fun t =>
        -- nothing but the counters is written
        (lost → let y : WVane := { x with fifo := fs, drops := (x.drops + 1) % 2 ^ 64 }
          t = vwriteD (vwriteD (setPart s p { q with wvane := putKey q.wvane d y }) p (0x130090 + 512 * d) 8 x.rhead) p
            (0x1300A0 + 512 * d) 8 y.drops) ∧
        (lost → lookupKey (getPart t p).wvane d = some { x with fifo := fs, drops := (x.drops + 1) % 2 ^ 64 }) ∧
        (¬lost → lookupKey (getPart t p).wvane d = some { x with fifo := fs, rhead := (x.rhead + f.2) % 2 ^ 33 }))

/-- R5, R208, R213, R395, R404, R409, R411, R414, R415, R416, R417, R418 (HBM and local memory empty after power-up, which
memories a module reset keeps, the end of the signed body and ENTRY without its bits [1:0], and the read-only blocks written as
stores into their pages: the model's choice, log entries 1, 2, 6 and 73): boot, module reset, power off, partition reset,
attestation, the flash and BOOTST, soft errors of a line, the state that the power regulators and refresh hold, and the blocks
that show it (R410, R412). -/
def Obligations.ModuleEvents : Prop :=
  ∀ (s : State),
    let ok : Bool := s.flashOk && s.rootKeys.all (dieAccepts s) && mapOk (firmwareMap s)
    let size := flashRange s 24 8
    let code := flashRange s 16 8
    -- what a boot leaves, with each core's local memory as it was given
    let booted (t : State) (hbm : List Host.Cell) (lmem : Fin 32 → List Host.Cell) : Prop := t.powered = true ∧ t.hbm = hbm ∧
      t.hostMem = s.hostMem ∧ t.flash = s.flash ∧ t.ns = 0 ∧ t.clk = 0 ∧ (∀ r, getRegion t r = {}) ∧
      (ok = true → t.bootst = 0 ∧ t.pmap = firmwareMap s ∧ t.retired = firmwareRetired s ∧
        (∀ x, x ∈ t.badLines ↔ x ∈ s.badLines ∧ ∀ e ∈ t.retired, ¬(e.1 = 3 ∧ e.2.2.1 = x / 2 ^ 31 ∧ e.2.2.2.1 = bits (64 * x) 12 8 ∧
          e.2.2.2.2 = (Config.dramRow x).toNat)) ∧ ∀ k : Fin 32, t.cores[k].started = true ∧
        t.cores[k].pc = BitVec.ofNat 64 (flashRange s 8 8) &&& 0xFFFFFFFFFFFFFFFC ∧ t.cores[k].status = 1 ∧ (∀ n : Fin 32, t.cores[k].regs[n] = 0) ∧
        (Memory.wf (lmem k) = true → ∀ y, getByte t.cores[k].lmem y =
          if y < size then flashByte s (code + y) else getByte (lmem k) y)) ∧
      (ok = false → t.bootst = 2 ∧ ∀ k : Fin 32, t.cores[k].started = false)
    (s.powered = false → Completes .evPowerUp s fun t => booted t [] fun _ => []) ∧
    (s.powered = true → Completes .evPowerUp s fun t => t = s) ∧
    (s.powered = true → Completes .evModuleReset s fun t => booted t s.hbm fun k => s.cores[k].lmem) ∧
    (Completes .evPowerOff s fun t => t.powered = false ∧ t.hbm = [] ∧ t.flashing = none ∧ t.flashOk = (s.flashOk && s.flashing.isNone) ∧ t.flash = s.flash ∧ t.hostMem = s.hostMem ∧
      t.attIndex = s.attIndex ∧ (∀ r, getRegion t r = {}) ∧ ∀ k : Fin 32, t.cores[k].started = false ∧ t.cores[k].lmem = []) ∧
    (∀ p, p < 16 →
      let q := getPart s p
      (q.inReset = false → Completes (.evPartitionReset p) s fun t => t.hbm = s.hbm ∧ (getPart t p).inReset = true ∧
        (∀ h, getRegion t ⟨p, h⟩ = {}) ∧ (getPart t p).launches = [] ∧ (getPart t p).almseq = q.almseq ∧
        (∀ r, r.part ≠ p → getRegion t r = getRegion s r) ∧ (∀ l ∈ t.walkc, ∀ w ∈ l, w.part ≠ p) ∧
        (∀ k : Fin 32, (ownsCore s p k = true → t.cores[k].started = false) ∧ (ownsCore s p k = false → t.cores[k] = s.cores[k])) ∧
        ∀ n l b, s.lanes[n]? = some l → l.bind = some b →
          (b.1 = p → (getLane t n).bind = none ∧ (getLane t n).sendq = [ctlFlit ckUnbind 0 0 0]) ∧ (b.1 ≠ p → getLane t n = l)) ∧
      (q.inReset = true → Completes (.evPartitionReset p) s fun t => t.hbm = s.hbm ∧ (getPart t p).inReset = false ∧
        ∀ k : Fin 32, (ownsCore s p k = true → t.cores[k] = { Core.reset with
          pc := BitVec.ofNat 64 s.entry &&& 0xFFFFFFFFFFFFFFFC, lmem := s.cores[k].lmem }) ∧
          (ownsCore s p k = false → t.cores[k] = s.cores[k])) ∧
      (∀ v, vread s p 0x158000 64 = .ok v → logVread s p 0 0x158000 = s → (byteRange v 32 1 ≠ 1 → Completes (.evAttestationRequest p) s fun t => t = s) ∧
        (byteRange v 32 1 = 1 → Completes (.evAttestationRequest p) s fun t =>
          ∃ u x, t = vwriteD (vwriteLong u p 64 0x158040 2896 x) p 0x158020 1 0 ∧ u.hbm = s.hbm ∧
            (s.attIndex < 2 ^ 20 → u.attIndex = s.attIndex + 1 ∧ x % 2 ^ 256 = v % 2 ^ 256) ∧ (2 ^ 20 ≤ s.attIndex → u = s ∧ x = 0)))) ∧
    (∀ d x, d < s.stretch.length →
      (Completes (.evSupplyDroop d x) s fun t => t = { s with stretch := t.stretch, sagEnd := t.sagEnd } ∧ nth t.sagEnd d none = none ∧
        (∀ k, k ≠ d → nth t.sagEnd k none = nth s.sagEnd k none) ∧ ∀ k, nth t.stretch k 0 =
        if k = d then (if x = 0 then 1 else if 4 < x then 4 else x) else nth s.stretch k 0) ∧
      -- 1 µs after the end of the sag
      (∀ z, nth s.sagEnd d none = some z → z + 1000 ≤ s.ns → Completes (.evSquallRelease d) s fun t =>
        t = { s with stretch := t.stretch } ∧ ∀ k, nth t.stretch k 0 = if k = d then 0 else nth s.stretch k 0) ∧
      (∀ z, nth s.sagEnd d none = some z → s.ns < z + 1000 → Completes (.evSquallRelease d) s fun t => t = s) ∧
      (nth s.sagEnd d none = none → Completes (.evSquallRelease d) s fun t => t = s) ∧
      (nth s.sagEnd d none = none → d < s.sagEnd.length → nth (applyEnv s (.sagOver d)).sagEnd d none = some s.ns)) ∧
    (∀ d x, d < s.slowed.length → Completes (.evDiePowerLimit d x) s fun t => t = { s with slowed := t.slowed } ∧
      ∀ k, nth t.slowed k 0 = if k = d then (if 4 < x then 4 else x) else nth s.slowed k 0) ∧
    -- a sharing of the power budget at most once in every 1 ms
    let shares : Prop := ∀ z, s.isobarAt = some z → z = s.ns ∨ z + 1000000 ≤ s.ns
    (∀ st x, st < 24 → s.isobar.length = 24 → shares → Completes (.evIsobarRecompute st x) s fun t =>
      t = { s with isobar := t.isobar, isobarAt := some s.ns } ∧ ∀ k, nth t.isobar k (0, 0) =
      if k = st then (if x < 256 then 256 else if 65535 < x then 65535 else x, (nth s.isobar st (0, 0)).2)
      else nth s.isobar k (0, 0)) ∧
    (∀ d x, d < s.power.length → shares → Completes (.evIsobarRecompute (24 + d) x) s fun t =>
      t = { s with power := t.power, isobarAt := some s.ns } ∧ ∀ k, nth t.power k 0 = if k = d then x else nth s.power k 0) ∧
    (∀ st x, ¬shares → Completes (.evIsobarRecompute st x) s fun t => t = s) ∧
    -- activates of a stack: those of the last 1 µs, one more where there is room, else held and counted
    (∀ st, st < s.isobar.length → st < s.acts.length → st < s.actsHeld.length →
      let q := nth s.isobar st (0, 0)
      let now := (nth s.acts st []).filter fun z => decide (s.ns < z + 1000)
      let room : Prop := now.length < q.1
      let counts (t : State) : Prop := nth t.acts st [] = s.ns :: now ∧ ∀ k, k ≠ st → nth t.acts k [] = nth s.acts k []
      (room → let t := applyEnv s (.activate st)
        t = { s with acts := t.acts } ∧ counts t) ∧
      (¬room → let t := applyEnv s (.activate st)
        t = { s with actsHeld := t.actsHeld, isobar := t.isobar } ∧ nth t.actsHeld st 0 = nth s.actsHeld st 0 + 1 ∧
        ∀ k, nth t.isobar k (0, 0) = if k = st then (q.1, (q.2 + 1) % 2 ^ 64) else nth s.isobar k (0, 0)) ∧
      (room → 0 < nth s.actsHeld st 0 → Completes (.evIsobarRelease st) s fun t =>
        t = { s with acts := t.acts, actsHeld := t.actsHeld } ∧ counts t ∧ nth t.actsHeld st 0 = nth s.actsHeld st 0 - 1) ∧
      (¬room ∨ nth s.actsHeld st 0 = 0 → Completes (.evIsobarRelease st) s fun t => t = s) ∧
      -- the block that shows them, and 0 to a partition that does not hold the stack
      ∀ p, (ownsStack s p st = false → isobarBlock s p st = 0) ∧ (ownsStack s p st = true → q.1 < 2 ^ 16 → now.length < 2 ^ 16 →
        bits (isobarBlock s p st) 15 0 = q.1 ∧ bits (isobarBlock s p st) 47 32 = now.length ∧ bits (isobarBlock s p st) 127 64 = q.2 % 2 ^ 64)) ∧
    (∀ p va n v pa st off, 1 ≤ n → va % 64 + n ≤ 64 → xlat s p {} va = .ok pa → target pa = .hbm st off → Memory.wf s.hbm = true →
      ∀ y, getByte (keepBytes s p 2 va n v).hbm y =
        if pa ≤ y ∧ y < pa + n then BitVec.ofNat 8 (v / 256 ^ (y - pa)) else getByte s.hbm y) ∧
    -- the flash is written with an image that every die accepts, and BOOTST answers a configuration read
    (∀ img, s.flashing = none → (∀ k ∈ s.rootKeys, dieAccepts { s with flash := img } k = true) →
      applyEnv s (.flashBegin img) = { s with flashing := some img }) ∧
    (∀ img, (∃ k ∈ s.rootKeys, dieAccepts { s with flash := img } k = false) → applyEnv s (.flashBegin img) = s) ∧
    (∀ img, s.flashing = some img → applyEnv s .flashEnd = { s with flash := img, flashing := none, flashOk := true }) ∧
    (∀ p port, (applyEnv s (.configRead p port)).hostReply = some (0, s.bootst)) ∧
    -- a soft error of one symbol is corrected, and of a second one is not
    (∀ pa sym layer st off, target pa = .hbm st off → s.badLines.contains (pa / 64) = false →
      let t := applyEnv s (.soft pa sym layer)
      let e := (s.softLines.find? fun x => x.1 == pa / 64).getD (pa / 64, 0, 0)
      (e.2.2 = 0 → t = { s with softLines := t.softLines } ∧ (t.softLines.find? fun x => x.1 == pa / 64) =
        some (pa / 64, if layer = 0 then (Nat.lor e.2.1 (2 ^ (sym % 32)), 0) else (e.2.1, 2 ^ (sym % 32)))) ∧
      (∀ j, j < 32 → e.2.2 = 2 ^ j → layer ≠ 0 → j ≠ sym % 32 → t = { s with softLines := t.softLines, badLines := pa / 64 :: s.badLines } ∧
        ∀ x ∈ t.softLines, x.1 ≠ pa / 64)) ∧
    (∀ st b, Completes (.evRefresh st b) s fun t => t = { s with refresh := t.refresh } ∧ lookupKey t.refresh (st, b) = none ∧
      ∀ k, k ≠ (st, b) → lookupKey t.refresh k = lookupKey s.refresh k)

/-! ### Encodings, the step and reset -/

/-- R64, R214 to R216: the words of every well-formed instruction decode to it, with every operand at every value that its
encoding admits; and a word that decodes is the word of what it decodes to. -/
def Obligations.DecodeEncode : Prop :=
  (∀ i w, encodeKettle i = some w → decodeKettle w = .ok i) ∧ (∀ i w, i.wf = true → encodeOp i = some w → decodeOp w = .ok i) ∧
  (∀ w i, decodeKettle w = .ok i → encodeKettle i = some w) ∧ (∀ w i, decodeOp w = .ok i → encodeOp i = some w)

/-- R64, R214, R222, R224, R225, R240: words written out from the encoding tables, and what they decode to. -/
def Obligations.DecodedWords : Prop :=
  decodeKettle 0x00611000 = .ok (.kAdd 3 1 2) ∧ decodeKettle 0x0461FFFF = .ok (.kAddi 3 1 0xFFFF) ∧
  decodeKettle 0x24400002 = .ok (.kLui 2 2) ∧ decodeKettle 0x40A10008 = .ok (.kLd 5 1 8) ∧
  decodeKettle 0x5C221001 = .error .field ∧ decodeKettle 0x5C020806 = .error .field ∧ decodeKettle 0x5C220006 = .ok (.kLwAcq 1 2 true) ∧
  decodeKettle 0x606112E0 = .ok (.kAmoCas 3 1 2 true 3 false) ∧ decodeKettle 0x80220003 = .ok (.kBeq 1 2 3) ∧
  decodeKettle 0xB4051009 = .ok (.kCsrw 5 0x009) ∧ decodeKettle 0xC0811000 = .ok (.kIload 4 1 2) ∧
  decodeKettle 0xD08E0000 = .ok (.kInj 4 14 0) ∧ decodeKettle 0x18000000 = .ok (.kShri 0 0 0) ∧ decodeKettle 0xA4000000 = .error .op

/-- R58, R214, R216, R228 (whose turn it is, and the read-only blocks brought up to date before a move: the model's choice, log
entries 10 and 73): a turn's time passes and its environment acts; then a core executes the instruction that its word decodes
to, or takes ILLEGAL_INSN; an element issues the word of the slot that its select unit chose; an event is performed. An
unpowered module runs nothing but POWER_UP. -/
def Obligations.StepRuns : Prop :=
  (∀ (s : State), s.powered = false → (s.agenda = [] → step s = .fault .unpowered) ∧ ∀ t rest, s.agenda = t :: rest →
    (t.act = .ev .evPowerUp → step s = exec .evPowerUp { s with agenda := rest }) ∧
    (t.act ≠ .ev .evPowerUp → step s = .fault .unpowered)) ∧
  ∀ (s : State), s.powered = true →
    -- a core's move at u answers what the state after its fetch does with the word
    let runs (u : State) (o : Host.Outcome State Fault Refusal) : Prop :=
      let v := setCore u ((curCore u).timer u.ns)
      ((curCore u).started = false → o = .next u) ∧
      ((curCore u).started = true → asyncDue (curCore v) u.ns ≠ none → o = exec .evAsyncTrap v) ∧
      ((curCore u).started = true → asyncDue (curCore v) u.ns = none →
        (∀ a b c, (curCore u).wait = some (.kwait a b c) → o = exec .evKwaitWake v) ∧
        (∀ a b c d, (curCore u).wait = some (.gwaitk a b c d) → o = exec .evGwaitkWake v)) ∧
      ((curCore u).started = true → asyncDue (curCore v) u.ns = none → (curCore u).wait = none →
        (∀ t x, kfetch v = (.error t, x) → o = .next (ktrap x t)) ∧
        (∀ w x, kfetch v = (.ok w, x) → (∀ i, decodeKettle w = .ok i → o = exec i x) ∧
          (∀ e, decodeKettle w = .error e → o = exec (.evUndefinedEncoding w) x)) ∧
        ((curCore u).pc.toNat < 0x80000 → localBad v (curCore u).pc.toNat = false → ∀ i,
          decodeKettle (BitVec.ofNat 32 (readBytes (curCore u).lmem (curCore u).pc.toNat 4)) = .ok i → o = exec i v))
    (s.agenda = [] → runs (publish s) (step s)) ∧
    (∀ t rest, s.agenda = t :: rest →
      let x := { s with agenda := rest, ns := s.ns + t.ns, clk := s.clk + t.clk, kcyc := s.kcyc + t.kcyc }
      let u := publish (t.env.foldl applyEnv (if t.clk = 0 then x else settleBuffers x))
      (∀ c, t.act = .core c → runs { u with cur := c } (step s)) ∧
      (∀ i, t.act = .ev i → step s = exec i u) ∧
      (∀ l, t.act = .fire l → (selectFocus u l = none → step s = .next u) ∧
        (∀ f, selectFocus u l = some f → f.mode = .eos → step s = exec .evEosSetFire { u with focus := some f }) ∧
        (∀ f, selectFocus u l = some f → f.mode = .trunc → step s = exec .evTruncDiscard { u with focus := some f }) ∧
        (∀ f i, selectFocus u l = some f → f.mode = .data ∨ f.mode = .mismatch →
          decodeOp (nth (getElem u l).cfg.slots f.slot 0) = .ok i → step s = exec i { u with focus := some f })))

/-- R5, R210, R213, R226, R240, R409, R416 (HBM and local memory empty, what the spec leaves to firmware such as ENTRY, the
partition map and the page tables, the state of the lane groups and the empty agenda: the model's choice, log entries 1, 2, 6,
7, 8 and 10): the module right after reset, and the invariant of a step holds of it. -/
def Obligations.ResetState : Prop :=
  let s := State.reset
  Inv s ∧ s.powered = true ∧ s.hbm = [] ∧ s.agenda = [] ∧ (∀ r, getRegion s r = {}) ∧ (∀ r, (getRegion s r).st = 0) ∧
  (∀ k : Fin 32, let c := s.cores[k]
    c.pc = 0 ∧ (∀ n : Fin 32, c.regs[n] = 0) ∧ c.prv = true ∧ c.ie = false ∧ c.pprv = false ∧ c.pie = false ∧ c.timecmp = BitVec.allOnes 64 ∧
    c.lmem = [] ∧ c.monitor = none ∧ c.wait = none ∧ c.tdeleg = 0 ∧ c.ien = 0 ∧ c.event = 0) ∧
  (∀ g, g < 72 → getLane s g = {}) ∧ ∀ st, st < 24 → nth s.isobar st (0, 0) = (256, 0)

/-- R210, R226, R383, R409, R415: every step from a state of which the invariant holds, reached or not, leaves it holding: the
memories keep their canonical form, a pc stays a multiple of 4, k0 keeps 0, the reserved bits of the control registers read 0,
ACTMAX and the stretch of the clocks keep their bounds. -/
def Obligations.StepKeepsInvariant : Prop := ∀ s t : State, Inv s → step s = .next t → Inv t
end

