-- ==== Sys2Proof/Laws/Lists.lean ====
section
/-! SUPPORT. The list and bit-field helpers: keys, positions, lanes. -/

namespace Sys2Proof.Machine

@[simp] theorem nth_modNth_same {α : Type} (l : List α) (n : Nat) (f : α → α) (d : α) (h : n < l.length) :
    nth (modNth l n f) n d = f (nth l n d) := by
  induction l generalizing n with
  | nil => simp at h
  | cons x xs ih => cases n with
    | zero => simp [modNth, nth]
    | succ n => simpa [modNth, nth] using ih n (by simpa using h)

theorem nth_modNth_ne {α : Type} (l : List α) (n m : Nat) (f : α → α) (d : α) (h : n ≠ m) :
    nth (modNth l n f) m d = nth l m d := by
  induction l generalizing n m with
  | nil => simp [modNth]
  | cons x xs ih => cases n with
    | zero => cases m with
      | zero => exact absurd rfl h
      | succ m => simp [modNth, nth]
    | succ n => cases m with
      | zero => simp [modNth, nth]
      | succ m => simpa [modNth, nth] using ih n m (by omega)

@[simp] theorem modNth_length {α : Type} (l : List α) (n : Nat) (f : α → α) : (modNth l n f).length = l.length := by
  induction l generalizing n with
  | nil => rfl
  | cons x xs ih => cases n <;> simp [modNth, ih]

@[simp] theorem lookupKey_putKey_same {κ α : Type} [DecidableEq κ] (l : List (κ × α)) (k : κ) (v : α) :
    lookupKey (putKey l k v) k = some v := by
  induction l with
  | nil => simp [putKey, lookupKey]
  | cons x xs ih => obtain ⟨a, b⟩ := x; by_cases h : a = k <;> simp [putKey, lookupKey, h, ih]

theorem lookupKey_putKey_ne {κ α : Type} [DecidableEq κ] (l : List (κ × α)) (k k' : κ) (v : α) (h : k ≠ k') :
    lookupKey (putKey l k v) k' = lookupKey l k' := by
  induction l with
  | nil => simp [putKey, lookupKey, h]
  | cons x xs ih =>
    obtain ⟨a, b⟩ := x
    by_cases ha : a = k
    · subst ha; simp [putKey, lookupKey, h]
    · by_cases hb : a = k' <;> simp [putKey, lookupKey, ha, hb, ih, Ne.symm h]

@[simp] theorem lookupKey_delKey_same {κ α : Type} [DecidableEq κ] (l : List (κ × α)) (k : κ) :
    lookupKey (delKey l k) k = none := by
  induction l with
  | nil => rfl
  | cons x xs ih => obtain ⟨a, b⟩ := x; by_cases h : a = k <;> simp [delKey, lookupKey, h, ih]

/-- Lane k of packed lanes is the k-th of them (R24). -/
theorem lane_packLanes (w : Nat) (l : List Nat) (k : Nat) (h : k < l.length) :
    lane w (packLanes w l) k = l[k] % 2 ^ w := by
  have hp : 0 < 2 ^ w := Nat.two_pow_pos w
  induction l generalizing k with
  | nil => simp at h
  | cons x xs ih =>
    cases k with
    | zero => simp [lane, packLanes]
    | succ k =>
      have hk : k < xs.length := by simpa using h
      have := ih k hk
      unfold lane at this ⊢
      rw [Nat.shiftRight_eq_div_pow] at this ⊢
      rw [Nat.succ_mul, Nat.add_comm (k * w) w, Nat.pow_add, ← Nat.div_div_eq_div_mul]
      have h2 : packLanes w (x :: xs) / 2 ^ w = packLanes w xs := by
        simp only [packLanes]
        rw [Nat.add_mul_div_left _ _ hp, Nat.div_eq_of_lt (Nat.mod_lt _ hp), Nat.zero_add]
      rw [h2, this]; simp

end Sys2Proof.Machine
end

