-- ==== Sys2Proof/Laws/State.lean ====
section
/-! SUPPORT. What the basic updates of the state leave alone: one lemma for each field and update. -/

namespace Sys2Proof.Machine

@[simp] theorem setCore_powered (s : State) (c : Core) : (setCore s c).powered = s.powered := rfl
@[simp] theorem setCore_ns (s : State) (c : Core) : (setCore s c).ns = s.ns := rfl
@[simp] theorem setCore_clk (s : State) (c : Core) : (setCore s c).clk = s.clk := rfl
@[simp] theorem setCore_kcyc (s : State) (c : Core) : (setCore s c).kcyc = s.kcyc := rfl
@[simp] theorem setCore_hbm (s : State) (c : Core) : (setCore s c).hbm = s.hbm := rfl
@[simp] theorem setCore_hostMem (s : State) (c : Core) : (setCore s c).hostMem = s.hostMem := rfl
@[simp] theorem setCore_hostOut (s : State) (c : Core) : (setCore s c).hostOut = s.hostOut := rfl
@[simp] theorem setCore_badLines (s : State) (c : Core) : (setCore s c).badLines = s.badLines := rfl
@[simp] theorem setCore_softLines (s : State) (c : Core) : (setCore s c).softLines = s.softLines := rfl
@[simp] theorem setCore_colmaps (s : State) (c : Core) : (setCore s c).colmaps = s.colmaps := rfl
@[simp] theorem setCore_retired (s : State) (c : Core) : (setCore s c).retired = s.retired := rfl
@[simp] theorem setCore_flash (s : State) (c : Core) : (setCore s c).flash = s.flash := rfl
@[simp] theorem setCore_rootKeys (s : State) (c : Core) : (setCore s c).rootKeys = s.rootKeys := rfl
@[simp] theorem setCore_keys (s : State) (c : Core) : (setCore s c).keys = s.keys := rfl
@[simp] theorem setCore_pmap (s : State) (c : Core) : (setCore s c).pmap = s.pmap := rfl
@[simp] theorem setCore_bootst (s : State) (c : Core) : (setCore s c).bootst = s.bootst := rfl
@[simp] theorem setCore_infuser (s : State) (c : Core) : (setCore s c).infuser = s.infuser := rfl
@[simp] theorem setCore_stretch (s : State) (c : Core) : (setCore s c).stretch = s.stretch := rfl
@[simp] theorem setCore_flashing (s : State) (c : Core) : (setCore s c).flashing = s.flashing := rfl
@[simp] theorem setCore_flashOk (s : State) (c : Core) : (setCore s c).flashOk = s.flashOk := rfl
@[simp] theorem setCore_sagEnd (s : State) (c : Core) : (setCore s c).sagEnd = s.sagEnd := rfl
@[simp] theorem setCore_lag (s : State) (c : Core) : (setCore s c).lag = s.lag := rfl
@[simp] theorem setCore_acts (s : State) (c : Core) : (setCore s c).acts = s.acts := rfl
@[simp] theorem setCore_actsHeld (s : State) (c : Core) : (setCore s c).actsHeld = s.actsHeld := rfl
@[simp] theorem setCore_isobarAt (s : State) (c : Core) : (setCore s c).isobarAt = s.isobarAt := rfl
@[simp] theorem setCore_power (s : State) (c : Core) : (setCore s c).power = s.power := rfl
@[simp] theorem setCore_slowed (s : State) (c : Core) : (setCore s c).slowed = s.slowed := rfl
@[simp] theorem setCore_isobar (s : State) (c : Core) : (setCore s c).isobar = s.isobar := rfl
@[simp] theorem setCore_refresh (s : State) (c : Core) : (setCore s c).refresh = s.refresh := rfl
@[simp] theorem setCore_wheelAt (s : State) (c : Core) : (setCore s c).wheelAt = s.wheelAt := rfl
@[simp] theorem setCore_walkc (s : State) (c : Core) : (setCore s c).walkc = s.walkc := rfl
@[simp] theorem setCore_attIndex (s : State) (c : Core) : (setCore s c).attIndex = s.attIndex := rfl
@[simp] theorem setCore_attEnd (s : State) (c : Core) : (setCore s c).attEnd = s.attEnd := rfl
@[simp] theorem setCore_entry (s : State) (c : Core) : (setCore s c).entry = s.entry := rfl
@[simp] theorem setCore_lanes (s : State) (c : Core) : (setCore s c).lanes = s.lanes := rfl
@[simp] theorem setCore_parts (s : State) (c : Core) : (setCore s c).parts = s.parts := rfl
@[simp] theorem setCore_holding (s : State) (c : Core) : (setCore s c).holding = s.holding := rfl
@[simp] theorem setCore_agenda (s : State) (c : Core) : (setCore s c).agenda = s.agenda := rfl
@[simp] theorem setCore_cur (s : State) (c : Core) : (setCore s c).cur = s.cur := rfl
@[simp] theorem setCore_focus (s : State) (c : Core) : (setCore s c).focus = s.focus := rfl
@[simp] theorem setCore_fresh (s : State) (c : Core) : (setCore s c).fresh = s.fresh := rfl
@[simp] theorem setCore_ids (s : State) (c : Core) : (setCore s c).ids = s.ids := rfl
@[simp] theorem setCore_hostReply (s : State) (c : Core) : (setCore s c).hostReply = s.hostReply := rfl
@[simp] theorem setPart_powered (s : State) (p : Nat) (x : Part) : (setPart s p x).powered = s.powered := by
  unfold setPart; split <;> rfl
@[simp] theorem setPart_ns (s : State) (p : Nat) (x : Part) : (setPart s p x).ns = s.ns := by
  unfold setPart; split <;> rfl
@[simp] theorem setPart_clk (s : State) (p : Nat) (x : Part) : (setPart s p x).clk = s.clk := by
  unfold setPart; split <;> rfl
@[simp] theorem setPart_kcyc (s : State) (p : Nat) (x : Part) : (setPart s p x).kcyc = s.kcyc := by
  unfold setPart; split <;> rfl
@[simp] theorem setPart_hbm (s : State) (p : Nat) (x : Part) : (setPart s p x).hbm = s.hbm := by
  unfold setPart; split <;> rfl
@[simp] theorem setPart_hostMem (s : State) (p : Nat) (x : Part) : (setPart s p x).hostMem = s.hostMem := by
  unfold setPart; split <;> rfl
@[simp] theorem setPart_hostOut (s : State) (p : Nat) (x : Part) : (setPart s p x).hostOut = s.hostOut := by
  unfold setPart; split <;> rfl
@[simp] theorem setPart_badLines (s : State) (p : Nat) (x : Part) : (setPart s p x).badLines = s.badLines := by
  unfold setPart; split <;> rfl
@[simp] theorem setPart_softLines (s : State) (p : Nat) (x : Part) : (setPart s p x).softLines = s.softLines := by
  unfold setPart; split <;> rfl
@[simp] theorem setPart_colmaps (s : State) (p : Nat) (x : Part) : (setPart s p x).colmaps = s.colmaps := by
  unfold setPart; split <;> rfl
@[simp] theorem setPart_retired (s : State) (p : Nat) (x : Part) : (setPart s p x).retired = s.retired := by
  unfold setPart; split <;> rfl
@[simp] theorem setPart_flash (s : State) (p : Nat) (x : Part) : (setPart s p x).flash = s.flash := by
  unfold setPart; split <;> rfl
@[simp] theorem setPart_rootKeys (s : State) (p : Nat) (x : Part) : (setPart s p x).rootKeys = s.rootKeys := by
  unfold setPart; split <;> rfl
@[simp] theorem setPart_keys (s : State) (p : Nat) (x : Part) : (setPart s p x).keys = s.keys := by
  unfold setPart; split <;> rfl
@[simp] theorem setPart_pmap (s : State) (p : Nat) (x : Part) : (setPart s p x).pmap = s.pmap := by
  unfold setPart; split <;> rfl
@[simp] theorem setPart_bootst (s : State) (p : Nat) (x : Part) : (setPart s p x).bootst = s.bootst := by
  unfold setPart; split <;> rfl
@[simp] theorem setPart_infuser (s : State) (p : Nat) (x : Part) : (setPart s p x).infuser = s.infuser := by
  unfold setPart; split <;> rfl
@[simp] theorem setPart_stretch (s : State) (p : Nat) (x : Part) : (setPart s p x).stretch = s.stretch := by
  unfold setPart; split <;> rfl
@[simp] theorem setPart_flashing (s : State) (p : Nat) (x : Part) : (setPart s p x).flashing = s.flashing := by
  unfold setPart; split <;> rfl
@[simp] theorem setPart_flashOk (s : State) (p : Nat) (x : Part) : (setPart s p x).flashOk = s.flashOk := by
  unfold setPart; split <;> rfl
@[simp] theorem setPart_sagEnd (s : State) (p : Nat) (x : Part) : (setPart s p x).sagEnd = s.sagEnd := by
  unfold setPart; split <;> rfl
@[simp] theorem setPart_lag (s : State) (p : Nat) (x : Part) : (setPart s p x).lag = s.lag := by
  unfold setPart; split <;> rfl
@[simp] theorem setPart_acts (s : State) (p : Nat) (x : Part) : (setPart s p x).acts = s.acts := by
  unfold setPart; split <;> rfl
@[simp] theorem setPart_actsHeld (s : State) (p : Nat) (x : Part) : (setPart s p x).actsHeld = s.actsHeld := by
  unfold setPart; split <;> rfl
@[simp] theorem setPart_isobarAt (s : State) (p : Nat) (x : Part) : (setPart s p x).isobarAt = s.isobarAt := by
  unfold setPart; split <;> rfl
@[simp] theorem setPart_power (s : State) (p : Nat) (x : Part) : (setPart s p x).power = s.power := by
  unfold setPart; split <;> rfl
@[simp] theorem setPart_slowed (s : State) (p : Nat) (x : Part) : (setPart s p x).slowed = s.slowed := by
  unfold setPart; split <;> rfl
@[simp] theorem setPart_isobar (s : State) (p : Nat) (x : Part) : (setPart s p x).isobar = s.isobar := by
  unfold setPart; split <;> rfl
@[simp] theorem setPart_refresh (s : State) (p : Nat) (x : Part) : (setPart s p x).refresh = s.refresh := by
  unfold setPart; split <;> rfl
@[simp] theorem setPart_wheelAt (s : State) (p : Nat) (x : Part) : (setPart s p x).wheelAt = s.wheelAt := by
  unfold setPart; split <;> rfl
@[simp] theorem setPart_walkc (s : State) (p : Nat) (x : Part) : (setPart s p x).walkc = s.walkc := by
  unfold setPart; split <;> rfl
@[simp] theorem setPart_attIndex (s : State) (p : Nat) (x : Part) : (setPart s p x).attIndex = s.attIndex := by
  unfold setPart; split <;> rfl
@[simp] theorem setPart_attEnd (s : State) (p : Nat) (x : Part) : (setPart s p x).attEnd = s.attEnd := by
  unfold setPart; split <;> rfl
@[simp] theorem setPart_entry (s : State) (p : Nat) (x : Part) : (setPart s p x).entry = s.entry := by
  unfold setPart; split <;> rfl
@[simp] theorem setPart_lanes (s : State) (p : Nat) (x : Part) : (setPart s p x).lanes = s.lanes := by
  unfold setPart; split <;> rfl
@[simp] theorem setPart_cores (s : State) (p : Nat) (x : Part) : (setPart s p x).cores = s.cores := by
  unfold setPart; split <;> rfl
@[simp] theorem setPart_holding (s : State) (p : Nat) (x : Part) : (setPart s p x).holding = s.holding := by
  unfold setPart; split <;> rfl
@[simp] theorem setPart_agenda (s : State) (p : Nat) (x : Part) : (setPart s p x).agenda = s.agenda := by
  unfold setPart; split <;> rfl
@[simp] theorem setPart_cur (s : State) (p : Nat) (x : Part) : (setPart s p x).cur = s.cur := by
  unfold setPart; split <;> rfl
@[simp] theorem setPart_focus (s : State) (p : Nat) (x : Part) : (setPart s p x).focus = s.focus := by
  unfold setPart; split <;> rfl
@[simp] theorem setPart_fresh (s : State) (p : Nat) (x : Part) : (setPart s p x).fresh = s.fresh := by
  unfold setPart; split <;> rfl
@[simp] theorem setPart_ids (s : State) (p : Nat) (x : Part) : (setPart s p x).ids = s.ids := by
  unfold setPart; split <;> rfl
@[simp] theorem setPart_hostReply (s : State) (p : Nat) (x : Part) : (setPart s p x).hostReply = s.hostReply := by
  unfold setPart; split <;> rfl
@[simp] theorem modPart_powered (s : State) (p : Nat) (g : Part → Part) : (modPart s p g).powered = s.powered := setPart_powered ..
@[simp] theorem modPart_ns (s : State) (p : Nat) (g : Part → Part) : (modPart s p g).ns = s.ns := setPart_ns ..
@[simp] theorem modPart_clk (s : State) (p : Nat) (g : Part → Part) : (modPart s p g).clk = s.clk := setPart_clk ..
@[simp] theorem modPart_kcyc (s : State) (p : Nat) (g : Part → Part) : (modPart s p g).kcyc = s.kcyc := setPart_kcyc ..
@[simp] theorem modPart_hbm (s : State) (p : Nat) (g : Part → Part) : (modPart s p g).hbm = s.hbm := setPart_hbm ..
@[simp] theorem modPart_hostMem (s : State) (p : Nat) (g : Part → Part) : (modPart s p g).hostMem = s.hostMem := setPart_hostMem ..
@[simp] theorem modPart_hostOut (s : State) (p : Nat) (g : Part → Part) : (modPart s p g).hostOut = s.hostOut := setPart_hostOut ..
@[simp] theorem modPart_badLines (s : State) (p : Nat) (g : Part → Part) : (modPart s p g).badLines = s.badLines := setPart_badLines ..
@[simp] theorem modPart_softLines (s : State) (p : Nat) (g : Part → Part) : (modPart s p g).softLines = s.softLines := setPart_softLines ..
@[simp] theorem modPart_colmaps (s : State) (p : Nat) (g : Part → Part) : (modPart s p g).colmaps = s.colmaps := setPart_colmaps ..
@[simp] theorem modPart_retired (s : State) (p : Nat) (g : Part → Part) : (modPart s p g).retired = s.retired := setPart_retired ..
@[simp] theorem modPart_flash (s : State) (p : Nat) (g : Part → Part) : (modPart s p g).flash = s.flash := setPart_flash ..
@[simp] theorem modPart_rootKeys (s : State) (p : Nat) (g : Part → Part) : (modPart s p g).rootKeys = s.rootKeys := setPart_rootKeys ..
@[simp] theorem modPart_keys (s : State) (p : Nat) (g : Part → Part) : (modPart s p g).keys = s.keys := setPart_keys ..
@[simp] theorem modPart_pmap (s : State) (p : Nat) (g : Part → Part) : (modPart s p g).pmap = s.pmap := setPart_pmap ..
@[simp] theorem modPart_bootst (s : State) (p : Nat) (g : Part → Part) : (modPart s p g).bootst = s.bootst := setPart_bootst ..
@[simp] theorem modPart_infuser (s : State) (p : Nat) (g : Part → Part) : (modPart s p g).infuser = s.infuser := setPart_infuser ..
@[simp] theorem modPart_stretch (s : State) (p : Nat) (g : Part → Part) : (modPart s p g).stretch = s.stretch := setPart_stretch ..
@[simp] theorem modPart_flashing (s : State) (p : Nat) (g : Part → Part) : (modPart s p g).flashing = s.flashing := setPart_flashing ..
@[simp] theorem modPart_flashOk (s : State) (p : Nat) (g : Part → Part) : (modPart s p g).flashOk = s.flashOk := setPart_flashOk ..
@[simp] theorem modPart_sagEnd (s : State) (p : Nat) (g : Part → Part) : (modPart s p g).sagEnd = s.sagEnd := setPart_sagEnd ..
@[simp] theorem modPart_lag (s : State) (p : Nat) (g : Part → Part) : (modPart s p g).lag = s.lag := setPart_lag ..
@[simp] theorem modPart_acts (s : State) (p : Nat) (g : Part → Part) : (modPart s p g).acts = s.acts := setPart_acts ..
@[simp] theorem modPart_actsHeld (s : State) (p : Nat) (g : Part → Part) : (modPart s p g).actsHeld = s.actsHeld := setPart_actsHeld ..
@[simp] theorem modPart_isobarAt (s : State) (p : Nat) (g : Part → Part) : (modPart s p g).isobarAt = s.isobarAt := setPart_isobarAt ..
@[simp] theorem modPart_power (s : State) (p : Nat) (g : Part → Part) : (modPart s p g).power = s.power := setPart_power ..
@[simp] theorem modPart_slowed (s : State) (p : Nat) (g : Part → Part) : (modPart s p g).slowed = s.slowed := setPart_slowed ..
@[simp] theorem modPart_isobar (s : State) (p : Nat) (g : Part → Part) : (modPart s p g).isobar = s.isobar := setPart_isobar ..
@[simp] theorem modPart_refresh (s : State) (p : Nat) (g : Part → Part) : (modPart s p g).refresh = s.refresh := setPart_refresh ..
@[simp] theorem modPart_wheelAt (s : State) (p : Nat) (g : Part → Part) : (modPart s p g).wheelAt = s.wheelAt := setPart_wheelAt ..
@[simp] theorem modPart_walkc (s : State) (p : Nat) (g : Part → Part) : (modPart s p g).walkc = s.walkc := setPart_walkc ..
@[simp] theorem modPart_attIndex (s : State) (p : Nat) (g : Part → Part) : (modPart s p g).attIndex = s.attIndex := setPart_attIndex ..
@[simp] theorem modPart_attEnd (s : State) (p : Nat) (g : Part → Part) : (modPart s p g).attEnd = s.attEnd := setPart_attEnd ..
@[simp] theorem modPart_entry (s : State) (p : Nat) (g : Part → Part) : (modPart s p g).entry = s.entry := setPart_entry ..
@[simp] theorem modPart_lanes (s : State) (p : Nat) (g : Part → Part) : (modPart s p g).lanes = s.lanes := setPart_lanes ..
@[simp] theorem modPart_cores (s : State) (p : Nat) (g : Part → Part) : (modPart s p g).cores = s.cores := setPart_cores ..
@[simp] theorem modPart_holding (s : State) (p : Nat) (g : Part → Part) : (modPart s p g).holding = s.holding := setPart_holding ..
@[simp] theorem modPart_agenda (s : State) (p : Nat) (g : Part → Part) : (modPart s p g).agenda = s.agenda := setPart_agenda ..
@[simp] theorem modPart_cur (s : State) (p : Nat) (g : Part → Part) : (modPart s p g).cur = s.cur := setPart_cur ..
@[simp] theorem modPart_focus (s : State) (p : Nat) (g : Part → Part) : (modPart s p g).focus = s.focus := setPart_focus ..
@[simp] theorem modPart_fresh (s : State) (p : Nat) (g : Part → Part) : (modPart s p g).fresh = s.fresh := setPart_fresh ..
@[simp] theorem modPart_ids (s : State) (p : Nat) (g : Part → Part) : (modPart s p g).ids = s.ids := setPart_ids ..
@[simp] theorem modPart_hostReply (s : State) (p : Nat) (g : Part → Part) : (modPart s p g).hostReply = s.hostReply := setPart_hostReply ..
@[simp] theorem setRegion_powered (s : State) (r : Rgn) (x : Region) : (setRegion s r x).powered = s.powered := modPart_powered ..
@[simp] theorem setRegion_ns (s : State) (r : Rgn) (x : Region) : (setRegion s r x).ns = s.ns := modPart_ns ..
@[simp] theorem setRegion_clk (s : State) (r : Rgn) (x : Region) : (setRegion s r x).clk = s.clk := modPart_clk ..
@[simp] theorem setRegion_kcyc (s : State) (r : Rgn) (x : Region) : (setRegion s r x).kcyc = s.kcyc := modPart_kcyc ..
@[simp] theorem setRegion_hbm (s : State) (r : Rgn) (x : Region) : (setRegion s r x).hbm = s.hbm := modPart_hbm ..
@[simp] theorem setRegion_hostMem (s : State) (r : Rgn) (x : Region) : (setRegion s r x).hostMem = s.hostMem := modPart_hostMem ..
@[simp] theorem setRegion_hostOut (s : State) (r : Rgn) (x : Region) : (setRegion s r x).hostOut = s.hostOut := modPart_hostOut ..
@[simp] theorem setRegion_badLines (s : State) (r : Rgn) (x : Region) : (setRegion s r x).badLines = s.badLines := modPart_badLines ..
@[simp] theorem setRegion_softLines (s : State) (r : Rgn) (x : Region) : (setRegion s r x).softLines = s.softLines := modPart_softLines ..
@[simp] theorem setRegion_colmaps (s : State) (r : Rgn) (x : Region) : (setRegion s r x).colmaps = s.colmaps := modPart_colmaps ..
@[simp] theorem setRegion_retired (s : State) (r : Rgn) (x : Region) : (setRegion s r x).retired = s.retired := modPart_retired ..
@[simp] theorem setRegion_flash (s : State) (r : Rgn) (x : Region) : (setRegion s r x).flash = s.flash := modPart_flash ..
@[simp] theorem setRegion_rootKeys (s : State) (r : Rgn) (x : Region) : (setRegion s r x).rootKeys = s.rootKeys := modPart_rootKeys ..
@[simp] theorem setRegion_keys (s : State) (r : Rgn) (x : Region) : (setRegion s r x).keys = s.keys := modPart_keys ..
@[simp] theorem setRegion_pmap (s : State) (r : Rgn) (x : Region) : (setRegion s r x).pmap = s.pmap := modPart_pmap ..
@[simp] theorem setRegion_bootst (s : State) (r : Rgn) (x : Region) : (setRegion s r x).bootst = s.bootst := modPart_bootst ..
@[simp] theorem setRegion_infuser (s : State) (r : Rgn) (x : Region) : (setRegion s r x).infuser = s.infuser := modPart_infuser ..
@[simp] theorem setRegion_stretch (s : State) (r : Rgn) (x : Region) : (setRegion s r x).stretch = s.stretch := modPart_stretch ..
@[simp] theorem setRegion_flashing (s : State) (r : Rgn) (x : Region) : (setRegion s r x).flashing = s.flashing := modPart_flashing ..
@[simp] theorem setRegion_flashOk (s : State) (r : Rgn) (x : Region) : (setRegion s r x).flashOk = s.flashOk := modPart_flashOk ..
@[simp] theorem setRegion_sagEnd (s : State) (r : Rgn) (x : Region) : (setRegion s r x).sagEnd = s.sagEnd := modPart_sagEnd ..
@[simp] theorem setRegion_lag (s : State) (r : Rgn) (x : Region) : (setRegion s r x).lag = s.lag := modPart_lag ..
@[simp] theorem setRegion_acts (s : State) (r : Rgn) (x : Region) : (setRegion s r x).acts = s.acts := modPart_acts ..
@[simp] theorem setRegion_actsHeld (s : State) (r : Rgn) (x : Region) : (setRegion s r x).actsHeld = s.actsHeld := modPart_actsHeld ..
@[simp] theorem setRegion_isobarAt (s : State) (r : Rgn) (x : Region) : (setRegion s r x).isobarAt = s.isobarAt := modPart_isobarAt ..
@[simp] theorem setRegion_power (s : State) (r : Rgn) (x : Region) : (setRegion s r x).power = s.power := modPart_power ..
@[simp] theorem setRegion_slowed (s : State) (r : Rgn) (x : Region) : (setRegion s r x).slowed = s.slowed := modPart_slowed ..
@[simp] theorem setRegion_isobar (s : State) (r : Rgn) (x : Region) : (setRegion s r x).isobar = s.isobar := modPart_isobar ..
@[simp] theorem setRegion_refresh (s : State) (r : Rgn) (x : Region) : (setRegion s r x).refresh = s.refresh := modPart_refresh ..
@[simp] theorem setRegion_wheelAt (s : State) (r : Rgn) (x : Region) : (setRegion s r x).wheelAt = s.wheelAt := modPart_wheelAt ..
@[simp] theorem setRegion_walkc (s : State) (r : Rgn) (x : Region) : (setRegion s r x).walkc = s.walkc := modPart_walkc ..
@[simp] theorem setRegion_attIndex (s : State) (r : Rgn) (x : Region) : (setRegion s r x).attIndex = s.attIndex := modPart_attIndex ..
@[simp] theorem setRegion_attEnd (s : State) (r : Rgn) (x : Region) : (setRegion s r x).attEnd = s.attEnd := modPart_attEnd ..
@[simp] theorem setRegion_entry (s : State) (r : Rgn) (x : Region) : (setRegion s r x).entry = s.entry := modPart_entry ..
@[simp] theorem setRegion_lanes (s : State) (r : Rgn) (x : Region) : (setRegion s r x).lanes = s.lanes := modPart_lanes ..
@[simp] theorem setRegion_cores (s : State) (r : Rgn) (x : Region) : (setRegion s r x).cores = s.cores := modPart_cores ..
@[simp] theorem setRegion_holding (s : State) (r : Rgn) (x : Region) : (setRegion s r x).holding = s.holding := modPart_holding ..
@[simp] theorem setRegion_agenda (s : State) (r : Rgn) (x : Region) : (setRegion s r x).agenda = s.agenda := modPart_agenda ..
@[simp] theorem setRegion_cur (s : State) (r : Rgn) (x : Region) : (setRegion s r x).cur = s.cur := modPart_cur ..
@[simp] theorem setRegion_focus (s : State) (r : Rgn) (x : Region) : (setRegion s r x).focus = s.focus := modPart_focus ..
@[simp] theorem setRegion_fresh (s : State) (r : Rgn) (x : Region) : (setRegion s r x).fresh = s.fresh := modPart_fresh ..
@[simp] theorem setRegion_ids (s : State) (r : Rgn) (x : Region) : (setRegion s r x).ids = s.ids := modPart_ids ..
@[simp] theorem setRegion_hostReply (s : State) (r : Rgn) (x : Region) : (setRegion s r x).hostReply = s.hostReply := modPart_hostReply ..
@[simp] theorem modRegion_powered (s : State) (r : Rgn) (g : Region → Region) : (modRegion s r g).powered = s.powered := setRegion_powered ..
@[simp] theorem modRegion_ns (s : State) (r : Rgn) (g : Region → Region) : (modRegion s r g).ns = s.ns := setRegion_ns ..
@[simp] theorem modRegion_clk (s : State) (r : Rgn) (g : Region → Region) : (modRegion s r g).clk = s.clk := setRegion_clk ..
@[simp] theorem modRegion_kcyc (s : State) (r : Rgn) (g : Region → Region) : (modRegion s r g).kcyc = s.kcyc := setRegion_kcyc ..
@[simp] theorem modRegion_hbm (s : State) (r : Rgn) (g : Region → Region) : (modRegion s r g).hbm = s.hbm := setRegion_hbm ..
@[simp] theorem modRegion_hostMem (s : State) (r : Rgn) (g : Region → Region) : (modRegion s r g).hostMem = s.hostMem := setRegion_hostMem ..
@[simp] theorem modRegion_hostOut (s : State) (r : Rgn) (g : Region → Region) : (modRegion s r g).hostOut = s.hostOut := setRegion_hostOut ..
@[simp] theorem modRegion_badLines (s : State) (r : Rgn) (g : Region → Region) : (modRegion s r g).badLines = s.badLines := setRegion_badLines ..
@[simp] theorem modRegion_softLines (s : State) (r : Rgn) (g : Region → Region) : (modRegion s r g).softLines = s.softLines := setRegion_softLines ..
@[simp] theorem modRegion_colmaps (s : State) (r : Rgn) (g : Region → Region) : (modRegion s r g).colmaps = s.colmaps := setRegion_colmaps ..
@[simp] theorem modRegion_retired (s : State) (r : Rgn) (g : Region → Region) : (modRegion s r g).retired = s.retired := setRegion_retired ..
@[simp] theorem modRegion_flash (s : State) (r : Rgn) (g : Region → Region) : (modRegion s r g).flash = s.flash := setRegion_flash ..
@[simp] theorem modRegion_rootKeys (s : State) (r : Rgn) (g : Region → Region) : (modRegion s r g).rootKeys = s.rootKeys := setRegion_rootKeys ..
@[simp] theorem modRegion_keys (s : State) (r : Rgn) (g : Region → Region) : (modRegion s r g).keys = s.keys := setRegion_keys ..
@[simp] theorem modRegion_pmap (s : State) (r : Rgn) (g : Region → Region) : (modRegion s r g).pmap = s.pmap := setRegion_pmap ..
@[simp] theorem modRegion_bootst (s : State) (r : Rgn) (g : Region → Region) : (modRegion s r g).bootst = s.bootst := setRegion_bootst ..
@[simp] theorem modRegion_infuser (s : State) (r : Rgn) (g : Region → Region) : (modRegion s r g).infuser = s.infuser := setRegion_infuser ..
@[simp] theorem modRegion_stretch (s : State) (r : Rgn) (g : Region → Region) : (modRegion s r g).stretch = s.stretch := setRegion_stretch ..
@[simp] theorem modRegion_flashing (s : State) (r : Rgn) (g : Region → Region) : (modRegion s r g).flashing = s.flashing := setRegion_flashing ..
@[simp] theorem modRegion_flashOk (s : State) (r : Rgn) (g : Region → Region) : (modRegion s r g).flashOk = s.flashOk := setRegion_flashOk ..
@[simp] theorem modRegion_sagEnd (s : State) (r : Rgn) (g : Region → Region) : (modRegion s r g).sagEnd = s.sagEnd := setRegion_sagEnd ..
@[simp] theorem modRegion_lag (s : State) (r : Rgn) (g : Region → Region) : (modRegion s r g).lag = s.lag := setRegion_lag ..
@[simp] theorem modRegion_acts (s : State) (r : Rgn) (g : Region → Region) : (modRegion s r g).acts = s.acts := setRegion_acts ..
@[simp] theorem modRegion_actsHeld (s : State) (r : Rgn) (g : Region → Region) : (modRegion s r g).actsHeld = s.actsHeld := setRegion_actsHeld ..
@[simp] theorem modRegion_isobarAt (s : State) (r : Rgn) (g : Region → Region) : (modRegion s r g).isobarAt = s.isobarAt := setRegion_isobarAt ..
@[simp] theorem modRegion_power (s : State) (r : Rgn) (g : Region → Region) : (modRegion s r g).power = s.power := setRegion_power ..
@[simp] theorem modRegion_slowed (s : State) (r : Rgn) (g : Region → Region) : (modRegion s r g).slowed = s.slowed := setRegion_slowed ..
@[simp] theorem modRegion_isobar (s : State) (r : Rgn) (g : Region → Region) : (modRegion s r g).isobar = s.isobar := setRegion_isobar ..
@[simp] theorem modRegion_refresh (s : State) (r : Rgn) (g : Region → Region) : (modRegion s r g).refresh = s.refresh := setRegion_refresh ..
@[simp] theorem modRegion_wheelAt (s : State) (r : Rgn) (g : Region → Region) : (modRegion s r g).wheelAt = s.wheelAt := setRegion_wheelAt ..
@[simp] theorem modRegion_walkc (s : State) (r : Rgn) (g : Region → Region) : (modRegion s r g).walkc = s.walkc := setRegion_walkc ..
@[simp] theorem modRegion_attIndex (s : State) (r : Rgn) (g : Region → Region) : (modRegion s r g).attIndex = s.attIndex := setRegion_attIndex ..
@[simp] theorem modRegion_attEnd (s : State) (r : Rgn) (g : Region → Region) : (modRegion s r g).attEnd = s.attEnd := setRegion_attEnd ..
@[simp] theorem modRegion_entry (s : State) (r : Rgn) (g : Region → Region) : (modRegion s r g).entry = s.entry := setRegion_entry ..
@[simp] theorem modRegion_lanes (s : State) (r : Rgn) (g : Region → Region) : (modRegion s r g).lanes = s.lanes := setRegion_lanes ..
@[simp] theorem modRegion_cores (s : State) (r : Rgn) (g : Region → Region) : (modRegion s r g).cores = s.cores := setRegion_cores ..
@[simp] theorem modRegion_holding (s : State) (r : Rgn) (g : Region → Region) : (modRegion s r g).holding = s.holding := setRegion_holding ..
@[simp] theorem modRegion_agenda (s : State) (r : Rgn) (g : Region → Region) : (modRegion s r g).agenda = s.agenda := setRegion_agenda ..
@[simp] theorem modRegion_cur (s : State) (r : Rgn) (g : Region → Region) : (modRegion s r g).cur = s.cur := setRegion_cur ..
@[simp] theorem modRegion_focus (s : State) (r : Rgn) (g : Region → Region) : (modRegion s r g).focus = s.focus := setRegion_focus ..
@[simp] theorem modRegion_fresh (s : State) (r : Rgn) (g : Region → Region) : (modRegion s r g).fresh = s.fresh := setRegion_fresh ..
@[simp] theorem modRegion_ids (s : State) (r : Rgn) (g : Region → Region) : (modRegion s r g).ids = s.ids := setRegion_ids ..
@[simp] theorem modRegion_hostReply (s : State) (r : Rgn) (g : Region → Region) : (modRegion s r g).hostReply = s.hostReply := setRegion_hostReply ..
@[simp] theorem modElem_powered (s : State) (l : Loc) (g : Elem → Elem) : (modElem s l g).powered = s.powered := modRegion_powered ..
@[simp] theorem modElem_ns (s : State) (l : Loc) (g : Elem → Elem) : (modElem s l g).ns = s.ns := modRegion_ns ..
@[simp] theorem modElem_clk (s : State) (l : Loc) (g : Elem → Elem) : (modElem s l g).clk = s.clk := modRegion_clk ..
@[simp] theorem modElem_kcyc (s : State) (l : Loc) (g : Elem → Elem) : (modElem s l g).kcyc = s.kcyc := modRegion_kcyc ..
@[simp] theorem modElem_hbm (s : State) (l : Loc) (g : Elem → Elem) : (modElem s l g).hbm = s.hbm := modRegion_hbm ..
@[simp] theorem modElem_hostMem (s : State) (l : Loc) (g : Elem → Elem) : (modElem s l g).hostMem = s.hostMem := modRegion_hostMem ..
@[simp] theorem modElem_hostOut (s : State) (l : Loc) (g : Elem → Elem) : (modElem s l g).hostOut = s.hostOut := modRegion_hostOut ..
@[simp] theorem modElem_badLines (s : State) (l : Loc) (g : Elem → Elem) : (modElem s l g).badLines = s.badLines := modRegion_badLines ..
@[simp] theorem modElem_softLines (s : State) (l : Loc) (g : Elem → Elem) : (modElem s l g).softLines = s.softLines := modRegion_softLines ..
@[simp] theorem modElem_colmaps (s : State) (l : Loc) (g : Elem → Elem) : (modElem s l g).colmaps = s.colmaps := modRegion_colmaps ..
@[simp] theorem modElem_retired (s : State) (l : Loc) (g : Elem → Elem) : (modElem s l g).retired = s.retired := modRegion_retired ..
@[simp] theorem modElem_flash (s : State) (l : Loc) (g : Elem → Elem) : (modElem s l g).flash = s.flash := modRegion_flash ..
@[simp] theorem modElem_rootKeys (s : State) (l : Loc) (g : Elem → Elem) : (modElem s l g).rootKeys = s.rootKeys := modRegion_rootKeys ..
@[simp] theorem modElem_keys (s : State) (l : Loc) (g : Elem → Elem) : (modElem s l g).keys = s.keys := modRegion_keys ..
@[simp] theorem modElem_pmap (s : State) (l : Loc) (g : Elem → Elem) : (modElem s l g).pmap = s.pmap := modRegion_pmap ..
@[simp] theorem modElem_bootst (s : State) (l : Loc) (g : Elem → Elem) : (modElem s l g).bootst = s.bootst := modRegion_bootst ..
@[simp] theorem modElem_infuser (s : State) (l : Loc) (g : Elem → Elem) : (modElem s l g).infuser = s.infuser := modRegion_infuser ..
@[simp] theorem modElem_stretch (s : State) (l : Loc) (g : Elem → Elem) : (modElem s l g).stretch = s.stretch := modRegion_stretch ..
@[simp] theorem modElem_flashing (s : State) (l : Loc) (g : Elem → Elem) : (modElem s l g).flashing = s.flashing := modRegion_flashing ..
@[simp] theorem modElem_flashOk (s : State) (l : Loc) (g : Elem → Elem) : (modElem s l g).flashOk = s.flashOk := modRegion_flashOk ..
@[simp] theorem modElem_sagEnd (s : State) (l : Loc) (g : Elem → Elem) : (modElem s l g).sagEnd = s.sagEnd := modRegion_sagEnd ..
@[simp] theorem modElem_lag (s : State) (l : Loc) (g : Elem → Elem) : (modElem s l g).lag = s.lag := modRegion_lag ..
@[simp] theorem modElem_acts (s : State) (l : Loc) (g : Elem → Elem) : (modElem s l g).acts = s.acts := modRegion_acts ..
@[simp] theorem modElem_actsHeld (s : State) (l : Loc) (g : Elem → Elem) : (modElem s l g).actsHeld = s.actsHeld := modRegion_actsHeld ..
@[simp] theorem modElem_isobarAt (s : State) (l : Loc) (g : Elem → Elem) : (modElem s l g).isobarAt = s.isobarAt := modRegion_isobarAt ..
@[simp] theorem modElem_power (s : State) (l : Loc) (g : Elem → Elem) : (modElem s l g).power = s.power := modRegion_power ..
@[simp] theorem modElem_slowed (s : State) (l : Loc) (g : Elem → Elem) : (modElem s l g).slowed = s.slowed := modRegion_slowed ..
@[simp] theorem modElem_isobar (s : State) (l : Loc) (g : Elem → Elem) : (modElem s l g).isobar = s.isobar := modRegion_isobar ..
@[simp] theorem modElem_refresh (s : State) (l : Loc) (g : Elem → Elem) : (modElem s l g).refresh = s.refresh := modRegion_refresh ..
@[simp] theorem modElem_wheelAt (s : State) (l : Loc) (g : Elem → Elem) : (modElem s l g).wheelAt = s.wheelAt := modRegion_wheelAt ..
@[simp] theorem modElem_walkc (s : State) (l : Loc) (g : Elem → Elem) : (modElem s l g).walkc = s.walkc := modRegion_walkc ..
@[simp] theorem modElem_attIndex (s : State) (l : Loc) (g : Elem → Elem) : (modElem s l g).attIndex = s.attIndex := modRegion_attIndex ..
@[simp] theorem modElem_attEnd (s : State) (l : Loc) (g : Elem → Elem) : (modElem s l g).attEnd = s.attEnd := modRegion_attEnd ..
@[simp] theorem modElem_entry (s : State) (l : Loc) (g : Elem → Elem) : (modElem s l g).entry = s.entry := modRegion_entry ..
@[simp] theorem modElem_lanes (s : State) (l : Loc) (g : Elem → Elem) : (modElem s l g).lanes = s.lanes := modRegion_lanes ..
@[simp] theorem modElem_cores (s : State) (l : Loc) (g : Elem → Elem) : (modElem s l g).cores = s.cores := modRegion_cores ..
@[simp] theorem modElem_holding (s : State) (l : Loc) (g : Elem → Elem) : (modElem s l g).holding = s.holding := modRegion_holding ..
@[simp] theorem modElem_agenda (s : State) (l : Loc) (g : Elem → Elem) : (modElem s l g).agenda = s.agenda := modRegion_agenda ..
@[simp] theorem modElem_cur (s : State) (l : Loc) (g : Elem → Elem) : (modElem s l g).cur = s.cur := modRegion_cur ..
@[simp] theorem modElem_focus (s : State) (l : Loc) (g : Elem → Elem) : (modElem s l g).focus = s.focus := modRegion_focus ..
@[simp] theorem modElem_fresh (s : State) (l : Loc) (g : Elem → Elem) : (modElem s l g).fresh = s.fresh := modRegion_fresh ..
@[simp] theorem modElem_ids (s : State) (l : Loc) (g : Elem → Elem) : (modElem s l g).ids = s.ids := modRegion_ids ..
@[simp] theorem modElem_hostReply (s : State) (l : Loc) (g : Elem → Elem) : (modElem s l g).hostReply = s.hostReply := modRegion_hostReply ..

@[simp] theorem setWalker_powered (s : State) (d : Nat) (c : List WalkEnt) : (setWalker s d c).powered = s.powered := rfl
@[simp] theorem setWalker_ns (s : State) (d : Nat) (c : List WalkEnt) : (setWalker s d c).ns = s.ns := rfl
@[simp] theorem setWalker_clk (s : State) (d : Nat) (c : List WalkEnt) : (setWalker s d c).clk = s.clk := rfl
@[simp] theorem setWalker_kcyc (s : State) (d : Nat) (c : List WalkEnt) : (setWalker s d c).kcyc = s.kcyc := rfl
@[simp] theorem setWalker_hbm (s : State) (d : Nat) (c : List WalkEnt) : (setWalker s d c).hbm = s.hbm := rfl
@[simp] theorem setWalker_hostMem (s : State) (d : Nat) (c : List WalkEnt) : (setWalker s d c).hostMem = s.hostMem := rfl
@[simp] theorem setWalker_hostOut (s : State) (d : Nat) (c : List WalkEnt) : (setWalker s d c).hostOut = s.hostOut := rfl
@[simp] theorem setWalker_badLines (s : State) (d : Nat) (c : List WalkEnt) : (setWalker s d c).badLines = s.badLines := rfl
@[simp] theorem setWalker_softLines (s : State) (d : Nat) (c : List WalkEnt) : (setWalker s d c).softLines = s.softLines := rfl
@[simp] theorem setWalker_colmaps (s : State) (d : Nat) (c : List WalkEnt) : (setWalker s d c).colmaps = s.colmaps := rfl
@[simp] theorem setWalker_retired (s : State) (d : Nat) (c : List WalkEnt) : (setWalker s d c).retired = s.retired := rfl
@[simp] theorem setWalker_flash (s : State) (d : Nat) (c : List WalkEnt) : (setWalker s d c).flash = s.flash := rfl
@[simp] theorem setWalker_rootKeys (s : State) (d : Nat) (c : List WalkEnt) : (setWalker s d c).rootKeys = s.rootKeys := rfl
@[simp] theorem setWalker_keys (s : State) (d : Nat) (c : List WalkEnt) : (setWalker s d c).keys = s.keys := rfl
@[simp] theorem setWalker_pmap (s : State) (d : Nat) (c : List WalkEnt) : (setWalker s d c).pmap = s.pmap := rfl
@[simp] theorem setWalker_bootst (s : State) (d : Nat) (c : List WalkEnt) : (setWalker s d c).bootst = s.bootst := rfl
@[simp] theorem setWalker_infuser (s : State) (d : Nat) (c : List WalkEnt) : (setWalker s d c).infuser = s.infuser := rfl
@[simp] theorem setWalker_stretch (s : State) (d : Nat) (c : List WalkEnt) : (setWalker s d c).stretch = s.stretch := rfl
@[simp] theorem setWalker_flashing (s : State) (d : Nat) (c : List WalkEnt) : (setWalker s d c).flashing = s.flashing := rfl
@[simp] theorem setWalker_flashOk (s : State) (d : Nat) (c : List WalkEnt) : (setWalker s d c).flashOk = s.flashOk := rfl
@[simp] theorem setWalker_sagEnd (s : State) (d : Nat) (c : List WalkEnt) : (setWalker s d c).sagEnd = s.sagEnd := rfl
@[simp] theorem setWalker_lag (s : State) (d : Nat) (c : List WalkEnt) : (setWalker s d c).lag = s.lag := rfl
@[simp] theorem setWalker_acts (s : State) (d : Nat) (c : List WalkEnt) : (setWalker s d c).acts = s.acts := rfl
@[simp] theorem setWalker_actsHeld (s : State) (d : Nat) (c : List WalkEnt) : (setWalker s d c).actsHeld = s.actsHeld := rfl
@[simp] theorem setWalker_isobarAt (s : State) (d : Nat) (c : List WalkEnt) : (setWalker s d c).isobarAt = s.isobarAt := rfl
@[simp] theorem setWalker_power (s : State) (d : Nat) (c : List WalkEnt) : (setWalker s d c).power = s.power := rfl
@[simp] theorem setWalker_slowed (s : State) (d : Nat) (c : List WalkEnt) : (setWalker s d c).slowed = s.slowed := rfl
@[simp] theorem setWalker_isobar (s : State) (d : Nat) (c : List WalkEnt) : (setWalker s d c).isobar = s.isobar := rfl
@[simp] theorem setWalker_refresh (s : State) (d : Nat) (c : List WalkEnt) : (setWalker s d c).refresh = s.refresh := rfl
@[simp] theorem setWalker_wheelAt (s : State) (d : Nat) (c : List WalkEnt) : (setWalker s d c).wheelAt = s.wheelAt := rfl
@[simp] theorem setWalker_attIndex (s : State) (d : Nat) (c : List WalkEnt) : (setWalker s d c).attIndex = s.attIndex := rfl
@[simp] theorem setWalker_attEnd (s : State) (d : Nat) (c : List WalkEnt) : (setWalker s d c).attEnd = s.attEnd := rfl
@[simp] theorem setWalker_entry (s : State) (d : Nat) (c : List WalkEnt) : (setWalker s d c).entry = s.entry := rfl
@[simp] theorem setWalker_lanes (s : State) (d : Nat) (c : List WalkEnt) : (setWalker s d c).lanes = s.lanes := rfl
@[simp] theorem setWalker_parts (s : State) (d : Nat) (c : List WalkEnt) : (setWalker s d c).parts = s.parts := rfl
@[simp] theorem setWalker_holding (s : State) (d : Nat) (c : List WalkEnt) : (setWalker s d c).holding = s.holding := rfl
@[simp] theorem setWalker_agenda (s : State) (d : Nat) (c : List WalkEnt) : (setWalker s d c).agenda = s.agenda := rfl
@[simp] theorem setWalker_cur (s : State) (d : Nat) (c : List WalkEnt) : (setWalker s d c).cur = s.cur := rfl
@[simp] theorem setWalker_focus (s : State) (d : Nat) (c : List WalkEnt) : (setWalker s d c).focus = s.focus := rfl
@[simp] theorem setWalker_fresh (s : State) (d : Nat) (c : List WalkEnt) : (setWalker s d c).fresh = s.fresh := rfl
@[simp] theorem setWalker_ids (s : State) (d : Nat) (c : List WalkEnt) : (setWalker s d c).ids = s.ids := rfl
@[simp] theorem setWalker_hostReply (s : State) (d : Nat) (c : List WalkEnt) : (setWalker s d c).hostReply = s.hostReply := rfl
@[simp] theorem setWalker_cores (s : State) (d : Nat) (c : List WalkEnt) : (setWalker s d c).cores = s.cores := rfl
@[simp] theorem curCore_setWalker (s : State) (d : Nat) (c : List WalkEnt) : curCore (setWalker s d c) = curCore s := rfl

end Sys2Proof.Machine
end

