-- ==== Sys2Proof/Laws/Mem.lean ====
section
/-! SUPPORT. Byte memories: a read after a write, and the canonical form that every operation keeps; partitions, regions
and elements after an update. -/

namespace Sys2Proof.Machine

/-- The canonical form of a non-empty memory. -/
theorem wfFrom_cons {lo : Option Nat} {a : Nat} {b : Byte} {r : List Host.Cell} :
    wfFrom lo ((a, b) :: r) = true ↔ (∀ l, lo = some l → l < a) ∧ b ≠ 0 ∧ wfFrom (some a) r = true := by
  cases lo <;> simp [wfFrom, and_assoc]

/-- The lower bound of wfFrom may fall. -/
theorem wfFrom_mono {lo lo' : Option Nat} {m : List Host.Cell} (h : wfFrom lo m = true)
    (hl : ∀ l', lo' = some l' → ∃ l, lo = some l ∧ l' ≤ l) : wfFrom lo' m = true := by
  cases m with
  | nil => rfl
  | cons c r =>
    obtain ⟨a, b⟩ := c
    rw [wfFrom_cons] at h ⊢
    refine ⟨fun l' e => ?_, h.2⟩
    obtain ⟨l, rfl, hle⟩ := hl l' e
    have := h.1 l rfl
    omega

theorem getByte_below {lo x : Nat} {m : List Host.Cell} (h : wfFrom (some lo) m = true) (hx : x ≤ lo) : getByte m x = 0 := by
  cases m with
  | nil => rfl
  | cons c r =>
    obtain ⟨a, b⟩ := c
    rw [wfFrom_cons] at h
    have := h.1 lo rfl
    simp [getByte, show a ≠ x by omega, show x < a by omega]

/-- A byte read back after a write (any address). -/
theorem getByte_setByte {lo : Option Nat} {m : List Host.Cell} (h : wfFrom lo m = true) (x y : Nat) (v : Byte) :
    getByte (setByte m x v) y = if y = x then v else getByte m y := by
  induction m generalizing lo with
  | nil =>
    by_cases hv : v = 0
    · simp [setByte, hv, getByte]
    · simp only [setByte, hv, if_false, getByte]
      by_cases hy : y = x
      · simp [hy]
      · simp [hy, Ne.symm hy]
  | cons c r ih =>
    obtain ⟨a, b⟩ := c
    have hr : wfFrom (some a) r = true := (wfFrom_cons.1 h).2.2
    unfold setByte
    split
    · next hxa =>
      split
      · next hv =>
        subst hv
        by_cases hy : y = x
        · subst hy; simp [getByte, show a ≠ y by omega, hxa]
        · simp [hy]
      · by_cases hy : y = x
        · subst hy; simp [getByte]
        · simp only [hy, if_false]
          rw [getByte]
          simp only [Ne.symm hy, if_false]
          split
          · next hyx => simp [getByte, show a ≠ y by omega, show y < a by omega]
          · rfl
    · split
      · next hxa hx =>
        subst hx
        split
        · next hv =>
          subst hv
          by_cases hy : y = x
          · subst hy; simp [getByte_below hr (Nat.le_refl _)]
          · simp only [hy, if_false]
            rw [getByte]
            simp only [Ne.symm hy, if_false]
            split
            · next hyx => exact getByte_below hr (by omega)
            · rfl
        · by_cases hy : y = x
          · subst hy; simp [getByte]
          · simp [getByte, hy, Ne.symm hy]
      · next h1 h2 =>
        rw [getByte, getByte, ih hr]
        by_cases hy : y = x
        · subst hy; simp [Ne.symm h2, h1]
        · simp [hy]

/-- A write of one byte keeps the canonical form. -/
theorem wfFrom_setByte {lo : Option Nat} {m : List Host.Cell} (h : wfFrom lo m = true) (x : Nat) (v : Byte)
    (hx : ∀ l, lo = some l → l < x) : wfFrom lo (setByte m x v) = true := by
  induction m generalizing lo with
  | nil =>
    unfold setByte
    split
    · rfl
    · next hv => exact wfFrom_cons.2 ⟨hx, hv, rfl⟩
  | cons c r ih =>
    obtain ⟨a, b⟩ := c
    have h' := wfFrom_cons.1 h
    unfold setByte
    split
    · next hxa =>
      split
      · exact h
      · next hv =>
        exact wfFrom_cons.2 ⟨hx, hv, wfFrom_cons.2 ⟨by intro l e; cases e; exact hxa, h'.2⟩⟩
    · split
      · next h1 h2 =>
        subst h2
        split
        · exact wfFrom_mono h'.2.2 (fun l' e => ⟨x, rfl, Nat.le_of_lt (hx l' e)⟩)
        · next hv => exact wfFrom_cons.2 ⟨hx, hv, h'.2.2⟩
      · next h1 h2 =>
        exact wfFrom_cons.2 ⟨h'.1, h'.2.1, ih h'.2.2 (by intro l e; cases e; omega)⟩

theorem wf_setByte {m : List Host.Cell} (h : Memory.wf m = true) (x : Nat) (v : Byte) : Memory.wf (setByte m x v) = true :=
  wfFrom_setByte h x v (by simp)

@[simp] theorem wf_nil : Memory.wf [] = true := rfl

theorem wf_writeBytes {m : List Host.Cell} (h : Memory.wf m = true) (a n v : Nat) : Memory.wf (writeBytes m a n v) = true := by
  induction n generalizing m a v with
  | zero => exact h
  | succ n ih => exact ih (wf_setByte h _ _) _ _

theorem wf_writeMasked {m : List Host.Cell} (h : Memory.wf m = true) (a n v k : Nat) :
    Memory.wf (writeMasked m a n v k) = true := by
  induction n generalizing m a v k with
  | zero => exact h
  | succ n ih =>
    unfold writeMasked
    split
    · exact ih (wf_setByte h _ _) _ _ _
    · exact ih h _ _ _

/-- A byte after a write of n bytes: the value's byte inside the range, the old byte outside. -/
theorem getByte_writeBytes {m : List Host.Cell} (h : Memory.wf m = true) (a n v y : Nat) :
    getByte (writeBytes m a n v) y =
      if a ≤ y ∧ y < a + n then BitVec.ofNat 8 (v / 256 ^ (y - a)) else getByte m y := by
  induction n generalizing m a v with
  | zero => simp only [writeBytes]; rw [if_neg (by omega)]
  | succ n ih =>
    rw [writeBytes, ih (wf_setByte h _ _), getByte_setByte h]
    by_cases h1 : y = a
    · subst h1; simp
    · by_cases h2 : a + 1 ≤ y ∧ y < a + 1 + n
      · have e : y - a = (y - (a + 1)) + 1 := by omega
        have h3 : a ≤ y ∧ y < a + (n + 1) := by omega
        rw [if_pos h2, if_pos h3, e, Nat.div_div_eq_div_mul, Nat.pow_succ, Nat.mul_comm]
      · have h3 : ¬ (a ≤ y ∧ y < a + (n + 1)) := by omega
        rw [if_neg h2, if_neg h3, if_neg h1]

/-- A masked write that writes every byte is a plain write. -/
theorem writeMasked_full (m : List Host.Cell) (a n v : Nat) : writeMasked m a n v (2 ^ n - 1) = writeBytes m a n v := by
  induction n generalizing m a v with
  | zero => rfl
  | succ n ih =>
    have h1 : (2 ^ (n + 1) - 1) % 2 = 1 := by have := Nat.two_pow_pos n; omega
    have h2 : (2 ^ (n + 1) - 1) / 2 = 2 ^ n - 1 := by have := Nat.two_pow_pos n; omega
    rw [writeMasked, h1, h2, ih]; rfl

/-- Reading back n bytes just written gives the value's low n bytes. -/
theorem readBytes_writeBytes {m : List Host.Cell} (h : Memory.wf m = true) (a n v : Nat) :
    readBytes (writeBytes m a n v) a n = v % 256 ^ n := by
  have key : ∀ (k b : Nat) (mm : List Host.Cell), (∀ y, b ≤ y → y < b + k → getByte mm y = BitVec.ofNat 8 (v / 256 ^ (y - a))) →
      a ≤ b → readBytes mm b k = v / 256 ^ (b - a) % 256 ^ k := by
    intro k
    induction k with
    | zero => intro b mm _ _; simp [readBytes, Nat.mod_one]
    | succ k ih =>
      intro b mm hb hab
      rw [readBytes, ih (b + 1) mm (fun y h1 h2 => hb y (by omega) (by omega)) (by omega), hb b (Nat.le_refl _) (by omega)]
      have e : b + 1 - a = (b - a) + 1 := by omega
      rw [e, Nat.pow_succ, ← Nat.div_div_eq_div_mul, BitVec.toNat_ofNat, show (2 : Nat) ^ 8 = 256 from rfl]
      generalize v / 256 ^ (b - a) = q
      rw [Nat.pow_succ 256 k, Nat.mul_comm (256 ^ k) 256, Nat.mod_mul]
  have := key n a (writeBytes m a n v) (fun y h1 h2 => by rw [getByte_writeBytes h, if_pos ⟨h1, h2⟩]) (Nat.le_refl _)
  simpa using this

/-! ### Partitions, regions and elements -/

@[simp] theorem getPart_setPart_same {s : State} {p : Nat} {x : Part} (h : p < 16) : getPart (setPart s p x) p = x := by
  simp [getPart, setPart, h]

theorem getPart_setPart_ne {s : State} {p q : Nat} {x : Part} (h : p ≠ q) : getPart (setPart s p x) q = getPart s q := by
  by_cases hp : p < 16 <;> by_cases hq : q < 16 <;> simp [getPart, setPart, hp, hq, Vector.getElem_set_ne _ _ h]

theorem getPart_setPart_big {s : State} {p : Nat} {x : Part} (h : ¬ p < 16) : setPart s p x = s := by
  simp [setPart, h]

@[simp] theorem getRegion_setRegion_same {s : State} {r : Rgn} {x : Region} (h : r.part < 16) :
    getRegion (setRegion s r x) r = x := by
  simp [getRegion, setRegion, modPart, h]

theorem getRegion_setRegion_ne {s : State} {r q : Rgn} {x : Region} (h : r ≠ q) :
    getRegion (setRegion s r x) q = getRegion s q := by
  unfold getRegion setRegion modPart
  by_cases hp : r.part = q.part
  · by_cases hb : r.part < 16
    · rw [hp] at hb ⊢
      rw [getPart_setPart_same hb]
      have : r.handle ≠ q.handle := fun e => h (by cases r; cases q; simp_all)
      simp [lookupKey_putKey_ne _ _ _ _ this]
    · rw [getPart_setPart_big hb]
  · rw [getPart_setPart_ne hp]

@[simp] theorem getRegion_modRegion_same {s : State} {r : Rgn} {f : Region → Region} (h : r.part < 16) :
    getRegion (modRegion s r f) r = f (getRegion s r) := getRegion_setRegion_same h

theorem getRegion_modRegion_ne {s : State} {r q : Rgn} {f : Region → Region} (h : r ≠ q) :
    getRegion (modRegion s r f) q = getRegion s q := getRegion_setRegion_ne h

@[simp] theorem getElem_modElem_same {s : State} {l : Loc} {f : Elem → Elem} (h : l.part < 16)
    (he : l.elem < (getRegion s (rgnOf l)).elems.length) : getElem (modElem s l f) l = f (getElem s l) := by
  have h' : (rgnOf l).part < 16 := h
  simp [getElem, modElem, getRegion_modRegion_same h', nth_modNth_same _ _ _ _ he]

@[simp] theorem elems_length_modElem {s : State} {l : Loc} {f : Elem → Elem} (h : l.part < 16) :
    (getRegion (modElem s l f) (rgnOf l)).elems.length = (getRegion s (rgnOf l)).elems.length := by
  have h' : (rgnOf l).part < 16 := h
  simp [modElem, getRegion_modRegion_same h']

/-- A change of a region that leaves its elements alone leaves an element of it alone. -/
theorem getElem_modRegion {s : State} {l : Loc} {f : Region → Region} (h : l.part < 16)
    (hf : (f (getRegion s (rgnOf l))).elems = (getRegion s (rgnOf l)).elems) :
    getElem (modRegion s (rgnOf l) f) l = getElem s l := by
  have h' : (rgnOf l).part < 16 := h
  simp [getElem, getRegion_modRegion_same h', hf]

end Sys2Proof.Machine
end

