-- ==== Sys2Proof/Laws/Issue.lean ====
section
/-! SUPPORT. What the issue of a firing does: the element's operands leave, its firing is the last one under way, and nothing
beyond the element and its region's channels changes. -/

namespace Sys2Proof.Machine

/-- What an element keeps while operands leave it: everything but its sets, heads, buffers and spill slots, and since when
its EOS flags wait. -/
structure Elem.Kept (e e' : Elem) : Prop where
  same : e' = { e with sets := e'.sets, heads := e'.heads, poolHeld := e'.poolHeld, spillHeld := e'.spillHeld,
                       freeing := e'.freeing, eosTags := e'.eosTags }

theorem Elem.Kept.rfl' (e : Elem) : Elem.Kept e e := ⟨rfl⟩

theorem Elem.Kept.trans {a b c : Elem} (h : Elem.Kept a b) (k : Elem.Kept b c) : Elem.Kept a c := by
  refine ⟨?_⟩
  rw [k.same, h.same]

theorem freeLoc_kept (e : Elem) (p : PLoc) : Elem.Kept e (freeLoc e p) := by
  cases p <;> exact ⟨rfl⟩

theorem popHead_kept (e : Elem) (ch clk : Nat) : Elem.Kept e (popHead e ch clk) := by
  unfold popHead
  split <;> exact ⟨rfl⟩

theorem popSet_kept (e : Elem) (slot tag pos clk : Nat) : Elem.Kept e (popSet e slot tag pos clk) := ⟨rfl⟩

theorem leaveLoc_kept (e : Elem) (p : PLoc) (clk hold : Nat) : Elem.Kept e (leaveLoc e p clk hold) := by
  unfold leaveLoc
  split
  · exact ⟨rfl⟩
  · exact freeLoc_kept _ _

/-- What the rest of the module keeps while one region's element and channels change. -/
structure RegionOnly (s t : State) (r : Rgn) : Prop where
  parts : ∀ p, p ≠ r.part → getPart t p = getPart s p
  regions : ∀ q, q ≠ r → getRegion t q = getRegion s q
  own : getPart t r.part = { getPart s r.part with regions := (getPart t r.part).regions }
  rest : t = { s with parts := t.parts, ids := t.ids, focus := t.focus }

theorem RegionOnly.refl (s : State) (r : Rgn) : RegionOnly s s r := ⟨fun _ _ => rfl, fun _ _ => rfl, rfl, rfl⟩

theorem RegionOnly.trans {a b c : State} {r : Rgn} (h : RegionOnly a b r) (k : RegionOnly b c r) : RegionOnly a c r where
  parts p hp := (k.parts p hp).trans (h.parts p hp)
  regions q hq := (k.regions q hq).trans (h.regions q hq)
  own := by rw [k.own, h.own]
  rest := by rw [k.rest, h.rest]

theorem RegionOnly.clk {s t : State} {r : Rgn} (h : RegionOnly s t r) : t.clk = s.clk := by rw [h.rest]

theorem setRegion_only (s : State) (r : Rgn) (x : Region) : RegionOnly s (setRegion s r x) r where
  parts p hp := by unfold setRegion modPart; exact getPart_setPart_ne (Ne.symm hp)
  regions q hq := getRegion_setRegion_ne (Ne.symm hq)
  own := by
    unfold setRegion modPart
    by_cases h : r.part < 16
    · rw [getPart_setPart_same h]
    · rw [getPart_setPart_big h]
  rest := by unfold setRegion modPart setPart; split <;> rfl

theorem modRegion_only (s : State) (r : Rgn) (f : Region → Region) : RegionOnly s (modRegion s r f) r := setRegion_only _ _ _

theorem modElem_only (s : State) (l : Loc) (f : Elem → Elem) : RegionOnly s (modElem s l f) (rgnOf l) := setRegion_only _ _ _

/-- What one element's region keeps while operands leave an element: every other element, and all of the region but elements
and channels. -/
structure Eaten (s t : State) (l : Loc) : Prop where
  only : RegionOnly s t (rgnOf l)
  kept : Elem.Kept (getElem s l) (getElem t l)
  len : (getRegion t (rgnOf l)).elems.length = (getRegion s (rgnOf l)).elems.length
  others : ∀ n, n ≠ l.elem → nth (getRegion t (rgnOf l)).elems n {} = nth (getRegion s (rgnOf l)).elems n {}
  region : getRegion t (rgnOf l) = { getRegion s (rgnOf l) with
    elems := (getRegion t (rgnOf l)).elems, chans := (getRegion t (rgnOf l)).chans }

theorem Eaten.refl (s : State) (l : Loc) : Eaten s s l := ⟨RegionOnly.refl _ _, ⟨rfl⟩, rfl, fun _ _ => rfl, rfl⟩

theorem Eaten.trans {a b c : State} {l : Loc} (h : Eaten a b l) (k : Eaten b c l) : Eaten a c l where
  only := h.only.trans k.only
  kept := h.kept.trans k.kept
  len := k.len.trans h.len
  others n hn := (k.others n hn).trans (h.others n hn)
  region := by rw [k.region, h.region]

theorem elems_modNth_ne (l : List Elem) (n m : Nat) (f : Elem → Elem) (h : m ≠ n) : nth (modNth l n f) m {} = nth l m {} :=
  nth_modNth_ne l n m f {} (Ne.symm h)

/-- The element of a consumed position. -/
theorem eaten_of (s : State) (l : Loc) (e2 : Elem) (ch : Nat) (hp : l.part < 16)
    (he : l.elem < (getRegion s (rgnOf l)).elems.length) (hk : Elem.Kept (getElem s l) e2) :
    Eaten s (modRegion (modElem s l fun _ => e2) (rgnOf l) fun g => ackChan g ch) l := by
  have hp' : (rgnOf l).part < 16 := hp
  have hg : getElem (modRegion (modElem s l fun _ => e2) (rgnOf l) fun g => ackChan g ch) l = e2 := by
    rw [getElem_modRegion hp (by rfl), getElem_modElem_same hp he]
  refine ⟨(modElem_only _ _ _).trans (modRegion_only _ _ _), ?_, ?_, ?_, ?_⟩
  · rw [hg]; exact hk
  · rw [getRegion_modRegion_same hp']
    exact elems_length_modElem hp
  · intro n hn
    rw [getRegion_modRegion_same hp']
    simp only [ackChan, modElem]
    rw [getRegion_modRegion_same hp']
    exact elems_modNth_ne _ _ _ _ hn
  · rw [getRegion_modRegion_same hp']
    simp only [ackChan, modElem]
    rw [getRegion_modRegion_same hp']

/-- One position of a candidate is consumed. -/
theorem eatPos_eaten (s : State) (f : Focus) (w : OpWord) (keep : Bool) (hold pos : Nat) (hp : f.loc.part < 16)
    (he : f.loc.elem < (getRegion s (rgnOf f.loc)).elems.length) : Eaten s (eatPos s f w keep hold pos).1 f.loc := by
  unfold eatPos
  dsimp only
  split
  · exact Eaten.refl _ _
  · next _ x _ =>
    split
    · exact Eaten.refl _ _
    · refine eaten_of s f.loc _ _ hp he ?_
      have k1 : Elem.Kept (getElem s f.loc)
          (if w.src pos = 1 then popHead (getElem s f.loc) x.tok.hdr.chan s.clk
            else popSet (getElem s f.loc) f.slot f.tag pos s.clk) := by
        split
        · exact popHead_kept _ _ _
        · exact popSet_kept _ _ _ _ _
      generalize (if w.src pos = 1 then popHead (getElem s f.loc) x.tok.hdr.chan s.clk
        else popSet (getElem s f.loc) f.slot f.tag pos s.clk) = e1 at k1 ⊢
      have pick : ∀ c : Bool, Elem.Kept (getElem s f.loc) (if c = true then e1 else leaveLoc e1 x.loc s.clk hold) := by
        intro c
        cases c
        · exact k1.trans (leaveLoc_kept _ _ _ _)
        · exact k1
      exact pick _

theorem eatAll_eaten (s : State) (f : Focus) (w : OpWord) (o : FireOut) (hp : f.loc.part < 16)
    (he : f.loc.elem < (getRegion s (rgnOf f.loc)).elems.length) : Eaten s (eatAll s f w o).1 f.loc := by
  unfold eatAll
  have key : ∀ (l : List Nat) (q : State × List Nat), Eaten s q.1 f.loc →
      Eaten s (l.foldl (fun (q : State × List Nat) pos =>
        let t := eatPos q.1 f w (o.fwd.contains pos) o.hold pos
        (t.1, q.2 ++ t.2.toList)) q).1 f.loc := by
    intro l
    induction l with
    | nil => exact fun q h => h
    | cons p r ih =>
      intro q h
      exact ih _ (h.trans (eatPos_eaten q.1 f w _ _ p hp (by rw [h.len]; exact he)))
  exact key _ _ (Eaten.refl _ _)

/-- What an element keeps from its issue on: everything but its operands' places, the predicates and the unit taken. Slot
state, banks and scratchpad stay as they are until the commit (R60). -/
structure Elem.Issued (e e' : Elem) : Prop where
  same : e' = { e with sets := e'.sets, heads := e'.heads, poolHeld := e'.poolHeld, spillHeld := e'.spillHeld,
                       freeing := e'.freeing, eosTags := e'.eosTags,
                       preds := e'.preds, lastIssue := e'.lastIssue, unitFree := e'.unitFree }

theorem Elem.Kept.issued {e e' : Elem} (h : Elem.Kept e e') : Elem.Issued e e' := ⟨by rw [h.same]⟩

theorem Elem.Issued.trans {a b c : Elem} (h : Elem.Issued a b) (k : Elem.Issued b c) : Elem.Issued a c := by
  refine ⟨?_⟩
  rw [k.same, h.same]

theorem applyIssue_issued (clk : Nat) (w : OpWord) (opc : Nat) (o : FireOut) (upd : Bool) (e : Elem) :
    Elem.Issued e (applyIssue clk w opc o upd e) := by
  unfold applyIssue
  dsimp only
  split <;> exact ⟨rfl⟩

theorem holdBuf_issued (e : Elem) (bufs : List Nat) : Elem.Issued e (holdBuf e bufs) := by
  unfold holdBuf
  split <;> exact ⟨rfl⟩

theorem placeMarks_issued (e : Elem) (slot tag marks : Nat) (fr : Bool) : Elem.Issued e (placeMarks e slot tag marks fr) := by
  unfold placeMarks
  split
  · exact ⟨rfl⟩
  · split <;> exact ⟨rfl⟩

theorem listFramesBy_issued (full : MSet → Bool) (clk n : Nat) (e : Elem) : Elem.Issued e (listFramesBy full clk n e) := by
  induction n generalizing e with
  | zero => exact ⟨rfl⟩
  | succ n ih =>
    unfold listFramesBy
    simp only
    split
    · exact ⟨rfl⟩
    · split
      · exact ⟨rfl⟩
      · exact Elem.Issued.trans ⟨rfl⟩ (ih _)

theorem drawAccess_issued (e : Elem) (kept : List Nat) (a : Option Access) : Elem.Issued e (drawAccess e kept a).1 := by
  unfold drawAccess
  split
  · split
    · exact ⟨rfl⟩
    · split <;> exact ⟨rfl⟩
  · exact ⟨rfl⟩

theorem foldl_reserve (l : List Nat) (g : Region) : l.foldl reserve g = { g with chans := (l.foldl reserve g).chans } := by
  induction l generalizing g with
  | nil => rfl
  | cons a r ih => rw [List.foldl_cons, ih]; rfl

/-- Everything that an issue does beyond the element's own state: the firing is the last of those under way, the rest of the
element is kept, and so is the rest of the module. -/
structure IssueDone (s t : State) (f : Focus) (F : Firing) : Prop where
  pending : (getElem t f.loc).pending = (getElem s f.loc).pending ++ [F]
  elem : Elem.Issued (getElem s f.loc) { getElem t f.loc with pending := (getElem s f.loc).pending }
  others : ∀ n, n ≠ f.loc.elem → nth (getRegion t (rgnOf f.loc)).elems n {} = nth (getRegion s (rgnOf f.loc)).elems n {}
  only : RegionOnly s t (rgnOf f.loc)
  region : getRegion t (rgnOf f.loc) = { getRegion s (rgnOf f.loc) with
    elems := (getRegion t (rgnOf f.loc)).elems, chans := (getRegion t (rgnOf f.loc)).chans,
    bodies := (getRegion t (rgnOf f.loc)).bodies, pass := (getRegion t (rgnOf f.loc)).pass, idleBase := s.clk }

theorem issueRegion_same (clk : Nat) (chs : List Nat) (alloc : Option Nat) (passed : Bool) (g : Region) :
    issueRegion clk chs alloc passed g = { g with
      chans := (issueRegion clk chs alloc passed g).chans, bodies := (issueRegion clk chs alloc passed g).bodies,
      pass := (issueRegion clk chs alloc passed g).pass, idleBase := clk } := by
  unfold issueRegion
  dsimp only
  cases alloc with
  | none => dsimp only; rw [foldl_reserve]
  | some b => dsimp only [allocInst]; rw [foldl_reserve]

theorem issueRegion_elems (clk : Nat) (chs : List Nat) (alloc : Option Nat) (passed : Bool) (g : Region) :
    (issueRegion clk chs alloc passed g).elems = g.elems := by rw [issueRegion_same]

/-- What is left of a token once its poison and its channel are taken away. -/
def plainView (p : Nat × Token) : Nat × Nat × Hdr := (p.1, p.2.payload, p.2.hdr.plain)

/-- An access but for its poison and its buffer. -/
def Access.plain (a : Access) : Access := { a with poison := false, fidx := 0, buffer := none }

theorem poisonOut_view (cl link : Bool) (fx : Nat) (o : FireOut) :
    (poisonOut cl link fx o).outs.map plainView = o.outs.map plainView := by
  have key : ∀ l : List (Nat × Token), (l.map fun p => (p.1, { p.2 with hdr :=
      if p.2.hdr.kind = 1 || p.2.hdr.poison then p.2.hdr else { p.2.hdr with poison := true, fidx := fx } })).map plainView =
        l.map plainView := by
    intro l
    rw [List.map_map]
    refine List.map_congr_left fun p _ => ?_
    simp only [Function.comp, plainView]
    split <;> rfl
  unfold poisonOut
  dsimp only
  cases link with
  | false => exact key _
  | true =>
    rw [if_pos rfl, List.map_append, key, ← List.map_append, List.take_append_drop]

theorem poisonOut_access (cl link : Bool) (fx : Nat) (o : FireOut) :
    (poisonOut cl link fx o).access.map Access.plain = o.access.map Access.plain := by
  simp only [poisonOut]
  cases o.access with
  | none => rfl
  | some a => simp only [Option.map_some]; split <;> rfl

/-- A bank but for its poison. -/
def plainBank (b : Nat × Bank) : Nat × Bank := (b.1, { b.2 with poison := false, fidx := 0 })

/-- The judgement of a firing's outputs changes their poison alone, and adds records in front. -/
structure Judged (o j : FireOut) : Prop where
  same : j = { o with outs := j.outs, banks := j.banks, access := j.access, recs := j.recs }
  outs : j.outs.map plainView = o.outs.map plainView
  access : j.access.map Access.plain = o.access.map Access.plain
  recs : ∀ x ∈ o.recs, x ∈ j.recs
  banks : j.banks.map plainBank = o.banks.map plainBank

theorem poisonOut_judged (cl link : Bool) (fx : Nat) (o : FireOut) : Judged o (poisonOut cl link fx o) where
  same := rfl
  outs := poisonOut_view cl link fx o
  access := poisonOut_access cl link fx o
  recs _ h := h
  banks := by
    simp only [poisonOut, List.map_map]
    refine List.map_congr_left fun p _ => ?_
    simp only [Function.comp, plainBank]
    split <;> rfl

theorem Judged.record {o j : FireOut} (h : Judged o j) (x : FRec) : Judged o { j with recs := x :: j.recs } where
  same := by rw [h.same]
  outs := h.outs
  access := h.access
  recs y hy := List.mem_cons_of_mem _ (h.recs y hy)
  banks := h.banks

theorem judgeOut_judged (i : FireIn) (ord : Nat) (bad : Option Nat) (o : FireOut) : Judged o (judgeOut i ord bad o).1 := by
  have r : Judged o o := ⟨rfl, rfl, rfl, fun _ h => h, rfl⟩
  unfold judgeOut
  split
  · exact (poisonOut_judged _ _ _ _).record _
  · split
    · exact r
    · split
      · exact r
      · split
        · exact poisonOut_judged _ _ _ _
        · exact (poisonOut_judged _ _ _ _).record _

/-- What the tokens of a firing are, channel by channel. -/
theorem expandOuts_sent (e : Elem) (outs : List (Nat × Token)) :
    ((expandOuts e outs).map fun o => (o.chan, o.tok.payload, o.tok.hdr.plain)) =
      (outs.map plainView).flatMap fun p => (destChans e p.1).map fun ch => (ch, p.2.1, p.2.2) := by
  induction outs with
  | nil => rfl
  | cons a r ih =>
    unfold expandOuts at ih ⊢
    rw [List.flatMap_cons, List.map_append, ih, List.map_cons, List.flatMap_cons]
    congr 1
    simp [plainView, Hdr.plain]

/-- Everything that an issue does: `issue_done` beside what the firing itself holds. -/
structure Fired (s t : State) (f : Focus) (i : FireIn) (o : FireOut) (F : Firing) : Prop extends IssueDone s t f F where
  slot : F.slot = i.slot
  tag : F.tag = i.tag
  due : F.due = s.clk + o.lat
  sent : (F.outs.map fun o => (o.chan, o.tok.payload, o.tok.hdr.plain)) =
    (o.outs.map plainView).flatMap fun p => (destChans (getElem s f.loc) p.1).map fun ch => (ch, p.2.1, p.2.2)
  flags : F.flags = o.flags
  win : F.win = o.win
  gauge : F.gauge = o.gauge
  signal : F.signal = o.signal
  recs : ∀ x ∈ o.recs, x ∈ F.recs
  access : F.access.map Access.plain = o.access.map Access.plain
  st : F.st = o.st
  banks : F.banks.map plainBank = o.banks.map plainBank
  outs : ∃ bad, (i.e.badWords = [] → bad = none) ∧
    F.outs = expandOuts (getElem s f.loc) (judgeOut i s.ids bad o).1.outs
  scratch : (∀ p ∈ o.outs, bigTok p.2 = false) → F.scratch = o.scratch
  bodies : (getRegion t (rgnOf f.loc)).bodies = match o.alloc with
    | some b => (allocInst (getRegion s (rgnOf f.loc)) b).bodies
    | none => (getRegion s (rgnOf f.loc)).bodies

theorem drawAccess_plain (e : Elem) (kept : List Nat) (a : Option Access) :
    (drawAccess e kept a).2.map Access.plain = a.map Access.plain := by
  unfold drawAccess
  split
  · split
    · rfl
    · split <;> rfl
  · rfl

theorem badRead_good (e : Elem) (h : e.badWords = []) (rs : List (Nat × Nat)) : badRead e rs = none := by
  unfold badRead
  rw [h]
  induction rs with
  | nil => rfl
  | cons a r ih => simp [List.findSome?]

theorem bigTok_expand (e : Elem) (o j : FireOut) (h : Judged o j) (hb : ∀ p ∈ o.outs, bigTok p.2 = false) :
    (expandOuts e j.outs).find? (fun t => bigTok t.tok) = none := by
  have hj : ∀ p ∈ j.outs, bigTok p.2 = false := by
    intro p hp
    have : plainView p ∈ o.outs.map plainView := by rw [← h.outs]; exact List.mem_map_of_mem hp
    obtain ⟨q, hq, e⟩ := List.mem_map.1 this
    have hq' := hb q hq
    simp only [plainView, Hdr.plain, Prod.mk.injEq, Hdr.mk.injEq] at e
    unfold bigTok at hq' ⊢
    rw [← e.2.2.2.2.1, ← e.2.2.2.2.2.1]
    exact hq'
  rw [List.find?_eq_none]
  intro t ht
  unfold expandOuts at ht
  obtain ⟨p, hp, ht⟩ := List.mem_flatMap.1 ht
  obtain ⟨c, _, rfl⟩ := List.mem_map.1 ht
  have := hj p hp
  unfold bigTok at this ⊢
  simp only [this]
  decide

/-- Everything that the issue of a data firing does. -/
theorem issue_done (s : State) (f : Focus) (i : FireIn) (o : FireOut) (upd : Bool) (hm : f.mode = .data) (hp : f.loc.part < 16)
    (he : f.loc.elem < (getRegion s (rgnOf f.loc)).elems.length) :
    ∃ F, Fired s (issue s f i o upd) f i o F := by
  have hp' : (rgnOf f.loc).part < 16 := hp
  unfold issue
  extract_lets ord bad j q e outs bufs e' d oa ob src s2
  have hE : Eaten s q.1 f.loc :=
    Eaten.trans (b := { s with ids := s.ids + 1, focus := none })
      ⟨⟨fun _ _ => rfl, fun _ _ => rfl, rfl, rfl⟩, ⟨rfl⟩, rfl, fun _ _ => rfl, rfl⟩ (eatAll_eaten _ f i.w j.1 hp he)
  have h1 : Elem.Issued (getElem q.1 f.loc) e := applyIssue_issued _ _ _ _ _ _
  have h2 : Elem.Issued e e' := ((holdBuf_issued _ _).trans (placeMarks_issued _ _ _ _ _)).trans (listFramesBy_issued _ _ _ _)
  have h3 : Elem.Issued e' d.1 := drawAccess_issued _ _ _
  have h4 : Elem.Issued (getElem s f.loc) d.1 := ((hE.kept.issued.trans h1).trans h2).trans h3
  have hcfg : e.cfg = (getElem s f.loc).cfg := by rw [(hE.kept.issued.trans h1).same]
  have hpend : d.1.pending = (getElem s f.loc).pending := by rw [h4.same]
  have hj : Judged o j.1 := judgeOut_judged _ _ _ _
  have hlen : f.loc.elem < (getRegion q.1 (rgnOf f.loc)).elems.length := by rw [hE.len]; exact he
  have ho : outs = expandOuts e j.1.outs := by
    show onceFor f.mode _ _ = _
    rw [hm]
    rfl
  refine ⟨mkFiring s i ob outs bufs ord j.2, ?_, rfl, rfl, ?_, ?_, ?_, ?_, ?_, ?_, ?_, ?_, ?_, ?_, ?_, ?_, ?_⟩
  · refine ⟨?_, ?_, ?_, ?_, ?_⟩
    · rw [getElem_modRegion hp (issueRegion_elems _ _ _ _ _)]
      show (getElem s2 f.loc).pending = _
      rw [show getElem s2 f.loc = _ from getElem_modElem_same hp hlen]
      simp [hpend]
    · rw [getElem_modRegion hp (issueRegion_elems _ _ _ _ _)]
      rw [show getElem s2 f.loc = _ from getElem_modElem_same hp hlen]
      exact ⟨congrArg (fun (x : Elem) => { x with pending := (getElem s f.loc).pending }) h4.same⟩
    · intro n hn
      rw [getRegion_modRegion_same hp', issueRegion_elems]
      rw [show getRegion s2 (rgnOf f.loc) = _ from getRegion_modRegion_same hp']
      exact (elems_modNth_ne _ _ _ _ hn).trans (hE.others n hn)
    · exact (hE.only.trans (modElem_only _ _ _)).trans (modRegion_only _ _ _)
    · have hr : getRegion s2 (rgnOf f.loc) = { getRegion s (rgnOf f.loc) with
          elems := (getRegion s2 (rgnOf f.loc)).elems, chans := (getRegion s2 (rgnOf f.loc)).chans } := by
        rw [show getRegion s2 (rgnOf f.loc) = _ from getRegion_modRegion_same hp']
        exact congrArg (fun (x : Region) => { x with
          elems := modNth (getRegion q.1 (rgnOf f.loc)).elems f.loc.elem fun _ => { d.1 with
            pending := d.1.pending ++ [mkFiring s i ob outs bufs ord j.2] } }) hE.region
      have hc : s2.clk = s.clk := RegionOnly.clk (r := rgnOf f.loc) (hE.only.trans (modElem_only _ _ _))
      have hi := issueRegion_same s2.clk (reserved j.1 outs) j.1.alloc i.passed (getRegion s2 (rgnOf f.loc))
      have hel := issueRegion_elems s2.clk (reserved j.1 outs) j.1.alloc i.passed (getRegion s2 (rgnOf f.loc))
      rw [getRegion_modRegion_same hp']
      generalize issueRegion s2.clk (reserved j.1 outs) j.1.alloc i.passed (getRegion s2 (rgnOf f.loc)) = G at hi hel ⊢
      rw [hel, ← hc]
      exact hi.trans (congrArg (fun (x : Region) => { x with
        chans := G.chans, bodies := G.bodies, pass := G.pass, idleBase := s2.clk }) hr)
  · show s.clk + j.1.lat = _
    rw [hj.same]
  · show (outs.map fun o => (o.chan, o.tok.payload, o.tok.hdr.plain)) = _
    rw [ho, expandOuts_sent, hj.outs]
    unfold destChans
    rw [hcfg]
  · show j.1.flags = _
    rw [hj.same]
  · show j.1.win = _
    rw [hj.same]
  · show j.1.gauge = _
    rw [hj.same]
  · show j.1.signal = _
    rw [hj.same]
  · exact hj.recs
  · exact (drawAccess_plain _ _ _).trans hj.access
  · show j.1.st = _
    rw [hj.same]
  · exact hj.banks
  · refine ⟨bad, fun h => ?_, ?_⟩
    · show Option.map _ (badRead _ _) = none
      rw [badRead_good _ h]
      rfl
    · show outs = _
      rw [ho]
      unfold expandOuts destChans
      rw [hcfg]
  · intro hb
    have hs : j.1.scratch = o.scratch := by rw [hj.same]
    show j.1.scratch ++ bufBytes outs bufs = _
    rw [hs, show bufBytes outs bufs = [] from ?_, List.append_nil]
    unfold bufBytes
    rw [ho, bigTok_expand _ _ _ hj hb]
    split
    · next h => cases h
    · rfl
  · have hr : (getRegion s2 (rgnOf f.loc)).bodies = (getRegion s (rgnOf f.loc)).bodies := by
      rw [show getRegion s2 (rgnOf f.loc) = _ from getRegion_modRegion_same hp']
      show (getRegion q.1 (rgnOf f.loc)).bodies = _
      rw [hE.region]
    have ha : j.1.alloc = o.alloc := by rw [hj.same]
    rw [getRegion_modRegion_same hp']
    unfold issueRegion
    dsimp only
    rw [ha]
    cases o.alloc with
    | none => dsimp only; rw [foldl_reserve, ← hr]
    | some b => dsimp only [allocInst]; rw [foldl_reserve, ← hr]

/-- A chosen candidate that meets no stopping cause issues. -/
theorem fire_fired {s : State} {f : Focus} {w : OpWord} {opc : Nat} {m : FireIn → FireRes} {o : FireOut} (h : Chosen s f)
    (hm : m (gather s f w opc) = .go o) : ∃ F, Fired s (fire s w opc m) f (gather s f w opc) o F := by
  unfold fire
  rw [h.focus]
  dsimp only
  rw [if_neg (by rw [h.mode]; decide), hm]
  exact issue_done s f _ o o.upd h.mode h.part h.elem

/-- An instruction whose meaning is a firing issues. -/
theorem issues_of {i : Instr} {s : State} {f : Focus} {w : OpWord} {opc : Nat} {m : FireIn → FireRes} {P : State → Firing → Prop}
    (o : FireOut) (h : Chosen s f) (he : exec i s = .next (fire s w opc m)) (hm : m (gather s f w opc) = .go o)
    (hP : ∀ t F, Fired s t f (gather s f w opc) o F → P t F) : Issues i s f P := by
  obtain ⟨F, hF⟩ := fire_fired h hm
  exact ⟨_, he, F, hF.pending, hF.slot, hF.tag, hP _ _ hF⟩

/-- An instruction whose meaning never stops issues. -/
theorem issues_go {i : Instr} {s : State} {f : Focus} {w : OpWord} {opc : Nat} {m : FireIn → FireOut} {P : State → Firing → Prop}
    (h : Chosen s f) (he : exec i s = .next (fireGo s w opc m))
    (hP : ∀ t F, Fired s t f (gather s f w opc) (m (gather s f w opc)) F → P t F) : Issues i s f P :=
  issues_of _ h he rfl hP

/-- The header that an emitted token has, but for its poison and sequence numbers. -/
theorem withSeq_plain (g : Region) (h : Hdr) : (withSeq g h).plain = h.plain := by
  unfold withSeq
  dsimp only
  split <;> rfl

theorem emit_view (i : FireIn) (entry : Nat) (h : Hdr) (payload : Nat) (pz : Bool) :
    plainView (i.emit entry h payload pz) = (entry, payload, h.plain) := by
  simp only [plainView, FireIn.emit, withSeq_plain]
  rfl

theorem forward_view (i : FireIn) (entry tag : Nat) (o : Opd) (pz : Bool) :
    plainView (i.forward entry tag o pz) = (entry, o.payload, { o.hdr with tag := tag }.plain) := emit_view _ _ _ _ _

/-- What one emitted token makes of `Firing.sent`. -/
theorem Fired.sent_eq {s t : State} {f : Focus} {i : FireIn} {o : FireOut} {F : Firing} (h : Fired s t f i o F)
    (l : List (Nat × Nat × Hdr)) (ho : o.outs.map plainView = l) :
    F.sent = l.flatMap fun p => (destChans (getElem s f.loc) p.1).map fun ch => (ch, p.2.1, p.2.2) := by
  rw [← ho]; exact h.sent

theorem Fired.sent_one {s t : State} {f : Focus} {i : FireIn} {o : FireOut} {F : Firing} (h : Fired s t f i o F)
    (entry p : Nat) (hd : Hdr) (ho : o.outs.map plainView = [(entry, p, hd.plain)]) :
    F.sent = toEntry (getElem s f.loc) entry hd p := by
  rw [h.sent_eq _ ho]; simp [toEntry]

/-- An instruction that emits one token. -/
theorem sends_go {i : Instr} {s : State} {f : Focus} {w : OpWord} {opc : Nat} {m : FireIn → FireOut} {entry p : Nat} {hd : Hdr}
    (h : Chosen s f) (he : exec i s = .next (fireGo s w opc m))
    (ho : (m (gather s f w opc)).outs.map plainView = [(entry, p, hd.plain)]) : Sends i s f entry hd p :=
  issues_go h he fun _ _ hF => hF.sent_one _ _ _ ho

end Sys2Proof.Machine
end

