-- ==== Sys2Proof/Laws/Kettle.lean ====
section
/-! SUPPORT. What the shared operations of a kettle core do: registers, the pc, traps, the order of accesses. -/

namespace Sys2Proof.Machine

@[simp] theorem curCore_setCore (s : State) (c : Core) : curCore (setCore s c) = c := by
  simp [curCore, setCore]

@[simp] theorem setCore_setCore (s : State) (c e : Core) : setCore (setCore s c) e = setCore s e := by
  simp [setCore]

@[simp] theorem setCore_curCore (s : State) : setCore s (curCore s) = s := by
  simp [setCore, curCore]

/-- A write to a register, read back: k0 stays 0. -/
theorem reg_setReg (c : Core) (d r : KReg) (v p : Word64) :
    ({ c.setReg d v with pc := p } : Core).reg r = if r = d ∧ d ≠ 0 then v else c.reg r := by
  unfold Core.setReg Core.reg
  by_cases hd : d = 0
  · rw [if_pos hd, if_neg (show ¬ (r = d ∧ d ≠ 0) from fun h => h.2 hd)]
  · rw [if_neg hd]
    by_cases h : r = d
    · subst h
      rw [if_neg hd, if_pos ⟨rfl, hd⟩]
      simp
    · rw [if_neg (show ¬ (r = d ∧ d ≠ 0) from fun x => h x.1)]
      have hn : d.toNat ≠ r.toNat := fun e => h (BitVec.eq_of_toNat_eq e.symm)
      simp only [Vector.getElem_set_ne _ _ hn]

/-- kd := v and on: everything that kret can do. -/
theorem kret_setsReg (s : State) (d : KReg) (v : Word64) : SetsReg s (kret s d v) d v := by
  refine ⟨?_, fun r => ?_⟩
  · unfold kret
    rw [curCore_setCore]
    unfold Core.setReg
    split <;> rfl
  · unfold kreg kret
    rw [curCore_setCore]
    exact reg_setReg _ _ _ _ _

theorem kadvance_setsPc (s : State) : SetsPc s (kadvance s) ((curCore s).pc + 4) := rfl
theorem kjump_setsPc (s : State) (a : Word64) : SetsPc s (kjump s a) a := rfl

theorem mkStatus_prv (a b c d : Bool) : (mkStatus a b c d)[0] = d := by
  cases a <;> cases b <;> cases c <;> cases d <;> decide
theorem mkStatus_ie (a b c d : Bool) : (mkStatus a b c d)[1] = c := by
  cases a <;> cases b <;> cases c <;> cases d <;> decide
theorem mkStatus_pie (a b c d : Bool) : (mkStatus a b c d)[6] = b := by
  cases a <;> cases b <;> cases c <;> cases d <;> decide
theorem mkStatus_pprv (a b c d : Bool) : (mkStatus a b c d)[7] = a := by
  cases a <;> cases b <;> cases c <;> cases d <;> decide

/-- Everything that the entry to a trap can do. -/
theorem enterTrap_taken (s t : State) (async : Bool) (x : KTrap) (epc : Word64) (w : Option Wait) (hv : x.vec < 256)
    (hc : x.code < 256) (h : t = setCore s { (curCore s).enterTrap async x epc with wait := w }) :
    TrapTaken s t async x.vec x.code x.tval epc := by
  subst h
  constructor <;>
    simp [Core.enterTrap, Core.pprv, Core.pie, Core.ie, Core.prv, mkStatus_prv, mkStatus_ie, mkStatus_pie, mkStatus_pprv,
      trapLevel, mkCause, Nat.mod_eq_of_lt hv, Nat.mod_eq_of_lt hc]

/-- A synchronous trap at the instruction itself. -/
theorem ktrap_taken (s : State) (x : KTrap) (hv : x.vec < 256) (hc : x.code < 256) :
    TrapTaken s (ktrap s x) false x.vec x.code x.tval (curCore s).pc :=
  enterTrap_taken s _ false x _ (curCore s).wait hv hc rfl

/-! ### Addresses and translation -/

theorem kplace_loc {a : Word64} (h : a.toNat < 0x80000) : kplace a = .loc a.toNat := by
  simp [kplace, localTop, h]

theorem kplace_virt {a : Word64} (h1 : 0x80000 ≤ a.toNat) (h2 : a.toNat < 2 ^ 56) : kplace a = .virt a.toNat := by
  unfold kplace
  rw [if_neg (show ¬ a.toNat < localTop by unfold localTop; omega), if_pos h2]

theorem kplace_none {a : Word64} (h : 2 ^ 56 ≤ a.toNat) : kplace a = .none := by
  unfold kplace
  rw [if_neg (show ¬ a.toNat < localTop by unfold localTop; omega), if_neg (show ¬ a.toNat < 2 ^ 56 by omega)]

/-- Where no line has an error, a walk reports none. -/
theorem logWalk_good {s : State} (hb : s.badLines = []) (hs : s.softLines = []) (c : List WalkEnt) (p va : Nat) :
    logWalk s c p va = s := by simp [logWalk, hb, hs]

theorem logXlat_good {s : State} (hb : s.badLines = []) (hs : s.softLines = []) (c : List WalkEnt) (p : Nat) (t : List TlbEnt)
    (va : Nat) : logXlat s c p t va = s := by simp [logXlat, logWalk_good hb hs]

/-- Where no line has an error, a translation changes the translation caches of the core and of the die's walker only. -/
theorem kxlat_state {s : State} (hb : s.badLines = []) (hs : s.softLines = []) (nd : Need) (va : Nat) :
    (kxlat s nd va).2 = { setCore s { curCore s with tlb := (curCore (kxlat s nd va).2).tlb } with walkc := (kxlat s nd va).2.walkc } := by
  simp only [kxlat, logXlat_good hb hs, curCore_setWalker, curCore_setCore]
  rfl

theorem kxlat_snd {s u : State} {nd : Need} {va : Nat} {r : Except XErr Nat} (hb : s.badLines = []) (hs : s.softLines = [])
    (h : kxlat s nd va = (r, u)) :
    u = { setCore s { curCore s with tlb := (curCore u).tlb } with walkc := u.walkc } := by
  have := kxlat_state hb hs nd va
  rw [h] at this
  exact this

/-! ### The order of a core's accesses -/

theorem kdrain_nil {s : State} (h : (curCore s).buf = []) : kdrain s = s := by simp [kdrain, h]

theorem drainHost_nil {s : State} (h : s.hostOut = []) (p : Nat) : drainHost s p = s := by simp [drainHost, h]

/-- A core whose accesses are all performed has nothing to order. -/
theorem korder_settled {s : State} (h : Settled s) (sys : Bool) : korder s sys = s := by
  unfold korder
  rw [kdrain_nil h.1]
  cases sys <;> simp [drainHost_nil h.2]

theorem korder_mod {s : State} (h : (curCore s).buf = []) : korder s false = s := by
  simp [korder, kdrain_nil h]

/-! ### Memory -/

theorem lstore_writes (s : State) (x n v : Nat) : WritesLocal s (lstore s x n v) x n v := by
  refine ⟨by simp [lstore], by simp [lstore], fun h y => ?_⟩
  simp [lstore, getByte_writeBytes h]

theorem logRead_quiet {s : State} {p l pa : Nat} (h1 : s.badLines.contains (pa / 64) = false)
    (h2 : ∀ e ∈ s.softLines, e.1 ≠ pa / 64) : logRead s p l pa = s := by
  have h3 : s.softLines.find? (·.1 == lineOf pa) = none := by
    rw [List.find?_eq_none]
    intro e he
    simpa [lineOf] using h2 e he
  have h4 : lineBad s pa = false := h1
  unfold logRead
  rw [h4, h3]
  rfl

theorem logWrite_quiet {s : State} {p l pa n : Nat} (h1 : s.badLines.contains (pa / 64) = false) : logWrite s p l pa n = s := by
  have h4 : lineBad s pa = false := h1
  unfold logWrite
  rw [h4]
  rfl

/-- A store of less than a line to HBM. -/
theorem physWrite_hbm {s : State} {pa n v st off : Nat} (h : target pa = .hbm st off) (hn : n < 64) :
    WritesHbm s (physWrite s (some s.cur.toNat) pa n v) pa n v := by
  have h64 : ¬ (n = 64 ∧ pa % 64 = 0 ∧ (2 ^ n - 1) % 2 ^ 64 = 2 ^ 64 - 1) := by omega
  unfold physWrite physWriteMask
  simp only [h]
  rw [if_neg h64]
  refine ⟨?_, ?_, fun hw y => ?_, fun k => ?_⟩
  · simp only [hitMonitors, lineOf]
    congr 1
    exact List.filter_congr fun x _ => by by_cases e : x.1 = pa / 64 <;> simp [e]
  · simp [hitMonitors, writeMasked_full]
  · simp [hitMonitors, writeMasked_full, getByte_writeBytes hw]
  · simp [hitMonitors, lineOf, Core.post]

end Sys2Proof.Machine
end

