-- ==== Sys2Proof/Laws/Lanes.lean ====
section
/-! SUPPORT. What the output of a lane-by-lane firing holds. -/

namespace Sys2Proof.Machine

/-- The header of a lane-by-lane result (R115, R118). -/
def laneHdr (i : FireIn) (f : Fmt) : Hdr :=
  { tag := outTag i.w i.tag, fmt := f.code, pkind := if i.w.shape = 2 then 2 else if f.width = 64 then 1 else 0,
    vmask := i.vmask % 2 }

theorem laneTok_view (i : FireIn) (f : Fmt) (cs : List Nat) :
    plainView (i.laneTok f cs) = (i.dest, packLanes f.width cs, (laneHdr i f).plain) := by
  unfold FireIn.laneTok
  dsimp only
  rw [emit_view]
  unfold FireIn.vec laneHdr
  by_cases h : i.w.shape = 2 <;> simp [h, vectorHdr, scalarHdr, Hdr.plain]

/-- A firing whose one token holds the lanes of a list. -/
theorem sendsLanes_of {i : Instr} {s : State} {f : Focus} {w : OpWord} {opc : Nat} {m : FireIn → FireOut} {o : Fmt} {n : Nat}
    {v : Nat → Nat} (cs : List Nat) (h : Chosen s f) (he : exec i s = .next (fireGo s w opc m))
    (ho : (m (gather s f w opc)).outs = [(gather s f w opc).laneTok o cs]) (hn : n ≤ cs.length)
    (hv : ∀ k (_ : k < n) (hk : k < cs.length), cs[k] % 2 ^ o.width = v k % 2 ^ o.width) :
    SendsLanes i s f w (laneHdr (gather s f w opc) o) o.width n v := by
  refine issues_go h he fun t F hF => ⟨packLanes o.width cs, ?_, ?_⟩
  · exact hF.sent_one _ _ _ (by rw [ho]; simp only [List.map_cons, List.map_nil, laneTok_view]; rfl)
  · intro k hk
    rw [lane_packLanes _ _ _ (Nat.lt_of_lt_of_le hk hn)]
    exact hv k hk _

/-- A lane-by-lane firing sends its lanes. -/
theorem sendsLanes_go {i : Instr} {s : State} {f : Focus} {w : OpWord} {hd : Hdr} {wd n : Nat} {v : Nat → Nat} (opc : Nat)
    (lat : FireIn → Nat) (j : List Nat) (jr : Bool) (o : FireIn → Fmt) (op : FireIn → Nat → Nat → Nat → Nat → Nat × Flags)
    (h : Chosen s f) (he : exec i s = .next (fireGo s w opc fun i => laneFire i (o i) (lat i) j jr (op i)))
    (hh : laneHdr (gather s f w opc) (o (gather s f w opc)) = hd) (hw : (o (gather s f w opc)).width = wd)
    (hn : (gather s f w opc).laneCount (gather s f w opc).fmt = n)
    (hv : ∀ k, let q := gather s f w opc
      (op q k (q.a.cell q.fmt.width k) (q.b.cell q.fmt.width k) (q.c.cell q.fmt.width k)).1 % 2 ^ wd = v k % 2 ^ wd) :
    SendsLanes i s f w hd wd n v := by
  subst hh hw hn
  refine sendsLanes_of _ h he rfl (by simp) fun k hk _ => ?_
  simp only [List.getElem_map, List.getElem_range]
  exact hv k

end Sys2Proof.Machine
end

