-- ==== Sys2Proof/Tests/Build.lean ====
section
/-! SUPPORT. Small states for the tests and the witnesses: a core with given registers, a candidate with given operands, a page
table with one page. -/

namespace Sys2Proof.Tests
open Sys2Proof.Machine

/-- P holds of the state that a run answers. -/
def after (o : Host.Outcome State Fault Refusal) (p : State → Bool) : Bool :=
  match o with | .next t => p t | _ => false

/-- The current core with registers set. -/
def regs (s : State) (rs : List (KReg × Nat)) : State :=
  setCore s (rs.foldl (fun c r => c.setReg r.1 (BitVec.ofNat 64 r.2)) (curCore s))

/-- The core after reset with registers set. -/
def core (rs : List (KReg × Nat)) : State := regs State.reset rs

/-- The instruction that a kettle word stands for, run on a state. -/
def kruns (w : Word32) (s : State) (p : State → Bool) : Bool :=
  match decodeKettle w with | .ok i => after (exec i s) p | .error _ => false

/-- Region 0 of partition 0. -/
def r0 : Rgn := ⟨0, 0⟩
/-- Its only element. -/
def e0 : Loc := ⟨0, 0, 0⟩
/-- The candidate of that element's slot 0 under tag t. -/
def focus0 (t : Nat) : Focus := { loc := e0, slot := 0, tag := t, mode := .data }

/-- A machine with one region in the handle 0. -/
def withRegion (g : Region) : State := setRegion State.reset r0 g

/-- A scalar of 32 bits or less, a vector and a tile, with every validity bit set. -/
def scal (fmt v : Nat) : Token := { hdr := { fmt := fmt, vmask := 1 }, payload := v }
def scal64 (v : Nat) : Token := { hdr := { fmt := 13, pkind := 1, vmask := 1 }, payload := v }
def vect (fmt v : Nat) : Token := { hdr := { fmt := fmt, pkind := 2, vmask := 1 }, payload := v }
def tile (fmt r c v : Nat) : Token :=
  { hdr := { fmt := fmt, pkind := 3, vmask := 0xFFFF, trows := r, tcols := c, vrows := r, vcols := c }, payload := v }
/-- A tile of r × c valid cells. -/
def valid (t : Token) (r c : Nat) : Token := { t with hdr := { t.hdr with vrows := r, vcols := c } }
/-- A token with its poison bit and fault index. -/
def poisoned (t : Token) (fidx : Nat) : Token := { t with hdr := { t.hdr with poison := true, fidx := fidx } }

/-- n lanes of w bits that hold the same value. -/
def fill (w n v : Nat) : Nat := (List.range n).foldl (fun a k => a + v * 2 ^ (w * k)) 0

/-- The element of a candidate: slot 0 holds the word; a token of each position waits in its matched set or as a head; entry k
of the destination table is channel 10 + k. -/
def candElem (x : Word64) (recs : List Nat) (k st tag : Nat) (ops : List Token) : Elem :=
  let w := opFields x
  let h (p : Nat) : Option Held := ops[p]?.map fun t => { tok := { t with hdr := { t.hdr with chan := p, tag := tag } } }
  let at0 (p : Nat) : Option Held := if w.src p = 0 then h p else none
  let set : MSet := { slot := 0, tag := tag, a := at0 0, b := at0 1, c := at0 2, ready := some 0 }
  let recv : List RecvEnt := [0, 1, 2].map fun p => { valid := true, head := w.src p == 1, pos := p, chan := p, quota := 8 }
  let cfg : ElemCfg := { slots := x :: List.replicate 31 0xFF00000FFFE00000, recv := recv,
                         dest := (List.range 32).map fun d => [10 + d], fmts := recs,
                         consts := k :: List.replicate 31 0, states := st :: List.replicate 31 0, pooln := 8, ressize := 1 }
  { cfg := cfg, consts := cfg.consts, states := cfg.states, preds := 0xFFFF, sets := if set.empty then [] else [set],
    heads := [0, 1, 2].filterMap fun p => if w.src p = 1 then (h p).map fun x => (p, [x]) else none,
    gauges := List.replicate 4 {} }

/-- A candidate in region 0, chosen, with its format records, slot constant, slot state, tag and operands. -/
def cand (x : Word64) (recs : List Nat) (k st tag : Nat) (ops : List Token) : State :=
  { withRegion { st := 2, elems := [candElem x recs k st tag ops], bodies := [sampleBody] } with focus := some (focus0 tag) }

/-- What the word of a candidate's slot does to a state: the state after its issue. -/
def issued (x : Word64) (s : State) : Option State :=
  match decodeOp x with
  | .ok i => (match exec i s with | .next t => some t | _ => none)
  | .error _ => none

/-- The firing that joined last. -/
def fired (o : Option State) : Option Firing := o.bind fun t => (getElem t e0).pending.getLast?

/-- The first two cells of bank 1 as the firing leaves it. -/
def bank1 (o : Option State) : Option Nat := ((fired o).bind fun F => lookupKey F.banks 1).map fun b => b.cells % 2 ^ 64

/-- Channel, tag and payload of every token of the firing that joined last. -/
def sentBy (o : Option State) : List (Nat × Nat × Nat) :=
  match o with
  | some t => (match (getElem t e0).pending.getLast? with
    | some F => F.outs.map fun o => (o.chan, o.tok.hdr.tag, o.tok.payload)
    | none => [])
  | none => []

/-- The payloads alone. -/
def payloads (o : Option State) : List Nat := (sentBy o).map fun x => x.2.2

/-- The flags of the firing that joined last: INVALID 16, DIVZ 8, OVERFLOW 4, UNDERFLOW 2, INEXACT 1 (R39). -/
def raised (o : Option State) : Nat :=
  match o with
  | some t => (match (getElem t e0).pending.getLast? with | some F => F.flags.toNat | none => 0)
  | none => 0

/-- The results of a scalar candidate with one record, no constant. -/
def gives (x : Word64) (rec_ : Nat) (ops : List Token) : List Nat := payloads (issued x (cand x [rec_, rec_, rec_, rec_] 0 0 0 ops))

/-- The cause at which a candidate stops its region. -/
def stopCause (o : Option State) : Nat :=
  match o with
  | some t => (match (getRegion t r0).faultq.getLast? with | some f => bits f 63 56 | none => 0)
  | none => 0

end Sys2Proof.Tests
end

