-- ==== Sys2Proof/Tests/Kettle0.lean ====
section
/-! SUPPORT. Kettle words: the word of every instruction, laid out bit by bit from the encoding tables of spec/09, decodes to it; an operation word of
every opcode does; what some of them do. -/

namespace Sys2Proof.Tests
open Sys2Proof.Machine
set_option Elab.async false

/-- Every word decodes to its instruction. -/
def decodes (l : List (Nat × Instr)) : Bool := l.all fun x => (decodeKettle (BitVec.ofNat 32 x.1)).toOption == some x.2

/-- R214 to R216: words with kd = 3, ka = 1, kb = 2, a stored register 4. -/
theorem test_words_r_form : decodes [
  (0x00611000, .kAdd 3 1 2), (0x00611001, .kSub 3 1 2), (0x00611002, .kAnd 3 1 2),
  (0x00611003, .kOr 3 1 2), (0x00611004, .kXor 3 1 2), (0x00611005, .kShl 3 1 2),
  (0x00611006, .kShr 3 1 2), (0x00611007, .kSra 3 1 2), (0x00611008, .kSlt 3 1 2),
  (0x00611009, .kSltu 3 1 2), (0x0061100A, .kMul 3 1 2), (0x0061100B, .kMulh 3 1 2),
  (0x0061100C, .kMulhu 3 1 2), (0x0061100D, .kDiv 3 1 2), (0x0061100E, .kDivu 3 1 2),
  (0x0061100F, .kRem 3 1 2), (0x00611010, .kRemu 3 1 2)] = true := by decide +kernel
/-- R214 to R216: words with kd = 3, ka = 1, kb = 2, a stored register 4. -/
theorem test_words_i_form_and_loads : decodes [
  (0x0461FFFE, .kAddi 3 1 0xfffe), (0x0861FFFE, .kAndi 3 1 0xfffe), (0x0C61FFFE, .kOri 3 1 0xfffe),
  (0x1061FFFE, .kXori 3 1 0xfffe), (0x14610021, .kShli 3 1 33), (0x18610021, .kShri 3 1 33),
  (0x1C610021, .kSrai 3 1 33), (0x2061FFFE, .kSlti 3 1 0xfffe), (0x2460FFFE, .kLui 3 0xfffe),
  (0x4061FFFE, .kLd 3 1 0xfffe), (0x4461FFFE, .kLw 3 1 0xfffe), (0x4861FFFE, .kLwu 3 1 0xfffe),
  (0x4C61FFFE, .kLbu 3 1 0xfffe), (0x5081FFFE, .kSd 4 1 0xfffe), (0x5481FFFE, .kSw 4 1 0xfffe),
  (0x5881FFFE, .kSb 4 1 0xfffe)] = true := by decide +kernel
/-- R214 to R216: words with kd = 3, ka = 1, kb = 2, a stored register 4. -/
theorem test_words_ordered_and_atomic : decodes [
  (0x5C610004, .kLdAcq 3 1 true), (0x5C610006, .kLwAcq 3 1 true), (0x5C011005, .kSdRel 1 2 true),
  (0x5C011007, .kSwRel 1 2 true), (0x606110B0, .kAmoAdd 3 1 2 true 1 true), (0x606111B0, .kAmoSwp 3 1 2 true 1 true),
  (0x606112B0, .kAmoCas 3 1 2 true 1 true), (0x606113B0, .kAmoAnd 3 1 2 true 1 true), (0x606114B0, .kAmoOr 3 1 2 true 1 true),
  (0x606115B8, .kAmoMin 3 1 2 true 1 true true), (0x606116B8, .kAmoMax 3 1 2 true 1 true true)] = true := by decide +kernel
/-- R214 to R216: words with kd = 3, ka = 1, kb = 2, a stored register 4. -/
theorem test_words_branches_and_system : decodes [
  (0x8022FFFE, .kBeq 1 2 0xfffe), (0x8422FFFE, .kBne 1 2 0xfffe), (0x8822FFFE, .kBlt 1 2 0xfffe),
  (0x8C22FFFE, .kBge 1 2 0xfffe), (0x9022FFFE, .kBltu 1 2 0xfffe), (0x9422FFFE, .kBgeu 1 2 0xfffe),
  (0x9BFFFFFE, .kJ 0x3fffffe), (0x9FFFFFFE, .kJal 0x3fffffe), (0xA061FFFE, .kJalr 3 1 0xfffe),
  (0xA8611000, .kKscrub 3 1 2), (0xB0000001, .kFence true), (0xB4600009, .kCsrr 3 9)] = true := by decide +kernel
/-- R214 to R216: words with kd = 3, ka = 1, kb = 2, a stored register 4. -/
theorem test_words_fabric : decodes [
  (0xB4011009, .kCsrw 1 9), (0xB4012009, .kCsrs 1 9), (0xB4013009, .kCsrc 1 9),
  (0xB800FFFE, .kTrap 0xfffe), (0xBC000000, .kTret), (0xBC610001, .kKwait 3 1),
  (0xC0611000, .kIload 3 1 2), (0xC4610000, .kArm 3 1), (0xC4610001, .kArmOff 3 1),
  (0xC8611000, .kPour 3 1 2), (0xCC611000, .kLaunch 3 1 2), (0xD0611000, .kInj 3 1 2),
  (0xD4611000, .kArgw 3 1 2), (0xD8610000, .kRstop 3 1), (0xDC611000, .kRresume 3 1 2),
  (0xE0611000, .kRdrain 3 1 2), (0xE4611000, .kRsave 3 1 2), (0xE8611000, .kRrestore 3 1 2),
  (0xEC611000, .kShrink 3 1 2), (0xF0611000, .kEvict 3 1 2), (0xF4611000, .kFltq 3 1 2),
  (0xF8601000, .kAlmw 3 2), (0xFC611000, .kGwaitk 3 1 2)] = true := by decide +kernel
/-- Table 3.2 and the encoding tables of chapters 4 to 8: OPCODE stands in bits [63:56], MOD in [55:52]. -/
theorem test_words_operations : (([
  (0x000, .opSteer), (0x010, .opSwitch), (0x020, .opMerge), (0x030, .opCmerge), (0x040, .opCtxnew), (0x050, .opRetag),
  (0x060, .opNextit), (0x070, .opItdone), (0x080, .opCtxend), (0x090, .opEos), (0x0A0, .opCnt), (0x0B0, .opConst),
  (0x0C0, .opSink), (0x0D0, .opSort2), (0x0E0, .opPnop), (0x0F0, .opTagof), (0x100, .opTrap), (0x110, .opBrk),
  (0xFF0, .opNop), (0x200, .opAdd), (0x210, .opSub), (0x220, .opMul), (0x230, .opMad), (0x240, .opMin),
  (0x250, .opMax), (0x260, .opAbs), (0x270, .opNeg), (0x280, .opCmp), (0x290, .opSel), (0x2A0, .opClamp),
  (0x2B0, .opDiv), (0x2C0, .opLdexp), (0x2D0, .opFrexp), (0x2E0, .opDot), (0x300, .opAnd), (0x310, .opOr),
  (0x320, .opXor), (0x330, .opNot), (0x340, .opShl), (0x350, .opShr), (0x360, .opSra), (0x370, .opPopc),
  (0x380, .opClz), (0x400, .opCvt), (0x410, .opExpand), (0x420, .opPack), (0x430, .opUnpack), (0x440, .opShuf),
  (0x450, .opBcast), (0x460, .opIota), (0x470, .opRand), (0x480, .opRsum), (0x490, .opRmax), (0x4A0, .opRmin),
  (0x4B0, .opRsumM), (0x600, .opMma), (0x610, .opMmaMx), (0x620, .opMmaTb), (0x630, .opAccz), (0x640, .opAccadd),
  (0x650, .opAccrel), (0x660, .opTadd), (0x670, .opTsub), (0x680, .opTmul), (0x690, .opTmax), (0x6A0, .opTmin),
  (0x6B0, .opTtr), (0x6C0, .opTcvt), (0x800, .opExp), (0x810, .opExp2), (0x820, .opLog), (0x830, .opLog2),
  (0x840, .opLog1p), (0x850, .opExpm1), (0x860, .opSin), (0x870, .opCos), (0x880, .opSinpi), (0x890, .opCospi),
  (0x8A0, .opTanh), (0x8B0, .opLogistic), (0x8C0, .opErf), (0x8D0, .opGelu), (0x8E0, .opRsqrt), (0x8F0, .opSqrt),
  (0x900, .opRcp), (0xA00, .opLd), (0xA02, .opLdLoc), (0xA05, .opLdRec), (0xA10, .opSt), (0xA12, .opStLoc),
  (0xA20, .opLdg), (0xA30, .opStg), (0xA40, .opAgen), (0xA50, .opSbar), (0xA60, .opCopy), (0xA70, .opRed),
  (0xA80, .opRedM), (0xB00, .opAadd), (0xB10, .opAmin), (0xB20, .opAmax), (0xB30, .opAand), (0xB40, .opAor),
  (0xB50, .opAxor), (0xB60, .opAswp), (0xB70, .opAcas), (0xB80, .opAincB), (0xC00, .opGset), (0xC10, .opGadd),
  (0xC20, .opGwait), (0xC30, .opPsig), (0xC40, .opPwait), (0xC50, .opFilt), (0xC60, .opCmpct)] : List (Nat × (OpWord → Instr))).all fun x =>
    (decodeOp (BitVec.ofNat 64 (x.1 * 2 ^ 52))).toOption == some (x.2 (opFields (BitVec.ofNat 64 (x.1 * 2 ^ 52))))) = true := by decide +kernel
/-- R65 and its worked encoding `mma` with guard and update, R70 and R93: every field of three words of the spec. -/
theorem test_op_fields :
    opFields 0x6004915004808000 = { opFields 0 with fmt := 1, gen := true, gidx := 4, pact := 1, pidx := 5, sb := 1, sc := 4, dest := 2 } ∧
    opFields 0x220200008BE00000 = { opFields 0 with sat := true, sa := 1, sb := 2, sc := 31 } ∧
    opFields 0xA00400007C008C55 = { opFields 0 with fmt := 1, sb := 31, dest := 2, aux := 0xC55 } := by decide +kernel
/-- R217: wraps. -/
theorem test_kAdd : kruns 0x00611000 (core [(1, 0xFFFFFFFFFFFFFFFF), (2, 0x2)]) (fun t => kreg t 3 == 0x1 && (curCore t).pc == 4) = true := by decide +kernel
/-- R217. -/
theorem test_kSub : kruns 0x00611001 (core [(1, 0x1), (2, 0x2)]) (fun t => kreg t 3 == 0xFFFFFFFFFFFFFFFF && (curCore t).pc == 4) = true := by decide +kernel
/-- R217. -/
theorem test_kAnd : kruns 0x00611002 (core [(1, 0xF0F0), (2, 0xFF00)]) (fun t => kreg t 3 == 0xF000 && (curCore t).pc == 4) = true := by decide +kernel
/-- R217. -/
theorem test_kOr : kruns 0x00611003 (core [(1, 0xF0F0), (2, 0xFF00)]) (fun t => kreg t 3 == 0xFFF0 && (curCore t).pc == 4) = true := by decide +kernel
/-- R217. -/
theorem test_kXor : kruns 0x00611004 (core [(1, 0xF0F0), (2, 0xFF00)]) (fun t => kreg t 3 == 0xFF0 && (curCore t).pc == 4) = true := by decide +kernel
/-- R217: the count is taken modulo 64. -/
theorem test_kShl : kruns 0x00611005 (core [(1, 0x1), (2, 0x41)]) (fun t => kreg t 3 == 0x2 && (curCore t).pc == 4) = true := by decide +kernel
/-- R217. -/
theorem test_kShr : kruns 0x00611006 (core [(1, 0x8000000000000000), (2, 0x3F)]) (fun t => kreg t 3 == 0x1 && (curCore t).pc == 4) = true := by decide +kernel
/-- R217. -/
theorem test_kSra : kruns 0x00611007 (core [(1, 0x8000000000000000), (2, 0x3F)]) (fun t => kreg t 3 == 0xFFFFFFFFFFFFFFFF && (curCore t).pc == 4) = true := by decide +kernel
/-- R217: signed. -/
theorem test_kSlt : kruns 0x00611008 (core [(1, 0xFFFFFFFFFFFFFFFF), (2, 0x0)]) (fun t => kreg t 3 == 0x1 && (curCore t).pc == 4) = true := by decide +kernel
/-- R217: unsigned. -/
theorem test_kSltu : kruns 0x00611009 (core [(1, 0xFFFFFFFFFFFFFFFF), (2, 0x0)]) (fun t => kreg t 3 == 0x0 && (curCore t).pc == 4) = true := by decide +kernel
/-- R217. -/
theorem test_kMul : kruns 0x0061100A (core [(1, 0xFFFFFFFFFFFFFFFF), (2, 0x3)]) (fun t => kreg t 3 == 0xFFFFFFFFFFFFFFFD && (curCore t).pc == 4) = true := by decide +kernel
/-- R217: −2 has a high half of ones. -/
theorem test_kMulh : kruns 0x0061100B (core [(1, 0xFFFFFFFFFFFFFFFF), (2, 0x2)]) (fun t => kreg t 3 == 0xFFFFFFFFFFFFFFFF && (curCore t).pc == 4) = true := by decide +kernel
/-- R217. -/
theorem test_kMulhu : kruns 0x0061100C (core [(1, 0xFFFFFFFFFFFFFFFF), (2, 0x2)]) (fun t => kreg t 3 == 0x1 && (curCore t).pc == 4) = true := by decide +kernel
/-- R217: toward zero. -/
theorem test_kDiv : kruns 0x0061100D (core [(1, 0xFFFFFFFFFFFFFFF9), (2, 0x2)]) (fun t => kreg t 3 == 0xFFFFFFFFFFFFFFFD && (curCore t).pc == 4) = true := by decide +kernel
/-- R217: division by 0 gives all ones. -/
theorem test_kDivu : kruns 0x0061100E (core [(1, 0x7), (2, 0x0)]) (fun t => kreg t 3 == 0xFFFFFFFFFFFFFFFF && (curCore t).pc == 4) = true := by decide +kernel
/-- R217: the sign of ka. -/
theorem test_kRem : kruns 0x0061100F (core [(1, 0xFFFFFFFFFFFFFFF9), (2, 0x2)]) (fun t => kreg t 3 == 0xFFFFFFFFFFFFFFFF && (curCore t).pc == 4) = true := by decide +kernel
/-- R217. -/
theorem test_kRemu : kruns 0x00611010 (core [(1, 0x7), (2, 0x4)]) (fun t => kreg t 3 == 0x3 && (curCore t).pc == 4) = true := by decide +kernel
/-- R217: −2^63 by −1. -/
theorem test_kDiv_least : kruns 0x0061100D (core [(1, 0x8000000000000000), (2, 0xFFFFFFFFFFFFFFFF)]) (fun t => kreg t 3 == 0x8000000000000000) = true := by decide +kernel
/-- R218: the immediate is signed. -/
theorem test_kAddi : kruns 0x0461FFFE (core [(1, 0x1)]) (fun t => kreg t 3 == 0xFFFFFFFFFFFFFFFF && (curCore t).pc == 4) = true := by decide +kernel
/-- R218: the immediate is unsigned. -/
theorem test_kAndi : kruns 0x0861FFFE (core [(1, 0xFFFFFFFFFFFFFFFF)]) (fun t => kreg t 3 == 0xFFFE && (curCore t).pc == 4) = true := by decide +kernel
/-- R218. -/
theorem test_kOri : kruns 0x0C618000 (core [(1, 0x0)]) (fun t => kreg t 3 == 0x8000 && (curCore t).pc == 4) = true := by decide +kernel
/-- R218. -/
theorem test_kXori : kruns 0x1061FFFF (core [(1, 0xFFFFFFFFFFFFFFFF)]) (fun t => kreg t 3 == 0xFFFFFFFFFFFF0000 && (curCore t).pc == 4) = true := by decide +kernel
/-- R218. -/
theorem test_kShli : kruns 0x1461003F (core [(1, 0x1)]) (fun t => kreg t 3 == 0x8000000000000000 && (curCore t).pc == 4) = true := by decide +kernel
/-- R218. -/
theorem test_kShri : kruns 0x1861003E (core [(1, 0x8000000000000000)]) (fun t => kreg t 3 == 0x2 && (curCore t).pc == 4) = true := by decide +kernel
/-- R218. -/
theorem test_kSrai : kruns 0x1C61003E (core [(1, 0x8000000000000000)]) (fun t => kreg t 3 == 0xFFFFFFFFFFFFFFFE && (curCore t).pc == 4) = true := by decide +kernel
/-- R218: 0 is not below −1. -/
theorem test_kSlti : kruns 0x2061FFFF (core [(1, 0x0)]) (fun t => kreg t 3 == 0x0 && (curCore t).pc == 4) = true := by decide +kernel
/-- R218: imm16 × 2^16, sign-extended. -/
theorem test_kLui : kruns 0x24608000 (core []) (fun t => kreg t 3 == 0xFFFFFFFF80000000 && (curCore t).pc == 4) = true := by decide +kernel
/-- R220: local memory is little-endian; the loads extend as their names say. -/
theorem test_kettle_loads : [0x4461FFF8, 0x4861FFF8, 0x4061FFF8, 0x4C61FFFB].map (fun w => kruns w
      (lstore (core [(1, 0x10)]) 8 8 0x11223344F5667788) (fun t => kreg t 3 ==
        (if w = 0x4461FFF8 then 0xFFFFFFFFF5667788 else if w = 0x4861FFF8 then 0xF5667788 else if w = 0x4061FFF8 then 0x11223344F5667788 else 0xF5)))
    = [true, true, true, true] := by decide +kernel
/-- R220: the stores write 8, 4 and 1 bytes. -/
theorem test_kettle_stores : [0x50810000, 0x54810000, 0x58810000].map (fun w => kruns w (core [(1, 0x10), (4, 0x0102030405060708)]) (fun t =>
      (curCore t).lmem == (if w = 0x50810000 then [(16, 8), (17, 7), (18, 6), (19, 5), (20, 4), (21, 3), (22, 2), (23, 1)]
        else if w = 0x54810000 then [(16, 8), (17, 7), (18, 6), (19, 5)] else [(16, 8)]))) = [true, true, true] := by decide +kernel
/-- R227: a misaligned address raises KETTLE_ACCESS with it. -/
theorem test_kettle_misaligned : kruns 0x40610000 (core [(1, 0x11)]) (fun t => (curCore t).cause == 0x171 && (curCore t).tval == 0x11
    && (curCore t).pc == 64 && (curCore t).epc == 0) = true := by decide +kernel
/-- R224, Table 9.3. -/
theorem test_kAmoAdd : kruns 0x60611080 (lstore (core [(1, 0x10), (2, 0x1), (3, 0x0)]) 16 4 0xFFFFFFFF) (fun t => kreg t 3 == 0xFFFFFFFFFFFFFFFF && readBytes (curCore t).lmem 16 4 == 0x0) = true := by decide +kernel
/-- R224, Table 9.3. -/
theorem test_kAmoSwp : kruns 0x60611100 (lstore (core [(1, 0x10), (2, 0x5), (3, 0x0)]) 16 8 0x9) (fun t => kreg t 3 == 0x9 && readBytes (curCore t).lmem 16 8 == 0x5) = true := by decide +kernel
/-- R224, Table 9.3. -/
theorem test_kAmoCas : kruns 0x60611200 (lstore (core [(1, 0x10), (2, 0x5), (3, 0x9)]) 16 8 0x9) (fun t => kreg t 3 == 0x9 && readBytes (curCore t).lmem 16 8 == 0x5) = true := by decide +kernel
/-- R224, Table 9.3. -/
theorem test_kAmoAnd : kruns 0x60611380 (lstore (core [(1, 0x10), (2, 0x6), (3, 0x0)]) 16 4 0x3) (fun t => kreg t 3 == 0x3 && readBytes (curCore t).lmem 16 4 == 0x2) = true := by decide +kernel
/-- R224, Table 9.3. -/
theorem test_kAmoOr : kruns 0x60611480 (lstore (core [(1, 0x10), (2, 0x6), (3, 0x0)]) 16 4 0x3) (fun t => kreg t 3 == 0x3 && readBytes (curCore t).lmem 16 4 == 0x7) = true := by decide +kernel
/-- R224, Table 9.3. -/
theorem test_kAmoMin : kruns 0x60611580 (lstore (core [(1, 0x10), (2, 0xFFFFFFFFFFFFFFFF), (3, 0x0)]) 16 4 0x3) (fun t => kreg t 3 == 0x3 && readBytes (curCore t).lmem 16 4 == 0xFFFFFFFF) = true := by decide +kernel
/-- R224, Table 9.3. -/
theorem test_kAmoMax : kruns 0x60611688 (lstore (core [(1, 0x10), (2, 0xFFFFFFFFFFFFFFFF), (3, 0x0)]) 16 4 0x3) (fun t => kreg t 3 == 0x3 && readBytes (curCore t).lmem 16 4 == 0xFFFFFFFF) = true := by decide +kernel
/-- R219: taken by −2 instructions, or not. -/
theorem test_kBeq : kruns 0x8022FFFE (kjump (core [(1, 0x1), (2, 0x1)]) 0x100) (fun t => (curCore t).pc == 0xF8) = true := by decide +kernel
/-- R219: taken by −2 instructions, or not. -/
theorem test_kBne : kruns 0x8422FFFE (kjump (core [(1, 0x1), (2, 0x1)]) 0x100) (fun t => (curCore t).pc == 0x104) = true := by decide +kernel
/-- R219: taken by −2 instructions, or not. -/
theorem test_kBlt : kruns 0x8822FFFE (kjump (core [(1, 0xFFFFFFFFFFFFFFFF), (2, 0x0)]) 0x100) (fun t => (curCore t).pc == 0xF8) = true := by decide +kernel
/-- R219: taken by −2 instructions, or not. -/
theorem test_kBge : kruns 0x8C22FFFE (kjump (core [(1, 0xFFFFFFFFFFFFFFFF), (2, 0x0)]) 0x100) (fun t => (curCore t).pc == 0x104) = true := by decide +kernel
/-- R219: taken by −2 instructions, or not. -/
theorem test_kBltu : kruns 0x9022FFFE (kjump (core [(1, 0xFFFFFFFFFFFFFFFF), (2, 0x0)]) 0x100) (fun t => (curCore t).pc == 0x104) = true := by decide +kernel
/-- R219: taken by −2 instructions, or not. -/
theorem test_kBgeu : kruns 0x9422FFFE (kjump (core [(1, 0xFFFFFFFFFFFFFFFF), (2, 0x0)]) 0x100) (fun t => (curCore t).pc == 0xF8) = true := by decide +kernel
/-- R219: `j`, `jal` and `jalr` (which reads ka before it writes kd). -/
theorem test_kettle_jumps : kruns 0x9BFFFFFE (kjump (core []) 0x100) (fun t => (curCore t).pc == 0xF8) = true ∧
    kruns 0x9FFFFFFE (kjump (core []) 0x100) (fun t => (curCore t).pc == 0xF8 && kreg t 31 == 0x104) = true ∧
    kruns 0xA0210007 (kjump (core [(1, 0x200)]) 0x100) (fun t => (curCore t).pc == 0x204 && kreg t 1 == 0x104) = true := by decide +kernel
/-- R216, R227, R229: `trap 5`, an undefined word, `tret`. -/
theorem test_kettle_traps : kruns 0xB8000005 (core []) (fun t => (curCore t).cause == 0x340 && (curCore t).tval == 5 && (curCore t).epc == 4 && (curCore t).pc == 192
      && (curCore t).status == 0x81) = true ∧
    after (exec (.evUndefinedEncoding 0xA4000000) (core [])) (fun t => (curCore t).cause == 0x70 && (curCore t).tval == 0xA4000000 && (curCore t).pc == 0) = true ∧
    kruns 0xBC000000 (setCore (core []) { curCore (core []) with status := 0x41, epc := 0x80 }) (fun t => (curCore t).pc == 0x80 && (curCore t).status == 0x42) = true := by decide +kernel
/-- R225, R226: KS_ID of core 0, a write of KS_SCRATCH0, set and cleared bits, W1C of KS_EVENT. -/
theorem test_kettle_csrs : kruns 0xB4600000 (core []) (fun t => kreg t 3 == 0x7E08010000000000) = true ∧
    kruns 0xB4011030 (core [(1, 0x77)]) (fun t => csrGet t 0x030 == 0x77) = true ∧
    kruns 0xB4012008 (core [(1, 0xFF)]) (fun t => csrGet t 0x008 == 3) = true ∧
    kruns 0xB4013007 (setCore (core [(1, 0x0F)]) { curCore (core [(1, 0x0F)]) with tdeleg := 0xFF }) (fun t => csrGet t 0x007 == 0xF0) = true ∧
    kruns 0xB4011009 (setCore (core [(1, 1)]) { curCore (core [(1, 1)]) with event := 7 }) (fun t => csrGet t 0x009 == 6) = true := by decide +kernel
/-- R234: TIMER is selected and set: bit 1 of kd. -/
theorem test_kKwait : kruns 0xBC610001 (setCore (core [(1, 3)]) { curCore (core [(1, 3)]) with event := 2 }) (fun t => kreg t 3 == 2 && (curCore t).pc == 4) = true := by decide +kernel
/-- R236, R238: a handle above 63 is answered with BADHANDLE, an UNARMED region with BADSTATE, for each instruction that names
one. -/
theorem test_fabric_refusals : [0xC4610000, 0xC4610001, 0xC8611000, 0xCC611000, 0xD8610000, 0xDC611000, 0xE0611000, 0xE4611000, 0xEC611000, 0xF0611000].map
      (fun w => kruns w (core [(1, 64), (2, 0)]) (fun t => kreg t 3 == 3) && kruns w (core [(1, 63), (2, 0)]) (fun t => kreg t 3 == 2)) = List.replicate 10 true := by decide +kernel
/-- R238, R247: `rrestore` of a region that is not SAVED. -/
theorem test_rrestore_state : kruns 0xE8611000 (core [(1, 0), (2, 0x10000)]) (fun t => kreg t 3 == 2) = true := by decide +kernel
/-- R223, R248, R249: `fence`, `fltq` of an empty queue, `almw` of a record image of zeros (KIND 0 is reserved). -/
theorem test_kettle_others : kruns 0xB0000001 (core []) (fun t => (curCore t).pc == 4) = true ∧
    kruns 0xF4611000 (core [(1, 0), (2, 0x40)]) (fun t => kreg t 3 == 0) = true ∧
    kruns 0xF8601000 (core [(2, 0x40)]) (fun t => kreg t 3 == 0xFFFFFFFFFFFFFFFF) = true := by decide +kernel

end Sys2Proof.Tests
end

