-- ==== Sys2Proof/Tests/Mem0.lean ====
section
/-! SUPPORT. Operation words of the memory group, one issue each.
Bits of an operation word: [63:56] OPCODE, [55:52] MOD, [51:50] FMT, [49] SAT, [35:31] SA, [30:26] SB, [25:21] SC, [20:19] TAGA, [18:14]
DEST, [13:0] AUX. -/

namespace Sys2Proof.Tests
open Sys2Proof.Machine
set_option Elab.async false

/-- What a firing hands to its port: operation, descriptor, a's payload, stream, scope and order. -/
def accessOf (o : Option State) : Option (List Nat) :=
  match o with
  | some t => (match (getElem t e0).pending.getLast? with
    | some F => F.access.map fun a => [a.op, a.desc, (a.a.getD {}).payload, a.stream, a.scope, a.ord]
    | none => none)
  | none => none
/-- R176, R190: the operation, its descriptor, a, STREAM, SCOPE and ORD that `ld`, `ldg`, `agen`, `sbar` and `copy` hand to
their port. -/
theorem test_port_words : [0xA00000007C000055, 0xA200000003E00C00, 0xA40000007FE00850, 0xA50000007FE00000, 0xA600000003E00051].map (fun x => accessOf (issued x (cand x [0, 0, 0, 0] 4 0 9 [scal 0 5, scal 0 6, scal 0 7])))
    = [some [0xA0, 4, 5, 5, 1, 1], some [0xA2, 4, 5, 0, 0, 0], some [0xA4, 4, 5, 5, 0, 0], some [0xA5, 4, 5, 0, 0, 0], some [0xA6, 4, 5, 5, 0, 1]] := by decide +kernel
/-- R197: the nine atomics. -/
theorem test_atomic_words : [0xB000000003E00000, 0xB100000003E00000, 0xB200000003E00000, 0xB300000003E00000, 0xB400000003E00000, 0xB500000003E00000, 0xB600000003E00000, 0xB700000000000000, 0xB800000003E00000].map (fun x => accessOf (issued x (cand x [0, 0, 0, 0] 4 0 9 [scal 0 5, scal 0 6, scal 0 7])))
    = (List.range 9).map (fun k => some [0xB0 + k, 4, 5, 0, 0, 0]) := by decide +kernel
/-- R192, R195, R199, R200: `st`, `red`, `red.m.scale` and `ld.rec`. -/
theorem test_store_words : [0xA100000003E00000, 0xA700000003E00800, 0xA82000007FE00C00, 0xA05000007FE00000].map (fun x => accessOf (issued x (cand x [0, 0, 0, 0] 4 0 9 [scal 0 5, scal 0 6, scal 0 7])))
    = [some [0xA1, 4, 5, 0, 0, 0], some [0xA7, 4, 5, 0, 0, 0], some [0xA8, 4, 5, 0, 0, 0], some [0xA0, 4, 5, 0, 0, 0]] := by decide +kernel
/-- R193: the four bytes at offset 8 of the resident area. -/
theorem test_ldLoc :
    payloads (issued 0xA02000007FE00000 (modElem (cand 0xA02000007FE00000 [0, 0, 0, 0] 0 0 9 [scal 0 8]) e0 fun e => { e with scratch := [(8, 1), (11, 2)] })) = [0x02000001] := by decide +kernel
/-- R193: an offset past RESSIZE, or one that is not aligned to the element size, meets LAYOUT_BOUNDS. -/
theorem test_ldLoc_bounds :
    [4096, 6].map (fun k => stopCause (issued 0xA02000007FE00000 (cand 0xA02000007FE00000 [0, 0, 0, 0] 0 0 9 [scal 0 k]))) = [0x13, 0x13] := by decide +kernel
/-- R193: four bytes stored at the last place of the resident area, and an ack. -/
theorem test_stLoc :
    let t := issued 0xA120000003E00000 (cand 0xA120000003E00000 [0, 0, 0, 0] 0 0 9 [scal 0 4092, scal 0 0x02000001])
    payloads t = [0] ∧ (fired t).map (fun F => F.scratch) = some [(4092, 4, 0x02000001)] := by decide +kernel
/-- R193: a data tile that is not stored LTR × LTC (2 × 2) meets FORMAT_EDGE. -/
theorem test_stLoc_shape :
    stopCause (issued 0xA120000003E00C00 (cand 0xA120000003E00C00 [0, 0, 0, 0] 0x82 0 9 [scal 0 0, tile 0 2 3 0])) = 0x02 := by decide +kernel
/-- R205. -/
theorem test_gset :
    ((issued 0xC00000007FE00000 (cand 0xC00000007FE00000 [0, 0, 0, 0] 1 0 9 [scal 0 4096])).map fun t => ((getElem t e0).pending.map fun F => F.gauge)) = some [[.set 1 4096]] := by decide +kernel
/-- R205. -/
theorem test_gset_clr :
    ((issued 0xC01000007FE00000 (cand 0xC01000007FE00000 [0, 0, 0, 0] 1 0 9 [scal 0 4096])).map fun t => ((getElem t e0).pending.map fun F => F.gauge)) = some [[.clr 1 4096]] := by decide +kernel
/-- R205. -/
theorem test_gadd :
    ((issued 0xC10000007FE00000 (cand 0xC10000007FE00000 [0, 0, 0, 0] 1 0 9 [scal 0 7])).map fun t => ((getElem t e0).pending.map fun F => F.gauge)) = some [[.add 1 7]] := by decide +kernel
/-- R204, the worked example of R205: COUNT 0xF00 plus 0x100 reaches TARGET 0x1000. -/
theorem test_gauge_steps :
    ({ gen := 7, target := 0x1000, count := 0xF00 } : Gauge).apply (.add 0 0x100) = { gen := 8, target := 0x1000, count := 0 } := by decide +kernel
/-- R205: b is sent. -/
theorem test_gwait :
    sentBy (issued 0xC200000003E00000 (cand 0xC200000003E00000 [0, 0, 0, 0] 1 0 9 [scal 0 0, scal 0 6])) = [(10, 9, 6)] := by decide +kernel
/-- R206: SIG 3 of the slot constant. -/
theorem test_psig :
    ((issued 0xC30000007FE00000 (cand 0xC30000007FE00000 [0, 0, 0, 0] 3 0 9 [scal 0 0])).map fun t => ((getElem t e0).pending.map fun F => F.signal)) = some [some 3] := by decide +kernel
/-- R207: the launch id of the slot constant. -/
theorem test_pwait :
    accessOf (issued 0xC40000007FE00000 (cand 0xC40000007FE00000 [0, 0, 0, 0] 12 0 9 [scal 0 5])) = some [0xC4, 12, 5, 0, 0, 0] := by decide +kernel
/-- R202: rows whose first cell is above 2 are kept, in order. -/
theorem test_filt :
    ((issued 0xC540000003E00C00 (cand 0xC540000003E00C00 [0xB000, 0, 0, 0] 0 0 9 [tile 11 3 1 (3 + 2 * 2 ^ 32 + 5 * 2 ^ 64), scal 11 2])).map fun t => ((getElem t e0).pending.map fun F => F.access.map fun a => (a.hdr.vrows, a.buf))) = some [some (2, 3 + 5 * 2 ^ 32)] := by decide +kernel
/-- R202: rows whose mask lane is not 0 are kept. -/
theorem test_cmpct :
    ((issued 0xC600000003E00C00 (cand 0xC600000003E00C00 [0xB000, 0, 0, 0] 0 0 9 [tile 11 3 1 (3 + 2 * 2 ^ 32 + 5 * 2 ^ 64), vect 12 (2 ^ 32)])).map fun t => ((getElem t e0).pending.map fun F => F.access.map fun a => (a.hdr.vrows, a.buf))) = some [some (1, 2)] := by decide +kernel

end Sys2Proof.Tests
end

