-- ==== Sys2Proof/Tests/Ops0.lean ====
section
/-! SUPPORT. Operation words of every group, one issue each: results worked from the spec's own examples, tables and borderline lines.
Bits of an operation word: [63:56] OPCODE, [55:52] MOD, [51:50] FMT, [49] SAT, [35:31] SA, [30:26] SB, [25:21] SC, [20:19] TAGA, [18:14]
DEST, [13:0] AUX. -/

namespace Sys2Proof.Tests
open Sys2Proof.Machine
set_option Elab.async false

/-- R23, R122: an integer sum wraps. -/
theorem test_add : gives 0x2000000003E00000 0xB000 [scal 11 0x7FFFFFFF, scal 11 0x1] = [0x80000000] := by decide +kernel
/-- Borderline results of chapter 5: +∞ with OVERFLOW and INEXACT. -/
theorem test_add_overflow :
    let t := issued 0x2000000003E00000 (cand 0x2000000003E00000 [0x0, 0x0, 0x0, 0x0] 0x0 0 0 [scal 0 0x7F7FFFFF, scal 0 0x7F7FFFFF])
    payloads t = [0x7F800000] ∧ raised t = 5 := by decide +kernel
/-- R122: 1 − 3. -/
theorem test_sub : gives 0x2100000003E00000 0x0 [scal 0 0x3F800000, scal 0 0x40400000] = [0xC0000000] := by decide +kernel
/-- R122: the high half of 6 × 2^31 is 3. -/
theorem test_mul_high : gives 0x2200000003E00001 0xC000 [scal 12 0x80000000, scal 12 0x6] = [0x3] := by decide +kernel
/-- R122: 2 × 3 + 1. -/
theorem test_mad : gives 0x2300000000000000 0x0 [scal 0 0x40000000, scal 0 0x40400000, scal 0 0x3F800000] = [0x40E00000] := by decide +kernel
/-- Borderline results of chapter 5: −0 is below +0. -/
theorem test_min : gives 0x2400000003E00000 0x0 [scal 0 0x80000000, scal 0 0x0] = [0x80000000] := by decide +kernel
/-- Borderline results of chapter 5: `.nan`. -/
theorem test_min_nan : gives 0x2410000003E00000 0x0 [scal 0 0x7FC00001, scal 0 0x3F800000] = [0x7FC00000] := by decide +kernel
/-- R124: a UINT32 compares unsigned. -/
theorem test_max : gives 0x2500000003E00000 0xC000 [scal 12 0xFFFFFFFF, scal 12 0x1] = [0xFFFFFFFF] := by decide +kernel
/-- Borderline results of chapter 5. -/
theorem test_abs : gives 0x260000007FE00000 0xB000 [scal 11 0x80000000] = [0x80000000] := by decide +kernel
/-- Borderline results of chapter 5: clamped with OVERFLOW. -/
theorem test_abs_sat :
    let t := issued 0x260200007FE00000 (cand 0x260200007FE00000 [0xB000, 0xB000, 0xB000, 0xB000] 0x0 0 0 [scal 11 0x80000000])
    payloads t = [0x7FFFFFFF] ∧ raised t = 4 := by decide +kernel
/-- R125: the sign bit alone, of a NaN as of any code. -/
theorem test_neg : gives 0x270000007FE00000 0x0 [scal 0 0x7FC00001] = [0xFFC00001] := by decide +kernel
/-- Borderline results of chapter 5: false, with INVALID. -/
theorem test_cmp_lt :
    let t := issued 0x2820000003E00000 (cand 0x2820000003E00000 [0x0, 0x0, 0x0, 0x0] 0x0 0 0 [scal 0 0x7FC00000, scal 0 0x3F800000])
    payloads t = [0x0] ∧ raised t = 16 := by decide +kernel
/-- R126: all ones, in UINT32. -/
theorem test_cmp_eq : gives 0x2800000003E00000 0xA000 [scal 10 0x7, scal 10 0x7] = [0xFFFFFFFF] := by decide +kernel
/-- R127: a zero control selects b. -/
theorem test_sel : gives 0x2900000000000000 0xB000 [scal 11 1, scal 11 2, scal 12 0] = [0x2] := by decide +kernel
/-- R128. -/
theorem test_clamp : gives 0x2A00000000000000 0xB000 [scal 11 0x9, scal 11 0x0, scal 11 0x5] = [0x5] := by decide +kernel
/-- R123: truncated toward zero. -/
theorem test_div : gives 0x2B00000003E00000 0xB000 [scal 11 0x7, scal 11 0xFFFFFFFE] = [0xFFFFFFFD] := by decide +kernel
/-- Borderline results of chapter 5: all ones with DIVZ. -/
theorem test_div_zero :
    let t := issued 0x2B00000003E00000 (cand 0x2B00000003E00000 [0xB000, 0xB000, 0xB000, 0xB000] 0x0 0 0 [scal 11 0x7, scal 11 0x0])
    payloads t = [0xFFFFFFFF] ∧ raised t = 8 := by decide +kernel
/-- Borderline results of chapter 5: +∞ with OVERFLOW and INEXACT. -/
theorem test_ldexp :
    let t := issued 0x2C00000003E00000 (cand 0x2C00000003E00000 [0x2000, 0x2000, 0x2000, 0x2000] 0x0 0 0 [scal 2 0x3F80, scal 10 200])
    payloads t = [0x7F80] ∧ raised t = 5 := by decide +kernel
/-- Borderline results of chapter 5: 12 = 0.75 × 2^4. -/
theorem test_frexp_m : gives 0x2D0000007FE00000 0x0 [scal 0 0x41400000] = [0x3F400000] := by decide +kernel
/-- Borderline results of chapter 5: −148. -/
theorem test_frexp_e : gives 0x2D1000007FE00000 0x0 [scal 0 0x1] = [0xFFFFFF6C] := by decide +kernel
/-- R134: 128 × 3 × −2 = −768, in INT32. -/
theorem test_dot : gives 0x2E00000003E00800 0x8000 [vect 8 (fill 8 128 3), vect 8 (fill 8 128 0xFE)] = [0xFFFFFD00] := by decide +kernel
/-- R129. -/
theorem test_and : gives 0x3000000003E00000 0xB000 [scal 11 0xF0F0F0F0, scal 11 0xFF00FF00] = [0xF000F000] := by decide +kernel
/-- R129. -/
theorem test_or : gives 0x3100000003E00000 0xB000 [scal 11 0xF0F0F0F0, scal 11 0xFF00FF00] = [0xFFF0FFF0] := by decide +kernel
/-- R129. -/
theorem test_xor : gives 0x3200000003E00000 0xB000 [scal 11 0xF0F0F0F0, scal 11 0xFF00FF00] = [0xFF00FF0] := by decide +kernel
/-- R129: of 16 bits. -/
theorem test_not : gives 0x330000007FE00000 0xA000 [scal 10 0xF0F] = [0xF0F0] := by decide +kernel
/-- Borderline results of chapter 5: the count is taken modulo 32. -/
theorem test_shl : gives 0x3400000003E00000 0xB000 [scal 11 0x1, scal 11 0x21] = [0x2] := by decide +kernel
/-- R130: COUNT 4, zeros shifted in. -/
theorem test_shr : gives 0x350000007FE00004 0xB000 [scal 11 0x80000000] = [0x8000000] := by decide +kernel
/-- R130: the sign is copied. -/
theorem test_sra : gives 0x360000007FE00004 0xB000 [scal 11 0x80000000] = [0xF8000000] := by decide +kernel
/-- R131. -/
theorem test_popc : gives 0x370000007FE00000 0xB000 [scal 11 0xF00000F1] = [0x9] := by decide +kernel
/-- Borderline results of chapter 5. -/
theorem test_clz : gives 0x380000007FE00000 0xB000 [scal 11 0x0] = [0x20] := by decide +kernel
/-- Borderline results of chapter 5: 300.7 clamps to 127 with INVALID. -/
theorem test_cvt_int :
    let t := issued 0x400000007FE00000 (cand 0x400000007FE00000 [0x8000, 0x8000, 0x8000, 0x8000] 0x0 0 0 [scal 0 0x43965999])
    payloads t = [0x7F] ∧ raised t = 16 := by decide +kernel
/-- "Double rounding is avoided" of chapter 1. -/
theorem test_cvt_e4m3 : gives 0x400000007FE00000 0x3000 [scal 0 0x3F882000] = [0x39] := by decide +kernel
/-- R25: UINT4 15 is 0x57 in E4M3. -/
theorem test_expand : gives 0x410000007FE00801 0x3000 [vect 9 (fill 4 256 15)] = [fill 8 128 0x57] := by decide +kernel
/-- R138, the worked `pack`: lanes 0 and 32. -/
theorem test_pack : gives 0x4200000003E00800 0x2000 [vect 0 0x3F808000, vect 0 0x3F818000] = [0x3F80 + 0x3F82 * 2 ^ 512] := by decide +kernel
/-- R138: `.hi` starts at lane 32. -/
theorem test_unpack_hi : gives 0x431000007FE00800 0x0 [vect 2 (0x3F80 * 2 ^ 512)] = [0x3F800000] := by decide +kernel
/-- R139: lane 0 takes lane 3. -/
theorem test_shuf_rot : gives 0x441000007FE00803 0xB000 [vect 11 (7 * 2 ^ 96)] = [0x7] := by decide +kernel
/-- R139: a and b interleaved. -/
theorem test_shuf_ilvl : gives 0x4440000003E00800 0x8000 [vect 8 0x0201, vect 8 0x0403] = [0x4020301] := by decide +kernel
/-- R140. -/
theorem test_bcast : gives 0x450000007FE00800 0xB000 [scal 11 0x9] = [fill 32 32 9] := by decide +kernel
/-- R141: STEP −1. -/
theorem test_iota : gives 0x460000007FE00BFF 0x8000 [scal 8 0x2] = [(List.range 128).foldl (fun a k => a + (258 - k) % 256 * 2 ^ (8 * k)) 0] := by decide +kernel
/-- R142: WIDE gives an exact INT32. -/
theorem test_rsum : gives 0x480000007FE00801 0x8000 [vect 8 (fill 8 128 0x7F)] = [0x3F80] := by decide +kernel
/-- R143: lane 0 is −1 + 2. -/
theorem test_rmax : gives 0x490000007FE00800 0x8000 [vect 8 (fill 8 128 0xFF + 2)] = [0x1] := by decide +kernel
/-- R143: lane 0 is −2. -/
theorem test_rmin : gives 0x4A0000007FE00800 0x8000 [vect 8 (fill 8 128 0xFF - 1)] = [0xFE] := by decide +kernel
/-- R145: the generator's words for seed 0x12345678, tag 0 and counter 7 at lane 0, worked by hand from its steps. -/
theorem test_rand : payloads (issued 0x470000007FE00000 (cand 0x470000007FE00000 [0xC000, 0, 0, 0] 0x12345678 0 0 [scal 12 7])) = [0xE42E8326] := by decide +kernel
/-- R144, the worked `rsum.m`: b's block failed, SCALE: 1 × 2 / 1. -/
theorem test_rsumM : gives 0x4B00000003E00801 0 [vect 0 (fill 32 32 0x3F800000), { vect 0 0 with hdr := { fmt := 0, pkind := 2 } }]
    = [fill 32 32 0x40000000] := by decide +kernel
/-- R96: a zero control sends the data to entry DF, another to DEST (R88: the word of `steer a=tok b=tok -> d0 else=d1`). -/
theorem test_steer :
    sentBy (issued 0x03E00001 (cand 0x03E00001 [0, 0, 0, 0] 0 0 9 [scal 0 5, scal 12 0])) = [(11, 9, 5)] ∧
    sentBy (issued 0x03E00001 (cand 0x03E00001 [0, 0, 0, 0] 0 0 9 [scal 0 5, scal 12 3])) = [(10, 9, 5)] := by decide +kernel
/-- R97: selector 2 of 3. -/
theorem test_switch : sentBy (issued 0x100000003E00003 (cand 0x100000003E00003 [0, 0, 0, 0] 0x0 0x0 0x9 [scal 0 5, scal 12 2])) = [(12, 9, 5)] := by decide +kernel
/-- R97: a selector of N meets its stopping cause. -/
theorem test_switch_range : stopCause (issued 0x100000003E00003 (cand 0x100000003E00003 [0, 0, 0, 0] 0 0 9 [scal 0 5, scal 12 3])) = 0x22 := by decide +kernel
/-- R98: without the choice of b, a is sent. -/
theorem test_merge : sentBy (issued 0x200000087E00000 (cand 0x200000087E00000 [0, 0, 0, 0] 0x0 0x0 0x9 [scal 0 5, scal 0 6])) = [(10, 9, 5)] := by decide +kernel
/-- R99: a zero control sends the false side. -/
theorem test_cmerge : sentBy (issued 0x300000000000000 (cand 0x300000000000000 [0, 0, 0, 0] 0x0 0x0 0x9 [scal 0 5, scal 0 6, scal 12 0])) = [(10, 9, 6)] := by decide +kernel
/-- R100: body 0 from iteration 0 of its copy 0; the link is the old tag. -/
theorem test_ctxnew : sentBy (issued 0x40000007FE00001 (cand 0x40000007FE00001 [0, 0, 0, 0] 0x0 0x0 0x9 [scal 0 5])) = [(10, 0, 5), (11, 0, 9)] := by decide +kernel
/-- R102: `.iter` keeps the body and context. -/
theorem test_retag_iter : sentBy (issued 0x500000003E00000 (cand 0x500000003E00000 [0, 0, 0, 0] 0x0 0x0 0x10009 [scal 0 5, scal 12 3])) = [(10, 0x10003, 5)] := by decide +kernel
/-- R102: `.full`. -/
theorem test_retag_full : sentBy (issued 0x510000003E00000 (cand 0x510000003E00000 [0, 0, 0, 0] 0x0 0x0 0x10009 [scal 0 5, scal 12 0x20003])) = [(10, 0x20003, 5)] := by decide +kernel
/-- R103: the iteration wraps in its 16 bits. -/
theorem test_nextit : sentBy (issued 0x60000007FE00002 (cand 0x60000007FE00002 [0, 0, 0, 0] 0x0 0x0 0x1FFFF [scal 0 5])) = [(10, 0x10001, 5)] := by decide +kernel
/-- R104: no token. -/
theorem test_itdone : sentBy (issued 0x70000007FE00000 (cand 0x70000007FE00000 [0, 0, 0, 0] 0x0 0x0 0x9 [scal 0 5])) = [] := by decide +kernel
/-- R101: the result under the tag of the link. -/
theorem test_ctxend : sentBy (issued 0x800000003E00000 (cand 0x800000003E00000 [0, 0, 0, 0] 0x0 0x0 0x9 [scal 0 5, scal 12 0x30004])) = [(10, 0x30004, 5)] := by decide +kernel
/-- R107: an EOS has no payload. -/
theorem test_eos : sentBy (issued 0x90000007FE00000 (cand 0x90000007FE00000 [0, 0, 0, 0] 0x0 0x0 0x9 [scal 0 5])) = [(10, 9, 0)] := by decide +kernel
/-- R105: the third token of three. -/
theorem test_cnt : sentBy (issued 0xA0000007FE00003 (cand 0xA0000007FE00003 [0, 0, 0, 0] 0x0 0x2 0x9 [scal 0 5])) = [(10, 9, 3)] := by decide +kernel
/-- R105: the second of three sends nothing. -/
theorem test_cnt_below : sentBy (issued 0xA0000007FE00003 (cand 0xA0000007FE00003 [0, 0, 0, 0] 0x0 0x1 0x9 [scal 0 5])) = [] := by decide +kernel
/-- R106. -/
theorem test_const : sentBy (issued 0xB0000007FE00000 (cand 0xB0000007FE00000 [0, 0, 0, 0] 0x4D 0x0 0x9 [scal 0 5])) = [(10, 9, 77)] := by decide +kernel
/-- R108: no token. -/
theorem test_sink : sentBy (issued 0xC0000007FE00000 (cand 0xC0000007FE00000 [0, 0, 0, 0] 0x0 0x0 0x9 [scal 0 5])) = [] := by decide +kernel
/-- R113: the record goes to the port. -/
theorem test_sort2 : sentBy (issued 0xD00000003E00040 (cand 0xD00000003E00040 [0, 0, 0, 0] 0x40001 0x0 0x9 [scal 0 5, scal 12 1])) = [] := by decide +kernel
/-- R110. -/
theorem test_pnop : sentBy (issued 0xE0000007FE00000 (cand 0xE0000007FE00000 [0, 0, 0, 0] 0x0 0x0 0x9 [scal 0 5])) = [(10, 9, 5)] := by decide +kernel
/-- R111. -/
theorem test_tagof : sentBy (issued 0xF0000007FE00000 (cand 0xF0000007FE00000 [0, 0, 0, 0] 0x0 0x0 0x9 [scal 0 5])) = [(10, 9, 9)] := by decide +kernel
/-- R112: `trap` and, with breaks enabled, `brk` stop their region. -/
theorem test_trap : stopCause (issued 0x100000007FE00005 (cand 0x100000007FE00005 [0, 0, 0, 0] 0 0 9 [scal 0 5])) = 0x40 := by decide +kernel
/-- R112: with breaks disabled, `brk` forwards. -/
theorem test_brk : sentBy (issued 0x110000007FE00005 (cand 0x110000007FE00005 [0, 0, 0, 0] 0x0 0x0 0x9 [scal 0 5])) = [(10, 9, 5)] := by decide +kernel
/-- R109: the token is taken. -/
theorem test_nop : sentBy (issued 0xFF0000007FE00000 (cand 0xFF0000007FE00000 [0, 0, 0, 0] 0x0 0x0 0x9 [scal 0 5])) = [] := by decide +kernel
/-- R160. -/
theorem test_tadd : gives 0x6600000003E00C00 0x8000 [tile 8 2 4 0x0807060504030201, tile 8 2 4 0x0101010101010101] = [0x908070605040302] := by decide +kernel
/-- R160. -/
theorem test_tsub : gives 0x6700000003E00C00 0x8000 [tile 8 2 4 0x0807060504030201, tile 8 2 4 0x0101010101010101] = [0x706050403020100] := by decide +kernel
/-- R160: 2 × 3 and 1 × 2. -/
theorem test_tmul : gives 0x6800000003E00C00 0x1000 [tile 1 1 2 0x3C004000, tile 1 1 2 0x40004200] = [0x40004600] := by decide +kernel
/-- R160: signed cells. -/
theorem test_tmax : gives 0x6900000003E00C00 0x8000 [tile 8 1 2 0xFF01, tile 8 1 2 0x0002] = [0x2] := by decide +kernel
/-- R160: signed cells. -/
theorem test_tmin : gives 0x6A00000003E00C00 0x8000 [tile 8 1 2 0xFF01, tile 8 1 2 0x0002] = [0xFF01] := by decide +kernel
/-- R161. -/
theorem test_ttr : gives 0x6B0000007FE00C00 0x8000 [tile 8 2 3 0x060504030201] = [0x60305020401] := by decide +kernel
/-- R37, the worked block: amax 10 and 0.7; the scale plane starts at byte 128. -/
theorem test_tcvt : gives 0x6C0000007FE00C00 0x5000 [tile 0 1 32 (0x41200000 + 0x3F333333 * 2 ^ 32)] = [0x16 + 0x80 * 2 ^ 1024] := by decide +kernel
/-- R151: row 0 of A is 1, 1; columns of B: 1 + 3 and 2 + 0. -/
theorem test_mma : bank1 (issued 0x6000000001200400 (cand 0x6000000001200400 [0x2000, 0, 0, 0] 0 0 0 [valid (tile 2 32 32 0x3F803F80) 1 2, valid (tile 2 32 32 (0x40003F80 + 0x4040 * 2 ^ 512)) 2 2])) = some (0x40800000 + 0x40000000 * 2 ^ 32) := by decide +kernel
/-- R151: 1 × 2 with the scales 1 and 2. -/
theorem test_mma_mx : bank1 (issued 0x6100000001200400 (cand 0x6100000001200400 [0x5000, 0, 0, 0] 0 0 0 [valid (tile 5 32 128 (0x2 + 0x7F * 2 ^ 16384)) 1 1, valid (tile 5 32 128 (0x4 + 0x80 * 2 ^ 16384)) 1 1])) = some 0x40800000 := by decide +kernel
/-- R151: rows of B: 1 + 2 and 3 + 0. -/
theorem test_mma_tb : bank1 (issued 0x6200000001200400 (cand 0x6200000001200400 [0x2000, 0, 0, 0] 0 0 0 [valid (tile 2 32 32 0x3F803F80) 1 2, valid (tile 2 32 32 (0x40003F80 + 0x4040 * 2 ^ 512)) 2 2])) = some (0x40400000 + 0x40400000 * 2 ^ 32) := by decide +kernel
/-- R154: 2 added to a cleared bank. -/
theorem test_accadd : bank1 (issued 0x640000007D200400 (cand 0x640000007D200400 [0x0, 0, 0, 0] 0 0 0 [valid (tile 0 32 32 0x40000000) 1 1])) = some 0x40000000 := by decide +kernel
/-- R155: the bank is cleared and a token of 1 sent. -/
theorem test_accz : payloads (issued 0x630000007CA00400 (cand 0x630000007CA00400 [0, 0, 0, 0] 0 0 0 [scal 0 5])) = [1] := by decide +kernel
/-- R157, the word of `accrel.f0 a=tok c=acc1 bank=1 n=8 -> d3`: the eighth trigger releases the bank. -/
theorem test_accrel : sentBy (issued 0x650000007CA0C408 (cand 0x650000007CA0C408 [0, 0, 0, 0] 0 7 0 [scal 0 5])) = [(13, 0, 0)] := by decide +kernel
/-- Borderline results of chapter 7. -/
theorem test_exp :
    let t := issued 0x800000007FE00000 (cand 0x800000007FE00000 [0x0, 0x0, 0x0, 0x0] 0x0 0 0 [scal 0 0x3F800000])
    payloads t = [0x402DF854] ∧ raised t = 1 := by decide +kernel
/-- Borderline results of chapter 7. -/
theorem test_exp_e4m3 :
    let t := issued 0x800000007FE00000 (cand 0x800000007FE00000 [0x3000, 0x3000, 0x3000, 0x3000] 0x0 0 0 [scal 3 0x4D])
    payloads t = [0x7F] ∧ raised t = 5 := by decide +kernel
/-- 2^3. -/
theorem test_exp2 :
    let t := issued 0x810000007FE00000 (cand 0x810000007FE00000 [0x0, 0x0, 0x0, 0x0] 0x0 0 0 [scal 0 0x40400000])
    payloads t = [0x41000000] ∧ raised t = 0 := by decide +kernel
/-- Borderline results of chapter 7. -/
theorem test_log :
    let t := issued 0x820000007FE00000 (cand 0x820000007FE00000 [0x0, 0x0, 0x0, 0x0] 0x0 0 0 [scal 0 0xBF800000])
    payloads t = [0x7FC00000] ∧ raised t = 16 := by decide +kernel
/-- Borderline results of chapter 7. -/
theorem test_log2 :
    let t := issued 0x830000007FE00000 (cand 0x830000007FE00000 [0x2000, 0x2000, 0x2000, 0x2000] 0x0 0 0 [scal 2 0x4100])
    payloads t = [0x4040] ∧ raised t = 0 := by decide +kernel
/-- Table 7.3: −1. -/
theorem test_log1p :
    let t := issued 0x840000007FE00000 (cand 0x840000007FE00000 [0x0, 0x0, 0x0, 0x0] 0x0 0 0 [scal 0 0xBF800000])
    payloads t = [0xFF800000] ∧ raised t = 8 := by decide +kernel
/-- Borderline results of chapter 7. -/
theorem test_expm1 :
    let t := issued 0x850000007FE00000 (cand 0x850000007FE00000 [0x2000, 0x2000, 0x2000, 0x2000] 0x0 0 0 [scal 2 0xFF80])
    payloads t = [0xBF80] ∧ raised t = 0 := by decide +kernel
/-- Borderline results of chapter 7. -/
theorem test_sin :
    let t := issued 0x860000007FE00000 (cand 0x860000007FE00000 [0x0, 0x0, 0x0, 0x0] 0x0 0 0 [scal 0 0x35800000])
    payloads t = [0x35800000] ∧ raised t = 1 := by decide +kernel
/-- Table 7.3. -/
theorem test_cos :
    let t := issued 0x870000007FE00000 (cand 0x870000007FE00000 [0x0, 0x0, 0x0, 0x0] 0x0 0 0 [scal 0 0x0])
    payloads t = [0x3F800000] ∧ raised t = 0 := by decide +kernel
/-- Borderline results of chapter 7. -/
theorem test_sinpi :
    let t := issued 0x880000007FE00000 (cand 0x880000007FE00000 [0x0, 0x0, 0x0, 0x0] 0x0 0 0 [scal 0 0xC0000000])
    payloads t = [0x80000000] ∧ raised t = 0 := by decide +kernel
/-- Borderline results of chapter 7. -/
theorem test_cospi :
    let t := issued 0x890000007FE00000 (cand 0x890000007FE00000 [0x0, 0x0, 0x0, 0x0] 0x0 0 0 [scal 0 0x3F000000])
    payloads t = [0x0] ∧ raised t = 0 := by decide +kernel
/-- Borderline results of chapter 7. -/
theorem test_tanh :
    let t := issued 0x8A0000007FE00000 (cand 0x8A0000007FE00000 [0x4000, 0x4000, 0x4000, 0x4000] 0x0 0 0 [scal 4 0x7C])
    payloads t = [0x3C] ∧ raised t = 0 := by decide +kernel
/-- Borderline results of chapter 7. -/
theorem test_logistic :
    let t := issued 0x8B0000007FE00000 (cand 0x8B0000007FE00000 [0x2000, 0x2000, 0x2000, 0x2000] 0x0 0 0 [scal 2 0x0])
    payloads t = [0x3F00] ∧ raised t = 0 := by decide +kernel
/-- Table 7.3. -/
theorem test_erf :
    let t := issued 0x8C0000007FE00000 (cand 0x8C0000007FE00000 [0x0, 0x0, 0x0, 0x0] 0x0 0 0 [scal 0 0x7F800000])
    payloads t = [0x3F800000] ∧ raised t = 0 := by decide +kernel
/-- Table 7.3. -/
theorem test_gelu :
    let t := issued 0x8D0000007FE00000 (cand 0x8D0000007FE00000 [0x0, 0x0, 0x0, 0x0] 0x0 0 0 [scal 0 0xFF800000])
    payloads t = [0x80000000] ∧ raised t = 0 := by decide +kernel
/-- Borderline results of chapter 7. -/
theorem test_rsqrt :
    let t := issued 0x8E0000007FE00000 (cand 0x8E0000007FE00000 [0x1000, 0x1000, 0x1000, 0x1000] 0x0 0 0 [scal 1 0x8000])
    payloads t = [0xFC00] ∧ raised t = 8 := by decide +kernel
/-- Borderline results of chapter 7. -/
theorem test_sqrt :
    let t := issued 0x8F0000007FE00000 (cand 0x8F0000007FE00000 [0x0, 0x0, 0x0, 0x0] 0x0 0 0 [scal 0 0x40000000])
    payloads t = [0x3FB504F3] ∧ raised t = 1 := by decide +kernel
/-- Borderline results of chapter 7. -/
theorem test_sqrt_rup :
    let t := issued 0x8F3000007FE00000 (cand 0x8F3000007FE00000 [0x0, 0x0, 0x0, 0x0] 0x0 0 0 [scal 0 0x40000000])
    payloads t = [0x3FB504F4] ∧ raised t = 1 := by decide +kernel
/-- Borderline results of chapter 7. -/
theorem test_rcp :
    let t := issued 0x900000007FE00000 (cand 0x900000007FE00000 [0x3000, 0x3000, 0x3000, 0x3000] 0x0 0 0 [scal 3 0x0])
    payloads t = [0x7F] ∧ raised t = 24 := by decide +kernel
/-- Borderline results of chapter 7. -/
theorem test_rcp_sat :
    let t := issued 0x900200007FE00000 (cand 0x900200007FE00000 [0x3000, 0x3000, 0x3000, 0x3000] 0x0 0 0 [scal 3 0x0])
    payloads t = [0x7E] ∧ raised t = 8 := by decide +kernel

end Sys2Proof.Tests
end

