-- ==== Sys2Proof/Tests/Slice0.lean ====
section
/-! SUPPORT. What the well-formedness checks refuse, an ill-formed term for each; the step function on placed words. -/

namespace Sys2Proof.Tests
open Sys2Proof.Machine
set_option Elab.async false

/-- The instruction of an operation word is well-formed. -/
def wellFormed (w : Nat) : Bool := match decodeOp (BitVec.ofNat 64 w) with | .ok i => i.wf | .error _ => false

/-- Words at the edges of what the checks admit. -/
theorem test_wf_admits : [0x2060000003E00000, 0x0100000003E78002, 0x340000007FE0007F, 0x640000007CA00400, 0xA00000007FE003F5, 0x2000BC0003E00000, 0xFF00000FFFE00000].all wellFormed = true := by decide +kernel
/-- R28, R67: MOD outside its class. -/
theorem test_wf_refuses_mod : [0x2070000003E00000, 0x28C0000003E00000, 0x805000007FE00000, 0x2420000003E00000].any wellFormed = false := by decide +kernel
/-- R70: a source code that the position does not take. -/
theorem test_wf_refuses_source : [0x2000000203E00000, 0x200000002BE00000, 0x2000000000000000, 0x0000000103E00000, 0x0300000080000000].any wellFormed = false := by decide +kernel
/-- R93: EOSM 11, and EOSM without a HEAD operand. -/
theorem test_wf_refuses_eosm : [0x2000000087E03000, 0x2000000003E01000].any wellFormed = false := by decide +kernel
/-- R88: IMM12 of the dataflow group. -/
theorem test_wf_refuses_imm12 : [0x0000000003E00020, 0x0100000003E00001, 0x0100000003E00021, 0x0100000003E7C002, 0x060000007FE00000, 0x090000007FE00001].any wellFormed = false := by decide +kernel
/-- R116, R121: SHAPE and IMM10 of the vector group. -/
theorem test_wf_refuses_vector_aux : [0x2000000003E00C00, 0x2E00000003E00000, 0x2000000003E00001, 0x3400000003E00001, 0x4410000003E00800].any wellFormed = false := by decide +kernel
/-- R68, R149: BANK against the source code, IMM10 of the tile group. -/
theorem test_wf_refuses_tile_aux : [0x640000007CA00000, 0x640000007C800001].any wellFormed = false := by decide +kernel
/-- R165: SHAPE and IMM10 of the functions. -/
theorem test_wf_refuses_function_aux : [0x800000007FE00400, 0x800000007FE00001].any wellFormed = false := by decide +kernel
/-- R176: SHAPE, STREAM, SCOPE and ORD of the memory group. -/
theorem test_wf_refuses_memory_aux : [0xA20000007FE00000, 0xA02000007FE00010, 0xA00000007FE00006, 0xA00000007FE0000C, 0xC00000007FE00010].any wellFormed = false := by decide +kernel
/-- R66: TAGA 11; TAGA and DEST where Table 4.1 gives none. -/
theorem test_wf_refuses_taga_dest : [0x2000000003F80000, 0x060000007FE80001, 0x0C0000007FE04000].any wellFormed = false := by decide +kernel
/-- R69: FMT without a record, SAT where it is not allowed. -/
theorem test_wf_refuses_fmt_sat : [0x0004000003E00000, 0x3002000003E00000, 0x2202000003E00001].any wellFormed = false := by decide +kernel
/-- R56, R65: guard and update fields without their enable, a guard on the sense 1 of p15. -/
theorem test_wf_refuses_guard : [0x2000400003E00000, 0x20000C0003E00000, 0x2000FC0003E00000, 0x2000003003E00000, 0xFF00010FFFE00000].any wellFormed = false := by decide +kernel
/-- R98: `merge` with operands bound in two ways. -/
theorem test_wf_refuses_merge : [0x0200000007E00000].any wellFormed = false := by decide +kernel
/-- R64: an opcode that Table 3.6 does not assign decodes to nothing. -/
theorem test_decode_refuses : [0x12, 0x1F, 0x2F, 0x39, 0x4C, 0x5F, 0x6D, 0x91, 0x9F, 0xA9, 0xB9, 0xC7, 0xFE].any (fun n =>
    (decodeOp (BitVec.ofNat 64 (n * 2 ^ 56))).toOption.isSome) = false := by decide +kernel
/-- Table 8.1: a constructor with a MOD of another form of its opcode. -/
theorem test_wf_refuses_variant : [Instr.opLd { opFields 0xA00000007FE00000 with mod := 2 }, .opLdLoc (opFields 0xA00000007FE00000),
    .opLdRec (opFields 0xA00000007FE00000), .opSt { opFields 0xA100000003E00000 with mod := 2 }, .opStLoc (opFields 0xA100000003E00000)].any (·.wf)
    = false := by decide +kernel
/-- R9, R236, R305, R1: steps that name a partition, handle, lane group, die or stack that the module does not have; their
neighbours. -/
theorem test_wf_names : [Instr.evSchedulerStep 16, .evPourEnd ⟨16, 0⟩, .evPourEnd ⟨0, 64⟩, .evFiringCommit ⟨16, 0, 0⟩, .evFiringCommit ⟨0, 64, 0⟩,
      .evNak 72, .evSquallRelease 8, .evTapCopy 0 8, .evIsobarRelease 24, .evIsobarRecompute 32 0].any (·.wf) = false ∧
    [Instr.evSchedulerStep 15, .evPourEnd ⟨15, 63⟩, .evFiringCommit ⟨15, 63, 4095⟩, .evNak 71, .evSquallRelease 7, .evTapCopy 15 7,
      .evIsobarRelease 23, .evIsobarRecompute 31 0].all (·.wf) = true := by decide +kernel
/-- A kettle word placed at the pc after reset is what the first step runs: `addi k3,k1,-1`. -/
theorem test_step_kettle : after (step (State.reset.withFetchWord 32 0x0461FFFF)) (fun t => kreg t 3 == 0xFFFFFFFFFFFFFFFF && (curCore t).pc == 4)
    = true := by decide +kernel
/-- An operation word placed in a running region is what the first step issues: `const` of the slot constant 0. -/
theorem test_step_operation : after (step (State.reset.withFetchWord 64 0x0B0000007FE00000)) (fun t => (getElem t e0).pending.length == 1) = true := by
  decide +kernel
/-- R60: a firing commits when its time has come. -/
theorem test_firing_commit : after (exec (.evFiringCommit e0) (withRegion { st := 2, elems := [{ pending := [{ slot := 0, tag := 0, due := 0, flags := fInexact }] }] }))
    (fun t => (getElem t e0).pending == [] && (getElem t e0).flags == fInexact) = true := by decide +kernel
/-- DecodeEncode: instructions of each kind that have a word. -/
theorem witness_DecodeEncode : encodeKettle (.kAmoCas 3 1 2 true 3 false) = some 0x606112E0 ∧ (Instr.opLd (opFields 0xA00000007FE00000)).wf = true ∧
    encodeOp (.opLd (opFields 0xA00000007FE00000)) = some 0xA00000007FE00000 ∧ decodeKettle 0x606112E0 = .ok (.kAmoCas 3 1 2 true 3 false) ∧
    decodeOp 0xA00000007FE00000 = .ok (.opLd (opFields 0xA00000007FE00000)) := by decide +kernel

end Sys2Proof.Tests
end

