-- ==== Sys2Proof/Tests/WitnessKettle.lean ====
section
/-! SUPPORT. For each statement about the kettle cores and the fabric, states and operands that meet its hypotheses, clause by clause. -/

namespace Sys2Proof.Tests
open Sys2Proof.Machine
set_option Elab.async false

/-- A page table at 0x10000000: the first GiB onto HBM and the second onto host port 0, readable, writable and (the first)
executable; the fourth readable alone; the rest not mapped. -/
def paged (s : State) : State :=
  modPart { s with hbm := [(0x10000000, 0x01), (0x10000002, 0x10), (0x10000003, 0x10), (0x10100000, 0x1F), (0x10100008, 0x0F), (0x1010000E, 0x08),
                           (0x10100018, 0x07)] } 0 fun q => { q with ptbase := 0x10000000 }

/-- What kxlat answers, without the state. -/
def xlated (s : State) (nd : Need) (va : Nat) : Nat × Nat :=
  match (kxlat s nd va).1 with | .ok pa => (0, pa) | .error e => (e.code, 0)

theorem xlated_ok {s : State} {nd : Need} {va pa : Nat} (h : xlated s nd va = (0, pa)) : ∃ u, kxlat s nd va = (.ok pa, u) := by
  unfold xlated at h
  rcases hk : kxlat s nd va with ⟨r, u⟩
  rw [hk] at h
  rcases r with e | p
  · cases e <;> simp [XErr.code] at h
  · simp at h; exact ⟨u, by rw [h]⟩

theorem xlated_error {s : State} {nd : Need} {va : Nat} (h : (xlated s nd va).1 ≠ 0) : ∃ e u, kxlat s nd va = (.error e, u) := by
  unfold xlated at h
  rcases hk : kxlat s nd va with ⟨r, u⟩
  rw [hk] at h
  rcases r with e | p
  · exact ⟨e, u, rfl⟩
  · simp at h

/-- An access reaches good HBM through the table. -/
theorem reaches_of {s : State} {nd : Need} {va pa : Nat} (h : xlated s nd va = (0, pa))
    (hk : (match target pa with | .hbm _ _ => true | _ => false) = true)
    (hg : (kxlat s nd va).2.badLines = [] ∧ (kxlat s nd va).2.softLines = [] ∧ (curCore (kxlat s nd va).2).badCache = []) :
    ∃ u, Reaches s nd va pa u := by
  obtain ⟨u, hu⟩ := xlated_ok h
  have h2 : (kxlat s nd va).2 = u := by rw [hu]
  rw [h2] at hg
  refine ⟨u, hu, ?_, ?_, ?_, ?_⟩
  · cases ht : target pa <;> simp [ht] at hk ⊢
  · rw [hg.1]; rfl
  · rw [hg.2.1]; simp
  · rw [hg.2.2]; rfl

/-- KettleAluResults: the least integer and −1; functions 16 and 17. -/
theorem witness_KettleAluResults : let s := core [(1, 2 ^ 63), (2, 2 ^ 64 - 1)]
    kreg s 1 = 0x8000000000000000 ∧ kreg s 2 = 0xFFFFFFFFFFFFFFFF ∧
    (decodeKettle 0x00611010).toOption = some (.kRemu 3 1 2) ∧ (decodeKettle 0x00611011).toOption = none := by decide +kernel

/-- KettleImmediateResults: a shift's word with imm16[15:6] of 0 and of 1; `lui` with ka of 0 and of 1. -/
theorem witness_KettleImmediateResults : [0x1421003F, 0x14210040, 0x24408000, 0x24418000].map (fun w : Word32 => (decodeKettle w).toOption) =
    [some (.kShli 1 1 63), none, some (.kLui 2 0x8000), none] := by decide +kernel

/-- KettleControlFlow: each comparison holding and not; a pc of 2^56. -/
theorem witness_KettleControlFlow : let s := core [(1, 2 ^ 64 - 1), (2, 1)]
    (kreg s 1 = kreg s 1 ∧ kreg s 1 ≠ kreg s 2) ∧ ((kreg s 1).toInt < (kreg s 2).toInt ∧ ¬(kreg s 2).toInt < (kreg s 1).toInt) ∧
    ((kreg s 2).toNat < (kreg s 1).toNat ∧ ¬(kreg s 1).toNat < (kreg s 2).toNat) ∧
    (let s := kjump (core []) (2 ^ 56)
     s.powered = true ∧ s.agenda = [] ∧ (curCore s).started = true ∧ (curCore s).ie = false ∧ (curCore s).wait = none ∧
       2 ^ 56 ≤ (curCore s).pc.toNat) := by decide +kernel

/-- KettleAccessTraps: an address that is misaligned by one byte, one of 2^56, one that no page maps and one without the right. -/
theorem witness_KettleAccessTraps :
    let s := paged (core [(1, 0x80001), (2, 2 ^ 56), (3, 0x80000000), (4, 0xC0000000)])
    (kettleAccess s (.kLw 5 1 0) = some (0x80001, 4, { r := true }) ∧ 0x80001 % 4 ≠ 0) ∧
    kettleAccess s (.kLbu 5 2 0) = some (2 ^ 56, 1, { r := true }) ∧
    (kettleAccess s (.kLdAcq 5 3 true) = some (0x80000000, 8, { r := true }) ∧ ∃ e u, kxlat s { r := true } 0x80000000 = (.error e, u)) ∧
    (kettleAccess s (.kSd 5 4 0) = some (0xC0000000, 8, { w := true }) ∧ ∃ e u, kxlat s { w := true } 0xC0000000 = (.error e, u)) :=
  ⟨by decide +kernel, by decide +kernel, ⟨by decide +kernel, xlated_error (by decide +kernel)⟩, by decide +kernel, xlated_error (by decide +kernel)⟩

/-- KettleLocalLoads and KettleLocalStores: the last doubleword of local memory. -/
theorem witness_KettleLocal : let s := core [(1, 0x7FFF8)]
    kettleAccess s (.kLd 5 1 0) = some (0x7FFF8, 8, { r := true }) ∧ (kettleLoad (.kLd 5 1 0)).isSome = true ∧ 0x7FFF8 % 8 = 0 ∧ 0x7FFF8 < 0x80000 ∧
    (curCore s).badLocal.contains (0x7FFF8 / 64) = false ∧ kettleAccess s (.kSd 5 1 0) = some (0x7FFF8, 8, { w := true }) ∧
    kettleStore (.kSd 5 1 0) = some 5 ∧ kettleAccess s (.kSdRel 1 2 false) = some (0x7FFF8, 8, { w := true }) ∧
    kettleRelease (.kSdRel 1 2 false) = some (2, false) ∧ (curCore s).buf = [] ∧ s.hostOut = [] := by decide +kernel

/-- KettleHbmLoads and KettleHbmStores: the first address above local memory; a core that delays its stores and one that does
not. -/
theorem witness_KettleHbm : let s := paged (core [(1, 0x80000)])
    (kettleAccess s (.kLw 5 1 0) = some (0x80000, 4, { r := true }) ∧ ∃ u, Reaches s { r := true } 0x80000 0x80000 u) ∧
    (kettleAccess s (.kSw 5 1 0) = some (0x80000, 4, { w := true }) ∧ (∃ u, Reaches s { w := true } 0x80000 0x80000 u) ∧
      s.holding.contains s.cur.toNat = false ∧ (curCore s).buf = [] ∧ s.hostOut = [] ∧
      kettleRelease (.kSwRel 1 2 true) = some (2, true) ∧ kettleAccess s (.kSwRel 1 2 true) = some (0x80000, 4, { w := true })) ∧
    (let t := { s with holding := [0] }
     t.holding.contains t.cur.toNat = true ∧ ∃ u, Reaches t { w := true } 0x80000 0x80000 u) :=
  ⟨⟨by decide +kernel, reaches_of (by decide +kernel) (by decide +kernel) (by decide +kernel)⟩,
   ⟨by decide +kernel, reaches_of (by decide +kernel) (by decide +kernel) (by decide +kernel), by decide +kernel, by decide +kernel, by decide +kernel,
    by decide +kernel, by decide +kernel⟩,
   by decide +kernel, reaches_of (by decide +kernel) (by decide +kernel) (by decide +kernel)⟩

/-- KettleAtomics: local memory and HBM; KettleHostAtomics: host memory, for an operation that it takes and one that it does
not. -/
theorem witness_KettleAtomics : let s := paged (core [(1, 0x7FFF8), (2, 0x80000), (3, 0x40000000)])
    ((amoForm s (.kAmoCas 5 1 4 false 3 true)).isSome = true ∧ (kreg s 1).toNat % 8 = 0 ∧ (kreg s 1).toNat < 0x80000 ∧
      (curCore s).badLocal.contains ((kreg s 1).toNat / 64) = false ∧ (curCore s).buf = [] ∧ s.hostOut = []) ∧
    ((amoForm s (.kAmoMin 5 2 4 true 0 false true)).isSome = true ∧ (kreg s 2).toNat % 4 = 0 ∧
      ∃ u, Reaches s { r := true, w := true } (kreg s 2).toNat 0x80000 u) ∧
    ((amoForm s (.kAmoMax 5 3 4 true 0 false true)).map (·.host) = some false ∧ (amoForm s (.kAmoAdd 5 3 4 true 0 false)).map (·.host) = some true ∧
      (kreg s 3).toNat % 4 = 0 ∧ (∃ u, kxlat s { r := true, w := true } (kreg s 3).toNat = (.ok (2 ^ 51), u)) ∧ target (2 ^ 51) = .host 0 0) :=
  ⟨by decide +kernel, ⟨by decide +kernel, by decide +kernel, reaches_of (by decide +kernel) (by decide +kernel) (by decide +kernel)⟩,
   by decide +kernel, by decide +kernel, by decide +kernel, xlated_ok (by decide +kernel), by decide +kernel⟩

/-- A core with one of its registers set. -/
def cst (f : Core → Core) : State := setCore State.reset (f (curCore State.reset))

/-- KettleTraps: both levels, PPRV of 0 and 1; REGION, only TIMER, and IE of 0. -/
theorem witness_KettleTraps :
    ((curCore State.reset).prv = true ∧ (curCore State.reset).ie = false) ∧
    ((curCore (cst fun c => { c with status := 0x00 })).prv = false ∧ (curCore (cst fun c => { c with status := 0x00 })).pprv = false) ∧
    ((curCore (cst fun c => { c with status := 0x80 })).prv = false ∧ (curCore (cst fun c => { c with status := 0x80 })).pprv = true) ∧
    (let c := curCore (cst fun c => { c with status := 3, event := 1, ien := 1 })
     c.ie = true ∧ c.event.getLsbD 0 = true ∧ c.ien.getLsbD 0 = true) ∧
    (let s := cst fun c => { c with status := 3, event := 3, ien := 2, timecmp := 0 }
     let c := curCore s
     c.ie = true ∧ c.ien.getLsbD 0 = false ∧ c.event.getLsbD 1 = true ∧ c.ien.getLsbD 1 = true ∧ c.timecmp.toNat ≤ s.ns % 2 ^ 64) := by decide +kernel

/-- CsrReads, CsrWrites, CsrSpecialWrites and CsrRefused: firmware level and runtime level; a number that is listed, read-only,
not listed. -/
theorem witness_Csr :
    (curCore State.reset).prv = true ∧ (curCore (cst fun c => { c with status := 0 })).prv = false ∧
    ((0x008 : BitVec 12), (0x3 : Word64), false) ∈ plainCsrs ∧ ((0x002 : BitVec 12), (0x800000000000FFFF : Word64), true) ∈ plainCsrs ∧
    (0x000 : BitVec 12) ∈ readOnlyCsrs true ∧ (0x020 : BitVec 12) ∈ readOnlyCsrs false ∧ (0xFFF : BitVec 12) ∉ listedCsrs ∧
    (0x00E : BitVec 12) ∉ listedCsrs := by decide +kernel

/-- KettleEventSteps: what each clause asks of the level, the value and KS_TIMECMP. -/
theorem witness_KettleEventSteps :
    (let c := curCore (cst fun c => { c with status := 0 })
     c.prv = false ∧ (0x80 : Word64).getLsbD 7 ≠ c.pprv ∧ (0x42 : Word64).getLsbD 7 = c.pprv) ∧
    (0x7FFFF : Word64).toNat < 0x80000 ∧ 2 ^ 56 ≤ (0x100000000000000 : Word64).toNat ∧
    (∃ u, kxlat (paged (core [])) { r := true } 0x80000 = (.ok 0x80000, u)) ∧
    (∃ e u, kxlat (paged (core [])) { r := true } 0x80000000 = (.error e, u)) ∧
    (let s := cst fun c => { c with timecmp := 5 }
     (curCore s).timecmp.toNat ≤ { s with ns := 5 }.ns % 2 ^ 64 ∧ { s with ns := 4 }.ns % 2 ^ 64 < (curCore s).timecmp.toNat) :=
  ⟨by decide +kernel, by decide +kernel, by decide +kernel, xlated_ok (by decide +kernel), xlated_error (by decide +kernel), by decide +kernel⟩

/-- KettleFence: a core that holds back a store to HBM, one that holds back a store to host memory, a write that waits on the
path of port 1, and nothing held back. -/
theorem witness_KettleFence :
    (let s := setCore State.reset { curCore State.reset with buf := [⟨0x80000, 8, 5⟩] }
     (∀ b ∈ (curCore s).buf, (match target b.pa with | .hbm _ _ => true | _ => false) = true ∧ s.badLines.contains (b.pa / 64) = false ∧
       b.n < 64) ∧ (curCore s).buf ≠ []) ∧
    (let s := setCore State.reset { curCore State.reset with buf := [⟨2 ^ 51 + 2 ^ 50 + 0x40, 8, 5⟩] }
     (curCore s).buf = [⟨2 ^ 51 + 2 ^ 50 + 0x40, 8, 5⟩] ∧ target (2 ^ 51 + 2 ^ 50 + 0x40) = .host 1 0x40) ∧
    (let s := { State.reset with hostOut := [(1, false, ⟨0x40, 8, 5⟩)] }
     (curCore s).buf = [] ∧ (∀ e ∈ s.hostOut, e.1 = 1) ∧ s.hostOut ≠ []) ∧
    (curCore State.reset).buf = [] ∧ State.reset.hostOut = [] := by decide +kernel

/-- A region with one gauge: g0 of e(1,0). -/
def gauged : Region := { st := 2, img := { gauges := [(1, 0, 0, 0, 0x1000)] }, elems := [{ x := 1, gauges := [{ gen := 7 }] }] }

/-- KettleWaits: a reason that holds, none; a wait under way at its limit and before it; a gauge reached, and a word that names
none. -/
theorem witness_KettleWaits :
    (let s := setCore (core [(1, 2)]) { curCore (core [(1, 2)]) with event := 2 }
     b2n ((curCore s).event.getLsbD 2) + 2 * b2n (((curCore s).event &&& kreg s 1 &&& 3) != 0) ≠ 0) ∧
    (let s := core [(1, 2)]
     b2n ((curCore s).event.getLsbD 2) + 2 * b2n (((curCore s).event &&& kreg s 1 &&& 3) != 0) = 0 ∧ (curCore s).wlimit = 0) ∧
    (let s := { cst (fun c => { c with wait := some (.kwait 3 1 0), wlimit := 5 }) with kcyc := 5 }
     (curCore s).wait = some (.kwait 3 1 0) ∧ (curCore s).wlimit.toNat ≤ s.kcyc - 0) ∧
    (let s := { cst (fun c => { c with wait := some (.kwait 3 1 0), wlimit := 5 }) with kcyc := 4 }
     s.kcyc - 0 < (curCore s).wlimit.toNat) ∧
    (let s := regs (withRegion gauged) [(1, 0x40), (2, 7)]
     let g := getRegion s ⟨curPart s, (kreg s 1).toNat % 64⟩
     findGauge g (kreg s 1).toNat = some (0, 0) ∧ (kreg s 1).toNat < 2 ^ 29 ∧ g.st = 2 ∧ (curCore s).buf = [] ∧
       (7 + 2 ^ 32 - (kreg s 2).toNat % 2 ^ 32) % 2 ^ 32 < 2 ^ 31) ∧
    (let s := regs (setCore (withRegion gauged) { curCore (withRegion gauged) with wait := some (.gwaitk 3 1 2 0) }) [(1, 0x40), (2, 7)]
     (curCore s).wait = some (.gwaitk 3 1 2 0)) ∧
    -- not reached: it starts to wait, waits on before its limit, ends at it
    (let s := regs (withRegion gauged) [(1, 0x40), (2, 8)]
     findGauge (getRegion s ⟨curPart s, (kreg s 1).toNat % 64⟩) (kreg s 1).toNat = some (0, 0) ∧ (curCore s).wait = none ∧
       2 ^ 31 ≤ (7 + 2 ^ 32 - (kreg s 2).toNat % 2 ^ 32) % 2 ^ 32 ∧ (curCore s).wlimit = 0) ∧
    (let s := { regs (setCore (withRegion gauged) { curCore (withRegion gauged) with wlimit := 5, wait := some (.gwaitk 3 1 2 0) })
                 [(1, 0x40), (2, 8)] with kcyc := 5 }
     (curCore s).wait = some (.gwaitk 3 1 2 0) ∧ (curCore s).wlimit ≠ 0 ∧ (curCore s).wlimit.toNat ≤ s.kcyc - 0) ∧
    (let s := regs (withRegion gauged) [(1, 0)]
     findGauge (getRegion s ⟨curPart s, 0⟩) (kreg s 1).toNat = none ∧ (curCore s).wait = none) ∧
    (let s := regs (withRegion { gauged with load := true }) [(1, 0x40)]
     (getRegion s ⟨curPart s, (kreg s 1).toNat % 64⟩).load = true ∧ (kreg s 1).toNat < 2 ^ 29 ∧ (curCore s).buf = []) := by decide +kernel

/-- A range that scrubPages walks. -/
def scrubbed (s : State) (n va : Nat) : Bool := match (scrubPages s n va).1 with | .ok _ => true | .error _ => false

theorem scrubbed_ok {s : State} {n va : Nat} (h : scrubbed s n va = true) : ∃ p t, scrubPages s n va = (.ok p, t) := by
  unfold scrubbed at h
  rcases hk : scrubPages s n va with ⟨r, t⟩
  rw [hk] at h
  rcases r with e | p
  · simp at h
  · exact ⟨p, t, rfl⟩

/-- KettleScrub: the shortest range, an empty one; a length of one byte, and one above 16 GiB. -/
theorem witness_KettleScrub : let s := paged (core [(1, 0x80000), (2, 2 ^ 18), (3, 1), (4, 2 ^ 34 + 2 ^ 18)])
    ((kreg s 2).toNat % 2 ^ 18 = 0 ∧ (kreg s 2).toNat ≤ 2 ^ 34 ∧ (kreg s 1).toNat % 4096 = 0 ∧ (curCore s).buf = [] ∧
      ∃ p t, scrubPages s ((kreg s 2).toNat / 4096) (kreg s 1).toNat = (.ok p, t)) ∧
    (kreg s 3).toNat % 2 ^ 18 ≠ 0 ∧ 2 ^ 34 < (kreg s 4).toNat :=
  ⟨⟨by decide +kernel, by decide +kernel, by decide +kernel, by decide +kernel, scrubbed_ok (by decide +kernel)⟩, by decide +kernel, by decide +kernel⟩

/-- AlmanacAppend: an image of KIND 1 in the last line, one of KIND 0; addresses that are not 64-byte aligned or above local
memory; a head to advance. -/
theorem witness_AlmanacAppend :
    (let s := lstore (core [(1, 0x7FFC0), (2, 0x7FFC1), (3, 0x80000)]) 0x7FFC0 1 1
     (kreg s 1).toNat % 64 = 0 ∧ (kreg s 1).toNat < 0x80000 ∧ (curCore s).badLocal.contains ((kreg s 1).toNat / 64) = false ∧
       almOk (readBytes (curCore s).lmem (kreg s 1).toNat 64) = true ∧ almOk (readBytes (curCore s).lmem 0 64) = false ∧
       (kreg s 2).toNat % 64 ≠ 0 ∧ 0x80000 ≤ (kreg s 3).toNat) ∧
    (let s := modPart (paged (core [])) 0 fun q => { q with almbase := 0x100000 }
     xlatW s (curPart s) ((getPart s 0).almbase + 64 * 0) = .ok 0x100000 ∧ target 0x100000 = .hbm 0 0x100000 ∧ s.badLines = [] ∧ s.softLines = [] ∧
       curPart s = 0) ∧
    (let s := core []
     xlatW s (curPart s) ((getPart s 0).almbase + 64 * 0) = .error .translation) ∧
    (getPart (modPart State.reset 15 fun q => { q with almq := [(0, true)] }) 15).almq = (0, true) :: [] := by decide +kernel

end Sys2Proof.Tests
end

