-- ==== Sys2Proof/Tests/WitnessEvents.lean ====
section
/-! SUPPORT. For each statement about the events of elements, channels, ports and the sequencer, states that meet its hypotheses, clause by
clause. -/

namespace Sys2Proof.Tests
open Sys2Proof.Machine
set_option Elab.async false

/-- Element 0 of region 0 runs. -/
def liveB (s : State) : Bool := decide (0 < (getRegion s r0).elems.length) && running (getRegion s r0)

theorem live_of {s : State} (h : liveB s = true) : Live s e0 := by
  simp only [liveB, Bool.and_eq_true, decide_eq_true_eq] at h
  exact ⟨by decide, h.1, h.2⟩

/-- A physical address of HBM. -/
def inHbm (pa : Nat) : Bool := match target pa with | .hbm _ _ => true | _ => false

theorem hbm_of {pa : Nat} (h : inHbm pa = true) : ∃ st off, target pa = .hbm st off := by
  unfold inHbm at h
  cases ht : target pa <;> simp [ht] at h ⊢

/-- Region 0 runs one element with the word x in slot 0, changed by f and h. -/
def ran (x : Word64) (f : Region → Region) (h : Elem → Elem) : State :=
  withRegion (f { st := 2, elems := [h (candElem x [0, 0, 0, 0] 0 0 9 [])], bodies := [sampleBody] })

/-- A token of a kind and tag. -/
def kt (kind tag : Nat) : Token := { hdr := { kind := kind, vmask := 1, tag := tag }, payload := 5 }

/-- Channel ch to the element, with a token at its head. -/
def toElem (ch : Nat) (t : Token) (g : Region) : Region := { g with chans := [{ num := ch, dst := .elem 0, arrived := [t] }] }

/-- A receive entry of channel 0 at position 0 of slot 0. -/
def recv0 (head : Bool) : RecvEnt := { valid := true, head := head, pos := 0, chan := 0, quota := 8 }

/-- Receiving through heads. -/
def byHead (e : Elem) : Elem := { e with cfg := { e.cfg with recv := [recv0 true] } }

/-- Arrivals: a place of its own, with its payload in the pool, and in the spill area; an orphan mark, a place taken, a tag of
no body; a head of data and of EOS; a first and a second EOS; a spilled payload of a complete set. -/
theorem witness_Arrivals :
    (let s := ran 0 (toElem 0 (kt 0 9)) id
     Live s e0 ∧ arriving s e0 0 = some (kt 0 9, { recv0 false with quota := 8 }) ∧
       meetArrival (getRegion s r0) (getElem s e0) (kt 0 9) (recv0 false) = .place false ∧ roomFor (getRegion s r0) (getElem s e0) (kt 0 9) = .none) ∧
    (let t := vect 11 7
     let s := ran 0x7FE00000 (toElem 0 t) fun e => { e with cfg := { e.cfg with recv := [recv0 false] } }
     Live s e0 ∧ arriving s e0 0 = some (t, recv0 false) ∧ meetArrival (getRegion s r0) (getElem s e0) t (recv0 false) = .place false ∧
       roomFor (getRegion s r0) (getElem s e0) t = .pool 0) ∧
    (let t := vect 11 7
     let s := paged (ran 0x7FE00000 (toElem 0 t) fun e => { e with poolHeld := List.range 8,
                                                                    cfg := { e.cfg with recv := [recv0 false], spbase := 0x2000, spsize := 4 } })
     Live s e0 ∧ meetArrival (getRegion s r0) (getElem s e0) t (recv0 false) = .place false ∧
       roomFor (getRegion s r0) (getElem s e0) t = .spill 0 ∧
       mappedAll s 0 { w := true } (spillVa (getElem s e0) 0) (payloadBytes t.hdr) = true) ∧
    (let s := ran 0 (toElem 0 (kt 0 9)) fun e => { e with sets := [{ slot := 0, tag := 9, orphan := 1 }] }
     Live s e0 ∧ meetArrival (getRegion s r0) (getElem s e0) (kt 0 9) (recv0 false) = .orphan ∧
       (getRegion s r0).faultq.length < 32) ∧
    (let s := ran 0 (toElem 0 (kt 0 9)) fun e => { e with sets := [{ slot := 0, tag := 9, a := some { tok := kt 0 9 } }] }
     Live s e0 ∧ meetArrival (getRegion s r0) (getElem s e0) (kt 0 9) (recv0 false) = .stop 0x20 ∧
       meetArrival (getRegion s r0) (getElem s e0) (kt 0 (2 ^ 26)) (recv0 false) = .stop 0x25) ∧
    (let s := ran 0 (toElem 0 (kt 0 9)) byHead
     Live s e0 ∧ arriving s e0 0 = some (kt 0 9, recv0 true) ∧ tagInRange (getRegion s r0) 9 = true ∧ roomFor (getRegion s r0) (getElem s e0) (kt 0 9) = .none) ∧
    (let s := ran 0 (toElem 0 (kt 1 (2 ^ 26))) byHead
     Live s e0 ∧ arriving s e0 0 = some (kt 1 (2 ^ 26), recv0 true) ∧ roomFor (getRegion s r0) (getElem s e0) (kt 1 (2 ^ 26)) = .none) ∧
    (let s := ran 0 (toElem 0 (kt 1 9)) id
     Live s e0 ∧ arriving s e0 0 = some (kt 1 9, recv0 false) ∧ bit (getElem s e0).eosFlags (recvIndex (getElem s e0) 0 0) = false) ∧
    (let s := ran 0 (toElem 0 (kt 1 9)) fun e => { e with eosFlags := 1 }
     Live s e0 ∧ arriving s e0 0 = some (kt 1 9, recv0 false) ∧ bit (getElem s e0).eosFlags (recvIndex (getElem s e0) 0 0) = true) ∧
    (let t : Token := { hdr := { fmt := 11, pkind := 2, vmask := 0xFFFF, tag := 9 } }
     let s := paged (ran 0x7FE00000 id fun e => { e with cfg := { e.cfg with spbase := 0x2000, spsize := 4 }, spillHeld := [1],
                                                         sets := [{ slot := 0, tag := 9, a := some { tok := t, loc := .spill 1 }, ready := some 0 }] })
     Live s e0 ∧ spillOwner (getElem s e0) 1 = some (0, t) ∧ (freeBuf (getElem s e0)).isSome = true ∧
       (vreadLong s 0 128 (spillVa (getElem s e0) 1) (payloadBytes t.hdr)).toOption.isSome = true) := by
  refine ⟨⟨live_of ?_, ?_⟩, ⟨live_of ?_, ?_⟩, ⟨live_of ?_, ?_⟩, ⟨live_of ?_, ?_⟩, ⟨live_of ?_, ?_⟩, ⟨live_of ?_, ?_⟩, ⟨live_of ?_, ?_⟩,
    ⟨live_of ?_, ?_⟩, ⟨live_of ?_, ?_⟩, live_of ?_, ?_⟩ <;>
    decide +kernel

/-- A firing that is due. -/
def due : Firing := { slot := 0, tag := 9, due := 0, outs := [⟨10, kt 0 9⟩], access := some { op := 0xA0 }, signal := some 3, gauge := [.add 1 2] }

/-- Channel 10 of one hop, whose wheel gives it every slot. -/
def hop10 : Chan := { num := 10, src := .elem 0, quota := 1, hops := [⟨0, 0, 1, 4, 1, 2 ^ 64 - 1⟩] }

/-- FiringEvents: a due firing; a token to inject; an EOS of `inj` with quota for it; a flight at a hop; an acknowledgement at
its sender, and one a hop away; a `pwait` of a launch that is done, and of one that is aborted. -/
theorem witness_FiringEvents :
    (let s := ran 0 id fun e => { e with pending := [due] }
     Live s e0 ∧ commitNext (getElem s e0) s.clk = some 0 ∧ due.origin = false ∧ due.win = []) ∧
    (let s := ran 0 (fun g => { g with chans := [hop10] }) fun e => { e with inject := [{ chan := 10, tok := kt 0 9, ord := some 0 }] }
     Live s e0 ∧ (getRegion s r0).eosInj.contains 10 = false ∧ injectNext (getElem s e0) 10 = some 0 ∧ (getElem s e0).badWords = [] ∧
       max (getElem s e0).injFree 0 + beatsOf (kt 0 9).hdr ≤ s.clk + 1 ∧ (getElem s e0).inject.map (fun x => (x.owes, x.since)) = [(false, 0)]) ∧
    (let c : Chan := { hop10 with src := .inj }
     let s := ran 0 (fun g => { g with chans := [c], eosInj := [10] }) id
     Live s e0 ∧ (getRegion s r0).eosInj.contains 10 = true ∧ ((getRegion s r0).chans.find? fun (c : Chan) => c.num == 10 && c.src == .inj) = some c ∧
       c.reserved + c.outstanding < c.quota) ∧
    (let c : Chan := { hop10 with flights := [{ tok := kt 0 9 }] }
     let s := ran 0 (fun g => { g with chans := [c] }) id
     let ph := physElem (getRegion s r0).place 0 0
     Live s e0 ∧ lookupKey s.wheelAt (ph, 1) ≠ some s.clk ∧ traceTakes s ph 1 = false ∧
       (wheelPick s ph 1).map (fun q => (q.rgn, q.chan.num, q.tok)) = some (r0, 10, 0)) ∧
    (let c : Chan := { hop10 with acks := [⟨0, 1⟩, ⟨1, 1⟩] }
     let s := ran 0 (fun g => { g with chans := [c] }) id
     Live s e0 ∧ chanOf (getRegion s r0) 10 = some c ∧ (∀ x, c.src ≠ .link x) ∧ ownsSlot s (getRegion s r0) c (1 - 1) = true ∧
       lookupKey c.ackAt 1 ≠ some s.clk) ∧
    (let a : Access := { op := 0xC4, desc := 7, a := some (kt 0 9), dest := [10] }
     let b : Access := { a with desc := 8 }
     let s := modPart (ran 0 id fun e => { e with port := { accs := [a, b] } }) 0 fun q =>
       { q with launches := [{ id := 7, st := 1 }, { id := 8, st := 2 }] }
     Live s e0 ∧ getAccess s e0 0 = some a ∧ getAccess s e0 1 = some b ∧ a.eos = false ∧ a.scope ≠ 2 ∧
       (launchOf s 0 7).map (·.st) = some 1 ∧ (launchOf s 0 8).map (·.st) = some 2) := by
  refine ⟨⟨live_of ?_, ?_⟩, ⟨live_of ?_, ?_⟩, ⟨live_of ?_, ?_⟩, ⟨live_of ?_, ?_⟩, ⟨live_of ?_, ?_, by rintro x ⟨⟩, ?_⟩, live_of ?_, ?_⟩ <;>
    decide +kernel

/-- EosAndTrunc: a slot that emits, one whose EOS goes through the port; matched operands. -/
theorem witness_EosAndTrunc :
    (let s := cand 0x2000000000000000 [0, 0, 0, 0] 0 0 9 [scal 0 1]
     s.focus = some (focus0 9) ∧ Live s e0 ∧ eosByPort (opCode (slotWord (getElem s e0) 0)).toNat 0 0 = false ∧
       (opCode (slotWord (getElem s e0) 0)).toNat ∉ [0x0A, 0x65] ∧ (heldAt (getElem s e0) (opFields (slotWord (getElem s e0) 0)) 0 9 0) ≠ none) ∧
    (let s := cand 0xA000000000000000 [0, 0, 0, 0] 0 0 9 [scal 0 1]
     s.focus = some (focus0 9) ∧ Live s e0 ∧ eosByPort (opCode (slotWord (getElem s e0) 0)).toNat 0 0 = true) := by
  refine ⟨⟨rfl, live_of ?_, ?_⟩, rfl, live_of ?_, ?_⟩ <;> decide +kernel

/-- A chosen EOS set of a slot with the word x and the slot state st. -/
def eosSet (x : Word64) (st : Nat) : State := { cand x [0, 0, 0, 0] 0 st 9 [] with focus := some { focus0 9 with mode := .eos } }

/-- EosAndTrunc: an EOS set of `cnt` and of `accrel` with and without a count, of `sink`, of `ld`; of a slot that receives
through a head. -/
theorem witness_EosSets :
    (∀ q ∈ [((0x0A : BitVec 8), 0), (0x0A, 3), (0x65, 0), (0x65, 3), (0x0C, 1)], let s := eosSet (opForm q.1 (opFields 0x7FE00000)) q.2
     let e := Machine.getElem s e0
     s.focus = some { focus0 9 with mode := .eos } ∧ liveB s = true ∧ (opCode (slotWord e 0)) = q.1 ∧ nth e.ahead.states 0 0 % 2 ^ 32 = q.2 ∧
       eosByPort q.1.toNat 0 0 = false ∧ (destChans e (opFields (slotWord e 0)).dest.toNat).Nodup) ∧
    (let s := eosSet (opForm 0xA0 (opFields 0x7FE00000)) 0
     liveB s = true ∧ eosByPort (opCode (slotWord (getElem s e0) 0)).toNat 0 0 = true) ∧
    (let s := { cand 0xFFE00000 [0, 0, 0, 0] 0 0 9 [kt 1 9] with focus := some { focus0 9 with mode := .eos } }
     let e := Machine.getElem s e0
     let w := opFields (slotWord e 0)
     liveB s = true ∧ w.src 0 = 1 ∧ (tokPos w).contains 0 = true ∧ (recvOf e 0 0).map (·.chan) = some 0 ∧ (headsOf e 0).length = 1) := by decide +kernel

/-- Body 0 with one live copy, C counts each. -/
def counted (c : Nat) (ks : List Nat) : BodySt :=
  { desc := { num := 0, dyn := true, frame := false, logw := 4, k := 4, c := c },
    insts := [{ st := 1, oldest := 0xFFFF, counts := ks }, {}, {}, {}] }

/-- WindowEvents: an `itdone` of the newest iteration that the window holds, and the C-th of the oldest; a free of a live copy;
an advance and a free at the element; a free that every element has taken. -/
theorem witness_WindowEvents :
    (let k := List.replicate 16 0
     let x := counted 2 k
     let m : MsgFlight := { src := 0, msg := .done 14 }
     let s := ran 0 (fun g => { g with bodies := [x], msgs := [m] }) id
     running (getRegion s r0) = true ∧ ((getRegion s r0).bodies.find? fun (x : BodySt) => x.desc.num == tagBody 14) = some x ∧
       (tagIter 14 + 2 ^ 16 - 0xFFFF) % 2 ^ 16 < bodyW x.desc ∧ nth k (14 % 16) 0 + 1 ≠ x.desc.c ∧ nth k (0xFFFF % 16) 0 ≠ x.desc.c ∧
       tagInst 14 < x.insts.length) ∧
    (let k := List.replicate 15 0 ++ [1]
     let x := counted 2 k
     let m : MsgFlight := { src := 0, msg := .done 0xFFFF }
     let s := ran 0 (fun g => { g with bodies := [x], msgs := [m] }) id
     running (getRegion s r0) = true ∧ ((getRegion s r0).bodies.find? fun (x : BodySt) => x.desc.num == tagBody 0xFFFF) = some x ∧
       nth k (0xFFFF % 16) 0 + 1 = x.desc.c ∧ polSeq (getRegion s r0) = false ∧ nth k ((0xFFFF + 1) % 2 ^ 16 % 16) 0 ≠ x.desc.c) ∧
    (let m : MsgFlight := { src := 0, msg := .free 0 0 }
     let s := ran 0 (fun g => { g with bodies := [counted 1 []], msgs := [m] }) id
     running (getRegion s r0) = true ∧ (getRegion s r0).msgs[0]? = some m ∧ (nth (counted 1 []).insts 0 {}).st = 1 ∧ (counted 1 []).desc.dyn = true) ∧
    (let b : BcastFlight := { dst := 0, body := 0, inst := 0, free := false, oldest := 1 }
     let s := ran 0 (fun g => { g with bcasts := [b], frees := [((0, 1), [])] }) id
     running (getRegion s r0) = true ∧ bcastReady (getRegion s r0) 0 = some b ∧ b.dst < (getRegion s r0).elems.length ∧
       ((0, 1), []) ∈ (getRegion s r0).frees) ∧
    (let b : BcastFlight := { dst := 0, body := 0, inst := 1, free := true }
     let s := ran 0 (fun g => { g with bcasts := [b], frees := [((0, 1), [0])] }) id
     bcastReady (getRegion s r0) 0 = some b) := by decide +kernel

/-- An access under way at the port: one piece of one element, its page translated to itself. -/
def acc (op : Nat) (p : Piece) : Access :=
  { op := op, fmt := 0, begun := true, pieces := [p], xl := 1, pages := [(0x100, 0x100)], buf := 7, dest := [10], b := some (scal 0 3),
    outTag := 9, hdr := { vmask := 1 } }

/-- It stands at the element's port. -/
def ported (a : Access) : State := ran 0 id fun e => { e with kind := 1, port := { accs := [a] } }

/-- The element at 0x100004. -/
def el : List (Nat × Nat) := [(0, 0x100004)]

theorem may_of {a : Access} {p : Piece} (hp : pieceOpen a 0 = some p) (hc : copyReady a p = true) (hf : p.remote a = false)
    (hr : (a.rel && a.scope == 2) = false)
    (hh : p.els.all (fun e => inHbm (a.phys e.2) && decide (a.phys e.2 % 64 + a.width / 8 ≤ 64)) = true)
    (hm : mayPerform (ported a) e0 0 a p = true) : MayPerform (ported a) e0 0 0 a p := by
  have h2 := List.all_eq_true.mp hh
  simp only [Bool.and_eq_true, decide_eq_true_eq] at h2
  refine ⟨?_, hp, hm, hc, hf, hr, fun e he => hbm_of (h2 e he).1, fun e he => (h2 e he).2, fun e _ => ⟨rfl, fun x hx => ?_⟩⟩
  · rfl
  · cases hx

/-- PortEvents: a piece to read, to write, an atomic and an accumulation; a page to translate, and one that is not mapped; a
performed access; a `copy` whose block is performed. -/
theorem witness_PortEvents :
    (let a := acc 0xA0 { els := el }
     Live (ported a) e0 ∧ MayPerform (ported a) e0 0 0 a { els := el } ∧ a.isRec = false ∧ earlier (getElem (ported a) e0) 0 = [] ∧
       ∀ q ∈ a.pieces, farPiece (getRegion (ported a) r0) q = false) ∧
    (let a := acc 0xA1 { els := el, wr := true }
     MayPerform (ported a) e0 0 0 a { els := el, wr := true } ∧ (fmtIsMx a.fmt && a.op == 0xA1) = false ∧ a.seq = false ∧ 0 < a.width / 8) ∧
    (let a := acc 0xB0 { els := el, rmw := true }
     MayPerform (ported a) e0 0 0 a { els := el, rmw := true } ∧ a.poison = false ∧ a.seq = false) ∧
    (let a := acc 0xA7 { els := el, rmw := true }
     MayPerform (ported a) e0 0 0 a { els := el, rmw := true }) ∧
    (let p : Piece := { els := el }
     let a : Access := { acc 0xA0 p with xl := 0, pages := [] }
     let s := paged (ported a)
     let x (va : Nat) := translate s (walker s (portDieOf s e0)) 0 (getElem s e0).port.tlb 512 (pieceNeed a p) va
     Live s e0 ∧ getAccess s e0 0 = some a ∧ a.pieces.length = a.xl + 1 ∧ a.pieces[a.xl]? = some p ∧ rmemOf (getRegion s r0) 0x100004 = none ∧
       (x 0x100004).1.toOption = some 0x100004 ∧ inHbm 0x100004 = true ∧ (x (2 ^ 32)).1.toOption = none) ∧
    (let a := acc 0xA0 { els := el, done := true }
     let s := ported a
     Live s e0 ∧ getAccess s e0 0 = some a ∧ mayComplete s (getElem s e0) 0 a = true ∧ a.scope ≠ 2 ∧ a.nfp = false) ∧
    (let w : Piece := { els := el, wr := true, done := true }
     let a : Access := { acc 0xA6 { els := el, done := true } with desc := 0x10000, pieces := [{ els := el, done := true }, w], xl := 2 }
     let s := modRegion (ported a) r0 fun g => { g with img := { g.img with gauges := [(0, 0, 1, 2, 0)] } }
     Live s e0 ∧ getAccess s e0 0 = some a ∧ copyBlock a (0x100004 / 256) = [w] ∧ (0x100004 / 256) ∉ a.credited ∧ mdGid a.desc = 1 ∧
       (getRegion s r0).img.gauges[mdGid a.desc - 1]? = some (0, 0, 1, 2, 0)) := by
  refine ⟨⟨live_of ?_, may_of ?_ ?_ ?_ ?_ ?_ ?_, ?_⟩, ⟨may_of ?_ ?_ ?_ ?_ ?_ ?_, ?_⟩, ⟨may_of ?_ ?_ ?_ ?_ ?_ ?_, ?_⟩, may_of ?_ ?_ ?_ ?_ ?_ ?_,
    ⟨live_of ?_, ?_⟩, ⟨live_of ?_, ?_⟩, live_of ?_, ?_⟩ <;> decide +kernel

/-- A record of 8 × 8 elements of a format at 0x100000 with rows of 32 bytes and a box of 2 × 2, PAD 5 (Table 8.4). -/
def lay8 (fmt : Nat) : Nat :=
  2 * 2 ^ 464 + 2 * 2 ^ 448 + 5 * 2 ^ 416 + 32 * 2 ^ 256 + 2 ^ 224 + 2 ^ 192 + 2 ^ 160 + 2 ^ 128 + 8 * 2 ^ 96 + 8 * 2 ^ 64 + fmt * 2 ^ 60 + 2 * 2 ^ 57 + 0x100000
/-- An MX tile of 1 × 32 elements at 0x100000. -/
def layMx : Nat :=
  32 * 2 ^ 464 + 2 ^ 448 + 16 * 2 ^ 256 + 2 ^ 224 + 2 ^ 192 + 2 ^ 160 + 2 ^ 128 + 2 ^ 96 + 32 * 2 ^ 64 + 5 * 2 ^ 60 + 2 * 2 ^ 57 + 0x100000
/-- 256 bytes at 0x100000. -/
def layRec : Nat := 2 ^ 464 + 2 ^ 448 + 2 ^ 224 + 2 ^ 192 + 2 ^ 160 + 2 ^ 128 + 2 ^ 96 + 256 * 2 ^ 64 + 9 * 2 ^ 60 + 2 ^ 57 + 0x100000

/-- An access of a shape that has not begun, with coordinates and b. -/
def fresh (op shape fmt : Nat) (c : List Nat) (b : Option Token) : Access :=
  { op := op, shape := shape, fmt := fmt, desc := 1 * 2 ^ 8, a := some (vect 11 (packLanes 32 c)), b := b, dest := [10], outTag := 9, slot := 0, tag := 9 }

/-- It stands at a port that holds the records of handles 0 and 1. -/
def atPort (a : Access) (ls : List (Nat × Nat)) : State := ran 0 id fun e => { e with kind := 1, port := { accs := [a], layc := ls } }

/-- The origin that an access takes is i and its records are x and y. -/
def mayStartB (a : Access) (x y : Nat) (i : List Int) : Bool :=
  let s := atPort a [(0, x), (1, y)]
  liveB s && mayBegin (getRegion s r0) (getElem s e0) 0 a && a.coords.isNone && !a.isGen && decide (i = coordsOf (a.a.getD {})) && !a.begun && a.held.isNone
    && !a.ended && !a.eos && !a.poison && a.fill.isNone && decide (mdHandle a.desc = 0) && decide (mdHandle2 a.desc = 1) && a.pieces == []

theorem starts_of {a : Access} {x y : Nat} {i : List Int} (h : mayStartB a x y i = true) :
    MayStart (atPort a [(0, x), (1, y)]) e0 0 a (layoutOf x) (if a.op = 0xA6 ∨ a.op = 0xA8 then layoutOf y else layoutOf x) i := by
  simp only [mayStartB, Bool.and_eq_true, Bool.not_eq_true', Option.isNone_iff_eq_none, decide_eq_true_eq, beq_iff_eq] at h
  obtain ⟨⟨⟨⟨⟨⟨⟨⟨⟨⟨⟨⟨⟨-, hm⟩, hc⟩, hg⟩, hi⟩, hb⟩, hh⟩, he⟩, ho⟩, hp⟩, hf⟩, h0⟩, h1⟩, -⟩ := h
  refine ⟨rfl, ⟨hb, hh, he, ho, hp, hf⟩, hm, ?_, ?_, .inr (.inl ⟨hc, hg, hi⟩), rfl, ?_⟩
  · rw [h0]; rfl
  · split
    · rw [h1]; rfl
    · rfl
  · intro b hb; cases hb

/-- A scalar of the coordinates' length, in bounds and out. -/
def at1 : List Int := [1, 1, 0, 0, 0, 0]

/-- PortEvents: an access of each operation that goes through its records: in bounds, past the extent, out of bounds under fault
and past the virtual space; a tile at the last origin, whose box leaves the extent. -/
theorem witness_PortBegins :
    (∀ q ∈ [(0xA0, 0), (0xA0, 2), (0xA0, 3), (0xA1, 0), (0xA7, 0), (0xB0, 0), (0xB8, 0), (0xA2, 3)],
      mayStartB (fresh q.1 q.2 0 [1, 1] (some (scal 0 7))) (lay8 0) 0 at1 = true ∧ (layoutOf (lay8 0)).malformed true = false ∧
        shapeHolds (fresh q.1 q.2 0 [1, 1] (some (scal 0 7))) (layoutOf (lay8 0)) = true ∧ (layoutOf (lay8 0)).inBounds at1 = true) ∧
    (mayStartB (fresh 0xA0 3 0 [7, 7] none) (lay8 0) 0 [7, 7, 0, 0, 0, 0] = true ∧ (layoutOf (lay8 0)).inBounds [7, 7, 0, 0, 0, 0] = true ∧
      (layoutOf (lay8 0)).inBounds [8, 7, 0, 0, 0, 0] = false) ∧
    ((layoutOf (lay8 0 + 2 ^ 56)).refuses [8, 0, 0, 0, 0, 0] = true ∧ (layoutOf (lay8 0)).refuses [8, 0, 0, 0, 0, 0] = false ∧
      (layoutOf (lay8 0 - 0x100000 + 2 ^ 56 - 4)).refuses [1, 0, 0, 0, 0, 0] = true ∧ (layoutOf (lay8 0 - 0x100000 + 2 ^ 56 - 4)).refuses [0, 0, 0, 0, 0, 0] = false) ∧
    (let a := fresh 0xA1 3 0 [0, 0] (some (tile 0 2 3 0))
     mayStartB a (lay8 0) 0 [0, 0, 0, 0, 0, 0] = true ∧ shapeHolds a (layoutOf (lay8 0)) = false) ∧
    (let a := fresh 0xA3 3 0 [1, 2] (some (tile 0 2 2 0))
     mayStartB a (lay8 0) 0 [1, 2, 0, 0, 0, 0] = true ∧ shapeHolds a (layoutOf (lay8 0)) = true) := by decide +kernel

/-- PortEvents: a malformed record; an MX tile at the origin and elsewhere; a record to read by its header, a misaligned one;
`red.m` in its modes; `copy` between formats that agree and that differ; an `agen` and a `.gen` of a spent unit; a poisoned
store. -/
theorem witness_PortForms :
    (mayStartB (fresh 0xA0 0 0 [0, 0] none) 0 0 [0, 0, 0, 0, 0, 0] = true ∧ (layoutOf 0).malformed false = true) ∧
    (∀ op ∈ [0xA0, 0xA1], ∀ c ∈ [0, 1], let a := fresh op 3 5 [c] (some (tile 5 1 32 0))
      mayStartB a layMx 0 [c, 0, 0, 0, 0, 0] = true ∧ (layoutOf layMx).malformed true = false ∧ shapeHolds a (layoutOf layMx) = true ∧
        (layoutOf layMx).base + tileBytes 5 1 32 ≤ 2 ^ 56 ∧ fmtIsMx (layoutOf layMx).fmt = true) ∧
    (∀ c ∈ [0, 1], let a := { fresh 0xA0 0 0 [c] none with mod := 5 }
      a.isRec = true ∧ mayStartB a layRec 0 [c, 0, 0, 0, 0, 0] = true ∧ (layoutOf layRec).malformed false = false ∧
        (layoutOf layRec).fmt = 9 ∧ (layoutOf layRec).ndim = 1) ∧
    (∀ m ∈ [0, 1], let a := { fresh 0xA8 3 0 [0, 0] (some (tile 0 32 32 0)) with mod := m }
      mayStartB a (lay8 0) (lay8 12) [0, 0, 0, 0, 0, 0] = true ∧ (layoutOf (lay8 12)).fmt = 12 ∧ (layoutOf (lay8 12)).malformed false = false) ∧
    (∀ f ∈ [0, 11], let a := fresh 0xA6 0 0 [0, 0] (some (scal64 1))
      mayStartB a (lay8 0) (lay8 f) [0, 0, 0, 0, 0, 0] = true ∧ (layoutOf (lay8 f)).malformed false = false) ∧
    (let a := { fresh 0xA4 0 0 [] none with a := some (vect 11 (2 ^ 960 + 4)) }
     let s := atPort a []
     liveB s = true ∧ mayBegin (getRegion s r0) (getElem s e0) 0 a = true ∧ byteRange (a.a.getD {}).payload 120 1 = 1 ∧
       byteRange (a.a.getD {}).payload 121 7 = 0) ∧
    (let a : Access := { fresh 0xA0 0 0 [] none with mod := 1 }
     let s := atPort a []
     a.isGen = true ∧ liveB s = true ∧ mayBegin (getRegion s r0) (getElem s e0) 0 a = true ∧ a.coords = none ∧
       nestTuple ((lookupKey (getElem s e0).port.nests a.stream).getD {}) = none) ∧
    (let a : Access := { fresh 0xA1 0 0 [1, 1] (some (scal 0 7)) with poison := true }
     let s := atPort a []
     liveB s = true ∧ mayBegin (getRegion s r0) (getElem s e0) 0 a = true ∧ a.isStore = true ∧ a.isLoad = false ∧ a.isGen = false ∧
       (getRegion s r0).faultq.length < 32) := by decide +kernel

/-- PortEvents: the layout table's page is mapped, and is not; its line cannot be read; a unit with a tuple left. -/
theorem witness_PortLayouts :
    (let a := fresh 0xA0 0 0 [1, 1] none
     let s := paged (modRegion (atPort a []) r0 fun g => { g with imgAddr := 0x100000 })
     let x := portXlat s e0 { r := true } true (layoutVa (getRegion s r0) 0)
     liveB s = true ∧ cachedLayout (getElem s e0) (mdHandle a.desc) = none ∧ x.2.map Except.toOption = some (some 0x100000) ∧
       lineBad x.1 0x100000 = false ∧ x.1.softLines = [] ∧ lineBad { x.1 with badLines := [0x100000 / 64] } 0x100000 = true) ∧
    (let s := atPort (fresh 0xA0 0 0 [1, 1] none) []
     (portXlat s e0 { r := true } true (layoutVa (getRegion s r0) 0)).2.map Except.toOption = some none) ∧
    (let u : LoopNest := { prog := 2 ^ 960 + 4, v := [0, 0, 0, 0, 0, 0], exhausted := false }
     u.exhausted = false ∧ byteRange u.prog 120 1 = 1 ∧ byteRange u.prog 0 4 = 4 ∧ u.v.length = 6 ∧ nth u.v 0 0 < byteRange u.prog 0 4) := by
  decide +kernel

/-- A sequenced pour of one slot that takes the numbers 0 to nr − 1 of each round but those of its rank and cover. -/
def sequenced (nr : Nat) (rk : Nat × Nat) (a : List Access) : State :=
  let v : Variant := { foot := 0, pol := 4, force := 0, w := 1, h := 1, nr := nr, size := 0, carry := [], elems := [], routes := [] }
  ran 0 (fun g => { g with img := { npour := 1, pours := [[v]] } }) fun e => { e with cfg := { e.cfg with ranks := [rk] }, port := { accs := a } }

/-- SequencerEvents: a request of the frontier's number, and of one before it; one whose number another request takes; the
header of an `ld.rec`; a frontier that no slot covers, with one that covers the next number, and with none. -/
theorem witness_SequencerEvents :
    (let a : Access := { acc 0xA0 { els := el } with seq := true, seqo := 0, seqs := 1 }
     let s := sequenced 4 (0, 1) [a]
     Live s e0 ∧ getAccess s e0 0 = some a ∧ a.reaches = true ∧ a.known = true ∧ a.ordered = false ∧ a.atSeq = false ∧
       a.seqo = (getRegion s r0).frontier ∧ (getRegion s r0).seqClk ≠ some s.clk ∧ seqBefore a.seqo (getRegion s r0).frontier = false ∧
       ∀ x ∈ (Machine.getElem s e0).port.accs, x.id = a.id) ∧
    (let a : Access := { acc 0xA0 { els := el } with seq := true, seqo := 2 ^ 24 - 1 }
     let s := sequenced 4 (0, 1) [a]
     a.reaches = true ∧ a.atSeq = false ∧ a.seqo ≠ (getRegion s r0).frontier ∧ seqBefore a.seqo (getRegion s r0).frontier = true) ∧
    (let a : Access := { acc 0xA0 { els := el } with seq := true, seqo := 2, seqs := 3, id := 1 }
     let s := sequenced 4 (0, 1) [a, { a with id := 2, atSeq := true }]
     a.reaches = true ∧ a.seqo ≠ (getRegion s r0).frontier ∧ seqBefore a.seqo (getRegion s r0).frontier = false ∧
       blocksMeet { a with id := 2, atSeq := true } a = true ∧ ({ a with atSeq := true } : Access).reaches = true) ∧
    (let a : Access := { acc 0xA0 { els := el } with seq := true, seqo := 0, mod := 5 }
     a.isRec = true ∧ a.reaches = true) ∧
    (let s := sequenced 4 (1, 1) []
     polSeq (getRegion s r0) = true ∧ slotCovers (getRegion s r0) 0 = false ∧ slotCovers (getRegion s r0) 1 = true) ∧
    (let s := sequenced 4 (0, 0) []
     polSeq (getRegion s r0) = true ∧ (List.range 5).all (fun n => !slotCovers (getRegion s r0) n) = true) := by
  refine ⟨⟨live_of ?_, ?_⟩, ?_⟩ <;> decide +kernel

end Sys2Proof.Tests
end

