-- ==== Sys2Proof/Tests/WitnessFabric.lean ====
section
/-! SUPPORT. For each statement about the fabric instructions, states and operands that meet its hypotheses, clause by clause. -/

namespace Sys2Proof.Tests
open Sys2Proof.Machine
set_option Elab.async false

theorem lanesUp_of {s : State} {r : Rgn} (h : s.lanes = List.replicate 72 {}) : LanesUp s r := by
  intro l hl b hb
  rw [h, List.mem_replicate] at hl
  rw [hl.2] at hb
  cases hb

/-- A region in a state of the controller, its image with two pours of one full variant each. -/
def rst (st : Nat) : Region :=
  let v : Variant := { foot := 0, pol := 0, force := 0, w := 4, h := 4, nr := 1, size := 0, carry := [], elems := [], routes := [] }
  { st := st, img := { npour := 2, pours := [[v], [v]] }, elems := [{}] }

/-- The region in handle 0 that register 1 (0) names. -/
theorem free_of {s : State} (hb : (curCore s).buf = []) (hp : curPart s = 0) (hl : (getRegion s r0).load = false)
    (hc : (getRegion s r0).cutp = false) (hs : saving (getRegion s r0) = false) : Free s 0 r0 :=
  ⟨hb, by decide, by rw [hp]; rfl, hl, hc, hs⟩

/-- FabricLifecycle: `arm` of a DONE region; `arm.off` in each of its states; `arm` of a region
that has shrunk; `pour` of the last pour; `launch` with the greatest id. -/
theorem witness_FabricLifecycle :
    (let s := withRegion (rst 4)
     Free s (kreg s 1) r0 ∧ (getRegion s r0).st = 4 ∧ armFoot (getRegion s r0) = (getRegion s r0).foot) ∧
    (∀ n ∈ [1, 4, 5, 6], let s := withRegion (rst n)
     Free s (kreg s 1) r0 ∧ (getRegion s r0).st = n) ∧
    (∀ n ∈ [1, 2, 3, 5], let s := regs (withRegion (rst n)) [(2, 1)]
     Free s (kreg s 1) r0 ∧ (getRegion s r0).st = n ∧ (kreg s 2).toNat < (getRegion s r0).img.npour) ∧
    (let s := regs (withRegion (rst 1)) [(2, 2 ^ 32 - 1)]
     Free s (kreg s 1) r0 ∧ (getRegion s r0).st = 1 ∧ (kreg s 2).toNat ≠ 0 ∧ (kreg s 2).toNat < 2 ^ 32 ∧ LanesUp s r0 ∧
       ∀ e ∈ (getRegion s r0).elems, e.badCtrl = none) ∧
    (let s := withRegion { rst 4 with foot := 1 }
     armFoot (getRegion s r0) ≠ (getRegion s r0).foot ∧ growHeld s r0 (getRegion s r0) 0 (armFoot (getRegion s r0)) = false) := by
  refine ⟨⟨free_of ?_ ?_ ?_ ?_ ?_, ?_, ?_⟩, ?_, ?_, ⟨free_of ?_ ?_ ?_ ?_ ?_, ?_, ?_, ?_, lanesUp_of rfl, ?_⟩, ?_⟩
  all_goals first | decide +kernel | skip
  · intro n hn
    simp only [List.mem_cons, List.not_mem_nil, or_false] at hn
    rcases hn with rfl | rfl | rfl | rfl <;> exact ⟨free_of (by decide +kernel) (by decide +kernel) (by decide +kernel) (by decide +kernel) (by decide +kernel), by decide +kernel⟩
  · intro n hn
    simp only [List.mem_cons, List.not_mem_nil, or_false] at hn
    rcases hn with rfl | rfl | rfl | rfl <;>
      exact ⟨free_of (by decide +kernel) (by decide +kernel) (by decide +kernel) (by decide +kernel) (by decide +kernel), by decide +kernel, by decide +kernel⟩

/-- FabricControl: each state in which the controller accepts; a page at the end of the address space; footprint 0 of the pour
that follows. -/
theorem witness_FabricControl :
    (∀ n ∈ [2, 3, 5], let s := regs (withRegion (rst n)) [(2, 1), (3, 2 ^ 56 - 4096)]
     Free s (kreg s 1) r0 ∧ (getRegion s r0).st = n ∧ (kreg s 2).toNat < 2 ∧ LanesUp s r0 ∧
       (∀ e ∈ (getRegion s r0).elems, e.badCtrl = none) ∧ (kreg s 3).toNat % 4096 = 0 ∧ (kreg s 3).toNat < 2 ^ 56) ∧
    (∀ n ∈ [2, 3], let s := withRegion (rst n)
     Free s (kreg s 1) r0 ∧ (getRegion s r0).st = n ∧ (kreg s 2).toNat < 3 ∧ (getRegion s r0).pour + 1 < (getRegion s r0).img.npour ∧
       ∀ vs ∈ (getRegion s r0).img.pours.drop ((getRegion s r0).pour + 1), ∃ x ∈ vs, x.foot = (kreg s 2).toNat) := by
  constructor
  · intro n hn
    simp only [List.mem_cons, List.not_mem_nil, or_false] at hn
    rcases hn with rfl | rfl | rfl <;>
      exact ⟨free_of (by decide +kernel) (by decide +kernel) (by decide +kernel) (by decide +kernel) (by decide +kernel), by decide +kernel, by decide +kernel,
        lanesUp_of rfl, by decide +kernel, by decide +kernel, by decide +kernel⟩
  · intro n hn
    simp only [List.mem_cons, List.not_mem_nil, or_false] at hn
    rcases hn with rfl | rfl <;>
      exact ⟨free_of (by decide +kernel) (by decide +kernel) (by decide +kernel) (by decide +kernel) (by decide +kernel), by decide +kernel, by decide +kernel,
        by decide +kernel, by decide +kernel⟩

/-- The header of a saved area at 0x2000 with a shape of 4 × 4. -/
def headed (s : State) : State :=
  { s with hbm := s.hbm.takeWhile (fun x => x.1 < 0x2000) ++ [(0x2020, 4), (0x2022, 4)] ++ s.hbm.filter (fun x => 0x2000 ≤ x.1) }

/-- FabricLoads: an image header at 0x2000 of shape 4 × 4, for a handle that is UNARMED; the same as a saved area, for one that
is SAVED. -/
theorem witness_FabricLoads :
    (let s := regs (headed (paged State.reset)) [(1, 0x2000), (2, 0)]
     (curCore s).buf = [] ∧ (getRegion s r0).st = 0 ∧ regionBusy (getRegion s r0) = false ∧ placeOk 0 = true ∧ curPart s = 0 ∧
       peekShape s 0 0x2000 = some (4, 4) ∧ placeDenied s r0 0 4 4 = false ∧ infuserBusy s 0 0 = false) ∧
    (let s := regs (headed (paged (withRegion { st := 6 }))) [(1, 0), (2, 0x2000)]
     (getRegion s r0).st = 6 ∧ regionBusy (getRegion s r0) = false ∧ (saveHeader s 0 0x2000).map (fun x => (byteRange x 0x20 2, byteRange x 0x22 2)) =
       some (4, 4) ∧ shapeDiffers 0 4 4 = false ∧ placeDenied s r0 0 4 4 = false ∧ infuserBusy s 0 0 = false) := by decide +kernel

/-- A region with one element at e(1,0) and a channel 3 from the kettle cores. -/
def injected (st : Nat) : Region :=
  let v : Variant := { foot := 0, pol := 0, force := 0, w := 4, h := 4, nr := 1, size := 0, carry := [], elems := [(0, 1, 0, {})], routes := [] }
  { st := st, img := { npour := 1, pours := [[v]] }, elems := [{ x := 1, consts := List.replicate 32 0 }],
    chans := [{ num := 3, src := .inj, quota := 1 }] }

/-- FabricData: `argw` in each of its states on slot 31; `inj` of a scalar image at the last place of local memory; `fltq` with
a record and without. -/
theorem witness_FabricData :
    (∀ n ∈ [1, 2, 3, 5], let s := regs (withRegion (injected n)) [(2, 2 ^ 11 + 31 * 2 ^ 6)]
     let g := getRegion s r0
     let k := (kreg s 2).toNat
     let wd := nth (nth g.elems 0 {}).cfg.slots (bits k 10 6) 0xFF00000FFFE00000
     Free s (BitVec.ofNat 64 (k % 64)) r0 ∧ g.st = n ∧ k < 2 ^ 26 ∧
       (g.elems.findIdx? fun e => e.x == bits k 18 11 && e.y == bits k 24 19 && e.kind == b2n (bit k 25)) = some 0 ∧
       0 < (curVariant g).elems.length ∧ descFault g.img (opCode wd).toNat (opFields wd) 0 = 0) ∧
    (let s := lstore (regs (withRegion (injected 1)) [(1, 0x7FF80)]) 0x7FF80 8 (3 * 2 ^ 53 + 2 ^ 32)
     let q := tokenImage (curCore s).lmem 0x7FF80
     Free s (kreg s 3) r0 ∧ (kreg s 1).toNat % 128 = 0 ∧ 0x7FF80 + q.2 ≤ 0x80000 ∧ localBadIn s 0x7FF80 q.2 = false ∧
       imageHdrOk q.1.hdr = true ∧ ∃ c, ((getRegion s r0).chans.find? fun (c : Chan) => c.num == q.1.hdr.chan && c.src == .inj) = some c ∧
         chanTakes c q.1.hdr = true ∧ c.reserved + c.outstanding < c.quota) ∧
    (let s := regs (withRegion { st := 5, faultq := [7] }) [(2, 0x7FFC0), (3, 63)]
     (kreg s 2).toNat % 64 = 0 ∧ (kreg s 2).toNat < 0x80000 ∧ (getRegion s ⟨curPart s, 0⟩).faultq = 7 :: [] ∧
       (getRegion s ⟨curPart s, (kreg s 3).toNat⟩).faultq = []) := by
  refine ⟨?_, ⟨free_of (by decide +kernel) (by decide +kernel) (by decide +kernel) (by decide +kernel) (by decide +kernel), by decide +kernel, by decide +kernel,
    by decide +kernel, by decide +kernel, { num := 3, src := .inj, quota := 1 }, by decide +kernel, by decide +kernel, by decide +kernel⟩, by decide +kernel⟩
  intro n hn
  simp only [List.mem_cons, List.not_mem_nil, or_false] at hn
  rcases hn with rfl | rfl | rfl | rfl <;>
    exact ⟨free_of (by decide +kernel) (by decide +kernel) (by decide +kernel) (by decide +kernel) (by decide +kernel), by decide +kernel, by decide +kernel,
      by decide +kernel, by decide +kernel, by decide +kernel⟩

/-- FabricData: a line of local memory that cannot be read, for `inj` and for `fltq`. -/
theorem witness_FabricData_bad :
    let s := setCore (core [(1, 0x1000)]) { curCore (core [(1, 0x1000)]) with badLocal := [0x40] }
    (curCore s).buf = [] ∧ (kreg s 1).toNat % 128 = 0 ∧ (kreg s 1).toNat + (tokenImage (curCore s).lmem 0x1000).2 ≤ 0x80000 ∧
      localBadIn s 0x1000 (tokenImage (curCore s).lmem 0x1000).2 = true ∧ localBadIn s 0x1000 64 = true := by decide +kernel

/-- FabricRefusals: handle 64; a region that loads, one that is being cut, one that is being saved; one that is UNARMED. -/
theorem witness_FabricRefusals :
    fabricForm (core [(1, 64)]) (.kArm 3 1) = some (3, 64, [4]) ∧ (curCore (core [(1, 64)])).buf = [] ∧
    saving (getRegion (withRegion { st := 5, job := some (.save 0) }) r0) = true ∧
    (getRegion (withRegion { load := true }) r0).load = true ∧ (getRegion (withRegion { st := 2, cutp := true }) r0).cutp = true ∧
    (let g := getRegion State.reset r0
     g.load = false ∧ g.cutp = false ∧ saving g = false ∧ ∀ i ∈ [Instr.kArm 3 1, .kLaunch 3 1 2, .kEvict 3 1 2],
       (fabricForm State.reset i).any (fun x => !x.2.2.contains g.st) = true) := by decide +kernel

end Sys2Proof.Tests
end

