-- ==== Sys2Proof/Tests/WitnessFirings.lean ====
section
/-! SUPPORT. For each statement about the firings of an element, candidates that meet its hypotheses, clause by clause. The words name the operand
sources; the format record of each is f0. -/

namespace Sys2Proof.Tests
open Sys2Proof.Machine
set_option Elab.async false

/-- The candidate of a state of region 0 with an element is chosen. -/
theorem chosen_of {s : State} {t : Nat} (h : s.focus = some (focus0 t)) (e : (getRegion s r0).elems ≠ []) : Chosen s (focus0 t) :=
  ⟨h, rfl, by show (0 : Nat) < 16; decide, List.length_pos_iff.mpr e⟩

/-- A word with the sources a, b and c in matched sets, and one with a alone, at MOD m and AUX x. -/
def abc (m x : Nat) : OpWord := opFields (BitVec.ofNat 64 (m * 2 ^ 52 + x))
def aOnly (m x : Nat) : OpWord := opFields (BitVec.ofNat 64 (m * 2 ^ 52 + x + 0x7FE00000))

/-- The candidate of a word of three operands under a record. -/
def c3 (rec_ k : Nat) (ops : List Token) : State := cand 0 [rec_, rec_, rec_, rec_] k 0 9 ops
/-- Its operand p. -/
def o3 (s : State) (p : Nat) : Opd := operandAt (getRegion s r0) (getElem s e0).ahead (abc 0 0) 0 9 p
/-- The format of its record. -/
def fmt3 (s : State) : Fmt := recFmt (nth (getElem s e0).cfg.fmts 0 0)

/-- The tag of region 0's candidate may pass. -/
def passing (s : State) : State := modRegion s r0 fun g => { g with pass := some (0, 0, 9) }

/-- ForwardedTokens: a control of 0, of 1 and a poisoned one; the greatest selector below N; a false, a true and a poisoned
control of `cmerge`; breaks disabled, and enabled with PASS. -/
theorem witness_ForwardedTokens :
    (let s := c3 0 0 [scal 0 5, scal 12 1, scal 12 0]
     Chosen s (focus0 9) ∧ (o3 s 1).poison = false ∧ (o3 s 1).low32 ≠ 0 ∧ (o3 s 1).low32 < (abc 0 2).imm12 % 64 ∧ (o3 s 2).poison = false ∧
       (o3 s 2).low32 = 0 ∧ (getRegion s r0).brken = false) ∧
    (let s := c3 0 0 [scal 0 5, scal 12 0, scal 12 1]
     Chosen s (focus0 9) ∧ (o3 s 1).poison = false ∧ (o3 s 1).low32 = 0 ∧ (o3 s 2).low32 ≠ 0) ∧
    (let s := c3 0 0 [scal 0 5, poisoned (scal 12 0) 7, poisoned (scal 12 0) 7]
     Chosen s (focus0 9) ∧ (o3 s 1).poison = true ∧ (o3 s 2).poison = true ∧ (o3 s 0).tok.isSome = true) ∧
    (let s := passing (modRegion (c3 0 0 [scal 0 5]) r0 fun g => { g with brken := true })
     (getRegion s r0).brken = true ∧ (getRegion s r0).pass = some (0, 0, 9)) := by
  refine ⟨⟨chosen_of rfl ?_, ?_⟩, ⟨chosen_of rfl ?_, ?_⟩, ⟨chosen_of rfl ?_, ?_⟩, ?_⟩ <;> decide +kernel

/-- The candidate without its operand a, or b. -/
def lacking (a b : Bool) (s : State) : State :=
  modElem s e0 fun e => { e with sets := e.sets.map fun m => { m with a := if a then none else m.a, b := if b then none else m.b } }

/-- ForwardedTokens: a poisoned control of `cmerge` with both sides there, with b alone, with neither; `merge` of b; a `pwait`
that names a launch. -/
theorem witness_ForwardedTokens_sides :
    (let s := c3 0 0 [scal 0 5, scal 0 6, poisoned (scal 12 0) 7]
     Chosen s (focus0 9) ∧ (getElem s e0).ahead.badWords = [] ∧ (abc 0 0).src 0 = 0 ∧ (abc 0 0).src 1 = 0 ∧ (abc 0 0).src 2 = 0 ∧
       (o3 s 2).tok.isSome = true ∧ (o3 s 2).poison = true ∧ (o3 s 0).tok.isSome = true) ∧
    (let s := lacking true false (c3 0 0 [scal 0 5, scal 0 6, poisoned (scal 12 0) 7])
     Chosen s (focus0 9) ∧ (o3 s 2).tok.isSome = true ∧ (o3 s 2).poison = true ∧ (o3 s 0).tok.isSome = false ∧ (o3 s 1).tok.isSome = true) ∧
    (let s := lacking true true (c3 0 0 [scal 0 5, scal 0 6, poisoned (scal 12 0) 7])
     Chosen s (focus0 9) ∧ (o3 s 2).poison = true ∧ (o3 s 0).tok.isSome = false ∧ (o3 s 1).tok.isSome = false) ∧
    (let f := { focus0 9 with mergeB := true }
     let s := { c3 0 7 [scal 0 5, scal 0 6] with focus := some f }
     s.focus = some f ∧ f.mergeB = true ∧ nth (getElem s e0).ahead.consts 0 0 % 2 ^ 32 ≠ 0) := by
  refine ⟨⟨chosen_of rfl ?_, ?_⟩, ⟨chosen_of rfl ?_, ?_⟩, ⟨chosen_of rfl ?_, ?_⟩, ?_⟩ <;> decide +kernel

/-- MadeTokens: a body 0; the count at its bound and below it, no bound; a data token, a poisoned one; PASS. -/
theorem witness_MadeTokens :
    (let s := cand 0 [0, 0, 0, 0] 0 2 9 [poisoned (scal 0 5) 7]
     let g := getRegion s r0
     Chosen s (focus0 9) ∧ (g.bodies.find? fun (x : BodySt) => x.desc.num == (aOnly 0 1).imm12 / 32 % 64) = some sampleBody ∧
       (aOnly 0 3).imm12 = 3 ∧ nth (getElem s e0).states 0 0 = 2 ∧ (o3 s 0).hdr.kind = 0 ∧ (o3 s 0).poison = true ∧
       nth (getElem s e0).consts 0 0 = 0) ∧
    (let s := passing (c3 0 0 [scal 0 5])
     Chosen s (focus0 9) ∧ (getRegion s r0).pass = some (0, 0, 9)) := by
  refine ⟨⟨chosen_of rfl ?_, ?_⟩, chosen_of rfl ?_, ?_⟩ <;> decide +kernel

/-- StoppingCandidates: a selector of N; no PASS; breaks enabled; heads of different kinds. -/
theorem witness_StoppingCandidates :
    (let s := modRegion (c3 0 0 [scal 0 5, scal 12 2]) r0 fun g => { g with brken := true }
     s.focus = some (focus0 9) ∧ (focus0 9).loc.part < 16 ∧ (focus0 9).mode = .data ∧ (o3 s 1).poison = false ∧ (abc 0 2).imm12 % 64 ≤ (o3 s 1).low32 ∧
       (getRegion s r0).pass ≠ some (0, 0, 9) ∧ (getRegion s r0).brken = true) ∧
    (let f : Focus := { focus0 9 with mode := .mismatch }
     let s := { c3 0 0 [] with focus := some f }
     s.focus = some f ∧ f.mode = .mismatch ∧ opCodeOf (.opAdd (abc 0 0)) = some (0x20, abc 0 0)) := by decide +kernel

/-- IntegerLanes and FloatLanes: a scalar and a vector of an integer and of a floating-point format; both values of IMM10[0]. -/
theorem witness_Lanes :
    (let s := c3 0x8000 0 [vect 8 1, vect 8 0x80, vect 8 5]
     Chosen s (focus0 9) ∧ (fmt3 s).isFloat = false ∧ (fmt3 s).isMx = false ∧ (abc 0 0x800).shape = 2) ∧
    (let s := c3 0xD000 0 [scal64 1, scal64 0, scal64 5]
     Chosen s (focus0 9) ∧ (fmt3 s).isFloat = false ∧ (fmt3 s).isMx = false ∧ bit (abc 0 1).imm10 0 = true ∧ bit (abc 0 0).imm10 0 = false) ∧
    (let s := c3 0x3000 0 [scal 3 0x38, scal 3 0x7F, scal 3 0]
     Chosen s (focus0 9) ∧ (fmt3 s).isFloat = true ∧ (abc 1 0).mod = 1 ∧ (abc 0 0).mod ≠ 1) := by
  refine ⟨⟨chosen_of rfl ?_, ?_⟩, ⟨chosen_of rfl ?_, ?_⟩, chosen_of rfl ?_, ?_⟩ <;> decide +kernel

/-- BitLanes: the select control as a constant of a scalar and of a vector firing, a scalar token and a vector token; the six
`shuf` forms. -/
theorem witness_BitLanes :
    (let s := c3 0xB000 0 [scal 11 1, scal 11 2]
     let w := opFields 0x400000
     Chosen s (focus0 9) ∧ (operandAt (getRegion s r0) (getElem s e0).ahead w 0 9 2).tok = none ∧ w.shape ≠ 2 ∧ (opFields 0x400800).shape = 2) ∧
    (let s := c3 0xB000 0 [scal 11 1, scal 11 2, scal 12 0]
     Chosen s (focus0 9) ∧ ∃ t, (o3 s 2).tok = some t ∧ t.hdr.pkind ≠ 2) ∧
    (let s := c3 0xB000 0 [vect 11 1, vect 11 2, vect 12 0]
     Chosen s (focus0 9) ∧ ∃ t, (o3 s 2).tok = some t ∧ t.hdr.pkind = 2) ∧
    (∀ m < 6, (abc m 0x800).mod = BitVec.ofNat 4 m) := by
  refine ⟨⟨chosen_of rfl ?_, ?_⟩, ⟨chosen_of rfl ?_, { hdr := { tag := 9, chan := 2, fmt := 12, vmask := 1 } }, ?_⟩,
    ⟨chosen_of rfl ?_, { hdr := { tag := 9, chan := 2, fmt := 12, pkind := 2, vmask := 1 } }, ?_⟩, ?_⟩ <;> decide +kernel

/-- ConvertedLanes: a record of each lane width; token operands whose formats exist; `.raw` and `expand` at their widths. -/
theorem witness_ConvertedLanes :
    (∀ r ∈ [0x8000, 0x1000, 0xB000, 0xD000], let s := c3 r 0 [scal 0 5]
     (fmt3 s).width ∈ [8, 16, 32, 64]) ∧
    (let s := c3 0x3000 0 [vect 9 0, vect 9 0]
     Chosen s (focus0 9) ∧ (fmt3 s).width = 8 ∧ (∃ t, (o3 s 0).tok = some t ∧ Fmt.ofCode t.hdr.fmt = some .uint8) ∧ (o3 s 1).tok.isSome = true ∧
       (abc 0 0x800).shape = 2) ∧
    (let s := c3 0xC000 0 [scal 12 0]
     Chosen s (focus0 9) ∧ (fmt3 s).isFloat = false ∧ (fmt3 s).width = 32 ∧ (abc 0 0).mod ≠ 1 ∧ (abc 1 0).mod = 1) := by
  refine ⟨by decide +kernel, ⟨chosen_of rfl ?_, ?_, ⟨{ hdr := { tag := 9, chan := 0, fmt := 9, pkind := 2, vmask := 1 } }, ?_⟩, ?_⟩, chosen_of rfl ?_, ?_⟩ <;>
    decide +kernel

/-- ConvertedLanes: `rand.unit`. Reductions: an extreme among numbers, with a NaN beside it in the form without `.nan`; a NaN
that decides, and a vector of NaNs alone. -/
theorem witness_FloatExtremes :
    let v (s : State) (k : Nat) : FVal := decodeF (fmt3 s).lay false ((o3 s 0).cell 32 k)
    (let s := c3 0 0 [scal 0 5]
     Chosen s (focus0 9) ∧ fmt3 s = .fp32 ∧ (abc 1 0).mod = 1) ∧
    (let s := c3 0 0 [vect 0 (0x3F800000 + 2 ^ 32 * 0x7FC00000)]
     Chosen s (focus0 9) ∧ (fmt3 s).isFloat = true ∧ 1024 / (fmt3 s).width = 32 ∧ (v s 0).isNan = false ∧ (abc 0 0).mod ≠ 1 ∧
       (∀ k < 32, (v s k).isNan = true ∨ ¬(v s 0).below (v s k)) ∧ (v s 1).isNan = true ∧ (∀ k < 1, (v s k).isNan = false) ∧ (abc 1 0).mod = 1) ∧
    (let s := c3 0 0 [vect 0 (fill 32 32 0x7FC00000)]
     Chosen s (focus0 9) ∧ (∀ k < 32, (v s k).isNan = true)) := by
  refine ⟨⟨chosen_of rfl ?_, ?_⟩, ⟨chosen_of rfl ?_, ?_⟩, chosen_of rfl ?_, ?_⟩ <;> decide +kernel

/-- Reductions: an integer vector with its greatest lane, a floating-point vector. -/
theorem witness_Reductions :
    (let s := c3 0xD000 0 [vect 13 5, vect 13 0]
     Chosen s (focus0 9) ∧ (fmt3 s).isFloat = false ∧ (fmt3 s).isMx = false ∧
       (∀ k < 16, intVal .int64 ((o3 s 0).cell 64 k) ≤ 5) ∧ intVal .int64 ((o3 s 0).cell 64 0) = 5 ∧
       (∀ k < 16, 0 ≤ intVal .int64 ((o3 s 0).cell 64 k)) ∧ intVal .int64 ((o3 s 0).cell 64 15) = 0) ∧
    (let s := c3 0 0 [vect 0 5, vect 0 0]
     Chosen s (focus0 9) ∧ (fmt3 s).isFloat = true) := by
  refine ⟨⟨chosen_of rfl ?_, ?_⟩, chosen_of rfl ?_, ?_⟩ <;> decide +kernel

/-- FunctionLanes and FunctionSpecials: a scalar at a special argument, a vector and a tile of the record's format. -/
theorem witness_Functions :
    (let s := c3 0 0 [scal 0 0xFF800000]
     Chosen s (focus0 9) ∧ fmt3 s = .fp32 ∧ (abc 0 0).shape < 2 ∧ (abc 0 0).sat = false ∧ (o3 s 0).cell 32 0 = 0xFF800000 ∧
       (Instr.opExp (abc 0 0), 0x80) ∈ functionOps (abc 0 0)) ∧
    (let s := c3 0 0 [tile 0 2 2 0]
     Chosen s (focus0 9) ∧ (fmt3 s).isFloat = true ∧ (abc 0 0xC00).shape = 3 ∧ ∃ t, (o3 s 0).tok = some t ∧ Fmt.ofCode t.hdr.fmt = some (fmt3 s)) := by
  refine ⟨⟨chosen_of rfl ?_, ?_⟩, chosen_of rfl ?_, ?_, ?_,
    { hdr := { tag := 9, chan := 0, fmt := 0, pkind := 3, vmask := 0xFFFF, trows := 2, tcols := 2, vrows := 2, vcols := 2 } }, ?_⟩ <;> decide +kernel

/-- BankOps: the stored shapes of `mma` and of the transposed forms; a release whose count is reached, not reached, and without
a bound. -/
theorem witness_BankOps :
    (let s := c3 0x2000 0 [tile 2 32 32 0, tile 2 32 32 0]
     Chosen s (focus0 9) ∧ matrixK (fmt3 s) = 32 ∧ (o3 s 0).hdr.trows = 32 ∧ (o3 s 0).hdr.tcols = 32 ∧ (o3 s 1).hdr.trows = 32 ∧ (o3 s 1).hdr.tcols = 32 ∧
       Fmt.ofCode (o3 s 0).hdr.fmt = some (fmt3 s) ∧ Fmt.ofCode (o3 s 1).hdr.fmt = some (fmt3 s)) ∧
    (let s := c3 0x5000 0 [tile 5 32 128 0, tile 5 32 128 0]
     Chosen s (focus0 9) ∧ matrixK (fmt3 s) = 128 ∧ (o3 s 0).hdr.tcols = 128 ∧ (o3 s 1).hdr.tcols = 128 ∧ Fmt.ofCode (o3 s 0).hdr.fmt = some (fmt3 s)) ∧
    (let s := cand 0 [0, 0, 0, 0] 0 2 9 [scal 0 5]
     Chosen s (focus0 9) ∧ (nth (getElem s e0).states 0 0 % 2 ^ 32 + 1) % 2 ^ 32 = (abc 0 3).imm10 ∧ (abc 0 3).imm10 ≠ 0 ∧
       (nth (getElem s e0).states 0 0 % 2 ^ 32 + 1) % 2 ^ 32 ≠ (abc 0 4).imm10 ∧ (abc 0 0).imm10 = 0 ∧ nth (getElem s e0).consts 0 0 = 0) := by
  refine ⟨⟨chosen_of rfl ?_, ?_⟩, ⟨chosen_of rfl ?_, ?_⟩, chosen_of rfl ?_, ?_⟩ <;> decide +kernel

/-- BankOps: an INT8 product; one of numbers on a bank cell that is a number. TileElementwise: a scalar as the second operand; a
tile of 32 columns for an MX record, and of 33; an MX tile. -/
theorem witness_BankCells :
    (let s := c3 0x8000 0 [tile 8 32 64 1, tile 8 32 32 1]
     Chosen s (focus0 9) ∧ fmt3 s = .int8 ∧ matrixK (fmt3 s) = (o3 s 0).hdr.tcols ∧ (getElem s e0).ahead.badWords = []) ∧
    (let s := c3 0x2000 0 [tile 2 32 32 0, tile 2 32 32 0]
     (fmt3 s).isFloat = true ∧ (decodeF layFp32 false ((nth (getElem s e0).banks 0 {}).cell 0 0)).isNan = false ∧
       (∀ k < 32, (decodeF (fmt3 s).lay false (lane 16 ((o3 s 0).tok.getD {}).payload k)).isNan = false) ∧
       recNfp (nth (getElem s e0).cfg.fmts 0 0) = false) ∧
    (let s := lacking false true (c3 0 0 [tile 0 32 32 0, tile 0 32 32 0])
     Chosen s (focus0 9) ∧ (o3 s 1).tok.isSome = false ∧ (o3 s 0).tok.isSome = true ∧ (fmt3 s).isMx = false ∧
       (o3 s 0).hdr.vrows ≤ (o3 s 0).hdr.trows ∧ (o3 s 0).hdr.vcols ≤ (o3 s 0).hdr.tcols) ∧
    (let s := c3 0x6000 0 [tile 0 2 32 0]
     Chosen s (focus0 9) ∧ (fmt3 s).isMx = true ∧ tileBytes (fmt3 s).code 2 32 ≤ 4096 ∧ (o3 s 0).hdr.tcols % 32 = 0 ∧
       (o3 s 0).hdr.vcols ≤ (o3 s 0).hdr.tcols ∧ (tile 0 2 33 0).hdr.tcols % 32 ≠ 0) ∧
    (let s := c3 0 0 [tile 6 2 32 0]
     Chosen s (focus0 9) ∧ (fmt3 s).isMx = false ∧ Fmt.ofCode (o3 s 0).hdr.fmt = some .mxe4m3 ∧ (Fmt.mxe4m3).isMx = true) := by
  refine ⟨⟨chosen_of rfl ?_, ?_⟩, ?_, ⟨chosen_of rfl ?_, ?_⟩, ⟨chosen_of rfl ?_, ?_⟩, chosen_of rfl ?_, ?_⟩ <;> decide +kernel

/-- TileElementwise: tiles of equal shape of a floating-point and an integer format, of different shapes; 32 and 33 columns; a
result of 4,096 bytes and one above. -/
theorem witness_TileElementwise :
    (let s := c3 0 0 [tile 0 32 32 0, tile 0 32 32 0]
     Chosen s (focus0 9) ∧ (fmt3 s).isFloat = true ∧ (fmt3 s).isMx = false ∧ (o3 s 0).hdr.trows = (o3 s 1).hdr.trows ∧ (o3 s 0).hdr.tcols = (o3 s 1).hdr.tcols ∧
       (o3 s 0).hdr.tcols ≤ 32 ∧ tileBytes (fmt3 s).code (o3 s 0).hdr.trows (o3 s 0).hdr.tcols = 4096 ∧ (o3 s 0).tok.isSome = true ∧ (o3 s 1).tok.isSome = true) ∧
    (let s := c3 0xB000 0 [tile 8 32 33 0, tile 8 32 32 0]
     Chosen s (focus0 9) ∧ (fmt3 s).isFloat = false ∧ (o3 s 0).hdr.tcols ≠ (o3 s 1).hdr.tcols ∧ 32 < (o3 s 0).hdr.tcols ∧
       4096 < tileBytes (fmt3 s).code (o3 s 0).hdr.trows (o3 s 0).hdr.tcols) := by
  refine ⟨⟨chosen_of rfl ?_, ?_⟩, chosen_of rfl ?_, ?_⟩ <;> decide +kernel

/-- LocalMemory: the last offset of the resident area, and the next one; a stored tile of the descriptor's shape and of another;
a poisoned store. -/
theorem witness_LocalMemory : let w := abc 2 0
    (let s := c3 0 0 [scal 0 4092, scal 0 1, scal 0 0]
     Chosen s (focus0 9) ∧ (localLegs (gather s (focus0 9) w 0xA0)).isSome = true ∧ (localLegs (gather s (focus0 9) w 0xA1)).isSome = true ∧
       (gather s (focus0 9) w 0xA1).poison = false ∧ w.mod = 2 ∧ w.shape ≠ 3) ∧
    (let s := c3 0 0 [scal 0 4096, poisoned (scal 0 1) 7, scal 0 0]
     Chosen s (focus0 9) ∧ localLegs (gather s (focus0 9) w 0xA0) = none ∧ localLegs (gather s (focus0 9) w 0xA1) = none ∧
       (gather s (focus0 9) w 0xA1).poison = true) ∧
    (let s := c3 0 0x82 [scal 0 0, tile 0 2 2 0]
     (abc 2 0xC00).shape = 3 ∧ (o3 s 1).hdr.trows = bits (nth (getElem s e0).consts 0 0) 5 0 ∧ (o3 s 1).hdr.tcols = bits (nth (getElem s e0).consts 0 0) 13 6) ∧
    (let s := c3 0 0x82 [scal 0 0, tile 0 2 3 0]
     (o3 s 1).hdr.tcols ≠ bits (nth (getElem s e0).consts 0 0) 13 6) := by
  refine ⟨⟨chosen_of rfl ?_, ?_⟩, ⟨chosen_of rfl ?_, ?_⟩, ?_⟩ <;> decide +kernel

/-- A word with a matched and b by its head, of a tile, in MOD m. -/
def bHead (m : Nat) : OpWord := opFields (BitVec.ofNat 64 (m * 2 ^ 52 + 0x4000C00))
/-- Its candidate, whose head b is EOS: the operand is the slot constant. -/
def padB (k : Nat) : State := cand 0x4000C00 [0, 0, 0, 0] k 0 9 [scal 0 0, { hdr := { kind := 1 } }]

/-- LocalMemory: the two legs and the four at their alignment, one that misses it, and a tile that is not of 512 bytes; a slot
constant to store. PortAccesses: the same. -/
theorem witness_LocalLegs :
    (let s := c3 0 (16 + 8 * 2 ^ 6 + 9 * 2 ^ 14) [scal 0 0, tile 0 16 8 0]
     Chosen s (focus0 9) ∧ (abc 3 0xC00).shape = 3 ∧ (localLegs (gather s (focus0 9) (abc 3 0xC00) 0xA0)) = some [(0, 256), (512, 256)] ∧
       (localLegs (gather s (focus0 9) (abc 4 0xC00) 0xA1)).map (·.length) = some 4) ∧
    (let s := c3 0 (16 + 8 * 2 ^ 6 + 9 * 2 ^ 14) [scal 0 512, tile 0 16 8 0]
     localLegs (gather s (focus0 9) (abc 3 0xC00) 0xA0) = none) ∧
    (let s := c3 0 (16 + 4 * 2 ^ 6 + 9 * 2 ^ 14) [scal 0 0, tile 0 16 4 0]
     localLegs (gather s (focus0 9) (abc 3 0xC00) 0xA0) = none) ∧
    (let s := padB (16 + 8 * 2 ^ 6 + 9 * 2 ^ 14)
     let b := operandAt (getRegion s r0) (getElem s e0).ahead (bHead 2) 0 9 1
     Chosen s (focus0 9) ∧ b.tok.isNone = true ∧ b.pad.isSome = true ∧ (localLegs (gather s (focus0 9) (bHead 2) 0xA1)).isSome = true) := by
  refine ⟨⟨chosen_of rfl ?_, ?_⟩, ?_, ?_, chosen_of rfl ?_, ?_⟩ <;> decide +kernel

/-- The port's cache holds the record of handle 0: 8 × 8 FP32 at 0x100000 with a box of 2 × 2 (Table 8.4). -/
def boxed (s : State) : State :=
  let rec_ := 2 * 2 ^ 464 + 2 * 2 ^ 448 + 32 * 2 ^ 256 + 2 ^ 224 + 2 ^ 192 + 2 ^ 160 + 2 ^ 128 + 8 * 2 ^ 96 + 8 * 2 ^ 64 + 2 * 2 ^ 57 + 0x100000
  modElem s e0 fun e => { e with port := { e.port with layc := [(0, rec_)] } }

/-- PortAccesses: stored tokens that fit, a tile that differs from the box of its record; a whole tile of `red.m.acc` and
another. -/
theorem witness_PortAccesses :
    (let s := c3 0 0 [scal 0 0, scal 0 5]
     Chosen s (focus0 9) ∧ shapeFits (o3 s 1).hdr (abc 0 0).shape (layoutAtIssue s e0 0) = true ∧ (abc 0 0).mod = 0 ∧
       ¬((o3 s 1).hdr.trows = 32 ∧ (o3 s 1).hdr.tcols = 32)) ∧
    (let s := boxed (c3 0 0 [scal 0 0, tile 0 2 3 0])
     Chosen s (focus0 9) ∧ shapeFits (o3 s 1).hdr (abc 0 0xC00).shape (layoutAtIssue s e0 0) = false) ∧
    (let s := boxed (c3 0 0 [scal 0 0, tile 0 2 2 0])
     shapeFits (o3 s 1).hdr (abc 0 0xC00).shape (layoutAtIssue s e0 0) = true) ∧
    (let s := c3 0 0 [scal 0 0, tile 0 32 32 0]
     Chosen s (focus0 9) ∧ (o3 s 1).hdr.trows = 32 ∧ (o3 s 1).hdr.tcols = 32) := by
  refine ⟨⟨chosen_of rfl ?_, ?_⟩, ⟨chosen_of rfl ?_, ?_⟩, ?_, chosen_of rfl ?_, ?_⟩ <;> decide +kernel

/-- GaugeAndNear: `gset` and its `.clr`; a tile to filter; a record that fits its place and one that does not; TARGET 0 and
above. -/
theorem witness_GaugeAndNear :
    (let s := c3 0xB000 0x20001 [tile 11 3 1 5, scal 11 2, scal 0 0]
     Chosen s (focus0 9) ∧ (abc 0 0).mod ≠ 1 ∧ (abc 1 0).mod = 1 ∧ (o3 s 0).tok.isSome = true ∧ beatsOf (o3 s 0).hdr = 2 ∧
       beatsOf (o3 s 0).hdr ≤ bits (nth (getElem s e0).consts 0 0) 21 16) ∧
    (let s := c3 0xB000 0x10001 [tile 11 3 1 5, scal 11 2, scal 0 0]
     Chosen s (focus0 9) ∧ bits (nth (getElem s e0).consts 0 0) 21 16 < beatsOf (o3 s 0).hdr) ∧
    ({ target := 0 } : Gauge).target = 0 ∧ ({ target := 1, count := 1 } : Gauge).target ≠ 0 := by
  refine ⟨⟨chosen_of rfl ?_, ?_⟩, ⟨chosen_of rfl ?_, ?_⟩, ?_⟩ <;> decide +kernel

/-- ElementFrame: a firing that joins, of a matched a and of b and c by heads that lead the FIFOs of their own channels. -/
theorem witness_ElementFrame :
    let w := opFields 0x4200000
    let s := cand 0x4200000 [0xB000, 0xB000, 0xB000, 0xB000] 0 0 9 [scal 11 1, scal 11 2, scal 11 3]
    let e := getElem s e0
    Chosen s (focus0 9) ∧ opCodeOf (.opMad w) = some (0x23, w) ∧
      after (exec (.opMad w) s) (fun t => (getElem t e0).pending == (getElem s e0).pending ++ ((getElem t e0).pending.getLast?).toList) = true ∧
      (w.src 0 = 0 ∧ w.src 1 = 1 ∧ w.src 2 = 1) ∧
      ([1, 2].all fun p => match heldAt e w 0 9 p with | some h => (headsOf e h.tok.hdr.chan).head? == some h | none => false) = true ∧
      ([1, 2].map fun p => (heldAt e w 0 9 p).map fun h => h.tok.hdr.chan) = [some 1, some 2] ∧
      (e.sets.filter fun m => m.slot == 0 && m.tag == 9).length ≤ 1 := by
  refine ⟨chosen_of rfl ?_, ?_⟩ <;> decide +kernel

/-- ElementFrame and PoisonPropagates: a firing that issues; a poisoned operand; none, in an element without errors. -/
theorem witness_Poison :
    (let s := c3 0xB000 0 [scal 11 1, poisoned (scal 11 2) 7, scal 11 3]
     Chosen s (focus0 9) ∧ (o3 s 0).poison = false ∧ (o3 s 1).poison = true ∧ Instr.opMad (abc 0 0) ∈ laneOps (abc 0 0)) ∧
    (let s := c3 0xB000 0 [scal 11 1, scal 11 2, scal 11 3]
     Chosen s (focus0 9) ∧ (o3 s 0).poison = false ∧ (o3 s 1).poison = false ∧ (o3 s 2).poison = false ∧ (getElem s e0).badWords = [] ∧
       recNfp (nth (getElem s e0).cfg.fmts 0 0) = false ∧ opCodeOf (.opMad (abc 0 0)) = some (0x23, abc 0 0) ∧ e0.part < 16 ∧
       after (exec (.opMad (abc 0 0)) s) (fun _ => true) = true) := by
  refine ⟨⟨chosen_of rfl ?_, ?_⟩, chosen_of rfl ?_, ?_⟩ <;> decide +kernel

end Sys2Proof.Tests
end

