-- ==== Sys2Proof/Tests/WitnessHost.lean ====
section
/-! SUPPORT. For the statements about the scheduler, the host, the module, the step and its invariant, states that meet their hypotheses, clause by
clause. -/

namespace Sys2Proof.Tests
open Sys2Proof.Machine
set_option Elab.async false

/-- The bytes of a value at an address that do not read 0. -/
def cellsAt (pa n v : Nat) : List Host.Cell :=
  (List.range n).filterMap fun k => if v / 256 ^ k % 256 = 0 then none else some (pa + k, BitVec.ofNat 8 (v / 256 ^ k))

/-- A paged machine with a region in the handle 0, an entry 1 of the words ws in the dispatch table, which the scheduler has
noticed, and a gauge page at 0x200000. -/
def sched (g : Region) (ws : List Nat) (gauge : Nat) : State :=
  let s := headed (paged (withRegion g))
  let low := s.hbm.takeWhile fun x => x.1 < 0x100000
  let high := s.hbm.filter fun x => 0x200000 < x.1
  modPart { s with hbm := low ++ cellsAt 0x100080 128 (packLanes 64 ws) ++ cellsAt 0x200000 8 gauge ++ high } 0 fun q => { q with noticed := [1] }

/-- E0 of launch 9 in a state, with flags. -/
def e0w (st fl : Nat) : Nat := st * 2 ^ 56 + fl * 2 ^ 40 + 9

/-- No line of memory is in error. -/
def quietB (s : State) : Bool := s.badLines == [] && s.softLines == []

/-- Entry 1, of these words, is the one that the scheduler knows. -/
def chosen (s : State) (ws : List Nat) : Bool :=
  !(getPart s 0).inReset && knownEnts s 0 == [(1, ws)] && ws.length == 16 && (getPart s 0).noticed == [1] && quietB s

/-- Words of an entry: E0, image, place, gauge 3, gauge 4, generations, SAVE. -/
def ews (a b c d e f h : Nat) : List Nat := [a, b, c, d, e, f, 0, h, 0, 0, 0, 0, 0, 0, 0, 0]

/-- SchedulerEvents, the entries: one to notice; words of the table on HBM; PENDING, refused by its words and by its region;
WAITING, with a gauge that is away, with one that failed, and with its dependence met, its load accepted and refused. -/
theorem witness_SchedulerEvents_entries :
    (let s := setPart (sched {} (ews (e0w 1 0) 0x2000 0x200 0 0 0 0) 0) 0 { getPart (sched {} (ews (e0w 1 0) 0x2000 0x100000 0 0 0 0) 0) 0 with noticed := [] }
     (readEnt s 0 1).isSome = true ∧ 1 ∉ (getPart s 0).noticed ∧ (getPart s 0).noticed = []) ∧
    (let s := sched {} [] 0
     (xlatW s 0 (0x100000 + 128 * 1 + 8 * 10)).toOption = some 0x1000D0 ∧ inHbm 0x1000D0 = true ∧ (vread s 0 (0x100000 + 128 * 1) 8).toOption = some 0) ∧
    (let w := ews (e0w 1 0) 0x2001 0 0 0 0 0
     chosen (sched {} w 0) w = true ∧ entState w = 1 ∧ word w 1 % 4096 ≠ 0) ∧
    (let w := ews (e0w 1 0) 0x2000 0 0 0 0 0
     chosen (sched { st := 4 } w 0) w = true ∧ entState w = 1 ∧ entClean w = true ∧ entLaunch w ≠ 0 ∧ word w 7 % 4096 = 0 ∧ word w 6 % 16 = 0 ∧
       (getRegion (sched { st := 4 } w 0) r0).st ≠ 0) ∧
    (let w := ews (e0w 2 0) 0x2000 0 (2 ^ 32) 0 0 0
     chosen (sched {} w 0) w = true ∧ entState w = 2 ∧ word w 3 ≠ 0 ∧ (vread (sched {} w 0) 0 (word w 3) 8).toOption = none) ∧
    (let w := ews (e0w 2 0) 0x2000 0 0x200000 0 1 0
     let v := 2 ^ 32 + 1
     chosen (sched {} w v) w = true ∧ entState w = 2 ∧ word w 3 ≠ 0 ∧ word w 4 = 0 ∧ (vread (sched {} w v) 0 (word w 3) 8).toOption = some v ∧
       bits v 39 32 ≠ 0 ∧ (bits v 31 0 + 2 ^ 32 - 1) % 2 ^ 32 < 2 ^ 31) ∧
    (let w := ews (e0w 2 0) 0x2000 0x200 0x200000 0 1 0
     let s := sched {} w 1
     chosen s w = true ∧ entState w = 2 ∧ word w 4 = 0 ∧ (vread s 0 (word w 3) 8).toOption = some 1 ∧ bits 1 39 32 = 0 ∧ entAbort w = false ∧
       bits (word w 2) 27 0 ≠ 0 ∧ (iload s r0 (word w 1) (bits (word w 2) 27 0 + entRh w)).1 = 0) ∧
    (let w := ews (e0w 2 0) 0x2000 0x200 0 0 0 0
     let s := sched { st := 1 } w 0
     chosen s w = true ∧ entState w = 2 ∧ word w 3 = 0 ∧ word w 4 = 0 ∧ 2 ≤ (iload s r0 (word w 1) (bits (word w 2) 27 0 + entRh w)).1) := by
  refine ⟨?_, ?_, ?_, ?_, ?_, ?_, ?_, ?_⟩ <;> decide +kernel

/-- Entry 1, of PRIO 1 with these words, and entry 2, which loads, of a region that is UNARMED. -/
def second (g : Region) (ws : List Nat) (gauge : Nat) : State :=
  let s := sched g ws gauge
  let low := s.hbm.takeWhile fun x => x.1 < 0x100100
  let high := s.hbm.filter fun x => 0x100100 ≤ x.1
  modPart { s with hbm := low ++ cellsAt 0x100100 128 (packLanes 64 (ews (e0w 3 0 + 2 ^ 32) 0x2000 0x200 0 0 0 0)) ++ high } 0 fun q => { q with noticed := [2, 1] }

/-- SchedulerEvents, an entry of higher priority that has no action open: it has ended, its dependence is not met, it loads, is
ARMED with its controller BUSY or by HOLD, runs, or is loaded again; entry 2 then acts. -/
theorem witness_SchedulerEvents_rests :
    ∀ x ∈ ([(8, {}, 0), (2, {}, 0), (3, { load := true }, 0), (3, { st := 1, cutp := true }, 0), (4, { st := 1 }, 0), (5, { st := 4 }, 0), (6, { load := true }, 0)] :
        List (Nat × Region × Nat)),
      let w := ews (e0w x.1 0 + 2 ^ 48) 0x2000 0x200 0x200000 0 1 0
      let v := ews (e0w 3 0 + 2 ^ 32) 0x2000 0x200 0 0 0 0
      let s := second x.2.1 w x.2.2
      let g := getRegion s r0
      (getPart s 0).inReset = false ∧ quietB s = true ∧ knownEnts s 0 = [(2, v), (1, w)] ∧ entPrio v < entPrio w ∧ entAbort w = false ∧ entEarly w = false ∧
        entHold w = false ∧ entState w = x.1 ∧ entState v = 3 ∧ (getRegion s ⟨0, entRh v⟩).st = 0 ∧ (getRegion s ⟨0, entRh v⟩).failed = false ∧
        (x.1 = 2 → (vread s 0 (word w 3) 8).toOption = some 0 ∧ word w 4 = 0 ∧ 2 ^ 31 ≤ (0 + 2 ^ 32 - 1) % 2 ^ 32) ∧
        (x.1 = 3 → (g.st = 0 ∧ g.load = true) ∨ (g.st = 1 ∧ regionBusy g = true)) ∧ (x.1 = 4 → g.st = 1) ∧ (x.1 = 5 → g.st = 4) ∧
        (x.1 = 6 → g.st = 0 ∧ g.load = true) := by
  intro x hx
  simp only [List.mem_cons, List.not_mem_nil, or_false] at hx
  rcases hx with rfl | rfl | rfl | rfl | rfl | rfl | rfl <;> decide +kernel

/-- SchedulerEvents, the rest: an entry armed, with HOLD and without; one whose region runs; one whose region was disarmed; one
whose saved region is to come back; aborted ones; a grace that expires, for an entry that still waits and for one that does not,
without an area and with one; a DONE region, with KEEP and without; one of an EARLY entry whose dependence failed. -/
theorem witness_SchedulerEvents_regions :
    (∀ fl ∈ [0, 2], let w := ews (e0w 3 fl) 0x2000 0x200 0 0 0 0
     let s := sched { st := 1 } w 0
     chosen s w = true ∧ entState w = 3 ∧ entAbort w = false ∧ entEarly w = false ∧ (getRegion s r0).st = 1 ∧ entHold w = decide (fl = 2) ∧
       regionBusy (getRegion s r0) = false) ∧
    (∀ st ∈ [3, 4], let w := ews (e0w st 0) 0x2000 0x200 0 0 0 0
     let s := sched { st := 5 } w 0
     chosen s w = true ∧ entState w = st ∧ entAbort w = false ∧ entEarly w = false ∧ (getRegion s r0).st = 5) ∧
    (let w := ews (e0w 5 0) 0x2000 0x200 0 0 0 0
     let s := sched {} w 0
     chosen s w = true ∧ entState w = 5 ∧ (getRegion s r0).st = 0 ∧ (getRegion s r0).load = false) ∧
    (let w := ews (e0w 6 0) 0x2000 0x200 0 0 0 0x2000
     let s := sched { st := 6 } w 0
     chosen s w = true ∧ entState w = 6 ∧ (getRegion s r0).st = 6 ∧ bits (word w 2) 27 0 ≠ 0 ∧
       (rrestore s r0 (word w 7) (bits (word w 2) 27 0 + entRh w)).1 = 0) ∧
    (∀ st ∈ [0, 1, 2, 3, 5, 6], let w := ews (e0w 5 128) 0x2000 0x200 0 0 0 0
     let s := sched { st := st } w 0
     chosen s w = true ∧ entState w = 5 ∧ entAbort w = true ∧ regionBusy (getRegion s r0) = false ∧ (getRegion s r0).stopping = false ∧
       (getRegion s r0).st = st) ∧
    (∀ a ∈ [0, 0x3000], let w := ews (e0w 5 0) 0x2000 0x200 0 0 0 a
     let s := modPart (sched { st := 2, shrp := true } w 0) 0 fun q => { q with grace := [(1, 0)], graceFor := [(1, 1)] }
     (getPart s 0).grace = [(1, 0)] ∧ (getPart s 0).graceFor = [(1, 1)] ∧ entState w ≠ 2 ∧
       (∀ m, (1, m) ∉ (getPart (modPart s 0 fun q => { q with graceFor := [] }) 0).graceFor) ∧ readEnt s 0 1 = some w ∧ 0 ≤ s.ns ∧ (getRegion s ⟨0, entRh w⟩).shrp = true ∧ word w 7 = a ∧
       (getRegion s r0).st = 2 ∧ regionBusy (getRegion s r0) = false) ∧
    (∀ fl ∈ [0, 4], let w := ews (e0w 5 fl) 0x2000 0x200 0 0 0 0
     let s := sched { st := 4 } w 0
     1 ∈ (getPart s 0).noticed ∧ readEnt s 0 1 = some w ∧ entState w = 5 ∧ regionBusy (getRegion s ⟨0, entRh w⟩) = false ∧
       (getRegion s ⟨0, entRh w⟩).st = 4 ∧ entKeep w = decide (fl = 4) ∧ entEarly w = false) ∧
    (let w := ews (e0w 5 1) 0x2000 0x200 0x200000 0 1 0
     let v := 2 ^ 32 + 1
     let s := sched { st := 4 } w v
     1 ∈ (getPart s 0).noticed ∧ readEnt s 0 1 = some w ∧ entState w = 5 ∧ entEarly w = true ∧ word w 3 ≠ 0 ∧
       (vread s 0 (word w 3) 8).toOption = some v ∧ bits v 39 32 ≠ 0 ∧ (bits v 31 0 + 2 ^ 32 - 1) % 2 ^ 32 < 2 ^ 31 ∧
       (getRegion s ⟨0, entRh w⟩).st = 4 ∧ regionBusy (getRegion s ⟨0, entRh w⟩) = false) := by
  refine ⟨?_, ?_, ?_, ?_, ?_, ?_, ?_, ?_⟩
  all_goals first | decide +kernel | skip
  intro a ha
  simp only [List.mem_cons, List.not_mem_nil, or_false] at ha
  rcases ha with rfl | rfl <;>
    exact ⟨by decide +kernel, by decide +kernel, by decide +kernel, fun m h => (List.not_mem_nil (show ((1, m) : Nat × Nat) ∈ [] from h)).elim,
      by decide +kernel⟩

/-- An EARLY entry past WAITING whose gauge is away; entries whose load failed, or whose region another agent freed; an eviction
that is complete; a saved region that goes on, and one whose `rrestore` is refused; an EARLY entry whose dependence failed, of a
region that is DONE. -/
theorem witness_SchedulerEvents_past :
    (let w := ews (e0w 3 1) 0x2000 0x200 (2 ^ 32) 0 0 0
     let s := sched { st := 1 } w 0
     chosen s w = true ∧ entState w = 3 ∧ entEarly w = true ∧ ((depsOf s 0 w).1.cause <|> (depsOf s 0 w).2.cause).isSome = true) ∧
    (∀ x ∈ [(3, true), (3, false), (4, false)], let w := ews (e0w x.1 0) 0x2000 0x200 0 0 0 0
     let s := sched { failed := x.2 } w 0
     chosen s w = true ∧ entState w = x.1 ∧ entEarly w = false ∧ entAbort w = false ∧ (getRegion s r0).st = 0 ∧ (getRegion s r0).load = false ∧
       (getRegion s r0).failed = x.2) ∧
    (let w := ews (e0w 5 0) 0x2000 0x200 0 0 0 0x2000
     let s := modPart (sched { st := 6 } w 0) 0 fun q => { q with evicting := [1] }
     chosen s w = true ∧ entState w = 5 ∧ (getRegion s r0).st = 6 ∧ 1 ∈ (getPart s 0).evicting) ∧
    (∀ st ∈ [2, 6], let w := ews (e0w 6 0) 0x2000 0x200 0 0 0 0x2001
     let s := sched { st := st } w 0
     chosen s w = true ∧ entState w = 6 ∧ (getRegion s r0).st = st ∧ bits (word w 2) 27 0 ≠ 0 ∧
       (st = 6 → 2 ≤ (rrestore s r0 (word w 7) (bits (word w 2) 27 0 + entRh w)).1 ∧
         bits (word w 9) 39 32 ≠ (rrestore s r0 (word w 7) (bits (word w 2) 27 0 + entRh w)).1)) ∧
    (let w := ews (e0w 3 1) 0x2000 0x200 0x200000 0 1 0
     let v := 2 ^ 32 + 1
     let s := sched { st := 4 } w v
     chosen s w = true ∧ entState w = 3 ∧ entEarly w = true ∧ (getRegion s r0).st = 4 ∧ (vread s 0 (word w 3) 8).toOption = some v ∧
       bits v 39 32 ≠ 0 ∧ (bits v 31 0 + 2 ^ 32 - 1) % 2 ^ 32 < 2 ^ 31) := by
  refine ⟨?_, ?_, ?_, ?_, ?_⟩ <;> decide +kernel

/-- Entry 1 waits with PRIO 1 for a region of all eight dies; the region of entry 2, of PRIO 0, runs on die 0, and its next pour
has a footprint 1 or has not. -/
def crowded (small : Bool) : State :=
  let v (f : Nat) : Variant := { foot := f, pol := 0, force := 0, w := 1, h := 1, nr := 1, size := 0, carry := [], elems := [], routes := [] }
  let w1 := ews (e0w 2 0 + 2 ^ 48) 0x2000 0 0 0 0 0
  let w2 := ews (e0w 5 0 + 2 ^ 32) 0x2000 0x200 0 0 0 0x3000
  let s := paged (withRegion {})
  let s := setRegion s ⟨0, 1⟩ { st := 2, img := { regw := 1, regh := 1, npour := 2, pours := [[v 0], if small then [v 0, v 1] else [v 0]] } }
  let hdr := 0x474D494F4C494F4E + 2 ^ 256 * 160 + 2 ^ 272 * 40
  modPart { s with hbm := cellsAt 0x2000 64 hdr ++ cellsAt 0x100080 128 (packLanes 64 w1) ++ cellsAt 0x100100 128 (packLanes 64 w2) ++ s.hbm }
    0 fun q => { q with noticed := [1, 2] }

/-- SchedulerEvents, PREEMPT: a victim that can shrink, and one that is evicted. -/
theorem witness_SchedulerEvents_preempt : ∀ small ∈ [true, false],
    let s := crowded small
    let w := ews (e0w 2 0 + 2 ^ 48) 0x2000 0 0 0 0 0
    let v := (2, ews (e0w 5 0 + 2 ^ 32) 0x2000 0x200 0 0 0 0x3000)
    let h := getRegion s ⟨0, entRh v.2⟩
    (getPart s 0).inReset = false ∧ foremost entFirst (knownEnts s 0) = some (1, w) ∧ entState w = 2 ∧ entAbort w = false ∧ word w 3 = 0 ∧
      word w 4 = 0 ∧ bits (word w 2) 27 0 = 0 ∧ autoPlace s r0 (word w 1) = .none ∧ foremost victimFirst (victimsOf s 0 w) = some v ∧
      (getPart s 0).evicting = [] ∧ (getPart s 0).expired = [] ∧ (getPart s 0).grace = [] ∧ regionBusy h = false ∧ h.st = 2 ∧
      shrinkTo h = (if small then some 1 else none) ∧ word v.2 7 ≠ 0 := by decide +kernel

/-- A paged machine whose HBM also holds v at the address pa. -/
def keeps (pa n v : Nat) (s : State) : State :=
  let s := paged s
  { s with hbm := cellsAt pa n v ++ s.hbm }

/-- The partition of a state takes host accesses. -/
def hostUp (s : State) : Bool :=
  !(getPart s 0).inReset && s.bootst != 2 && (getPart s 0).posted == 0 && (getPart s 0).inbound == [] && !(getPart s 0).byLine

/-- The bytes at pa are HBM without errors. -/
def cleanB (s : State) (pa n : Nat) : Bool := (List.range n).all (fun k => inHbm (pa + k)) && s.badLines == [] && s.softLines == []

theorem cleanB_of {s : State} {pa n : Nat} (h : cleanB s pa n = true) :
    ∀ y, pa ≤ y → y < pa + n → (∃ st off, target y = .hbm st off) ∧ s.badLines.contains (y / 64) = false ∧ ∀ e ∈ s.softLines, e.1 ≠ y / 64 := by
  simp only [cleanB, Bool.and_eq_true, beq_iff_eq] at h
  intro y h1 h2
  refine ⟨?_, by simp [h.1.2], by simp [h.2]⟩
  have := List.all_eq_true.mp h.1.1 (y - pa) (by simp; omega)
  rw [show pa + (y - pa) = y from by omega] at this
  exact hbm_of this

/-- HostEvents, BAR2 and BAR0: a write performed (`cleanB_of` gives what the statement asks of its bytes), and one dropped in
each way; a read while the module boots, performed, and aborted in each way; an atomic, and a misaligned one; the registers; a
request taken line by line, and its first line, the last to come or not. -/
theorem witness_HostEvents_aperture :
    (let s := paged State.reset
     hostUp s = true ∧ (xlatW s 0 ((getPart s 0).apbase + 0x100FF8)).toOption = some 0x100FF8 ∧ (0x100FF8 : Nat) % 4096 + 8 ≤ 4096 ∧
       cleanB s 0x100FF8 8 = true ∧ (xlatR s 0 0x100FF8).toOption = some 0x100FF8 ∧ 0x100FF8 < 2 ^ 62) ∧
    (let s := paged State.reset
     ¬hostUp (modPart s 0 fun q => { q with inReset := true }) = true ∧ ¬hostUp { s with bootst := 2 } = true ∧
       256 ≤ (getPart (modPart s 0 fun q => { q with posted := 256 }) 0).posted ∧ ¬(0x100FF9 % 4096 + 8 ≤ 4096) ∧
       (xlatW s 0 (2 ^ 32)).toOption = none ∧ (xlatR s 0 (2 ^ 32)).toOption = none) ∧
    (let s := paged State.reset
     (xlat s 0 { r := true, w := true } 0x100FF8).toOption = some 0x100FF8 ∧ ownsHbm s 0 0x100FF8 = true ∧ 0x100FF8 % 8 = 0 ∧ 0x100FFA % 4 ≠ 0 ∧
       (s.badLines = [] ∧ s.softLines = [])) ∧
    (let s := modPart (paged State.reset) 0 fun q => { q with byLine := true }
     (getPart s 0).byLine = true ∧ (getPart s 0).posted + ((getPart s 0).inbound.filter fun x => x.write).length < 256 ∧
       (xlatW s 0 ((getPart s 0).apbase + 0x100FF8)).toOption = some 0x100FF8) ∧
    (∀ wr ∈ [true, false], ∀ rest ∈ [[], [0x4041]],
     let x : Inbound := { write := wr, va := 0x101038, pa := 0x101038, n := 16, data := if wr then 7 else 0, todo := 0x4040 :: rest }
     let s := modPart (paged State.reset) 0 fun q => { q with inbound := [x] }
     (getPart s 0).inbound = x :: [] ∧ x.todo = 0x4040 :: rest ∧ max x.pa (64 * 0x4040) < min (x.pa + x.n) (64 * 0x4040 + 64) ∧
       target (64 * 0x4040) = .hbm 0 0x101000 ∧ Memory.wf s.hbm = true ∧ x.win = none ∧ x.bad = false) := by
  refine ⟨?_, ?_, ?_, ?_, ?_⟩ <;> decide +kernel

/-- No walk meets a line in error where none is in error. -/
theorem walked_of {s : State} (hb : s.badLines = []) (hs : s.softLines = []) (p va : Nat) : logWalk s [] p va = s := by
  simp [logWalk, hb, hs]

/-- An ingress window. -/
def window (w0 w1 w2 : Nat) (g : Region) : State :=
  modPart (paged (withRegion g)) 0 fun q => { q with ingress := [(1, { w0 := w0, w1 := w1, w2 := w2 })] }

/-- The descriptor of `window`. -/
def win (w0 w1 w2 : Nat) : Ingress := { w0 := w0, w1 := w1, w2 := w2 }

/-- HostEvents, BAR4: a window that is closed, one that another requester may use; one open for 4 GiB without a gauge, with one,
and with one that no region has; a page that is not mapped; its descriptor. -/
theorem witness_HostEvents_ingress :
    (let s := window 0 0 0 {}
     hostUp s = true ∧ (lookupKey (getPart s 0).ingress 1).getD {} = win 0 0 0 ∧ bit (win 0 0 0).w0 63 = false ∧
       (xlatW s 0 (0x120000 + 64 * 1 + 24)).toOption = some 0x120058 ∧ inHbm 0x120058 = true ∧
       (vread s 0 (0x120000 + 64 * 1) 24).toOption = some 0) ∧
    (let x := win (2 ^ 63) (2 ^ 32) (2 ^ 63 + 7 * 2 ^ 40)
     bit x.w0 63 = true ∧ bit x.w2 63 = true ∧ bits x.w2 55 40 ≠ 8) ∧
    (∀ w2 ∈ [0, 2 ^ 31 + 64, 2 ^ 31], let s := window (2 ^ 63 + 0x100000) (2 ^ 32) w2 gauged
     let x := win (2 ^ 63 + 0x100000) (2 ^ 32) w2
     hostUp s = true ∧ (lookupKey (getPart s 0).ingress 1).getD {} = x ∧ (2 ^ 34 + 0xFF8) / 2 ^ 34 = 1 ∧ bit x.w0 63 = true ∧
       (2 ^ 34 + 0xFF8) % 2 ^ 34 + 8 ≤ x.w1 % 2 ^ 35 ∧ bit x.w2 63 = false ∧
       (xlatW s 0 (bits x.w0 55 0 / 4096 * 4096 + 0xFF8)).toOption = some 0x100FF8 ∧
       (xlatR s 0 (bits x.w0 55 0 / 4096 * 4096 + 0xFF8)).toOption = some 0x100FF8 ∧ cleanB s 0x100FF8 8 = true ∧
       bit x.w2 31 = decide (w2 ≠ 0) ∧ (w2 = 2 ^ 31 + 64 → ingressGauge s 0 x = some (r0, 1)) ∧ (w2 = 2 ^ 31 → ingressGauge s 0 x = none)) ∧
    (let s := window (2 ^ 63 + 2 ^ 32) (2 ^ 32) 0 {}
     let x := win (2 ^ 63 + 2 ^ 32) (2 ^ 32) 0
     bit x.w0 63 = true ∧ 0 + 8 ≤ x.w1 % 2 ^ 35 ∧ (xlatW s 0 (bits x.w0 55 0 / 4096 * 4096 + 0)).toOption = none) := by decide +kernel

/-- HostEvents, the rest: an invalidation request with a bad field, of no page, of one page; one under way that nothing uses,
and one that an access uses; a Weathervane block; a record that fits, and one that does not. -/
theorem witness_HostEvents_requests :
    (∀ v ∈ [2 ^ 63 + 2 ^ 56, 2 ^ 63, 2 ^ 63 + 2 ^ 64], let s := keeps 0x110000 16 v State.reset
     (vread s 0 0x110000 16).toOption = some v ∧ bit v 63 = true ∧ (getPart s 0).inval = none ∧
       ((bits v 61 56 ≠ 0) = (v = 2 ^ 63 + 2 ^ 56)) ∧ bits v 11 0 = 0 ∧ v / 2 ^ 96 = 0 ∧ (bits v 95 64 = if v = 2 ^ 63 + 2 ^ 64 then 1 else 0)) ∧
    (∀ n ∈ [0x100, 0x101], let q : InvalReq := { all := false, vpn := n, npages := 1 }
     let s := modPart (ported (acc 0xA0 { els := el })) 0 fun p => { p with inval := some q }
     (getPart s 0).inval = some q ∧ usesRange s 0 q = decide (n = 0x100) ∧ (∀ k : Fin 32, s.cores[k].buf = []) ∧ (∀ l ∈ s.lanes, l.bind = none)) ∧
    (let s := keeps 0x130E00 0xB0 5 State.reset
     bit (partDies s 0) 7 = true ∧ (vreadLong s 0 8 (0x130000 + 512 * 7) 0xB0).toOption = some 5) ∧
    (∀ n ∈ [(4096, true), (0, true), (4096, false)], let x : WVane := { rbase := if n.2 then 0x100000 else 2 ^ 32, rsize := n.1, fifo := [(5, 256)] }
     let s := modPart (paged State.reset) 0 fun q => { q with wvane := [(7, x)] }
     lookupKey (getPart s 0).wvane 7 = some x ∧ x.fifo = (5, 256) :: [] ∧ (x.rsize < (x.rhead + 256 + 2 ^ 33 - x.rtail) % 2 ^ 33 ↔ n.1 = 0) ∧
       ((∀ j < 4, (xlatW s 0 (x.rbase + (x.rhead + 64 * j) % x.rsize)).toOption.isSome = true) ↔ n.2 = true)) ∧
    -- the words of the invalidation block
    (let s := keeps 0x110000 16 (2 ^ 63) State.reset
     (xlatW s 0 0x110000).toOption = some 0x110000 ∧ (xlatW (vwriteD s 0 0x110000 8 (2 ^ 63 % 2 ^ 63)) 0 0x110010).toOption = some (0x110000 + 16) ∧
       inHbm 0x110000 = true ∧ inHbm 0x110010 = true ∧ quietB s = true ∧ s.hostOut = [] ∧ (vread s 0 0x110000 8).toOption = some (2 ^ 63)) := by
  refine ⟨?_, ?_, ?_, ?_, ?_⟩ <;> decide +kernel

/-- A firmware image without its code: one partition of all dies, or none. -/
def flashed (dies : Byte) : List Byte := List.replicate 1056 0 ++ [dies, 0, 3, 1] ++ List.replicate 68 0

/-- ModuleEvents: a module without power, with a map that holds and with one that does not, and one whose flash was cut; the
partition in reset and not; an attestation request, asked for and not, with a signature left and with none; the regulators and
refresh: a sag that lasts, that has just ended and that ended 1 µs ago; the power budget shared lately and not; a stack with
room and with none, an activate held and none; the block of a stack; a flash that is not being written, one that is; soft errors
of no symbol, of one and of another one. -/
theorem witness_ModuleEvents :
    (let s := { State.reset with powered := false, flash := flashed 255, rootKeys := [] }
     s.powered = false ∧ s.rootKeys.all (dieAccepts s) = true ∧ mapOk (firmwareMap s) = true ∧ s.flashOk = true ∧ { s with flashOk := false }.flashOk = false) ∧
    (let s := { State.reset with powered := false, flash := flashed 0, rootKeys := [] }
     s.powered = false ∧ mapOk (firmwareMap s) = false) ∧
    (State.reset.powered = true ∧ (getPart State.reset 0).inReset = false ∧
       (getPart (modPart State.reset 0 fun q => { q with inReset := true }) 0).inReset = true) ∧
    (∀ b ∈ [0, 1], (vread (keeps 0x158000 64 (7 + b * 2 ^ 256) State.reset) 0 0x158000 64).toOption = some (7 + b * 2 ^ 256) ∧
       byteRange (7 + b * 2 ^ 256) 32 1 = b) ∧
    (State.reset.attIndex < 2 ^ 20 ∧ 2 ^ 20 ≤ { State.reset with attIndex := 2 ^ 20 }.attIndex) ∧
    (7 < State.reset.stretch.length ∧ 7 < State.reset.slowed.length ∧ State.reset.isobar.length = 24 ∧ 7 < State.reset.power.length) ∧
    (let s := { State.reset with ns := 1000, sagEnd := [some 0, some 1, none] }
     nth s.sagEnd 0 none = some 0 ∧ 0 + 1000 ≤ s.ns ∧ nth s.sagEnd 1 none = some 1 ∧ s.ns < 1 + 1000 ∧ nth s.sagEnd 2 none = none ∧ 2 < s.sagEnd.length) ∧
    (State.reset.isobarAt = none ∧
     let s := { State.reset with ns := 5, isobarAt := some 4 }
     s.isobarAt = some 4 ∧ ¬(4 = s.ns ∨ 4 + 1000000 ≤ s.ns)) ∧
    (∀ k ∈ [(0, 1), (255, 1), (256, 0)], let s := { State.reset with acts := List.replicate 24 (List.replicate k.1 0), actsHeld := List.replicate 24 k.2 }
     7 < s.isobar.length ∧ 7 < s.acts.length ∧ 7 < s.actsHeld.length ∧ nth s.actsHeld 7 0 = k.2 ∧
       (((nth s.acts 7 []).filter fun z => decide (s.ns < z + 1000)).length < (nth s.isobar 7 (0, 0)).1 ↔ k.1 < 256)) ∧
    (ownsStack State.reset 0 7 = true ∧ ownsStack State.reset 1 7 = false ∧ (nth State.reset.isobar 7 (0, 0)).1 < 2 ^ 16) ∧
    (let s := paged State.reset
     (xlat s 0 {} 0x1481C0).toOption = some 0x1481C0 ∧ inHbm 0x1481C0 = true ∧ 0x1481C0 % 64 + 64 ≤ 64 ∧ Memory.wf s.hbm = true) ∧
    (State.reset.flashing = none ∧ { State.reset with flashing := some [] }.flashing = some [] ∧
     let s := { State.reset with rootKeys := [5] }
     dieAccepts { s with flash := List.replicate 8 0 } 5 = false ∧ ∀ k ∈ { s with rootKeys := [] }.rootKeys, dieAccepts s k = true) ∧
    (∀ e ∈ [[], [(0x4000, 1, 0)], [(0x4000, 1, 8)]], let s : State := { State.reset with softLines := e }
     inHbm 0x100000 = true ∧ s.badLines = [] ∧ ((s.softLines.find? fun x => x.1 == 0x100000 / 64).getD (0x100000 / 64, 0, 0)).2.2 = (if e = [(0x4000, 1, 8)] then 2 ^ 3 else 0) ∧
       3 < 32 ∧ 3 ≠ 4 % 32) := by
  refine ⟨?_, ?_, ?_, ?_, ?_, ?_, ?_, ?_, ?_, ?_, ?_, ?_, ?_⟩ <;> decide +kernel

/-- StepRuns: no power, with and without POWER_UP next; power, with a move of each kind next; a core that runs, one that stands
still, a word that decodes, one that does not, and one in the core's local memory. -/
theorem witness_StepRuns :
    ((let s := { State.reset with powered := false }
      s.powered = false ∧ s.agenda = []) ∧
     (let s := { State.reset with powered := false, agenda := [{ act := .ev .evPowerUp }] }
     s.agenda = { act := .ev .evPowerUp } :: []) ∧ State.reset.powered = true) ∧
    ((curCore State.reset).started = true ∧ (curCore (cst fun c => { c with started := false })).started = false ∧
      asyncDue (curCore State.reset) 0 = none ∧ (curCore State.reset).wait = none ∧
      asyncDue (curCore (cst fun c => { c with status := 3, ien := 3, event := 1 })) 0 ≠ none ∧
      (curCore (cst fun c => { c with wait := some (.kwait 1 2 0) })).wait = some (.kwait 1 2 0) ∧
      (curCore (cst fun c => { c with wait := some (.gwaitk 1 2 3 0) })).wait = some (.gwaitk 1 2 3 0)) ∧
    (∀ w ∈ [0x04210001, 0xA4000000], let s := cst fun c => { c with lmem := cellsAt 0 4 w }
      localBad s (curCore s).pc.toNat = false ∧ (curCore s).pc.toNat < 0x80000 ∧ (kfetch s).1.toOption = some (BitVec.ofNat 32 w) ∧
      BitVec.ofNat 32 (readBytes (curCore s).lmem (curCore s).pc.toNat 4) = BitVec.ofNat 32 w) ∧
    (decodeKettle 0x04210001 = .ok (.kAddi 1 1 1) ∧ (decodeKettle 0xA4000000).toOption = none) ∧
    (let f := (kfetch (cst fun c => { c with pc := 2 ^ 63 })).1
     f.toOption = none) ∧
    -- a core as it stands after the blocks are brought up to date
    (let c := curCore (publish State.reset)
     c.started = true ∧ asyncDue c 0 = none ∧ c.wait = none ∧ c.pc = 0) := by
  refine ⟨?_, ?_, ?_, ?_, ?_, ?_⟩ <;> decide +kernel

/-- StepKeepsInvariant: a machine with a page table and registers, of which the invariant holds, and which takes a step. -/
theorem witness_StepKeepsInvariant : let s := paged (core [(1, 5)])
    Inv s ∧ after (step s) (fun _ => true) = true := by
  refine ⟨⟨by decide +kernel, by decide +kernel, fun k => ?_, by decide +kernel, by decide +kernel⟩, by decide +kernel⟩
  constructor <;> revert k <;> decide +kernel

end Sys2Proof.Tests
end

