-- ==== Sys2Proof/Tests/WitnessLinks.lean ====
section
/-! SUPPORT. For the statements about lane groups and remote memory, states and flits that meet their hypotheses, clause by clause. -/

namespace Sys2Proof.Tests
open Sys2Proof.Machine
set_option Elab.async false

/-- A binding of lane group 3, without and with lane group 7 as its spare. -/
def lb (form : Nat) (mist : Bool) : LinkBind := ⟨form, 0, 3, mist, 5, 6, 0xFF, 0xFF, 0, 0, 0⟩
def lbAlt : LinkBind := ⟨0, 0, 3, false, 5, 6, 1, 3, 0, 0, 0⟩
/-- The spare. -/
def lbSpare : LinkBind := ⟨2, 1, 3, false, 0xFFFF, 0xFFFF, 0xFF, 0xFF, 0, 0, 0⟩

/-- Region 0 runs with bindings ks; lane group 3 is l. -/
def linked (ks : List LinkBind) (l : Lane) : State := modLane (withRegion { st := 2, img := { links := ks } }) 3 fun _ => l
/-- Lane group 3 bound by the first. -/
def bound (l : Lane) : Lane := { l with bind := some (0, 0, 0), bindSeen := some (0, 0) }

/-- A state at a later clk. -/
def later (n : Nat) (s : State) : State := { s with clk := n }

/-- LinkEvents, what a lane group sends: what stands first, and in what state of the lane group. -/
theorem witness_LinkEvents_send :
    (let l := getLane (linked [] { urgent := [ctlFlit ckNak 4 0 0] }) 3
     l.live = true ∧ l.wire = [] ∧ l.urgent = [ctlFlit ckNak 4 0 0]) ∧
    (let l := getLane (linked [] { resend := [mkFlit 9 1 false 0 0 5] }) 3
     l.live = true ∧ l.wire = [] ∧ l.urgent = [] ∧ l.resend = [mkFlit 9 1 false 0 0 5]) ∧
    (let m := mkFlit 9 1 true 0 0 5
     let f := mkFlit 9 1 false 0 0 5
     m.mist = true ∧ m.fkind = 1 ∧ f.mist = false ∧ f.fkind = 1 ∧ (getLane (linked [] { sendq := [m] }) 3).sendq = [m] ∧
       (getLane (linked [] { sendq := [m] }) 3).replay.length < 256 ∧
       (getLane (linked [] { sendq := [f] }) 3).replay.length < 256 ∧
       256 ≤ (getLane (linked [] { sendq := [f], replay := List.replicate 256 f }) 3).replay.length ∧
       (getLane (linked [] { sendq := [f], txSeq := 65535, tcred := 256 }) 3).live = true ∧
       (let l := getLane (linked [lb 0 false] (bound { sendq := [ctlFlit ckTell 1 2 3], wire := [f], lastSend := 0 })) 3
        let s := later 3 (linked [lb 0 false] (bound { sendq := [ctlFlit ckTell 1 2 3], wire := [f], lastSend := 0 }))
        (getLane s 3).lastSend + 3 ≤ s.clk ∧ l.bindDue = false ∧ l.bindWait = false)) ∧
    (let s := linked [lb 0 false] (bound { bindDue := true })
     let l := getLane s 3
     l.live = true ∧ l.midUnit = false ∧ l.bindDue = true ∧ laneBind s l = some (lb 0 false) ∧ l.replay.length < 256) ∧
    (let t : Token := { hdr := { pkind := 2, fmt := 13, tag := 9, vmask := 1 }, payload := 5 }
     let c : Chan := { num := 5, src := .elem 0, dst := .link 3, arrived := [t] }
     let s := modRegion (linked [lb 0 false] (bound {})) r0 fun g => { g with chans := [c] }
     let l := getLane s 3
     l.live = true ∧ l.sendq = [] ∧ l.bindDue = false ∧ l.bindWait = false ∧ sendHead s 3 = some (r0, c, t) ∧ l.replay.length < 256) ∧
    (let s := linked [lb 0 false] { bind := some (0, 0, 0) }
     let l := getLane s 3
     l.live = true ∧ l.wire = [] ∧ l.midUnit = false ∧ l.bindDue = false ∧ l.bindWait = true) ∧
    (let s := linked [lb 0 false] (bound { tcred := 256 })
     let l := getLane s 3
     l.live = true ∧ l.wire = [] ∧ l.sendq = [] ∧ l.bindDue = false ∧ l.bindWait = false ∧ sendHead s 3 = none ∧ 0 < l.tcred ∧ l.replay.length < 256) ∧
    (∀ b ∈ ([none, some (0, 0, 0)] : List (Option (Nat × Nat × Nat))),
     let s := later 64 (linked [lb 0 false] { wire := [{}], bind := b })
     let l := getLane s 3
     l.live = true ∧ l.wire ≠ [] ∧ l.lastSend + 64 ≤ s.clk ∧ l.tcred = 0 ∧ l.bindDue = false ∧ l.midUnit = false ∧
       if b = none then l.sendq = [] ∧ sendHead s 3 = none else l.bindWait = true) := by decide +kernel

/-- x evaluated, then k of it: without this the kernel would carry the CRC unevaluated from byte to byte. -/
def forced {α : Type} (x : Nat) (k : Nat → α) : α := Nat.rec (motive := fun _ => α) (k 0) (fun n _ => k (n + 1)) x

theorem forced_eq {α : Type} (x : Nat) (k : Nat → α) : forced x k = k x := by cases x <;> rfl

/-- n bits of CRC-32C, and n bytes. -/
def fastBits : Nat → Nat → Nat
  | 0, c => c
  | n + 1, c => forced c fun c => fastBits n (crcBit c)
def fastBytes : Nat → Nat → Nat → Nat
  | 0, c, _ => c
  | n + 1, c, x => forced c fun c => forced x fun x => fastBytes n (fastBits 8 (Nat.xor c (x % 256))) (x / 256)

theorem fastBytes_eq (n : Nat) : ∀ c x, fastBytes n c x = crcBytes n c x := by
  induction n with
  | zero => intros; rfl
  | succ n ih => intro c x; simp only [fastBytes, forced_eq, ih, crcBytes, crcByte, fastBits]

/-- The CRC of a flit. -/
def fastCrc (data side : Nat) : Nat := Nat.xor (fastBytes 12 (fastBytes 256 0xFFFFFFFF data) (bits side 127 32)) 0xFFFFFFFF

/-- A flit numbered n, on the wire as FLIT_RECEIVE takes it. -/
def onWire (f : Flit) (n : Nat) : Nat :=
  let side := f.side / 2 ^ 80 * 2 ^ 80 + n * 2 ^ 64
  f.data + 2 ^ 2048 * (side + fastCrc f.data side)
/-- What arrives. -/
def wireFlit (f : Nat) : Flit := { data := f % 2 ^ 2048, side := f / 2 ^ 2048 % 2 ^ 128 }

theorem crc_of {f : Flit} (h : (bits f.side 31 0 == fastCrc f.data f.side) = true) : f.crcOk = true := by
  simpa only [Flit.crcOk, flitCrc, fastCrc, fastBytes_eq] using h

/-- Flits of a reserved kind; UNBIND; a header with two blocks, with none; a block. -/
def wReserved : Nat := onWire (mkFlit 0 5 false 0 0 7) 0
def wUnbind (n : Nat) : Nat := onWire (ctlFlit ckUnbind 0 0 0) n
def wHeader (nfl : Nat) : Nat := onWire (mkFlit 9 0 false 0 nfl 5) 0
def wBlock : Nat := onWire (mkFlit 9 1 false 0 0 5) 0
/-- Control flits without a number of their own: idle, and a NAK. -/
def wPlain (k : Nat) : Nat := onWire (ctlFlit k 4 0 0) 65535
/-- A unit under way with blocks still to come, mist or not. -/
def wUnit (k : Nat) (mist : Bool) (todo : List Nat) : RxUnit := { fkind := k, data := 0, mist := mist, todo := todo }

/-- LinkEvents, what arrives: a corrupt flit; a reserved one; an old one; one after a gap; in their turn a control flit, a
header flit with a block to come, a middle block, the last block of a request; an idle flit after a gap and without one; a NAK;
and a token of one flit for its channel. -/
theorem witness_LinkEvents_receive :
    (({} : Lane).atMist = false ∧ ({} : Lane).live = true ∧ ({} : Lane).rxq = []) ∧
    ((wireFlit wReserved).crcOk = true ∧ (wireFlit wReserved).reserved = true) ∧
    ((wireFlit (wUnbind 65535)).crcOk = true ∧ let x := wireFlit (wUnbind 65535)
     x.reserved = false ∧ unnumbered x = false ∧ seqLt x.fseq ({} : Lane).rxSeq = true) ∧
    ((wireFlit (wUnbind 1)).crcOk = true ∧ let x := wireFlit (wUnbind 1)
     x.reserved = false ∧ unnumbered x = false ∧ seqLt ({} : Lane).rxSeq x.fseq = true) ∧
    ((wireFlit (wUnbind 65535)).crcOk = true ∧ let x := wireFlit (wUnbind 65535)
     let l : Lane := { rxSeq := 65535, nak := some 65535 }
     x.reserved = false ∧ unnumbered x = false ∧ l.nak = some x.fseq ∧ x.fseq = l.rxSeq ∧ x.tcred = 0 ∧ x.fkind = 4) ∧
    ((wireFlit (wHeader 2)).crcOk = true ∧ let x := wireFlit (wHeader 2)
     x.reserved = false ∧ unnumbered x = false ∧ x.fseq = ({} : Lane).rxSeq ∧ x.tcred = 0 ∧ x.fkind = 0 ∧ x.nfl ≠ 0) ∧
    ((wireFlit wBlock).crcOk = true ∧ let x := wireFlit wBlock
     x.reserved = false ∧ unnumbered x = false ∧ x.fseq = ({} : Lane).rxSeq ∧ x.tcred = 0 ∧ x.fkind = 1 ∧
       ({ rx := some (wUnit 0 false [0, 1]) } : Lane).rx = some (wUnit 0 false [0, 1]) ∧
       ({ rx := some (wUnit 2 false [0]) } : Lane).rx = some (wUnit 2 false [0]) ∧
       ({ rx := some (wUnit 0 true [0]) } : Lane).atMist = true ∧ some 4 ≠ some x.fseq) ∧
    ((wireFlit (wPlain ckIdle)).crcOk = true ∧ let x := wireFlit (wPlain ckIdle)
     x.reserved = false ∧ unnumbered x = true ∧ x.tcred = 0 ∧ byteRange x.data 0 1 = ckIdle ∧
       seqLt ({ rxSeq := 65535 } : Lane).rxSeq ((x.fseq + 1) % 2 ^ 16) = true ∧ seqLt ({} : Lane).rxSeq ((x.fseq + 1) % 2 ^ 16) = false) ∧
    ((wireFlit (wPlain ckNak)).crcOk = true ∧ let x := wireFlit (wPlain ckNak)
     x.reserved = false ∧ unnumbered x = true ∧ x.tcred = 0 ∧ byteRange x.data 0 1 = ckNak) ∧
    ((wireFlit (wHeader 0)).crcOk = true ∧ let x := wireFlit (wHeader 0)
     let c : Chan := { num := 6, src := .link 3, dst := .elem 0, quota := 1 }
     let s := modRegion (linked [lb 0 false] (bound {})) r0 fun g => { g with chans := [c] }
     x.reserved = false ∧ unnumbered x = false ∧ x.fseq = (getLane s 3).rxSeq ∧ x.tcred = 0 ∧ x.fkind = 0 ∧ x.nfl = 0 ∧
       (getLane s 3).bind = some (0, 0, 0) ∧ running (getRegion s r0) = true ∧
       ((getRegion s r0).chans.find? fun (c : Chan) => c.src == .link 3) = some c ∧ c.outstanding < c.quota) := by
  refine ⟨?_, ⟨crc_of ?_, ?_⟩, ⟨crc_of ?_, ?_⟩, ⟨crc_of ?_, ?_⟩, ⟨crc_of ?_, ?_⟩, ⟨crc_of ?_, ?_⟩, ⟨crc_of ?_, ?_⟩, ⟨crc_of ?_, ?_⟩,
    ⟨crc_of ?_, ?_⟩, crc_of ?_, ?_⟩ <;> decide +kernel

/-- A far BIND of form a and class b at the lane group. -/
def bindAt (a b : Nat) : State := linked [lb 0 true] { bind := some (0, 0, 0), ctl := [(ckBind, a, b, 0)] }

/-- LinkEvents, the rest: a NAK; a BIND that agrees, and one that does not; a lane group lost while it is not bound, without a
spare, and with one, its region RUNNING or STOPPED; an UNBIND of either kind. -/
theorem witness_LinkEvents_loss :
    (∃ b a, (getLane (linked [] { ctl := [(ckAsk, 1, 0, 0), (ckNak, 65535, 0, 0), (ckNak, 4, 0, 0)] }) 3).ctl = b ++ (ckNak, 65535, 0, 0) :: a ∧
       ∀ c ∈ b, c.1 ≠ ckNak) ∧
    ((bindAt 0 1).lanes.length = 72 ∧ (getLane (bindAt 0 1) 3).ctl = [(ckBind, 0, 1, 0)] ∧ laneBind (bindAt 0 1) (getLane (bindAt 0 1) 3) = some (lb 0 true) ∧
       (getLane (bindAt 0 1) 3).bindSeen = none ∧ (getLane (bindAt 0 1) 3).bindDue = false ∧ (getRegion (bindAt 0 1) r0).st = 2 ∧ (1 : Nat) = b2n (lb 0 true).mist ∧
       (getLane (bindAt 1 1) 3).ctl = [(ckBind, 1, 1, 0)] ∧ 1 ≠ (lb 0 true).form ∧ (lb 0 true).form ≠ 2 ∧ (lb 0 true).altk = 0xFF ∧ (lb 0 true).altn = 0xFF) ∧
    ((getLane (linked [] {}) 3).bind = none) ∧
    (∀ st ∈ [2, 5], let s := modRegion (linked [lb 1 false] (bound {})) r0 fun g => { g with st := st }
     (getLane s 3).bind = some (0, 0, 0) ∧ laneBind s (getLane s 3) = some (lb 1 false) ∧ (getRegion s r0).st = st) ∧
    (∀ st ∈ [2, 5], let s := modRegion (modLane (linked [lbAlt, lbSpare] (bound {})) 7 fun l => { l with bind := some (0, 0, 1) }) r0 fun g => { g with st := st }
     (getLane s 3).bind = some (0, 0, 0) ∧ laneBind s (getLane s 3) = some lbAlt ∧ lbAlt.form ≠ 2 ∧ (getRegion s r0).st = st ∧
       spareOf s (0, 0, 0) lbAlt = some 7 ∧ 7 ≠ 3) ∧
    (let s := linked [lb 0 false] (bound { ctl := [(ckUnbind, 0, 0, 0)] })
     (getLane s 3).ctl = [(ckUnbind, 0, 0, 0)] ∧ laneBind s (getLane s 3) = some (lb 0 false) ∧
       (getLane (linked [] { ctl := [(ckUnbind, 0, 0, 0)] }) 3).ctl = [(ckUnbind, 0, 0, 0)]) := by
  refine ⟨⟨[(ckAsk, 1, 0, 0)], [(ckNak, 4, 0, 0)], ?_⟩, ?_, ?_, ?_, ?_, ?_⟩ <;> decide +kernel

/-- Region 0 with one port, and lane group 3 bound to it as `rmem`. -/
def remote (a : Access) (l : Lane) : State :=
  modLane (modRegion (ported a) r0 fun g => { g with img := { g.img with links := [lb 1 false] } }) 3 fun _ => bound l

/-- A request for n bytes at 0x100000 under an epoch. -/
def wants (h : Hdr) (op n epoch : Nat) : RxUnit :=
  { fkind := 2, data := hdrBits h 0 + 2 ^ 256 * (epoch * 2 ^ 52 + 0x100000) + 2 ^ 320 * op + 2 ^ 360 * n + 2 ^ 560 * 255 }

theorem clean_of {s : State} {pa n : Nat} (h : (List.range n).all (fun k => inHbm (pa + k)) = true) (hb : s.badLines = []) (hs : s.softLines = []) :
    ∀ y, pa ≤ y → y < pa + n → (∃ st off, target y = .hbm st off) ∧ s.badLines.contains (y / 64) = false ∧ ∀ e ∈ s.softLines, e.1 ≠ y / 64 := by
  intro y h1 h2
  refine ⟨?_, by simp [hb], by simp [hs]⟩
  have := List.all_eq_true.mp h (y - pa) (by simp; omega)
  rw [show pa + (y - pa) = y from by omega] at this
  exact hbm_of this

/-- One element to read or to write whose request waits. -/
def far1 (wr : Bool) : Piece := { els := el, wr := wr, sent := true }
/-- The name under which it waits. -/
def wait1 : FarWait := { loc := e0, id := 0, piece := 0, key := 0, epoch := 0 }

/-- RemoteEvents, at the target: a request under an old epoch; a scalar read, a block, a store and an atomic; a page asked for
that is mapped, and one that is not. -/
theorem witness_RemoteEvents_target :
    (let u := wants {} 0xA0 4 255
     (getLane (remote (acc 0xA0 (far1 false)) { reqs := [u] }) 3).reqs = [u] ∧ epochOld 0 (farReq u.data).epoch = true) ∧
    (∀ x ∈ [({ vmask := 1 }, 0xA0, 4), ({ pkind := 2, vmask := 1 }, 0xA0, 128), ({ vmask := 1 }, 0xA1, 4), ({ fmt := 11, vmask := 1 }, 0xB0, 4),
        ({ fmt := 11, vmask := 1 }, 0xA7, 4)],
      let u := wants x.1 x.2.1 x.2.2 0
      let s := remote (acc 0xA0 (far1 false)) { reqs := [u] }
      let q := farReq u.data
      (getLane s 3).reqs = [u] ∧ (getLane s 3).bind = some (0, 0, 0) ∧ epochOld (getLane s 3).epoch q.epoch = false ∧
        ownsHbm s 0 q.pa = true ∧ (∀ y, q.pa ≤ y → y < q.pa + q.n → (∃ st off, target y = .hbm st off) ∧ s.badLines.contains (y / 64) = false ∧
          ∀ e ∈ s.softLines, e.1 ≠ y / 64) ∧ q.n = x.2.2 ∧ q.op = x.2.1 ∧ q.hdr.pkind = x.1.pkind ∧ q.half ≠ 15 ∧ q.pa % 64 + 4 ≤ 64 ∧
        Memory.wf s.hbm = true ∧ q.runs.map (fun r => r.1) ++ q.cnt.toList ++ [q.pa] = [0x100000] ∧ u.ans.bytes = 0 ∧ q.hdr.seq = false ∧
        u.lns.getD ((List.range (cdiv (q.pa % 64 + q.n) 64)).map fun j => q.pa / 64 + j) = (List.range (cdiv q.n 64)).map (0x4000 + ·)) ∧
    (let u := wants { pkind := 3, vmask := 0xFFFF } 0xA8 256 0
     let v : RxUnit := { u with data := u.data + redWords [(0x100000, 64, 0)] none }
     let s := remote (acc 0xA0 (far1 false)) { reqs := [v] }
     let q := farReq v.data
     (getLane s 3).reqs = [v] ∧ q.op = 0xA8 ∧ q.runs = [(0x100000, 64, 0)] ∧ q.cnt = none ∧ ownsHbm s 0 0x100000 = true ∧
       ({ v with lost := [0] } : RxUnit).lost ≠ [] ∧ v.lost = [] ∧ q.hdr.poison = false ∧ q.mod = 0) ∧
    (Fmt.ofCode (farReq (wants { fmt := 11, vmask := 1 } 0xB0 4 0).data).hdr.fmt = some .int32 ∧ Fmt.int32.width = 8 * 4) ∧
    (let s := paged (remote (acc 0xA0 (far1 false)) { ctl := [(ckAsk, 0x1000, 0, 0), (ckAsk, 2 ^ 32, 0, 0)] })
     (walk s 0 0x1000).toOption.map (fun t => ownsHbm s 0 (t.phys 0x1000)) = some true ∧ (walk s 0 (2 ^ 32)).toOption = none ∧
       takeCtl ckAsk (getLane s 3) = some ((0x1000, 0, 0), { (getLane s 3) with ctl := [(ckAsk, 2 ^ 32, 0, 0)] })) := by
  refine ⟨by decide +kernel, ?_, by decide +kernel, by decide +kernel, by decide +kernel⟩
  intro x hx
  simp only [List.mem_cons, List.not_mem_nil, or_false] at hx
  rcases hx with rfl | rfl | rfl | rfl | rfl <;>
    exact ⟨by decide +kernel, by decide +kernel, by decide +kernel, by decide +kernel, clean_of (by decide +kernel) (by decide +kernel) (by decide +kernel),
      by decide +kernel⟩

/-- A reply with STAT st to the request that waits. -/
def told (st : Nat) : RxUnit := { fkind := 3, data := hdrBits { stat := st, vmask := 1 } 0 + 2 ^ 256 * 7 }

/-- RemoteEvents, at the source: a reply to a read and to a write, and a refusal; a translation; an INV, its answer when no
request uses the page and when one does; an INVACK; an INV that waits too long at the source, and at the target. -/
theorem witness_RemoteEvents_source :
    (∀ x ∈ [(0, false), (0, true), (0xFF, false)],
      let u := told x.1
      let a := acc (if x.2 then 0xA1 else 0xA0) (far1 x.2)
      let s := remote a { reps := [u], waits := [wait1] }
      (getLane s 3).reps = u :: [] ∧ (getLane s 3).waits = [] ++ wait1 :: [] ∧
        wait1.key = byteRange u.data 42 1 * 2 ^ 16 + byteRange u.data 43 1 * 2 ^ 8 + byteRange u.data 44 1 % 64 ∧ Live s wait1.loc ∧
        ((getElem s wait1.loc).port.accs.findIdx? fun a => a.id == wait1.id) = some 0 ∧ getAccess s wait1.loc 0 = some a ∧
        a.pieces[wait1.piece]? = some (far1 x.2) ∧ a.seq = false ∧ (hdrOfBits (u.data % 2 ^ 256)).stat = x.1 ∧
        (hdrOfBits (u.data % 2 ^ 256)).poison = false ∧ a.isRec = false ∧ a.op < 0xA7) ∧
    (let s := remote (acc 0xA0 (far1 false)) { ctl := [(ckTell, 0x1000, 7, 255 + 256 * 12 + 2 ^ 16 * 0x105)], asked := [(e0, 0x1000, 0x105)] }
     (getLane s 3).ctl = [(ckTell, 0x1000, 7, 255 + 256 * 12 + 2 ^ 16 * 0x105)] ∧ laneBind s (getLane s 3) = some (lb 1 false) ∧
       ((getLane s 3).asked.find? fun y => y.2.1 == 0x1000 && y.2.2 == 0x105) = some (e0, 0x1000, 0x105) ∧
       ((getLane s 3).asked.find? fun y => y.2.1 == 0x2000 && y.2.2 == 0x105) = none) ∧
    (let s := remote (acc 0xA0 (far1 false)) { ctl := [(ckInv, 1, 2, 0)] }
     (getLane s 3).ctl = [] ++ (ckInv, 1, 2, 0) :: []) ∧
    (let s := remote (acc 0xA0 (far1 false)) { ctl := [(ckTell, 0x1000, 7, 0), (ckInv, 1, 2, 0)] }
     (getLane s 3).ctl = [(ckTell, 0x1000, 7, 0)] ++ (ckInv, 1, 2, 0) :: [] ∧ ckTell ≠ ckInv) ∧
    (let s := remote (acc 0xA0 (far1 false)) { invs := [(0x100, 1, 0)], waits := [wait1] }
     usesPages s (getLane s 3) 0x100 1 = true ∧ usesPages s (getLane s 3) 0x101 1 = false ∧ (getLane s 3).invs = [(0x100, 1, 0)]) ∧
    (let s := remote (acc 0xA0 (far1 false)) { ctl := [(ckInvack, 1, 2, 0)], invsOut := [(1, 2, 0)] }
     (getLane s 3).ctl = [(ckInvack, 1, 2, 0)]) ∧
    (let s := later (2 ^ 17) (remote (acc 0xA0 (far1 false)) { invs := [(1, 1, 0)] })
     (getLane s 3).invs = [(1, 1, 0)] ∧ 0 + 2 ^ 17 ≤ s.clk ∧ (getRegion s r0).st = 2) ∧
    (∀ lns ∈ [none, some [0x4000, 0x4001]],
     let s := later (2 ^ 18) (remote (acc 0xA0 (far1 false)) { invsOut := [(1, 1, 0)], reqs := [{ wants {} 0xA0 128 0 with lns := lns }] })
     (∃ x ∈ (getLane s 3).invsOut, x.2.2 + 2 ^ 18 ≤ s.clk) ∧ ((getLane s 3).reqs.map fun u => u.lns) = [lns] ∧ lns ≠ some []) := by
  refine ⟨?_, by decide +kernel, by decide +kernel, by decide +kernel, by decide +kernel, by decide +kernel, by decide +kernel, by decide +kernel⟩
  intro x hx
  simp only [List.mem_cons, List.not_mem_nil, or_false] at hx
  rcases hx with rfl | rfl | rfl <;>
    exact ⟨by decide +kernel, by decide +kernel, by decide +kernel, live_of (by decide +kernel), by decide +kernel⟩

end Sys2Proof.Tests
end

