-- ==== Sys2Proof/Tests/WitnessLoads.lean ====
section
/-! SUPPORT. For the statement about loads and restores, a signed image that passes the Infuser's five steps, and a saved area that
agrees with it. The kernel checks the image's XMSS signature by a form of SHAKE256 that runs the chains of the signature side by
side, one 64-bit lane of all of them in one number; each part of that form is proved equal to the model's. -/
namespace Sys2Proof.Tests
open Sys2Proof.Machine
set_option Elab.async false

theorem packLanes_testBit (w : Nat) (hw : 0 < w) (l : List Nat) : ∀ j, (packLanes w l).testBit j = (l.getD (j / w) 0).testBit (j % w) := by
  induction l with
  | nil => intro j; simp [packLanes]
  | cons x r ih =>
    intro j
    rw [packLanes, Nat.add_comm, Nat.testBit_two_pow_mul_add _ (Nat.mod_lt _ (Nat.two_pow_pos w))]
    split
    · rename_i h
      rw [Nat.div_eq_of_lt h, Nat.mod_eq_of_lt h]
      rw [Nat.testBit_mod_two_pow, decide_eq_true h, Bool.true_and]; rfl
    · rename_i h
      rw [ih, Nat.div_eq_sub_div hw (Nat.not_lt.mp h), Nat.mod_eq_sub_mod (Nat.not_lt.mp h)]
      simp

/-- One 64-bit lane of every instance, side by side. -/
def side {α : Type} (L : List α) (f : α → BitVec 64) : Nat := packLanes 64 (L.map fun a => (f a).toNat)

theorem side_testBit {α : Type} (L : List α) (f : α → BitVec 64) (j : Nat) :
    (side L f).testBit j = ((L[j / 64]?.map f).getD 0).getLsbD (j % 64) := by
  rw [side, packLanes_testBit 64 (by decide), List.getD_eq_getElem?_getD, List.getElem?_map]
  cases L[j / 64]? <;> simp [BitVec.testBit_toNat]

theorem side_xor {α : Type} (L : List α) (f g : α → BitVec 64) : Nat.xor (side L f) (side L g) = side L fun a => f a ^^^ g a := by
  apply Nat.eq_of_testBit_eq
  intro j
  rw [show Nat.xor (side L f) (side L g) = side L f ^^^ side L g from rfl, Nat.testBit_xor, side_testBit, side_testBit, side_testBit]
  cases L[j / 64]? <;> simp

theorem side_and {α : Type} (L : List α) (f g : α → BitVec 64) : Nat.land (side L f) (side L g) = side L fun a => f a &&& g a := by
  apply Nat.eq_of_testBit_eq
  intro j
  rw [show Nat.land (side L f) (side L g) = side L f &&& side L g from rfl, Nat.testBit_and, side_testBit, side_testBit, side_testBit]
  cases L[j / 64]? <;> simp

theorem side_const {α : Type} (L : List α) (c : BitVec 64) : side L (fun _ => c) = Nat.mul c.toNat (side L fun _ => 1) := by
  unfold side
  show _ = c.toNat * _
  induction L with
  | nil => simp [packLanes]
  | cons a L ih =>
    simp only [List.map_cons, packLanes] at ih ⊢
    rw [ih, Nat.mod_eq_of_lt c.isLt, show (1 : BitVec 64).toNat % 2 ^ 64 = 1 from rfl]
    ring

/-- Every lane rotated to the left by n, with the masks of the bits that stay above and come in below; r has a 1 in every lane. -/
def rotP (r x n a b m : Nat) : Nat := Nat.lor (Nat.land (Nat.shiftLeft x n) (Nat.mul a r)) (Nat.land (Nat.shiftRight x m) (Nat.mul b r))

theorem side_rot {α : Type} (L : List α) (f : α → BitVec 64) (n a b m : Nat)
    (h : n < 64 ∧ m = 64 - n ∧ a = (BitVec.allOnes 64 <<< n).toNat ∧ b = (BitVec.allOnes 64 >>> (64 - n)).toNat) :
    rotP (side L fun _ => 1) (side L f) n a b m = side L fun a => (f a).rotateLeft n := by
  obtain ⟨hn, rfl, rfl, rfl⟩ := h
  apply Nat.eq_of_testBit_eq
  intro j
  rw [rotP, ← side_const, ← side_const]
  rw [show Nat.lor (Nat.land (Nat.shiftLeft (side L f) n) (side L fun _ => BitVec.allOnes 64 <<< n))
        (Nat.land (Nat.shiftRight (side L f) (64 - n)) (side L fun _ => BitVec.allOnes 64 >>> (64 - n))) =
      ((side L f) <<< n &&& (side L fun _ => BitVec.allOnes 64 <<< n)) ||| ((side L f) >>> (64 - n) &&& (side L fun _ => BitVec.allOnes 64 >>> (64 - n))) from rfl]
  rw [Nat.testBit_or, Nat.testBit_and, Nat.testBit_and, Nat.testBit_shiftLeft, Nat.testBit_shiftRight]
  simp only [side_testBit]
  have hj := Nat.mod_lt j (show 0 < 64 by decide)
  have ones (i : Nat) : (BitVec.allOnes 64).getLsbD i = decide (i < 64) := BitVec.getLsbD_allOnes
  by_cases hc : j % 64 < n
  · have e1 : (64 - n + j) / 64 = j / 64 := by omega
    have e2 : (64 - n + j) % 64 = 64 - n + j % 64 := by omega
    have e3 : 64 - n + j % 64 < 64 := by omega
    rw [e1, e2]
    cases L[j / 64]? with
    | none => simp
    | some a =>
      simp only [Option.map_some, Option.getD_some, BitVec.getLsbD_shiftLeft, BitVec.getLsbD_ushiftRight, ones, BitVec.getLsbD_rotateLeft,
        Nat.mod_eq_of_lt hn, hc, e3, decide_true, Bool.not_true, Bool.false_and, Bool.and_false, Bool.false_or, Bool.and_true, cond_true]
  · have e1 : (j - n) / 64 = j / 64 := by omega
    have e2 : (j - n) % 64 = j % 64 - n := by omega
    have e3 : ¬ 64 - n + j % 64 < 64 := by omega
    have e4 : n ≤ j := by omega
    rw [e1, e2]
    cases L[j / 64]? with
    | none => simp
    | some a =>
      have e5 : j % 64 - n < 64 := by omega
      simp only [Option.map_some, Option.getD_some, BitVec.getLsbD_shiftLeft, BitVec.getLsbD_ushiftRight, ones, BitVec.getLsbD_rotateLeft,
        Nat.mod_eq_of_lt hn, hc, e3, e4, e5, hj, decide_true, decide_false, Bool.not_false, Bool.true_and, Bool.and_false, Bool.or_false, Bool.and_true, cond_false]

/-- One round on a state of 25 lanes: column parities, their effect, the lanes rotated and moved, and the last step. -/
def bCol (v : Nat → BitVec 64) (x : Nat) : BitVec 64 := v x ^^^ v (x + 5) ^^^ v (x + 10) ^^^ v (x + 15) ^^^ v (x + 20)
def bMix (v : Nat → BitVec 64) (x : Nat) : BitVec 64 := bCol v ((x + 4) % 5) ^^^ (bCol v ((x + 1) % 5)).rotateLeft 1
/-- Where the lane that goes to i comes from. -/
def laneFrom (i : Nat) : Nat := (i % 5 + 3 * (i / 5)) % 5 + 5 * (i % 5)
def bMove (v : Nat → BitVec 64) (i : Nat) : BitVec 64 := (v (laneFrom i) ^^^ bMix v (laneFrom i % 5)).rotateLeft (nth keccakRot (laneFrom i) 0)
def bChi (v : Nat → BitVec 64) (i : Nat) : BitVec 64 :=
  bMove v i ^^^ ((BitVec.allOnes 64 ^^^ bMove v ((i % 5 + 1) % 5 + 5 * (i / 5))) &&& bMove v ((i % 5 + 2) % 5 + 5 * (i / 5)))
def bvRound (rc : BitVec 64) (v : Nat → BitVec 64) (i : Nat) : BitVec 64 := if i = 0 then bChi v i ^^^ rc else bChi v i

/-- The lanes as the model's list. -/
def toL (v : Nat → BitVec 64) : List Nat := (List.range 25).map fun i => (v i).toNat

theorem rotl_toNat (x : BitVec 64) (n : Nat) (h : n < 64) : rotl64 x.toNat n = (x.rotateLeft n).toNat := by
  rw [BitVec.toNat_rotateLeft, Nat.mod_eq_of_lt h, Nat.shiftLeft_eq, Nat.shiftRight_eq_div_pow]; rfl
/-- One round of many instances. -/
def manyRound {α : Type} (r o rc a0 a1 a2 a3 a4 a5 a6 a7 a8 a9 a10 a11 a12 a13 a14 a15 a16 a17 a18 a19 a20 a21 a22 a23 a24 : Nat)
    (k : Nat → Nat → Nat → Nat → Nat → Nat → Nat → Nat → Nat → Nat → Nat → Nat → Nat → Nat → Nat → Nat → Nat → Nat → Nat → Nat → Nat → Nat → Nat → Nat → Nat → α) : α :=
  let c0 := (Nat.xor (Nat.xor (Nat.xor (Nat.xor a0 a5) a10) a15) a20)
  let c1 := (Nat.xor (Nat.xor (Nat.xor (Nat.xor a1 a6) a11) a16) a21)
  let c2 := (Nat.xor (Nat.xor (Nat.xor (Nat.xor a2 a7) a12) a17) a22)
  let c3 := (Nat.xor (Nat.xor (Nat.xor (Nat.xor a3 a8) a13) a18) a23)
  let c4 := (Nat.xor (Nat.xor (Nat.xor (Nat.xor a4 a9) a14) a19) a24)
  let d0 := (Nat.xor c4 (rotP r c1 (nat_lit 1) (nat_lit 0xFFFFFFFFFFFFFFFE) (nat_lit 0x1) (nat_lit 63)))
  let d1 := (Nat.xor c0 (rotP r c2 (nat_lit 1) (nat_lit 0xFFFFFFFFFFFFFFFE) (nat_lit 0x1) (nat_lit 63)))
  let d2 := (Nat.xor c1 (rotP r c3 (nat_lit 1) (nat_lit 0xFFFFFFFFFFFFFFFE) (nat_lit 0x1) (nat_lit 63)))
  let d3 := (Nat.xor c2 (rotP r c4 (nat_lit 1) (nat_lit 0xFFFFFFFFFFFFFFFE) (nat_lit 0x1) (nat_lit 63)))
  let d4 := (Nat.xor c3 (rotP r c0 (nat_lit 1) (nat_lit 0xFFFFFFFFFFFFFFFE) (nat_lit 0x1) (nat_lit 63)))
  let b0 := (rotP r (Nat.xor a0 d0) (nat_lit 0) (nat_lit 0xFFFFFFFFFFFFFFFF) (nat_lit 0x0) (nat_lit 64))
  let b1 := (rotP r (Nat.xor a6 d1) (nat_lit 44) (nat_lit 0xFFFFF00000000000) (nat_lit 0xFFFFFFFFFFF) (nat_lit 20))
  let b2 := (rotP r (Nat.xor a12 d2) (nat_lit 43) (nat_lit 0xFFFFF80000000000) (nat_lit 0x7FFFFFFFFFF) (nat_lit 21))
  let b3 := (rotP r (Nat.xor a18 d3) (nat_lit 21) (nat_lit 0xFFFFFFFFFFE00000) (nat_lit 0x1FFFFF) (nat_lit 43))
  let b4 := (rotP r (Nat.xor a24 d4) (nat_lit 14) (nat_lit 0xFFFFFFFFFFFFC000) (nat_lit 0x3FFF) (nat_lit 50))
  let b5 := (rotP r (Nat.xor a3 d3) (nat_lit 28) (nat_lit 0xFFFFFFFFF0000000) (nat_lit 0xFFFFFFF) (nat_lit 36))
  let b6 := (rotP r (Nat.xor a9 d4) (nat_lit 20) (nat_lit 0xFFFFFFFFFFF00000) (nat_lit 0xFFFFF) (nat_lit 44))
  let b7 := (rotP r (Nat.xor a10 d0) (nat_lit 3) (nat_lit 0xFFFFFFFFFFFFFFF8) (nat_lit 0x7) (nat_lit 61))
  let b8 := (rotP r (Nat.xor a16 d1) (nat_lit 45) (nat_lit 0xFFFFE00000000000) (nat_lit 0x1FFFFFFFFFFF) (nat_lit 19))
  let b9 := (rotP r (Nat.xor a22 d2) (nat_lit 61) (nat_lit 0xE000000000000000) (nat_lit 0x1FFFFFFFFFFFFFFF) (nat_lit 3))
  let b10 := (rotP r (Nat.xor a1 d1) (nat_lit 1) (nat_lit 0xFFFFFFFFFFFFFFFE) (nat_lit 0x1) (nat_lit 63))
  let b11 := (rotP r (Nat.xor a7 d2) (nat_lit 6) (nat_lit 0xFFFFFFFFFFFFFFC0) (nat_lit 0x3F) (nat_lit 58))
  let b12 := (rotP r (Nat.xor a13 d3) (nat_lit 25) (nat_lit 0xFFFFFFFFFE000000) (nat_lit 0x1FFFFFF) (nat_lit 39))
  let b13 := (rotP r (Nat.xor a19 d4) (nat_lit 8) (nat_lit 0xFFFFFFFFFFFFFF00) (nat_lit 0xFF) (nat_lit 56))
  let b14 := (rotP r (Nat.xor a20 d0) (nat_lit 18) (nat_lit 0xFFFFFFFFFFFC0000) (nat_lit 0x3FFFF) (nat_lit 46))
  let b15 := (rotP r (Nat.xor a4 d4) (nat_lit 27) (nat_lit 0xFFFFFFFFF8000000) (nat_lit 0x7FFFFFF) (nat_lit 37))
  let b16 := (rotP r (Nat.xor a5 d0) (nat_lit 36) (nat_lit 0xFFFFFFF000000000) (nat_lit 0xFFFFFFFFF) (nat_lit 28))
  let b17 := (rotP r (Nat.xor a11 d1) (nat_lit 10) (nat_lit 0xFFFFFFFFFFFFFC00) (nat_lit 0x3FF) (nat_lit 54))
  let b18 := (rotP r (Nat.xor a17 d2) (nat_lit 15) (nat_lit 0xFFFFFFFFFFFF8000) (nat_lit 0x7FFF) (nat_lit 49))
  let b19 := (rotP r (Nat.xor a23 d3) (nat_lit 56) (nat_lit 0xFF00000000000000) (nat_lit 0xFFFFFFFFFFFFFF) (nat_lit 8))
  let b20 := (rotP r (Nat.xor a2 d2) (nat_lit 62) (nat_lit 0xC000000000000000) (nat_lit 0x3FFFFFFFFFFFFFFF) (nat_lit 2))
  let b21 := (rotP r (Nat.xor a8 d3) (nat_lit 55) (nat_lit 0xFF80000000000000) (nat_lit 0x7FFFFFFFFFFFFF) (nat_lit 9))
  let b22 := (rotP r (Nat.xor a14 d4) (nat_lit 39) (nat_lit 0xFFFFFF8000000000) (nat_lit 0x7FFFFFFFFF) (nat_lit 25))
  let b23 := (rotP r (Nat.xor a15 d0) (nat_lit 41) (nat_lit 0xFFFFFE0000000000) (nat_lit 0x1FFFFFFFFFF) (nat_lit 23))
  let b24 := (rotP r (Nat.xor a21 d1) (nat_lit 2) (nat_lit 0xFFFFFFFFFFFFFFFC) (nat_lit 0x3) (nat_lit 62))
  forced (Nat.xor b0 (Nat.land (Nat.xor o b1) b2)) fun e0 =>
  forced (Nat.xor b1 (Nat.land (Nat.xor o b2) b3)) fun e1 =>
  forced (Nat.xor b2 (Nat.land (Nat.xor o b3) b4)) fun e2 =>
  forced (Nat.xor b3 (Nat.land (Nat.xor o b4) b0)) fun e3 =>
  forced (Nat.xor b4 (Nat.land (Nat.xor o b0) b1)) fun e4 =>
  forced (Nat.xor b5 (Nat.land (Nat.xor o b6) b7)) fun e5 =>
  forced (Nat.xor b6 (Nat.land (Nat.xor o b7) b8)) fun e6 =>
  forced (Nat.xor b7 (Nat.land (Nat.xor o b8) b9)) fun e7 =>
  forced (Nat.xor b8 (Nat.land (Nat.xor o b9) b5)) fun e8 =>
  forced (Nat.xor b9 (Nat.land (Nat.xor o b5) b6)) fun e9 =>
  forced (Nat.xor b10 (Nat.land (Nat.xor o b11) b12)) fun e10 =>
  forced (Nat.xor b11 (Nat.land (Nat.xor o b12) b13)) fun e11 =>
  forced (Nat.xor b12 (Nat.land (Nat.xor o b13) b14)) fun e12 =>
  forced (Nat.xor b13 (Nat.land (Nat.xor o b14) b10)) fun e13 =>
  forced (Nat.xor b14 (Nat.land (Nat.xor o b10) b11)) fun e14 =>
  forced (Nat.xor b15 (Nat.land (Nat.xor o b16) b17)) fun e15 =>
  forced (Nat.xor b16 (Nat.land (Nat.xor o b17) b18)) fun e16 =>
  forced (Nat.xor b17 (Nat.land (Nat.xor o b18) b19)) fun e17 =>
  forced (Nat.xor b18 (Nat.land (Nat.xor o b19) b15)) fun e18 =>
  forced (Nat.xor b19 (Nat.land (Nat.xor o b15) b16)) fun e19 =>
  forced (Nat.xor b20 (Nat.land (Nat.xor o b21) b22)) fun e20 =>
  forced (Nat.xor b21 (Nat.land (Nat.xor o b22) b23)) fun e21 =>
  forced (Nat.xor b22 (Nat.land (Nat.xor o b23) b24)) fun e22 =>
  forced (Nat.xor b23 (Nat.land (Nat.xor o b24) b20)) fun e23 =>
  forced (Nat.xor b24 (Nat.land (Nat.xor o b20) b21)) fun e24 =>
  k (Nat.xor e0 (Nat.mul rc r)) e1 e2 e3 e4 e5 e6 e7 e8 e9 e10 e11 e12 e13 e14 e15 e16 e17 e18 e19 e20 e21 e22 e23 e24
/-- The rounds. -/
def manyRounds (r o : Nat) : List Nat → Nat → Nat → Nat → Nat → Nat → Nat → Nat → Nat → Nat → Nat → Nat → Nat → Nat → Nat → Nat → Nat → Nat → Nat → Nat → Nat → Nat → Nat → Nat → Nat → Nat → List Nat
  | [], a0, a1, a2, a3, a4, a5, a6, a7, a8, a9, a10, a11, a12, a13, a14, a15, a16, a17, a18, a19, a20, a21, a22, a23, a24 => [a0, a1, a2, a3, a4, a5, a6, a7, a8, a9, a10, a11, a12, a13, a14, a15, a16, a17, a18, a19, a20, a21, a22, a23, a24]
  | rc :: l, a0, a1, a2, a3, a4, a5, a6, a7, a8, a9, a10, a11, a12, a13, a14, a15, a16, a17, a18, a19, a20, a21, a22, a23, a24 =>
    manyRound r o rc a0 a1 a2 a3 a4 a5 a6 a7 a8 a9 a10 a11 a12 a13 a14 a15 a16 a17 a18 a19 a20 a21 a22 a23 a24 (manyRounds r o l)

theorem manyRound_eq {α : Type} (L : List (Nat → BitVec 64)) (rc : BitVec 64) (k : Nat → Nat → Nat → Nat → Nat → Nat → Nat → Nat → Nat → Nat → Nat → Nat → Nat →
    Nat → Nat → Nat → Nat → Nat → Nat → Nat → Nat → Nat → Nat → Nat → Nat → α) :
    let s (i : Nat) : Nat := side L fun v => v i
    let t (i : Nat) : Nat := side L fun v => bvRound rc v i
    manyRound (side L fun _ => 1) (side L fun _ => BitVec.allOnes 64) rc.toNat (s 0) (s 1) (s 2) (s 3) (s 4) (s 5) (s 6) (s 7) (s 8) (s 9) (s 10) (s 11)
      (s 12) (s 13) (s 14) (s 15) (s 16) (s 17) (s 18) (s 19) (s 20) (s 21) (s 22) (s 23) (s 24) k =
    k (t 0) (t 1) (t 2) (t 3) (t 4) (t 5) (t 6) (t 7) (t 8) (t 9) (t 10) (t 11)
      (t 12) (t 13) (t 14) (t 15) (t 16) (t 17) (t 18) (t 19) (t 20) (t 21) (t 22) (t 23) (t 24) := by
  intro s t
  simp only [manyRound, forced_eq, ← side_const, s, side_xor]
  simp (disch := decide) only [side_rot, side_xor, side_and]
  rfl

theorem nth_range (f : Nat → Nat) (i : Nat) (h : i < 25) : nth ((List.range 25).map f) i 0 = f i := by
  simp [nth, h]

theorem nth_range5 (f : Nat → Nat) (i : Nat) (h : i < 5) : nth ((List.range 5).map f) i 0 = f i := by
  simp [nth, h]

theorem modNth_range (f : Nat → Nat) (rc : Nat) :
    modNth ((List.range 25).map f) 0 (fun x => Nat.xor x rc) = (List.range 25).map fun i => if i = 0 then Nat.xor (f i) rc else f i := rfl

theorem col_toL (v : Nat → BitVec 64) (x : Nat) (hx : x < 5) :
    (List.range 5).foldl (fun s y => Nat.xor s (nth (toL v) (x % 5 + 5 * (y % 5)) 0)) 0 = (bCol v x).toNat := by
  have e : List.range 5 = [0, 1, 2, 3, 4] := rfl
  simp only [e, List.foldl_cons, List.foldl_nil, toL]
  rw [nth_range _ _ (by omega), nth_range _ _ (by omega), nth_range _ _ (by omega), nth_range _ _ (by omega), nth_range _ _ (by omega)]
  simp only [bCol, BitVec.toNat_xor, Nat.mod_eq_of_lt hx]
  exact congrArg (fun z => Nat.xor (Nat.xor (Nat.xor (Nat.xor z _) _) _) _) (Nat.zero_xor _)

/-- The parts of the model's round. -/
def nMix (a : List Nat) (x : Nat) : Nat :=
  let col := (List.range 5).map fun x => (List.range 5).foldl (fun s y => Nat.xor s (nth a (x % 5 + 5 * (y % 5)) 0)) 0
  Nat.xor (nth col ((x + 4) % 5) 0) (rotl64 (nth col ((x + 1) % 5) 0) 1)
def nMove (a : List Nat) : List Nat :=
  let m := (List.range 25).map fun i => Nat.xor (nth a i 0) (nMix a (i % 5))
  (List.range 25).map fun i => rotl64 (nth m (laneFrom i) 0) (nth keccakRot (laneFrom i) 0)
def nChi (b : List Nat) (i : Nat) : Nat := Nat.xor (nth b i 0)
  (Nat.land (2 ^ 64 - 1 - nth b ((i % 5 + 1) % 5 + 5 * (i / 5 % 5)) 0) (nth b ((i % 5 + 2) % 5 + 5 * (i / 5 % 5)) 0))

theorem keccakRound_parts (a : List Nat) (rc : Nat) :
    keccakRound a rc = modNth ((List.range 25).map (nChi (nMove a))) 0 fun x => Nat.xor x rc := rfl

theorem nMix_toL (v : Nat → BitVec 64) (x : Nat) : nMix (toL v) x = (bMix v x).toNat := by
  simp only [nMix]
  rw [nth_range5 _ _ (by omega), nth_range5 _ _ (by omega), col_toL v _ (by omega), col_toL v _ (by omega), rotl_toNat _ 1 (by decide), bMix,
    BitVec.toNat_xor]
  rfl

theorem nMove_toL (v : Nat → BitVec 64) (i : Nat) (h : i < 25) : nth (nMove (toL v)) i 0 = (bMove v i).toNat := by
  have rot (i : Nat) (h : i < 25) : nth keccakRot i 0 < 64 := by revert i; decide
  have hl : laneFrom i < 25 := by unfold laneFrom; omega
  simp only [nMove]
  rw [nth_range _ _ h, nth_range _ _ hl, nMix_toL, bMove, ← rotl_toNat _ _ (rot _ hl), BitVec.toNat_xor]
  unfold toL
  rw [nth_range _ _ hl]
  rfl

theorem keccakRound_toL (v : Nat → BitVec 64) (rc : BitVec 64) : keccakRound (toL v) rc.toNat = toL (bvRound rc v) := by
  rw [keccakRound_parts, modNth_range]
  apply List.map_congr_left
  intro i hi
  rw [List.mem_range] at hi
  have hc : nChi (nMove (toL v)) i = (bChi v i).toNat := by
    rw [nChi, Nat.mod_eq_of_lt (show i / 5 < 5 by omega), nMove_toL v _ hi, nMove_toL v _ (by omega), nMove_toL v _ (by omega), bChi,
      BitVec.toNat_xor, BitVec.toNat_and, BitVec.allOnes_xor, BitVec.toNat_not]
    rfl
  rw [hc, bvRound]
  split
  · rw [BitVec.toNat_xor]; rfl
  · rfl

/-- The rounds. -/
def bvKeccak (v : Nat → BitVec 64) : Nat → BitVec 64 := keccakRc.foldl (fun v rc => bvRound (BitVec.ofNat 64 rc) v) v

theorem rounds_toL (l : List Nat) (h : ∀ x ∈ l, x < 2 ^ 64) : ∀ v, l.foldl keccakRound (toL v) = toL (l.foldl (fun v rc => bvRound (BitVec.ofNat 64 rc) v) v) := by
  induction l with
  | nil => intro v; rfl
  | cons x l ih =>
    intro v
    have hx : (BitVec.ofNat 64 x).toNat = x := Nat.mod_eq_of_lt (h x (List.mem_cons_self ..))
    have := keccakRound_toL v (BitVec.ofNat 64 x)
    rw [hx] at this
    rw [List.foldl_cons, List.foldl_cons, this]
    exact ih (fun y hy => h y (List.mem_cons_of_mem _ hy)) _

/-- The lanes of a state. -/
def laneBv (s i : Nat) : BitVec 64 := BitVec.ofNat 64 (lane 64 s i)

theorem keccakF_eq (s : Nat) : keccakF s = packLanes 64 (toL (bvKeccak (laneBv s))) := by
  have e : lanes 64 25 s = toL (laneBv s) := by
    unfold lanes toL
    apply List.map_congr_left
    intro i _
    exact (Nat.mod_eq_of_lt (Nat.mod_lt _ (by decide))).symm
  rw [keccakF, e, rounds_toL keccakRc (by decide)]
  rfl

theorem manyRounds_eq (l : List Nat) (h : ∀ x ∈ l, x < 2 ^ 64) : ∀ L : List (Nat → BitVec 64),
    let s (i : Nat) : Nat := side L fun v => v i
    manyRounds (side L fun _ => 1) (side L fun _ => BitVec.allOnes 64) l (s 0) (s 1) (s 2) (s 3) (s 4) (s 5) (s 6) (s 7) (s 8) (s 9) (s 10) (s 11)
      (s 12) (s 13) (s 14) (s 15) (s 16) (s 17) (s 18) (s 19) (s 20) (s 21) (s 22) (s 23) (s 24) =
    (List.range 25).map fun i => side L fun v => l.foldl (fun v rc => bvRound (BitVec.ofNat 64 rc) v) v i := by
  induction l with
  | nil => intro L s; rfl
  | cons x l ih =>
    intro L s
    have hx : (BitVec.ofNat 64 x).toNat = x := Nat.mod_eq_of_lt (h x (List.mem_cons_self ..))
    have hm {β : Type} (f : (Nat → BitVec 64) → β) (g : β → BitVec 64) : side (L.map f) g = side L fun v => g (f v) := by
      rw [side, side, List.map_map]; rfl
    have hr := manyRound_eq L (BitVec.ofNat 64 x) (manyRounds (side L fun _ => 1) (side L fun _ => BitVec.allOnes 64) l)
    rw [hx] at hr
    refine Eq.trans hr ?_
    have hi := ih (fun y hy => h y (List.mem_cons_of_mem _ hy)) (L.map (bvRound (BitVec.ofNat 64 x)))
    simp only [hm] at hi
    exact hi

/-- Lane k / 64 of every state, side by side. -/
def packLane (k : Nat) : List Nat → Nat
  | [] => 0
  | x :: r => Nat.add (Nat.mod (Nat.shiftRight x k) (nat_lit 0x10000000000000000)) (Nat.mul (nat_lit 0x10000000000000000) (packLane k r))

theorem packLane_eq (i : Nat) (S : List Nat) : packLane (Nat.mul 64 i) S = packLanes 64 (S.map fun x => lane 64 x i) := by
  induction S with
  | nil => rfl
  | cons x r ih =>
    rw [packLane, ih, List.map_cons, packLanes, lane, Nat.mod_mod, Nat.mul_comm i 64]
    rfl

/-- Lane j of a value. -/
def rawLane (x j : Nat) : Nat := Nat.mod (Nat.shiftRight x (Nat.mul (nat_lit 64) j)) (nat_lit 0x10000000000000000)

theorem rawLane_eq (x j : Nat) : rawLane x j = lane 64 x j := by rw [lane, Nat.mul_comm]; rfl

/-- The permutation of many states at once: the first 256 bits of each result. -/
def manyKeccak (S : List Nat) : List Nat :=
  let s (i : Nat) : Nat := packLane (Nat.mul 64 i) S
  forced (packLanes 64 (S.map fun _ => 1)) fun r => forced (Nat.mul 0xFFFFFFFFFFFFFFFF r) fun o =>
  let q := manyRounds r o keccakRc (s 0) (s 1) (s 2) (s 3) (s 4) (s 5) (s 6) (s 7) (s 8) (s 9) (s 10) (s 11) (s 12) (s 13) (s 14) (s 15) (s 16) (s 17) (s 18) (s 19) (s 20) (s 21) (s 22) (s 23) (s 24)
  forced (nth q 0 0) fun a => forced (nth q 1 0) fun b => forced (nth q 2 0) fun c => forced (nth q 3 0) fun d =>
  (List.range S.length).map fun j =>
    Nat.add (Nat.add (rawLane a j) (Nat.shiftLeft (rawLane b j) 64)) (Nat.add (Nat.shiftLeft (rawLane c j) 128) (Nat.shiftLeft (rawLane d j) 192))

theorem lane_packLanes (l : List Nat) : ∀ j, lane 64 (packLanes 64 l) j = l.getD j 0 % 2 ^ 64 := by
  induction l with
  | nil => intro j; simp [packLanes, lane]
  | cons x r ih =>
    intro j
    cases j with
    | zero => simp [packLanes, lane]
    | succ j =>
      have := ih j
      simp only [packLanes, lane, Nat.shiftRight_eq_div_pow] at this ⊢
      rw [show (j + 1) * 64 = 64 + j * 64 by ring, Nat.pow_add, ← Nat.div_div_eq_div_mul, Nat.add_mul_div_left _ _ (by decide),
        Nat.div_eq_of_lt (Nat.mod_lt x (by decide)), Nat.zero_add, this]
      rfl

theorem manyKeccak_eq (S : List Nat) : manyKeccak S = S.map fun s => keccakF s % 2 ^ 256 := by
  have hs (i : Nat) : packLanes 64 (S.map fun x => lane 64 x i) = side (S.map laneBv) fun v => v i := by
    rw [side, List.map_map]
    congr 1
    apply List.map_congr_left
    intro x _
    exact (Nat.mod_eq_of_lt (Nat.mod_lt _ (by decide))).symm
  have hr : packLanes 64 (S.map fun _ => 1) = side (S.map laneBv) fun _ => 1 := by rw [side, List.map_map]; rfl
  have ho : Nat.mul 0xFFFFFFFFFFFFFFFF (side (S.map laneBv) fun _ => 1) = side (S.map laneBv) fun _ => BitVec.allOnes 64 :=
    (side_const _ (BitVec.allOnes 64)).symm
  simp only [manyKeccak, forced_eq, packLane_eq, rawLane_eq, hs, hr, ho]
  have := manyRounds_eq keccakRc (by decide) (S.map laneBv)
  simp only at this
  rw [this]
  apply List.ext_getElem
  · simp
  intro j h1 h2
  rw [List.length_map] at h2
  have hl (i : Nat) : lane 64 (side (S.map laneBv) fun v => keccakRc.foldl (fun v rc => bvRound (BitVec.ofNat 64 rc) v) v i) j
      = (bvKeccak (laneBv S[j]) i).toNat := by
    rw [side, lane_packLanes, List.map_map]
    simp only [List.getD_eq_getElem?_getD, List.getElem?_map, List.getElem?_eq_getElem h2, Option.map_some, Option.getD_some, Function.comp_apply]
    exact Nat.mod_eq_of_lt (BitVec.isLt _)
  simp only [List.getElem_map, List.getElem_range]
  rw [nth_range _ _ (by decide), nth_range _ _ (by decide), nth_range _ _ (by decide), nth_range _ _ (by decide), hl, hl, hl, hl, keccakF_eq]
  generalize bvKeccak (laneBv S[j]) = w
  have b0 := (w 0).isLt; have b1 := (w 1).isLt; have b2 := (w 2).isLt; have b3 := (w 3).isLt
  have e : toL w = (w 0).toNat :: (w 1).toNat :: (w 2).toNat :: (w 3).toNat :: (List.range 21).map (fun i => (w (i + 4)).toNat) := rfl
  have sum (p q u v : Nat) : Nat.add (Nat.add p (Nat.shiftLeft q 64)) (Nat.add (Nat.shiftLeft u 128) (Nat.shiftLeft v 192)) =
      p + 2 ^ 64 * q + 2 ^ 128 * u + 2 ^ 192 * v := by
    show p + q <<< 64 + (u <<< 128 + v <<< 192) = _
    rw [Nat.shiftLeft_eq, Nat.shiftLeft_eq, Nat.shiftLeft_eq]
    omega
  rw [e, sum]
  simp only [packLanes]
  omega

/-- 256 bits of each, side by side, and one of them. -/
def pack256 : List Nat → Nat
  | [] => 0
  | x :: l => Nat.add x (Nat.mul (nat_lit 0x10000000000000000000000000000000000000000000000000000000000000000) (pack256 l))
def raw256 (x j : Nat) : Nat :=
  Nat.mod (Nat.shiftRight x (Nat.mul (nat_lit 256) j)) (nat_lit 0x10000000000000000000000000000000000000000000000000000000000000000)

/-- A list of values below 2^256 evaluated, then k of it. -/
def forcedL {α : Type} (l : List Nat) (k : List Nat → α) : α :=
  bif l.all fun x => Nat.ble x 0xFFFFFFFFFFFFFFFFFFFFFFFFFFFFFFFFFFFFFFFFFFFFFFFFFFFFFFFFFFFFFFFF then
    forced (pack256 l) fun x => forced l.length fun n => k ((List.range n).map fun j => raw256 x j)
  else k l

theorem raw256_pack (l : List Nat) : (∀ x ∈ l, x < 2 ^ 256) → ∀ j, j < l.length → raw256 (pack256 l) j = l.getD j 0 := by
  induction l with
  | nil => intro _ j h; simp at h
  | cons x r ih =>
    intro hb j hj
    have hx := hb x (List.mem_cons_self ..)
    show (x + 2 ^ 256 * pack256 r) >>> (256 * j) % 2 ^ 256 = _
    rw [Nat.shiftRight_eq_div_pow]
    cases j with
    | zero => simp only [Nat.mul_zero, Nat.pow_zero, Nat.div_one, Nat.add_mul_mod_self_left, Nat.mod_eq_of_lt hx]; rfl
    | succ j =>
      have := ih (fun y hy => hb y (List.mem_cons_of_mem _ hy)) j (by simpa using hj)
      rw [show 256 * (j + 1) = 256 + 256 * j by ring, Nat.pow_add, ← Nat.div_div_eq_div_mul, Nat.add_mul_div_left _ _ (Nat.two_pow_pos 256),
        Nat.div_eq_of_lt hx, Nat.zero_add, ← Nat.shiftRight_eq_div_pow]
      exact this

theorem forcedL_eq {α : Type} (l : List Nat) (k : List Nat → α) : forcedL l k = k l := by
  unfold forcedL
  cases h : l.all fun x => Nat.ble x 0xFFFFFFFFFFFFFFFFFFFFFFFFFFFFFFFFFFFFFFFFFFFFFFFFFFFFFFFFFFFFFFFF
  · rfl
  · rw [cond_true, forced_eq, forced_eq]
    congr 1
    have hb : ∀ x ∈ l, x < 2 ^ 256 := by
      intro x hx
      have := Nat.le_of_ble_eq_true (List.all_eq_true.mp h x hx)
      exact Nat.lt_succ_of_le this
    apply List.ext_getElem
    · simp
    · intro j h1 h2
      rw [List.getElem_map, List.getElem_range, raw256_pack l hb j h2, List.getD_eq_getElem?_getD, List.getElem?_eq_getElem h2]
      rfl

theorem xor_above {x i : Nat} (y : Nat) (h : x < 2 ^ i) : Nat.xor x (y * 2 ^ i) = x + 2 ^ i * y := by
  apply Nat.eq_of_testBit_eq
  intro j
  rw [show Nat.xor x (y * 2 ^ i) = x ^^^ y * 2 ^ i from rfl, Nat.testBit_xor, Nat.add_comm, Nat.testBit_two_pow_mul_add _ h, Nat.mul_comm,
    Nat.testBit_two_pow_mul]
  by_cases hj : j < i
  · simp [hj, Nat.not_le.mpr hj]
  · have : x.testBit j = false := Nat.testBit_lt_two_pow (lt_of_lt_of_le h (Nat.pow_le_pow_right (by decide) (Nat.not_lt.mp hj)))
    simp [hj, this, Nat.not_lt.mp hj]

theorem absorb_eq (n : Nat) : ∀ (v : Nat) (p : Sponge), p.absorbed + n ≤ 135 → p.state < 2 ^ (8 * p.absorbed) →
    p.absorb n v = { state := p.state + 2 ^ (8 * p.absorbed) * (v % 2 ^ (8 * n)), absorbed := p.absorbed + n } := by
  induction n with
  | zero => intro v p _ _; simp [Sponge.absorb, Nat.mod_one]
  | succ n ih =>
    intro v p hn hs
    have hb : p.byte (v % 256) = { state := p.state + 2 ^ (8 * p.absorbed) * (v % 256), absorbed := p.absorbed + 1 } := by
      unfold Sponge.byte
      have h1 : p.absorbed % shakeRate = p.absorbed := Nat.mod_eq_of_lt (show p.absorbed < 136 by omega)
      simp only [h1, Nat.mod_mod]
      rw [if_neg (show ¬p.absorbed = shakeRate - 1 by unfold shakeRate; omega), xor_above _ hs]
    have hlt : p.state + 2 ^ (8 * p.absorbed) * (v % 256) < 2 ^ (8 * (p.absorbed + 1)) := by
      have := Nat.mod_lt v (show 0 < 256 by decide)
      rw [show 8 * (p.absorbed + 1) = 8 * p.absorbed + 8 by ring, Nat.pow_add]
      nlinarith
    rw [Sponge.absorb, hb, ih _ _ (by simp only; omega) hlt]
    simp only [Sponge.mk.injEq]
    refine ⟨?_, by omega⟩
    have hv : v % 2 ^ (8 * (n + 1)) = v % 256 + 256 * (v / 256 % 2 ^ (8 * n)) := by
      rw [show 8 * (n + 1) = 8 + 8 * n by ring, Nat.pow_add, Nat.mod_mul]
    rw [hv, show 8 * (p.absorbed + 1) = 8 * p.absorbed + 8 by ring, Nat.pow_add]
    ring

/-- The one block of a keyed function of XMSS. -/
def block (k key n m : Nat) : Nat :=
  bigEndian 32 k + 2 ^ 256 * (key % 2 ^ 256) + 2 ^ 512 * (m % 2 ^ (8 * n)) + 2 ^ (8 * (64 + n)) * 0x1F + 2 ^ 1080 * 0x80

theorem bytesOf_length (n : Nat) : ∀ x, (bytesOf n x).length = n := by
  induction n with
  | zero => intro x; rfl
  | succ n ih => intro x; simp [bytesOf, ih]

theorem ofBytes_lt (l : List Byte) : ofBytes l < 2 ^ (8 * l.length) := by
  induction l with
  | nil => decide
  | cons b l ih =>
    have := b.isLt
    rw [ofBytes, List.length_cons, show 8 * (l.length + 1) = 8 + 8 * l.length by ring, Nat.pow_add]
    omega

theorem bigEndian_lt (k : Nat) : bigEndian 32 k < 2 ^ 256 := by
  have := ofBytes_lt (bytesOf 32 k).reverse
  rw [List.length_reverse, bytesOf_length] at this
  exact this

theorem xmssHash_eq (k key n m : Nat) (hn : n ≤ 64) : xmssHash k key n m = keccakF (block k key n m) % 2 ^ 256 := by
  have hb := bigEndian_lt k
  have hk := Nat.mod_lt key (show 0 < 2 ^ 256 by decide)
  have hm := Nat.mod_lt m (show 0 < 2 ^ (8 * n) from Nat.pow_pos (by decide))
  have e1 : (⟨0, 0⟩ : Sponge).absorb 32 (bigEndian 32 k) = ⟨bigEndian 32 k, 32⟩ := by
    rw [absorb_eq _ _ _ (by decide) (by decide)]
    simp only [Nat.mul_zero, Nat.pow_zero, Nat.one_mul, Nat.zero_add, Nat.mod_eq_of_lt (show bigEndian 32 k < 2 ^ (8 * 32) from hb)]
  have e2 : (⟨bigEndian 32 k, 32⟩ : Sponge).absorb 32 key = ⟨bigEndian 32 k + 2 ^ 256 * (key % 2 ^ 256), 64⟩ :=
    absorb_eq _ _ _ (show 32 + 32 ≤ 135 by decide) hb
  have l2 : bigEndian 32 k + 2 ^ 256 * (key % 2 ^ 256) < 2 ^ (256 + 256) := by
    rw [Nat.pow_add 2 256 256]
    generalize bigEndian 32 k = x at hb ⊢
    generalize key % 2 ^ 256 = y at hk ⊢
    generalize (2 : Nat) ^ 256 = q at hb hk ⊢
    nlinarith
  have e3 : (⟨bigEndian 32 k + 2 ^ 256 * (key % 2 ^ 256), 64⟩ : Sponge).absorb n m =
      ⟨bigEndian 32 k + 2 ^ 256 * (key % 2 ^ 256) + 2 ^ 512 * (m % 2 ^ (8 * n)), 64 + n⟩ :=
    absorb_eq _ _ _ (by simp only; omega) l2
  have l3 : bigEndian 32 k + 2 ^ 256 * (key % 2 ^ 256) + 2 ^ 512 * (m % 2 ^ (8 * n)) < 2 ^ (8 * (64 + n)) := by
    rw [show 8 * (64 + n) = 512 + 8 * n by ring, Nat.pow_add]
    generalize bigEndian 32 k + 2 ^ 256 * (key % 2 ^ 256) = z at l2 ⊢
    generalize m % 2 ^ (8 * n) = y at hm ⊢
    generalize 2 ^ (8 * n) = w at hm ⊢
    generalize (2 : Nat) ^ 512 = q at l2 ⊢
    nlinarith
  unfold xmssHash shake256
  simp only [List.foldl_cons, List.foldl_nil, e1, e2, e3]
  unfold Sponge.digest block
  have hr : (64 + n) % shakeRate = 64 + n := Nat.mod_eq_of_lt (show 64 + n < 136 by omega)
  simp only [hr]
  rw [xor_above _ l3]
  have l4 : bigEndian 32 k + 2 ^ 256 * (key % 2 ^ 256) + 2 ^ 512 * (m % 2 ^ (8 * n)) + 2 ^ (8 * (64 + n)) * 31 < 2 ^ 1080 := by
    have h8 : 2 ^ (8 * (64 + n)) * 256 ≤ 2 ^ 1080 := by
      rw [show (256 : Nat) = 2 ^ 8 from rfl, ← Nat.pow_add]
      exact Nat.pow_le_pow_right (by decide) (by omega)
    generalize bigEndian 32 k + 2 ^ 256 * (key % 2 ^ 256) + 2 ^ 512 * (m % 2 ^ (8 * n)) = z at l3 ⊢
    generalize (2 : Nat) ^ (8 * (64 + n)) = w at l3 h8 ⊢
    generalize (2 : Nat) ^ 1080 = q at h8 ⊢
    omega
  rw [show 8 * (shakeRate - 1) = 1080 from rfl, xor_above _ l4]

/-- Many keyed hashes at once: key and message of each. -/
def manyHash (k n : Nat) (ps : List (Nat × Nat)) : List Nat :=
  forced (bigEndian 32 k) fun b => forced (2 ^ 256) fun c => forced (2 ^ 512) fun d => forced (2 ^ (8 * n)) fun w =>
  forced (2 ^ (8 * (64 + n)) * 0x1F + 2 ^ 1080 * 0x80) fun t =>
  manyKeccak (ps.map fun p => Nat.add (Nat.add b (Nat.mul c (Nat.mod p.1 c))) (Nat.add (Nat.mul d (Nat.mod p.2 w)) t))

theorem block_raw (k key n m : Nat) : block k key n m = Nat.add (Nat.add (bigEndian 32 k) (Nat.mul (2 ^ 256) (Nat.mod key (2 ^ 256))))
    (Nat.add (Nat.mul (2 ^ 512) (Nat.mod m (2 ^ (8 * n)))) (2 ^ (8 * (64 + n)) * 0x1F + 2 ^ 1080 * 0x80)) := by
  unfold block
  generalize (2 : Nat) ^ 256 = c
  generalize (2 : Nat) ^ 512 = d
  generalize (2 : Nat) ^ 1080 = u
  generalize (2 : Nat) ^ (8 * n) = w
  generalize (2 : Nat) ^ (8 * (64 + n)) = t
  generalize bigEndian 32 k = b
  show b + c * (key % c) + d * (m % w) + t * 0x1F + u * 0x80 = b + c * (key % c) + (d * (m % w) + (t * 0x1F + u * 0x80))
  simp only [Nat.add_assoc]

theorem manyHash_eq (k n : Nat) (hn : n ≤ 64) (ps : List (Nat × Nat)) : manyHash k n ps = ps.map fun p => xmssHash k p.1 n p.2 := by
  unfold manyHash
  simp only [forced_eq]
  rw [manyKeccak_eq, List.map_map]
  apply List.map_congr_left
  intro p _
  rw [Function.comp_apply, xmssHash_eq k p.1 n p.2 hn, block_raw]

/-- An address, its words below 256 put in their place. -/
def fastBe (w : Nat) : Nat := bif Nat.ble w (nat_lit 255) then Nat.mul w (nat_lit 0x1000000) else bigEndian 4 w
def fastAdrs : List Nat → Nat
  | [] => 0
  | w :: ws => Nat.add (fastBe w) (Nat.mul (nat_lit 0x100000000) (fastAdrs ws))

theorem fastBe_eq (w : Nat) : fastBe w = bigEndian 4 w := by
  have h : ∀ w < 256, Nat.mul w 0x1000000 = bigEndian 4 w := by decide +kernel
  unfold fastBe
  cases hb : Nat.ble w 255
  · rfl
  · rw [cond_true, h w (by have := Nat.le_of_ble_eq_true hb; omega)]

theorem fastAdrs_eq (ws : List Nat) : fastAdrs ws = xmssAdrs ws := by
  induction ws with
  | nil => rfl
  | cons w ws ih =>
    have hb : bigEndian 4 w < 2 ^ 32 := by
      have := ofBytes_lt (bytesOf 4 w).reverse
      rw [List.length_reverse, bytesOf_length] at this
      exact this
    rw [fastAdrs, ih, fastBe_eq]
    unfold xmssAdrs
    rw [List.map_cons, packLanes, Nat.mod_eq_of_lt hb]
    rfl

/-- Many joins at once: the address, the left and the right node of each. -/
def manyJoin (seed : Nat) (js : List (List Nat × Nat × Nat)) : List Nat :=
  let a (k : Nat) := js.map fun j => (seed, fastAdrs (j.1 ++ [k]))
  forcedL (manyHash 3 32 (a 0 ++ a 1 ++ a 2)) fun f =>
  manyHash 1 64 ((js.zip ((f.take js.length).zip (((f.drop js.length).take js.length).zip (f.drop (2 * js.length))))).map fun q =>
    (q.2.1, Nat.xor q.1.2.1 q.2.2.1 + 2 ^ 256 * Nat.xor q.1.2.2 q.2.2.2))

theorem zip_map_self {α β : Type} (l : List α) (f : α → β) : l.zip (l.map f) = l.map fun a => (a, f a) := by
  induction l with
  | nil => rfl
  | cons a l ih => simp [ih]

theorem joins_zip (H : Nat → Nat → Nat → Nat → Nat) (f : Nat → List Nat × Nat × Nat → Nat) (js : List (List Nat × Nat × Nat)) :
    ((js.zip ((js.map (f 0)).zip ((js.map (f 1)).zip (js.map (f 2))))).map fun q => (q.2.1, Nat.xor q.1.2.1 q.2.2.1 + 2 ^ 256 * Nat.xor q.1.2.2 q.2.2.2)).map
      (fun p => H 1 p.1 64 p.2) = js.map fun j => H 1 (f 0 j) 64 (Nat.xor j.2.1 (f 1 j) + 2 ^ 256 * Nat.xor j.2.2 (f 2 j)) := by
  induction js with
  | nil => rfl
  | cons j js ih => simp only [List.map_cons, List.zip_cons_cons, ih]

theorem manyJoin_eq (seed : Nat) (js : List (List Nat × Nat × Nat)) : manyJoin seed js = js.map fun j => xmssJoin seed j.1 j.2.1 j.2.2 := by
  have h3 (k : Nat) : (js.map fun j => (seed, xmssAdrs (j.1 ++ [k]))).map (fun p => xmssHash 3 p.1 32 p.2) = js.map fun j => xmssPrf seed (j.1 ++ [k]) := by
    rw [List.map_map]
    simp only [xmssPrf, Function.comp_def]
  have hj := joins_zip xmssHash (fun k j => xmssPrf seed (j.1 ++ [k])) js
  unfold manyJoin
  simp only [forcedL_eq, fastAdrs_eq]
  rw [manyHash_eq 3 32 (by decide), manyHash_eq 1 64 (by decide), List.map_append, List.map_append, h3, h3, h3]
  generalize hA : (js.map fun j => xmssPrf seed (j.1 ++ [0])) = A at hj ⊢
  generalize hB : (js.map fun j => xmssPrf seed (j.1 ++ [1])) = B at hj ⊢
  generalize hC : (js.map fun j => xmssPrf seed (j.1 ++ [2])) = C at hj ⊢
  have la : A.length = js.length := by rw [← hA, List.length_map]
  have lb : B.length = js.length := by rw [← hB, List.length_map]
  have t1 : (A ++ B ++ C).take js.length = A := by rw [List.append_assoc, ← la, List.take_left]
  have t2 : ((A ++ B ++ C).drop js.length).take js.length = B := by
    rw [List.append_assoc, ← la, List.drop_left, la, ← lb, List.take_left]
  have t3 : (A ++ B ++ C).drop (2 * js.length) = C := by
    rw [show 2 * js.length = (A ++ B).length by rw [List.length_append, la, lb]; ring, List.drop_left]
  rw [t1, t2, t3]
  exact hj

/-- The permutation of one state, whole. -/
def oneKeccak (s : Nat) : Nat :=
  let a (i : Nat) : Nat := lane 64 s i
  packLanes 64 (manyRounds 1 0xFFFFFFFFFFFFFFFF keccakRc (a 0) (a 1) (a 2) (a 3) (a 4) (a 5) (a 6) (a 7) (a 8) (a 9) (a 10) (a 11)
      (a 12) (a 13) (a 14) (a 15) (a 16) (a 17) (a 18) (a 19) (a 20) (a 21) (a 22) (a 23) (a 24))

theorem oneKeccak_eq (s : Nat) : oneKeccak s = keccakF s := by
  have hs (f : (Nat → BitVec 64) → BitVec 64) : side [laneBv s] f = (f (laneBv s)).toNat := by
    simp only [side, List.map_cons, List.map_nil, packLanes]
    rw [Nat.mod_eq_of_lt (BitVec.isLt _)]; rfl
  have := manyRounds_eq keccakRc (by decide) [laneBv s]
  simp only [hs] at this
  have hl (i : Nat) : (laneBv s i).toNat = lane 64 s i := Nat.mod_eq_of_lt (Nat.mod_lt _ (by decide))
  simp only [hl] at this
  rw [keccakF_eq, oneKeccak]
  exact congrArg (packLanes 64) this

/-- Bytes absorbed, each evaluated before the next. -/
def fastAbsorb : Nat → Nat → Nat → Nat → Sponge
  | 0, _, s, a => ⟨s, a⟩
  | n + 1, v, s, a =>
    forced (Nat.xor s (v % 256 % 256 * 2 ^ (8 * (a % shakeRate)))) fun s =>
    forced (if a % shakeRate = shakeRate - 1 then oneKeccak s else s) fun s =>
    forced (a + 1) fun a => forced (v / 256) fun v => fastAbsorb n v s a

theorem fastAbsorb_eq (n : Nat) : ∀ v s a, fastAbsorb n v s a = (⟨s, a⟩ : Sponge).absorb n v := by
  induction n with
  | zero => intros; rfl
  | succ n ih =>
    intro v s a
    rw [fastAbsorb, forced_eq, forced_eq, forced_eq, forced_eq, ih, oneKeccak_eq, Sponge.absorb, Sponge.byte]

/-- SHAKE256 of a list of byte strings. -/
def fastShake (parts : List (Nat × Nat)) : Nat :=
  let p := parts.foldl (fun (p : Sponge) x => fastAbsorb x.1 x.2 p.state p.absorbed) { state := 0, absorbed := 0 }
  let k := p.absorbed % shakeRate
  oneKeccak (Nat.xor (Nat.xor p.state (0x1F * 2 ^ (8 * k))) (0x80 * 2 ^ (8 * (shakeRate - 1)))) % 2 ^ 256

theorem fastShake_eq (parts : List (Nat × Nat)) : fastShake parts = shake256 parts := by
  simp only [fastShake, shake256, Sponge.digest, fastAbsorb_eq, oneKeccak_eq]

/-- One step of every chain of a signature that has come to it. -/
def manyStep (seed ots i : Nat) (ds : List (Nat × Nat)) (xs : List Nat) : List Nat :=
  let a (k : Nat) := ds.map fun e => (seed, fastAdrs [0, 0, 0, 0, ots, e.2, i, k])
  forcedL (manyHash 3 32 (a 0 ++ a 1)) fun f =>
  forcedL (manyHash 0 32 ((xs.zip ((f.take ds.length).zip (f.drop ds.length))).map fun z => (z.2.1, Nat.xor z.1 z.2.2))) fun ys =>
  (ds.zip (xs.zip ys)).map fun z => bif Nat.ble z.1.1 i then z.2.2 else z.2.1

/-- All chains, from step i on. -/
def manyChain (seed ots : Nat) (ds : List (Nat × Nat)) : Nat → Nat → List Nat → List Nat
  | 0, _, xs => xs
  | n + 1, i, xs => forcedL (manyStep seed ots i ds xs) fun xs => manyChain seed ots ds n (i + 1) xs

theorem steps_zip (H : Nat → Nat → Nat → Nat → Nat) (f : Nat → Nat × Nat → Nat) (g : Nat × Nat → Nat) (i : Nat) (ds : List (Nat × Nat)) :
    (ds.zip ((ds.map g).zip ((((ds.map g).zip ((ds.map (f 0)).zip (ds.map (f 1)))).map fun z => (z.2.1, Nat.xor z.1 z.2.2)).map fun p => H 0 p.1 32 p.2))).map
      (fun z => bif Nat.ble z.1.1 i then z.2.2 else z.2.1) =
    ds.map fun e => bif Nat.ble e.1 i then H 0 (f 0 e) 32 (Nat.xor (g e) (f 1 e)) else g e := by
  induction ds with
  | nil => rfl
  | cons e ds ih => simp only [List.map_cons, List.zip_cons_cons, ih]

theorem manyStep_eq (seed ots i : Nat) (ds : List (Nat × Nat)) (g : Nat × Nat → Nat) : manyStep seed ots i ds (ds.map g) =
    ds.map fun e => bif Nat.ble e.1 i then wotsStep seed ots e.2 i (g e) else g e := by
  have h3 (k : Nat) : (ds.map fun e => (seed, xmssAdrs [0, 0, 0, 0, ots, e.2, i, k])).map (fun p => xmssHash 3 p.1 32 p.2) =
      ds.map fun e => xmssPrf seed [0, 0, 0, 0, ots, e.2, i, k] := by
    rw [List.map_map]
    simp only [xmssPrf, Function.comp_def]
  have hj := steps_zip xmssHash (fun k e => xmssPrf seed [0, 0, 0, 0, ots, e.2, i, k]) g i ds
  unfold manyStep
  simp only [forcedL_eq, fastAdrs_eq]
  rw [manyHash_eq 3 32 (by decide), manyHash_eq 0 32 (by decide), List.map_append, h3, h3]
  generalize hA : (ds.map fun e => xmssPrf seed [0, 0, 0, 0, ots, e.2, i, 0]) = A at hj ⊢
  generalize hB : (ds.map fun e => xmssPrf seed [0, 0, 0, 0, ots, e.2, i, 1]) = B at hj ⊢
  have la : A.length = ds.length := by rw [← hA, List.length_map]
  rw [show (A ++ B).take ds.length = A by rw [← la, List.take_left], show (A ++ B).drop ds.length = B by rw [← la, List.drop_left]]
  exact hj

/-- A chain whose steps before d are left out. -/
def oneChain (st : Nat → Nat → Nat) (d : Nat) : Nat → Nat → Nat → Nat
  | 0, _, x => x
  | n + 1, i, x => oneChain st d n (i + 1) (bif Nat.ble d i then st i x else x)

theorem manyChain_eq (seed ots : Nat) (ds : List (Nat × Nat)) (n : Nat) : ∀ i (g : Nat × Nat → Nat), manyChain seed ots ds n i (ds.map g) =
    ds.map fun e => oneChain (wotsStep seed ots e.2) e.1 n i (g e) := by
  induction n with
  | zero => intros; rfl
  | succ n ih =>
    intro i g
    simp only [manyChain, forcedL_eq, oneChain]
    rw [manyStep_eq, ih]

theorem chain_from (st : Nat → Nat → Nat) (d n : Nat) : ∀ i x, d ≤ i → oneChain st d n i x = chainSteps st n i x := by
  induction n with
  | zero => intros; rfl
  | succ n ih =>
    intro i x h
    rw [oneChain, Nat.ble_eq_true_of_le h, cond_true, ih _ _ (by omega), chainSteps]

theorem chain_all (st : Nat → Nat → Nat) (d n : Nat) : ∀ i x, i ≤ d → d ≤ i + n → oneChain st d n i x = chainSteps st (i + n - d) d x := by
  induction n with
  | zero => intro i x h1 h2; rw [show i + 0 - d = 0 by omega]; rfl
  | succ n ih =>
    intro i x h1 h2
    rcases Nat.lt_or_ge i d with h | h
    · have hb : Nat.ble d i = false := by
        cases hb : Nat.ble d i
        · rfl
        · exact absurd (Nat.le_of_ble_eq_true hb) (by omega)
      rw [oneChain, hb, cond_false, ih _ _ (by omega) (by omega), show i + 1 + n = i + (n + 1) by omega]
    · have : i = d := by omega
      subst this
      rw [chain_from _ _ _ _ _ (Nat.le_refl _), show i + (n + 1) - i = n + 1 by omega]

/-- Neighbours in a level of an L-tree, with their address, and the node left over. -/
def pairsOf (seed ots h : Nat) : Nat → List Nat → List (List Nat × Nat × Nat)
  | i, a :: b :: r => ([0, 0, 0, 1, ots, h, i], a, b) :: pairsOf seed ots h (i + 1) r
  | _, _ => []
def restOf : List Nat → List Nat
  | _ :: _ :: r => restOf r
  | l => l

theorem level_eq (seed ots h : Nat) : ∀ (l : List Nat) i, ltreeLevel seed ots h i l =
    (pairsOf seed ots h i l).map (fun j => xmssJoin seed j.1 j.2.1 j.2.2) ++ restOf l
  | [], _ => rfl
  | [_], _ => rfl
  | a :: b :: r, i => by
    have := level_eq seed ots h r (i + 1)
    rw [ltreeLevel, pairsOf, restOf, List.map_cons, List.cons_append, this]

def fastTree (seed ots : Nat) : Nat → Nat → List Nat → Nat
  | 0, _, l => l.headD 0
  | fuel + 1, h, l => bif Nat.ble l.length 1 then l.headD 0 else
    forcedL (manyJoin seed (pairsOf seed ots h 0 l) ++ restOf l) fun l => fastTree seed ots fuel (h + 1) l

theorem fastTree_eq (seed ots : Nat) (fuel : Nat) : ∀ h l, fastTree seed ots fuel h l = ltree seed ots fuel h l := by
  induction fuel with
  | zero => intros; rfl
  | succ n ih =>
    intro h l
    rw [fastTree, ltree, forcedL_eq, manyJoin_eq, ← level_eq, ih]
    by_cases hl : l.length ≤ 1
    · rw [Nat.ble_eq_true_of_le hl, cond_true, if_pos hl]
    · have hb : Nat.ble l.length 1 = false := by
        cases hb : Nat.ble l.length 1
        · rfl
        · exact absurd (Nat.le_of_ble_eq_true hb) hl
      rw [hb, cond_false, if_neg hl]

def fastPath (seed idx : Nat) : Nat → List Nat → Nat → Nat
  | _, [], x => x
  | h, a :: r, x =>
    let ws := [0, 0, 0, 2, 0, h, idx / 2 ^ (h + 1)]
    forced ((manyJoin seed [if idx / 2 ^ h % 2 = 0 then (ws, x, a) else (ws, a, x)]).headD 0) fun x => fastPath seed idx (h + 1) r x

theorem pick (J : List Nat → Nat → Nat → Nat) (ws : List Nat) (x a c : Nat) :
    ([if c = 0 then (ws, x, a) else (ws, a, x)].map fun j => J j.1 j.2.1 j.2.2).headD 0 = if c = 0 then J ws x a else J ws a x := by
  by_cases h : c = 0
  · rw [if_pos h, if_pos h]; rfl
  · rw [if_neg h, if_neg h]; rfl

theorem fastPath_eq (seed idx : Nat) (l : List Nat) : ∀ h x, fastPath seed idx h l x = xmssPath seed idx h l x := by
  induction l with
  | nil => intros; rfl
  | cons a r ih =>
    intro h x
    rw [fastPath, forced_eq, manyJoin_eq, ih, pick (xmssJoin seed), xmssPath]

/-- The verification of a signature, hashes side by side. -/
def fastVerify (key n msg sig : Nat) : Bool :=
  forced (byteRange key 0 32) fun root => forced (byteRange key 32 32) fun seed =>
  forced (bigEndian 4 (byteRange sig 0 4)) fun idx =>
  forced (fastShake [(32, bigEndian 32 2), (32, byteRange sig 4 32), (32, root), (32, bigEndian 32 idx), (n, msg)]) fun m =>
  forcedL (wotsDigits m) fun digits =>
  forcedL (digits.zipIdx.map fun q => byteRange sig (36 + 32 * q.2) 32) fun xs =>
  forcedL (manyChain seed idx digits.zipIdx 15 0 xs) fun ends =>
  forced (fastTree seed idx 8 0 ends) fun leaf =>
  idx < 2 ^ 20 && fastPath seed idx 0 ((List.range 20).map fun k => byteRange sig (2180 + 32 * k) 32) leaf == root

theorem digit_lt (m : Nat) : ∀ d ∈ wotsDigits m, d < 16 := by
  have h7 (x : Nat) : bits x 7 4 < 16 := Nat.mod_lt _ (by decide)
  have h3 (x : Nat) : bits x 3 0 < 16 := Nat.mod_lt _ (by decide)
  intro d hd
  simp only [wotsDigits, List.mem_append, List.mem_map, List.mem_cons, List.not_mem_nil, or_false] at hd
  rcases hd with ⟨i, _, rfl⟩ | hd
  · by_cases hi : i % 2 = 0
    · rw [if_pos hi, if_pos hi]; exact h7 _
    · rw [if_neg hi, if_neg hi]; exact h3 _
  · generalize (List.map (fun x => 15 - x) _).sum = c at hd
    omega

theorem ends_eq (seed idx sig : Nat) (digits : List Nat) (hd : ∀ d ∈ digits, d < 16) :
    manyChain seed idx digits.zipIdx 15 0 (digits.zipIdx.map fun q => byteRange sig (36 + 32 * q.2) 32) =
      digits.zipIdx.map fun q => wotsChain seed idx q.2 (15 - q.1) q.1 (byteRange sig (36 + 32 * q.2) 32) := by
  rw [manyChain_eq]
  apply List.map_congr_left
  intro q hq
  have := hd q.1 (List.fst_mem_of_mem_zipIdx hq)
  rw [chain_all _ _ _ _ _ (Nat.zero_le _) (by omega), Nat.zero_add, wotsChain]

theorem fastVerify_eq (key n msg sig : Nat) : fastVerify key n msg sig = xmssVerify key n msg sig := by
  unfold fastVerify xmssVerify
  simp only [forced_eq, forcedL_eq, fastShake_eq, fastTree_eq, fastPath_eq]
  rw [ends_eq _ _ _ _ (digit_lt _)]

def imgBytes : Nat := 0x4ad293e818be55877393409fbc171ab6dd3ee5b628fdd91a07e1e2c72b722dfbd978d4b12f86611eb3cfe825845f55af7bc012033be18934fb3d73906a0b7fa494b88e2b7fa0d13171e805bdca2dae20236ff9f8f5a11eaa3502c5a7bd07eb3f751ddd06fe2c37393041fd8ae2f16e4b5c8edad5542ad2300c25a431a07d32608989445d6054a0530984276bb96694f7dda55ae13750977eb05fcc4159bb09955cc9dfe32d7d7021beb3184508fbe0c28a0f562af34134c735a3260e697faf3481ca0442856f4a9b01e79f93e4b1a4d7f0b46f9bb12d1d2bc3e03d42344604c21972eaef1bad1522fcf5671799791c01efd64867078951f9e50e2ad4ed6f87b19cd3a6e6d741081f8b08ea1d841806719eb594701f01aa752a985984f3bf893d0a82d65f0797f9a94ec3ad76bb37d567c9e442cce6f87910b091c7308a49317f720f7a5101a4e3fcf1543a11e93ac0f6f87f1fdabcbccb2c160cbf7ad2562834483446c48c6ce6df6d4e513bddc07fc9b24b5ea6c1bc3579be13ff72e1575ac71a04a0a1064a7edbe992b801587d21217002f962fc5ab1a790c8bceb9f88074e2b2db2815e989cba34c5170b03ce8d238fd818e3a1447e08c838b30bb75bf111c0b05b06d12c658f3dfbfa96ecbc0aff744a935cd4c9b771ca1d074721a6f238f15e978bb196fbf9e3f01be57c11c1edbcf1bffa676cb3ae6a6cf921cac947ee6d631ef6a7c5883d7981b9dcb7abf9b08981b2bb8be24578b8b00ba7962ea7d3e7ef1724e3f57b200bc7ff0617718324e474fc654a954c5bfc79fa0960f5647b8198561dbdbe8cd1cf071097904368e6d8e06f88d1708aa0a942a3471b349a2bbdea414549756de7d877c263f810d213a7ed1cc3bb4e94455f28eccddc4b701b0c2977f5ed68de3ba644e3053289ba79e775f1b1471c27bfd582645f98388c3a6fcb40d60e135da997447e7e8d809187cc36ab694ad671406ad05b220e2c353b1d40504ac6456ae8fb491978304f93a46b86f69dfaf1dc489153089da09d9bcb09c758a42eee6a0ef5429ffe7dbd7c597a7b8344cc3f465260b8c295818ac8839068f6426e12ed23dd811ce95bc90ac33e28f213328a773372d4479c0db3f586fd0b7c97d6d0c4bf0e46d8c4f5c34d88f4011aeb74b2c4e0881279889182263ee861ba598c771a9fb0391782632f2b7310262d70ab22aefc7b58a1fc1a27e40b71ba359c116835ad23e0f5fb0a35d7bfcac2b528bd4d1a72d7fabf98d9d4b1e536613f14958873f9fbc2165f0910f6e474f8af5d3aee8c01e4d33cddd684f3d1a9b4f7ae4a156b1e7b73eb94a1a744f67419a4a8827a4c08125251f7a2056256f9ffe839e9c2d7a5fb887dfe711f7cdb149a169e7986dd5acfd26d7b2e05078aa7333c0648e26ebac9ccc48ca127977fcd1e3232cf03c2aee4b4e757850c760a53d1851edd256b4ebc7a730094e92c375549339ebaf6f057840e8ffd4047685960dd004eca7ffa3fedcef69c950889fb3885c6d7e2407e50901030a52873347659cae443cf7e1515c02f5e54b42c2d6eb42abd771051e1d8c2069619cec32cdfc37d27cbfc51c68ae9f753eab419983238025e6fffb7ef2a101aad9edb21c0a2e425a1535023b2979a4fc66cfaaf1aa6a157ec79baa318d38744b3a2d5d77f37d041054a8df7e9b58f1038a74bc39e64776f9e84daa1e3c126d1b9afa1c6092f9991c7844e74b317a024f481fa637853ce44b9e86116e4ad407fb8b6ebf006397dda353eec7f5b38df766c982e5ab3148b7486ac94f4f6df9afdddb376bbf1259b6b7c79bd5b726025435e6b1bc880c178955c2ad92038d23f35f39a1c2f6f8fbd8383f450289ff6c833b4a15256fc753e591c3dfd10a864599a49cde0462db7cb5a62ab70c105372cd54e7ea99b978d5ae0cecda83951e526fb64293dc32443592053701003002b801d325ea2ab5ea51d58450f7f703fdac578e6fa3a79cb4e97c58d99dbaa66a42a91544eedf78b47bd22887fd91150ccba438067609b10aeedc3bb89ac4d43346c60c370bdc5fc77c18cb89b3b84cc485af77864615914a8af40e123160c1bffac38e6d4382911595c564476d5fd38daab1230e45331e42bbfc26881e6ab3dcd3f6927fc8900d9aec3af45427f882de44cc002d0dc9966fb22ae1ad53e1b194f5259194110ca5b3eadf88c2b491d6e79231472018db3b41c6a006b6ce968ec1064e53c3597295169bde533b050cbe01866d361aab2ab930b670e9b20be7550526b68eaf1d3facb463850b181e2cc6506417ec00ca276e5cc5ccac9051f3e481376bdcab3fc1b02cdcb04a2635f3d126a906059803ab9c359f8269974ec6dd18a5874b4d74abe36361474569cc0fa9bf63313e49f9a238f824bd9c4891074b6d83b321c62a4c6ee374a9995611f4196a281ddfbc9aaa27e608f670ab0d1cac810f8a4f5fbbf9f206a0915f8ba37b3922f3784c7626516e03dac5c6cc4aab2d86980f8e3b8bcfe0485eac164d95908e136911a8915acd07ee73451efa44c4db4db05bf4d220f9c80abe9690ac39a825a59c2c3df5a9857d4919607897bf894df63894958dcdffa3676a9d85ba901d2cc1c587f73ea8998872d9ca31a6b4d7fe7d746af3b64bb5a5cec6ea7ad16bd509db97d076377e174fd9bd27012a0e5b2c7423f0297f0bc57491b818f5890689f98fcffac72d72b145c4b8f793c4d64b39a4ca7a2bb06fd47c286d39dc17a90060a5842ca1118152414bf834f224810ea01e3591e3760424984dce3c1021866ac444422418e7d91aa0aed058c8727fe2507fabf6183863b4fafbd489aaa83f45bbd20c5603b4590bab48bff54250d4c56d75673579d7290b6c8c3560619bebcd2ba26fd41bbd6c32bd4227c8f6ced393b5acbc9eb8d2af6f3e21251536fd95bf2a84c1b5beca3fbbf7c0d1016e00a1c92a6f5510d4ab42e880ba57d3381cd22a89f172bb8689b3bddd01464b1e7ca0ffb04ac45f430138162bc239efb0613a873d7bae222386ec79523aa91957e9666edb6fce3d111f4cec76d94bdc21b9b1c19a56291d66344857b0d37c6b605083e9b18cc74591c6dd828195861103669dcb9dee8837caeefde01ab8463e4b30aa6ad11873d31fe0890ab90aa208fc5f22e072ab7dd5a18a17a4366aac7b14829af8d36970ad2583b8e94345737b663cd53cc3fd61a4b2a8d8f20d62bd6b02ea14e32ec58b52d823b9b798a0882a9aedf974b80fe747182233748410fb46501dd4d542f351a4260b21152945d9d428f7f8b53a082e11a34cc47d7549f69e1c9deddc4d6ca28de1ab8a1bb9141d7006402da32e21ede2c2143ecda12151538a3201470db6f47728d95fecc518d4ef1e2a04f64c9f2bd61db484003eb20a2b4a7c4cf133b79cce3c87794143873c981f1d63dcecaeded4d52630030b26061f36ee3e6c3825e86e19f360fdbe9fed4ed3f57725f7d006ae14a4d9461565553e74ae130ec048f740bc200f2203b7eb35bb5e3757692a39f70efa9dbd6a6cc782a5c394994c3a4c7892a1d21725eea9903dd75d9aa951bca4cc653110da87450b58ea616601e9b502ad744c3879e8b449e542de6c1822df37a47ef3dff23c4086a0270bc36f089ddf722cf362028dbe328e037ed27fbf2e3a610658df792b2daa78f21909298ceddb4d3e0943ba01cdc077e5409616af1a8591ee5fea2114ef8baa74d456787717deba5ed087743a346ac76d435386e7d07b3b6b83f005eef000037fa5c2984de5c0b5e5ac87c968ca48dd790cf67c2ede05dcdc4016b5e2c3784de7d1ada2f35514682493894ed1799eb6ebec7141f461a7b9e98510f3db0115f4f87d570a72a64028d595ee2fe6a629a212803bbc238bd5984d7f702dd027a661053818c8b2e0d44455f2c03d9e9556b64b7000545300e7045d082da35e914a9572bbc54084a49fbb0b111c62a908b72027ca2c24fc27ed8f3d9d9e8a51d0500000000000000000000000000000000000020000000000000000000010001000000000000002800000001000000000000000000000000000000000000000000000000000000000000000000000000000000000000000000000000000000000000000000000000000000000000000000000000000000000000000000000000000000000000000000000000000000000000000000000000000000000000002800000100000000000000000600000000000000000000000000000000000000000000000000000000000000000000000000000000000000000000000000000000000000000000000000000000000000000000000000000000000000000000000000000000000000010001000100000000000001280000000000000c2c0000000000000001474d494f4c494f4e
def imgKey : Nat := 0x6034aa2096bd9951b97dba24981219f43e2c09e833f39098197368cb31cc3b9ae7c7a6e888e4d48b7c49f0a4b750d97bd9e909ad40c5de923cb0b21d162105ac

/-- Region 0 with a job on the image, its copy whole; the partition holds the image's key. -/
def loading (st : Nat) (j : Job) : State :=
  { paged (withRegion { st := st, load := true, imgAddr := 0x2000, job := some j,
                        copy := { bytes := imgBytes, len := imgSizeOf imgBytes } }) with keys := [imgKey] }

theorem img_verified : xmssVerify imgKey (sigOff imgBytes) (imgBytes % 2 ^ (8 * sigOff imgBytes)) (imgBytes >>> (8 * sigOff imgBytes)) = true := by
  rw [← fastVerify_eq]
  decide +kernel

theorem img_step1 {s : State} (h : s.keys = [imgKey]) : step1 s imgBytes = none := by
  have hk : byteRange imgBytes 12 4 = 0 := by decide +kernel
  have ho : structOk imgBytes = true := by decide +kernel
  have hz : (nth [imgKey] 0 0 != 0) = true := by decide +kernel
  have hv := img_verified
  rw [show imgKey = nth [imgKey] 0 0 from rfl] at hv
  simp only [step1, h, hk, ho, hz, hv, Bool.and_self, decide_true, Nat.zero_lt_succ, if_true]

theorem infuse_ok {s : State} {q : Nat × List ((Nat × Nat) × Nat)} (hk : s.keys = [imgKey])
    (hc : (getRegion s r0).copy = { bytes := imgBytes, len := imgSizeOf imgBytes })
    (h3 : step3 s r0 0x2000 0 (parseImage imgBytes) = .ok q) (h4 : step4 s 0 imgBytes (parseImage imgBytes) = none) :
    infuse s r0 0x2000 0 = .ok { img := parseImage imgBytes, base := q.1, rots := q.2 } := by
  unfold infuse
  rw [hc, show stagedImage { bytes := imgBytes, len := imgSizeOf imgBytes } = .ok imgBytes by decide +kernel]
  have h2 : step2 imgBytes = none := by decide +kernel
  have h5 : step5 (parseImage imgBytes) = none := by decide +kernel
  have h4' : step4 s r0.part imgBytes (parseImage imgBytes) = none := h4
  simp only [firstOf, img_step1 hk, h2, h3, h4', h5]
  rfl

/-- The header of the saved area at 0x100000: RUNNING, footprint 0, launch 9, a shape of 1 × 1, no sections, pour 0. -/
def areaHeader : Nat :=
  0x5641534F4C494F4E + 2 ^ 64 * 1 + 2 ^ 80 * 2 + 2 ^ 96 * 9 + 2 ^ 128 * 0x2000 + 2 ^ 192 * 0x1000 + 2 ^ 256 * 1 + 2 ^ 272 * 1
    + (2 ^ 512 + 2 ^ 576 + 2 ^ 640 + 2 ^ 704) * 0x1000

/-- A region that is restored from that area. -/
def restoring : State :=
  let s := loading 6 (.restore 0 0x100000)
  { s with hbm := cellsAt 0x100000 96 areaHeader ++ s.hbm }

/-- LoadEvents: a load and a restore whose copy is not whole; a load that passes; a restore that passes. -/
theorem witness_LoadEvents_passing :
    (let s := withRegion { load := true, job := some (.load 0x2000 0) }
     let u := withRegion { st := 6, load := true, job := some (.restore 0 0x100000) }
     (getRegion s r0).copy.done = false ∧ (getRegion s r0).job = some (.load 0x2000 0) ∧
       (getRegion u r0).copy.done = false ∧ (getRegion u r0).job = some (.restore 0 0x100000)) ∧
    (let s := loading 0 (.load 0x2000 0)
     (getRegion s r0).job = some (.load 0x2000 0) ∧ (getRegion s r0).copy.done = true ∧ ∃ q, infuse s r0 0x2000 0 = .ok q) ∧
    (let s := restoring
     let g := getRegion s r0
     g.job = some (.restore 0 0x100000) ∧ g.copy.done = true ∧ ∃ q, infuse s r0 g.imgAddr 0 = .ok q ∧
       vreadLong s 0 80 0x100000 0x1000 = .ok areaHeader ∧ areaAgrees s (restoreBase g 0 q areaHeader s.clk) q.img areaHeader = true ∧
       ∀ a ∈ [0x40, 0x48, 0x50, 0x58], byteRange areaHeader (if a = 0x58 then 0x18 else a + 8) 8 - byteRange areaHeader a 8 = 0 ∧
         (vreadLong s 0 2 (0x100000 + byteRange areaHeader a 8) 0).toOption = some 0) := by
  refine ⟨by decide +kernel, ⟨by decide +kernel, by decide +kernel, ?_⟩, by decide +kernel, by decide +kernel, ?_⟩
  · have h3 : step3 (loading 0 (.load 0x2000 0)) r0 0x2000 0 (parseImage imgBytes) = .ok (0, []) := by decide +kernel
    exact ⟨_, infuse_ok rfl (by decide +kernel) h3 (by decide +kernel)⟩
  · have h3 : step3 restoring r0 0x2000 0 (parseImage imgBytes) = .ok (0, []) := by decide +kernel
    have ha : (getRegion restoring r0).imgAddr = 0x2000 := by decide +kernel
    refine ⟨_, by rw [ha]; exact infuse_ok rfl (by decide +kernel) h3 (by decide +kernel), ?_, by decide +kernel, by decide +kernel⟩
    have : (vreadLong restoring 0 80 0x100000 0x1000).toOption = some areaHeader := by decide +kernel
    revert this
    cases vreadLong restoring 0 80 0x100000 0x1000 <;> simp [Except.toOption]

end Sys2Proof.Tests
end

