-- ==== Sys2Proof/Tests/WitnessRegions.lean ====
section
/-! SUPPORT. For the statements about pours, loads, saves and restores, states that meet their hypotheses, clause by clause. (Loads
and restores that pass: Tests/WitnessLoads.lean.) -/

namespace Sys2Proof.Tests
open Sys2Proof.Machine
set_option Elab.async false

/-- A state at a later clk. -/
def atClk (n : Nat) (s : State) : State := { s with clk := n }

/-- A region with one sink that holds EOS. -/
def sunk (f : Region → Region) : State := ran 0x0C0000007FE00000 f fun e => { e with states := [2 ^ 63] }

/-- PourEvents: a stop to broadcast; a complete cut, and one for an eviction; a set that waits for ever; a pour that is over,
with one to follow and with none; a boundary in RUNNING and in DRAINING. -/
theorem witness_PourEvents :
    (let g := getRegion (ran 0 (fun g => { g with stopping := true }) id) r0
     g.stopping = true ∧ g.bcastClk = none ∧ running g = true) ∧
    (let s := atClk 64 (ran 0 (fun g => { g with stopping := true, bcastClk := some 0, cutp := true }) id)
     let u := atClk 64 (ran 0 (fun g => { g with stopping := true, bcastClk := some 0, cutp := true, job := some (.evict 0x2000) }) id)
     running (getRegion s r0) = true ∧ cutDone s r0 = true ∧ (getRegion s r0).fronts = [] ∧ (getRegion s r0).job = none ∧
       running (getRegion u r0) = true ∧ cutDone u r0 = true ∧ (getRegion u r0).fronts = [] ∧ (getRegion u r0).job = some (.evict 0x2000)) ∧
    (let s := atClk 1024 (ran 0 (fun g => { g with img := { dlim := 10 } }) fun e => { e with sets := [{ slot := 0, tag := 9, a := some { tok := kt 0 9 } }] })
     doldrumsDue s r0 = true ∧ (getRegion s r0).recorded = [] ∧ (getRegion s r0).faultq.length < 32) ∧
    (let s := sunk fun g => { g with img := { npour := 2 } }
     let u := sunk fun g => { g with img := { npour := 1 } }
     pourOver (getRegion s r0) = true ∧ (getRegion s r0).pour + 1 < (getRegion s r0).img.npour ∧
       pourOver (getRegion u r0) = true ∧ (getRegion u r0).img.npour ≤ (getRegion u r0).pour + 1) ∧
    (let s := ran 0 (fun g => { g with between := true }) id
     let u := ran 0 (fun g => { g with between := true, st := 3 }) id
     let v := ran 0 (fun g => { g with between := true, starting := true }) id
     (getRegion s r0).between = true ∧ (getRegion s r0).starting = false ∧ (getRegion s r0).st = 2 ∧
       wheelIndex s (firstDie (getRegion s r0).place) = 0 ∧ (getRegion s r0).shrp = false ∧ pourWaits s r0 = false ∧
       (getRegion u r0).between = true ∧ (getRegion u r0).st = 3 ∧ (getRegion u r0).shrp = false ∧ pourWaits u r0 = false ∧
       (getRegion v r0).between = true ∧ (getRegion v r0).starting = true ∧ (getRegion v r0).st = 2 ∧
       wheelIndex (atClk 1 s) (firstDie (getRegion s r0).place) ≠ 0) := by decide +kernel

/-- PourEvents: a set that waits for ever beside a full pool, and beside a free one; a pour that is over with a token left and
its work area mapped; an element that the next pour needs and another region holds. -/
theorem witness_PourEnds :
    (let x (e : Elem) : Elem := { e with sets := [{ slot := 0, tag := 9, a := some { tok := kt 0 9 } }] }
     let s := atClk 1024 (ran 0 (fun g => { g with img := { dlim := 10 } }) x)
     (blocked s r0).any (fun q => bit q.2.2 3 || bit q.2.2 6) = false ∧ doldrumsDue s r0 = true) ∧
    (let s := paged (sunk fun g => { g with img := { npour := 1 }, imgAddr := 0x100000 })
     let t := modElem s e0 fun e => { e with sets := [{ slot := 0, tag := 9, a := some { tok := kt 0 9 } }] }
     let g := getRegion t r0
     pourOver g = true ∧ (∀ e ∈ g.elems, e.pending = []) ∧ g.faultq.length + 2 ≤ 32 ∧ t.badLines = [] ∧ t.softLines = [] ∧ Memory.wf t.hbm = true ∧
       (xlatW t 0 (workArea g + 0x4000 + 32 * g.pour)).toOption = some 0x104000 ∧ inHbm 0x104000 = true ∧
       ((resids t g).filter fun x => x.at_ == some 0 && x.toks != 0).length = 1) ∧
    (let v (w : Nat) : Variant := { foot := 1, pol := 0, force := 0, w := w, h := 1, nr := 0, size := 0, carry := [], elems := [], routes := [] }
     let s := ran 0 (fun g => { g with between := true, foot := 1, place := 0, img := { npour := 2, regw := 2, regh := 1, pours := [[v 1], [v 2]] } }) id
     let t := setRegion s ⟨0, 1⟩ { st := 2, place := 512, img := { npour := 1, regw := 1, regh := 1, pours := [[{ v 1 with foot := 0 }]] } }
     pourWaits t r0 = true ∧ (getRegion t r0).shrp = false) := by decide +kernel

/-- What a load answers where its image cannot be read. -/
def refusal (s : State) : Option Refused := match infuse s r0 0x2000 0 with | .error f => some f | .ok _ => none

theorem refused_of {s : State} {f : Refused} (h : refusal s = some f) : infuse s r0 0x2000 0 = .error f := by
  unfold refusal at h
  cases hi : infuse s r0 0x2000 0 <;> simp_all

/-- LoadEvents: a load and a restore that fail at step 1, and a save. -/
theorem witness_LoadEvents :
    (let s := withRegion { load := true, copy := { bad := true }, job := some (.load 0x2000 0) }
     (getRegion s r0).job = some (.load 0x2000 0) ∧ (getRegion s r0).copy.done = true ∧ ∃ f, infuse s r0 0x2000 0 = .error f) ∧
    (let s := withRegion { st := 5, job := some (.save 0x3000) }
     (getRegion s r0).job = some (.save 0x3000)) ∧
    (let s := withRegion { st := 6, load := true, copy := { bad := true }, imgAddr := 0x2000, job := some (.restore 0 0x3000) }
     (getRegion s r0).job = some (.restore 0 0x3000) ∧ (getRegion s r0).copy.done = true ∧ ∃ f, infuse s r0 (getRegion s r0).imgAddr 0 = .error f) := by
  refine ⟨⟨by decide +kernel, by decide +kernel, ?_⟩, by decide +kernel, by decide +kernel, by decide +kernel, ?_⟩
  · cases h : refusal (withRegion { load := true, copy := { bad := true }, job := some (.load 0x2000 0) }) with
    | some f => exact ⟨f, refused_of h⟩
    | none => exact absurd h (by decide +kernel)
  · cases h : refusal (withRegion { st := 6, load := true, copy := { bad := true }, imgAddr := 0x2000, job := some (.restore 0 0x3000) }) with
    | some f => exact ⟨f, refused_of h⟩
    | none => exact absurd h (by decide +kernel)

end Sys2Proof.Tests
end

section
/-! SUPPORT. The module's own events (spec/00: R5; spec/09: R208, R213; spec/20: R395; spec/22: R404 to R412; spec/23: R414 to R418):
boot and resets, attestation, soft errors, the power regulators, the read-only blocks; and the state after reset. -/

namespace Sys2Proof.Machine

/-! ### Lists, keys and bit counts -/

/-- A list with a changed element, read anywhere. -/
theorem nth_modNth {α : Type} {l : List α} {n : Nat} (f : α → α) (d : α) (h : n < l.length) (m : Nat) :
    nth (modNth l n f) m d = if m = n then f (nth l n d) else nth l m d := by
  by_cases hm : m = n
  · rw [hm, if_pos rfl, nth_modNth_same l n f d h]
  · rw [if_neg hm, nth_modNth_ne l n m f d (Ne.symm hm)]

theorem lookupKey_delKey_ne {κ α : Type} [DecidableEq κ] (l : List (κ × α)) {k k' : κ} (h : k ≠ k') :
    lookupKey (delKey l k) k' = lookupKey l k' := by
  induction l with
  | nil => rfl
  | cons x xs ih =>
    obtain ⟨a, b⟩ := x
    by_cases ha : a = k
    · subst ha; simp [delKey, lookupKey, ih, h]
    · by_cases hb : a = k' <;> simp [delKey, lookupKey, ih, ha, hb, Ne.symm h]

theorem nth_replicate {α : Type} (n : Nat) (x d : α) {i : Nat} (h : i < n) : nth (List.replicate n x) i d = x := by
  rw [nth, List.getD_eq_getElem _ _ (by simpa using h), List.getElem_replicate]

@[simp] theorem popcount_zero (n : Nat) : popcount n 0 = 0 := by
  induction n with
  | zero => rfl
  | succ n ih => simpa [popcount] using ih

/-- The 1 bits of two numbers without a common one add up. -/
theorem popcount_or (n : Nat) {x y : Nat} (h : x &&& y = 0) : popcount n (x ||| y) = popcount n x + popcount n y := by
  induction n generalizing x y with
  | zero => rfl
  | succ n ih =>
    have hdiv : x / 2 &&& y / 2 = 0 := by rw [← Nat.and_div_two, h]
    have hand : x % 2 &&& y % 2 = 0 := by simpa [h] using (Nat.and_mod_two_pow (a := x) (b := y) (n := 1)).symm
    have hmod : (x ||| y) % 2 = x % 2 + y % 2 := by
      rw [show (x ||| y) % 2 = x % 2 ||| y % 2 from Nat.or_mod_two_pow (n := 1)]
      rcases Nat.mod_two_eq_zero_or_one x with hx | hx <;> rcases Nat.mod_two_eq_zero_or_one y with hy | hy <;>
        simp [hx, hy] at hand ⊢
    simp only [popcount]
    rw [hmod, Nat.or_div_two, ih hdiv]
    omega

theorem popcount_two_pow {n k : Nat} (h : k < n) : popcount n (2 ^ k) = 1 := by
  induction n generalizing k with
  | zero => omega
  | succ n ih =>
    cases k with
    | zero => simp [popcount]
    | succ k =>
      have hk : popcount n (2 ^ k) = 1 := ih (by omega)
      simp [popcount, Nat.pow_succ, hk]

theorem popcount_two_pow_or {n j k : Nat} (hj : j < n) (hk : k < n) (h : j ≠ k) : popcount n (2 ^ j ||| 2 ^ k) = 2 := by
  have hd : 2 ^ j &&& 2 ^ k = 0 := by simp [Nat.two_pow_and, Nat.testBit_two_pow_of_ne (Ne.symm h)]
  rw [popcount_or n hd, popcount_two_pow hj, popcount_two_pow hk]

/-! ### Bytes of little-endian numbers (R13) -/

/-- Byte i of a little-endian number that begins with a byte. -/
theorem byte_cons (b : Byte) (x : Nat) :
    ∀ i, BitVec.ofNat 8 ((b.toNat + 256 * x) / 256 ^ i) = if i = 0 then b else BitVec.ofNat 8 (x / 256 ^ (i - 1))
  | 0 => BitVec.eq_of_toNat_eq (by have hb : b.toNat < 256 := b.isLt; simpa using hb)
  | i + 1 => by
    have hb : b.toNat < 256 := b.isLt
    have hq : (b.toNat + 256 * x) / 256 = x := by omega
    rw [Nat.pow_succ', ← Nat.div_div_eq_div_mul, hq]
    rfl

theorem byte_ofBytes {l : List Byte} {i : Nat} (h : i < l.length) : BitVec.ofNat 8 (ofBytes l / 256 ^ i) = l[i] := by
  induction l generalizing i with
  | nil => simp at h
  | cons b bs ih =>
    rw [ofBytes, byte_cons]
    cases i with
    | zero => rfl
    | succ i => simpa using ih (by simpa using h)

theorem byte_readBytes (m : List Host.Cell) (a : Nat) {n i : Nat} (h : i < n) :
    BitVec.ofNat 8 (readBytes m a n / 256 ^ i) = getByte m (a + i) := by
  induction n generalizing a i with
  | zero => omega
  | succ n ih =>
    rw [readBytes, byte_cons]
    cases i with
    | zero => rfl
    | succ i =>
      have hi : BitVec.ofNat 8 (readBytes m (a + 1) n / 256 ^ i) = getByte m (a + 1 + i) := ih (a + 1) (by omega)
      simpa [Nat.add_assoc, Nat.add_comm 1] using hi

/-- The low n bytes of a value keep its byte i. -/
theorem byte_mod (v : Nat) {n i : Nat} (h : i < n) :
    BitVec.ofNat 8 (v % 2 ^ (8 * n) / 256 ^ i) = BitVec.ofNat 8 (v / 256 ^ i) := by
  have hp : 2 ^ (8 * n) = 256 ^ i * 256 ^ (n - i - 1) * 256 := by
    rw [Nat.pow_mul, ← Nat.pow_add, ← Nat.pow_succ]
    congr 1
    omega
  apply BitVec.eq_of_toNat_eq
  rw [hp, Nat.mul_assoc, Nat.mod_mul_right_div_self, BitVec.toNat_ofNat, BitVec.toNat_ofNat, Nat.mul_comm]
  exact Nat.mod_mul_right_mod ..

theorem byte_flashRange (s : State) (o : Nat) {n i : Nat} (h : i < n) :
    BitVec.ofNat 8 (flashRange s o n / 256 ^ i) = flashByte s (o + i) := by
  rw [flashRange, byte_ofBytes (by simpa using h)]
  simp

/-! ### Soft errors of a line (R404) -/

/-- The symbols of a line with correctable errors: those that the on-die ECC corrects, and those that it leaves to the device
symbol code. -/
def softOf (s : State) (line : Nat) : Nat × Nat × Nat := (s.softLines.find? (·.1 == line)).getD (line, 0, 0)

/-- The first symbol that is left to the symbol code, or any that the on-die ECC corrects, leaves the line correctable. -/
theorem softError_corrected {s : State} {line : Nat} (sym layer : Nat) (hb : s.badLines.contains line = false)
    (h0 : (softOf s line).2.2 = 0) :
    let t := softError s line sym layer
    let e := softOf s line
    t = { s with softLines := t.softLines } ∧ (t.softLines.find? (·.1 == line)) =
      some (line, if layer = 0 then (e.2.1 ||| 2 ^ (sym % 32), 0) else (e.2.1, 2 ^ (sym % 32))) := by
  have hp : popcount 32 (2 ^ (sym % 32)) = 1 := popcount_two_pow (Nat.mod_lt _ (by decide))
  unfold softOf at h0
  by_cases hl : layer = 0 <;> simp [softError, softOf, -List.contains_eq_mem, h0, hb, hl, hp]

/-- A second symbol left to the symbol code makes the line uncorrectable. -/
theorem softError_second {s : State} {line sym layer j : Nat} (hb : s.badLines.contains line = false) (hj : j < 32)
    (h : (softOf s line).2.2 = 2 ^ j) (hl : layer ≠ 0) (hn : j ≠ sym % 32) :
    softError s line sym layer =
      { s with softLines := s.softLines.filter (·.1 ≠ line), badLines := line :: s.badLines } := by
  have hp : popcount 32 (2 ^ j ||| 2 ^ (sym % 32)) = 2 := popcount_two_pow_or hj (Nat.mod_lt _ (by decide)) hn
  unfold softOf at h
  simp [softError, -List.contains_eq_mem, h, hb, hl, hp]

/-! ### A block that is kept up to date (R410, R412) -/

theorem physWrite_hbm_bytes {s : State} (by_ : Option Nat) {pa n v st off : Nat} (h : target pa = .hbm st off) :
    (physWrite s by_ pa n v).hbm = writeBytes s.hbm pa n v := by
  unfold physWrite physWriteMask
  simp only [h]
  split <;> simp [hitMonitors, writeMasked_full]

theorem keepBytes_line {s : State} {p va n pa st off : Nat} (v : Nat) (hn : 1 ≤ n) (hva : va % 64 + n ≤ 64)
    (hx : xlat s p {} va = .ok pa) (ht : target pa = .hbm st off) (hw : Memory.wf s.hbm = true) (y : Nat) :
    getByte (keepBytes s p 2 va n v).hbm y =
      if pa ≤ y ∧ y < pa + n then BitVec.ofNat 8 (v / 256 ^ (y - pa)) else getByte s.hbm y := by
  have hk : min n (64 - va % 64) = n := by omega
  simp only [keepBytes, hk, hx, show n ≠ 0 by omega, if_false, Nat.sub_self, if_true]
  split
  · next heq =>
    split
    · next hy =>
      rw [show physRead s pa n = readBytes s.hbm pa n by simp [physRead, ht]] at heq
      have hi : y - pa < n := by omega
      rw [← byte_mod v hi, ← heq, byte_readBytes _ _ hi, Nat.add_sub_cancel' hy.1]
    · rfl
  · rw [physWrite_hbm_bytes none ht, getByte_writeBytes hw]
    split
    · next hy => exact byte_mod v (by omega)
    · rfl

/-! ### Boot -/

/-- What a boot checks: flash whole, every die accepts the image, and the partition map holds. -/
def bootOk (s : State) : Bool := s.flashOk && s.rootKeys.all (dieAccepts s) && mapOk (firmwareMap s)

/-- The state of a module whose image is accepted. -/
theorem boot_of_ok {s : State} (h : bootOk s = true) (hbm : List Host.Cell) (lmem : Nat → List Host.Cell) (k : Fin 32) :
    let t := boot s hbm lmem
    t.bootst = 0 ∧ t.pmap = firmwareMap s ∧ t.retired = firmwareRetired s ∧
      t.badLines = s.badLines.filter (fun x => !rowRepaired (firmwareRetired s) x) ∧
      t.cores[k] = bootCore (flashRange s 8 8)
        (writeBytes (lmem k) 0 (flashRange s 24 8) (flashRange s (flashRange s 16 8) (flashRange s 24 8))) := by
  unfold bootOk at h
  simp [boot, h, bareModule, -Bool.and_eq_true]

theorem boot_of_not_ok {s : State} (h : bootOk s = false) (hbm : List Host.Cell) (lmem : Nat → List Host.Cell) (k : Fin 32) :
    (boot s hbm lmem).bootst = 2 ∧ (boot s hbm lmem).cores[k].started = false := by
  unfold bootOk at h
  simp [boot, h, -Bool.and_eq_false_imp]

/-- What a boot leaves, whether the image is accepted or not. -/
theorem boot_frame (s : State) (hbm : List Host.Cell) (lmem : Nat → List Host.Cell) :
    let t := boot s hbm lmem
    t.powered = true ∧ t.hbm = hbm ∧ t.hostMem = s.hostMem ∧ t.flash = s.flash ∧ t.ns = 0 ∧ t.clk = 0 ∧
      ∀ p, (getPart t p).regions = [] := by
  cases h : bootOk s
  all_goals
    unfold bootOk at h
    simp only [boot, h]
    refine ⟨rfl, rfl, rfl, rfl, rfl, rfl, fun p => ?_⟩
    by_cases hp : p < 16 <;> simp [getPart, hp]

theorem getRegion_of_regions_nil {s : State} {r : Rgn} (h : (getPart s r.part).regions = []) : getRegion s r = {} := by
  simp [getRegion, h, lookupKey]

theorem rowRepaired_eq_false {l : List (Nat × Nat × Nat × Nat × Nat)} {x : Nat} :
    rowRepaired l x = false ↔ ∀ e ∈ l, ¬(e.1 = 3 ∧ e.2.2.1 = x / 2 ^ 31 ∧ e.2.2.2.1 = bits (64 * x) 12 8 ∧
      e.2.2.2.2 = (Config.dramRow x).toNat) := by
  simp [rowRepaired, and_assoc]

/-- What a boot of s leaves (R416, R417): HBM and each core's local memory as given, with the code section at the start of local
memory where the image is accepted; else no core started. -/
def Booted (s : State) (hbm : List Host.Cell) (lmem : Fin 32 → List Host.Cell) (t : State) : Prop :=
  t.powered = true ∧ t.hbm = hbm ∧ t.hostMem = s.hostMem ∧ t.flash = s.flash ∧ t.ns = 0 ∧ t.clk = 0 ∧
  (∀ r, getRegion t r = {}) ∧
  (bootOk s = true → t.bootst = 0 ∧ t.pmap = firmwareMap s ∧ t.retired = firmwareRetired s ∧
    (∀ x, x ∈ t.badLines ↔ x ∈ s.badLines ∧ ∀ e ∈ t.retired, ¬(e.1 = 3 ∧ e.2.2.1 = x / 2 ^ 31 ∧
      e.2.2.2.1 = bits (64 * x) 12 8 ∧ e.2.2.2.2 = (Config.dramRow x).toNat)) ∧
    ∀ k : Fin 32, t.cores[k].started = true ∧
      t.cores[k].pc = BitVec.ofNat 64 (flashRange s 8 8) &&& 0xFFFFFFFFFFFFFFFC ∧ t.cores[k].status = 1 ∧
      (∀ n : Fin 32, t.cores[k].regs[n] = 0) ∧
      (Memory.wf (lmem k) = true → ∀ y, getByte t.cores[k].lmem y =
        if y < flashRange s 24 8 then flashByte s (flashRange s 16 8 + y) else getByte (lmem k) y)) ∧
  (bootOk s = false → t.bootst = 2 ∧ ∀ k : Fin 32, t.cores[k].started = false)

/-- The code section lies at the start of local memory, and the bytes above it are as they were. -/
theorem getByte_codeSection {s : State} {m : List Host.Cell} (h : Memory.wf m = true) (size code y : Nat) :
    getByte (writeBytes m 0 size (flashRange s code size)) y = if y < size then flashByte s (code + y) else getByte m y := by
  rw [getByte_writeBytes h]
  by_cases hy : y < size
  · simp [hy, byte_flashRange s code hy]
  · simp [hy]

theorem bootCore_lmem (entry : Nat) (m : List Host.Cell) : (bootCore entry m).lmem = m := rfl

theorem bootCore_regs (entry : Nat) (m : List Host.Cell) (n : Fin 32) : (bootCore entry m).regs[n] = 0 := by
  simp [bootCore, Core.reset]

theorem boot_booted (s : State) (hbm : List Host.Cell) {lmem : Nat → List Host.Cell} {m : Fin 32 → List Host.Cell}
    (hm : ∀ k : Fin 32, lmem k = m k) : Booted s hbm m (boot s hbm lmem) := by
  obtain ⟨hpow, hhbm, hhost, hflash, hns, hclk, hreg⟩ := boot_frame s hbm lmem
  refine ⟨hpow, hhbm, hhost, hflash, hns, hclk, fun r => getRegion_of_regions_nil (hreg r.part), fun h => ?_, fun h => ?_⟩
  · obtain ⟨hst, hpmap, hret, hbad, -⟩ := boot_of_ok h hbm lmem 0
    refine ⟨hst, hpmap, hret, fun x => ?_, fun k => ?_⟩
    · rw [hbad, hret, List.mem_filter, Bool.not_eq_true', rowRepaired_eq_false]
    · obtain ⟨-, -, -, -, hcore⟩ := boot_of_ok h hbm lmem k
      rw [hcore, bootCore_lmem, hm k]
      exact ⟨rfl, rfl, rfl, fun n => bootCore_regs .., fun hw y => getByte_codeSection hw _ _ y⟩
  · exact ⟨(boot_of_not_ok h hbm lmem 0).1, fun k => (boot_of_not_ok h hbm lmem k).2⟩

/-! ### Partition reset (R208, R395) -/

/-- The completions of the reads under way, when their partition resets, change the host's reply only. -/
theorem foldl_completions {β : Type} (f : State → β) (hf : ∀ s q, f { s with hostReply := q } = f s) (l : List Inbound)
    (s : State) : f (l.foldl (fun s x => if x.write then s else { s with hostReply := some (1, 0) }) s) = f s :=
  List.foldlRecOn (motive := fun t => f t = f s) l _ rfl fun t ht x _ => by
    split
    · exact ht
    · rw [hf, ht]

section
variable (s : State) (p : Nat)

@[simp] theorem resetPart_hbm : (resetPart s p).hbm = s.hbm := by
  simp only [resetPart, setPart_hbm]
  exact foldl_completions State.hbm (fun _ _ => rfl) _ _

theorem resetPart_walkc : (resetPart s p).walkc = s.walkc.map fun l => l.filter fun w => w.part != p := by
  simp only [resetPart, setPart_walkc]
  exact foldl_completions State.walkc (fun _ _ => rfl) _ _

theorem resetPart_cores : (resetPart s p).cores =
    s.cores.mapFinIdx fun i c _ => if ownsCore s p i then { c with started := false, wait := none, buf := [] } else c := by
  simp only [resetPart, setPart_cores]
  exact foldl_completions State.cores (fun _ _ => rfl) _ _

theorem resetPart_core (k : Fin 32) : (resetPart s p).cores[k] =
    if ownsCore s p k then { s.cores[k] with started := false, wait := none, buf := [] } else s.cores[k] := by
  simp [resetPart_cores]

theorem resetPart_self (hp : p < 16) : let q := getPart (resetPart s p) p
    q.inReset = true ∧ q.regions = [] ∧ q.launches = [] ∧ q.almseq = (getPart s p).almseq := by
  simp only [resetPart]
  rw [getPart_setPart_same hp]
  exact ⟨rfl, rfl, rfl, rfl⟩

theorem resetPart_others {q : Nat} (h : q ≠ p) : getPart (resetPart s p) q = getPart s q := by
  simp only [resetPart]
  rw [getPart_setPart_ne h.symm, foldl_completions (fun s => getPart s q) (fun _ _ => rfl)]
  rfl

/-- What a partition reset does to lane group n. -/
theorem resetPart_lane {n : Nat} {l : Lane} {b : Nat × Nat × Nat} (hl : s.lanes[n]? = some l) (hb : l.bind = some b) :
    getLane (resetPart s p) n = if b.1 = p then l.partReset else l := by
  simp only [getLane, resetPart, setPart_lanes]
  rw [foldl_completions State.lanes (fun _ _ => rfl)]
  simp [nth, hl, hb]

theorem restartPart_inReset (hp : p < 16) : (getPart (restartPart s p) p).inReset = false :=
  congrArg Part.inReset (getPart_setPart_same (s := s) hp)

theorem ownsCore_modPart (f : Part → Part) (q k : Nat) : ownsCore (modPart s p f) q k = ownsCore s q k := by
  unfold ownsCore partDies pmapOf
  rw [modPart_pmap]

theorem restartPart_core (k : Fin 32) : (restartPart s p).cores[k] =
    if ownsCore s p k then bootCore s.entry s.cores[k].lmem else s.cores[k] := by
  simp [restartPart, ownsCore_modPart]

end

theorem partReset_bound {l : Lane} {b : Nat × Nat × Nat} (hb : l.bind = some b) :
    l.partReset.bind = none ∧ l.partReset.sendq = [ctlFlit ckUnbind 0 0 0] := by
  simp [Lane.partReset, hb, Lane.post, Lane.unbound]

/-! ### Attestation (R418) -/

/-- The nonce is the first 32 bytes of a quote. -/
theorem quoteBytes_nonce (s : State) (p v sig : Nat) : (quoteBytes s p v + 2 ^ 608 * sig) % 2 ^ 256 = v % 2 ^ 256 := by
  have h (a b : Nat) : 2 ^ (256 + a) * b = 2 ^ 256 * (2 ^ a * b) := by rw [Nat.pow_add, Nat.mul_assoc]
  simp only [quoteBytes]
  rw [h 256, h 320, h 352]
  simp only [Nat.add_mul_mod_self_left, Nat.mod_mod]

section
variable {s : State} {p v : Nat} (hv : vread s p 0x158000 64 = .ok v) (hl : logVread s p 0 0x158000 = s)
include hv hl

theorem attestation_idle (h : byteRange v 32 1 ≠ 1) : execEvAttestationRequest p s = .next s := by
  simp only [execEvAttestationRequest, hv, hl]
  rw [if_pos h]

/-- A quote is written at the next index, and the request byte cleared. -/
theorem attestation_quote (h : byteRange v 32 1 = 1) (hi : s.attIndex < 2 ^ 20) : ∃ u sig,
    execEvAttestationRequest p s =
      .next (vwriteD (vwriteLong u p 64 0x158040 2896 (quoteBytes s p v + 2 ^ 608 * sig)) p 0x158020 1 0) ∧
    u.hbm = s.hbm ∧ u.attIndex = s.attIndex + 1 := by
  simp only [execEvAttestationRequest, hv, hl]
  rw [if_neg (not_not.2 h), if_neg (Nat.not_le.2 hi)]
  exact ⟨_, _, rfl, rfl, rfl⟩

/-- Without an index left, zeros stand in the place of a quote. -/
theorem attestation_usedUp (h : byteRange v 32 1 = 1) (hi : 2 ^ 20 ≤ s.attIndex) :
    execEvAttestationRequest p s = .next (vwriteD (vwriteLong s p 64 0x158040 2896 0) p 0x158020 1 0) := by
  simp only [execEvAttestationRequest, hv, hl]
  rw [if_neg (not_not.2 h), if_pos hi]

end

/-! ### Power (R409, R410, R414, R415) -/

section
variable {s : State} {d st x : Nat}

theorem stretch_eighths : min 4 (max 1 x) = if x = 0 then 1 else if 4 < x then 4 else x := by
  split_ifs <;> omega

theorem slowed_eighths : min 4 x = if 4 < x then 4 else x := by
  split_ifs <;> omega

theorem actmax_clamped : min 65535 (max 256 x) = if x < 256 then 256 else if 65535 < x then 65535 else x := by
  split_ifs <;> omega

theorem sagHeld_some {z : Nat} (h : nth s.sagEnd d none = some z) : sagHeld s d = decide (z + 1000 ≤ s.ns) := by
  simp [sagHeld, h]

theorem sagHeld_none (h : nth s.sagEnd d none = none) : sagHeld s d = false := by simp [sagHeld, h]

/-- A die whose stretch is not held long enough keeps it. -/
theorem squallRelease_stays (h : sagHeld s d = false) : execEvSquallRelease d s = .next s := by
  simp [execEvSquallRelease, h]

theorem squallRelease_ends (h : sagHeld s d = true) :
    execEvSquallRelease d s = .next { s with stretch := modNth s.stretch d fun _ => 0 } := by
  simp [execEvSquallRelease, h]

theorem mayShare_iff : mayShare s = true ↔ ∀ z, s.isobarAt = some z → z = s.ns ∨ z + 1000000 ≤ s.ns := by
  unfold mayShare
  cases s.isobarAt <;> simp

theorem isobarRecompute_stack (h : mayShare s = true) (hst : st < 24) : execEvIsobarRecompute st x s =
    .next { s with isobarAt := some s.ns, isobar := modNth s.isobar st fun q => (min 65535 (max 256 x), q.2) } := by
  simp [execEvIsobarRecompute, h, hst]

theorem isobarRecompute_die (h : mayShare s = true) : execEvIsobarRecompute (24 + d) x s =
    .next { s with isobarAt := some s.ns, power := modNth s.power d fun _ => x } := by
  simp [execEvIsobarRecompute, h]

theorem isobarRecompute_stays (h : ¬mayShare s = true) : execEvIsobarRecompute st x s = .next s := by
  simp [execEvIsobarRecompute, h]

/-- The activates of a stack in the last 1 µs. -/
def recentActs (s : State) (st : Nat) : List Nat := (nth s.acts st []).filter fun z => decide (s.ns < z + 1000)

theorem actNow_eq : actNow s st = (recentActs s st).length := rfl

theorem activated_acts (h : st < s.acts.length) :
    nth (activated s st).acts st [] = s.ns :: recentActs s st ∧
      ∀ k, k ≠ st → nth (activated s st).acts k [] = nth s.acts k [] :=
  ⟨nth_modNth_same _ _ _ _ h, fun _ hk => nth_modNth_ne _ _ _ _ _ hk.symm⟩

theorem activate_room (h : (recentActs s st).length < (nth s.isobar st (0, 0)).1) : activate s st = activated s st :=
  if_pos h

theorem activate_full (h : ¬(recentActs s st).length < (nth s.isobar st (0, 0)).1) : activate s st =
    { s with actsHeld := modNth s.actsHeld st (· + 1), isobar := modNth s.isobar st fun q => (q.1, (q.2 + 1) % 2 ^ 64) } :=
  if_neg h

theorem isobarRelease_goes (h : (recentActs s st).length < (nth s.isobar st (0, 0)).1) (h0 : 0 < nth s.actsHeld st 0) :
    execEvIsobarRelease st s = .next (activated { s with actsHeld := modNth s.actsHeld st (· - 1) } st) := by
  simp [execEvIsobarRelease, actNow_eq, h, h0]

theorem isobarRelease_stays (h : ¬(recentActs s st).length < (nth s.isobar st (0, 0)).1 ∨ nth s.actsHeld st 0 = 0) :
    execEvIsobarRelease st s = .next s := by
  have hc : ¬((decide (0 < nth s.actsHeld st 0) && decide (actNow s st < (nth s.isobar st (0, 0)).1)) = true) := by
    rw [Bool.and_eq_true, decide_eq_true_iff, decide_eq_true_iff, actNow_eq]
    omega
  rw [execEvIsobarRelease, if_neg hc]

/-- The three fields of a stack's status block (Table 22.2). -/
theorem isobarBlock_fields {p : Nat} (ho : ownsStack s p st = true) (hq : (nth s.isobar st (0, 0)).1 < 2 ^ 16)
    (hn : (recentActs s st).length < 2 ^ 16) :
    bits (isobarBlock s p st) 15 0 = (nth s.isobar st (0, 0)).1 ∧ bits (isobarBlock s p st) 47 32 = (recentActs s st).length ∧
      bits (isobarBlock s p st) 127 64 = (nth s.isobar st (0, 0)).2 % 2 ^ 64 := by
  have hb : isobarBlock s p st = (nth s.isobar st (0, 0)).1 % 2 ^ 16 + (recentActs s st).length % 2 ^ 16 * 2 ^ 32 +
      (nth s.isobar st (0, 0)).2 % 2 ^ 64 * 2 ^ 64 := if_pos ho
  simp only [hb, bits, Nat.shiftRight_eq_div_pow]
  omega

end

/-! ### The events as they complete -/

theorem powerUp_boots {s : State} (h : s.powered = false) : Completes .evPowerUp s (Booted s [] fun _ => []) :=
  ⟨_, if_neg (by simp [h]), boot_booted s [] fun _ => rfl⟩

/-- A module reset keeps HBM and local memory. -/
theorem moduleReset_boots {s : State} (h : s.powered = true) :
    Completes .evModuleReset s (Booted s s.hbm fun k => s.cores[k].lmem) :=
  ⟨_, if_pos h, boot_booted s s.hbm fun k => by simp⟩

theorem reset_regions (p : Nat) : (getPart State.reset p).regions = [] := by
  by_cases hp : p < 16 <;> simp [getPart, hp, State.reset]

theorem reset_core (k : Fin 32) : State.reset.cores[k.val] = Core.reset := by simp [State.reset]

/-- A partition that is not in reset enters it: its regions, launches, cached walks, cores and lane groups, and nobody else's. -/
theorem partitionReset_begins {s : State} {p : Nat} (hp : p < 16) (hr : (getPart s p).inReset = false) :
    Completes (.evPartitionReset p) s fun t => t.hbm = s.hbm ∧ (getPart t p).inReset = true ∧
      (∀ h, getRegion t ⟨p, h⟩ = {}) ∧ (getPart t p).launches = [] ∧ (getPart t p).almseq = (getPart s p).almseq ∧
      (∀ r, r.part ≠ p → getRegion t r = getRegion s r) ∧ (∀ l ∈ t.walkc, ∀ w ∈ l, w.part ≠ p) ∧
      (∀ k : Fin 32, (ownsCore s p k = true → t.cores[k].started = false) ∧ (ownsCore s p k = false → t.cores[k] = s.cores[k])) ∧
      ∀ n l b, s.lanes[n]? = some l → l.bind = some b →
        (b.1 = p → (getLane t n).bind = none ∧ (getLane t n).sendq = [ctlFlit ckUnbind 0 0 0]) ∧
        (b.1 ≠ p → getLane t n = l) := by
  obtain ⟨hres, hregs, hlaunch, halm⟩ := resetPart_self s p hp
  refine ⟨resetPart s p, by simp [exec, execEvPartitionReset, hr], resetPart_hbm s p, hres,
    fun h => getRegion_of_regions_nil hregs, hlaunch, halm, fun r hne => ?_, fun l hl w hw => ?_, fun k => ?_,
    fun n l b hl hb => ?_⟩
  · simp only [getRegion, resetPart_others s p hne]
  · rw [resetPart_walkc] at hl
    obtain ⟨l', -, rfl⟩ := List.mem_map.1 hl
    simpa using (List.mem_filter.1 hw).2
  · rw [resetPart_core]
    exact ⟨fun h => by rw [if_pos h], fun h => by simp [h]⟩
  · rw [resetPart_lane s p hl hb]
    exact ⟨fun h => by rw [if_pos h]; exact partReset_bound hb, fun h => if_neg h⟩

/-- A partition in reset leaves it, with its own cores at ENTRY. -/
theorem partitionReset_ends {s : State} {p : Nat} (hp : p < 16) (hr : (getPart s p).inReset = true) :
    Completes (.evPartitionReset p) s fun t => t.hbm = s.hbm ∧ (getPart t p).inReset = false ∧
      ∀ k : Fin 32, (ownsCore s p k = true → t.cores[k] = bootCore s.entry s.cores[k].lmem) ∧
        (ownsCore s p k = false → t.cores[k] = s.cores[k]) := by
  refine ⟨restartPart s p, by simp [exec, execEvPartitionReset, hr], modPart_hbm .., restartPart_inReset s p hp, fun k => ?_⟩
  rw [restartPart_core]
  exact ⟨fun h => by rw [if_pos h], fun h => by simp [h]⟩

/-- A request for a quote is answered: with the nonce at the next index, or with zeros where the indices are used up. -/
theorem attestationRequest_answers {s : State} {p v : Nat} (hv : vread s p 0x158000 64 = .ok v)
    (hl : logVread s p 0 0x158000 = s) (h : byteRange v 32 1 = 1) : Completes (.evAttestationRequest p) s fun t =>
      ∃ u x, t = vwriteD (vwriteLong u p 64 0x158040 2896 x) p 0x158020 1 0 ∧ u.hbm = s.hbm ∧
        (s.attIndex < 2 ^ 20 → u.attIndex = s.attIndex + 1 ∧ x % 2 ^ 256 = v % 2 ^ 256) ∧
        (2 ^ 20 ≤ s.attIndex → u = s ∧ x = 0) := by
  rcases Nat.lt_or_ge s.attIndex (2 ^ 20) with hi | hi
  · obtain ⟨u, sig, hx, hhbm, hidx⟩ := attestation_quote hv hl h hi
    exact ⟨_, hx, u, _, rfl, hhbm, fun _ => ⟨hidx, quoteBytes_nonce ..⟩, fun hn => absurd hi (Nat.not_lt.2 hn)⟩
  · exact ⟨_, attestation_usedUp hv hl h hi, s, 0, rfl, rfl, fun hn => absurd hi (Nat.not_le.2 hn), fun _ => ⟨rfl, rfl⟩⟩

/-- A droop stretches the clocks of its die, whose sag then lasts. -/
theorem supplyDroop_stretches {s : State} {d : Nat} (x : Nat) (hd : d < s.stretch.length) :
    Completes (.evSupplyDroop d x) s fun t => t = { s with stretch := t.stretch, sagEnd := t.sagEnd } ∧
      nth t.sagEnd d none = none ∧ (∀ k, k ≠ d → nth t.sagEnd k none = nth s.sagEnd k none) ∧
      ∀ k, nth t.stretch k 0 = if k = d then (if x = 0 then 1 else if 4 < x then 4 else x) else nth s.stretch k 0 := by
  refine ⟨_, rfl, rfl, ?_, fun k hk => nth_modNth_ne _ _ _ _ _ hk.symm, fun k => ?_⟩
  · by_cases hl : d < s.sagEnd.length
    · exact nth_modNth_same _ _ _ _ hl
    · exact List.getD_eq_default _ _ (by simpa using hl)
  · rw [← stretch_eighths]
    exact nth_modNth _ _ hd k

theorem applyEnv_soft {s : State} {pa sym layer st off : Nat} (ht : target pa = .hbm st off) :
    applyEnv s (.soft pa sym layer) = softError s (pa / 64) sym layer := by
  simp only [applyEnv, ht]
  rfl

/-- The image that the firmware writes has been verified by every die. -/
theorem applyEnv_flashBegin {s : State} {img : List Byte} (hf : s.flashing = none)
    (hk : ∀ k ∈ s.rootKeys, dieAccepts { s with flash := img } k = true) :
    applyEnv s (.flashBegin img) = { s with flashing := some img } := by
  have hall : s.rootKeys.all (dieAccepts { s with flash := img }) = true := List.all_eq_true.2 hk
  exact if_pos (by rw [hall, hf]; rfl)

theorem applyEnv_flashBegin_refused {s : State} {img : List Byte}
    (h : ∃ k ∈ s.rootKeys, dieAccepts { s with flash := img } k = false) : applyEnv s (.flashBegin img) = s := by
  obtain ⟨k, hk, hd⟩ := h
  have hall : s.rootKeys.all (dieAccepts { s with flash := img }) = false := List.all_eq_false.2 ⟨k, hk, by simp [hd]⟩
  exact if_neg (by simp [hall])

/-- Settles O55, event by event: each follows from what its step does. -/
theorem moduleEvents : Obligations.ModuleEvents := by
  unfold Obligations.ModuleEvents
  intro s
  refine ⟨powerUp_boots, fun h => ⟨s, if_pos h, rfl⟩, moduleReset_boots, ?powerOff, fun p hp => ?partition, fun d x hd => ?squall,
    fun d x hd => ?limit, fun st x hst hlen hs => ?actmax, fun d x hd hs => ?power, fun st x hs => ?early,
    fun st hi ha hh => ?activates, fun p va n v pa st off hn hva hx ht hw => keepBytes_line v hn hva hx ht hw,
    fun img => applyEnv_flashBegin, fun img => applyEnv_flashBegin_refused, fun img h => by simp only [applyEnv, h],
    fun p port => rfl, fun pa sym layer st off ht hb => ?soft, fun st b => ?refresh⟩
  case powerOff =>
    refine ⟨_, rfl, rfl, rfl, rfl, rfl, rfl, rfl, rfl, fun r => getRegion_of_regions_nil (reset_regions _), fun k => ?_⟩
    simp [bareModule, reset_core, Core.reset]
  case partition =>
    exact ⟨partitionReset_begins hp, partitionReset_ends hp,
      fun v hv hl => ⟨fun h => ⟨s, attestation_idle hv hl h, rfl⟩, attestationRequest_answers hv hl⟩⟩
  case squall =>
    refine ⟨supplyDroop_stretches x hd, fun z hz h => ?_, fun z hz h => ?_, fun h => ?_, fun hn hl => ?_⟩
    · exact ⟨_, squallRelease_ends (by simp [sagHeld_some hz, h]), rfl, nth_modNth _ _ hd⟩
    · exact ⟨s, squallRelease_stays (by simp [sagHeld_some hz, h]), rfl⟩
    · exact ⟨s, squallRelease_stays (sagHeld_none h), rfl⟩
    · simp [applyEnv, nth_modNth _ _ hl, hn]
  case limit => exact ⟨_, rfl, rfl, fun k => by rw [← slowed_eighths]; exact nth_modNth _ _ hd k⟩
  case actmax =>
    refine ⟨_, isobarRecompute_stack (mayShare_iff.2 hs) hst, rfl, fun k => ?_⟩
    rw [← actmax_clamped]
    exact nth_modNth _ _ (by omega) k
  case power => exact ⟨_, isobarRecompute_die (mayShare_iff.2 hs), rfl, nth_modNth _ _ hd⟩
  case early => exact ⟨s, isobarRecompute_stays (fun h => hs (mayShare_iff.1 h)), rfl⟩
  case activates =>
    refine ⟨fun h => ?_, fun h => ?_, fun h h0 => ?_, fun h => ⟨s, isobarRelease_stays h, rfl⟩,
      fun p => ⟨fun h => if_neg (by simp [h]), isobarBlock_fields⟩⟩
    · rw [show applyEnv s (.activate st) = activated s st from activate_room h]
      exact ⟨rfl, activated_acts ha⟩
    · rw [show applyEnv s (.activate st) = _ from activate_full h]
      exact ⟨rfl, nth_modNth_same _ _ _ _ hh, nth_modNth _ _ hi⟩
    · exact ⟨_, isobarRelease_goes h h0, rfl, activated_acts (s := { s with actsHeld := _ }) ha, nth_modNth_same _ _ _ _ hh⟩
  case soft =>
    rw [applyEnv_soft ht]
    refine ⟨softError_corrected sym layer hb, fun j hj he hl hn => ?_⟩
    rw [softError_second hb hj he hl hn]
    exact ⟨rfl, fun x hx => by simpa using (List.mem_filter.1 hx).2⟩
  case refresh => exact ⟨_, rfl, rfl, lookupKey_delKey_same _ _, fun k hk => lookupKey_delKey_ne _ hk.symm⟩

/-! ### The state after reset (R5, R213) -/

theorem coreOk_reset : CoreOk Core.reset := by constructor <;> decide

theorem inv_reset : Inv State.reset where
  hbm := rfl
  hostMem := rfl
  cores k := by
    rw [show State.reset.cores[k] = Core.reset from reset_core k]
    exact coreOk_reset
  actmax q hq := by rw [(List.mem_replicate.1 hq).2]
  stretch x hx := by rw [(List.mem_replicate.1 hx).2]; exact Nat.zero_le 4

/-- Settles O59, field by field. -/
theorem resetState : Obligations.ResetState := by
  have hregion : ∀ r, getRegion State.reset r = {} := fun r => getRegion_of_regions_nil (reset_regions _)
  refine ⟨inv_reset, rfl, rfl, rfl, hregion, fun r => by rw [hregion], fun k => ?_, fun g hg => ?_, fun st hst => ?_⟩
  · rw [show State.reset.cores[k] = Core.reset from reset_core k]
    exact ⟨rfl, fun n => by simp [Core.reset], rfl, rfl, rfl, rfl, rfl, rfl, rfl, rfl, rfl, rfl, rfl⟩
  · exact nth_replicate 72 _ _ hg
  · exact nth_replicate 24 _ _ hst

end Sys2Proof.Machine
end

section
/-! SUPPORT. Rules for firings: what a candidate reads, sends and raises, by its operands. -/

namespace Sys2Proof.Machine

/-- A candidate issues once: two accounts of one instruction speak of the same firing. -/
theorem Issues.same {i : Instr} {s : State} {f : Focus} {P Q : State → Firing → Prop} (hP : Issues i s f P) (hQ : Issues i s f Q) :
    ∃ t F, P t F ∧ Q t F := by
  obtain ⟨t, ht, F, hF, -, -, hp⟩ := hP
  obtain ⟨t', ht', F', hF', -, -, hq⟩ := hQ
  rw [ht] at ht'
  cases ht'
  rw [hF] at hF'
  cases List.append_cancel_left hF'
  exact ⟨t, F, hp, hq⟩

/-- Every position is taken but by `merge` and `cmerge` (R59, R98, R99). -/
theorem gather_opds (s : State) (f : Focus) (w : OpWord) {opc : Nat} (ho : opc ≠ 2 ∧ opc ≠ 3) {p : Nat} (hp : p < 3) :
    (gather s f w opc).opd p = operandAt (getRegion s (rgnOf f.loc)) (getElem s f.loc).ahead w f.slot f.tag p := by
  have ht (e : Elem) : takes e opc f.slot f.tag f.mergeB = [0, 1, 2] := by
    unfold takes
    split
    · exact absurd rfl ho.1
    · exact absurd rfl ho.2
    · rfl
  unfold gather FireIn.opd
  simp only [ht]
  match p with
  | 0 | 1 | 2 => rfl

section
variable (s : State) (f : Focus) (w : OpWord) {opc : Nat} (ho : opc ≠ 2 ∧ opc ≠ 3)
include ho

theorem gather_a : (gather s f w opc).a = operandAt (getRegion s (rgnOf f.loc)) (getElem s f.loc).ahead w f.slot f.tag 0 :=
  gather_opds s f w ho (p := 0) (by decide)

theorem gather_b : (gather s f w opc).b = operandAt (getRegion s (rgnOf f.loc)) (getElem s f.loc).ahead w f.slot f.tag 1 :=
  gather_opds s f w ho (p := 1) (by decide)

theorem gather_c : (gather s f w opc).c = operandAt (getRegion s (rgnOf f.loc)) (getElem s f.loc).ahead w f.slot f.tag 2 :=
  gather_opds s f w ho (p := 2) (by decide)

end

/-- Lane k of wd bits of the operand at position p of a candidate. -/
def opdLane (s : State) (f : Focus) (w : OpWord) (wd p k : Nat) : Nat :=
  (operandAt (getRegion s (rgnOf f.loc)) (getElem s f.loc).ahead w f.slot f.tag p).cell wd k

/-- A firing whose one token holds the lanes of a list sends them and raises their flags. -/
theorem sendsFlagged_of {i : Instr} {s : State} {f : Focus} {w : OpWord} {hd : Hdr} {wd n : Nat} {v : Nat → Nat} {fl : Nat → Flags}
    {opc : Nat} {m : FireIn → FireOut} {o : Fmt} (rs : List (Nat × Flags)) (h : Chosen s f)
    (he : exec i s = .next (fireGo s w opc m)) (ho : (m (gather s f w opc)).outs = [(gather s f w opc).laneTok o (rs.map Prod.fst)])
    (hf : (m (gather s f w opc)).flags = orFlags (rs.map Prod.snd)) (hh : laneHdr (gather s f w opc) o = hd) (hw : o.width = wd)
    (hv : rs = (List.range n).map fun k => (v k, fl k)) : SendsFlagged i s f w hd wd n v fl := by
  subst hh hw hv
  refine ⟨sendsLanes_of _ h he ho (by simp) fun k hk _ => by simp, ?_⟩
  exact issues_go h he fun t F hF => hF.flags.trans (hf.trans (by rw [List.map_map]; rfl))

/-- A lane-by-lane firing sends its lanes and raises their flags. -/
theorem sendsFlagged_go {i : Instr} {s : State} {f : Focus} {w : OpWord} {hd : Hdr} {wd n : Nat} {v : Nat → Nat} {fl : Nat → Flags}
    {opc : Nat} {lat : FireIn → Nat} {j : List Nat} {jr : FireIn → Bool} {o : FireIn → Fmt}
    {op : FireIn → Nat → Nat → Nat → Nat → Nat × Flags}
    (h : Chosen s f) (he : exec i s = .next (fireGo s w opc fun i => laneFire i (o i) (lat i) j (jr i) (op i)))
    (ho : opc ≠ 2 ∧ opc ≠ 3) (hh : laneHdr (gather s f w opc) (o (gather s f w opc)) = hd)
    (hw : (o (gather s f w opc)).width = wd) (hn : (gather s f w opc).laneCount (gather s f w opc).fmt = n)
    (hv : ∀ k, let x (p : Nat) : Nat := opdLane s f w (gather s f w opc).fmt.width p k
      op (gather s f w opc) k (x 0) (x 1) (x 2) = (v k, fl k)) :
    SendsFlagged i s f w hd wd n v fl := by
  refine sendsFlagged_of _ h he rfl rfl hh hw ?_
  simp only [hn, gather_a s f w ho, gather_b s f w ho, gather_c s f w ho]
  exact List.map_congr_left fun k _ => hv k

/-- The same, with a lane and its flags as a pair. -/
theorem sendsFlagged_pair {i : Instr} {s : State} {f : Focus} {w : OpWord} {hd : Hdr} {wd n : Nat} {v : Nat → Nat × Flags}
    {opc : Nat} {lat : FireIn → Nat} {j : List Nat} {jr : FireIn → Bool} {o : FireIn → Fmt}
    {op : FireIn → Nat → Nat → Nat → Nat → Nat × Flags}
    (h : Chosen s f) (he : exec i s = .next (fireGo s w opc fun i => laneFire i (o i) (lat i) j (jr i) (op i)))
    (ho : opc ≠ 2 ∧ opc ≠ 3) (hh : laneHdr (gather s f w opc) (o (gather s f w opc)) = hd)
    (hw : (o (gather s f w opc)).width = wd) (hn : (gather s f w opc).laneCount (gather s f w opc).fmt = n)
    (hv : ∀ k, let x (p : Nat) : Nat := opdLane s f w (gather s f w opc).fmt.width p k
      op (gather s f w opc) k (x 0) (x 1) (x 2) = v k) :
    SendsFlagged i s f w hd wd n (fun k => (v k).1) fun k => (v k).2 :=
  sendsFlagged_go h he ho hh hw hn hv

/-- Lanes of a vector firing, or the one of a scalar (R115). -/
theorem laneCount_gather (s : State) (f : Focus) (w : OpWord) (opc : Nat) (o : Fmt) :
    (gather s f w opc).laneCount o = if w.shape = 2 then 1024 / o.width else 1 := by
  show (if (w.shape == 2) = true then 1024 / o.width else 1) = _
  simp only [beq_iff_eq]

/-- The header of a lane-by-lane result, by the operands' masks (R115, R118). -/
theorem laneHdr_gather (s : State) (f : Focus) (w : OpWord) {opc : Nat} (ho : opc ≠ 2 ∧ opc ≠ 3) (o : Fmt) :
    let opd (p : Nat) := operandAt (getRegion s (rgnOf f.loc)) (getElem s f.loc).ahead w f.slot f.tag p
    laneHdr (gather s f w opc) o = { tag := outTag w f.tag, fmt := o.code, pkind := if w.shape = 2 then 2 else if o.width = 64 then 1 else 0,
                                     vmask := ((opd 0).mask &&& (opd 1).mask &&& (opd 2).mask) % 2 } := by
  unfold laneHdr FireIn.vmask
  rw [gather_a s f w ho, gather_b s f w ho, gather_c s f w ho]
  rfl

/-- An integer result wraps, or is clamped into the format's range (R23). -/
theorem intResult_eq (f : Fmt) (sat : Bool) (x : Int) : intResult f sat x =
    (uval f.width (if sat then max (intMin f) (min (intMax f) x) else x),
      flagIf (sat && (decide (x < intMin f) || decide (intMax f < x))) fOverflow) := by
  have hr : intMin f ≤ intMax f := by cases f <;> decide
  cases sat with
  | false => rfl
  | true =>
    simp only [intResult, clampInt, if_true, Bool.true_and]
    split
    · next h => rw [max_eq_left ((min_le_right _ _).trans h.le)]; simp [h]
    · split
      · next h h' => rw [min_eq_left (le_of_lt h'), max_eq_right hr]; simp [h, h']
      · next h h' => rw [min_eq_right (not_lt.1 h'), max_eq_right (not_lt.1 h)]; simp [h, h']

theorem divInt_eq (f : Fmt) (sat rem : Bool) (a b : Nat) : divInt f sat rem a b =
    if intVal f b = 0 then (2 ^ f.width - 1, fDivz)
    else intResult f sat (if rem then (intVal f a).tmod (intVal f b) else (intVal f a).tdiv (intVal f b)) := by
  unfold divInt
  simp only [Int.tmod_def, Int.mul_comm]

end Sys2Proof.Machine
end

section
/-! SUPPORT. Integer lanes (spec/05: R122 to R128). -/

namespace Sys2Proof.Machine

/-- Settles O29, operation by operation: each lane is `intResult` of the exact integer, or of the quotient or remainder. -/
theorem integerLanes : Obligations.IntegerLanes := by
  intro s f w h e g fm wd n x fit mask hd clamped gives plain divides hf _
  have hn (opc : Nat) : (gather s f w opc).laneCount (gather s f w opc).fmt = n := laneCount_gather s f w opc _
  have hh (opc : Nat) (ho : opc ≠ 2 ∧ opc ≠ 3) : laneHdr (gather s f w opc) (gather s f w opc).fmt = hd := laneHdr_gather s f w ho _
  have hw (opc : Nat) : (gather s f w opc).fmt.width = wd := rfl
  have hF (opc : Nat) : ¬(gather s f w opc).fmt.isFloat = true := ne_true_of_eq_false hf
  have lane (v : Int) : intResult fm w.sat v = (fit v, clamped v) := intResult_eq fm w.sat v
  have div (r : Bool) (a b : Nat) (v : Int) (hv : (if r then (intVal fm a).tmod (intVal fm b) else (intVal fm a).tdiv (intVal fm b)) = v) :
      divInt fm w.sat r a b =
        (if intVal fm b = 0 then 2 ^ wd - 1 else fit v, if intVal fm b = 0 then fDivz else clamped v) := by
    rw [divInt_eq, hv]
    split
    · rfl
    · exact lane v
  refine ⟨?add, ?sub, ?mul, ?mulHi, ?mad, ?min, ?max, ?abs, ?neg, ?clamp, ?divq, ?divr⟩
  case mul =>
    intro hi
    exact sendsFlagged_go h rfl (by decide) (hh _ (by decide)) (hw _) (hn _) fun k => (if_neg (hF _)).trans <|
      (congrArg (intResult fm w.sat) (if_neg (ne_true_of_eq_false hi))).trans (lane _)
  case mulHi =>
    intro hi
    exact sendsFlagged_go h rfl (by decide) (hh _ (by decide)) (hw _) (hn _) fun k => (if_neg (hF _)).trans <|
      (congrArg (intResult fm w.sat) (if_pos hi)).trans (lane _)
  case min => exact sendsFlagged_go h rfl (by decide) (hh _ (by decide)) (hw _) (hn _) fun k => if_neg (hF _)
  case max => exact sendsFlagged_go h rfl (by decide) (hh _ (by decide)) (hw _) (hn _) fun k => if_neg (hF _)
  case clamp => exact sendsFlagged_go h rfl (by decide) (hh _ (by decide)) (hw _) (hn _) fun k => (if_neg (hF _)).trans rfl
  case divq =>
    intro hi
    exact sendsFlagged_go h rfl (by decide) (hh _ (by decide)) (hw _) (hn _) fun k => (if_neg (hF _)).trans (div _ _ _ _ (if_neg (ne_true_of_eq_false hi)))
  case divr =>
    intro hi
    exact sendsFlagged_go h rfl (by decide) (hh _ (by decide)) (hw _) (hn _) fun k => (if_neg (hF _)).trans (div _ _ _ _ (if_pos hi))
  all_goals exact sendsFlagged_go h rfl (by decide) (hh _ (by decide)) (hw _) (hn _) fun k => (if_neg (hF _)).trans (lane _)

end Sys2Proof.Machine
end

section
/-! SUPPORT. Floating-point lanes (spec/05: R122 to R133). -/

namespace Sys2Proof.Machine

/-- Settles O30, operation by operation: a lane is `roundLane` of the exact result, or an exact value rounded to nearest. -/
theorem floatLanes : Obligations.FloatLanes := by
  intro s f w h e g r fm wd n bits x mode round mask hd gives plain exact_ hf
  have hn (opc : Nat) : (gather s f w opc).laneCount (gather s f w opc).fmt = n := laneCount_gather s f w opc _
  have hh (opc : Nat) (ho : opc ≠ 2 ∧ opc ≠ 3) : laneHdr (gather s f w opc) (gather s f w opc).fmt = hd := laneHdr_gather s f w ho _
  have hw (opc : Nat) : (gather s f w opc).fmt.width = wd := rfl
  have hF (opc : Nat) : (gather s f w opc).fmt.isFloat = true := hf
  have lane (opc k : Nat) (xs : List FVal) (v : FVal × Flags) : (gather s f w opc).roundLane (gather s f w opc).fmt k xs v =
      ((round k v.1).1, (round k v.1).2 ||| v.2 ||| sigFlags xs) := rfl
  refine ⟨?add, ?sub, ?mul, ?mad, ?div, ?abs, ?neg, ?ldexp, ?frexp, ?extreme, ?clamp⟩
  case abs => exact sendsFlagged_go h rfl (by decide) (hh _ (by decide)) (hw _) (hn _) fun k => if_pos (hF _)
  case neg => exact sendsFlagged_go h rfl (by decide) (hh _ (by decide)) (hw _) (hn _) fun k => if_pos (hF _)
  case ldexp => exact sendsFlagged_go h rfl (by decide) (hh _ (by decide)) (hw _) (hn _) fun k => lane _ _ _ _
  case frexp =>
    intro hm
    have he : ¬(w.mod == 1) = true := by simpa using hm
    exact sendsFlagged_go h rfl (by decide) ((congrArg (laneHdr _) (if_neg he)).trans (hh _ (by decide)))
      ((congrArg Fmt.width (if_neg he)).trans (hw 0x2D)) (hn _) fun k => Prod.ext (if_neg he) rfl
  case extreme =>
    rintro b rfl
    refine ⟨?_, ?_⟩
    · exact sendsFlagged_go h rfl (by decide) (hh _ (by decide)) (hw _) (hn _) fun k => if_pos (hF _)
    · exact sendsFlagged_go h rfl (by decide) (hh _ (by decide)) (hw _) (hn _) fun k => if_pos (hF _)
  case clamp => exact sendsFlagged_go h rfl (by decide) (hh _ (by decide)) (hw _) (hn _) fun k => if_pos (hF _)
  all_goals exact sendsFlagged_go h rfl (by decide) (hh _ (by decide)) (hw _) (hn _) fun k => (if_pos (hF _)).trans (lane _ _ _ _)

end Sys2Proof.Machine
end

section
/-! SUPPORT. Packed lanes beyond the last, flags of several lanes, and conversions (spec/05: R135 to R138). -/

namespace Sys2Proof.Machine

theorem land_cfg (F : Firing) (e : Elem) : (F.land e).cfg = e.cfg := by
  have hb : ∀ (l : List (Nat × Bank)) (e : Elem),
      (l.foldl (fun (e : Elem) p => { e with banks := modNth e.banks p.1 fun _ => p.2 }) e).cfg = e.cfg := by
    intro l
    induction l with
    | nil => exact fun _ => rfl
    | cons p r ih => exact fun e => ih _
  have hs : ∀ (l : List (Nat × Nat × Nat)) (e : Elem), (l.foldl (fun (e : Elem) p => e.wr p.1 p.2.1 p.2.2) e).cfg = e.cfg := by
    intro l
    induction l with
    | nil => exact fun _ => rfl
    | cons p r ih => exact fun e => ih _
  unfold Firing.land
  dsimp only
  rw [hs, hb]
  split <;> rfl

/-- What the firings under way will write leaves an element's configuration alone. -/
theorem ahead_cfg (e : Elem) : e.ahead.cfg = e.cfg := by
  have key : ∀ (l : List Firing) (x : Elem), (l.foldl (fun e f => f.land e) x).cfg = x.cfg := by
    intro l
    induction l with
    | nil => exact fun _ => rfl
    | cons F r ih => exact fun x => (ih _).trans (land_cfg F x)
  exact key e.pending e

theorem toEntry_ahead (e : Elem) (entry : Nat) (h : Hdr) (p : Nat) : toEntry e.ahead entry h p = toEntry e entry h p := by
  unfold toEntry destChans
  rw [ahead_cfg]

theorem packLanes_lt (w : Nat) (l : List Nat) : packLanes w l < 2 ^ (w * l.length) := by
  have hp : 0 < 2 ^ w := Nat.two_pow_pos w
  induction l with
  | nil => simp [packLanes]
  | cons x xs ih =>
    have hx : x % 2 ^ w < 2 ^ w := Nat.mod_lt _ hp
    have hm : 2 ^ w * (packLanes w xs + 1) ≤ 2 ^ w * 2 ^ (w * xs.length) := Nat.mul_le_mul_left _ ih
    rw [packLanes, List.length_cons, Nat.mul_succ, Nat.add_comm _ w, Nat.pow_add]
    linarith

/-- Beyond the packed lanes all bits are 0. -/
theorem lane_packLanes_beyond {w : Nat} {l : List Nat} {k : Nat} (h : l.length ≤ k) : lane w (packLanes w l) k = 0 := by
  have hlt : packLanes w l < 2 ^ (k * w) :=
    (packLanes_lt w l).trans_le (Nat.pow_le_pow_right (by decide) (by rw [Nat.mul_comm]; exact Nat.mul_le_mul_right w h))
  rw [lane, Nat.shiftRight_eq_div_pow, Nat.div_eq_of_lt hlt, Nat.zero_mod]

/-- A firing whose one token holds the lanes of a list under a header of its own. -/
theorem sendsFlagged_view {i : Instr} {s : State} {f : Focus} {w : OpWord} {hd : Hdr} {wd n : Nat} {v : Nat → Nat × Flags} {opc : Nat}
    {m : FireIn → FireOut} (rs : List (Nat × Flags)) (h : Chosen s f) (he : exec i s = .next (fireGo s w opc m))
    (ho : (m (gather s f w opc)).outs.map plainView = [(w.dest.toNat, packLanes wd (rs.map Prod.fst), hd.plain)])
    (hf : (m (gather s f w opc)).flags = orFlags (rs.map Prod.snd)) (hv : rs = (List.range n).map v) :
    SendsFlagged i s f w hd wd n (fun k => (v k).1) fun k => (v k).2 := by
  subst hv
  refine ⟨issues_go h he fun t F hF => ⟨_, hF.sent_one _ _ _ ho, fun k hk => ?_⟩,
    issues_go h he fun t F hF => hF.flags.trans (hf.trans (by rw [List.map_map]; rfl))⟩
  rw [lane_packLanes _ _ _ (by simpa using hk)]
  simp

/-- Beyond its lanes the token of a lane-by-lane result holds 0. -/
theorem sendsZeros_of {i : Instr} {s : State} {f : Focus} {w : OpWord} {hd : Hdr} {wd n : Nat} {opc : Nat} {m : FireIn → FireOut}
    {o : Fmt} (cs : List Nat) (h : Chosen s f) (he : exec i s = .next (fireGo s w opc m))
    (ho : (m (gather s f w opc)).outs = [(gather s f w opc).laneTok o cs]) (hh : laneHdr (gather s f w opc) o = hd)
    (hw : o.width = wd) (hn : cs.length = n) :
    Issues i s f fun _ F => ∃ p, F.sent = toEntry (getElem s f.loc).ahead w.dest.toNat hd p ∧ ∀ k, n ≤ k → lane wd p k = 0 := by
  subst hh hw hn
  refine issues_go h he fun t F hF => ⟨packLanes o.width cs, ?_, fun k hk => lane_packLanes_beyond hk⟩
  rw [toEntry_ahead]
  exact hF.sent_one _ _ _ (by rw [ho, List.map_singleton, laneTok_view]; rfl)

theorem orFlags_nil : orFlags [] = fNone := rfl

theorem foldl_or_flags (a : Flags) (l : List Flags) : l.foldl (· ||| ·) a = a ||| orFlags l := by
  induction l generalizing a with
  | nil => exact (BitVec.or_zero).symm
  | cons x xs ih => rw [orFlags, List.foldl_cons, List.foldl_cons, ih, ih (fNone ||| x), ← BitVec.or_assoc]; rw [show fNone ||| x = x from BitVec.zero_or]

theorem orFlags_cons (x : Flags) (l : List Flags) : orFlags (x :: l) = x ||| orFlags l := by
  rw [orFlags, List.foldl_cons, foldl_or_flags, show fNone ||| x = x from BitVec.zero_or]

/-- A flag of several lanes is raised where one of them raises it (R40). -/
theorem orFlags_bit (l : List Flags) (j : Nat) : (orFlags l).getLsbD j = true ↔ ∃ x ∈ l, x.getLsbD j = true := by
  induction l with
  | nil => simp [orFlags_nil, fNone]
  | cons x xs ih => simp [orFlags_cons, ih]

theorem orFlags_none {α : Type} (l : List α) : orFlags (l.map fun _ => fNone) = fNone := by
  induction l with
  | nil => rfl
  | cons x xs ih => rw [List.map_cons, orFlags_cons, ih]; rfl

theorem cell_of_tok {o : Opd} {t : Token} (h : o.tok = some t) (wd n : Nat) : o.cell wd n = lane wd t.payload n := by
  rw [Opd.cell, h]

/-- The source format of a conversion is that of a's token (R69). -/
theorem srcFmt_of_tok {q : FireIn} {t : Token} {src : Fmt} (h : q.a.tok = some t) (hc : Fmt.ofCode t.hdr.fmt = some src) :
    q.srcFmt = src := by
  unfold FireIn.srcFmt
  rw [h]
  cases q.b.tok <;> simp [hc]

/-- A conversion firing whose lane k comes from operand and lane p k. -/
theorem sendsFlagged_conv {i : Instr} {s : State} {f : Focus} {w : OpWord} {hd : Hdr} {wd n : Nat} {v : Nat → Nat × Flags} {opc : Nat}
    {lat : FireIn → Nat} {srcs : FireIn → List (Nat × Nat)} (p : Nat → Nat × Nat) (h : Chosen s f)
    (he : exec i s = .next (fireGo s w opc fun i => convFire i (lat i) (srcs i)))
    (hs : srcs (gather s f w opc) = (List.range n).map p) (hh : laneHdr (gather s f w opc) (gather s f w opc).fmt = hd)
    (hw : (gather s f w opc).fmt.width = wd)
    (hv : ∀ k < n, let q := gather s f w opc
      q.conv q.srcFmt k ((q.opd (p k).1).cell q.srcFmt.width (p k).2) = v k) :
    SendsFlagged i s f w hd wd n (fun k => (v k).1) fun k => (v k).2 := by
  refine sendsFlagged_of _ h he rfl rfl hh hw ?_
  rw [hs]
  refine List.ext_getElem (by simp) fun k hk _ => ?_
  simp at hk
  simpa using hv k hk

end Sys2Proof.Machine
end

section
/-! SUPPORT. Compares, exponents, conversions, `iota` and the generator (spec/05: R126, R133, R135 to R141, R146). -/

namespace Sys2Proof.Machine

theorem signedInt_width {wd : Nat} (h : wd ∈ [8, 16, 32, 64]) : (signedInt wd).width = wd := by
  simp only [List.mem_cons, List.not_mem_nil, or_false] at h
  obtain rfl | rfl | rfl | rfl := h <;> rfl

/-- The lanes of two halves, one from each operand (R137). -/
theorem range_halves (m : Nat) : ((List.range m).map fun k => (0, k)) ++ ((List.range m).map fun k => (1, k)) =
    (List.range (m + m)).map fun k => if k < m then (0, k) else (1, k - m) := by
  refine List.ext_getElem (by simp) fun k hk _ => ?_
  by_cases h : k < m <;> simp [List.getElem_append, h]

/-- Settles O32, operation by operation: a lane-by-lane firing, or a conversion firing of the lanes that it reads. -/
theorem convertedLanes : Obligations.ConvertedLanes := by
  intro s f w h e g r fm wd vec n a b mask T C hd gives holds signed whole cmpOut
  have hvec : (vec = true) = (w.shape = 2) := by simp [vec]
  have hn (opc : Nat) : (gather s f w opc).laneCount (gather s f w opc).fmt = n := by
    rw [laneCount_gather]; simp only [n, hvec]; rfl
  have hh (opc : Nat) (ho : opc ≠ 2 ∧ opc ≠ 3) (o : Fmt) : laneHdr (gather s f w opc) o = hd o := by
    rw [laneHdr_gather s f w ho]; simp only [hd, hvec]; rfl
  refine ⟨?cmp, ?frexp, ?iota, ?rand, ?randUnit, ?convs⟩
  case cmp =>
    intro _
    have ho : (gather s f w 0x28).cmpFmt = cmpOut := rfl
    exact sendsFlagged_pair h rfl (by decide) ((congrArg _ ho).trans (hh _ (by decide) _)) (congrArg Fmt.width ho) (hn _) fun k => by
      dsimp only
      rw [ho]
      rfl
  case frexp =>
    intro hwd hm
    have he : (w.mod == 1) = true := by simpa using hm
    have ho : (if (w.mod == 1) = true then signedInt wd else fm) = signed := if_pos he
    exact sendsFlagged_pair h rfl (by decide) ((congrArg _ ho).trans (hh _ (by decide) _)) (congrArg Fmt.width ho) (hn _) fun k =>
      Prod.ext ((if_pos he).trans (by rw [show signed = signedInt wd from rfl, signedInt_width hwd]; rfl)) rfl
  case iota =>
    intro _
    exact sendsFlagged_pair h rfl (by decide) (hh _ (by decide) _) rfl (hn _) fun k => by
      dsimp only
      rw [gather_a s f w (by decide)]
      exact intResult_eq fm w.sat _
  case rand =>
    intro _ hm
    exact sendsFlagged_pair h rfl (by decide) (hh _ (by decide) _) rfl (hn _) fun k => by
      dsimp only
      rw [gather_a s f w (by decide)]
      exact if_neg hm
  case randUnit =>
    intro _ hm
    exact sendsFlagged_pair h rfl (by decide) (hh _ (by decide) _) rfl (hn _) fun k => by
      dsimp only
      rw [gather_a s f w (by decide)]
      exact if_pos hm
  case convs =>
    intro t src ha hc cv mode
    have hsrc (opc : Nat) (ho : opc ≠ 2 ∧ opc ≠ 3) : (gather s f w opc).srcFmt = src :=
      srcFmt_of_tok (by rw [gather_a s f w ho]; exact ha) hc
    have hcell (opc : Nat) (ho : opc ≠ 2 ∧ opc ≠ 3) (k : Nat) :
        ((gather s f w opc).opd 0).cell src.width k = lane src.width t.payload k := by
      rw [gather_opds s f w ho (by decide)]; exact cell_of_tok ha _ _
    refine ⟨?cvt, ?cvtRest, ?unpack, ?pack, ?expand⟩
    case cvt =>
      refine sendsFlagged_conv (fun k => (0, k)) h rfl ?_ (hh _ (by decide) _) rfl fun k _ => ?_
      · exact congrArg (fun o : Fmt => (List.range (if vec then 1024 / max o.width wd else 1)).map fun k => (0, k)) (hsrc _ (by decide))
      · dsimp only
        rw [hsrc _ (by decide), hcell _ (by decide)]; rfl
    case cvtRest =>
      refine sendsZeros_of _ h rfl rfl (hh _ (by decide) _) rfl ?_
      simp only [List.length_map, List.length_zipIdx, List.length_range, hsrc 0x40 (by decide)]
      rfl
    case unpack =>
      refine sendsFlagged_conv (fun k => (0, (if w.mod = 1 then 1024 / wd else 0) + k)) h rfl rfl (hh _ (by decide) _) rfl fun k _ => ?_
      dsimp only
      rw [hsrc _ (by decide), hcell _ (by decide)]; rfl
    case pack =>
      intro u hu
      refine sendsFlagged_conv (fun k => if k < 1024 / wd / 2 then (0, k) else (1, k - 1024 / wd / 2)) h rfl (range_halves _)
        (hh _ (by decide) _) rfl fun k _ => ?_
      dsimp only
      rw [hsrc _ (by decide)]
      by_cases hk : k < 1024 / wd / 2
      · rw [if_pos hk, if_pos hk, hcell _ (by decide)]; rfl
      · rw [if_neg hk, if_neg hk, gather_opds s f w (by decide) (by decide : 1 < 3), show Opd.cell _ _ _ = _ from cell_of_tok hu _ _]; rfl
    case expand =>
      intro _ _
      let code (k : Nat) : Nat := (roundFp fm.lay .rne false false 0 (narrowVal (w.imm10 % 4)
        (narrowCode (w.imm10 % 4) ((if w.mod = 1 then 128 else 0) + k) t.payload))).1
      refine sendsFlagged_of ((List.range 128).map fun k => (code k, fNone)) h rfl ?_ ?_ (hh _ (by decide) _) rfl rfl
      · have ht : (gather s f w 0x41).a.tok = some t := by rw [gather_a s f w (by decide)]; exact ha
        dsimp only
        rw [ht, List.map_map, show Prod.fst ∘ (fun k => (code k, fNone)) = code from rfl]
        rfl
      · rw [List.map_map]; exact (orFlags_none _).symm

end Sys2Proof.Machine
end

section
/-! SUPPORT. Rounding a value that a format holds gives its code again (spec/01: R18 to R20, R29, R30). -/

namespace Sys2Proof.Machine

/-- What the five computing formats have in common: exponents and fractions with room for a NaN, and a way to write one. -/
structure FLay.Computes (l : FLay) : Prop where
  ebits : 2 ≤ l.ebits
  mbits : 1 ≤ l.mbits
  bias : 1 ≤ l.bias
  nan : l.ieee = true ∨ l.ocp = true
  one : l.ieee = true → l.ocp = false

theorem Fmt.lay_computes {f : Fmt} (h : f.isFloat = true) : f.lay.Computes := by
  cases f with
  | fp32 | fp16 | bf16 | e4m3 | e5m2 => constructor <;> decide
  | _ => cases h

/-- The value of sign, exponent and fraction fields. -/
def fieldsVal (l : FLay) (ftz neg : Bool) (e m : Nat) : FVal :=
  if l.ieee && e = 2 ^ l.ebits - 1 then
    if m = 0 then .inf neg else .nan neg (l.sig && !bit m (l.mbits - 1))
  else if l.ocp && e = 2 ^ l.ebits - 1 && m = 2 ^ l.mbits - 1 then .nan neg false
  else if e = 0 then
    if ftz && m ≠ 0 then .fin neg 0 1 else .fin neg m (2 ^ (l.bias - 1 + l.mbits))
  else .fin neg ((2 ^ l.mbits + m) * 2 ^ (e - 1)) (2 ^ (l.bias - 1 + l.mbits))

theorem decodeF_eq (l : FLay) (ftz : Bool) (c : Nat) : decodeF l ftz c =
    fieldsVal l ftz (bit c (l.ebits + l.mbits)) ((c >>> l.mbits) % 2 ^ l.ebits) (c % 2 ^ l.mbits) := rfl

/-- The code of fields reads as their value. -/
theorem decodeF_signed (l : FLay) (ftz neg : Bool) {e m : Nat} (he : e < 2 ^ l.ebits) (hm : m < 2 ^ l.mbits) :
    decodeF l ftz (signed l neg (e * 2 ^ l.mbits + m)) = fieldsVal l ftz neg e m := by
  have hp : 0 < 2 ^ l.mbits := Nat.two_pow_pos _
  have hlt : e * 2 ^ l.mbits + m < 2 ^ (l.ebits + l.mbits) := by
    rw [Nat.pow_add]
    calc e * 2 ^ l.mbits + m < (e + 1) * 2 ^ l.mbits := by rw [Nat.succ_mul]; omega
      _ ≤ _ := Nat.mul_le_mul_right _ he
  have hs : signed l neg (e * 2 ^ l.mbits + m) = (b2n neg * 2 ^ l.ebits + e) * 2 ^ l.mbits + m := by
    cases neg <;> simp [signed, b2n, FLay.signBit, Nat.pow_add, Nat.add_mul]; omega
  have hbit : bit (signed l neg (e * 2 ^ l.mbits + m)) (l.ebits + l.mbits) = neg := by
    unfold bit signed FLay.signBit
    cases neg
    · simpa using Nat.testBit_lt_two_pow hlt
    · simp [Nat.testBit_two_pow_add_eq, Nat.testBit_lt_two_pow hlt]
  have hmod : signed l neg (e * 2 ^ l.mbits + m) % 2 ^ l.mbits = m := by
    rw [hs, Nat.mul_comm, Nat.mul_add_mod, Nat.mod_eq_of_lt hm]
  have hdiv : signed l neg (e * 2 ^ l.mbits + m) >>> l.mbits % 2 ^ l.ebits = e := by
    rw [hs, Nat.shiftRight_eq_div_pow, Nat.mul_comm _ (2 ^ l.mbits), Nat.mul_add_div hp, Nat.div_eq_of_lt hm, Nat.add_zero,
      Nat.mul_comm, Nat.mul_add_mod, Nat.mod_eq_of_lt he]
  rw [decodeF_eq, hbit, hmod, hdiv]

/-- The logarithm of a ratio over a power of two. -/
theorem ratioLog2_two_pow {n : Nat} (hn : n ≠ 0) (k : Nat) : ratioLog2 n (2 ^ k) = (n.log2 : Int) - k := by
  have hlow : 2 ^ n.log2 ≤ n := Nat.log2_self_le hn
  unfold ratioLog2
  rw [Nat.log2_two_pow]
  by_cases h : n.log2 ≥ k
  · rw [if_pos h, if_pos (by rw [Nat.shiftLeft_eq, ← Nat.pow_add, Nat.add_sub_cancel' h]; exact hlow)]
    omega
  · have hk : 2 ^ k ≤ n <<< (k - n.log2) := by
      rw [Nat.shiftLeft_eq]
      calc 2 ^ k = 2 ^ n.log2 * 2 ^ (k - n.log2) := by rw [← Nat.pow_add]; congr 1; omega
        _ ≤ _ := Nat.mul_le_mul_right _ hlow
    rw [if_neg h, if_pos hk]
    omega

/-- A magnitude that is a whole multiple of the last place at its exponent is exact. -/
theorem roundMag_exact (l : FLay) (neg : Bool) {num den M : Nat} (hd : 0 < den)
    (h : let s := max (ratioLog2 num den) (1 - (l.bias : Int)) - (l.mbits : Int)
      num * 2 ^ (-s).toNat = M * (den * 2 ^ s.toNat)) :
    roundMag l .rne neg num den 0 =
      ((max (ratioLog2 num den) (1 - (l.bias : Int)) - (1 - (l.bias : Int))).toNat * 2 ^ l.mbits + M, fNone) := by
  unfold roundMag
  extract_lets emin e s n d m r m' tiny
  have hnd : n = M * d := by
    have hn : n = num * 2 ^ (-s).toNat := by
      simp only [n]
      split
      · rw [show (-s).toNat = 0 by omega, Nat.pow_zero, Nat.mul_one]
      · rw [Nat.shiftLeft_eq]
    have hden : d = den * 2 ^ s.toNat := by
      simp only [d]
      split
      · rw [Nat.shiftLeft_eq]
      · rw [show s.toNat = 0 by omega, Nat.pow_zero, Nat.mul_one]
    rw [hn, hden]
    exact h
  have hd' : 0 < d := by
    simp only [d]
    split
    · rw [Nat.shiftLeft_eq]; positivity
    · exact hd
  have hm : m = M := by simp only [m, hnd]; exact Nat.mul_div_cancel _ hd'
  have hr : r = 0 := by simp only [r, hnd]; exact Nat.mul_mod_left _ _
  have hm' : m' = M := by
    simp only [m', hr, hm, roundsUp]
    rw [if_neg]
    simp
    omega
  simp only [hm', hr]
  simp [flagIf, e, emin]

end Sys2Proof.Machine
end

section
/-! SUPPORT. Rounding a value that a format holds gives its code again (spec/01: R18 to R20, R29, R30). -/

namespace Sys2Proof.Machine

/-- The numerator that fields stand for, over 2^(bias − 1 + mbits). -/
def fieldNum (l : FLay) (e m : Nat) : Nat := if e = 0 then m else (2 ^ l.mbits + m) * 2 ^ (e - 1)

/-- The numerator of the largest finite value of a format with infinities. -/
def maxNum (l : FLay) : Nat := fieldNum l (2 ^ l.ebits - 2) (2 ^ l.mbits - 1)

/-- Fields of a finite code. -/
structure FiniteFields (l : FLay) (e m : Nat) : Prop where
  exp : e < 2 ^ l.ebits
  frac : m < 2 ^ l.mbits
  le : e * 2 ^ l.mbits + m ≤ l.maxFinite

section
variable {l : FLay} (hl : l.Computes) (ftz sat : Bool)

theorem four_le_pow (hl : l.Computes) : 4 ≤ 2 ^ l.ebits := by
  calc 4 = 2 ^ 2 := rfl
    _ ≤ _ := Nat.pow_le_pow_right (by decide) hl.ebits

include hl

/-- Finite codes of a format with infinities lie below the special exponent. -/
theorem FiniteFields.exponent {e m : Nat} (h : FiniteFields l e m) (hi : l.ieee = true) : e < 2 ^ l.ebits - 1 := by
  have hp : 0 < 2 ^ l.mbits := Nat.two_pow_pos _
  have h4 := four_le_pow hl
  have hle := h.le
  rw [FLay.maxFinite, if_pos hi] at hle
  by_contra hn
  have : (2 ^ l.ebits - 1) * 2 ^ l.mbits ≤ e * 2 ^ l.mbits := Nat.mul_le_mul_right _ (by omega)
  have : 0 < (2 ^ l.ebits - 1) * 2 ^ l.mbits := Nat.mul_pos (by omega) hp
  omega

theorem FiniteFields.num_le {e m : Nat} (h : FiniteFields l e m) (hi : l.ieee = true) : fieldNum l e m ≤ maxNum l := by
  have he := h.exponent hl hi
  have hm := h.frac
  have h4 := four_le_pow hl
  have hmax : maxNum l = (2 ^ l.mbits + (2 ^ l.mbits - 1)) * 2 ^ (2 ^ l.ebits - 2 - 1) := if_neg (by omega)
  rw [hmax, fieldNum]
  split
  · calc m ≤ (2 ^ l.mbits + (2 ^ l.mbits - 1)) * 1 := by omega
      _ ≤ _ := Nat.mul_le_mul_left _ (Nat.two_pow_pos _)
  · exact Nat.mul_le_mul (by omega) (Nat.pow_le_pow_right (by decide) (by omega))

/-- Fields of a finite code stand for a finite value. -/
theorem fieldsVal_finite (neg : Bool) {e m : Nat} (h : FiniteFields l e m) (hz : ftz = true → e = 0 → m = 0) :
    fieldsVal l ftz neg e m = .fin neg (fieldNum l e m) (2 ^ (l.bias - 1 + l.mbits)) := by
  have hsp : ¬(l.ieee && decide (e = 2 ^ l.ebits - 1)) = true := by
    intro hc
    simp only [Bool.and_eq_true, decide_eq_true_eq] at hc
    have := h.exponent hl hc.1
    omega
  have hocp : ¬(l.ocp && decide (e = 2 ^ l.ebits - 1) && decide (m = 2 ^ l.mbits - 1)) = true := by
    intro hc
    simp only [Bool.and_eq_true, decide_eq_true_eq] at hc
    obtain ⟨⟨ho, rfl⟩, rfl⟩ := hc
    have hi : ¬l.ieee = true := fun hi => by simp [hl.one hi] at ho
    have hle := h.le
    rw [FLay.maxFinite, if_neg hi, if_pos ho, Nat.pow_add, Nat.sub_one_mul] at hle
    have := Nat.mul_le_mul (four_le_pow hl) (Nat.one_le_two_pow (n := l.mbits))
    have := Nat.le_mul_of_pos_left (2 ^ l.mbits) (Nat.two_pow_pos l.ebits)
    have := Nat.one_le_two_pow (n := l.mbits)
    omega
  rw [fieldsVal, if_neg hsp, if_neg hocp, fieldNum]
  split
  · next h0 =>
    rw [if_neg (by simpa using fun hf => hz hf h0)]
  · rfl

/-- A value that the format holds keeps its fields. -/
theorem roundFp_fields (neg : Bool) {e m : Nat} (h : FiniteFields l e m) (hz : ftz = true → e = 0 → m = 0) :
    roundFp l .rne sat ftz 0 (.fin neg (fieldNum l e m) (2 ^ (l.bias - 1 + l.mbits))) =
      (signed l neg (e * 2 ^ l.mbits + m), fNone) := by
  have hp : 0 < 2 ^ l.mbits := Nat.two_pow_pos _
  have hb := hl.bias
  have hm := h.frac
  unfold roundFp
  dsimp only
  by_cases h0 : fieldNum l e m = 0
  · have : e = 0 ∧ m = 0 := by
      unfold fieldNum at h0
      split at h0
      · next he => exact ⟨he, h0⟩
      · exact absurd h0 (by positivity)
    rw [if_pos h0, this.1, this.2]; simp
  have hmag : roundMag l .rne neg (fieldNum l e m) (2 ^ (l.bias - 1 + l.mbits)) 0 = (e * 2 ^ l.mbits + m, fNone) := by
    by_cases he : e = 0
    · have hnum : fieldNum l e m = m := if_pos he
      have hlog : m.log2 < l.mbits := (Nat.log2_lt (by omega)).2 hm
      have hmax : max (ratioLog2 (fieldNum l e m) (2 ^ (l.bias - 1 + l.mbits))) (1 - (l.bias : Int)) = 1 - l.bias := by
        rw [ratioLog2_two_pow h0, hnum]; omega
      rw [roundMag_exact l neg (M := m) (Nat.two_pow_pos _), hmax, he]
      · simp
      · dsimp only
        rw [hmax, hnum, show (-((1 : Int) - l.bias - l.mbits)).toNat = l.bias - 1 + l.mbits by omega,
          show ((1 : Int) - l.bias - l.mbits).toNat = 0 by omega]
        simp
    · have hnum : fieldNum l e m = (2 ^ l.mbits + m) * 2 ^ (e - 1) := if_neg he
      have hlog : (fieldNum l e m).log2 = l.mbits + (e - 1) := by
        rw [hnum, Nat.log2_eq_iff (by positivity), Nat.pow_add, Nat.add_right_comm, Nat.pow_add, Nat.pow_succ]
        exact ⟨Nat.mul_le_mul_right _ (by omega), Nat.mul_lt_mul_of_pos_right (by omega) (Nat.two_pow_pos _)⟩
      have hmax : max (ratioLog2 (fieldNum l e m) (2 ^ (l.bias - 1 + l.mbits))) (1 - (l.bias : Int)) = e - l.bias := by
        rw [ratioLog2_two_pow h0, hlog]; omega
      have hk : e * 2 ^ l.mbits = (e - 1) * 2 ^ l.mbits + 2 ^ l.mbits := by rw [← Nat.succ_mul]; congr 1; omega
      rw [roundMag_exact l neg (M := 2 ^ l.mbits + m) (Nat.two_pow_pos _), hmax,
        show ((e : Int) - l.bias - (1 - l.bias)).toNat = e - 1 by omega, hk, Nat.add_assoc]
      dsimp only
      rw [hmax, hnum, Nat.mul_assoc, ← Nat.pow_add, ← Nat.pow_add]
      congr 2
      omega
  rw [if_neg h0, hmag]
  dsimp only
  rw [if_neg (Nat.not_lt.2 h.le), if_neg]
  simp only [Bool.and_eq_true, decide_eq_true_eq, not_and, Nat.not_lt]
  intro hf
  by_cases he : e = 0
  · simp [he, hz hf.1 he] at hf
  · calc 2 ^ l.mbits = 1 * 2 ^ l.mbits := (Nat.one_mul _).symm
      _ ≤ e * 2 ^ l.mbits := Nat.mul_le_mul_right _ (by omega)
      _ ≤ _ := Nat.le_add_right _ _

end

end Sys2Proof.Machine
end

section
/-! SUPPORT. The order of the values that a format holds, and what rounding them again keeps of it (spec/05: R124, R143). -/

namespace Sys2Proof.Machine

/-- The number is one that the format holds: an infinity of a format that has them, or a finite value of its fields. -/
inductive FVal.HeldBy (l : FLay) (ftz : Bool) : FVal → Prop
  | inf (n : Bool) (hi : l.ieee = true) : HeldBy l ftz (.inf n)
  | fin (n : Bool) {e m b : Nat} (h : FiniteFields l e m) (hz : ftz = true → e = 0 → m = 0)
      (hb : b = 2 ^ (l.bias - 1 + l.mbits) ∨ (fieldNum l e m = 0 ∧ b = 1)) : HeldBy l ftz (.fin n (fieldNum l e m) b)

/-- A number rounded to nearest in the format; drawn bits are not read. -/
def reencode (l : FLay) (sat ftz : Bool) (x : FVal) : Nat := (roundFp l .rne sat ftz 0 x).1

/-- A number's place in the order of R124, −0 below +0; under SAT an infinity stands with the largest finite value. -/
def FVal.rank (l : FLay) (sat : Bool) : FVal → Int
  | .nan _ _ => 0
  | .inf n => let b : Int := if sat then maxNum l else maxNum l + 1
              if n then -(2 * b) else 2 * b + 1
  | .fin n a _ => if n then -(2 * (a : Int)) else 2 * (a : Int) + 1

section
variable {l : FLay} (hl : l.Computes) (ftz sat : Bool)
include hl

theorem decodeF_cases (c : Nat) : (∃ n s, decodeF l ftz c = .nan n s) ∨ (decodeF l ftz c).HeldBy l ftz := by
  have he : (c >>> l.mbits) % 2 ^ l.ebits < 2 ^ l.ebits := Nat.mod_lt _ (Nat.two_pow_pos _)
  have hm : c % 2 ^ l.mbits < 2 ^ l.mbits := Nat.mod_lt _ (Nat.two_pow_pos _)
  rw [decodeF_eq]
  generalize bit c (l.ebits + l.mbits) = n
  generalize (c >>> l.mbits) % 2 ^ l.ebits = e at he ⊢
  generalize c % 2 ^ l.mbits = m at hm ⊢
  by_cases hi : (l.ieee && decide (e = 2 ^ l.ebits - 1)) = true
  · rw [fieldsVal, if_pos hi]
    split
    · exact .inr (.inf n (by simp at hi; exact hi.1))
    · exact .inl ⟨_, _, rfl⟩
  by_cases ho : (l.ocp && decide (e = 2 ^ l.ebits - 1) && decide (m = 2 ^ l.mbits - 1)) = true
  · rw [fieldsVal, if_neg hi, if_pos ho]
    exact .inl ⟨_, _, rfl⟩
  right
  have hle : e * 2 ^ l.mbits + m ≤ l.maxFinite := by
    have hp : 0 < 2 ^ l.mbits := Nat.two_pow_pos _
    have h4 := four_le_pow hl
    by_cases hx : e = 2 ^ l.ebits - 1
    · have hi' : ¬l.ieee = true := by simpa [hx] using hi
      have ho' : l.ocp = true := hl.nan.resolve_left hi'
      have hm' : m ≠ 2 ^ l.mbits - 1 := by simpa [hx, ho'] using ho
      have hmul : (2 ^ l.ebits - 1) * 2 ^ l.mbits + 2 ^ l.mbits = 2 ^ (l.ebits + l.mbits) := by
        rw [← Nat.succ_mul, Nat.pow_add]; congr 1; omega
      rw [FLay.maxFinite, if_neg hi', if_pos ho', hx]
      omega
    · have hmul : (e + 1) * 2 ^ l.mbits ≤ (2 ^ l.ebits - 1) * 2 ^ l.mbits := Nat.mul_le_mul_right _ (by omega)
      have hpow : (2 ^ l.ebits - 1) * 2 ^ l.mbits + 2 ^ l.mbits = 2 ^ (l.ebits + l.mbits) := by
        rw [← Nat.succ_mul, Nat.pow_add]; congr 1; omega
      rw [Nat.succ_mul] at hmul
      have hm1 := hl.mbits
      have : 2 ≤ 2 ^ l.mbits := Nat.le_self_pow (by omega) 2
      unfold FLay.maxFinite
      split
      · omega
      · split <;> omega
  by_cases hz : ftz = true ∧ e = 0 ∧ m ≠ 0
  · obtain ⟨hf, rfl, hm0⟩ := hz
    have hv : fieldsVal l ftz n 0 m = .fin n (fieldNum l 0 0) 1 := by
      rw [fieldsVal, if_neg hi, if_neg ho, if_pos rfl, if_pos (by simp [hf, hm0])]; rfl
    rw [hv]
    exact .fin n ⟨he, Nat.two_pow_pos _, by omega⟩ (fun _ _ => rfl) (.inr ⟨rfl, rfl⟩)
  · have hz' : ftz = true → e = 0 → m = 0 := fun hf h0 => by
      by_contra hm0
      exact hz ⟨hf, h0, hm0⟩
    have hfin : FiniteFields l e m := ⟨he, hm, hle⟩
    rw [fieldsVal_finite hl ftz n hfin hz']
    exact .fin n hfin hz' (.inl rfl)

/-- The fields of the largest finite value of a format with infinities. -/
theorem maxFinite_fields (hi : l.ieee = true) : FiniteFields l (2 ^ l.ebits - 2) (2 ^ l.mbits - 1) ∧
    (2 ^ l.ebits - 2) * 2 ^ l.mbits + (2 ^ l.mbits - 1) = l.maxFinite := by
  have hp : 0 < 2 ^ l.mbits := Nat.two_pow_pos _
  have h4 := four_le_pow hl
  have heq : (2 ^ l.ebits - 2) * 2 ^ l.mbits + (2 ^ l.mbits - 1) = l.maxFinite := by
    rw [FLay.maxFinite, if_pos hi]
    have : (2 ^ l.ebits - 1) * 2 ^ l.mbits = (2 ^ l.ebits - 2) * 2 ^ l.mbits + 2 ^ l.mbits := by
      rw [← Nat.succ_mul]; congr 1; omega
    omega
  exact ⟨⟨by omega, by omega, heq.le⟩, heq⟩

theorem reencode_fin (n : Bool) {e m b : Nat} (h : FiniteFields l e m) (hz : ftz = true → e = 0 → m = 0)
    (hb : b = 2 ^ (l.bias - 1 + l.mbits) ∨ (fieldNum l e m = 0 ∧ b = 1)) :
    reencode l sat ftz (.fin n (fieldNum l e m) b) = signed l n (e * 2 ^ l.mbits + m) := by
  unfold reencode
  rcases hb with rfl | ⟨h0, -⟩
  · rw [roundFp_fields hl ftz sat n h hz]
  · have := roundFp_fields hl ftz sat n h hz
    rw [h0] at this ⊢
    exact congrArg Prod.fst this

/-- Under SAT an infinity becomes the largest finite value. -/
theorem reencode_inf_sat (n : Bool) (hi : l.ieee = true) : reencode l true ftz (.inf n) =
    reencode l true ftz (.fin n (maxNum l) (2 ^ (l.bias - 1 + l.mbits))) := by
  have h4 := four_le_pow hl
  obtain ⟨hm, heq⟩ := maxFinite_fields hl hi
  rw [maxNum, reencode_fin hl ftz true n hm (fun _ h => by omega) (.inl rfl), heq]
  rfl

/-- A held number, rounded and read again, keeps its rank. -/
theorem decodeF_reencode {x : FVal} (h : x.HeldBy l ftz) : (decodeF l ftz (reencode l sat ftz x)).HeldBy l ftz ∧
    (decodeF l ftz (reencode l sat ftz x)).rank l sat = x.rank l sat := by
  have fin (n : Bool) {e m b : Nat} (h : FiniteFields l e m) (hz : ftz = true → e = 0 → m = 0)
      (hb : b = 2 ^ (l.bias - 1 + l.mbits) ∨ (fieldNum l e m = 0 ∧ b = 1)) :
      decodeF l ftz (reencode l sat ftz (.fin n (fieldNum l e m) b)) = .fin n (fieldNum l e m) (2 ^ (l.bias - 1 + l.mbits)) := by
    rw [reencode_fin hl ftz sat n h hz hb, decodeF_signed l ftz n h.exp h.frac, fieldsVal_finite hl ftz n h hz]
  cases h with
  | fin n h hz hb =>
    rw [fin n h hz hb]
    exact ⟨.fin n h hz (.inl rfl), rfl⟩
  | inf n hi =>
    have h4 := four_le_pow hl
    cases sat with
    | true =>
      obtain ⟨hm, -⟩ := maxFinite_fields hl hi
      rw [reencode_inf_sat hl ftz n hi, maxNum, fin n hm (fun _ h => by omega) (.inl rfl)]
      exact ⟨.fin n hm (fun _ h => by omega) (.inl rfl), rfl⟩
    | false =>
      have : reencode l false ftz (.inf n) = signed l n ((2 ^ l.ebits - 1) * 2 ^ l.mbits + 0) := by
        simp [reencode, roundFp, hi, FLay.infCode]
      rw [this, decodeF_signed l ftz n (by omega) (Nat.two_pow_pos _), fieldsVal, if_pos (by simp [hi]), if_pos rfl]
      exact ⟨.inf n hi, rfl⟩

/-- Held numbers of one rank round to one code. -/
theorem reencode_of_rank {x y : FVal} (hx : x.HeldBy l ftz) (hy : y.HeldBy l ftz) (h : x.rank l sat = y.rank l sat) :
    reencode l sat ftz x = reencode l sat ftz y := by
  -- an infinity and a finite value share a rank under SAT alone, at the largest finite value
  have mixed (n n' : Bool) {e m b : Nat} (hi : l.ieee = true) (hf : FiniteFields l e m)
      (hz : ftz = true → e = 0 → m = 0) (hb : b = 2 ^ (l.bias - 1 + l.mbits) ∨ (fieldNum l e m = 0 ∧ b = 1))
      (h : (FVal.inf n).rank l sat = (FVal.fin n' (fieldNum l e m) b).rank l sat) :
      reencode l sat ftz (.inf n) = reencode l sat ftz (.fin n' (fieldNum l e m) b) := by
    have hle := hf.num_le hl hi
    have hpos : 0 < maxNum l := by
      have h4 := four_le_pow hl
      rw [maxNum, fieldNum, if_neg (by omega)]; positivity
    cases sat with
    | false => cases n <;> cases n' <;> simp [FVal.rank] at h <;> omega
    | true =>
      have hn : n = n' ∧ fieldNum l e m = maxNum l := by cases n <;> cases n' <;> simp [FVal.rank] at h ⊢ <;> omega
      have hb' : b = 2 ^ (l.bias - 1 + l.mbits) := hb.resolve_right (by omega)
      rw [reencode_inf_sat hl ftz n hi, hn.1, hn.2, hb']
  cases hx with
  | inf n hi =>
    cases hy with
    | inf n' hi' =>
      have : n = n' := by cases n <;> cases n' <;> cases sat <;> simp [FVal.rank] at h ⊢ <;> omega
      rw [this]
    | fin n' hf hz hb => exact mixed n n' hi hf hz hb h
  | @fin n e m b hf hz hb =>
    cases hy with
    | inf n' hi' => exact (mixed n' n hi' hf hz hb h.symm).symm
    | @fin n' e' m' b' hf' hz' hb' =>
      have hn : n = n' ∧ fieldNum l e m = fieldNum l e' m' := by
        cases n <;> cases n' <;> simp [FVal.rank] at h ⊢ <;> omega
      obtain ⟨rfl, hnum⟩ := hn
      calc reencode l sat ftz (.fin n (fieldNum l e m) b)
        _ = reencode l sat ftz (.fin n (fieldNum l e m) (2 ^ (l.bias - 1 + l.mbits))) := by
          rw [reencode_fin hl ftz sat n hf hz hb, reencode_fin hl ftz sat n hf hz (.inl rfl)]
        _ = reencode l sat ftz (.fin n (fieldNum l e' m') b') := by
          rw [hnum, reencode_fin hl ftz sat n hf' hz' (.inl rfl), reencode_fin hl ftz sat n hf' hz' hb']

end

end Sys2Proof.Machine
end

section
/-! SUPPORT. The extremes of a list of lanes (spec/05: R124, R143). -/

namespace Sys2Proof.Machine

section
variable {l : FLay} (hl : l.Computes) (ftz sat : Bool)

/-- Held finite values compare by their numerators. -/
theorem cmpF_fin {D a b a' b' : Nat} (n n' : Bool) (hD : 0 < D) (hb : b = D ∨ (a = 0 ∧ b = 1)) (hb' : b' = D ∨ (a' = 0 ∧ b' = 1)) :
    cmpF (.fin n a b) (.fin n' a' b') =
      compare (if n then -(a : Int) else (a : Int)) (if n' then -(a' : Int) else (a' : Int)) := by
  have key (A B : Int) (hA : b = D ∨ (A = 0 ∧ b = 1)) (hB : b' = D ∨ (B = 0 ∧ b' = 1)) :
      compare (A * (b' : Int)) (B * (b : Int)) = compare A B := by
    have hlt : A * (b' : Int) < B * b ↔ A < B := by
      rcases hA with rfl | ⟨rfl, rfl⟩ <;> rcases hB with rfl | ⟨rfl, rfl⟩ <;> simp [hD]
    have hgt : B * (b : Int) < A * b' ↔ B < A := by
      rcases hA with rfl | ⟨rfl, rfl⟩ <;> rcases hB with rfl | ⟨rfl, rfl⟩ <;> simp [hD]
    rcases lt_trichotomy A B with h | rfl | h
    · rw [compare_lt_iff_lt.2 h, compare_lt_iff_lt.2 (hlt.2 h)]
    · rw [compare_eq_iff_eq.2 rfl, compare_eq_iff_eq]
      exact le_antisymm (not_lt.1 fun hc => lt_irrefl _ (hgt.1 hc)) (not_lt.1 fun hc => lt_irrefl _ (hlt.1 hc))
    · rw [compare_gt_iff_gt.2 h, compare_gt_iff_gt.2 (hgt.2 h)]
  refine key _ _ ?_ ?_
  · exact hb.imp_right fun h => ⟨by simp [h.1], h.2⟩
  · exact hb'.imp_right fun h => ⟨by simp [h.1], h.2⟩

include hl in
/-- The order of R124 is the order of ranks; equal ranks under SAT aside. -/
theorem below_rank {x y : FVal} (hx : x.HeldBy l ftz) (hy : y.HeldBy l ftz) :
    (x.below y → x.rank l sat ≤ y.rank l sat) ∧ (¬x.below y → y.rank l sat ≤ x.rank l sat) := by
  have hD : 0 < 2 ^ (l.bias - 1 + l.mbits) := Nat.two_pow_pos _
  unfold FVal.below
  cases hx with
  | inf n hi =>
    cases hy with
    | inf n' hi' => cases n <;> cases n' <;> cases sat <;> simp [cmpF, FVal.rank, FVal.neg] <;> omega
    | fin n' h hz hb =>
      have := h.num_le hl hi
      cases n <;> cases n' <;> cases sat <;> simp [cmpF, FVal.rank, FVal.neg] <;> omega
  | fin n h hz hb =>
    cases hy with
    | inf n' hi' =>
      have := h.num_le hl hi'
      cases n <;> cases n' <;> cases sat <;> simp [cmpF, FVal.rank, FVal.neg] <;> omega
    | fin n' h' hz' hb' =>
      rw [cmpF_fin n n' hD hb hb', compare_lt_iff_lt, compare_eq_iff_eq]
      cases n <;> cases n' <;> simp [FVal.rank, FVal.neg] <;> omega

/-- A NaN, rounded and read again, is quiet and keeps its sign. -/
theorem decodeF_reencode_nan (hl : l.Computes) (n s : Bool) : decodeF l ftz (reencode l sat ftz (.nan n s)) = .nan n false := by
  have h4 := four_le_pow hl
  have hm := hl.mbits
  have hp : 2 ^ l.mbits = 2 * 2 ^ (l.mbits - 1) := by rw [← Nat.pow_succ']; congr 1; omega
  have hp' : 0 < 2 ^ (l.mbits - 1) := Nat.two_pow_pos _
  show decodeF l ftz (signed l n l.canonNan) = _
  by_cases hi : l.ieee = true
  · rw [show l.canonNan = (2 ^ l.ebits - 1) * 2 ^ l.mbits + 2 ^ (l.mbits - 1) by rw [FLay.canonNan, if_pos hi],
      decodeF_signed l ftz n (by omega) (by omega), fieldsVal, if_pos (by simp [hi]), if_neg (by omega)]
    simp [bit]
  · have ho : l.ocp = true := hl.nan.resolve_left hi
    have hc : l.canonNan = (2 ^ l.ebits - 1) * 2 ^ l.mbits + (2 ^ l.mbits - 1) := by
      have : 2 ^ (l.ebits + l.mbits) = (2 ^ l.ebits - 1) * 2 ^ l.mbits + 2 ^ l.mbits := by
        rw [← Nat.succ_mul, Nat.pow_add]; congr 1; omega
      rw [FLay.canonNan, if_neg hi, if_pos ho]
      omega
    rw [hc, decodeF_signed l ftz n (by omega) (by omega), fieldsVal, if_neg (by simp [hi]), if_pos (by simp [ho])]

end

/-! ### Extremes of a list -/

theorem firstNan_eq (xs : List FVal) : firstNan xs = (xs.find? FVal.isNan).map fun x => .nan x.neg false := by
  induction xs with
  | nil => rfl
  | cons x xs ih => cases x <;> simp [firstNan, FVal.isNan, FVal.neg, ih]

theorem sigFlags_append (xs ys : List FVal) : sigFlags (xs ++ ys) = sigFlags xs ||| sigFlags ys := by
  unfold sigFlags flagIf
  rw [List.any_append]
  cases xs.any FVal.isSig <;> cases ys.any FVal.isSig <;> rfl

theorem isSig_of_not_nan {x : FVal} (h : x.isNan = false) : x.isSig = false := by
  cases x with
  | nan _ _ => cases h
  | inf _ => rfl
  | fin _ _ _ => rfl

theorem FVal.HeldBy.isNan {l : FLay} {ftz : Bool} {x : FVal} (h : x.HeldBy l ftz) : x.isNan = false := by
  cases h <;> rfl

/-- A NaN first: it is the extreme beside another, or in the form `.nan`. -/
theorem extremeF_nan_left (big nan n s : Bool) (y : FVal) :
    extremeF big nan (.nan n s) y = if nan = true ∨ y.isNan = true then .nan n false else y := by
  cases nan <;> cases hy : y.isNan <;> simp [extremeF, hy, firstNan, show (FVal.nan n s).isNan = true from rfl]

/-- A NaN second: it is the extreme in the form `.nan`. -/
theorem extremeF_nan_right (big nan : Bool) {x y : FVal} (hx : x.isNan = false) (hy : y.isNan = true) :
    extremeF big nan x y = if nan = true then .nan y.neg false else x := by
  cases nan <;> simp [extremeF, hx, hy, firstNan_eq]

theorem extremeF_numbers (big nan : Bool) {x y : FVal} (hx : x.isNan = false) (hy : y.isNan = false) :
    extremeF big nan x y = pickF big x y := by simp [extremeF, hx, hy]

/-- The values in the order in which the greatest, or the least, comes last. -/
def FVal.toward (l : FLay) (sat big : Bool) (x : FVal) : Int := if big then x.rank l sat else -x.rank l sat

/-- A NaN decides the extreme (R124): any in the form `.nan`, and in the number form when there is nothing else. -/
def NanDecides (nan : Bool) (xs : List FVal) : Prop := if nan then ∃ x ∈ xs, x.isNan = true else ∀ x ∈ xs, x.isNan = true

/-- The code q is an extreme of the codes (R143): of the first NaN where it decides, else of a number that no other passes. -/
structure IsExtreme (l : FLay) (ftz sat big nan : Bool) (cs : List Nat) (q : Nat) : Prop where
  ofNan : NanDecides nan (cs.map (decodeF l ftz)) → ∃ x, firstNan (cs.map (decodeF l ftz)) = some x ∧ q = reencode l sat ftz x
  ofNumber : ¬NanDecides nan (cs.map (decodeF l ftz)) → ∃ c ∈ cs, (decodeF l ftz c).isNan = false ∧
    q = reencode l sat ftz (decodeF l ftz c) ∧
    ∀ d ∈ cs, (decodeF l ftz d).isNan = false → (decodeF l ftz d).toward l sat big ≤ (decodeF l ftz c).toward l sat big

theorem pickF_eq (big : Bool) (x y : FVal) : pickF big x y = if (x.below y ↔ big = true) then y else x := by
  unfold pickF FVal.below
  cases cmpF x y <;> cases big <;> cases x.neg <;> cases y.neg <;> simp

section
variable {l : FLay} (hl : l.Computes) (ftz sat big nan : Bool)
include hl

theorem heldBy_of_number {c : Nat} (h : (decodeF l ftz c).isNan = false) : (decodeF l ftz c).HeldBy l ftz :=
  (decodeF_cases hl ftz c).resolve_left fun ⟨_, _, hn⟩ => by rw [hn] at h; cases h

theorem pickF_toward {x y : FVal} (hx : x.HeldBy l ftz) (hy : y.HeldBy l ftz) :
    (pickF big x y = x ∧ y.toward l sat big ≤ x.toward l sat big) ∨ (pickF big x y = y ∧ x.toward l sat big ≤ y.toward l sat big) := by
  obtain ⟨hlt, hge⟩ := below_rank hl ftz sat hx hy
  rw [pickF_eq]
  unfold FVal.toward
  by_cases hb : x.below y <;> cases big
  · exact .inl ⟨by simp [hb], by simpa using hlt hb⟩
  · exact .inr ⟨by simp [hb], by simpa using hlt hb⟩
  · exact .inr ⟨by simp [hb], by simpa using hge hb⟩
  · exact .inl ⟨by simp [hb], by simpa using hge hb⟩

omit hl in
theorem nanDecides_snoc (xs : List FVal) (y : FVal) : NanDecides nan (xs ++ [y]) ↔
    if nan then NanDecides nan xs ∨ y.isNan = true else NanDecides nan xs ∧ y.isNan = true := by
  unfold NanDecides
  cases nan <;> simp [or_imp, forall_and, or_and_right, exists_or]

omit hl in
theorem firstNan_snoc (xs : List FVal) (y : FVal) : firstNan (xs ++ [y]) = (firstNan xs).or (firstNan [y]) := by
  simp only [firstNan_eq, List.find?_append]
  cases xs.find? FVal.isNan <;> rfl

/-- What an extreme is, read again. -/
theorem IsExtreme.read {cs : List Nat} {q : Nat} (h : IsExtreme l ftz sat big nan cs q) :
    (NanDecides nan (cs.map (decodeF l ftz)) → ∃ n, firstNan (cs.map (decodeF l ftz)) = some (.nan n false) ∧ decodeF l ftz q = .nan n false) ∧
    (¬NanDecides nan (cs.map (decodeF l ftz)) → (decodeF l ftz q).isNan = false) := by
  refine ⟨fun hd => ?_, fun hd => ?_⟩
  · obtain ⟨x, hx, rfl⟩ := h.ofNan hd
    rw [firstNan_eq, Option.map_eq_some_iff] at hx
    obtain ⟨z, hz, rfl⟩ := hx
    exact ⟨z.neg, by rw [firstNan_eq, hz]; rfl, decodeF_reencode_nan ftz sat hl z.neg false⟩
  · obtain ⟨c, -, hc, rfl, -⟩ := h.ofNumber hd
    exact (decodeF_reencode hl ftz sat (heldBy_of_number hl ftz hc)).1.isNan

/-- One more code: the extreme so far, read again, against its value. -/
theorem IsExtreme.snoc {cs : List Nat} {q : Nat} (h : IsExtreme l ftz sat big nan cs q) (d : Nat) :
    IsExtreme l ftz sat big nan (cs ++ [d]) (reencode l sat ftz (extremeF big nan (decodeF l ftz q) (decodeF l ftz d))) := by
  obtain ⟨hnan, hnum⟩ := h.read hl ftz sat big nan
  have hsnoc := nanDecides_snoc nan (cs.map (decodeF l ftz)) (decodeF l ftz d)
  have hfirst := firstNan_snoc (cs.map (decodeF l ftz)) (decodeF l ftz d)
  rw [← List.map_singleton, ← List.map_append] at hsnoc hfirst
  by_cases hD : NanDecides nan (cs.map (decodeF l ftz))
  · -- a NaN so far: it stays, unless the number form meets its first number
    obtain ⟨n, hn, hq⟩ := hnan hD
    rw [hq, extremeF_nan_left]
    by_cases hy : nan = true ∨ (decodeF l ftz d).isNan = true
    · rw [if_pos hy]
      refine ⟨fun _ => ⟨_, by rw [hfirst, hn]; rfl, rfl⟩, fun hc => absurd (hsnoc.2 ?_) hc⟩
      cases nan
      · exact ⟨hD, by simpa using hy⟩
      · exact .inl hD
    · rw [if_neg hy]
      obtain ⟨rfl, hd⟩ : nan = false ∧ (decodeF l ftz d).isNan = false := by simpa using hy
      have hall : ∀ c ∈ cs, (decodeF l ftz c).isNan = true := by simpa [NanDecides] using hD
      refine ⟨fun hc => ?_, fun _ => ⟨d, by simp, hd, rfl, fun e he hen => ?_⟩⟩
      · exact absurd (hsnoc.1 hc).2 (by simp [hd])
      · rcases List.mem_append.1 he with he | he
        · simp [hall e he] at hen
        · rw [List.mem_singleton.1 he]
  · -- a number so far
    have hq := hnum hD
    obtain ⟨c, hc, hcn, rfl, hmax⟩ := h.ofNumber hD
    have hheld := heldBy_of_number hl ftz hcn
    obtain ⟨hqh, hrank⟩ := decodeF_reencode hl ftz sat hheld
    have htow : (decodeF l ftz (reencode l sat ftz (decodeF l ftz c))).toward l sat big = (decodeF l ftz c).toward l sat big := by
      simp only [FVal.toward, hrank]
    have keeps (hN : ¬NanDecides nan ((cs ++ [d]).map (decodeF l ftz)))
        (hd : (decodeF l ftz d).isNan = false → (decodeF l ftz d).toward l sat big ≤ (decodeF l ftz c).toward l sat big) :
        IsExtreme l ftz sat big nan (cs ++ [d]) (reencode l sat ftz (decodeF l ftz (reencode l sat ftz (decodeF l ftz c)))) := by
      refine ⟨fun h => absurd h hN, fun _ => ⟨c, by simp [hc], hcn, reencode_of_rank hl ftz sat hqh hheld hrank, fun e he hen => ?_⟩⟩
      rcases List.mem_append.1 he with he | he
      · exact hmax e he hen
      · rw [List.mem_singleton.1 he] at hen ⊢; exact hd hen
    by_cases hd : (decodeF l ftz d).isNan = true
    · rw [extremeF_nan_right big nan hq hd]
      cases nan with
      | true =>
        have hnone : firstNan (cs.map (decodeF l ftz)) = none := by
          rw [firstNan_eq, Option.map_eq_none_iff, List.find?_eq_none]
          exact fun x hx hxn => hD ⟨x, hx, hxn⟩
        refine ⟨fun _ => ⟨_, by rw [hfirst, hnone, firstNan_eq]; simp [hd], rfl⟩, fun hc => absurd (hsnoc.2 (.inr hd)) hc⟩
      | false => exact keeps (fun hN => hD (hsnoc.1 hN).1) fun hn => by simp [hd] at hn
    · have hd' : (decodeF l ftz d).isNan = false := by simpa using hd
      have hN : ¬NanDecides nan ((cs ++ [d]).map (decodeF l ftz)) := fun hN => by
        have := hsnoc.1 hN
        cases nan <;> simp [hd', hD] at this
      rw [extremeF_numbers big nan hq hd']
      rcases pickF_toward hl ftz sat big hqh (heldBy_of_number hl ftz hd') with ⟨hp, hle⟩ | ⟨hp, hle⟩
      · rw [hp]
        exact keeps hN fun _ => hle.trans htow.le
      · rw [hp]
        refine ⟨fun h => absurd h hN, fun _ => ⟨d, by simp, hd', rfl, fun e he hen => ?_⟩⟩
        rcases List.mem_append.1 he with he | he
        · exact ((hmax e he hen).trans htow.ge).trans hle
        · rw [List.mem_singleton.1 he]

omit hl in
/-- The extreme of one code. -/
theorem IsExtreme.single (c : Nat) :
    IsExtreme l ftz sat big nan [c] (reencode l sat ftz (extremeF big nan (decodeF l ftz c) (decodeF l ftz c))) := by
  by_cases hc : (decodeF l ftz c).isNan = true
  · have hx : extremeF big nan (decodeF l ftz c) (decodeF l ftz c) = .nan (decodeF l ftz c).neg false := by
      cases hv : decodeF l ftz c with
      | nan n s => rw [extremeF_nan_left, if_pos (.inr rfl)]; rfl
      | inf n => rw [hv] at hc; cases hc
      | fin n a b => rw [hv] at hc; cases hc
    rw [hx]
    exact ⟨fun _ => ⟨_, by rw [firstNan_eq]; simp [hc], rfl⟩, fun h => absurd (by unfold NanDecides; cases nan <;> simpa using hc) h⟩
  · have hc' : (decodeF l ftz c).isNan = false := by simpa using hc
    have hp : pickF big (decodeF l ftz c) (decodeF l ftz c) = decodeF l ftz c := by rw [pickF_eq, ite_self]
    rw [extremeF_numbers big nan hc' hc', hp]
    refine ⟨fun h => ?_, fun _ => ⟨c, by simp, hc', rfl, fun e he _ => by rw [List.mem_singleton.1 he]⟩⟩
    unfold NanDecides at h
    cases nan <;> simp [hc'] at h

end

end Sys2Proof.Machine
end

section
/-! SUPPORT. Reductions as firings: one scalar result, and the extremes of lanes (spec/05: R142, R143). -/

namespace Sys2Proof.Machine

theorem scalarTok_view (q : FireIn) (o : Fmt) (c : Nat) : plainView (q.scalarTok o c) =
    (q.dest, c % 2 ^ o.width, Hdr.plain { scalarHdr o (outTag q.w q.tag) with vmask := q.vmask % 2 }) := by
  unfold FireIn.scalarTok
  rw [emit_view]

/-- The format record that a candidate reads. -/
def recAt (s : State) (f : Focus) (w : OpWord) : Nat := nth (getElem s f.loc).ahead.cfg.fmts w.fmt.toNat 0

/-- The candidate issues, sends one scalar of the format, and raises the flags. -/
def SendsScalar (i : Instr) (s : State) (f : Focus) (w : OpWord) (o : Fmt) (v : Nat × Flags) : Prop :=
  let opd (p : Nat) := operandAt (getRegion s (rgnOf f.loc)) (getElem s f.loc).ahead w f.slot f.tag p
  Issues i s f fun _ F => F.sent = toEntry (getElem s f.loc).ahead w.dest.toNat
    { tag := outTag w f.tag, fmt := o.code, pkind := if o.width = 64 then 1 else 0,
      vmask := ((opd 0).mask &&& (opd 1).mask &&& (opd 2).mask) % 2 } (v.1 % 2 ^ o.width) ∧ F.flags = v.2

/-- A firing that sends one scalar result. -/
theorem sendsScalar_go {i : Instr} {s : State} {f : Focus} {w : OpWord} {opc : Nat} {m : FireIn → FireOut} {O o : Fmt}
    {R v : Nat × Flags} (h : Chosen s f) (he : exec i s = .next (fireGo s w opc m)) (ho : opc ≠ 2 ∧ opc ≠ 3)
    (hout : (m (gather s f w opc)).outs = [(gather s f w opc).scalarTok O R.1]) (hfl : (m (gather s f w opc)).flags = R.2)
    (hO : O = o) (hR : R = v) : SendsScalar i s f w o v := by
  subst hO hR
  refine issues_go h he fun t F hF => ⟨?_, hF.flags.trans hfl⟩
  rw [toEntry_ahead]
  refine hF.sent_one _ _ _ ?_
  rw [hout, List.map_singleton, scalarTok_view]
  unfold FireIn.vmask
  rw [gather_a s f w ho, gather_b s f w ho, gather_c s f w ho]
  rfl

/-- The fold of R143 over the codes of the lanes. -/
def extremeOf (q : FireIn) (f : Fmt) (big nan : Bool) (c : Nat) (rest : List Nat) : Nat × Flags :=
  rest.foldl (fun (r : Nat × Flags) x => ((q.extreme f big nan r.1 x).1, r.2 ||| (q.extreme f big nan r.1 x).2))
    (q.extreme f big nan c c)

theorem extremeOf_snoc (q : FireIn) (f : Fmt) (big nan : Bool) (c x : Nat) (rest : List Nat) :
    extremeOf q f big nan c (rest ++ [x]) =
      ((q.extreme f big nan (extremeOf q f big nan c rest).1 x).1,
        (extremeOf q f big nan c rest).2 ||| (q.extreme f big nan (extremeOf q f big nan c rest).1 x).2) := by
  rw [extremeOf, List.foldl_append]
  rfl

/-- The firing of `rmax` and `rmin` sends the fold of its lanes. -/
theorem reduceExtreme_of {q : FireIn} {c : Nat} {rest : List Nat} (big : Bool)
    (h : ((List.range (vecLanes q.fmt.width)).map fun k => q.a.cell q.fmt.width k) = c :: rest) :
    (reduceExtreme q big).outs = [q.scalarTok q.fmt (extremeOf q q.fmt big (q.w.mod == 1) c rest).1] ∧
      (reduceExtreme q big).flags = (extremeOf q q.fmt big (q.w.mod == 1) c rest).2 := by
  unfold reduceExtreme
  dsimp only
  rw [h]
  exact ⟨rfl, rfl⟩

theorem vecLanes_pos (f : Fmt) : 0 < 1024 / f.width := by cases f <;> decide

/-- The lanes of a vector are not empty. -/
theorem lanes_cons (f : Fmt) (g : Nat → Nat) : ((List.range (1024 / f.width)).map g) = g 0 :: ((List.range (1024 / f.width)).map g).tail := by
  have h := vecLanes_pos f
  generalize 1024 / f.width = n at h ⊢
  cases n with
  | zero => omega
  | succ n => rw [List.range_succ_eq_map]; rfl

/-! ### Floating-point lanes -/

section
variable {f : Fmt} (hf : f.isFloat = true) (q : FireIn) (big nan : Bool)
include hf

theorem extreme_float (a b : Nat) : q.extreme f big nan a b =
    (reencode f.lay q.sat q.ftz (extremeF big nan (decodeF f.lay q.ftz a) (decodeF f.lay q.ftz b)),
      sigFlags [decodeF f.lay q.ftz a, decodeF f.lay q.ftz b]) := if_pos hf

/-- The fold of float lanes is their extreme, with INVALID for every signalling NaN among them. -/
theorem extremeOf_float (c : Nat) (rest : List Nat) :
    IsExtreme f.lay q.ftz q.sat big nan (c :: rest) (extremeOf q f big nan c rest).1 ∧
      (extremeOf q f big nan c rest).2 = sigFlags ((c :: rest).map (decodeF f.lay q.ftz)) := by
  have hl := Fmt.lay_computes hf
  induction rest using List.reverseRecOn with
  | nil =>
    have h0 : extremeOf q f big nan c [] = _ := extreme_float hf q big nan c c
    rw [h0]
    exact ⟨.single q.ftz q.sat big nan c, by simp [sigFlags]⟩
  | append_singleton rest x ih =>
    obtain ⟨hx, hfl⟩ := ih
    have hsig : (decodeF f.lay q.ftz (extremeOf q f big nan c rest).1).isSig = false := by
      obtain ⟨hnan, hnum⟩ := hx.read hl q.ftz q.sat big nan
      by_cases hD : NanDecides nan ((c :: rest).map (decodeF f.lay q.ftz))
      · obtain ⟨n, -, hq⟩ := hnan hD
        rw [hq]; rfl
      · exact isSig_of_not_nan (hnum hD)
    rw [extremeOf_snoc, extreme_float hf]
    refine ⟨hx.snoc hl q.ftz q.sat big nan x, ?_⟩
    rw [hfl, ← List.cons_append, List.map_append, sigFlags_append]
    simp [sigFlags, hsig]

end

/-- A number of the lanes that no other number passes is the extreme, where no NaN decides. -/
theorem IsExtreme.of_number {l : FLay} (hl : l.Computes) {ftz sat big nan : Bool} {cs : List Nat} {q c : Nat}
    (h : IsExtreme l ftz sat big nan cs q) (hc : c ∈ cs) (hn : (decodeF l ftz c).isNan = false)
    (hN : nan = false ∨ ∀ d ∈ cs, (decodeF l ftz d).isNan = false)
    (hmax : ∀ d ∈ cs, (decodeF l ftz d).isNan = true ∨
      if big then ¬(decodeF l ftz c).below (decodeF l ftz d) else ¬(decodeF l ftz d).below (decodeF l ftz c)) :
    q = reencode l sat ftz (decodeF l ftz c) := by
  have hD : ¬NanDecides nan (cs.map (decodeF l ftz)) := by
    unfold NanDecides
    rcases hN with rfl | hN
    · simpa using ⟨c, hc, hn⟩
    · cases nan
      · simpa using ⟨c, hc, hn⟩
      · simpa using hN
  obtain ⟨d, hd, hdn, rfl, htop⟩ := h.ofNumber hD
  have hch := heldBy_of_number hl ftz hn
  have hdh := heldBy_of_number hl ftz hdn
  refine reencode_of_rank hl ftz sat hdh hch ?_
  have h1 := htop c hc hn
  have h2 := (hmax d hd).resolve_left (by simp [hdn])
  cases big
  · have h3 := (below_rank hl ftz sat hdh hch).2 h2
    simp only [FVal.toward] at h1
    simp at h1
    omega
  · have h3 := (below_rank hl ftz sat hch hdh).2 h2
    simp only [FVal.toward] at h1
    simp at h1
    omega

/-- The first NaN of the lanes is the extreme, where it decides. -/
theorem IsExtreme.of_nan {l : FLay} {ftz sat big nan : Bool} {cs : List Nat} {q j : Nat} (h : IsExtreme l ftz sat big nan cs q)
    (hj : j < cs.length) (hn : (decodeF l ftz cs[j]).isNan = true) (hfirst : ∀ k (_ : k < cs.length), k < j → (decodeF l ftz cs[k]).isNan = false)
    (hN : nan = true ∨ ∀ d ∈ cs, (decodeF l ftz d).isNan = true) : q = reencode l sat ftz (decodeF l ftz cs[j]) := by
  have hD : NanDecides nan (cs.map (decodeF l ftz)) := by
    unfold NanDecides
    rcases hN with rfl | hN
    · simpa using ⟨cs[j], List.getElem_mem hj, hn⟩
    · cases nan
      · simpa using hN
      · simpa using ⟨cs[j], List.getElem_mem hj, hn⟩
  obtain ⟨x, hx, rfl⟩ := h.ofNan hD
  have hfind : (cs.map (decodeF l ftz)).find? FVal.isNan = some (decodeF l ftz cs[j]) := by
    rw [List.find?_eq_some_iff_getElem]
    exact ⟨hn, j, by simpa using hj, by simp, fun k hk => by simpa using hfirst k (by omega) hk⟩
  rw [firstNan_eq, hfind] at hx
  cases hx
  cases hv : decodeF l ftz cs[j] with
  | nan n s => rfl
  | inf n => rw [hv] at hn; cases hn
  | fin n a b => rw [hv] at hn; cases hn

/-! ### Integer lanes -/

theorem width_pos (f : Fmt) : 1 ≤ f.width := by cases f <;> decide

theorem two_pow_width (f : Fmt) : 2 ^ f.width = 2 * 2 ^ (f.width - 1) := by
  rw [← Nat.pow_succ']
  congr 1
  have := width_pos f
  omega

theorem intVal_bounds (f : Fmt) (c : Nat) : intMin f ≤ intVal f c ∧ intVal f c ≤ intMax f := by
  have hw := two_pow_width f
  have hlt : c % 2 ^ f.width < 2 ^ f.width := Nat.mod_lt _ (Nat.two_pow_pos _)
  unfold intVal intMin intMax sval
  split
  · split <;> omega
  · omega

theorem uval_cast (w : Nat) (x : Int) : ((uval w x : Nat) : Int) = x % (2 ^ w : Nat) :=
  Int.toNat_of_nonneg (Int.emod_nonneg _ (by exact_mod_cast (Nat.two_pow_pos w).ne'))

/-- A value within a format's range keeps its value in its code. -/
theorem intVal_uval {f : Fmt} {x : Int} (h : intMin f ≤ x) (h' : x ≤ intMax f) : intVal f (uval f.width x) = x := by
  have hw := two_pow_width f
  have hp : 0 < 2 ^ (f.width - 1) := Nat.two_pow_pos _
  have hu := uval_cast f.width x
  have hlt : uval f.width x < 2 ^ f.width := by
    have := Int.emod_lt_of_pos x (by exact_mod_cast Nat.two_pow_pos f.width : (0 : Int) < (2 ^ f.width : Nat))
    omega
  unfold intVal sval
  rw [Nat.mod_eq_of_lt hlt]
  generalize uval f.width x = u at hu hlt ⊢
  unfold intMin at h
  unfold intMax at h'
  generalize 2 ^ f.width = W at hw hu hlt h' ⊢
  by_cases hs : f.isSigned = true <;> simp only [hs, if_true, if_false, Bool.false_eq_true] at h h' ⊢
  · by_cases hx : 0 ≤ x
    · rw [Int.emod_eq_of_lt hx (by omega)] at hu
      rw [if_pos (by omega)]; omega
    · rw [← Int.add_emod_right, Int.emod_eq_of_lt (by omega) (by omega)] at hu
      rw [if_neg (by omega)]; omega
  · rw [Int.emod_eq_of_lt h (by omega)] at hu
    omega

/-- The fold of integer lanes is the code of a lane that no other passes, and no flag is raised. -/
theorem extremeOf_int {f : Fmt} (hf : ¬f.isFloat = true) (q : FireIn) (big nan : Bool) (c : Nat) (rest : List Nat) :
    ∃ d ∈ c :: rest, extremeOf q f big nan c rest = (uval f.width (intVal f d), fNone) ∧
      ∀ e ∈ c :: rest, if big then intVal f e ≤ intVal f d else intVal f d ≤ intVal f e := by
  have hstep (a b : Nat) : q.extreme f big nan a b =
      (uval f.width (if big then max (intVal f a) (intVal f b) else min (intVal f a) (intVal f b)), fNone) := if_neg hf
  induction rest using List.reverseRecOn with
  | nil =>
    refine ⟨c, List.mem_singleton_self c, (hstep c c).trans ?_, fun e he => ?_⟩
    · cases big <;> simp
    · rw [List.mem_singleton.1 he]; cases big <;> simp
  | append_singleton rest x ih =>
    obtain ⟨d, hd, hr, htop⟩ := ih
    have hback : intVal f (uval f.width (intVal f d)) = intVal f d := intVal_uval (intVal_bounds f d).1 (intVal_bounds f d).2
    rw [extremeOf_snoc, hr, hstep, hback, ← List.cons_append]
    have pick : ∃ z, (z = d ∨ z = x) ∧ (if big then max (intVal f d) (intVal f x) else min (intVal f d) (intVal f x)) = intVal f z := by
      cases big
      · rcases le_total (intVal f d) (intVal f x) with h | h
        · exact ⟨d, .inl rfl, min_eq_left h⟩
        · exact ⟨x, .inr rfl, min_eq_right h⟩
      · rcases le_total (intVal f d) (intVal f x) with h | h
        · exact ⟨x, .inr rfl, max_eq_right h⟩
        · exact ⟨d, .inl rfl, max_eq_left h⟩
    obtain ⟨z, hz, hpick⟩ := pick
    refine ⟨z, ?_, by rw [hpick]; exact Prod.ext rfl (BitVec.or_self), fun e he => ?_⟩
    · rcases hz with rfl | rfl
      · exact List.mem_append_left _ hd
      · simp
    · rw [← hpick]
      clear hpick
      have hex : (if big then intVal f e ≤ intVal f d else intVal f d ≤ intVal f e) ∨ e = x := by
        rcases List.mem_append.1 he with he | he
        · exact .inl (htop e he)
        · exact .inr (List.mem_singleton.1 he)
      rcases hex with h | rfl <;> cases big
      · exact (min_le_left _ _).trans h
      · exact h.trans (le_max_left _ _)
      · exact min_le_right _ _
      · exact le_max_right _ _

/-! ### `rmax` and `rmin` as firings -/

section
variable {i : Instr} {s : State} {f : Focus} {w : OpWord} {opc : Nat} {big : Bool} (h : Chosen s f)
  (he : exec i s = .next (fireGo s w opc fun i => reduceExtreme i big)) (ho : opc ≠ 2 ∧ opc ≠ 3)
include h he ho

/-- The lanes of a, of which there is at least one, and the fold over them. -/
theorem sendsScalar_extreme : ∃ c rest,
    (List.range (1024 / (recFmt (recAt s f w)).width)).map (opdLane s f w (recFmt (recAt s f w)).width 0) = c :: rest ∧
    ∀ v, extremeOf (gather s f w opc) (recFmt (recAt s f w)) big (w.mod == 1) c rest = v →
      SendsScalar i s f w (recFmt (recAt s f w)) v := by
  have hcons := lanes_cons (recFmt (recAt s f w)) (opdLane s f w (recFmt (recAt s f w)).width 0)
  refine ⟨_, _, hcons, fun v hv => ?_⟩
  have hcs : ((List.range (vecLanes (gather s f w opc).fmt.width)).map fun k =>
      (gather s f w opc).a.cell (gather s f w opc).fmt.width k) =
      opdLane s f w (recFmt (recAt s f w)).width 0 0 ::
        ((List.range (1024 / (recFmt (recAt s f w)).width)).map (opdLane s f w (recFmt (recAt s f w)).width 0)).tail := by
    rw [gather_a s f w ho]; exact hcons
  have hout := reduceExtreme_of big hcs
  exact sendsScalar_go h he ho hout.1 hout.2 rfl hv

/-- An integer reduction sends the greatest lane, or the least. -/
theorem sendsScalar_extreme_int (hf : (recFmt (recAt s f w)).isFloat = false) (m : Int)
    (hm : let L := 1024 / (recFmt (recAt s f w)).width
      let x (k : Nat) : Int := intVal (recFmt (recAt s f w)) (opdLane s f w (recFmt (recAt s f w)).width 0 k)
      (∀ k < L, if big then x k ≤ m else m ≤ x k) ∧ ∃ k < L, x k = m) :
    SendsScalar i s f w (recFmt (recAt s f w)) (uval (recFmt (recAt s f w)).width m, fNone) := by
  obtain ⟨c, rest, hlanes, hsend⟩ := sendsScalar_extreme h he ho
  obtain ⟨d, hd, hr, htop⟩ := extremeOf_int (ne_true_of_eq_false hf) (gather s f w opc) big (w.mod == 1) c rest
  obtain ⟨hle, j, hj, rfl⟩ := hm
  have hjm : opdLane s f w (recFmt (recAt s f w)).width 0 j ∈ c :: rest := by
    rw [← hlanes]; exact List.mem_map_of_mem (List.mem_range.2 hj)
  rw [← hlanes] at hd
  obtain ⟨k, hk, rfl⟩ := List.mem_map.1 hd
  have h1 := hle k (List.mem_range.1 hk)
  have h2 := htop _ hjm
  refine hsend _ (hr.trans (congrArg (fun v => (uval (recFmt (recAt s f w)).width v, fNone)) ?_))
  cases big
  · exact le_antisymm h2 h1
  · exact le_antisymm h1 h2

section
variable (hf : (recFmt (recAt s f w)).isFloat = true) {j : Nat} (hj : j < 1024 / (recFmt (recAt s f w)).width)
include hf hj

/-- A floating-point reduction sends a number that no other lane passes, where no NaN decides. -/
theorem sendsScalar_extreme_number
    (hn : let v (k : Nat) : FVal := decodeF (recFmt (recAt s f w)).lay (recFtz (recAt s f w)) (opdLane s f w (recFmt (recAt s f w)).width 0 k)
      let L := 1024 / (recFmt (recAt s f w)).width
      (v j).isNan = false ∧ (w.mod ≠ 1 ∨ ∀ k < L, (v k).isNan = false) ∧
        ∀ k < L, (v k).isNan = true ∨ if big then ¬(v j).below (v k) else ¬(v k).below (v j)) :
    let v (k : Nat) : FVal := decodeF (recFmt (recAt s f w)).lay (recFtz (recAt s f w)) (opdLane s f w (recFmt (recAt s f w)).width 0 k)
    SendsScalar i s f w (recFmt (recAt s f w))
      ((roundFp (recFmt (recAt s f w)).lay .rne w.sat (recFtz (recAt s f w)) 0 (v j)).1,
        sigFlags ((List.range (1024 / (recFmt (recAt s f w)).width)).map v)) := by
  intro v
  obtain ⟨c, rest, hlanes, hsend⟩ := sendsScalar_extreme h he ho
  obtain ⟨hx, hfl⟩ := extremeOf_float hf (gather s f w opc) big (w.mod == 1) c rest
  obtain ⟨hj', hN, hmax⟩ := hn
  have hmem (d : Nat) (hd : d ∈ c :: rest) : ∃ k < 1024 / (recFmt (recAt s f w)).width,
      opdLane s f w (recFmt (recAt s f w)).width 0 k = d := by
    rw [← hlanes] at hd
    obtain ⟨k, hk, rfl⟩ := List.mem_map.1 hd
    exact ⟨k, List.mem_range.1 hk, rfl⟩
  refine hsend _ (Prod.ext (hx.of_number (Fmt.lay_computes hf) ?_ hj' ?_ fun d hd => ?_) ?_)
  · rw [← hlanes]; exact List.mem_map_of_mem (List.mem_range.2 hj)
  · refine hN.imp (fun hm => by simpa using hm) fun hN d hd => ?_
    obtain ⟨k, hk, rfl⟩ := hmem d hd
    exact hN k hk
  · obtain ⟨k, hk, rfl⟩ := hmem d hd
    exact hmax k hk
  · rw [hfl, ← hlanes, List.map_map]; rfl

/-- A floating-point reduction sends the first NaN, where one decides. -/
theorem sendsScalar_extreme_nan
    (hn : let v (k : Nat) : FVal := decodeF (recFmt (recAt s f w)).lay (recFtz (recAt s f w)) (opdLane s f w (recFmt (recAt s f w)).width 0 k)
      (v j).isNan = true ∧ (∀ k < j, (v k).isNan = false) ∧ (w.mod = 1 ∨ ∀ k < 1024 / (recFmt (recAt s f w)).width, (v k).isNan = true)) :
    let v (k : Nat) : FVal := decodeF (recFmt (recAt s f w)).lay (recFtz (recAt s f w)) (opdLane s f w (recFmt (recAt s f w)).width 0 k)
    SendsScalar i s f w (recFmt (recAt s f w))
      ((roundFp (recFmt (recAt s f w)).lay .rne w.sat (recFtz (recAt s f w)) 0 (v j)).1,
        sigFlags ((List.range (1024 / (recFmt (recAt s f w)).width)).map v)) := by
  intro v
  obtain ⟨c, rest, hlanes, hsend⟩ := sendsScalar_extreme h he ho
  obtain ⟨hx, hfl⟩ := extremeOf_float hf (gather s f w opc) big (w.mod == 1) c rest
  have hftz : (gather s f w opc).ftz = recFtz (recAt s f w) := rfl
  rw [← hlanes] at hx hfl
  rw [hftz] at hx
  obtain ⟨hj', hfirst, hN⟩ := hn
  refine hsend _ (Prod.ext ?_ (by rw [hfl, List.map_map]; rfl))
  refine (hx.of_nan (j := j) (by simpa using hj) (by simpa using hj') (fun k _ hk => by simpa using hfirst k hk) ?_).trans (by simp; rfl)
  refine hN.imp (fun hm => by simpa using hm) fun hN d hd => ?_
  obtain ⟨k, hk, rfl⟩ := List.mem_map.1 hd
  exact hN k (List.mem_range.1 hk)

end
end

end Sys2Proof.Machine
end

section
/-! SUPPORT. The reductions (spec/05: R134, R142 to R144). -/

namespace Sys2Proof.Machine

theorem foldl_add_int (l : List Int) (a : Int) : l.foldl (· + ·) a = l.sum + a := by
  induction l generalizing a with
  | nil => simp
  | cons x xs ih => rw [List.foldl_cons, ih, List.sum_cons]; omega

theorem rsumFmt_eq (f : Fmt) (wide : Bool) :
    rsumFmt f wide = if wide then if f.isFloat then .fp32 else if f.width ≤ 16 then .int32 else .int64 else f := by
  unfold rsumFmt
  cases wide <;> cases f.isFloat <;> rfl

/-- The lane of `rsum.m` for the valid positions vs among the positions ps (R144). -/
def maskedLane (q : FireIn) (ps vs : List Nat) (k : Nat) : Nat × Flags :=
  if vs = [] then (0, fNone)
  else
    let xs := vs.map fun p => q.val q.fmt ((q.opd p).cell q.fmt.width k)
    let x := sumF q.mode xs
    q.roundLane q.fmt k xs (rescaleF (q.w.imm10 % 4) ps.length vs.length x.1, x.2)

/-- A masked sum reads its operands where the statement reads them. -/
theorem maskedLane_gather (s : State) (f : Focus) (w : OpWord) {ps vs : List Nat} (hlt : ∀ p ∈ vs, p < 3) (k : Nat) :
    let e := (getElem s f.loc).ahead
    let r := recAt s f w
    let opd (p : Nat) := operandAt (getRegion s (rgnOf f.loc)) e w f.slot f.tag p
    let xs := vs.map fun p => decodeF (recFmt r).lay (recFtz r) ((opd p).cell (recFmt r).width k)
    let x := sumF ((effMode w.mod.toNat (recRnd r)).getD .rne) xs
    let z := roundFp (recFmt r).lay ((effMode w.mod.toNat (recRnd r)).getD .rne) w.sat (recFtz r)
      (srBits (nth e.consts f.slot 0) (outTag w f.tag) k) (rescaleF (w.imm10 % 4) ps.length vs.length x.1)
    maskedLane (gather s f w 0x4B) ps vs k = if vs = [] then (0, fNone) else (z.1, z.2 ||| x.2 ||| sigFlags xs) := by
  intro e r opd xs x z
  have hxs : (vs.map fun p => (gather s f w 0x4B).val (gather s f w 0x4B).fmt
      (((gather s f w 0x4B).opd p).cell (gather s f w 0x4B).fmt.width k)) = xs :=
    List.map_congr_left fun p hp => by rw [gather_opds s f w (by decide) (hlt p hp)]; rfl
  unfold maskedLane
  rw [hxs]
  rfl

theorem maskedHdr (f : Fmt) (t : Nat) (vs : List Nat) :
    vectorHdr f t (b2n (vs ≠ [])) = { tag := t, fmt := f.code, pkind := 2, vmask := if vs = [] then 0 else 1 } := by
  unfold vectorHdr
  by_cases h : vs = [] <;> simp [h, b2n]

/-- `rsum.m` adds the valid operands lane by lane (R144). -/
theorem sends_masked {s : State} {f : Focus} {w : OpWord} (h : Chosen s f) {vs : List Nat} {L : Nat} {v : Nat → Nat × Flags}
    (hvs : (([0, 1, 2].filter fun p => w.src p != 31).filter fun p => bit ((gather s f w 0x4B).opd p).mask 0) = vs)
    (hL : vecLanes (recFmt (recAt s f w)).width = L)
    (hv : ∀ k, maskedLane (gather s f w 0x4B) ([0, 1, 2].filter fun p => w.src p != 31) vs k = v k) :
    SendsFlagged (.opRsumM w) s f w { tag := outTag w f.tag, fmt := (recFmt (recAt s f w)).code, pkind := 2, vmask := if vs = [] then 0 else 1 }
      (recFmt (recAt s f w)).width L (fun k => (v k).1) fun k => (v k).2 := by
  subst hvs hL
  refine sendsFlagged_view _ h rfl ?_ rfl (List.map_congr_left fun k _ => hv k)
  rw [List.map_singleton, emit_view]
  exact congrArg (fun hd : Hdr => [(w.dest.toNat, _, hd.plain)]) (maskedHdr _ _ _)

section
variable {s : State} {f : Focus} {w : OpWord} (h : Chosen s f)
include h

/-- `rsum` of integers: the exact sum, wrapped or clamped once (R142). -/
theorem sends_rsum_int (hf : (recFmt (recAt s f w)).isFloat = false) :
    let o : Fmt := if bit w.imm10 0 then if (recFmt (recAt s f w)).width ≤ 16 then .int32 else .int64 else recFmt (recAt s f w)
    SendsScalar (.opRsum w) s f w o (intResult o w.sat
      ((List.range (1024 / (recFmt (recAt s f w)).width)).map fun k =>
        intVal (recFmt (recAt s f w)) (opdLane s f w (recFmt (recAt s f w)).width 0 k)).sum) := by
  intro o
  have ho : rsumFmt (recFmt (recAt s f w)) (bit w.imm10 0) = o := (rsumFmt_eq _ _).trans (by rw [hf]; rfl)
  refine sendsScalar_go h rfl (by decide) rfl rfl ho ((if_neg (ne_true_of_eq_false hf)).trans ?_)
  rw [gather_a s f w (by decide), foldl_add_int, Int.add_zero, List.map_map]
  exact congrArg (fun o => intResult o w.sat _) ho

/-- `dot` of integers: the exact sum of the products and of c (R134). -/
theorem sends_dot_int (hf : (recFmt (recAt s f w)).isFloat = false) :
    let o : Fmt := if (recFmt (recAt s f w)).width ≤ 16 then .int32 else .int64
    SendsScalar (.opDot w) s f w o (intResult o w.sat
      (((List.range (1024 / (recFmt (recAt s f w)).width)).map fun k =>
        intVal (recFmt (recAt s f w)) (opdLane s f w (recFmt (recAt s f w)).width 0 k) *
          intVal (recFmt (recAt s f w)) (opdLane s f w (recFmt (recAt s f w)).width 1 k)).sum +
        if w.src 2 = 31 then 0 else intVal o (opdLane s f w o.width 2 0))) := by
  intro o
  have ho : dotFmt (recFmt (recAt s f w)) = o := if_neg (ne_true_of_eq_false hf)
  refine sendsScalar_go h rfl (by decide) rfl rfl ho ((if_neg (ne_true_of_eq_false hf)).trans ?_)
  rw [gather_a s f w (by decide), gather_b s f w (by decide), gather_c s f w (by decide)]
  dsimp only
  rw [foldl_add_int, ite_not]
  exact congrArg (fun o : Fmt => intResult o w.sat (_ + if w.src 2 = 31 then 0 else intVal o (opdLane s f w o.width 2 0))) ho

/-- One rounding of an exact value, with the flags of its operation and of the operands read. -/
def onceRounded (s : State) (f : Focus) (w : OpWord) (o : Fmt) (v : FVal × Flags) (xs : List FVal) : Nat × Flags :=
  let z := roundFp o.lay ((effMode w.mod.toNat (recRnd (recAt s f w))).getD .rne) w.sat (recFtz (recAt s f w))
    (srBits (nth (getElem s f.loc).ahead.consts f.slot 0) (outTag w f.tag) 0) v.1
  (z.1, z.2 ||| v.2 ||| sigFlags xs)

/-- The number in a lane of an operand. -/
def numLane (s : State) (f : Focus) (w : OpWord) (o : Fmt) (p k : Nat) : FVal :=
  decodeF o.lay (recFtz (recAt s f w)) (opdLane s f w o.width p k)

/-- `rsum` of numbers: the exact sum, rounded once (R142). -/
theorem sends_rsum_float (hf : (recFmt (recAt s f w)).isFloat = true) :
    let o : Fmt := if bit w.imm10 0 then .fp32 else recFmt (recAt s f w)
    let xs := (List.range (1024 / (recFmt (recAt s f w)).width)).map (numLane s f w (recFmt (recAt s f w)) 0)
    SendsScalar (.opRsum w) s f w o
      (onceRounded s f w o (sumF ((effMode w.mod.toNat (recRnd (recAt s f w))).getD .rne) xs) xs) := by
  intro o xs
  have ho : rsumFmt (recFmt (recAt s f w)) (bit w.imm10 0) = o := (rsumFmt_eq _ _).trans (by rw [hf]; rfl)
  refine sendsScalar_go h rfl (by decide) rfl rfl ho ((if_pos hf).trans ?_)
  rw [gather_a s f w (by decide), List.map_map]
  exact congrArg (fun o => onceRounded s f w o (sumF ((effMode w.mod.toNat (recRnd (recAt s f w))).getD .rne) xs) xs) ho

/-- `dot` of numbers: the exact sum of the products and of c, rounded once (R134). -/
theorem sends_dot_float (hf : (recFmt (recAt s f w)).isFloat = true) :
    let L := 1024 / (recFmt (recAt s f w)).width
    let v := numLane s f w (recFmt (recAt s f w))
    let more := if w.src 2 = 31 then [] else [numLane s f w .fp32 2 0]
    SendsScalar (.opDot w) s f w .fp32
      (onceRounded s f w .fp32 (dotF ((effMode w.mod.toNat (recRnd (recAt s f w))).getD .rne)
        ((List.range L).map fun k => (v 0 k, v 1 k)) more) ((List.range L).map (v 0) ++ (List.range L).map (v 1) ++ more)) := by
  intro L v more
  refine sendsScalar_go h rfl (by decide) rfl rfl (if_pos hf) ((if_pos hf).trans ?_)
  rw [gather_a s f w (by decide), gather_b s f w (by decide), gather_c s f w (by decide)]
  dsimp only
  rw [ite_not, List.map_map, List.map_map]
  exact congrArg (fun o : Fmt =>
    let more := if w.src 2 = 31 then [] else [numLane s f w o 2 0]
    onceRounded s f w o (dotF ((effMode w.mod.toNat (recRnd (recAt s f w))).getD .rne)
        ((List.range L).map fun k => (v 0 k, v 1 k)) more) ((List.range L).map (v 0) ++ (List.range L).map (v 1) ++ more)) (if_pos hf)

end

/-- Settles O33, reduction by reduction. -/
theorem reductions : Obligations.Reductions := by
  intro s f w h e g r fm wd L opd mask T mode val round fit hd gives once x
  refine ⟨?int, ?float, ?masked⟩
  case int =>
    intro hf _ wide o
    have hfit (o : Fmt) (v : Int) : intResult o w.sat v = fit o v := intResult_eq o w.sat v
    refine ⟨?rsum, ?dot, fun m hle hm => sendsScalar_extreme_int h rfl (by decide) (big := true) hf m ⟨hle, hm⟩,
      fun m hle hm => sendsScalar_extreme_int h rfl (by decide) (big := false) hf m ⟨hle, hm⟩⟩
    case rsum => rw [← hfit]; exact sends_rsum_int h hf
    case dot => rw [← hfit]; exact sends_dot_int h hf
  case float =>
    intro hf o v lanes more
    refine ⟨sends_rsum_float h hf, sends_dot_float h hf, ?number, ?nan⟩
    case number =>
      intro j hj hn hN is
      exact ⟨fun hmax => sendsScalar_extreme_number h rfl (by decide) (big := true) hf hj ⟨hn, hN, hmax⟩,
        fun hmin => sendsScalar_extreme_number h rfl (by decide) (big := false) hf hj ⟨hn, hN, hmin⟩⟩
    case nan =>
      intro j hj hn hfirst hN is
      exact ⟨sendsScalar_extreme_nan h rfl (by decide) (big := true) hf hj ⟨hn, hfirst, hN⟩,
        sendsScalar_extreme_nan h rfl (by decide) (big := false) hf hj ⟨hn, hfirst, hN⟩⟩
  case masked =>
    intro ps vs lane_
    have hlt : ∀ p ∈ ps, p < 3 := fun p hp => by simp [ps] at hp; omega
    have hvs : (ps.filter fun p => bit ((gather s f w 0x4B).opd p).mask 0) = vs :=
      List.filter_congr fun p hp => by rw [gather_opds s f w (by decide) (hlt p hp)]
    exact sends_masked h hvs rfl (maskedLane_gather s f w fun p hp => hlt p (List.mem_of_mem_filter hp))

end Sys2Proof.Machine
end

section
/-! SUPPORT. Refutation of O34: a function's token has STAT 0, whatever the STAT of its operand. -/

namespace Sys2Proof.Machine

/-- The candidate of slot 0 of element 0 of region 0 of partition 0, under tag 0. -/
def loneFocus : Focus := { loc := ⟨0, 0, 0⟩, slot := 0, tag := 0, mode := .data }

/-- The machine whose one region runs one element, with that candidate chosen. -/
def loneState (e : Elem) : State := { setRegion State.reset ⟨0, 0⟩ { st := 2, elems := [e] } with focus := some loneFocus }

theorem getRegion_loneState (e : Elem) : getRegion (loneState e) (rgnOf loneFocus.loc) = { st := 2, elems := [e] } := by
  rfl

theorem chosen_loneState (e : Elem) : Chosen (loneState e) loneFocus where
  focus := rfl
  mode := rfl
  part := by decide
  elem := by rw [getRegion_loneState]; exact Nat.zero_lt_one

/-- A matched set of slot 0 with an FP32 scalar in a whose header has STAT 4; DEST entry 0 is channel 10. -/
def statElem : Elem :=
  { cfg := { dest := [[10]], fmts := [0] },
    sets := [{ slot := 0, tag := 0, a := some { tok := { hdr := { vmask := 1, stat := 4 } } } }] }

/-- The word 0: a scalar form with a in the matched set. -/
def statWord : OpWord := opFields 0

/-- `exp` sends the operand's header with STAT 0, whatever it was. -/
theorem exp_sends_stat_zero {s : State} {f : Focus} {w : OpWord} (h : Chosen s f) :
    Issues (.opExp w) s f fun _ F => ∀ x ∈ F.sent, x.2.2.stat = 0 :=
  issues_go h rfl fun t F hF x hx => by
    have hsent := hF.sent_one w.dest.toNat _ _ (congrArg (· :: []) (emit_view (gather s f w 0x80) _ _ _ _))
    rw [hsent] at hx
    obtain ⟨ch, -, rfl⟩ := List.mem_map.1 hx
    rfl

/-- Refutes O34: the firing sends KIND 0 and STAT 0 and not a's own, which the header of the statement keeps. In the state above
the operand has STAT 4 (NOMATCH), as the old value that `acas` returns can have; the statement asks for a token of STAT 4. -/
theorem not_functionLanes : ¬ Obligations.FunctionLanes := by
  intro h
  have hf : (recFmt (nth (getElem (loneState statElem) loneFocus.loc).ahead.cfg.fmts statWord.fmt.toNat 0)).isFloat = true := by decide +kernel
  obtain ⟨hlanes, -⟩ := (h _ _ statWord (chosen_loneState statElem) hf (.opExp statWord) 0x80 (List.mem_cons_self ..)).1
    (by decide +kernel)
  obtain ⟨t, F, ⟨p, hsent, -⟩, hzero⟩ := hlanes.same (exp_sends_stat_zero (chosen_loneState statElem))
  have hdest : destChans (getElem (loneState statElem) loneFocus.loc) statWord.dest.toNat = [10] := by decide +kernel
  have hstat : (operandAt (getRegion (loneState statElem) (rgnOf loneFocus.loc)) (getElem (loneState statElem) loneFocus.loc).ahead statWord
      loneFocus.slot loneFocus.tag 0).hdr.stat = 4 := by decide +kernel
  have hhead := hzero (10, p, _) (by rw [hsent, toEntry, hdest]; exact List.mem_singleton_self _)
  exact absurd (hstat.symm.trans hhead) (by decide)

end Sys2Proof.Machine
end

section
/-! SUPPORT. Refutation of O36: a tile may name more valid columns than it has. -/

namespace Sys2Proof.Machine

/-- An MXFP4 tile of 32 × 128 cells that names 160 valid columns in its one valid row. Cell 0 of row 1, at place 128 from row 0 on,
is 1.0, and the scale of that block, byte 4 of the plane at byte 2048, is 127. -/
def wideTok : Token :=
  { hdr := { fmt := 5, pkind := 3, vmask := 0xFFFF, trows := 32, tcols := 128, vrows := 1, vcols := 160 },
    payload := 2 * 2 ^ (4 * 128) + 127 * 2 ^ (8 * (2048 + 4)) }

/-- A matched set of slot 0 with that tile in a and in b, and an MXFP4 record. -/
def wideElem : Elem :=
  { cfg := { dest := [[10]], fmts := [0x5000] },
    sets := [{ slot := 0, tag := 0, a := some { tok := wideTok }, b := some { tok := wideTok } }] }

/-- Refutes O36: the clause of R38 on numbers, at operands whose headers name 160 valid columns of 128. The model gives the fifth
group of a row no scale byte and takes scale 0, so cell (0, 0) rounds to +0; the statement reads the byte that follows the row's
four, 127, and asks for 1.0. -/
theorem not_bankOps : ¬ Obligations.BankOps := by
  intro h
  have hrec : nth (getElem (loneState wideElem) loneFocus.loc).ahead.cfg.fmts (opFields 0).fmt.toNat 0 = 0x5000 := by decide +kernel
  have hopd (p : Nat) (hp : p < 2) : (operandAt (getRegion (loneState wideElem) (rgnOf loneFocus.loc)) (getElem (loneState wideElem) loneFocus.loc).ahead
      (opFields 0) loneFocus.slot loneFocus.tag p).tok = some wideTok := by
    interval_cases p <;> decide +kernel
  have hbank : nth (getElem (loneState wideElem) loneFocus.loc).ahead.banks ((opFields 0).imm12 / 1024 % 4) {} = ({} : Bank) := by decide +kernel
  have hsrc : (opFields 0).src 2 ≠ 9 := by decide
  obtain ⟨hprod, -⟩ := h _ _ (opFields 0) (chosen_loneState wideElem)
  simp only [hrec] at hprod
  obtain ⟨-, hmma, -⟩ := hprod wideTok wideTok (hopd 0 (by decide)) (hopd 1 (by decide)) rfl rfl
  obtain ⟨-, -, hnum⟩ := hmma rfl rfl rfl rfl
  have hcell := (hnum 0 0 (by decide) (by decide) (by decide)).1 (.inr rfl)
  rw [if_neg hsrc, hbank] at hcell
  exact absurd hcell (by decide +kernel)

end Sys2Proof.Machine
end

section
/-! SUPPORT. A candidate that meets a stopping cause (spec/02: R61; spec/19: R328). -/

namespace Sys2Proof.Machine

theorem placeStacks_modRegion (s : State) (r : Rgn) (u : Region → Region) (p place : Nat) :
    placeStacks (modRegion s r u) p place = placeStacks s p place := by
  unfold placeStacks ownsStack partDies pmapOf stackRetired
  simp

/-- A region's update that leaves its elements and its placement leaves the place of every element. -/
theorem atElem_modRegion {s : State} {l : Loc} (hp : l.part < 16) (u : Region → Region) (x : FRec)
    (he : (u (getRegion s (rgnOf l))).elems = (getRegion s (rgnOf l)).elems)
    (hl : (u (getRegion s (rgnOf l))).place = (getRegion s (rgnOf l)).place) : atElem (modRegion s (rgnOf l) u) l x = atElem s l x := by
  have hr : getRegion (modRegion s (rgnOf l) u) (rgnOf l) = u (getRegion s (rgnOf l)) := getRegion_modRegion_same hp
  have hel : getElem (modRegion s (rgnOf l) u) l = getElem s l := by unfold getElem; rw [hr, he]
  unfold atElem recPlace
  simp only [hr, hel, hl, placeStacks_modRegion]

/-- A record's bits depend on the clk and on the region's launch and pour. -/
theorem recordBits_congr {s t : State} {g h : Region} (hclk : s.clk = t.clk) (hat : g.launchClk = h.launchClk)
    (hlaunch : g.launch = h.launch) (hpour : g.pour = h.pour) (x : FRec) : recordBits s g x = recordBits t h x := by
  unfold recordBits stamp
  rw [hclk, hat, hlaunch, hpour]

theorem queueRec_length (x : Nat) (l : List Nat) : (queueRec x l).length = l.length + 1 := by
  induction l with
  | nil => rfl
  | cons y r ih =>
    unfold queueRec
    split <;> simp [ih]

theorem getRegion_postRegion (s : State) (p h : Nat) (r : Rgn) : getRegion (postRegion s p h) r = getRegion s r := rfl

/-- A record's writing leaves the region but for its queue. -/
theorem putRec_region {s : State} {r : Rgn} (hp : r.part < 16) (x : FRec) : ∃ q n,
    getRegion (putRec s r x) r = { getRegion s r with faultq := q, fltlost := n } ∧
    ((getRegion s r).faultq.length < 32 → q = queueRec (recordBits s (getRegion s r) x) (getRegion s r).faultq) := by
  unfold putRec
  dsimp only
  split
  · exact ⟨_, _, by rw [getRegion_postRegion, getRegion_setRegion_same hp], fun _ => rfl⟩
  · next hlong =>
    have hfull : ¬(getRegion s r).faultq.length < 32 := by rw [queueRec_length] at hlong; omega
    refine ⟨(queueRec (recordBits s (getRegion s r) x) (getRegion s r).faultq).take 32, (getRegion s r).fltlost + 1, ?_,
      fun h => absurd h hfull⟩
    split
    · exact getRegion_setRegion_same hp
    · rw [getRegion_postRegion, getRegion_setRegion_same hp]

/-- The region of an element that meets a stopping cause under a name that has no record yet. -/
def stopMet (s : State) (l : Loc) (x : FRec) (n : Nat) : Region :=
  let g := getRegion s (rgnOf l)
  let w := firstW0 s g (atElem s l x)
  { g with stopping := true, recorded := causeKey l (atElem s l x) n :: g.recorded, stopW0 := w.1, stopKey := w.2 }

theorem meetStop_eq (s : State) (l : Loc) (x : FRec) (n : Nat) : meetStop s l x n =
    if (getRegion s (rgnOf l)).recorded.contains (x.cause, l.elem, x.slot, x.tag, n) then modRegion s (rgnOf l) fun g => { g with stopping := true }
    else putRec (setRegion s (rgnOf l) (stopMet s l x n)) (rgnOf l) (atElem s l x) := rfl

/-- A stopping cause of an element: the region is stopping, and the record is queued unless it was written before. -/
theorem meetStop_region {s : State} {l : Loc} (hp : l.part < 16) (x : FRec) (n : Nat) :
    let g := getRegion s (rgnOf l)
    let h := getRegion (meetStop s l x n) (rgnOf l)
    h.elems = g.elems ∧ h.chans = g.chans ∧ h.stopping = true ∧ h.stopAt = g.stopAt ∧
    (g.recorded.contains (x.cause, l.elem, x.slot, x.tag, n) = false → g.faultq.length < 32 →
      h.faultq = queueRec (recordBits s g (atElem s l x)) g.faultq) := by
  intro g h
  have hr : (rgnOf l).part < 16 := hp
  have hh : h = getRegion (meetStop s l x n) (rgnOf l) := rfl
  rw [meetStop_eq] at hh
  split at hh
  · next hc =>
    rw [hh, getRegion_modRegion_same hr]
    exact ⟨rfl, rfl, rfl, rfl, fun hn => absurd hc (ne_true_of_eq_false hn)⟩
  · obtain ⟨q, m, hq, hqueue⟩ := putRec_region (s := setRegion s (rgnOf l) (stopMet s l x n)) hr (atElem s l x)
    rw [getRegion_setRegion_same hr] at hq hqueue
    rw [hh, hq]
    refine ⟨rfl, rfl, rfl, rfl, fun _ hlen => (hqueue hlen).trans ?_⟩
    exact congrArg (queueRec · g.faultq) (recordBits_congr (setRegion_clk ..) rfl rfl rfl _)

/-- A candidate whose meaning is a stopping cause stops its region. -/
theorem stops_of {i : Instr} {s : State} {f : Focus} {w : OpWord} {opc : Nat} {m : FireIn → FireRes} {c : Nat} (h : Chosen s f)
    (he : exec i s = .next (fire s w opc m)) (hm : m (gather s f w opc) = .stop { cause := c }) : Stops i s f { cause := c } := by
  have hr : (rgnOf f.loc).part < 16 := h.part
  let u (g : Region) : Region := { g with stopAt := some (g.stopAt.getD (f.loc.elem, f.slot, f.tag)) }
  have hfire : fire s w opc m =
      { meetStop (modRegion s (rgnOf f.loc) u) f.loc { cause := c, tag := f.tag, slot := f.slot } 0 with focus := none } := by
    unfold fire
    rw [h.focus]
    dsimp only
    rw [if_neg (by rw [h.mode]; decide), hm]
  refine ⟨_, he, ?_⟩
  rw [hfire]
  obtain ⟨helems, hchans, hstop, hat, hqueue⟩ := meetStop_region (s := modRegion s (rgnOf f.loc) u) h.part { cause := c, tag := f.tag, slot := f.slot } 0
  rw [getRegion_modRegion_same hr] at helems hchans hat hqueue
  rw [atElem_modRegion h.part u _ rfl rfl, recordBits_congr (modRegion_clk s _ u) rfl rfl rfl] at hqueue
  generalize meetStop (modRegion s (rgnOf f.loc) u) f.loc { cause := c, tag := f.tag, slot := f.slot } 0 = t at *
  exact ⟨helems, hchans, hstop, rfl, hat, hqueue⟩

end Sys2Proof.Machine
end

section
/-! SUPPORT. Cells of a tile row by row, lanes beside a scale plane, and the mask that a move leaves (spec/01: R22, R24;
spec/06: R161). -/

namespace Sys2Proof.Machine

/-! ### Rows of equal length -/

theorem length_flatMap_range {α : Type} {L : Nat} (n : Nat) (g : Nat → List α) (hL : ∀ y, (g y).length = L) :
    ((List.range n).flatMap g).length = n * L := by
  simp [hL]

/-- Place x of row y, in rows of one length laid end to end. -/
theorem getElem?_flatMap_range {α : Type} {n L y x : Nat} (g : Nat → List α) (hL : ∀ y, (g y).length = L) (hy : y < n) (hx : x < L) :
    ((List.range n).flatMap g)[y * L + x]? = (g y)[x]? := by
  induction n with
  | zero => omega
  | succ n ih =>
    have hlen := length_flatMap_range n g hL
    rw [List.range_succ, List.flatMap_append, List.flatMap_singleton]
    rcases Nat.lt_succ_iff_lt_or_eq.1 hy with h | rfl
    · have hin : y * L + x < n * L := calc
        y * L + x < (y + 1) * L := by rw [Nat.succ_mul]; omega
        _ ≤ n * L := Nat.mul_le_mul_right L h
      rw [List.getElem?_append_left (by omega), ih h]
    · rw [List.getElem?_append_right (by omega), hlen, Nat.add_sub_cancel_left]

theorem mem_cellsOf {rows cols : Nat} {p : Nat × Nat} : p ∈ cellsOf rows cols ↔ p.1 < rows ∧ p.2 < cols := by
  simp only [cellsOf, List.mem_flatMap, List.mem_map, List.mem_range]
  constructor
  · rintro ⟨y, hy, x, hx, rfl⟩
    exact ⟨hy, hx⟩
  · rintro ⟨hy, hx⟩
    exact ⟨p.1, hy, p.2, hx, rfl⟩

theorem cellsOf_getElem? {rows cols y x : Nat} (hy : y < rows) (hx : x < cols) : (cellsOf rows cols)[y * cols + x]? = some (y, x) := by
  rw [cellsOf, getElem?_flatMap_range _ (by simp) hy hx]
  simp [hx]

theorem lane_packLanes_of_getElem? {w k v : Nat} {l : List Nat} (h : l[k]? = some v) : lane w (packLanes w l) k = v % 2 ^ w := by
  obtain ⟨hk, rfl⟩ := List.getElem?_eq_some_iff.1 h
  exact lane_packLanes w l k hk

/-- Cell (y, x) of packed cells. -/
theorem lane_cells (w : Nat) (v : Nat × Nat → Nat) {rows cols y x : Nat} (hy : y < rows) (hx : x < cols) :
    lane w (packLanes w ((cellsOf rows cols).map v)) (y * cols + x) = v (y, x) % 2 ^ w :=
  lane_packLanes_of_getElem? (by rw [List.getElem?_map, cellsOf_getElem? hy hx]; rfl)

theorem filter_range_lt (n : Nat) : ∀ N, (List.range N).filter (fun k => decide (k < n)) = List.range (min n N)
  | 0 => by simp
  | N + 1 => by
    rw [List.range_succ, List.filter_append, filter_range_lt n N]
    by_cases h : N < n
    · rw [Nat.min_eq_right (by omega), Nat.min_eq_right (by omega), List.range_succ]
      simp [h]
    · rw [Nat.min_eq_left (by omega), Nat.min_eq_left (by omega)]
      simp [h]

/-! ### Element bytes below a scale plane -/

/-- A lane that ends below bit b does not see what lies from bit b on. -/
theorem lane_add_above {w b k : Nat} (c u : Nat) (h : (k + 1) * w ≤ b) : lane w (c + 2 ^ b * u) k = lane w c k := by
  obtain ⟨d, rfl⟩ := Nat.exists_eq_add_of_le h
  have hsplit : 2 ^ ((k + 1) * w + d) * u = 2 ^ (k * w) * (2 ^ w * (2 ^ d * u)) := by
    rw [Nat.succ_mul, Nat.pow_add, Nat.pow_add]; ring
  rw [lane, lane, Nat.shiftRight_eq_div_pow, Nat.shiftRight_eq_div_pow, hsplit, Nat.add_mul_div_left _ _ (Nat.two_pow_pos _),
    Nat.add_mul_mod_self_left]

/-- A byte from byte b on does not see what lies below bit 8b. -/
theorem byteRange_add_above {c u b : Nat} (n : Nat) (h : c < 2 ^ (8 * b)) : byteRange (c + 2 ^ (8 * b) * u) (b + n) 1 = lane 8 u n := by
  rw [byteRange, lane, Nat.mul_add, Nat.shiftRight_add, Nat.shiftRight_eq_div_pow (c + _), Nat.add_mul_div_left _ _ (Nat.two_pow_pos _),
    Nat.div_eq_of_lt h, Nat.zero_add, Nat.mul_comm 8 n]

/-! ### The mask after a move -/

theorem testBit_sub_two_pow {m k : Nat} (h : m.testBit k = true) (j : Nat) : (m - 2 ^ k).testBit j = (m.testBit j && decide (j ≠ k)) := by
  have hodd : m / 2 ^ k % 2 = 1 := by simpa [Nat.testBit_eq_decide_div_mod_eq] using h
  have hlow : m % 2 ^ k < 2 ^ k := Nat.mod_lt _ (Nat.two_pow_pos k)
  have hm : m = 2 ^ k * (2 * (m / 2 ^ k / 2) + 1) + m % 2 ^ k := by
    rw [show 2 * (m / 2 ^ k / 2) + 1 = m / 2 ^ k by omega, Nat.div_add_mod]
  generalize m / 2 ^ k / 2 = q, m % 2 ^ k = r at hm hlow
  have hsub : m - 2 ^ k = 2 ^ k * (2 * q) + r := by rw [hm, Nat.mul_succ]; omega
  rw [hsub, hm, Nat.testBit_two_pow_mul_add _ hlow, Nat.testBit_two_pow_mul_add _ hlow]
  rcases Nat.lt_trichotomy j k with hjk | rfl | hjk
  · simp [hjk, Nat.ne_of_lt hjk]
  · simp
  · obtain ⟨d, hd⟩ := Nat.exists_eq_add_of_lt hjk
    have hd' : j - k = d + 1 := by omega
    rw [if_neg (by omega), if_neg (by omega), hd', Nat.testBit_succ, Nat.testBit_succ, show 2 * q / 2 = q by omega,
      show (2 * q + 1) / 2 = q by omega, decide_eq_true (show j ≠ k by omega), Bool.and_true]

/-- One step of `moveMask`. -/
def moveStep (old m : Nat) (p : Nat × Nat) : Nat :=
  if bit old (p.2 / 256) then m else if bit m (p.1 / 256) then m - 2 ^ (p.1 / 256) else m

theorem bit_moveStep (old m : Nat) (p : Nat × Nat) (j : Nat) :
    bit (moveStep old m p) j = true ↔ bit m j = true ∧ (p.1 / 256 = j → bit old (p.2 / 256) = true) := by
  unfold moveStep bit
  by_cases ho : old.testBit (p.2 / 256) = true
  · simp [ho]
  · by_cases hm : m.testBit (p.1 / 256) = true
    · rw [if_neg ho, if_pos hm, testBit_sub_two_pow hm, Bool.and_eq_true, decide_eq_true_iff]
      exact and_congr_right fun _ => ⟨fun hne h => absurd h.symm hne, fun h e => ho (h e.symm)⟩
    · rw [if_neg ho, if_neg hm]
      refine ⟨fun h => ⟨h, ?_⟩, And.left⟩
      rintro rfl
      exact absurd h hm

/-- A bit stays where every byte of its block was read from blocks whose bits are set (R161). -/
theorem bit_moveMask (old : Nat) (moves : List (Nat × Nat)) {j : Nat} (hj : j < 16) :
    bit (moveMask old moves) j = true ↔ ∀ o n, (o, n) ∈ moves → o / 256 = j → bit old (n / 256) = true := by
  have hfold (m : Nat) : bit (moves.foldl (moveStep old) m) j = true ↔
      bit m j = true ∧ ∀ o n, (o, n) ∈ moves → o / 256 = j → bit old (n / 256) = true := by
    induction moves generalizing m with
    | nil => simp
    | cons p ps ih =>
      rw [List.foldl_cons, ih, bit_moveStep, and_assoc]
      simp only [List.mem_cons]
      constructor
      · rintro ⟨hm, hp, hps⟩
        refine ⟨hm, fun o n h => ?_⟩
        rcases h with rfl | h
        · exact hp
        · exact hps o n h
      · rintro ⟨hm, h⟩
        exact ⟨hm, h p.1 p.2 (.inl rfl), fun o n hin => h o n (.inr hin)⟩
  have hstart : bit 0xFFFF j = true := by
    unfold bit
    rw [show (0xFFFF : Nat) = 2 ^ 16 - 1 by decide, Nat.testBit_two_pow_sub_one]
    exact decide_eq_true hj
  exact (hfold 0xFFFF).trans (and_iff_right hstart)

end Sys2Proof.Machine
end

section
/-! SUPPORT. Firings whose result is a tile (spec/06: R160 to R162). -/

namespace Sys2Proof.Machine

/-- The candidate issues and sends a tile of rows × cols: a value in every valid cell, zeros elsewhere, with the flags of the valid
cells together. -/
def SendsTile (i : Instr) (s : State) (f : Focus) (w : OpWord) (h : Hdr) (rows cols wd : Nat) (valid : Nat → Nat → Prop)
    (cell : Nat → Nat → Nat × Flags) : Prop :=
  Issues i s f fun _ F => (∃ p, F.sent = toEntry (getElem s f.loc).ahead w.dest.toNat h p ∧
    ∀ y < rows, ∀ x < cols, (valid y x → lane wd p (y * cols + x) = (cell y x).1 % 2 ^ wd) ∧
      (¬valid y x → lane wd p (y * cols + x) = 0)) ∧
    ∀ j < 5, F.flags.getLsbD j = true ↔ ∃ y x, y < rows ∧ x < cols ∧ valid y x ∧ (cell y x).2.getLsbD j = true

/-- The cells of a tile result: those of the valid shape, and zeros without flags. -/
def tileCells (rows cols : Nat) (b : Nat → Nat → Bool) (v : Nat → Nat → Nat × Flags) : List (Nat × Flags) :=
  (cellsOf rows cols).map fun p => if b p.1 p.2 then v p.1 p.2 else (0, fNone)

theorem tileCells_flags {rows cols : Nat} {b : Nat → Nat → Bool} {v : Nat → Nat → Nat × Flags} (j : Nat) :
    (orFlags ((tileCells rows cols b v).map Prod.snd)).getLsbD j = true ↔
      ∃ y x, y < rows ∧ x < cols ∧ b y x = true ∧ (v y x).2.getLsbD j = true := by
  rw [orFlags_bit]
  simp only [tileCells, List.map_map, List.mem_map, Function.comp_apply]
  constructor
  · rintro ⟨_, ⟨p, hp, rfl⟩, hj⟩
    obtain ⟨hy, hx⟩ := mem_cellsOf.1 hp
    by_cases hb : b p.1 p.2 = true
    · exact ⟨p.1, p.2, hy, hx, hb, by simpa [hb] using hj⟩
    · simp [hb, fNone] at hj
  · rintro ⟨y, x, hy, hx, hb, hj⟩
    exact ⟨_, ⟨(y, x), mem_cellsOf.2 ⟨hy, hx⟩, rfl⟩, by simpa [hb] using hj⟩

/-- A firing whose one token packs the cells of a tile result. -/
theorem sendsTile_of {i : Instr} {s : State} {f : Focus} {w : OpWord} {opc : Nat} {m : FireIn → FireRes} {o : FireOut} {hd : Hdr}
    {rows cols wd : Nat} {valid : Nat → Nat → Prop} {cell : Nat → Nat → Nat × Flags} (b : Nat → Nat → Bool)
    (v : Nat → Nat → Nat × Flags) (h : Chosen s f) (he : exec i s = .next (fire s w opc m)) (hm : m (gather s f w opc) = .go o)
    (ho : o.outs.map plainView = [(w.dest.toNat, packLanes wd ((tileCells rows cols b v).map Prod.fst), hd.plain)])
    (hfl : o.flags = orFlags ((tileCells rows cols b v).map Prod.snd)) (hb : ∀ y x, b y x = true ↔ valid y x)
    (hv : ∀ y < rows, ∀ x < cols, valid y x → v y x = cell y x) : SendsTile i s f w hd rows cols wd valid cell := by
  refine issues_of o h he hm fun t F hF =>
    ⟨⟨packLanes wd ((tileCells rows cols b v).map Prod.fst), ?_, fun y hy x hx => ?_⟩, fun j _ => ?_⟩
  · rw [toEntry_ahead]; exact hF.sent_one _ _ _ ho
  · rw [tileCells, List.map_map, lane_cells wd _ hy hx]
    refine ⟨fun hval => ?_, fun hval => ?_⟩
    · simp [(hb y x).2 hval, hv y hy x hx hval]
    · simp [mt (hb y x).1 hval]
  · rw [hF.flags, hfl, tileCells_flags]
    refine exists_congr fun y => exists_congr fun x => and_congr_right fun hy => and_congr_right fun hx => ?_
    rw [hb]
    exact and_congr_right fun hval => by rw [hv y hy x hx hval]

theorem tile_of_tok {q : FireIn} {o : Opd} {t : Token} {fm : Fmt} (ht : o.tok = some t) (hf : Fmt.ofCode t.hdr.fmt = some fm)
    (rows cols : Nat) : q.tile o rows cols = ⟨fm, t.hdr.trows, t.hdr.tcols, t.hdr.vrows, t.hdr.vcols, t.hdr.vmask, t.payload⟩ := by
  unfold FireIn.tile
  rw [ht]
  simp only [hf, Option.getD_some]

/-! ### Two operands -/

/-- The second operand of an elementwise tile firing, in the places of a's stored shape: its cells, valid shape and mask. -/
structure SecondOperand (s : State) (f : Focus) (w : OpWord) (ta : Token) (vb : Nat → Nat) (rb cb mb : Nat) : Prop where
  tok : (operandAt (getRegion s (rgnOf f.loc)) (getElem s f.loc).ahead w f.slot f.tag 0).tok = some ta
  fmt : Fmt.ofCode ta.hdr.fmt = some (recFmt (recAt s f w))
  tile : ∀ opc, opc ≠ 2 ∧ opc ≠ 3 → ∃ b : Tile, (gather s f w opc).tile (gather s f w opc).b ta.hdr.trows ta.hdr.tcols = b ∧
    b.rows = ta.hdr.trows ∧ b.cols = ta.hdr.tcols ∧ b.vr = rb ∧ b.vc = cb ∧ b.mask = mb ∧
    ∀ y < ta.hdr.trows, ∀ x < ta.hdr.tcols, b.cell y x = vb (y * ta.hdr.tcols + x)

theorem tileShape_of_tok {q : FireIn} {t : Token} (h : q.a.tok = some t) : q.tileShape = (t.hdr.trows, t.hdr.tcols) := by
  unfold FireIn.tileShape
  rw [h]

/-- An elementwise tile firing of two tiles of one stored shape. -/
theorem tileFire_go {q : FireIn} (op : Nat → Nat → Nat → Nat × Flags) {a b : Tile} {t : Token} (ht : q.a.tok = some t)
    (ha : q.tile q.a t.hdr.trows t.hdr.tcols = a) (hb : q.tile q.b t.hdr.trows t.hdr.tcols = b) (hr : b.rows = a.rows) (hc : b.cols = a.cols) :
    let rs := tileCells a.rows a.cols (fun y x => decide (y < min a.vr b.vr) && decide (x < min a.vc b.vc))
      fun y x => op (y * a.cols + x) (a.cell y x) (b.cell y x)
    ∃ o, tileFire q op = .go o ∧ o.flags = orFlags (rs.map Prod.snd) ∧ o.outs.map plainView = [(q.dest, packLanes q.fmt.width (rs.map Prod.fst),
      (tileHdr q.fmt (outTag q.w q.tag) a.rows a.cols (min a.vr b.vr) (min a.vc b.vc) (a.mask &&& b.mask)).plain)] := by
  intro rs
  have hcond : ¬(decide (b.rows ≠ a.rows) || decide (b.cols ≠ a.cols)) = true := by simp [hr, hc]
  unfold tileFire
  rw [tileShape_of_tok ht]
  dsimp only
  rw [ha, hb, if_neg hcond]
  exact ⟨_, rfl, rfl, congrArg (· :: []) (emit_view ..)⟩

/-- An elementwise tile firing of two tiles of different stored shapes. -/
theorem tileFire_edge {q : FireIn} (op : Nat → Nat → Nat → Nat × Flags) {a b : Tile} {t : Token} (ht : q.a.tok = some t)
    (ha : q.tile q.a t.hdr.trows t.hdr.tcols = a) (hb : q.tile q.b t.hdr.trows t.hdr.tcols = b) (h : b.rows ≠ a.rows ∨ b.cols ≠ a.cols) :
    tileFire q op = .stop { cause := 0x02 } := by
  have hcond : (decide (b.rows ≠ a.rows) || decide (b.cols ≠ a.cols)) = true := by simpa using h
  unfold tileFire
  rw [tileShape_of_tok ht]
  dsimp only
  rw [ha, hb, if_pos hcond]
  rfl

/-- The result of an elementwise form i on a tile a and a second operand, whose cell is given by its key and its two codes. -/
def SendsPairs (s : State) (f : Focus) (w : OpWord) (ta : Token) (vb : Nat → Nat) (rb cb mb : Nat) (i : Instr)
    (g : Nat → Nat → Nat → Nat × Flags) : Prop :=
  let fm := recFmt (recAt s f w)
  let vr := min ta.hdr.vrows rb
  let vc := min ta.hdr.vcols cb
  SendsTile i s f w (tileHdr fm (outTag w f.tag) ta.hdr.trows ta.hdr.tcols vr vc (ta.hdr.vmask &&& mb)) ta.hdr.trows ta.hdr.tcols
    fm.width (fun y x => y < vr ∧ x < vc)
    fun y x => g (y * ta.hdr.tcols + x) (lane fm.width ta.payload (y * ta.hdr.tcols + x)) (vb (y * ta.hdr.tcols + x))

/-- What an elementwise tile firing on a tile a and a second operand sends. -/
theorem sendsPairs_of {i : Instr} {s : State} {f : Focus} {w : OpWord} {opc : Nat} {g : Nat → Nat → Nat → Nat × Flags} {ta : Token}
    {vb : Nat → Nat} {rb cb mb : Nat} {op : FireIn → Nat → Nat → Nat → Nat × Flags} (hs : SecondOperand s f w ta vb rb cb mb)
    (h : Chosen s f) (he : exec i s = .next (fire s w opc fun q => tileFire q (op q))) (ho : opc ≠ 2 ∧ opc ≠ 3)
    (hop : op (gather s f w opc) = g) :
    SendsPairs s f w ta vb rb cb mb i g := by
  subst hop
  obtain ⟨b, hb, hrows, hcols, rfl, rfl, rfl, hcell⟩ := hs.tile opc ho
  have hatok : (gather s f w opc).a.tok = some ta := by rw [gather_a s f w ho]; exact hs.tok
  obtain ⟨o, hgo, hfl, houts⟩ := tileFire_go (op (gather s f w opc)) hatok (tile_of_tok hatok hs.fmt _ _) hb hrows hcols
  refine sendsTile_of _ _ h he hgo houts hfl (fun y x => by simp) fun y hy x hx _ => ?_
  rw [hcell y hy x hx]
  rfl

end Sys2Proof.Machine
end

section
/-! SUPPORT. The second operand of an elementwise tile firing, and its five operations (spec/06: R65, R160). -/

namespace Sys2Proof.Machine

theorem fmtWidth_code (f : Fmt) : fmtWidth f.code = f.width := by cases f <;> rfl

theorem fmtIsMx_code (f : Fmt) : fmtIsMx f.code = f.isMx := by cases f <;> rfl

theorem fitBits_lt (code raw wd : Nat) : fitBits code raw wd < 2 ^ wd := by
  unfold fitBits
  split
  · next h =>
    subst h
    split
    · unfold uval
      omega
    · exact Nat.mod_lt _ (Nat.two_pow_pos _)
  · exact Nat.mod_lt _ (Nat.two_pow_pos _)

/-- Every cell of a replicated value holds its code. -/
theorem lane_fillTile {f : Fmt} (hf : f.isMx = false) {rows cols c k : Nat} (hk : k < rows * cols) :
    lane f.width (fillTile f rows cols c) k = c % 2 ^ f.width := by
  have hscale : scaleBytes f.code rows cols = 0 := by unfold scaleBytes; rw [fmtIsMx_code, hf]; rfl
  unfold fillTile
  simp only [hscale, List.replicate_zero, packLanes, Nat.mul_zero, Nat.add_zero]
  exact lane_packLanes_of_getElem? (by simp [hk])

section
variable {s : State} {f : Focus} {w : OpWord} {ta : Token}
  (hta : (operandAt (getRegion s (rgnOf f.loc)) (getElem s f.loc).ahead w f.slot f.tag 0).tok = some ta)
  (hfa : Fmt.ofCode ta.hdr.fmt = some (recFmt (recAt s f w)))
include hta hfa

/-- A second tile of the same stored shape. -/
theorem secondOperand_tile {tb : Token}
    (htb : (operandAt (getRegion s (rgnOf f.loc)) (getElem s f.loc).ahead w f.slot f.tag 1).tok = some tb)
    (hfb : Fmt.ofCode tb.hdr.fmt = some (recFmt (recAt s f w))) (hrows : ta.hdr.trows = tb.hdr.trows) (hcols : ta.hdr.tcols = tb.hdr.tcols) :
    SecondOperand s f w ta (lane (recFmt (recAt s f w)).width tb.payload) tb.hdr.vrows tb.hdr.vcols tb.hdr.vmask where
  tok := hta
  fmt := hfa
  tile opc ho := by
    rw [gather_b s f w ho, tile_of_tok htb hfb]
    exact ⟨_, rfl, hrows.symm, hcols.symm, rfl, rfl, rfl, fun y _ x _ => by rw [Tile.cell, hcols]⟩

/-- A second operand that is no tile: its value in every place, all of it valid (R65). -/
theorem secondOperand_value (htb : (operandAt (getRegion s (rgnOf f.loc)) (getElem s f.loc).ahead w f.slot f.tag 1).tok = none)
    (hmx : (recFmt (recAt s f w)).isMx = false) :
    SecondOperand s f w ta
      (fun _ => (operandAt (getRegion s (rgnOf f.loc)) (getElem s f.loc).ahead w f.slot f.tag 1).cell (recFmt (recAt s f w)).width 0) ta.hdr.trows ta.hdr.tcols 0xFFFF where
  tok := hta
  fmt := hfa
  tile opc ho := by
    have hb : (gather s f w opc).b.tok = none := by rw [gather_b s f w ho]; exact htb
    refine ⟨constTile (recFmt (recAt s f w)) ta.hdr.trows ta.hdr.tcols
      (fitBits (gather s f w opc).b.code (gather s f w opc).b.raw (recFmt (recAt s f w)).width), ?_, rfl, rfl, rfl, rfl, rfl, fun y hy x hx => ?_⟩
    · unfold FireIn.tile
      rw [hb]
      rfl
    · have hk : y * ta.hdr.tcols + x < ta.hdr.trows * ta.hdr.tcols := calc
        y * ta.hdr.tcols + x < (y + 1) * ta.hdr.tcols := by rw [Nat.succ_mul]; omega
        _ ≤ ta.hdr.trows * ta.hdr.tcols := Nat.mul_le_mul_right _ hy
      refine (lane_fillTile hmx hk).trans ((Nat.mod_eq_of_lt (fitBits_lt ..)).trans ?_)
      rw [gather_b s f w ho]
      unfold Opd.cell
      rw [htb]

end

end Sys2Proof.Machine
end

section
/-! SUPPORT. The elementwise tile operations (spec/06: R160). -/

namespace Sys2Proof.Machine

section
variable {s : State} {f : Focus} {w : OpWord} {ta : Token} {vb : Nat → Nat} {rb cb mb : Nat}

variable (hs : SecondOperand s f w ta vb rb cb mb) (h : Chosen s f)
include hs h

/-- The floating-point forms round the exact result once; the extremes are one of the two numbers (R124). -/
theorem sendsPairs_float (hf : (recFmt (recAt s f w)).isFloat = true) :
    let fm := recFmt (recAt s f w)
    let mode := (effMode w.mod.toNat (recRnd (recAt s f w))).getD .rne
    let val (c : Nat) : FVal := decodeF fm.lay (recFtz (recAt s f w)) c
    let round (k : Nat) (v : FVal × Flags) (xs : List FVal) : Nat × Flags :=
      let z := roundFp fm.lay mode w.sat (recFtz (recAt s f w)) (srBits (nth (getElem s f.loc).ahead.consts f.slot 0) (outTag w f.tag) k) v.1
      (z.1, z.2 ||| v.2 ||| sigFlags xs)
    let exact (v : FVal) (xs : List FVal) : Nat × Flags := ((roundFp fm.lay .rne w.sat (recFtz (recAt s f w)) 0 v).1, sigFlags xs)
    SendsPairs s f w ta vb rb cb mb (.opTadd w) (fun k a b => round k (sumF mode [val a, val b]) [val a, val b]) ∧
    SendsPairs s f w ta vb rb cb mb (.opTsub w) (fun k a b => round k (sumF mode [val a, negF (val b)]) [val a, val b]) ∧
    SendsPairs s f w ta vb rb cb mb (.opTmul w) (fun k a b => round k (mulF (val a) (val b)) [val a, val b]) ∧
    SendsPairs s f w ta vb rb cb mb (.opTmax w) (fun _ a b => exact (extremeF true (w.mod == 1) (val a) (val b)) [val a, val b]) ∧
    SendsPairs s f w ta vb rb cb mb (.opTmin w) (fun _ a b => exact (extremeF false (w.mod == 1) (val a) (val b)) [val a, val b]) := by
  refine ⟨?_, ?_, ?_, ?_, ?_⟩
  all_goals exact sendsPairs_of hs h rfl (by decide) (funext fun k => funext fun a => funext fun b => if_pos hf)

/-- The integer forms wrap, or clamp with SAT (R23). -/
theorem sendsPairs_int (hf : (recFmt (recAt s f w)).isFloat = false) :
    let fm := recFmt (recAt s f w)
    let fit (v : Int) : Nat × Flags := (uval fm.width (if w.sat then max (intMin fm) (min (intMax fm) v) else v),
      flagIf (w.sat && (decide (v < intMin fm) || decide (intMax fm < v))) fOverflow)
    SendsPairs s f w ta vb rb cb mb (.opTadd w) (fun _ a b => fit (intVal fm a + intVal fm b)) ∧
    SendsPairs s f w ta vb rb cb mb (.opTsub w) (fun _ a b => fit (intVal fm a - intVal fm b)) ∧
    SendsPairs s f w ta vb rb cb mb (.opTmul w) (fun _ a b => fit (intVal fm a * intVal fm b)) ∧
    SendsPairs s f w ta vb rb cb mb (.opTmax w) (fun _ a b => (uval fm.width (max (intVal fm a) (intVal fm b)), fNone)) ∧
    SendsPairs s f w ta vb rb cb mb (.opTmin w) (fun _ a b => (uval fm.width (min (intVal fm a) (intVal fm b)), fNone)) := by
  have hF := ne_true_of_eq_false hf
  refine ⟨?add, ?sub, ?mul, ?max, ?min⟩
  case max => exact sendsPairs_of hs h rfl (by decide) (funext fun k => funext fun a => funext fun b => if_neg hF)
  case min => exact sendsPairs_of hs h rfl (by decide) (funext fun k => funext fun a => funext fun b => if_neg hF)
  all_goals exact sendsPairs_of hs h rfl (by decide) (funext fun k => funext fun a => funext fun b => (if_neg hF).trans (intResult_eq ..))

end

end Sys2Proof.Machine
end

section
/-! SUPPORT. The transpose, and the conversion of a tile into a format that is not MX (spec/06: R161, R162). -/

namespace Sys2Proof.Machine

/-- The mask after a move of bytes: an output block keeps its bit where each of its bytes was read from blocks that have theirs. -/
def Moved (m : Nat) (bytes : Nat → Nat → Prop) (old : Nat) : Prop :=
  ∀ j < 16, bit m j = true ↔ ∀ o n, bytes o n → o / 256 = j → bit old (n / 256) = true

theorem moved_moveMask {moves : List (Nat × Nat)} {bytes : Nat → Nat → Prop} (old : Nat) (h : ∀ o n, (o, n) ∈ moves ↔ bytes o n) :
    Moved (moveMask old moves) bytes old := fun j hj => by
  rw [bit_moveMask old moves hj]
  simp only [h]

/-! ### The transpose -/

/-- The bytes that `ttr` moves: where each is written, and where it is read from. -/
def ttrMoves (a : Tile) : List (Nat × Nat) :=
  (cellsOf a.cols a.rows).map fun p => ((p.1 * a.rows + p.2) * a.fmt.width / 8, (p.2 * a.cols + p.1) * a.fmt.width / 8)

/-- The meaning of `ttr` on a tile. -/
def ttrFire (i : FireIn) (a : Tile) : FireRes :=
  if 32 < a.cols then formatEdge
  else
    let cs := (cellsOf a.cols a.rows).map fun p => a.cell p.2 p.1
    let h := tileHdr a.fmt (outTag i.w i.tag) a.cols a.rows a.vc a.vr (moveMask a.mask (ttrMoves a))
    .go { outs := [i.emit i.dest h (packLanes a.fmt.width cs) i.poison], lat := 35, occ := 32 }

theorem exec_ttr (w : OpWord) (s : State) : exec (.opTtr w) s = .next (fire s w 0x6B fun q => ttrFire q (q.tile q.a 32 32)) := rfl

/-- The tile of a token whose cells have a format. -/
def Token.asTile (t : Token) (src : Fmt) : Tile := ⟨src, t.hdr.trows, t.hdr.tcols, t.hdr.vrows, t.hdr.vcols, t.hdr.vmask, t.payload⟩

section
variable {s : State} {f : Focus} {w : OpWord} {t : Token} {src : Fmt} (h : Chosen s f)
  (ht : (operandAt (getRegion s (rgnOf f.loc)) (getElem s f.loc).ahead w f.slot f.tag 0).tok = some t)
  (hsrc : Fmt.ofCode t.hdr.fmt = some src)

include ht hsrc in
/-- Operand a of a firing on a tile token. -/
theorem tile_gather {opc : Nat} (ho : opc ≠ 2 ∧ opc ≠ 3) :
    (gather s f w opc).tile (gather s f w opc).a 32 32 = t.asTile src := by
  rw [gather_a s f w ho]
  exact tile_of_tok ht hsrc 32 32

include h ht hsrc

theorem stops_ttr (hc : 32 < t.hdr.tcols) : Stops (.opTtr w) s f { cause := 0x02 } :=
  stops_of h (exec_ttr w s) (by rw [tile_gather ht hsrc (by decide)]; exact if_pos hc)

/-- `ttr` moves every cell, those beyond the valid shape too. -/
theorem sends_ttr (hc : t.hdr.tcols ≤ 32) : ∃ m,
    SendsTile (.opTtr w) s f w (tileHdr src (outTag w f.tag) t.hdr.tcols t.hdr.trows t.hdr.vcols t.hdr.vrows m) t.hdr.tcols t.hdr.trows
      src.width (fun _ _ => True) (fun y x => (lane src.width t.payload (x * t.hdr.tcols + y), fNone)) ∧
    Moved m (fun o n => ∃ y x, y < t.hdr.tcols ∧ x < t.hdr.trows ∧ o = (y * t.hdr.trows + x) * src.width / 8 ∧
      n = (x * t.hdr.tcols + y) * src.width / 8) t.hdr.vmask := by
  refine ⟨moveMask t.hdr.vmask (ttrMoves (t.asTile src)), sendsTile_of (fun _ _ => true) (fun y x => ((t.asTile src).cell x y, fNone)) h (exec_ttr w s)
    (by rw [tile_gather ht hsrc (by decide)]; exact if_neg (Nat.not_lt.2 hc)) ?_ ?_ (fun _ _ => by simp) (fun _ _ _ _ _ => rfl),
    moved_moveMask _ fun o n => ?_⟩
  · rw [tileCells, List.map_map]
    exact congrArg (· :: []) (emit_view ..)
  · rw [tileCells, List.map_map]
    exact (orFlags_none _).symm
  · simp only [ttrMoves, List.mem_map, Prod.exists, mem_cellsOf, Prod.mk.injEq, and_assoc]
    refine exists_congr fun y => exists_congr fun x => and_congr_right fun _ => and_congr_right fun _ => ?_
    exact and_congr eq_comm eq_comm

end

/-! ### Conversion -/

/-- The meaning of `tcvt` on a tile. -/
def tcvtFire (i : FireIn) (a : Tile) : FireRes :=
  if 4096 < tileBytes i.fmt.code a.rows a.cols || (i.fmt.isMx && a.cols % 32 != 0) then formatEdge
  else .go (if i.fmt.isMx then tcvtMx i a else tcvtPlain i a)

theorem exec_tcvt (w : OpWord) (s : State) : exec (.opTcvt w) s = .next (fire s w 0x6C fun q => tcvtFire q (q.tile q.a 32 32)) := rfl

/-- The byte of a cell's scale in a tile of a format (R22). -/
def scaleAt (f : Fmt) (rows cols y x : Nat) : Nat := roundUp (cdiv (rows * cols * f.width) 8) 128 + y * (cols / 32) + x / 32

theorem planeOff_code (f : Fmt) (rows cols : Nat) : planeOff f.code rows cols = roundUp (cdiv (rows * cols * f.width) 8) 128 := by
  rw [planeOff, fmtWidth_code]

/-- The exact value of a cell of a tile, under its scale in an MX format (R21, R162). -/
def cellValue (a : Tile) (ftz : Bool) (y x : Nat) : FVal :=
  let scale := byteRange a.payload (scaleAt a.fmt a.rows a.cols y x) 1
  let c := lane a.fmt.width a.payload (y * a.cols + x)
  if a.fmt.isMx then (if scale = 255 then .nan false false else match decodeF a.fmt.lay ftz c with
    | .fin m p q => .fin m (p * (scaleRatio scale).1) (q * (scaleRatio scale).2)
    | v => v)
  else if a.fmt.isFloat then decodeF a.fmt.lay ftz c else intToF (intVal a.fmt c)

theorem Tile.value_eq (a : Tile) (ftz : Bool) (y x : Nat) : a.value ftz y x = cellValue a ftz y x := by
  unfold Tile.value cellValue Tile.scale Tile.plane scaleAt
  rw [planeOff_code]
  rfl

/-- The byte n of a valid cell that a conversion reads: its own, or its scale's. -/
def Reads (a : Tile) (y x n : Nat) : Prop :=
  y < a.rows ∧ x < a.cols ∧ (y < a.vr ∧ x < a.vc) ∧
    (n = (y * a.cols + x) * a.fmt.width / 8 ∨ (a.fmt.isMx = true ∧ n = scaleAt a.fmt a.rows a.cols y x))

theorem Tile.valid_iff (a : Tile) (y x : Nat) : a.valid y x = true ↔ y < a.vr ∧ x < a.vc := by
  simp [Tile.valid]

theorem Tile.mem_readBytes (a : Tile) (y x n : Nat) : n ∈ a.readBytes y x ↔
    n = (y * a.cols + x) * a.fmt.width / 8 ∨ (a.fmt.isMx = true ∧ n = scaleAt a.fmt a.rows a.cols y x) := by
  unfold Tile.readBytes Tile.plane scaleAt
  rw [planeOff_code, List.mem_cons]
  by_cases hm : a.fmt.isMx = true <;> simp [hm]

/-- The bytes that a conversion into a format that is not MX moves. -/
def plainMoves (a : Tile) (f : Fmt) : List (Nat × Nat) :=
  ((cellsOf a.rows a.cols).filter fun p => a.valid p.1 p.2).flatMap fun p =>
    (a.readBytes p.1 p.2).map fun b => ((p.1 * a.cols + p.2) * f.width / 8, b)

theorem mem_plainMoves (a : Tile) (f : Fmt) (o n : Nat) :
    (o, n) ∈ plainMoves a f ↔ ∃ y x, Reads a y x n ∧ o = (y * a.cols + x) * f.width / 8 := by
  simp only [plainMoves, List.mem_flatMap, List.mem_filter, List.mem_map, mem_cellsOf, Prod.exists, Tile.valid_iff, Tile.mem_readBytes,
    Reads, Prod.mk.injEq]
  constructor
  · rintro ⟨y, x, ⟨⟨hy, hx⟩, hval⟩, b, hb, ho, rfl⟩
    exact ⟨y, x, ⟨hy, hx, hval, hb⟩, ho.symm⟩
  · rintro ⟨y, x, ⟨hy, hx, hval, hb⟩, ho⟩
    exact ⟨y, x, ⟨⟨hy, hx⟩, hval⟩, n, hb, ho.symm, rfl⟩

/-- `tcvt` refuses a tile that does not fit, or that has no whole blocks. -/
theorem tcvtFire_eq (q : FireIn) (a : Tile) : tcvtFire q a =
    if 4096 < tileBytes q.fmt.code a.rows a.cols ∨ q.fmt.isMx = true ∧ a.cols % 32 ≠ 0 then .stop { cause := 0x02 }
    else .go (if q.fmt.isMx then tcvtMx q a else tcvtPlain q a) := by
  unfold tcvtFire formatEdge
  simp only [Bool.or_eq_true, decide_eq_true_eq, Bool.and_eq_true, bne_iff_ne]

section
variable {s : State} {f : Focus} {w : OpWord} {t : Token} {src : Fmt} (h : Chosen s f)
  (ht : (operandAt (getRegion s (rgnOf f.loc)) (getElem s f.loc).ahead w f.slot f.tag 0).tok = some t)
  (hsrc : Fmt.ofCode t.hdr.fmt = some src)
include h ht hsrc

theorem stops_tcvt (hc : 4096 < tileBytes (recFmt (recAt s f w)).code t.hdr.trows t.hdr.tcols ∨
    (recFmt (recAt s f w)).isMx = true ∧ t.hdr.tcols % 32 ≠ 0) : Stops (.opTcvt w) s f { cause := 0x02 } :=
  stops_of h (exec_tcvt w s) (by rw [tile_gather ht hsrc (by decide), tcvtFire_eq]; exact if_pos hc)

/-- `tcvt` into a format that is not MX converts every valid cell. -/
theorem sends_tcvt_plain (hmx : (recFmt (recAt s f w)).isMx = false)
    (hc : tileBytes (recFmt (recAt s f w)).code t.hdr.trows t.hdr.tcols ≤ 4096) :
    let fm := recFmt (recAt s f w)
    let ftz := recFtz (recAt s f w)
    let a := t.asTile src
    let mode := (effMode w.mod.toNat (recRnd (recAt s f w))).getD .rne
    let sr (k : Nat) : Nat := srBits (nth (getElem s f.loc).ahead.consts f.slot 0) (outTag w f.tag) k
    ∃ m, SendsTile (.opTcvt w) s f w (tileHdr fm (outTag w f.tag) t.hdr.trows t.hdr.tcols t.hdr.vrows t.hdr.vcols m) t.hdr.trows t.hdr.tcols
        fm.width (fun y x => y < t.hdr.vrows ∧ x < t.hdr.vcols) (fun y x =>
          if src.isMx = false then convert src fm mode w.sat ftz (sr (y * t.hdr.tcols + x)) (lane src.width t.payload (y * t.hdr.tcols + x))
          else if fm.isFloat then roundFp fm.lay mode w.sat ftz (sr (y * t.hdr.tcols + x)) (cellValue a ftz y x)
          else floatToInt fm mode (sr (y * t.hdr.tcols + x)) (cellValue a ftz y x)) ∧
      Moved m (fun o n => ∃ y x, Reads a y x n ∧ o = (y * t.hdr.tcols + x) * fm.width / 8) t.hdr.vmask := by
  intro fm ftz a mode sr
  have hgo : tcvtFire (gather s f w 0x6C) a = .go (tcvtPlain (gather s f w 0x6C) a) := by
    rw [tcvtFire_eq]
    refine (if_neg ?_).trans (congrArg FireRes.go (if_neg (ne_true_of_eq_false hmx)))
    rintro (hlong | ⟨hm, -⟩)
    · exact absurd hc (Nat.not_le.2 hlong)
    · exact ne_true_of_eq_false hmx hm
  refine ⟨moveMask t.hdr.vmask (plainMoves a fm), sendsTile_of (o := tcvtPlain (gather s f w 0x6C) a) a.valid
    (tcvtCell (gather s f w 0x6C) a) h (exec_tcvt w s) (by rw [tile_gather ht hsrc (by decide)]; exact hgo)
    (congrArg (· :: []) (emit_view ..)) rfl a.valid_iff fun y _ x _ _ => ?_,
    moved_moveMask _ (mem_plainMoves a fm)⟩
  unfold tcvtCell
  rw [Tile.value_eq]
  by_cases hm : src.isMx = true
  · exact (if_pos hm).trans (if_neg (by simp [hm])).symm
  · exact (if_neg hm).trans (if_pos (by simpa using hm)).symm
end

end Sys2Proof.Machine
end

section
/-! SUPPORT. The conversion of a tile into an MX format (spec/01: R21, R22, R37; spec/06: R162). -/

namespace Sys2Proof.Machine

/-! ### One block -/

theorem mxScale_lt (f : Fmt) (xs : List FVal) : mxScale f xs < 255 := by
  unfold mxScale
  dsimp only
  split
  · decide
  · omega

/-- A value divided by the power of two of a scale (R37). -/
def unscale (sc : Nat) (v : FVal) : FVal :=
  match v with
  | .fin m a b => .fin m (a * (scaleRatio sc).2) (b * (scaleRatio sc).1)
  | v => v

/-- The scale of a block: 255 beside a NaN or an infinity. -/
def blockScale (f : Fmt) (xs : List FVal) : Nat := if xs.any FVal.nonFinite then 255 else mxScale f xs

theorem blockScale_lt (f : Fmt) (xs : List FVal) : blockScale f xs < 256 := by
  unfold blockScale
  split
  · decide
  · exact (mxScale_lt f xs).trans (by decide)

theorem mxEncode_scale (f : Fmt) (mode : RMode) (ftz : Bool) (srk : Nat → Nat) (xs : List FVal) :
    (mxEncode f mode ftz srk xs).1 = blockScale f xs := by
  unfold mxEncode blockScale
  split <;> rfl

theorem mxEncode_length (f : Fmt) (mode : RMode) (ftz : Bool) (srk : Nat → Nat) (xs : List FVal) :
    (mxEncode f mode ftz srk xs).2.1.length = xs.length := by
  unfold mxEncode
  split <;> simp

/-- The code of a value in its block. -/
theorem mxEncode_code (f : Fmt) (mode : RMode) (ftz : Bool) (srk : Nat → Nat) {xs : List FVal} {k : Nat} {v : FVal} (hv : xs[k]? = some v) :
    (mxEncode f mode ftz srk xs).2.1[k]? =
      some (if blockScale f xs = 255 then 0 else (roundFp f.lay mode true ftz (srk k) (unscale (blockScale f xs) v)).1) := by
  unfold mxEncode blockScale
  by_cases hx : xs.any FVal.nonFinite = true
  · have hk := (List.getElem?_eq_some_iff.1 hv).1
    simp [hx, hk]
  · simp only [hx, Bool.false_eq_true, if_false, List.map_map, List.getElem?_map, List.getElem?_zipIdx, hv, Option.map_some,
      (mxScale_lt f xs).ne, Function.comp_apply, Nat.zero_add]
    cases v <;> rfl

/-! ### A segment of 32 cells of a row -/

/-- The columns of block q of row y that hold valid cells. -/
def segCols (a : Tile) (y q : Nat) : List Nat := ((List.range 32).map fun n => 32 * q + n).filter (a.valid y)

/-- The valid cells come first in their segment. -/
theorem segCols_eq (a : Tile) (y q : Nat) : segCols a y q =
    (List.range (if y < a.vr then min (a.vc - 32 * q) 32 else 0)).map fun n => 32 * q + n := by
  unfold segCols
  rw [List.filter_map]
  congr 1
  by_cases hy : y < a.vr
  · rw [if_pos hy, ← filter_range_lt]
    refine List.filter_congr fun n _ => ?_
    simp only [Function.comp_apply, Tile.valid, hy, decide_true, Bool.true_and, decide_eq_decide]
    omega
  · simp [Tile.valid, hy, Function.comp_def]

theorem segCols_getElem? (a : Tile) (y q : Nat) {k : Nat} (hk : k < 32) :
    (segCols a y q)[k]? = if a.valid y (32 * q + k) then some (32 * q + k) else none := by
  rw [segCols_eq, List.getElem?_map]
  by_cases hy : y < a.vr
  · by_cases hx : 32 * q + k < a.vc
    · have hin : k < min (a.vc - 32 * q) 32 := by omega
      simp only [Tile.valid, hy, hx, decide_true, Bool.and_self, if_true, List.getElem?_range hin, Option.map_some]
    · simp [Tile.valid, hy, hx]
      omega
  · simp [Tile.valid, hy]

theorem segCols_length (a : Tile) (y q : Nat) : (segCols a y q).length ≤ 32 := by
  unfold segCols
  exact (List.length_filter_le _ _).trans (by simp)

section
variable (i : FireIn) (a : Tile) (y q : Nat)

theorem mxSegment_scale : (mxSegment i a y q).1 = blockScale i.fmt ((segCols a y q).map fun j => a.value i.ftz y j) := mxEncode_scale ..

theorem mxSegment_length : (mxSegment i a y q).2.1.length = 32 := by
  have hlen := segCols_length a y q
  show (List.length (_ ++ List.replicate (32 - ((segCols a y q).map fun j => a.value i.ftz y j).length) 0)) = 32
  rw [List.length_append, mxEncode_length, List.length_replicate]
  show ((segCols a y q).map _).length + _ = 32
  rw [List.length_map]
  omega

/-- Code k of a segment: a valid cell under the scale of its block, or 0. -/
theorem mxSegment_code {k : Nat} (hk : k < 32) : (mxSegment i a y q).2.1[k]? =
    some (if a.valid y (32 * q + k) = true ∧ (mxSegment i a y q).1 ≠ 255 then
      (roundFp i.fmt.lay i.mode true i.ftz (i.sr (y * a.cols + (32 * q + k)))
        (unscale (mxSegment i a y q).1 (a.value i.ftz y (32 * q + k)))).1
    else 0) := by
  rw [mxSegment_scale]
  have hcol := segCols_getElem? a y q hk
  have heq : (mxSegment i a y q).2.1 =
      (mxEncode i.fmt i.mode i.ftz (fun n => i.sr (y * a.cols + 32 * q + n)) ((segCols a y q).map fun j => a.value i.ftz y j)).2.1 ++
        List.replicate (32 - ((segCols a y q).map fun j => a.value i.ftz y j).length) 0 := rfl
  rw [heq]
  generalize hvs : (segCols a y q).map (fun j => a.value i.ftz y j) = vs
  have hlen : vs.length = (segCols a y q).length := by rw [← hvs, List.length_map]
  by_cases hval : a.valid y (32 * q + k) = true
  · have hv : vs[k]? = some (a.value i.ftz y (32 * q + k)) := by rw [← hvs, List.getElem?_map, hcol, if_pos hval]; rfl
    rw [List.getElem?_append_left (by rw [mxEncode_length]; exact (List.getElem?_eq_some_iff.1 hv).1), mxEncode_code _ _ _ _ hv,
      Nat.add_assoc]
    by_cases hsc : blockScale i.fmt vs = 255 <;> simp [hval, hsc]
  · rw [if_neg hval] at hcol
    have hge : vs.length ≤ k := hlen ▸ List.getElem?_eq_none_iff.1 hcol
    rw [List.getElem?_append_right (by rw [mxEncode_length]; exact hge), mxEncode_length, List.getElem?_replicate, if_pos (by omega),
      if_neg fun h => hval h.1]

end

/-! ### The tile -/

/-- The payload of an MX tile whose block q of row y is g y q: the codes, and the scales in their plane (R22). -/
def mxPayload (f : Fmt) (rows cols : Nat) (g : Nat → Nat → Nat × List Nat × Flags) : Nat :=
  let segs := (List.range rows).flatMap fun r => (List.range (cols / 32)).map fun q => g r q
  packLanes f.width (segs.flatMap fun e => e.2.1) + 2 ^ (8 * planeOff f.code rows cols) * packLanes 8 (segs.map Prod.fst)

/-- The scale and the codes of block q of row y. -/
theorem mxPayload_block {rows cols : Nat} {g : Nat → Nat → Nat × List Nat × Flags} {f : Fmt} (hl : ∀ y q, (g y q).2.1.length = 32)
    (hs : ∀ y q, (g y q).1 < 256) (hc : cols % 32 = 0) :
    ∀ y < rows, ∀ q < cols / 32, byteRange (mxPayload f rows cols g) (scaleAt f rows cols y (32 * q)) 1 = (g y q).1 ∧
      ∀ k < 32, ∀ c, (g y q).2.1[k]? = some c → lane f.width (mxPayload f rows cols g) (y * cols + (32 * q + k)) = c % 2 ^ f.width := by
  intro y hy q hq
  unfold mxPayload
  extract_lets segs
  generalize heb : planeOff f.code rows cols = eb
  have hcb : cols / 32 * 32 = cols := Nat.div_mul_cancel (Nat.dvd_of_mod_eq_zero hc)
  have hcodes : segs.flatMap (fun e => e.2.1) =
      (List.range rows).flatMap fun r => (List.range (cols / 32)).flatMap fun q => (g r q).2.1 := by
    simp only [segs, List.flatMap_assoc, List.flatMap_map]
  have hscales : segs.map Prod.fst = (List.range rows).flatMap fun r => (List.range (cols / 32)).map fun q => (g r q).1 := by
    simp only [segs, List.map_flatMap, List.map_map]
    rfl
  have hrow (r : Nat) : ((List.range (cols / 32)).flatMap fun q => (g r q).2.1).length = cols := by
    rw [length_flatMap_range _ _ (hl r), hcb]
  have hlen : (segs.flatMap fun e => e.2.1).length = rows * cols := by rw [hcodes, length_flatMap_range _ _ hrow]
  have hroom : f.width * (rows * cols) ≤ 8 * eb := by
    simp only [← heb, planeOff_code, roundUp, cdiv, Nat.mul_comm f.width]
    omega
  have hbelow : packLanes f.width (segs.flatMap fun e => e.2.1) < 2 ^ (8 * eb) :=
    (packLanes_lt _ _).trans_le (Nat.pow_le_pow_right (by decide) (hlen ▸ hroom))
  refine ⟨?_, fun k hk c hcode => ?_⟩
  · have hat : scaleAt f rows cols y (32 * q) = eb + (y * (cols / 32) + q) := by
      simp only [scaleAt, ← heb, planeOff_code, Nat.mul_div_cancel_left q (show 0 < 32 by decide), Nat.add_assoc]
    have hget : (segs.map Prod.fst)[y * (cols / 32) + q]? = some (g y q).1 := by
      rw [hscales, getElem?_flatMap_range _ (fun r => by simp) hy hq]
      simp [hq]
    rw [hat, byteRange_add_above _ hbelow, lane_packLanes_of_getElem? hget]
    exact Nat.mod_eq_of_lt (hs y q)
  · have hx : 32 * q + k < cols := by omega
    have hin : y * cols + (32 * q + k) + 1 ≤ rows * cols := calc
      y * cols + (32 * q + k) + 1 ≤ (y + 1) * cols := by rw [Nat.succ_mul y]; omega
      _ ≤ rows * cols := Nat.mul_le_mul_right _ hy
    have hget : (segs.flatMap fun e => e.2.1)[y * cols + (32 * q + k)]? = some c := by
      rw [hcodes, getElem?_flatMap_range _ hrow hy hx, Nat.mul_comm 32 q, getElem?_flatMap_range _ (hl y) hq hk, hcode]
    rw [lane_add_above _ _ ((Nat.mul_le_mul_right _ hin).trans (by rw [Nat.mul_comm]; exact hroom)), lane_packLanes_of_getElem? hget]

/-- The bytes that a conversion into an MX format moves: a cell's and its scale's. -/
def mxMoves (a : Tile) (f : Fmt) : List (Nat × Nat) :=
  ((cellsOf a.rows a.cols).filter fun p => a.valid p.1 p.2).flatMap fun p =>
    (a.readBytes p.1 p.2).flatMap fun b =>
      [((p.1 * a.cols + p.2) * f.width / 8, b), (planeOff f.code a.rows a.cols + p.1 * (a.cols / 32) + p.2 / 32, b)]

theorem mem_mxMoves (a : Tile) (f : Fmt) (o n : Nat) : (o, n) ∈ mxMoves a f ↔
    ∃ y x, Reads a y x n ∧ (o = (y * a.cols + x) * f.width / 8 ∨ o = scaleAt f a.rows a.cols y x) := by
  simp only [mxMoves, List.mem_flatMap, List.mem_filter, mem_cellsOf, Prod.exists, Tile.valid_iff, Tile.mem_readBytes, Reads,
    List.mem_cons, List.not_mem_nil, or_false, Prod.mk.injEq, planeOff_code, scaleAt]
  constructor
  · rintro ⟨y, x, ⟨⟨hy, hx⟩, hval⟩, b, hb, ⟨ho, rfl⟩ | ⟨ho, rfl⟩⟩
    · exact ⟨y, x, ⟨hy, hx, hval, hb⟩, .inl ho⟩
    · exact ⟨y, x, ⟨hy, hx, hval, hb⟩, .inr ho⟩
  · rintro ⟨y, x, ⟨hy, hx, hval, hb⟩, ho | ho⟩
    · exact ⟨y, x, ⟨⟨hy, hx⟩, hval⟩, n, hb, .inl ⟨ho, rfl⟩⟩
    · exact ⟨y, x, ⟨⟨hy, hx⟩, hval⟩, n, hb, .inr ⟨ho, rfl⟩⟩

/-- `tcvt` into an MX format makes each 32 cells of a row a block under its scale. -/
theorem sends_tcvt_mx {s : State} {f : Focus} {w : OpWord} {t : Token} {src : Fmt} (h : Chosen s f)
    (ht : (operandAt (getRegion s (rgnOf f.loc)) (getElem s f.loc).ahead w f.slot f.tag 0).tok = some t)
    (hsrc : Fmt.ofCode t.hdr.fmt = some src) (hmx : (recFmt (recAt s f w)).isMx = true)
    (hlong : tileBytes (recFmt (recAt s f w)).code t.hdr.trows t.hdr.tcols ≤ 4096) (hc : t.hdr.tcols % 32 = 0) :
    let fm := recFmt (recAt s f w)
    let ftz := recFtz (recAt s f w)
    let a := t.asTile src
    let mode := (effMode w.mod.toNat (recRnd (recAt s f w))).getD .rne
    let sr (k : Nat) : Nat := srBits (nth (getElem s f.loc).ahead.consts f.slot 0) (outTag w f.tag) k
    ∃ m, Issues (.opTcvt w) s f fun _ F => (∃ p, F.sent = toEntry (getElem s f.loc).ahead w.dest.toNat
        (tileHdr fm (outTag w f.tag) t.hdr.trows t.hdr.tcols t.hdr.vrows t.hdr.vcols m) p ∧
      ∀ y < t.hdr.trows, ∀ q < t.hdr.tcols / 32,
        let sc := if (segCols a y q).any fun x => (cellValue a ftz y x).nonFinite then 255 else mxScale fm ((segCols a y q).map (cellValue a ftz y))
        byteRange p (scaleAt fm t.hdr.trows t.hdr.tcols y (32 * q)) 1 = sc ∧
        ∀ k < 32, let x := 32 * q + k
          lane fm.width p (y * t.hdr.tcols + x) =
            if y < t.hdr.vrows ∧ x < t.hdr.vcols ∧ sc ≠ 255 then
              (roundFp fm.lay mode true ftz (sr (y * t.hdr.tcols + x)) (unscale sc (cellValue a ftz y x))).1 % 2 ^ fm.width
            else 0) ∧
      Moved m (fun o n => ∃ y x, Reads a y x n ∧ (o = (y * t.hdr.tcols + x) * fm.width / 8 ∨
        o = scaleAt fm t.hdr.trows t.hdr.tcols y x)) t.hdr.vmask := by
  intro fm ftz a mode sr
  let g := gather s f w 0x6C
  have hgo : tcvtFire g a = .go (tcvtMx g a) := by
    rw [tcvtFire_eq]
    refine (if_neg ?_).trans (congrArg FireRes.go (if_pos hmx))
    rintro (hl | ⟨-, hm⟩)
    · exact absurd hlong (Nat.not_le.2 hl)
    · exact hm hc
  refine ⟨moveMask t.hdr.vmask (mxMoves a fm), issues_of (tcvtMx g a) h (exec_tcvt w s) (by rw [tile_gather ht hsrc (by decide)]; exact hgo)
    fun u F hF => ⟨⟨mxPayload fm t.hdr.trows t.hdr.tcols (mxSegment g a), ?_, fun y hy q hq => ?_⟩, moved_moveMask _ (mem_mxMoves a fm)⟩⟩
  · rw [toEntry_ahead]
    exact hF.sent_one _ _ _ (congrArg (· :: []) (emit_view ..))
  · have hsc : (mxSegment g a y q).1 = if (segCols a y q).any fun x => (cellValue a ftz y x).nonFinite then 255
        else mxScale fm ((segCols a y q).map (cellValue a ftz y)) := by
      rw [mxSegment_scale, List.map_congr_left fun x _ => a.value_eq _ y x, blockScale, List.any_map]
      rfl
    obtain ⟨hscale, hcodes⟩ := mxPayload_block (f := fm) (g := mxSegment g a) (mxSegment_length g a)
      (fun y q => by rw [mxSegment_scale]; exact blockScale_lt ..) hc y hy q hq
    refine ⟨hscale.trans hsc, fun k hk => (hcodes k hk _ (mxSegment_code g a y q hk)).trans ?_⟩
    rw [hsc, Tile.value_eq]
    simp only [Tile.valid_iff, and_assoc]
    exact apply_ite (· % 2 ^ fm.width) _ _ _ |>.trans (by rw [Nat.zero_mod]; rfl)

end Sys2Proof.Machine
end

section
/-! SUPPORT. The elementwise tile operations, the transpose and the conversion, put together (spec/06: R160 to R162). -/

namespace Sys2Proof.Machine

section
variable {s : State} {f : Focus} {w : OpWord} (h : Chosen s f)
include h

/-- An elementwise form whose operands have different stored shapes stops. -/
theorem stops_tileFire {i : Instr} {opc : Nat} {op : FireIn → Nat → Nat → Nat → Nat × Flags} {ta tb : Token}
    (he : exec i s = .next (fire s w opc fun q => tileFire q (op q))) (ho : opc ≠ 2 ∧ opc ≠ 3)
    (hta : (operandAt (getRegion s (rgnOf f.loc)) (getElem s f.loc).ahead w f.slot f.tag 0).tok = some ta)
    (htb : (operandAt (getRegion s (rgnOf f.loc)) (getElem s f.loc).ahead w f.slot f.tag 1).tok = some tb)
    (hne : ta.hdr.trows ≠ tb.hdr.trows ∨ ta.hdr.tcols ≠ tb.hdr.tcols) : Stops i s f { cause := 0x02 } := by
  have ha : (gather s f w opc).a.tok = some ta := by rw [gather_a s f w ho]; exact hta
  have hb : (gather s f w opc).b.tok = some tb := by rw [gather_b s f w ho]; exact htb
  have htile {o : Opd} {t : Token} (ht : o.tok = some t) (r c : Nat) :
      ((gather s f w opc).tile o r c).rows = t.hdr.trows ∧ ((gather s f w opc).tile o r c).cols = t.hdr.tcols := by
    unfold FireIn.tile
    rw [ht]
    exact ⟨rfl, rfl⟩
  refine stops_of h he (tileFire_edge _ ha rfl rfl ?_)
  rw [(htile ha _ _).1, (htile ha _ _).2, (htile hb _ _).1, (htile hb _ _).2]
  exact hne.imp Ne.symm Ne.symm

end

/-- Settles O37: the elementwise forms, the transpose and the conversion, each by what its firing makes of the tiles. -/
theorem tileElementwise : Obligations.TileElementwise := by
  intro s f w h e g r fm wd T mode val sr round exact fit sends pairs moved
  -- the forms on a and any second operand
  have hpairs {ta : Token} {vb : Nat → Nat} {rb cb mb : Nat} (hs : SecondOperand s f w ta vb rb cb mb) : pairs ta vb rb cb mb :=
    ⟨sendsPairs_float hs h, sendsPairs_int hs h⟩
  refine ⟨fun ta tb hta htb => ⟨fun hne => ?_, fun hr hc hfa hfb _ => ?_⟩, fun ta hta htb hfa hmx _ _ => ?_, fun t src ht hsrc => ?_⟩
  · exact ⟨stops_tileFire h rfl (by decide) hta htb hne, stops_tileFire h rfl (by decide) hta htb hne,
      stops_tileFire h rfl (by decide) hta htb hne, stops_tileFire h rfl (by decide) hta htb hne,
      stops_tileFire h rfl (by decide) hta htb hne⟩
  · exact hpairs (secondOperand_tile hta hfa htb hfb hr hc)
  · have hs : SecondOperand s f w ta (fun _ => (operandAt g e w f.slot f.tag 1).cell wd 0) ta.hdr.trows ta.hdr.tcols 0xFFFF :=
      secondOperand_value hta hfa htb hmx
    exact (hpairs hs :)
  · intro rows cols valid cellAt at_ plane scale value reads
    refine ⟨sends_ttr h ht hsrc, stops_ttr h ht hsrc, fun hmx hlong => ?_, fun hmx hlong hc _ => ?_, stops_tcvt h ht hsrc⟩
    · exact sends_tcvt_plain h ht hsrc hmx hlong
    · exact sends_tcvt_mx h ht hsrc hmx hlong hc

end Sys2Proof.Machine
end

section
/-! SUPPORT. A step runs what its turn names (spec/02: R58; spec/09: R214, R216, R228). -/

namespace Sys2Proof.Machine

theorem timer_wait (c : Core) (ns : Nat) : (c.timer ns).wait = c.wait := by
  unfold Core.timer
  split <;> rfl

theorem timer_pc (c : Core) (ns : Nat) : (c.timer ns).pc = c.pc := by
  unfold Core.timer
  split <;> rfl

theorem timer_lmem (c : Core) (ns : Nat) : (c.timer ns).lmem = c.lmem := by
  unfold Core.timer
  split <;> rfl

/-- The word of an instruction runs it. -/
theorem runWord_ok {w : Word32} {i : Instr} (h : decodeKettle w = .ok i) (s : State) : runWord w s = exec i s := by
  unfold runWord
  rw [h]

/-- A word that stands for no instruction raises ILLEGAL_INSN (R216). -/
theorem runWord_error {w : Word32} {e : Reject} (h : decodeKettle w = .error e) (s : State) :
    runWord w s = exec (.evUndefinedEncoding w) s := by
  unfold runWord
  rw [h]

/-- A fetch from local memory reads the word at the pc (R212). -/
theorem kfetch_local {s : State} (hpc : (curCore s).pc.toNat < 0x80000) (hb : localBad s (curCore s).pc.toNat = false) :
    kfetch s = (.ok (BitVec.ofNat 32 (readBytes (curCore s).lmem (curCore s).pc.toNat 4)), s) := by
  unfold kfetch
  dsimp only
  rw [kplace_loc hpc]
  dsimp only
  rw [if_neg (ne_true_of_eq_false hb)]

/-- The state in which the current core moves: its timer brought up to date. -/
def timed (u : State) : State := setCore u ((curCore u).timer u.ns)

theorem runCore_idle {u : State} (h : (curCore u).started = false) : runCore u = .next u := by
  unfold runCore
  rw [h]
  rfl

section
variable {u : State} (hs : (curCore u).started = true)
include hs

theorem runCore_async (ha : asyncDue (curCore (timed u)) u.ns ≠ none) : runCore u = exec .evAsyncTrap (timed u) := by
  obtain ⟨v, hv⟩ := Option.ne_none_iff_exists'.1 ha
  unfold runCore
  rw [hs]
  change (match asyncDue (curCore (timed u)) u.ns with | some _ => _ | none => _) = _
  rw [hv]
  rfl

variable (ha : asyncDue (curCore (timed u)) u.ns = none)
include ha

/-- What a core does that no asynchronous trap interrupts. -/
theorem runCore_awake : runCore u = match (curCore u).wait with
    | some (.kwait _ _ _) => exec .evKwaitWake (timed u)
    | some (.gwaitk _ _ _ _) => exec .evGwaitkWake (timed u)
    | none => match kfetch (timed u) with
      | (.error t, x) => .next (ktrap x t)
      | (.ok w, x) => runWord w x := by
  have hw : (curCore (timed u)).wait = (curCore u).wait := by rw [timed, curCore_setCore, timer_wait]
  unfold runCore
  rw [hs]
  change (match asyncDue (curCore (timed u)) u.ns with | some _ => _ | none => match (curCore (timed u)).wait with
    | some (.kwait _ _ _) => _ | some (.gwaitk _ _ _ _) => _ | none => _) = _
  rw [ha, hw]
  rfl

theorem runCore_kwait {a b : KReg} {c : Nat} (hw : (curCore u).wait = some (.kwait a b c)) : runCore u = exec .evKwaitWake (timed u) := by
  rw [runCore_awake hs ha, hw]

theorem runCore_gwaitk {a b c : KReg} {d : Nat} (hw : (curCore u).wait = some (.gwaitk a b c d)) :
    runCore u = exec .evGwaitkWake (timed u) := by
  rw [runCore_awake hs ha, hw]

variable (hw : (curCore u).wait = none)
include hw

theorem runCore_fault {t : KTrap} {x : State} (hf : kfetch (timed u) = (.error t, x)) : runCore u = .next (ktrap x t) := by
  rw [runCore_awake hs ha, hw, hf]

theorem runCore_word {w : Word32} {x : State} (hf : kfetch (timed u) = (.ok w, x)) : runCore u = runWord w x := by
  rw [runCore_awake hs ha, hw, hf]

end

/-- The timer leaves the pc and the local memory alone, and so what a fetch from local memory reads. -/
theorem kfetch_timed {u : State} (hpc : (curCore u).pc.toNat < 0x80000) (hb : localBad (timed u) (curCore u).pc.toNat = false) :
    kfetch (timed u) = (.ok (BitVec.ofNat 32 (readBytes (curCore u).lmem (curCore u).pc.toNat 4)), timed u) := by
  have hpc' : (curCore (timed u)).pc = (curCore u).pc := by rw [timed, curCore_setCore, timer_pc]
  have hm : (curCore (timed u)).lmem = (curCore u).lmem := by rw [timed, curCore_setCore, timer_lmem]
  have hf := kfetch_local (s := timed u) (by rw [hpc']; exact hpc) (by rw [hpc']; exact hb)
  rw [hpc', hm] at hf
  exact hf

section
variable {u : State} {l : Loc}

theorem runElem_none (hf : selectFocus u l = none) : runElem u l = .next u := by
  rw [runElem, hf]

variable {f : Focus} (hf : selectFocus u l = some f)
include hf

theorem runElem_eos (hm : f.mode = .eos) : runElem u l = exec .evEosSetFire { u with focus := some f } := by
  rw [runElem, hf]
  dsimp only
  rw [hm]

theorem runElem_trunc (hm : f.mode = .trunc) : runElem u l = exec .evTruncDiscard { u with focus := some f } := by
  rw [runElem, hf]
  dsimp only
  rw [hm]

theorem runElem_fires {i : Instr} (hm : f.mode = .data ∨ f.mode = .mismatch)
    (hd : decodeOp (nth (getElem u l).cfg.slots f.slot 0) = .ok i) : runElem u l = exec i { u with focus := some f } := by
  have hd' : decodeOp (nth (getElem { u with focus := some f } l).cfg.slots f.slot 0) = .ok i := hd
  rw [runElem, hf]
  dsimp only
  rcases hm with hm | hm <;> rw [hm] <;> dsimp only <;> rw [hd']

end

section
variable {s : State} (hp : s.powered = false)
include hp

theorem step_unpowered_idle (hn : s.agenda = []) : step s = .fault .unpowered := by
  unfold step
  rw [hn]
  exact if_neg (ne_true_of_eq_false hp)

variable {t : Turn} {rest : List Turn} (hn : s.agenda = t :: rest)
include hn

theorem step_unpowered_powerUp (ha : t.act = .ev .evPowerUp) : step s = exec .evPowerUp { s with agenda := rest } := by
  unfold step
  rw [hn]
  dsimp only
  rw [if_neg (ne_true_of_eq_false hp), ha]

theorem step_unpowered_other (ha : t.act ≠ .ev .evPowerUp) : step s = .fault .unpowered := by
  unfold step
  rw [hn]
  dsimp only
  rw [if_neg (ne_true_of_eq_false hp)]
  split
  · next h => exact absurd h ha
  · rfl

end

/-- Settles O58: a turn is its time and its environment, then the move of the agent that it names. -/
theorem stepRuns : Obligations.StepRuns := by
  refine ⟨fun s hp => ⟨step_unpowered_idle hp, fun t rest hn => ⟨step_unpowered_powerUp hp hn, step_unpowered_other hp hn⟩⟩, ?_⟩
  intro s hp runs
  have hruns (u : State) : runs u (runCore u) := by
    refine ⟨runCore_idle, runCore_async, fun hs ha => ⟨fun a b c => runCore_kwait hs ha, fun a b c d => runCore_gwaitk hs ha⟩,
      fun hs ha hw => ⟨fun t x => runCore_fault hs ha hw, fun w x hf => ?_, fun hpc hb i hd => ?_⟩⟩
    · have hword := runCore_word hs ha hw hf
      exact ⟨fun i hd => hword.trans (runWord_ok hd x), fun e hd => hword.trans (runWord_error hd x)⟩
    · exact (runCore_word hs ha hw (kfetch_timed hpc hb)).trans (runWord_ok hd _)
  refine ⟨fun hn => ?_, fun t rest hn => ?_⟩
  · have hstep : step s = runCore (publish s) := by
      unfold step
      rw [hn]
      exact if_pos hp
    rw [hstep]
    exact hruns _
  · intro x u
    have hstep : step s = runAct u t.act := by
      unfold step
      rw [hn]
      exact if_pos hp
    refine ⟨fun c hc => ?_, fun i hi => ?_, fun l hl => ?_⟩
    · rw [hstep, hc]
      exact hruns _
    · rw [hstep, hi]
      rfl
    · have hfire : step s = runElem u l := by rw [hstep, hl]; rfl
      rw [hfire]
      exact ⟨runElem_none, fun f => runElem_eos, fun f => runElem_trunc, fun f i hf => runElem_fires hf⟩

end Sys2Proof.Machine
end

section
/-! SUPPORT. Refutation of O43: what a spill fetch reads may be corrected, and the error log in HBM says so (spec/22: R404, R407). -/

namespace Sys2Proof.Machine

/-- A vector at the head of channel 0, its payload in spill slot 0 at the virtual address 0x2000; pool buffer 0 is free. -/
def spilledElem : Elem :=
  { cfg := { pooln := 1, spbase := 0x2000 },
    heads := [(0, [{ tok := { hdr := { fmt := 11, pkind := 2, vmask := 1 } }, loc := .spill 0 }])] }

/-- A machine whose one region runs that element. The page table at 0x10000000 maps the first GiB to itself, readable and
writable, with the error log in it; the payload's first line has one correctable error. -/
def spilledState : State :=
  modPart { setRegion State.reset ⟨0, 0⟩ { st := 2, elems := [spilledElem] } with
              hbm := [(0x10000000, 0x01), (0x10000002, 0x10), (0x10000003, 0x10), (0x10100000, 0x1F)],
              softLines := [(0x2000 / 64, 1, 0)] } 0 fun q => { q with ptbase := 0x10000000 }

/-- HBM as an outcome leaves it. -/
def hbmAfter (o : Host.Outcome State Fault Refusal) : List Host.Cell := match o with | .next t => t.hbm | _ => []

theorem live_spilledState : Live spilledState ⟨0, 0, 0⟩ where
  part := by decide
  elem := by decide +kernel
  run := by decide +kernel

/-- The fetch writes a record of the corrected line: NEXT of the error log, at 0x160000, is 1 afterwards. -/
theorem spillFetch_logs : getByte (hbmAfter (exec (.evSpillFetchDone ⟨0, 0, 0⟩ 0) spilledState)) 0x160000 = 1 := by decide +kernel

/-- Refutes O43: a spill fetch that reads a line with a correctable error reports it in the error log (R407), whose pages are HBM,
so HBM is not as it was; the statement asks that it is. -/
theorem not_arrivals : ¬ Obligations.Arrivals := by
  intro h
  obtain ⟨-, hfetch⟩ := h spilledState ⟨0, 0, 0⟩ 0 live_spilledState
  have howner : spillOwner (getElem spilledState ⟨0, 0, 0⟩) 0 = some (0, { hdr := { fmt := 11, pkind := 2, vmask := 1 } }) := by decide +kernel
  have hbuf : freeBuf (getElem spilledState ⟨0, 0, 0⟩) = some 0 := by decide +kernel
  have hread : vreadLong spilledState 0 128 (spillVa (getElem spilledState ⟨0, 0, 0⟩) 0) (payloadBytes { fmt := 11, pkind := 2, vmask := 1 }) = .ok 0 := by
    decide +kernel
  obtain ⟨u, hu, -, -, -, -, hlocal⟩ := hfetch 0 0 _ 0 0 howner hbuf hread
  have hlogged := spillFetch_logs
  rw [hu] at hlogged
  have hkept : getByte u.hbm 0x160000 = 1 := hlogged
  rw [hlocal.hbm] at hkept
  exact absurd hkept (by decide +kernel)

end Sys2Proof.Machine
end

section
/-! SUPPORT. What an operation means as a firing: the operand positions that it takes, and whether it applies its predicate
update (spec/02: R56, R59; spec/04: R98, R99, R112). -/

namespace Sys2Proof.Machine

/-- The positions that a firing of an opcode takes (R59, R98, R99). -/
def eatsOf (opc : Nat) (q : FireIn) : List Nat :=
  if opc = 0x02 then [if q.mergeB then 1 else 0]
  else if opc = 0x03 then (if q.c.poison then [0, 1, 2] else if q.c.truth then [2, 0] else [2, 1])
  else [0, 1, 2]

/-- A firing takes the operands of its opcode, and applies its predicate update unless it is a `brk` (R112). -/
structure FireOut.Takes (opc : Nat) (q : FireIn) (o : FireOut) : Prop where
  upd : o.upd = (opc != 0x11)
  eat : o.eat = eatsOf opc q

/-- The same of a firing that may meet a stopping cause. -/
def FireRes.Takes (opc : Nat) (q : FireIn) : FireRes → Prop
  | .stop _ => True
  | .go o => o.Takes opc q

/-- The instruction is a firing of an opcode. -/
def Means (i : Instr) (s : State) (w : OpWord) (opc : Nat) : Prop :=
  ∃ m, exec i s = .next (fire s w opc m) ∧ ∀ q, (m q).Takes opc q

section
variable {i : Instr} {s : State} {w : OpWord} {opc : Nat} {q : FireIn} {c : Prop} [Decidable c]

theorem means_of {m : FireIn → FireRes} (he : exec i s = .next (fire s w opc m)) (ht : ∀ q, (m q).Takes opc q) : Means i s w opc :=
  ⟨m, he, ht⟩

theorem means_go {m : FireIn → FireOut} (he : exec i s = .next (fireGo s w opc m)) (ht : ∀ q, (m q).Takes opc q) : Means i s w opc :=
  ⟨fun q => .go (m q), he, ht⟩

theorem FireOut.takes_ite {x y : FireOut} (hx : x.Takes opc q) (hy : y.Takes opc q) : (if c then x else y).Takes opc q := by
  split
  · exact hx
  · exact hy

theorem FireRes.takes_ite {x y : FireRes} (hx : x.Takes opc q) (hy : y.Takes opc q) : (if c then x else y).Takes opc q := by
  split
  · exact hx
  · exact hy

/-- A firing of an opcode with no operands and no predicate of its own. -/
theorem FireOut.takes_all {o : FireOut} (hopc : opc ≠ 0x02 ∧ opc ≠ 0x03 ∧ opc ≠ 0x11) (hu : o.upd = true) (he : o.eat = [0, 1, 2]) :
    o.Takes opc q := by
  obtain ⟨h2, h3, h11⟩ := hopc
  exact ⟨by rw [hu]; simpa using h11, by rw [he, eatsOf, if_neg h2, if_neg h3]⟩

section
variable (hopc : opc ≠ 0x02 ∧ opc ≠ 0x03 ∧ opc ≠ 0x11)
include hopc

theorem matrixFire_takes : (matrixFire q).Takes opc q := FireRes.takes_ite trivial (FireOut.takes_all hopc rfl rfl)

theorem tileFire_takes (op : Nat → Nat → Nat → Nat × Flags) : (tileFire q op).Takes opc q :=
  FireRes.takes_ite trivial (FireOut.takes_all hopc rfl rfl)

theorem shapedFire_takes : (shapedFire s q).Takes opc q := FireRes.takes_ite (FireOut.takes_all hopc rfl rfl) trivial

end

theorem eatsOf_cmerge (q : FireIn) :
    eatsOf 0x03 q = if q.c.poison then [0, 1, 2] else if q.c.truth then [2, 0] else [2, 1] := rfl

theorem cmerge_takes : Means (.opCmerge w) s w 0x03 := by
  refine means_go rfl fun q => ?_
  dsimp only
  by_cases hp : q.c.poison = true
  · rw [if_pos hp]
    exact ⟨rfl, by rw [eatsOf_cmerge, if_pos hp]⟩
  · rw [if_neg hp]
    by_cases ht : q.c.truth = true
    · rw [if_pos ht]
      exact ⟨rfl, by rw [eatsOf_cmerge, if_neg hp, if_pos ht]⟩
    · rw [if_neg ht]
      exact ⟨rfl, by rw [eatsOf_cmerge, if_neg hp, if_neg ht]⟩

theorem ldLoc_takes : Means (.opLdLoc w) s w 0xA0 := by
  refine means_of rfl fun q => ?_
  dsimp only
  split
  · trivial
  · exact ⟨rfl, rfl⟩

theorem stLoc_takes : Means (.opStLoc w) s w 0xA1 := by
  refine means_of rfl fun q => FireRes.takes_ite trivial ?_
  dsimp only
  split
  · trivial
  · exact FireRes.takes_ite ⟨rfl, rfl⟩ ⟨rfl, rfl⟩

end

/-- Every operation is a firing of its opcode. -/
theorem op_means {i : Instr} {opc : BitVec 8} {w : OpWord} (h : opCodeOf i = some (opc, w)) (s : State) : Means i s w opc.toNat := by
  cases i <;> cases h
  case opSwitch =>
    exact means_of rfl fun _ => FireRes.takes_ite (FireOut.takes_all (by decide) rfl rfl) (FireRes.takes_ite trivial ⟨rfl, rfl⟩)
  case opCmerge => exact cmerge_takes
  case opCnt => exact means_go rfl fun _ => FireOut.takes_ite ⟨rfl, rfl⟩ ⟨rfl, rfl⟩
  case opSink => exact means_go rfl fun _ => FireOut.takes_ite ⟨rfl, rfl⟩ ⟨rfl, rfl⟩
  case opSort2 => exact means_of rfl fun _ => FireRes.takes_ite trivial ⟨rfl, rfl⟩
  case opTrap => exact means_of rfl fun _ => FireRes.takes_ite ⟨rfl, rfl⟩ trivial
  case opBrk => exact means_of rfl fun _ => FireRes.takes_ite trivial ⟨rfl, rfl⟩
  case opMma => exact means_of rfl fun _ => matrixFire_takes (by decide)
  case opMmaMx => exact means_of rfl fun _ => matrixFire_takes (by decide)
  case opMmaTb => exact means_of rfl fun _ => matrixFire_takes (by decide)
  case opAccadd => exact means_of rfl fun _ => FireRes.takes_ite trivial ⟨rfl, rfl⟩
  case opAccrel => exact means_go rfl fun _ => FireOut.takes_ite ⟨rfl, rfl⟩ ⟨rfl, rfl⟩
  case opTadd => exact means_of rfl fun _ => tileFire_takes (by decide) _
  case opTsub => exact means_of rfl fun _ => tileFire_takes (by decide) _
  case opTmul => exact means_of rfl fun _ => tileFire_takes (by decide) _
  case opTmax => exact means_of rfl fun _ => tileFire_takes (by decide) _
  case opTmin => exact means_of rfl fun _ => tileFire_takes (by decide) _
  case opTtr => exact means_of rfl fun _ => FireRes.takes_ite trivial ⟨rfl, rfl⟩
  case opTcvt =>
    exact means_of rfl fun _ => FireRes.takes_ite trivial (FireOut.takes_ite (x := tcvtMx _ _) ⟨rfl, rfl⟩ ⟨rfl, rfl⟩)
  case opLdLoc => exact ldLoc_takes
  case opSt => exact means_of rfl fun _ => shapedFire_takes (by decide)
  case opStLoc => exact stLoc_takes
  case opStg => exact means_of rfl fun _ => shapedFire_takes (by decide)
  case opRed => exact means_of rfl fun _ => shapedFire_takes (by decide)
  case opRedM => exact means_of rfl fun _ => FireRes.takes_ite trivial ⟨rfl, rfl⟩
  case opPwait => exact means_go rfl fun _ => FireOut.takes_ite ⟨rfl, rfl⟩ ⟨rfl, rfl⟩
  all_goals exact means_go rfl fun _ => ⟨rfl, rfl⟩


/-- A candidate that meets a stopping cause at its issue stops its region, with the cause, CODE and ADDR in its record. -/
theorem stops_at {i : Instr} {s : State} {f : Focus} {w : OpWord} {opc : Nat} {m : FireIn → FireRes} {x : Stop}
    (hf : s.focus = some f) (hp : f.loc.part < 16) (he : exec i s = .next (fire s w opc m))
    (hx : (if f.mode = .mismatch then FireRes.stop { cause := 0x21 } else m (gather s f w opc)) = .stop x) :
    Stops i s f { cause := x.cause, code := x.code, addr := x.addr } := by
  have hr : (rgnOf f.loc).part < 16 := hp
  let u (g : Region) : Region := { g with stopAt := some (g.stopAt.getD (f.loc.elem, f.slot, f.tag)) }
  let y : FRec := { cause := x.cause, tag := f.tag, slot := f.slot, code := x.code, addr := x.addr }
  have hfire : fire s w opc m = { meetStop (modRegion s (rgnOf f.loc) u) f.loc y 0 with focus := none } := by
    unfold fire
    rw [hf]
    dsimp only
    rw [hx]
  refine ⟨_, he, ?_⟩
  rw [hfire]
  obtain ⟨helems, hchans, hstop, hat, hqueue⟩ := meetStop_region (s := modRegion s (rgnOf f.loc) u) hp y 0
  rw [getRegion_modRegion_same hr] at helems hchans hat hqueue
  rw [atElem_modRegion hp u _ rfl rfl, recordBits_congr (modRegion_clk s _ u) rfl rfl rfl] at hqueue
  generalize meetStop (modRegion s (rgnOf f.loc) u) f.loc y 0 = t at *
  exact ⟨helems, hchans, hstop, rfl, hat, hqueue⟩

/-- A data candidate whose meaning is a stopping cause. -/
theorem stops_data {i : Instr} {s : State} {f : Focus} {w : OpWord} {opc : Nat} {m : FireIn → FireRes} {x : Stop}
    (hf : s.focus = some f) (hp : f.loc.part < 16) (he : exec i s = .next (fire s w opc m)) (hm : f.mode = .data)
    (hx : m (gather s f w opc) = .stop x) : Stops i s f { cause := x.cause, code := x.code, addr := x.addr } := by
  refine stops_at hf hp he ?_
  rw [if_neg (by rw [hm]; decide), hx]

/-- PASS names no other candidate (R243). -/
theorem gather_passed {s : State} {f : Focus} (w : OpWord) (opc : Nat)
    (h : (getRegion s (rgnOf f.loc)).pass ≠ some (f.loc.elem, f.slot, f.tag)) : (gather s f w opc).passed = false :=
  beq_eq_false_iff_ne.2 h

end Sys2Proof.Machine

open Sys2Proof Sys2Proof.Machine

/-- Settles O28: each of the four causes is what the candidate's firing answers in place of its outputs. -/
theorem stoppingCandidates : Obligations.StoppingCandidates := by
  unfold Obligations.StoppingCandidates
  intro s f w hf hp e g b
  refine ⟨fun hm hb hn => ?_, fun hm hpass => ?_, fun hm hbrk hpass => ?_, fun hm i opc hi => ?_⟩
  · refine stops_data (x := { cause := 0x22, addr := b.low32 }) hf hp rfl hm ?_
    dsimp only
    rw [gather_b s f w (by decide), if_neg (ne_true_of_eq_false hb)]
    exact if_pos hn
  · refine stops_data (x := { cause := 0x40, code := w.imm12 }) hf hp rfl hm ?_
    exact if_neg (ne_true_of_eq_false (gather_passed w 0x10 hpass))
  · refine stops_data (x := { cause := 0x41, code := w.imm12 }) hf hp rfl hm ?_
    refine if_pos ?_
    rw [gather_passed w _ hpass, show (gather s f w 0x11).g.brken = true from hbrk]
    rfl
  · obtain ⟨m, he, -⟩ := op_means hi s
    exact stops_at (x := { cause := 0x21 }) hf hp he (if_pos hm)

end

section
/-! SUPPORT. The tokens that a firing makes, with their poison and fault index, and slot states packed from fields (spec/03: R72;
spec/04: R100, R104 to R109; spec/14: R326). -/

namespace Sys2Proof.Machine

/-- The fault index of the first poisoned operand in the order a, b, c, where one of them is poisoned (R326). -/
def firstFidx (a b c : Opd) : Nat := if a.poison then a.hdr.fidx else if b.poison then b.hdr.fidx else c.hdr.fidx

theorem Opd.hdr_of_poison {o : Opd} (h : o.poison = true) : o.hdr = (o.tok.getD {}).hdr := by
  unfold Opd.poison at h
  unfold Opd.hdr Opd.data
  cases ho : o.tok with
  | none => rw [ho] at h; cases h
  | some t => rfl

theorem FireIn.fidx_of_poison {i : FireIn} (h : i.poison = true) : i.fidx = firstFidx i.a i.b i.c := by
  unfold FireIn.poison at h
  unfold FireIn.fidx firstFidx
  by_cases ha : i.a.poison = true
  · rw [if_pos ha, if_pos ha, Opd.hdr_of_poison ha]
  · rw [if_neg ha, if_neg ha]
    by_cases hb : i.b.poison = true
    · rw [if_pos hb, if_pos hb, Opd.hdr_of_poison hb]
    · have hc : i.c.poison = true := by simpa [ha, hb] using h
      rw [if_neg hb, if_neg hb, if_pos hc, Opd.hdr_of_poison hc]

section
variable (s : State) (f : Focus) (w : OpWord)

/-- One of a candidate's operands is poisoned. -/
def candPoison : Bool :=
  let opd (p : Nat) := operandAt (getRegion s (rgnOf f.loc)) (getElem s f.loc).ahead w f.slot f.tag p
  (opd 0).poison || (opd 1).poison || (opd 2).poison

/-- The fault index of the first of them. -/
def candFidx : Nat :=
  let opd (p : Nat) := operandAt (getRegion s (rgnOf f.loc)) (getElem s f.loc).ahead w f.slot f.tag p
  firstFidx (opd 0) (opd 1) (opd 2)

variable {opc : Nat} (ho : opc ≠ 2 ∧ opc ≠ 3)
include ho

theorem gather_poison : (gather s f w opc).poison = candPoison s f w := by
  unfold FireIn.poison candPoison
  rw [gather_a s f w ho, gather_b s f w ho, gather_c s f w ho]

theorem gather_fidx (h : candPoison s f w = true) : (gather s f w opc).fidx = candFidx s f w := by
  rw [FireIn.fidx_of_poison (by rw [gather_poison s f w ho, h]), gather_a s f w ho, gather_b s f w ho, gather_c s f w ho]
  rfl

end

/-! ### Poison of what a firing sends -/

/-- Channel, poison and fault index of a token that a firing sends. -/
def OutTok.mark (o : OutTok) : Nat × Bool × Nat := (o.chan, o.tok.hdr.poison, o.tok.hdr.fidx)

/-- Poison and fault index of an emitted token. -/
def markOf (t : Nat × Token) : Bool × Nat := (t.2.hdr.poison, t.2.hdr.fidx)

theorem withSeq_poison (g : Region) (h : Hdr) : (withSeq g h).poison = h.poison := by unfold withSeq; split <;> rfl

theorem withSeq_fidx (g : Region) (h : Hdr) : (withSeq g h).fidx = h.fidx := by unfold withSeq; split <;> rfl

theorem emit_mark (i : FireIn) (entry : Nat) (h : Hdr) (payload : Nat) (pz : Bool) :
    markOf (i.emit entry h payload pz) = (pz, if pz then i.fidx else 0) := by
  simp only [markOf, FireIn.emit, withSeq_poison, withSeq_fidx]

theorem expandOuts_mark (e : Elem) (outs : List (Nat × Token)) : (expandOuts e outs).map OutTok.mark =
    outs.flatMap fun t => (destChans e t.1).map fun c => (c, markOf t) := by
  simp only [expandOuts, List.map_flatMap, List.map_map]
  rfl

section
variable {s t : State} {f : Focus} {i : FireIn} {o : FireOut} {F : Firing}

/-- With no uncorrectable word and no non-finite value, a firing's tokens are those of its meaning. -/
theorem Fired.outs_eq (hF : Fired s t f i o F) (hb : i.e.badWords = []) (hn : o.nonfin = none) :
    F.outs = expandOuts (getElem s f.loc) o.outs := by
  obtain ⟨bad, hbad, houts⟩ := hF.outs
  rw [houts, hbad hb]
  unfold judgeOut
  rw [hn]

theorem Fired.marks (hF : Fired s t f i o F) (hb : i.e.badWords = []) (hn : o.nonfin = none) :
    F.outs.map OutTok.mark = o.outs.flatMap fun t => (destChans (getElem s f.loc) t.1).map fun c => (c, markOf t) := by
  rw [hF.outs_eq hb hn, expandOuts_mark]

end

/-- A firing of one token marks each of its copies with the token's poison and fault index. -/
theorem marks_of {i : Instr} {s : State} {f : Focus} {w : OpWord} {opc : Nat} {m : FireIn → FireRes} {p : Bool} {x : Nat} {t : Nat × Token}
    (o : FireOut) (h : Chosen s f) (hb : (getElem s f.loc).ahead.badWords = []) (he : exec i s = .next (fire s w opc m))
    (hm : m (gather s f w opc) = .go o) (hn : o.nonfin = none) (ho : o.outs = [t]) (ht : markOf t = (p, if p then x else 0)) :
    Marks i s f p x := by
  refine issues_of o h he hm fun u F hF y hmem => ?_
  have hk := hF.marks hb hn
  rw [ho] at hk
  have hy : y.mark ∈ F.outs.map OutTok.mark := List.mem_map_of_mem hmem
  rw [hk] at hy
  simp only [List.flatMap_cons, List.flatMap_nil, List.append_nil, List.mem_map, ht, OutTok.mark, Prod.mk.injEq] at hy
  obtain ⟨c, -, -, hp, hx⟩ := hy
  exact ⟨hp.symm, hx.symm⟩

/-- The mark of a token emitted with the candidate's poison. -/
theorem mark_cand (s : State) (f : Focus) (w : OpWord) {opc : Nat} (ho : opc ≠ 2 ∧ opc ≠ 3) (entry : Nat) (h : Hdr) (payload : Nat) :
    markOf ((gather s f w opc).emit entry h payload (gather s f w opc).poison) =
      (candPoison s f w, if candPoison s f w then candFidx s f w else 0) := by
  rw [emit_mark, gather_poison s f w ho]
  cases hp : candPoison s f w with
  | false => rfl
  | true => rw [gather_fidx s f w ho hp]

theorem int32Tok_view (i : FireIn) (entry tag : Nat) {v : Nat} (hv : v < 2 ^ 32) (pz : Bool) :
    plainView (int32Tok i entry tag v pz) = (entry, v, (scalarHdr .int32 tag).plain) := by
  rw [int32Tok, Nat.mod_eq_of_lt hv, emit_view]

/-! ### Slot states -/

/-- A slot state of a count, a fault index and a poison bit (R108). -/
def countState (pz : Bool) (fx n : Nat) : Nat := b2n pz * 2 ^ 63 + (if pz then fx % 2 ^ 16 else 0) * 2 ^ 32 + n

theorem bit_top (b : Bool) {x : Nat} (hx : x < 2 ^ 63) : bit (b2n b * 2 ^ 63 + x) 63 = b := by
  unfold bit
  rw [Nat.testBit_eq_decide_div_mod_eq, Nat.add_comm, Nat.add_mul_div_right _ _ (by decide), Nat.div_eq_of_lt hx]
  cases b <;> rfl

section
variable (pz : Bool) (fx : Nat) {n : Nat} (hn : n < 2 ^ 32)
include hn

theorem countState_count : countState pz fx n % 2 ^ 32 = n := by
  unfold countState
  omega

theorem countState_poison : bit (countState pz fx n) 63 = pz := by
  unfold countState
  rw [Nat.add_assoc]
  refine bit_top pz ?_
  split <;> omega

theorem countState_fidx : bits (countState pz fx n) 47 32 = if pz then fx % 2 ^ 16 else 0 := by
  unfold countState bits
  rw [Nat.shiftRight_eq_div_pow]
  cases pz with
  | false => simp only [b2n, Bool.false_eq_true, if_false]; omega
  | true => simp only [b2n, if_true]; omega

end

/-- A count keeps the fault index that its slot state holds already, or the first one of its operands. -/
theorem keptFidx_eq (st : Nat) {pz : Bool} {x y : Nat} (h : pz = true → x = y) :
    (if (bit st 63 || pz) = true then (if bit st 63 = true then bits st 47 32 else x) % 2 ^ 16 else 0) =
      if bit st 63 = true then bits st 47 32 else if pz then y % 2 ^ 16 else 0 := by
  cases hw : bit st 63 with
  | true => exact Nat.mod_eq_of_lt (Nat.mod_lt _ (by decide))
  | false =>
    cases pz with
    | false => rfl
    | true => rw [h rfl]; rfl

theorem countFidx_congr (was : Bool) {pz : Bool} (k : Nat) {x y : Nat} (h : pz = true → x = y) :
    (if (was || pz) = true then if was = true then k else x else 0) = if (was || pz) = true then if was = true then k else y else 0 := by
  cases was with
  | true => rfl
  | false =>
    cases pz with
    | false => rfl
    | true => rw [h rfl]

theorem reached_iff {bound n : Nat} : (decide (bound ≠ 0) && decide (n = bound)) = true ↔ bound ≠ 0 ∧ n = bound := by
  rw [Bool.and_eq_true, decide_eq_true_eq, decide_eq_true_eq]

/-! ### The operations one by one -/

section
variable {s : State} {f : Focus} (w : OpWord) (h : Chosen s f)
include h

/-- `ctxnew` makes a tag of the next copy of its body (R100). -/
theorem ctxnew_issues {x : BodySt}
    (hx : ((getRegion s (rgnOf f.loc)).bodies.find? fun (x : BodySt) => x.desc.num == w.imm12 / 32 % 64) = some x) :
    let e := (getElem s f.loc).ahead
    let a := operandAt (getRegion s (rgnOf f.loc)) e w f.slot f.tag 0
    let u := mkTag x.desc.num (x.alloc % x.desc.k) 0
    Issues (.opCtxnew w) s f fun t F =>
      F.sent = toEntry e w.dest.toNat { a.hdr with tag := u } a.payload ++
        toEntry e (w.imm12 % 32) (scalarHdr .int32 u) (f.tag % 2 ^ 32) ∧
      ∀ y ∈ (getRegion t (rgnOf f.loc)).bodies, y.desc.num = x.desc.num →
        ∃ z ∈ (getRegion s (rgnOf f.loc)).bodies, z.desc = y.desc ∧ y.alloc = z.alloc + 1 := by
  have hnum : x.desc.num = w.imm12 / 32 % 64 := by simpa using List.find?_some hx
  refine issues_go h rfl fun t F hF => ⟨?_, fun y hy hyn => ?_⟩
  · have hx' : ((gather s f w 0x04).g.bodies.find? fun (x : BodySt) => x.desc.num == (gather s f w 0x04).w.imm12 / 32 % 64) = some x := hx
    rw [hF.sent_eq _ rfl, toEntry_ahead, toEntry_ahead]
    simp only [hx', List.map_cons, List.map_nil, forward_view, gather_a s f w (opc := 4) (by decide), int32Tok, emit_view,
      List.flatMap_cons, List.flatMap_nil, List.append_nil, hnum]
    rfl
  · rw [hF.bodies] at hy
    obtain ⟨z, hz, rfl⟩ := List.mem_map.1 hy
    refine ⟨z, hz, ?_⟩
    dsimp only at hyn ⊢
    split at hyn
    · next hb => rw [if_pos hb]; exact ⟨rfl, rfl⟩
    · next hb => exact absurd (hyn.trans hnum) hb

/-- Of a `ctxnew` the data token is marked as its operands are, and the link token never. -/
theorem ctxnew_marks (hb : (getElem s f.loc).ahead.badWords = []) :
    let e := (getElem s f.loc).ahead
    Issues (.opCtxnew w) s f fun _ F => F.outs.map OutTok.mark =
      (destChans e w.dest.toNat).map (fun c => (c, candPoison s f w, if candPoison s f w then candFidx s f w else 0)) ++
        (destChans e (w.imm12 % 32)).map fun c => (c, false, 0) := by
  refine issues_go h rfl fun t F hF => ?_
  rw [hF.marks hb rfl]
  simp only [List.flatMap_cons, List.flatMap_nil, List.append_nil, FireIn.forward, int32Tok, mark_cand s f w (opc := 4) (by decide),
    emit_mark, destChans, ahead_cfg]
  rfl

section
variable {st bound count : Nat} (hst : nth (getElem s f.loc).ahead.states f.slot 0 = st)
  (hbound : (if w.imm12 ≠ 0 then w.imm12 else nth (getElem s f.loc).ahead.consts f.slot 0 % 2 ^ 32) = bound)
  (hcount : (st % 2 ^ 32 + 1) % 2 ^ 32 = count)
include hst hbound hcount

/-- At its bound `cnt` sends the count and clears its slot state (R108). -/
theorem cnt_sends (h0 : bound ≠ 0) (he : count = bound) : Issues (.opCnt w) s f fun _ F =>
    F.sent = toEntry (getElem s f.loc).ahead w.dest.toNat (scalarHdr .int32 (outTag w f.tag)) count ∧ F.st = some 0 := by
  subst hst hbound hcount
  refine issues_of (opc := 0x0A) _ h rfl (congrArg FireRes.go (if_pos (reached_iff.2 ⟨h0, he⟩))) fun t F hF => ⟨?_, hF.st⟩
  rw [toEntry_ahead]
  exact hF.sent_one _ _ _ (congrArg (· :: []) (int32Tok_view _ _ _ (Nat.mod_lt _ (by decide)) _))

/-- Below its bound `cnt` keeps the count, and the first fault index that it met, in its slot state. -/
theorem cnt_counts (hne : bound = 0 ∨ count ≠ bound) : Issues (.opCnt w) s f fun _ F =>
    F.sent = [] ∧ ∃ v, F.st = some v ∧ v % 2 ^ 32 = count ∧ bit v 63 = (bit st 63 || candPoison s f w) ∧
      bits v 47 32 = if bit st 63 = true then bits st 47 32 else if candPoison s f w then candFidx s f w % 2 ^ 16 else 0 := by
  subst hst hbound hcount
  refine issues_of (opc := 0x0A) _ h rfl (congrArg FireRes.go (if_neg (mt reached_iff.1 fun hr => hne.elim hr.1 (absurd hr.2))))
    fun t F hF => ⟨hF.sent_eq _ rfl, _, hF.st, ?_, ?_, ?_⟩
  · exact countState_count _ _ (Nat.mod_lt _ (by decide))
  · refine (countState_poison _ _ (Nat.mod_lt _ (by decide))).trans ?_
    rw [gather_poison s f w (by decide)]
    rfl
  · refine (countState_fidx _ _ (Nat.mod_lt _ (by decide))).trans ?_
    rw [gather_poison s f w (by decide)]
    exact keptFidx_eq _ (gather_fidx s f w (by decide))

/-- The count that `cnt` sends at its bound is poisoned by its slot state or by its operands. -/
theorem cnt_marks (hb : (getElem s f.loc).ahead.badWords = []) (h0 : bound ≠ 0) (he : count = bound) :
    Marks (.opCnt w) s f (bit st 63 || candPoison s f w) (if bit st 63 = true then bits st 47 32 else candFidx s f w) := by
  subst hst hbound hcount
  refine marks_of (opc := 0x0A) _ h hb rfl (congrArg FireRes.go (if_pos (reached_iff.2 ⟨h0, he⟩))) rfl rfl ?_
  have hp := gather_poison s f w (opc := 0x0A) (by decide)
  refine Prod.ext ((withSeq_poison _ _).trans (congrArg (bit _ 63 || ·) hp)) ?_
  show (if (bit _ 63 || (gather s f w 0x0A).poison) = true then _ else _) = _
  rw [hp]
  exact countFidx_congr _ _ (gather_fidx s f w (opc := 0x0A) (by decide))

end

/-- `sink` counts a data token in the low bits of its slot state, and records a poisoned one (R109). -/
theorem sink_counts {a : Opd} {st : Nat} (ha : operandAt (getRegion s (rgnOf f.loc)) (getElem s f.loc).ahead w f.slot f.tag 0 = a)
    (hst : nth (getElem s f.loc).ahead.states f.slot 0 = st) (hk : a.hdr.kind = 0) : Issues (.opSink w) s f fun _ F =>
      F.sent = [] ∧ (∃ v, F.st = some v ∧ v % 2 ^ 63 = (st + 1) % 2 ^ 63 ∧ bit v 63 = bit st 63) ∧
      (a.poison = true → ∃ x ∈ F.recs, x.cause = 0x23 ∧ x.slot = f.slot ∧ x.tag = f.tag ∧ x.fidx = a.hdr.fidx) := by
  subst hst
  have hga : (gather s f w 0x0C).a = a := by rw [gather_a s f w (by decide), ha]
  refine issues_of (opc := 0x0C) _ h rfl (congrArg FireRes.go (if_pos (by rw [hga, hk])))
    fun t F hF => ⟨hF.sent_eq _ rfl, ⟨_, hF.st, ?_, bit_top _ (Nat.mod_lt _ (by decide))⟩, fun hp => ?_⟩
  · rw [Nat.mul_add_mod_self_right, Nat.mod_mod]
    rfl
  · have hr := hF.recs
    rw [show (gather s f w 0x0C).a.poison = true by rw [hga, hp], if_pos rfl] at hr
    exact ⟨_, hr _ List.mem_cons_self, rfl, rfl, rfl, by rw [hga]⟩

end

end Sys2Proof.Machine

open Sys2Proof Sys2Proof.Machine

/-- Settles O27: each operation's tokens, marks and slot state are those of its firing. -/
theorem madeTokens : Obligations.MadeTokens := by
  unfold Obligations.MadeTokens
  intro s f w h e g a T d st pz fx quiet count bound
  have plain {i : Instr} {opc : Nat} {m : FireIn → FireOut} (win : List WinMsg) (he : exec i s = .next (fireGo s w opc m))
      (ho : (m (gather s f w opc)).outs = []) (hw : (m (gather s f w opc)).win = win) : quiet i win :=
    issues_go h he fun t F hF => ⟨hF.sent_eq _ (congrArg _ ho), hF.win.trans hw⟩
  refine ⟨fun x hx => ctxnew_issues w h hx, ?_, fun h0 hc => cnt_sends w h rfl rfl rfl h0 hc,
    fun hc => cnt_counts w h rfl rfl rfl hc, fun hb => ⟨fun h0 hc => cnt_marks w h rfl rfl rfl hb h0 hc, ?_, ?_, ?_, ?_⟩,
    ?_, fun hk => sink_counts w h rfl rfl hk, ?_, plain _ rfl rfl rfl, plain _ rfl rfl rfl, fun hp => ?_⟩
  · exact sends_go h rfl (congrArg (fun x => [(d, 0, x)]) (withSeq_plain _ _))
  · exact marks_of (opc := 0x0B) _ h hb rfl rfl rfl rfl (mark_cand s f w (by decide) _ _ _)
  · exact marks_of (opc := 0x0F) _ h hb rfl rfl rfl rfl (mark_cand s f w (by decide) _ _ _)
  · exact marks_of (opc := 0x09) _ h hb rfl rfl rfl rfl (Prod.ext (withSeq_poison _ _) (withSeq_fidx _ _))
  · exact ctxnew_marks w h hb
  · exact sends_go (opc := 0x0B) h rfl (congrArg (· :: []) (emit_view _ _ _ _ _))
  · exact sends_go (opc := 0x0F) h rfl (congrArg (· :: []) (emit_view _ _ _ _ _))
  · have hpass : (gather s f w 0x10).passed = true := beq_iff_eq.2 hp
    exact issues_of (opc := 0x10) _ h rfl (if_pos hpass) fun t F hF => ⟨hF.sent_eq _ rfl, hF.win⟩

end

section
/-! SUPPORT. The local forms of `ld` and `st` (spec/02: R50; spec/08: R190, R193, R196). -/

namespace Sys2Proof.Machine

/-! ### Loads -/

/-- The header of what a local load sends (R193). -/
def localHdr (w : OpWord) (fm : Fmt) (k T : Nat) : Hdr :=
  match w.shape with
  | 3 => tileHdr fm T (bits k 5 0) (bits k 13 6) (bits k 5 0) (bits k 13 6) 0xFFFF
  | 2 => vectorHdr fm T 1
  | _ => scalarHdr fm T

/-- The firing of a local load that its legs allow. -/
def loadFire (i : FireIn) (legs : List (Nat × Nat)) : FireOut :=
  let h := localHdr i.w i.fmt i.const (outTag i.w i.tag)
  { outs := [i.emit i.dest h (readLegs i.e legs % 2 ^ (8 * payloadBytes h)) i.poison], reads := legs,
    lat := (localTime i legs).1, occ := (localTime i legs).2 }

/-- What a local load does by its legs. -/
def loadRes (i : FireIn) : FireRes :=
  match localLegs i with
  | none => localBounds i
  | some legs => .go (loadFire i legs)

theorem exec_ldLoc (w : OpWord) (s : State) : exec (.opLdLoc w) s = .next (fire s w 0xA0 loadRes) := rfl

theorem loadRes_bounds {i : FireIn} (hl : localLegs i = none) : loadRes i = .stop { cause := 0x13, addr := i.a.low32 } := by
  unfold loadRes
  rw [hl]
  rfl

theorem loadRes_go {i : FireIn} {legs : List (Nat × Nat)} (hl : localLegs i = some legs) : loadRes i = .go (loadFire i legs) := by
  unfold loadRes
  rw [hl]

/-! ### Stores -/

/-- A stored tile has the shape that the constant names, or is a slot constant that fills it. -/
def storeFits (w : OpWord) (b : Opd) (k : Nat) : Prop :=
  w.shape = 3 → (b.tok = none ∧ b.pad ≠ none) ∨ (b.hdr.trows = bits k 5 0 ∧ b.hdr.tcols = bits k 13 6)

/-- The firing of a local store that its legs allow. -/
def storeFire (i : FireIn) (legs : List (Nat × Nat)) : FireOut :=
  if i.poison then
    { outs := [i.ack 3], recs := [{ cause := 0x23, tag := i.tag, slot := i.slot, fidx := i.fidx }],
      lat := (localTime i legs).1, occ := (localTime i legs).2 }
  else { outs := [i.ack 0], scratch := localWrites i legs, lat := (localTime i legs).1, occ := (localTime i legs).2 }

theorem storeFire_clean {i : FireIn} {legs : List (Nat × Nat)} (h : i.poison = false) : storeFire i legs =
    { outs := [i.ack 0], scratch := localWrites i legs, lat := (localTime i legs).1, occ := (localTime i legs).2 } :=
  if_neg (ne_true_of_eq_false h)

theorem storeFire_poisoned {i : FireIn} {legs : List (Nat × Nat)} (h : i.poison = true) : storeFire i legs =
    { outs := [i.ack 3], recs := [{ cause := 0x23, tag := i.tag, slot := i.slot, fidx := i.fidx }],
      lat := (localTime i legs).1, occ := (localTime i legs).2 } :=
  if_pos h

/-- What a local store does by its shape, its legs and its poison. -/
def storeRes (i : FireIn) : FireRes :=
  if i.w.shape = 3 && i.fillB.isNone && !(i.b.hdr.trows == bits i.const 5 0 && i.b.hdr.tcols == bits i.const 13 6) then formatEdge
  else match localLegs i with
    | none => localBounds i
    | some legs => .go (storeFire i legs)

theorem exec_stLoc (w : OpWord) (s : State) : exec (.opStLoc w) s = .next (fire s w 0xA1 storeRes) := by
  refine congrArg Host.Outcome.next (congrArg (fire s w 0xA1) (funext fun i => ?_))
  unfold storeRes storeFire
  cases i.poison <;> rfl

theorem fillB_isNone (i : FireIn) : i.fillB.isNone = true ↔ ¬(i.b.tok = none ∧ i.b.pad ≠ none) := by
  unfold FireIn.fillB
  cases i.b.tok <;> cases i.b.pad <;> simp

theorem storeFits_iff (i : FireIn) : storeFits i.w i.b i.const ↔
    ¬(i.w.shape = 3 && i.fillB.isNone && !(i.b.hdr.trows == bits i.const 5 0 && i.b.hdr.tcols == bits i.const 13 6)) = true := by
  simp only [storeFits, Bool.and_eq_true, decide_eq_true_eq, fillB_isNone, Bool.not_eq_true', Bool.and_eq_false_iff, beq_eq_false_iff_ne]
  tauto

section
variable {i : FireIn}

theorem storeRes_misfit (h : ¬storeFits i.w i.b i.const) : storeRes i = .stop { cause := 0x02 } :=
  if_pos (not_not.1 (mt (storeFits_iff i).2 h))

variable (h : storeFits i.w i.b i.const)
include h

theorem storeRes_bounds (hl : localLegs i = none) : storeRes i = .stop { cause := 0x13, addr := i.a.low32 } := by
  unfold storeRes
  rw [if_neg ((storeFits_iff i).1 h), hl]
  rfl

theorem storeRes_go {legs : List (Nat × Nat)} (hl : localLegs i = some legs) : storeRes i = .go (storeFire i legs) := by
  unfold storeRes
  rw [if_neg ((storeFits_iff i).1 h), hl]

end

/-- An ack names its tag and STAT, and carries no payload (R190, R191). -/
theorem ack_view (i : FireIn) (n : Nat) : plainView (i.ack n) = (i.dest, 0, { tag := outTag i.w i.tag, kind := 2, stat := n : Hdr }.plain) :=
  congrArg (fun h => (i.dest, 0, h)) (withSeq_plain _ _)

theorem bigTok_ack (i : FireIn) (n : Nat) : bigTok (i.ack n).2 = false := by
  unfold FireIn.ack bigTok withSeq
  dsimp only
  split <;> rfl

/-! ### Legs -/

/-- The legs of a local form at scratchpad byte x, below byte top, with legs q bytes apart, elements of es bytes and n bytes in all. -/
def legsOf (mod x top q es n : Nat) : Option (List (Nat × Nat)) :=
  let legs := if mod = 2 then [(x, n)] else if mod = 3 then [(x, 256), (x + q, 256)] else (List.range 4).map fun k => (x + k * q, 128)
  let k := if mod = 3 then 2 else 4
  let aligned := x % es == 0 && (mod == 2 || (x % (k * q) == 0 && x % (512 / k) == 0))
  if aligned && n ≤ 4096 && (mod == 2 || n == 512) && legs.all fun g => g.1 + g.2 ≤ top then some legs else none

/-- The bytes of a local form. -/
def legBytes (i : FireIn) : Nat :=
  match i.w.shape with | 2 => 128 | 3 => bits i.const 5 0 * bits i.const 13 6 * (i.fmt.width / 8) | _ => i.fmt.width / 8

theorem localLegs_eq (i : FireIn) : localLegs i = legsOf i.w.mod.toNat (4096 * i.e.cfg.resbase + i.a.low32)
    (4096 * (i.e.cfg.resbase + i.e.cfg.ressize)) (2 ^ bits i.const 18 14) (i.fmt.width / 8) (legBytes i) := rfl

theorem legBytes_eq (i : FireIn) : legBytes i = if i.w.shape = 2 then 128
    else if i.w.shape = 3 then bits i.const 5 0 * bits i.const 13 6 * (i.fmt.width / 8) else i.fmt.width / 8 := by
  unfold legBytes
  split
  · next h => rw [if_pos h]
  · next h => rw [if_neg (by rw [h]; decide), if_pos h]
  · next h2 h3 => rw [if_neg h2, if_neg h3]

section
variable (x top q es n : Nat)

/-- The single leg of `.loc`. -/
theorem legsOf_loc : legsOf 2 x top q es n = if x % es = 0 ∧ n ≤ 4096 ∧ x + n ≤ top then some [(x, n)] else none := by
  unfold legsOf
  refine if_congr ?_ rfl rfl
  simp [and_assoc]

/-- The two legs of `.bf2`. -/
theorem legsOf_bf2 : legsOf 3 x top q es n =
    if x % es = 0 ∧ n = 512 ∧ x % (2 * q) = 0 ∧ x % 256 = 0 ∧ x + q + 256 ≤ top then some [(x, 256), (x + q, 256)] else none := by
  unfold legsOf
  refine if_congr ?_ rfl rfl
  simp only [Bool.and_eq_true, Bool.or_eq_true, beq_iff_eq, decide_eq_true_eq, List.all_eq_true, Nat.reduceEqDiff, false_or, if_false,
    if_true, List.forall_mem_cons]
  constructor
  · rintro ⟨⟨⟨⟨hes, hq, hx⟩, -⟩, hn⟩, -, htop, -⟩
    exact ⟨hes, hn, hq, hx, htop⟩
  · rintro ⟨hes, hn, hq, hx, htop⟩
    exact ⟨⟨⟨⟨hes, hq, hx⟩, by omega⟩, hn⟩, by omega, htop, by simp⟩

/-- The four legs of `.bf4`. -/
theorem legsOf_bf4 : legsOf 4 x top q es n =
    if x % es = 0 ∧ n = 512 ∧ x % (4 * q) = 0 ∧ x % 128 = 0 ∧ x + 3 * q + 128 ≤ top
      then some [(x, 128), (x + q, 128), (x + 2 * q, 128), (x + 3 * q, 128)] else none := by
  have hlegs : (List.range 4).map (fun k => (x + k * q, 128)) = [(x, 128), (x + q, 128), (x + 2 * q, 128), (x + 3 * q, 128)] := by
    simp [List.range_succ]
  unfold legsOf
  simp only [Nat.reduceEqDiff, if_false, hlegs]
  refine if_congr ?_ rfl rfl
  simp only [Bool.and_eq_true, Bool.or_eq_true, beq_iff_eq, decide_eq_true_eq, List.all_eq_true, Nat.reduceEqDiff, false_or,
    List.forall_mem_cons]
  constructor
  · rintro ⟨⟨⟨⟨hes, hq, hx⟩, -⟩, hn⟩, -, -, -, htop, -⟩
    exact ⟨hes, hn, hq, hx, htop⟩
  · rintro ⟨hes, hn, hq, hx, htop⟩
    exact ⟨⟨⟨⟨hes, hq, hx⟩, by omega⟩, hn⟩, by omega, by omega, by omega, htop, by simp⟩

end

end Sys2Proof.Machine

open Sys2Proof Sys2Proof.Machine

/-- Settles O38: the legs by their alignment and bounds, and what a load and a store do with them. -/
theorem localMemory : Obligations.LocalMemory := by
  unfold Obligations.LocalMemory
  intro s f w hc e g fm T k off b ld st ack h
  have hla : ld.a = operandAt g e w f.slot f.tag 0 := gather_a s f w (by decide)
  have hsa : st.a = operandAt g e w f.slot f.tag 0 := gather_a s f w (by decide)
  have hsb : st.b = b := gather_b s f w (by decide)
  have hfits : (w.shape = 3 → (b.tok = none ∧ b.pad ≠ none) ∨ (b.hdr.trows = bits k 5 0 ∧ b.hdr.tcols = bits k 13 6)) ↔
      storeFits st.w st.b st.const := by rw [hsb]; rfl
  refine ⟨fun legs hl => ?_, fun hl => ?_, ?_, ?_⟩
  · refine issues_of _ hc (exec_ldLoc w s) (loadRes_go hl) fun t F hF => ?_
    rw [toEntry_ahead]
    exact hF.sent_one _ _ _ (congrArg (· :: []) (emit_view _ _ _ _ _))
  · exact stops_data hc.focus hc.part (exec_ldLoc w s) hc.mode ((loadRes_bounds hl).trans (by rw [hla]))
  · intro fits
    refine ⟨fun hf legs hl => ⟨fun hp => ?_, fun hp => ?_⟩, fun hf hl => ?_, fun hf => ?_⟩
    · refine issues_of _ hc (exec_stLoc w s) ((storeRes_go (hfits.1 hf) hl).trans (congrArg FireRes.go (storeFire_clean hp))) fun t F hF => ⟨?_, ?_⟩
      · rw [toEntry_ahead]
        exact hF.sent_one _ _ _ (congrArg (· :: []) (ack_view _ _))
      · exact hF.scratch fun p hp => by rw [List.mem_singleton.1 hp]; exact bigTok_ack _ _
    · refine issues_of _ hc (exec_stLoc w s) ((storeRes_go (hfits.1 hf) hl).trans (congrArg FireRes.go (storeFire_poisoned hp))) fun t F hF =>
        ⟨?_, ?_, _, hF.recs _ List.mem_cons_self, rfl, rfl, rfl⟩
      · rw [toEntry_ahead]
        exact hF.sent_one _ _ _ (congrArg (· :: []) (ack_view _ _))
      · exact hF.scratch fun p hp => by rw [List.mem_singleton.1 hp]; exact bigTok_ack _ _
    · exact stops_data hc.focus hc.part (exec_stLoc w s) hc.mode ((storeRes_bounds (hfits.1 hf) hl).trans (by rw [hsa]))
    · exact stops_data hc.focus hc.part (exec_stLoc w s) hc.mode (storeRes_misfit (mt hfits.2 hf))
  · intro es x top q size
    have legs {i : FireIn} {m n : Nat} (hm : w.mod.toNat = m)
        (hn : (if w.shape = 2 then 128 else if w.shape = 3 then size else es) = n) (hi : i ∈ [ld, st]) :
        localLegs i = legsOf m x top q es n := by
      subst hm hn
      rw [localLegs_eq, legBytes_eq]
      simp only [List.mem_cons, List.not_mem_nil, or_false] at hi
      rcases hi with rfl | rfl
      · rw [hla]; rfl
      · rw [hsa]; rfl
    have hsize (hw : w.shape = 3) : (if w.shape = 2 then 128 else if w.shape = 3 then size else es) = size := by
      rw [if_neg (by rw [hw]; decide), if_pos hw]
    refine ⟨fun hm i hi => ?_, fun hw i hi => ⟨fun hm => ?_, fun hm => ?_⟩⟩
    · exact (legs (m := 2) (by rw [hm]; rfl) rfl hi).trans (legsOf_loc _ _ _ _ _)
    · exact (legs (m := 3) (by rw [hm]; rfl) (hsize hw) hi).trans (legsOf_bf2 _ _ _ _ _)
    · exact (legs (m := 4) (by rw [hm]; rfl) (hsize hw) hi).trans (legsOf_bf4 _ _ _ _ _)

end

section
/-! SUPPORT. What the events of one region leave alone: memory, the links, other regions, and the kettle cores but their event
bits (spec/09: R232; spec/14: R325, R328; spec/20: R396). -/

namespace Sys2Proof.Machine

theorem Local.refl (s : State) (r : Rgn) : Local s s r := ⟨rfl, ⟨rfl, rfl⟩, rfl, fun _ _ => rfl, fun _ => rfl⟩

theorem Local.trans {a b c : State} {r : Rgn} (h : Local a b r) (k : Local b c r) : Local a c r where
  hbm := k.hbm.trans h.hbm
  host := ⟨k.host.1.trans h.host.1, k.host.2.trans h.host.2⟩
  lanes := k.lanes.trans h.lanes
  regions q hq := (k.regions q hq).trans (h.regions q hq)
  cores n := by rw [k.cores n, h.cores n]

theorem RegionOnly.isLocal {s t : State} {r : Rgn} (h : RegionOnly s t r) : Local s t r where
  hbm := by rw [h.rest]
  host := ⟨by rw [h.rest], by rw [h.rest]⟩
  lanes := by rw [h.rest]
  regions := h.regions
  cores k := by rw [show t.cores = s.cores by rw [h.rest]]

theorem setRegion_local (s : State) (r : Rgn) (x : Region) : Local s (setRegion s r x) r := (setRegion_only s r x).isLocal

theorem modRegion_local (s : State) (r : Rgn) (f : Region → Region) : Local s (modRegion s r f) r := (modRegion_only s r f).isLocal

theorem modElem_local (s : State) (l : Loc) (f : Elem → Elem) : Local s (modElem s l f) (rgnOf l) := (modElem_only s l f).isLocal

theorem busy_local (s : State) (r : Rgn) : Local s (busy s r) r := modRegion_local _ _ _

theorem postRegion_local (s : State) (p h : Nat) (r : Rgn) : Local s (postRegion s p h) r where
  hbm := rfl
  host := ⟨rfl, rfl⟩
  lanes := rfl
  regions _ _ := rfl
  cores k := by
    unfold postRegion
    simp only [Fin.getElem_fin, Vector.getElem_mapFinIdx]
    split <;> rfl

theorem putRec_local (s : State) (r : Rgn) (x : FRec) : Local s (putRec s r x) r := by
  unfold putRec
  dsimp only
  split
  · exact (setRegion_local _ _ _).trans (postRegion_local _ _ _ _)
  · split
    · exact setRegion_local _ _ _
    · exact (setRegion_local _ _ _).trans (postRegion_local _ _ _ _)

theorem putRecs_local (s : State) (r : Rgn) (xs : List FRec) : Local s (putRecs s r xs) r := by
  induction xs generalizing s with
  | nil => exact Local.refl _ _
  | cons x xs ih => exact (putRec_local s r x).trans (ih _)

theorem putRec_clk (s : State) (r : Rgn) (x : FRec) : (putRec s r x).clk = s.clk := by
  unfold putRec
  dsimp only
  split
  · exact setRegion_clk ..
  · split <;> exact setRegion_clk ..

theorem putRecs_clk (s : State) (r : Rgn) (xs : List FRec) : (putRecs s r xs).clk = s.clk := by
  induction xs generalizing s with
  | nil => rfl
  | cons x xs ih => exact (ih _).trans (putRec_clk s r x)

/-- Records change a region in its queue alone. -/
theorem putRecs_region {s : State} {r : Rgn} (hp : r.part < 16) (xs : List FRec) : ∃ q n,
    getRegion (putRecs s r xs) r = { getRegion s r with faultq := q, fltlost := n } := by
  induction xs generalizing s with
  | nil => exact ⟨_, _, rfl⟩
  | cons x xs ih =>
    obtain ⟨q, n, h, -⟩ := putRec_region (s := s) hp x
    obtain ⟨q', n', h'⟩ := ih (s := putRec s r x)
    exact ⟨q', n', h'.trans (by rw [h])⟩

theorem meetStop_local (s : State) (l : Loc) (x : FRec) (n : Nat) : Local s (meetStop s l x n) (rgnOf l) := by
  rw [meetStop_eq]
  split
  · exact modRegion_local _ _ _
  · exact (setRegion_local _ _ _).trans (putRec_local _ _ _)

/-! ### Taps -/

/-- A change of a partition that leaves its regions leaves every region. -/
theorem getRegion_modPart (s : State) (p : Nat) (f : Part → Part) (hf : ∀ x, (f x).regions = x.regions) (q : Rgn) :
    getRegion (modPart s p f) q = getRegion s q := by
  unfold getRegion
  by_cases hq : q.part = p
  · subst hq
    by_cases hp : q.part < 16
    · rw [modPart, getPart_setPart_same hp, hf]
    · rw [modPart, getPart_setPart_big hp]
  · rw [modPart, getPart_setPart_ne (Ne.symm hq)]

theorem modPart_local (s : State) (p : Nat) (f : Part → Part) (hf : ∀ x, (f x).regions = x.regions) (r : Rgn) :
    Local s (modPart s p f) r where
  hbm := modPart_hbm ..
  host := ⟨modPart_hostMem .., modPart_hostOut ..⟩
  lanes := modPart_lanes ..
  regions q _ := getRegion_modPart s p f hf q
  cores k := by rw [modPart_cores]

theorem tapSee_cases (s : State) (r : Rgn) (ch k : Nat) (tok : Token) :
    tapSee s r ch k tok = s ∨ ∃ f : Part → Part, (∀ x, (f x).regions = x.regions) ∧ tapSee s r ch k tok = modPart s r.part f := by
  unfold tapSee
  dsimp only
  split
  · exact .inl rfl
  · split
    · exact .inl rfl
    · refine .inr ⟨_, ?_, rfl⟩
      exact fun _ => rfl

theorem getRegion_tapSee (s : State) (r : Rgn) (ch k : Nat) (tok : Token) (q : Rgn) :
    getRegion (tapSee s r ch k tok) q = getRegion s q := by
  obtain h | ⟨f, hf, h⟩ := tapSee_cases s r ch k tok
  · rw [h]
  · rw [h]; exact getRegion_modPart s _ _ hf q

theorem tapSee_local (s : State) (r : Rgn) (ch k : Nat) (tok : Token) (q : Rgn) : Local s (tapSee s r ch k tok) q := by
  obtain h | ⟨f, hf, h⟩ := tapSee_cases s r ch k tok
  · rw [h]; exact Local.refl _ _
  · rw [h]; exact modPart_local s _ _ hf q

theorem tapEnter_cases (s : State) (r : Rgn) (ch : Nat) (tok : Token) :
    tapEnter s r ch tok = s ∨ tapEnter s r ch tok = tapSee s r ch 0 tok := by
  unfold tapEnter
  split
  · split
    · exact .inr rfl
    · exact .inl rfl
  · exact .inl rfl

theorem getRegion_tapEnter (s : State) (r : Rgn) (ch : Nat) (tok : Token) (q : Rgn) :
    getRegion (tapEnter s r ch tok) q = getRegion s q := by
  obtain h | h := tapEnter_cases s r ch tok
  · rw [h]
  · rw [h, getRegion_tapSee]

theorem tapEnter_local (s : State) (r : Rgn) (ch : Nat) (tok : Token) (q : Rgn) : Local s (tapEnter s r ch tok) q := by
  obtain h | h := tapEnter_cases s r ch tok
  · rw [h]; exact Local.refl _ _
  · rw [h]; exact tapSee_local ..

end Sys2Proof.Machine
end

section
/-! SUPPORT. A firing commits (spec/02: R44, R60; spec/08: R204). -/

namespace Sys2Proof.Machine

theorem nth_of_getElem? {α : Type} {l : List α} {k : Nat} {x : α} (h : l[k]? = some x) (d : α) : nth l k d = x := by
  unfold nth
  rw [List.getD_eq_getElem?_getD, h]
  rfl

theorem getElem_congr {s t : State} {l : Loc} (h : (getRegion t (rgnOf l)).elems = (getRegion s (rgnOf l)).elems) :
    getElem t l = getElem s l := by
  unfold getElem
  rw [h]

/-! ### What is written at a commit -/

/-- The banks that a firing's commit leaves. -/
def landBanks (f : Firing) (bs : List Bank) : List Bank := f.banks.foldl (fun bs q => modNth bs q.1 fun _ => q.2) bs

/-- The scratchpad that a firing's commit leaves. -/
def landScratch (f : Firing) (m : List Host.Cell) : List Host.Cell := f.scratch.foldl (fun m q => writeBytes m q.1 q.2.1 q.2.2) m

/-- The slot states that a firing's commit leaves. -/
def landStates (f : Firing) (st : List Nat) : List Nat :=
  match f.st with | some v => modNth st f.slot fun _ => v % 2 ^ 64 | none => st

theorem land_eq (f : Firing) (e : Elem) : ∃ bad, f.land e = { e with
    states := landStates f e.states, banks := landBanks f e.banks, scratch := landScratch f e.scratch, badWords := bad } := by
  have hb (l : List (Nat × Bank)) (e : Elem) : l.foldl (fun (e : Elem) p => { e with banks := modNth e.banks p.1 fun _ => p.2 }) e =
      { e with banks := l.foldl (fun bs q => modNth bs q.1 fun _ => q.2) e.banks } := by
    induction l generalizing e with
    | nil => rfl
    | cons p r ih => rw [List.foldl_cons, ih, List.foldl_cons]
  have hs (l : List (Nat × Nat × Nat)) (e : Elem) : ∃ bad, l.foldl (fun (e : Elem) p => e.wr p.1 p.2.1 p.2.2) e =
      { e with scratch := l.foldl (fun m q => writeBytes m q.1 q.2.1 q.2.2) e.scratch, badWords := bad } := by
    induction l generalizing e with
    | nil => exact ⟨_, rfl⟩
    | cons p r ih => exact ⟨_, (ih _).choose_spec⟩
  unfold Firing.land landStates
  cases f.st with
  | none => exact ⟨_, (hs f.scratch _).choose_spec.trans (by rw [hb]; rfl)⟩
  | some v => exact ⟨_, (hs f.scratch _).choose_spec.trans (by rw [hb]; rfl)⟩

/-- The tokens that a commit hands to injection. -/
def handed (f : Firing) (clk : Nat) : List InjTok :=
  f.outs.zipIdx.map fun (q : OutTok × Nat) =>
    { chan := q.1.chan, tok := q.1.tok, slot := f.slot, buf := if bigTok q.1.tok then f.bufs.head? else none, since := clk,
      owes := (f.outs.take q.2).any fun (x : OutTok) => x.chan == q.1.chan, ord := some f.ord }

theorem handed_toks (f : Firing) (clk : Nat) : ((handed f clk).map fun t => (t.chan, t.tok)) = f.outs.map fun o => (o.chan, o.tok) := by
  unfold handed
  rw [List.map_map]
  refine Eq.trans ?_ (congrArg (List.map fun o : OutTok => (o.chan, o.tok)) (List.zipIdx_map_fst 0 f.outs))
  rw [List.map_map]
  rfl

theorem handOuts_kept (f : Firing) (clk : Nat) (e : Elem) : Elem.Kept { e with inject := e.inject ++ handed f clk } (handOuts f clk e) := by
  have hfree (bs : List Nat) (e : Elem) : Elem.Kept e (bs.foldl (fun e b => freeLoc e (.pool b)) e) := by
    induction bs generalizing e with
    | nil => exact Elem.Kept.rfl' e
    | cons b bs ih => exact (freeLoc_kept e (.pool b)).trans (ih _)
  unfold handOuts
  dsimp only
  split
  · exact Elem.Kept.rfl' _
  · exact hfree _ _

/-- The gauges after changes by firings, behind the element's earlier firings of the clk. -/
def gaugesAfter (clk : Nat) (ops : List GaugeOp) (own : Option (Nat × List Gauge × List GaugeOp)) (gs : List Gauge) : List Gauge :=
  if ops = [] then gs
  else
    let q := match own with | some q => if q.1 = clk then q.2 else (gs, []) | none => (gs, [])
    applyGauges (q.2 ++ ops) q.1

theorem ownGauge_eq (clk : Nat) (ops : List GaugeOp) (e : Elem) : ∃ own, e.ownGauge clk ops =
    { e with gaugeOwn := own, gauges := gaugesAfter clk ops e.gaugeOwn e.gauges } := by
  unfold Elem.ownGauge gaugesAfter
  split <;> exact ⟨_, rfl⟩

theorem noteBanks_eq (f : Firing) (clk : Nat) (e : Elem) : ∃ d, noteBanks f clk e = { e with bankDone := d } := by
  unfold noteBanks
  split <;> exact ⟨_, rfl⟩

/-- What the commit of a firing makes of its element. -/
def commitTo (f : Firing) (clk k : Nat) (e : Elem) : Elem :=
  let e := noteBanks f clk (f.land e)
  let e := { e.ownGauge clk f.gauge with pending := e.pending.eraseIdx k, flags := e.flags ||| f.flags }
  let e := match f.access with
    | some a => { e with port := { e.port with accs := e.port.accs ++ [{ a with id := f.ord }] } }
    | none => e
  handOuts f clk e

/-- A port once a firing has passed its access on. -/
def passAccess (f : Firing) (p : Port) : Port :=
  match f.access with | some a => { p with accs := p.accs ++ [{ a with id := f.ord }] } | none => p

/-- The element's fields after a commit. -/
structure Committed (f : Firing) (clk k : Nat) (e e' : Elem) : Prop where
  pending : e'.pending = e.pending.eraseIdx k
  flags : e'.flags = e.flags ||| f.flags
  gauges : e'.gauges = gaugesAfter clk f.gauge e.gaugeOwn e.gauges
  states : e'.states = landStates f e.states
  banks : e'.banks = landBanks f e.banks
  scratch : e'.scratch = landScratch f e.scratch
  inject : e'.inject = e.inject ++ handed f clk
  port : e'.port = passAccess f e.port
  consts : e'.consts = e.consts

theorem commitTo_committed (f : Firing) (clk k : Nat) (e : Elem) : Committed f clk k e (commitTo f clk k e) := by
  obtain ⟨bad, hl⟩ := land_eq f e
  obtain ⟨done, hn⟩ := noteBanks_eq f clk (f.land e)
  rw [hl] at hn
  dsimp only at hn
  obtain ⟨own, hg⟩ := ownGauge_eq clk f.gauge (noteBanks f clk (f.land e))
  rw [hl, hn] at hg
  dsimp only at hg
  have hk : ∃ b, Elem.Kept b (commitTo f clk k e) ∧ Committed f clk k e b := by
    unfold commitTo
    dsimp only
    rw [hl, hn, hg]
    dsimp only
    cases ha : f.access with
    | none => exact ⟨_, handOuts_kept f clk _, rfl, rfl, rfl, rfl, rfl, rfl, rfl, by rw [passAccess, ha], rfl⟩
    | some a => exact ⟨_, handOuts_kept f clk _, rfl, rfl, rfl, rfl, rfl, rfl, rfl, by rw [passAccess, ha], rfl⟩
  obtain ⟨b, hk, hb⟩ := hk
  rw [hk.same]
  exact ⟨hb.pending, hb.flags, hb.gauges, hb.states, hb.banks, hb.scratch, hb.inject, hb.port, hb.consts⟩

/-! ### The commit itself -/

/-- The signal that a firing sends its region. -/
def signalled (f : Firing) (s : State) (r : Rgn) : State :=
  match f.signal with
  | some n => modRegion s r fun g => { g with signals := Nat.lor g.signals (2 ^ n) }
  | none => s

section
variable {s : State} {l : Loc} {k : Nat} {f : Firing} (hk : (getElem s l).pending[k]? = some f) (ho : f.origin = false) (hw : f.win = [])
include hk ho hw

/-- A firing in which no poison originates, and which sends no window message, commits. -/
theorem commit_eq : ∃ xs, commit s l k =
    busy (signalled f (modElem (putRecs s (rgnOf l) xs) l (commitTo f s.clk k)) (rgnOf l)) (rgnOf l) := by
  refine ⟨f.recs.map fun x => atElem s l x, ?_⟩
  have hn : nth (getElem s l).pending k f = f := nth_of_getElem? hk f
  unfold commit
  simp only [hk, ho, Bool.false_eq_true, if_false, hn, hw, List.foldl_nil, Bool.false_and, List.map_id', putRecs_clk]
  rfl

end

theorem getElem_busy {s : State} {l : Loc} (hp : l.part < 16) : getElem (busy s (rgnOf l)) l = getElem s l := getElem_modRegion hp rfl

theorem signalled_local (f : Firing) (s : State) (r : Rgn) : Local s (signalled f s r) r := by
  unfold signalled
  split
  · exact modRegion_local _ _ _
  · exact Local.refl _ _

/-- A signal sets its bit and leaves the rest of its region. -/
theorem getRegion_signalled (f : Firing) {s : State} {r : Rgn} (hp : r.part < 16) : ∃ n,
    getRegion (signalled f s r) r = { getRegion s r with signals := n } ∧ ∀ k, f.signal = some k → bit n k = true := by
  unfold signalled
  cases f.signal with
  | none => exact ⟨_, rfl, fun k hk => nomatch hk⟩
  | some k =>
    refine ⟨_, getRegion_modRegion_same hp, fun k' hk' => ?_⟩
    cases hk'
    show Nat.testBit (_ ||| 2 ^ k) k = true
    rw [Nat.testBit_or, Nat.testBit_two_pow_self, Bool.or_true]

/-- What a commit leaves: its element, its signal, and everything beyond its region. -/
theorem commit_done {s : State} {l : Loc} {k : Nat} {f : Firing} (hlive : Live s l) (hk : (getElem s l).pending[k]? = some f)
    (ho : f.origin = false) (hw : f.win = []) :
    let u := commit s l k
    Committed f s.clk k (getElem s l) (getElem u l) ∧ (∀ n, f.signal = some n → bit (getRegion u (rgnOf l)).signals n = true) ∧
      (getRegion u (rgnOf l)).origin = (getRegion s (rgnOf l)).origin ∧ Local s u (rgnOf l) := by
  intro u
  have hp : (rgnOf l).part < 16 := hlive.part
  obtain ⟨xs, hu⟩ := commit_eq hk ho hw
  obtain ⟨q, n, hq⟩ := putRecs_region (s := s) hp xs
  obtain ⟨sig, hsig, hbit⟩ := getRegion_signalled f (s := modElem (putRecs s (rgnOf l) xs) l (commitTo f s.clk k)) hp
  have hv : getElem (modElem (putRecs s (rgnOf l) xs) l (commitTo f s.clk k)) l = commitTo f s.clk k (getElem s l) := by
    have hs : getElem (putRecs s (rgnOf l) xs) l = getElem s l := getElem_congr (by rw [hq])
    rw [getElem_modElem_same hlive.part (by rw [hq]; exact hlive.elem), hs]
  have hr : getRegion u (rgnOf l) = { getRegion (modElem (putRecs s (rgnOf l) xs) l (commitTo f s.clk k)) (rgnOf l) with
      signals := sig, idleBase := (signalled f (modElem (putRecs s (rgnOf l) xs) l (commitTo f s.clk k)) (rgnOf l)).clk } := by
    rw [show u = _ from hu, busy, getRegion_modRegion_same hp, hsig]
  refine ⟨?_, fun m hm => ?_, ?_, ?_⟩
  · have he : getElem u l = getElem (modElem (putRecs s (rgnOf l) xs) l (commitTo f s.clk k)) l := getElem_congr (by rw [hr])
    rw [he, hv]
    exact commitTo_committed _ _ _ _
  · rw [hr]
    exact hbit m hm
  · rw [hr, modElem, getRegion_modRegion_same hp, hq]
  · rw [show u = _ from hu]
    exact (((putRecs_local _ _ _).trans (modElem_local _ _ _)).trans (signalled_local _ _ _)).trans (busy_local _ _)

theorem gaugesAfter_nil (clk : Nat) (own : Option (Nat × List Gauge × List GaugeOp)) (gs : List Gauge) : gaugesAfter clk [] own gs = gs := rfl

theorem gaugesAfter_first {clk : Nat} {own : Option (Nat × List Gauge × List GaugeOp)} (ops : List GaugeOp) (gs : List Gauge)
    (h : ∀ q, own = some q → q.1 ≠ clk) : gaugesAfter clk ops own gs = applyGauges ops gs := by
  unfold gaugesAfter
  split
  · next ho => rw [ho]; rfl
  · cases own with
    | none => rfl
    | some q => dsimp only; rw [if_neg (h q rfl)]; rfl

theorem gaugesAfter_later {clk : Nat} {ops : List GaugeOp} (done : List GaugeOp) (base gs : List Gauge) (h : ops ≠ []) :
    gaugesAfter clk ops (some (clk, base, done)) gs = applyGauges (done ++ ops) base := by
  unfold gaugesAfter
  rw [if_neg h]
  dsimp only
  rw [if_pos rfl]

end Sys2Proof.Machine
end

section
/-! SUPPORT. Tokens are injected and cross hops, acknowledgements return, and a `pwait` forwards (spec/02: R45, R57; spec/03: R77 to
R79; spec/08: R207; spec/12: R244). -/

namespace Sys2Proof.Machine

/-! ### Injection -/

/-- With no uncorrectable word injection reads its token as it is. -/
theorem injectBad_good {s : State} {l : Loc} (h : (getElem s l).badWords = []) (t : InjTok) : injectBad s l t = (s, t.tok) := by
  unfold injectBad
  cases t.buf with
  | none => rfl
  | some b =>
    rw [Option.bind_some, badRead_good _ h]

/-- The element once token k of its injector has left. -/
def injected (clk k : Nat) (t : InjTok) (e : Elem) : Elem :=
  let rest := e.inject.eraseIdx k
  let e := { e with inject := rest, injFree := clk + 1 }
  match t.buf with
  | some b => if rest.any fun (u : InjTok) => u.buf == some b then e else freeLater e b (clk + 1)
  | none => e

theorem injected_inject (clk k : Nat) (t : InjTok) (e : Elem) : (injected clk k t e).inject = e.inject.eraseIdx k := by
  unfold injected
  dsimp only
  split
  · split <;> rfl
  · rfl

theorem injected_pending (clk k : Nat) (t : InjTok) (e : Elem) : (injected clk k t e).pending = e.pending := by
  unfold injected
  dsimp only
  split
  · split <;> rfl
  · rfl

/-- The channel that a token enters (R57). -/
def entered (clk ch : Nat) (t : InjTok) (c : Chan) : Chan :=
  if c.num = ch then passOn clk { c with reserved := c.reserved + b2n t.owes } t.tok else c

section
variable {s : State} {l : Loc} {ch k : Nat} {t : InjTok} (hlive : Live s l) (hk : injectNext (getElem s l) ch = some k)
  (ht : (getElem s l).inject[k]? = some t) (hb : (getElem s l).badWords = [])
  (hclk : max (getElem s l).injFree t.since + beatsOf t.tok.hdr ≤ s.clk + 1)
  (howes : t.owes = true → ∀ c, ((getRegion s (rgnOf l)).chans.find? fun (c : Chan) => c.num == ch) = some c →
    c.outstanding + c.reserved < c.quota)
include hlive hk ht hb hclk howes

/-- A token whose beats have been sent is injected. -/
theorem injectToken_eq : injectToken s l ch = tapEnter (busy (modRegion (modElem s l (injected s.clk k t)) (rgnOf l)
    fun g => { g with chans := g.chans.map (entered s.clk ch t) }) (rgnOf l)) (rgnOf l) ch t.tok := by
  have hn : nth (getElem s l).inject k { chan := 0, tok := {} } = t := nth_of_getElem? ht _
  have hfull : (t.owes && match (getRegion s (rgnOf l)).chans.find? fun (c : Chan) => c.num == ch with
      | some c => decide (c.quota ≤ c.outstanding + c.reserved) | none => false) = false := by
    cases ho : t.owes with
    | false => rfl
    | true =>
      cases hc : (getRegion s (rgnOf l)).chans.find? fun (c : Chan) => c.num == ch with
      | none => rfl
      | some c => exact decide_eq_false (Nat.not_le.2 (howes ho c hc))
  have hgo : (!running (getRegion s (rgnOf l)) || decide (s.clk + 1 < max (getElem s l).injFree t.since + beatsOf t.tok.hdr)) = false := by
    rw [hlive.run]
    exact decide_eq_false (Nat.not_lt.2 hclk)
  unfold injectToken
  dsimp only
  rw [hk]
  dsimp only
  rw [hn, injectBad_good hb]
  refine (if_neg (ne_true_of_eq_false (Bool.or_eq_false_iff.2 ⟨hgo, hfull⟩))).trans ?_
  rw [modElem_clk]
  refine congrArg (fun go : Chan → Chan => tapEnter (busy (modRegion (modElem s l (injected s.clk k t)) (rgnOf l)
    fun g => { g with chans := g.chans.map go }) (rgnOf l)) (rgnOf l) ch t.tok) (funext fun c => ?_)
  unfold entered
  cases t.owes with
  | false => rw [ite_not]; rfl
  | true => rw [ite_not]; rfl

/-- What an injection leaves. -/
theorem injectToken_done : let u := injectToken s l ch
    (getRegion u (rgnOf l)).chans = (getRegion s (rgnOf l)).chans.map (entered s.clk ch t) ∧
      (getElem u l).inject = (getElem s l).inject.eraseIdx k ∧ (getElem u l).pending = (getElem s l).pending ∧ Local s u (rgnOf l) := by
  intro u
  have hp : (rgnOf l).part < 16 := hlive.part
  have hu : u = _ := injectToken_eq hlive hk ht hb hclk howes
  have hr : getRegion u (rgnOf l) = { getRegion (modElem s l (injected s.clk k t)) (rgnOf l) with
      chans := (getRegion s (rgnOf l)).chans.map (entered s.clk ch t), idleBase := s.clk } := by
    rw [hu, getRegion_tapEnter, busy, getRegion_modRegion_same hp, getRegion_modRegion_same hp, modRegion_clk, modElem_clk, modElem,
      getRegion_modRegion_same hp]
  have he : getElem u l = injected s.clk k t (getElem s l) := by
    have hs : getElem u l = getElem (modElem s l (injected s.clk k t)) l := getElem_congr (by rw [hr])
    rw [hs, getElem_modElem_same hlive.part hlive.elem]
  refine ⟨by rw [hr], by rw [he, injected_inject], by rw [he, injected_pending], ?_⟩
  rw [hu]
  exact (((modElem_local _ _ _).trans (modRegion_local _ _ _)).trans (busy_local _ _)).trans (tapEnter_local ..)

end

theorem withSeq_kind (g : Region) (h : Hdr) : (withSeq g h).kind = h.kind := by unfold withSeq; split <;> rfl

theorem injSend_eosDone (clk : Nat) {t : Token} (ht : t.hdr.kind = 1) (c : Chan) : (injSend clk t c).eosDone = true := by
  have hd : (c.eosDone || t.hdr.kind == 1) = true := by rw [ht]; exact Bool.or_true _
  unfold injSend launchTok
  split <;> exact hd

/-- The EOS of an `inj` channel leaves once quota allows (R244). -/
theorem sendEos_done {s : State} {r : Rgn} {ch : Nat} {c : Chan} (hp : r.part < 16) (hrun : running (getRegion s r) = true)
    (he : (getRegion s r).eosInj.contains ch = true)
    (hc : ((getRegion s r).chans.find? fun (c : Chan) => c.num == ch && c.src == .inj) = some c)
    (hq : c.reserved + c.outstanding < c.quota) : let u := sendEos s r ch
    (getRegion u r).eosInj = (getRegion s r).eosInj.filter (· ≠ ch) ∧ ∀ c' ∈ (getRegion u r).chans, c'.num = ch → c'.eosDone = true := by
  have hgo : (running (getRegion s r) && (getRegion s r).eosInj.contains ch && decide (c.reserved + c.outstanding < c.quota)) = true := by
    rw [hrun, he, decide_eq_true hq]
    rfl
  intro u
  have hu : u = sendEos s r ch := rfl
  unfold sendEos at hu
  dsimp only at hu
  rw [hc] at hu
  dsimp only at hu
  rw [if_pos hgo] at hu
  rw [hu, getRegion_tapEnter, busy, getRegion_modRegion_same hp, getRegion_setRegion_same hp]
  refine ⟨rfl, fun c' hc' hn => ?_⟩
  obtain ⟨d, -, rfl⟩ := List.mem_map.1 hc'
  by_cases hd : d.num = ch
  · rw [if_pos hd]
    exact injSend_eosDone _ (withSeq_kind _ _) _
  · rw [if_neg hd] at hn
    exact absurd hn hd

/-! ### Wheels -/

theorem useOutput_local (s : State) (ph : Nat × Nat × Nat) (o : Nat) (r : Rgn) : Local s (useOutput s ph o) r :=
  ⟨rfl, ⟨rfl, rfl⟩, rfl, fun _ _ => rfl, fun _ => rfl⟩

theorem useOutput_used (s : State) (ph : Nat × Nat × Nat) (o : Nat) : lookupKey (useOutput s ph o).wheelAt (ph, o) = some s.clk :=
  lookupKey_putKey_same _ _ _

theorem modChan_local (s : State) (r : Rgn) (ch : Nat) (f : Chan → Chan) : Local s (modChan s r ch f) r := modRegion_local _ _ _

theorem tapSee_wheelAt (s : State) (r : Rgn) (ch k : Nat) (tok : Token) : (tapSee s r ch k tok).wheelAt = s.wheelAt := by
  obtain h | ⟨f, -, h⟩ := tapSee_cases s r ch k tok
  · rw [h]
  · rw [h, modPart_wheelAt]

/-- Of a fold that keeps one of its two arguments, the result is one of the list. -/
theorem foldl_pick_mem {α : Type} {f : α → α → α} (hf : ∀ a c, f a c = a ∨ f a c = c) (l : List α) (m : α) : l.foldl f m ∈ m :: l := by
  induction l generalizing m with
  | nil => exact List.mem_cons_self
  | cons x xs ih =>
    rw [List.foldl_cons]
    rcases List.mem_cons.1 (ih (f m x)) with h | h
    · rw [h]
      rcases hf m x with h' | h' <;> rw [h'] <;> simp
    · exact List.mem_cons_of_mem _ (List.mem_cons_of_mem _ h)

/-- The beat that leaves an output is a waiting one. -/
theorem wheelPick_mem {s : State} {ph : Nat × Nat × Nat} {o : Nat} {q : Waiter} (h : wheelPick s ph o = some q) : q ∈ waiters s ph o := by
  unfold wheelPick at h
  dsimp only at h
  split at h
  · next x hx =>
    cases h
    split at hx
    · exact List.mem_of_find?_eq_some hx
    · cases hx
  · split at h
    · cases h
    · next m r hmr =>
      cases h
      have hm := foldl_pick_mem (f := fun (a c : Waiter) => if c.since < a.since then c else a) (fun a c => by split <;> simp) r m
      rw [← hmr] at hm
      exact List.mem_of_mem_filter hm

/-- Waiting beats are of the partitions that there are. -/
theorem waiters_part {s : State} {ph : Nat × Nat × Nat} {o : Nat} {q : Waiter} (h : q ∈ waiters s ph o) : q.rgn.part < 16 := by
  unfold waiters allRegions at h
  obtain ⟨x, hx, hq⟩ := List.mem_flatMap.1 h
  obtain ⟨p, hp, hx⟩ := List.mem_flatMap.1 (List.mem_of_mem_filter hx)
  obtain ⟨y, -, rfl⟩ := List.mem_map.1 hx
  obtain ⟨c, -, hc⟩ := List.mem_filterMap.1 hq
  obtain ⟨z, -, rfl⟩ := Option.map_eq_some_iff.1 hc
  exact List.mem_range.1 hp

section
variable {s : State} {r : Rgn} {x y o : Nat} (hrun : running (getRegion s r) = true)
  (hw : lookupKey s.wheelAt (physElem (getRegion s r).place x y, o) ≠ some s.clk)
include hrun hw

/-- A trace beat leaves an output. -/
theorem wheel_trace (ht : traceTakes s (physElem (getRegion s r).place x y) o = true) :
    exec (.evWheelSlot r x y o) s = .next (busy (useOutput s (physElem (getRegion s r).place x y) o) r) := by
  show execEvWheelSlot r x y o s = _
  unfold execEvWheelSlot
  dsimp only
  rw [if_neg (by rw [hrun]; simpa using hw), if_pos ht]

/-- A beat of a token leaves an output; a tap may see it. -/
theorem wheel_beat (ht : traceTakes s (physElem (getRegion s r).place x y) o = false) {q : Waiter}
    (hq : wheelPick s (physElem (getRegion s r).place x y) o = some q) :
    let v := busy (modChan (useOutput s (physElem (getRegion s r).place x y) o) q.rgn q.chan.num (beatOn s.clk q.tok)) q.rgn
    ∃ u, exec (.evWheelSlot r x y o) s = .next u ∧ (u = v ∨ ∃ k t, u = tapSee v q.rgn q.chan.num k t) := by
  intro v
  have he : exec (.evWheelSlot r x y o) s = .next (match q.chan.flights[q.tok]? with
      | some f => if f.sent = 0 then tapSee v q.rgn q.chan.num (f.hop + 1) f.tok else v
      | none => v) := by
    show execEvWheelSlot r x y o s = _
    unfold execEvWheelSlot
    dsimp only
    rw [if_neg (by rw [hrun]; simpa using hw), if_neg (ne_true_of_eq_false ht), hq] <;> rfl
  refine ⟨_, he, ?_⟩
  split
  · split
    · exact .inr ⟨_, _, rfl⟩
    · exact .inl rfl
  · exact .inl rfl

/-- What a token's beat leaves. -/
theorem wheel_beat_done (ht : traceTakes s (physElem (getRegion s r).place x y) o = false) {q : Waiter}
    (hq : wheelPick s (physElem (getRegion s r).place x y) o = some q) : Completes (.evWheelSlot r x y o) s fun u =>
      (getRegion u q.rgn).chans = (getRegion s q.rgn).chans.map (fun (d : Chan) => if d.num = q.chan.num then beatOn s.clk q.tok d else d) ∧
      (getRegion u q.rgn).elems = (getRegion s q.rgn).elems ∧
      lookupKey u.wheelAt (physElem (getRegion s r).place x y, o) = some s.clk ∧ Local s u q.rgn := by
  obtain ⟨u, he, hu⟩ := wheel_beat hrun hw ht hq
  have hp := waiters_part (wheelPick_mem hq)
  generalize hv : busy (modChan (useOutput s (physElem (getRegion s r).place x y) o) q.rgn q.chan.num (beatOn s.clk q.tok)) q.rgn = v at hu
  have hr : getRegion v q.rgn = { getRegion s q.rgn with
      chans := (getRegion s q.rgn).chans.map (fun (d : Chan) => if d.num = q.chan.num then beatOn s.clk q.tok d else d), idleBase := s.clk } := by
    subst hv
    rw [busy, getRegion_modRegion_same hp, modChan, getRegion_modRegion_same hp, modRegion_clk]
    rfl
  have hwheel : lookupKey v.wheelAt (physElem (getRegion s r).place x y, o) = some s.clk := by
    subst hv
    rw [busy, modRegion_wheelAt, modChan, modRegion_wheelAt, useOutput_used]
  have hlocal : Local s v q.rgn := by
    subst hv
    exact ((useOutput_local s _ o q.rgn).trans (modChan_local _ _ _ _)).trans (busy_local _ _)
  refine ⟨u, he, ?_⟩
  obtain rfl | ⟨k, t, rfl⟩ := hu
  · exact ⟨by rw [hr], by rw [hr], hwheel, hlocal⟩
  · refine ⟨by rw [getRegion_tapSee, hr], by rw [getRegion_tapSee, hr], ?_, hlocal.trans (tapSee_local ..)⟩
    rw [tapSee_wheelAt, hwheel]

end

end Sys2Proof.Machine
end

section
/-! SUPPORT. Acknowledgements and `pwait` (spec/02: R57; spec/03: R79; spec/08: R207; spec/14: R325). -/

namespace Sys2Proof.Machine

section
variable {s : State} {r : Rgn} {ch n : Nat} {c : Chan} {a : AckFlight} (hrun : running (getRegion s r) = true)
  (hc : chanOf (getRegion s r) ch = some c) (ha : c.acks[n]? = some a)
include hrun hc ha

/-- An acknowledgement at its sender returns its quota. -/
theorem ack_home (h0 : a.hops = 0) (hl : ∀ x, c.src ≠ .link x) : exec (.evAcknowledgement r ch n) s =
    .next (modChan s r ch fun d => { d with acks := d.acks.eraseIdx n, outstanding := d.outstanding - a.count }) := by
  show execEvAcknowledgement r ch n s = _
  unfold execEvAcknowledgement
  simp only [hc, ha, hrun, h0]
  cases hs : c.src with
  | link x => exact absurd hs (hl x)
  | _ => rfl

/-- The acknowledgements that wait at a hop cross it. -/
theorem ack_cross (h0 : a.hops ≠ 0) (ho : ownsSlot s (getRegion s r) c (a.hops - 1) = true) (hat : lookupKey c.ackAt a.hops ≠ some s.clk) :
    exec (.evAcknowledgement r ch n) s = .next (modChan s r ch (crossAcks s.clk a.hops)) := by
  have hgo : (ownsSlot s (getRegion s r) c (a.hops - 1) && lookupKey c.ackAt a.hops != some s.clk) = true := by
    rw [ho]
    simpa using hat
  show execEvAcknowledgement r ch n s = _
  unfold execEvAcknowledgement
  simp only [hc, ha, hrun]
  rw [if_neg (by decide), if_neg h0, if_pos hgo]

end

/-! ### `pwait` -/

theorem pwaitTest_ended {s : State} {p id : Nat} {x : LaunchEnt} (h : launchOf s p id = some x) (hx : x.st = 1 ∨ x.st = 2) :
    pwaitTest s p id = some (x.st == 2) := by
  unfold pwaitTest
  rw [h]
  dsimp only
  rcases hx with hx | hx <;> rw [hx] <;> rfl

/-- The element once access n has completed with a token. -/
def emitted (n : Nat) (a : Access) (h : Hdr) (v : Nat) (fl : Flags) (toks : List InjTok) (e : Elem) : Elem :=
  let e := landPayload e a.buffer h v
  let e := if a.dest = [] then (match a.buffer with | some b => freeLoc e (.pool b) | none => e) else e
  { e with inject := e.inject ++ toks, flags := e.flags ||| fl, port := { e.port with accs := e.port.accs.eraseIdx n } }

theorem emitted_done (n : Nat) (a : Access) (h : Hdr) (v : Nat) (fl : Flags) (toks : List InjTok) (e : Elem) :
    (emitted n a h v fl toks e).port.accs = e.port.accs.eraseIdx n ∧ (emitted n a h v fl toks e).inject = e.inject ++ toks := by
  unfold emitted landPayload
  cases a.buffer with
  | none => by_cases hd : a.dest = [] <;> simp only [hd, if_true, if_false, and_self]
  | some b => by_cases hd : a.dest = [] <;> simp only [hd, if_true, if_false] <;> exact ⟨rfl, rfl⟩

/-- The header of a completion's tokens. -/
def complHdr (s : State) (l : Loc) (a : Access) (h : Hdr) (pz : Bool × Nat) : Hdr :=
  complSeq (getRegion s (rgnOf l)) a { h with poison := pz.1, fidx := if pz.1 then pz.2 else 0 }

/-- The tokens of a completion. -/
def complToks (s : State) (l : Loc) (a : Access) (h : Hdr) (payload : Nat) (pz : Bool × Nat) : List InjTok :=
  a.dest.map fun ch =>
    { chan := ch, slot := a.slot, buf := a.buffer, since := s.clk,
      tok := { hdr := { complHdr s l a h pz with chan := ch }, payload := payload } }

/-- The completion of an access takes it from its port and hands its tokens to injection. -/
theorem emitAccess_done {s : State} {l : Loc} (hp : l.part < 16) (he : l.elem < (getRegion s (rgnOf l)).elems.length) (n : Nat)
    (a : Access) (h : Hdr) (payload : Nat) (fl : Flags) (pz : Bool × Nat) : let u := emitAccess s l n a (h, payload, fl) pz
    (getElem u l).port.accs = (getElem s l).port.accs.eraseIdx n ∧
      (getElem u l).inject = (getElem s l).inject ++ complToks s l a h payload pz := by
  intro u
  have hu : getElem u l = emitted n a (complHdr s l a h pz) payload fl (complToks s l a h payload pz) (getElem s l) :=
    (getElem_busy hp).trans (getElem_modElem_same hp he)
  rw [hu]
  exact emitted_done _ _ _ _ _ _ _

theorem complSeq_plain (g : Region) (a : Access) (h : Hdr) : (complSeq g a h).plain = h.plain := by
  unfold complSeq
  split
  · rfl
  · exact withSeq_plain g h

theorem complSeq_mark (g : Region) (a : Access) (h : Hdr) : (complSeq g a h).poison = h.poison ∧ (complSeq g a h).fidx = h.fidx := by
  unfold complSeq
  split
  · exact ⟨rfl, rfl⟩
  · exact ⟨withSeq_poison g h, withSeq_fidx g h⟩

/-- The state in which a `pwait` of an aborted launch forwards: poison may originate (R325). -/
def pwaitOrigin (s : State) (l : Loc) (a : Access) (ab : Bool) : State := if ab && !a.poison then (drawOrigin s (rgnOf l)).1 else s

/-- A `pwait` whose launch has ended completes with its token (R207). -/
theorem pwait_forwards {s : State} {l : Loc} {n : Nat} {a : Access} {x : LaunchEnt} (hlive : Live s l) (ha : getAccess s l n = some a)
    (hop : a.op = 0xC4) (heos : a.eos = false) (hs : a.scope ≠ 2) (hx : launchOf s l.part a.desc = some x) (hst : x.st = 1 ∨ x.st = 2) :
    exec (.evPwaitForward l n) s = .next (emitAccess (pwaitOrigin s l a (x.st == 2)) l n a
      ((if x.st == 2 then { (a.a.getD {}).hdr with stat := 5 } else (a.a.getD {}).hdr), (a.a.getD {}).payload, 0)
      (a.poison || x.st == 2, if a.poison then a.fidx else 0)) := by
  have hmay : (if a.op = 0xC4 && !a.eos then pwaitTest s l.part a.desc else none) = some (x.st == 2) := by
    rw [hop, heos]
    exact pwaitTest_ended hx hst
  have hrun : portRuns (getRegion s (rgnOf l)) = true := hlive.run
  show execEvPwaitForward l n s = _
  unfold execEvPwaitForward
  rw [ha]
  dsimp only
  rw [hmay]
  dsimp only
  rw [hrun, if_neg hs]
  rfl

/-- Origin draws change one field of a region. -/
theorem pwaitOrigin_elems {s : State} {l : Loc} (hp : l.part < 16) (a : Access) (ab : Bool) :
    (getRegion (pwaitOrigin s l a ab) (rgnOf l)).elems = (getRegion s (rgnOf l)).elems := by
  unfold pwaitOrigin
  split
  · rw [drawOrigin, getRegion_modRegion_same (show (rgnOf l).part < 16 from hp)]
  · rfl

/-- The tokens of a completion, channel by channel. -/
theorem complToks_plain (s : State) (l : Loc) (a : Access) (h : Hdr) (payload : Nat) (pz : Bool × Nat) :
    ((complToks s l a h payload pz).map fun y => (y.chan, y.tok.payload, y.tok.hdr.plain)) = a.dest.map fun c => (c, payload, h.plain) := by
  unfold complToks
  rw [List.map_map]
  refine List.map_congr_left fun c _ => ?_
  refine congrArg (fun x => (c, payload, x)) ?_
  exact complSeq_plain _ a _

theorem complToks_mark (s : State) (l : Loc) (a : Access) (h : Hdr) (payload : Nat) (pz : Bool × Nat) :
    ∀ y ∈ complToks s l a h payload pz, y.tok.hdr.poison = pz.1 ∧ y.tok.hdr.fidx = if pz.1 then pz.2 else 0 := by
  intro y hy
  obtain ⟨c, -, rfl⟩ := List.mem_map.1 hy
  exact complSeq_mark _ a _

end Sys2Proof.Machine

open Sys2Proof Sys2Proof.Machine

/-- Settles O44: each step is what its lemma says of it. -/
theorem firingEvents : Obligations.FiringEvents := by
  unfold Obligations.FiringEvents
  intro s l ch hlive r e g
  have hp : r.part < 16 := hlive.part
  refine ⟨fun k f hnext hk ho hw => ?_, fun k t hin hk ht hb hclk howes => ?_, fun c he hc hq => ?_, fun x y o hw => ⟨fun ht => ?_, fun q ht hq => ?_⟩,
    fun c n a hc ha => ⟨fun h0 hl => ?_, fun h0 ho hat => ?_⟩, fun n a x ha hop heos hs hx hst => ?_⟩
  · obtain ⟨hd, hsig, horig, hloc⟩ := commit_done hlive hk ho hw
    have hexec : exec (.evFiringCommit l) s = .next (commit s l k) := by
      show execEvFiringCommit l s = _
      unfold execEvFiringCommit
      rw [hlive.run, if_pos rfl, hnext]
    refine ⟨_, hexec, ?_⟩
    refine ⟨hd.pending, hd.flags, ⟨fun hg => ?_, fun hown => ?_, fun gs ops hown hg => ?_⟩, hd.states, hd.banks, hd.scratch, ?_, fun a ha => ?_,
      fun ha => ?_, hd.consts, hsig, horig, hloc⟩
    · rw [hd.gauges, hg, gaugesAfter_nil]
    · exact hd.gauges.trans (gaugesAfter_first _ _ hown)
    · exact hd.gauges.trans ((congrArg (gaugesAfter _ _ · _) hown).trans (gaugesAfter_later _ _ _ hg))
    · rw [hd.inject, List.map_append, handed_toks]
    · rw [hd.port, passAccess, ha]
    · rw [hd.port, passAccess, ha]
  · exact ⟨_, if_neg (ne_true_of_eq_false hin), injectToken_done hlive hk ht hb hclk howes⟩
  · exact ⟨_, if_pos he, sendEos_done hp hlive.run he hc hq⟩
  · refine ⟨_, wheel_trace hlive.run hw ht, ?_, (useOutput_local s _ o r).trans (busy_local _ _), ?_, ?_, ?_⟩
    · rw [busy, modRegion_wheelAt, useOutput_used]
    · rw [busy, getRegion_modRegion_same hp]
      rfl
    · rw [busy, getRegion_modRegion_same hp]
      rfl
    · rw [busy, getRegion_modRegion_same hp]
      rfl
  · exact wheel_beat_done hlive.run hw ht hq
  · refine ⟨_, ack_home hlive.run hc ha h0 hl, ?_, modChan_local _ _ _ _⟩
    rw [modChan, getRegion_modRegion_same hp]
  · refine ⟨_, ack_cross hlive.run hc ha h0 ho hat, ?_, modChan_local _ _ _ _⟩
    rw [modChan, getRegion_modRegion_same hp]
    rfl
  · refine ⟨_, pwait_forwards hlive ha hop heos hs hx hst, ?_⟩
    have hel := pwaitOrigin_elems (s := s) hlive.part a (x.st == 2)
    obtain ⟨haccs, hinj⟩ := emitAccess_done (s := pwaitOrigin s l a (x.st == 2)) hlive.part (by rw [hel]; exact hlive.elem) n a
      (if x.st == 2 then { (a.a.getD {}).hdr with stat := 5 } else (a.a.getD {}).hdr) (a.a.getD {}).payload 0
      (a.poison || x.st == 2, if a.poison then a.fidx else 0)
    rw [getElem_congr hel] at haccs hinj
    refine ⟨haccs, _, hinj, ?_, fun y hy => ?_⟩
    · rw [complToks_plain]
      simp only [beq_iff_eq]
    · obtain ⟨hpz, hfx⟩ := complToks_mark _ _ _ _ _ _ y hy
      refine ⟨hpz, hfx.trans ?_⟩
      cases a.poison with
      | true => rfl
      | false => exact ite_self _

end

section
/-! SUPPORT. What an issue leaves of its element, its channels and its region, in every mode (spec/02: R43, R53, R57, R59, R60). -/

namespace Sys2Proof.Machine

/-- What an element keeps while buffers are held and sets are marked or listed: everything but its sets and its buffers; and a
set that holds an operand stood there before, with the same operands. -/
structure Elem.Framed (e e' : Elem) : Prop where
  same : e' = { e with sets := e'.sets, poolHeld := e'.poolHeld }
  sets : ∀ m' ∈ e'.sets, (∃ m ∈ e.sets, m.slot = m'.slot ∧ m.tag = m'.tag ∧ ∀ p, m'.pos p = m.pos p) ∨ ∀ p, m'.pos p = none

theorem Elem.framed_of_sets {e e' : Elem} (h : e' = { e with poolHeld := e'.poolHeld }) : Elem.Framed e e' := by
  have hs : e'.sets = e.sets := by rw [h]
  exact ⟨by rw [h], fun m hm => .inl ⟨m, hs ▸ hm, rfl, rfl, fun _ => rfl⟩⟩

theorem Elem.Framed.trans {a b c : Elem} (h : Elem.Framed a b) (k : Elem.Framed b c) : Elem.Framed a c where
  same := by rw [k.same, h.same]
  sets m hm := by
    obtain ⟨m', hm', hs, ht, hp⟩ | hn := k.sets m hm
    · obtain ⟨m'', hm'', hs', ht', hp'⟩ | hn' := h.sets m' hm'
      · exact .inl ⟨m'', hm'', hs'.trans hs, ht'.trans ht, fun p => (hp p).trans (hp' p)⟩
      · exact .inr fun p => (hp p).trans (hn' p)
    · exact .inr hn

theorem holdBuf_framed (e : Elem) (bufs : List Nat) : Elem.Framed e (holdBuf e bufs) := by
  unfold holdBuf
  split <;> exact Elem.framed_of_sets rfl

theorem drawAccess_framed (e : Elem) (kept : List Nat) (a : Option Access) : Elem.Framed e (drawAccess e kept a).1 := by
  unfold drawAccess
  split
  · split
    · exact Elem.framed_of_sets rfl
    · split <;> exact Elem.framed_of_sets rfl
  · exact Elem.framed_of_sets rfl

/-- Sets changed beside their slots, tags and operands. -/
theorem Elem.framed_of_map (e : Elem) (u : MSet → MSet)
    (h : ∀ m, (u m).slot = m.slot ∧ (u m).tag = m.tag ∧ ∀ p, (u m).pos p = m.pos p) : Elem.Framed e { e with sets := e.sets.map u } where
  same := rfl
  sets m' hm' := by
    obtain ⟨m, hm, rfl⟩ := List.mem_map.1 hm'
    exact .inl ⟨m, hm, (h m).1.symm, (h m).2.1.symm, (h m).2.2⟩

theorem MSet.pos_beside (m : MSet) (orphan : Nat) (ready : Option Nat) (p : Nat) : { m with orphan := orphan, ready := ready }.pos p = m.pos p := by
  unfold MSet.pos
  split <;> rfl

theorem placeMarks_framed (e : Elem) (slot tag marks : Nat) (fr : Bool) : Elem.Framed e (placeMarks e slot tag marks fr) := by
  unfold placeMarks
  split
  · exact Elem.framed_of_sets rfl
  · split
    · refine Elem.framed_of_map e _ fun m => ?_
      split
      · exact ⟨rfl, rfl, MSet.pos_beside m _ _⟩
      · exact ⟨rfl, rfl, fun _ => rfl⟩
    · refine ⟨rfl, fun m hm => ?_⟩
      obtain rfl | hm := List.mem_cons.1 hm
      · exact .inr fun p => by unfold MSet.pos; split <;> rfl
      · exact .inl ⟨m, hm, rfl, rfl, fun _ => rfl⟩

theorem listFramesBy_framed (full : MSet → Bool) (clk n : Nat) (e : Elem) : Elem.Framed e (listFramesBy full clk n e) := by
  induction n generalizing e with
  | zero => exact Elem.framed_of_sets rfl
  | succ n ih =>
    unfold listFramesBy
    dsimp only
    split
    · exact Elem.framed_of_sets rfl
    · split
      · exact Elem.framed_of_sets rfl
      · refine Elem.Framed.trans (Elem.framed_of_map e _ fun m => ?_) (ih _)
        split
        · exact ⟨rfl, rfl, MSet.pos_beside m m.orphan _⟩
        · exact ⟨rfl, rfl, fun _ => rfl⟩

/-! ### Quota -/

/-- The channels on which a firing reserves quota (R57, R190). -/
def quotaOf (F : Firing) : List Nat :=
  match F.access with | some a => a.dest | none => (F.outs.map fun o => o.chan).dedup

theorem foldl_reserve_chans (chs : List Nat) (g : Region) :
    (chs.foldl reserve g).chans = g.chans.map fun c => { c with reserved := c.reserved + chs.count c.num } := by
  induction chs generalizing g with
  | nil => exact (List.map_id' _).symm
  | cons ch r ih =>
    rw [List.foldl_cons, ih]
    show (g.chans.map _).map _ = _
    rw [List.map_map]
    refine List.map_congr_left fun c _ => ?_
    by_cases hc : c.num = ch
    · simp only [Function.comp, hc, if_true, List.count_cons_self]
      rw [Nat.add_assoc, Nat.add_comm 1]
    · simp only [Function.comp, hc, if_false, List.count_cons_of_ne (Ne.symm hc)]

/-! ### The issue -/

/-- What a firing's judgement leaves of its outputs at issue (R36, R406). -/
def judged (s : State) (f : Focus) (i : FireIn) (o : FireOut) : FireOut :=
  (judgeOut i s.ids ((badRead i.e (readRanges i.e f i.w o)).map (scratchCode s f.loc)) o).1

theorem judged_judged (s : State) (f : Focus) (i : FireIn) (o : FireOut) : Judged o (judged s f i o) := judgeOut_judged _ _ _ _

/-- The state once the operands of a firing have left. -/
def eaten (s : State) (f : Focus) (w : OpWord) (o : FireOut) : State := (eatAll { s with ids := s.ids + 1, focus := none } f w o).1

/-- Everything that an issue does, in any mode. -/
structure Issuing (s t : State) (f : Focus) (i : FireIn) (o : FireOut) (upd : Bool) (F : Firing) : Prop where
  elem : ∃ d, Elem.Framed (applyIssue s.clk i.w i.opc (judged s f i o) upd (getElem (eaten s f i.w (judged s f i o)) f.loc)) d ∧
    getElem t f.loc = { d with pending := d.pending ++ [F] }
  others : ∀ n, n ≠ f.loc.elem → nth (getRegion t (rgnOf f.loc)).elems n {} = nth (getRegion s (rgnOf f.loc)).elems n {}
  only : RegionOnly s t (rgnOf f.loc)
  chans : (getRegion t (rgnOf f.loc)).chans = (getRegion (eaten s f i.w (judged s f i o)) (rgnOf f.loc)).chans.map fun c =>
    { c with reserved := c.reserved + (quotaOf F).count c.num }
  region : getRegion t (rgnOf f.loc) = { getRegion s (rgnOf f.loc) with
    elems := (getRegion t (rgnOf f.loc)).elems, chans := (getRegion t (rgnOf f.loc)).chans,
    bodies := (getRegion t (rgnOf f.loc)).bodies, pass := (getRegion t (rgnOf f.loc)).pass, idleBase := s.clk }
  focus : t.focus = none
  slot : F.slot = i.slot
  tag : F.tag = i.tag
  st : F.st = o.st
  banks : F.banks = (judged s f i o).banks
  outs : F.outs = onceFor f.mode (fun t => 4 * t.chan + t.tok.hdr.kind) (expandOuts (getElem s f.loc) (judged s f i o).outs)
  access : F.access.map Access.plain = o.access.map Access.plain

theorem drawAccess_dest (e : Elem) (kept : List Nat) (a : Option Access) :
    ((drawAccess e kept a).2.map fun x => x.dest) = a.map fun x => x.dest := by
  have h := congrArg (Option.map Access.dest) (drawAccess_plain e kept a)
  rwa [Option.map_map, Option.map_map] at h

theorem eaten_eaten (s : State) (f : Focus) (w : OpWord) (o : FireOut) (hp : f.loc.part < 16)
    (he : f.loc.elem < (getRegion s (rgnOf f.loc)).elems.length) : Eaten s (eaten s f w o) f.loc :=
  Eaten.trans (b := { s with ids := s.ids + 1, focus := none })
    ⟨⟨fun _ _ => rfl, fun _ _ => rfl, rfl, rfl⟩, ⟨rfl⟩, rfl, fun _ _ => rfl, rfl⟩ (eatAll_eaten _ f w o hp he)

/-- The operand that leaves a position: the resident one, unless it is an EOS head (R59, R93). -/
def takenAt (e : Elem) (w : OpWord) (f : Focus) (p : Nat) : Option Held :=
  (heldAt e w f.slot f.tag p).filter fun h => !(w.src p == 1 && h.tok.hdr.kind == 1)

theorem leaveLoc_same (e : Elem) (p : PLoc) (clk hold : Nat) : leaveLoc e p clk hold = { e with
    poolHeld := (leaveLoc e p clk hold).poolHeld, spillHeld := (leaveLoc e p clk hold).spillHeld,
    freeing := (leaveLoc e p clk hold).freeing } := by
  unfold leaveLoc
  split
  · rfl
  · cases p <;> rfl

theorem popHead_sets (e : Elem) (ch clk : Nat) : (popHead e ch clk).sets = e.sets := by
  unfold popHead
  split <;> rfl

section
variable {s : State} {f : Focus} {w : OpWord} {p : Nat} (keep : Bool) (hold : Nat)

theorem eatPos_none (h : takenAt (getElem s f.loc) w f p = none) : eatPos s f w keep hold p = (s, none) := by
  unfold takenAt at h
  unfold eatPos
  dsimp only
  split
  · rfl
  · next x hx =>
    rw [hx, Option.filter_eq_none_iff] at h
    refine if_pos ?_
    have hk := h x rfl
    simpa using hk

/-- An operand leaves: its set or FIFO changes, and its channel's unit of quota is on its way back (R259). -/
theorem eatPos_some {x : Held} (h : takenAt (getElem s f.loc) w f p = some x) : ∃ e',
    (eatPos s f w keep hold p).1 = modRegion (modElem s f.loc fun _ => e') (rgnOf f.loc) (fun g => ackChan g x.tok.hdr.chan) ∧
    e'.cfg = (getElem s f.loc).cfg ∧
    e'.sets = (if w.src p = 1 then (getElem s f.loc).sets else (popSet (getElem s f.loc) f.slot f.tag p s.clk).sets) ∧
    e'.heads = (if w.src p = 1 then (popHead (getElem s f.loc) x.tok.hdr.chan s.clk).heads else (getElem s f.loc).heads) := by
  obtain ⟨hx, hk⟩ := Option.filter_eq_some_iff.1 h
  have hk' : ¬(decide (w.src p = 1) && decide (x.tok.hdr.kind = 1)) = true := by simpa [← not_and_or] using hk
  unfold eatPos
  dsimp only
  rw [hx]
  dsimp only
  rw [if_neg hk']
  refine ⟨_, rfl, ?_⟩
  generalize he1 : (if w.src p = 1 then popHead (getElem s f.loc) x.tok.hdr.chan s.clk else popSet (getElem s f.loc) f.slot f.tag p s.clk) = e1
  have h1 : e1.cfg = (getElem s f.loc).cfg ∧
      e1.sets = (if w.src p = 1 then (getElem s f.loc).sets else (popSet (getElem s f.loc) f.slot f.tag p s.clk).sets) ∧
      e1.heads = (if w.src p = 1 then (popHead (getElem s f.loc) x.tok.hdr.chan s.clk).heads else (getElem s f.loc).heads) := by
    subst he1
    split
    · exact ⟨by rw [(popHead_kept _ _ _).same], popHead_sets _ _ _, rfl⟩
    · exact ⟨rfl, rfl, rfl⟩
  have pick (c : Bool) : let e2 := if c = true then e1 else leaveLoc e1 x.loc s.clk hold
      e2.cfg = e1.cfg ∧ e2.sets = e1.sets ∧ e2.heads = e1.heads := by
    cases c with
    | true => exact ⟨rfl, rfl, rfl⟩
    | false =>
      dsimp only
      rw [leaveLoc_same]
      exact ⟨rfl, rfl, rfl⟩
  obtain ⟨hcfg, hsets, hheads⟩ := pick (match x.loc with | .pool b => if keep then some b else none | _ => none : Option Nat).isSome
  exact ⟨hcfg.trans h1.1, hsets.trans h1.2.1, hheads.trans h1.2.2⟩

end

theorem eatPos_focus (s : State) (f : Focus) (w : OpWord) (keep : Bool) (hold p : Nat) :
    (eatPos s f w keep hold p).1.focus = s.focus := by
  cases h : takenAt (getElem s f.loc) w f p with
  | none => rw [eatPos_none keep hold h]
  | some x =>
    obtain ⟨e', he, -⟩ := eatPos_some keep hold h
    rw [he, modRegion_focus, modElem_focus]

/-- Operands leave one position after another. -/
theorem eatAll_fold (s : State) (f : Focus) (w : OpWord) (o : FireOut) :
    (eatAll s f w o).1 = o.eat.foldl (fun s p => (eatPos s f w (o.fwd.contains p) o.hold p).1) s := by
  have key (l : List Nat) (q : State × List Nat) : (l.foldl (fun (q : State × List Nat) pos =>
      let t := eatPos q.1 f w (o.fwd.contains pos) o.hold pos
      (t.1, q.2 ++ t.2.toList)) q).1 = l.foldl (fun s p => (eatPos s f w (o.fwd.contains p) o.hold p).1) q.1 := by
    induction l generalizing q with
    | nil => rfl
    | cons p r ih => exact ih _
  exact key _ _

theorem eatAll_focus (s : State) (f : Focus) (w : OpWord) (o : FireOut) : (eatAll s f w o).1.focus = s.focus := by
  rw [eatAll_fold]
  generalize o.eat = l
  induction l generalizing s with
  | nil => rfl
  | cons p r ih => exact (ih _).trans (eatPos_focus ..)

theorem issueRegion_chans (clk : Nat) (chs : List Nat) (alloc : Option Nat) (passed : Bool) (g : Region) :
    (issueRegion clk chs alloc passed g).chans = g.chans.map fun c => { c with reserved := c.reserved + chs.count c.num } := by
  rw [← foldl_reserve_chans]
  unfold issueRegion
  cases alloc <;> rfl

/-- Every issue is as `Issuing` says. -/
theorem issue_issuing (s : State) (f : Focus) (i : FireIn) (o : FireOut) (upd : Bool) (hp : f.loc.part < 16)
    (he : f.loc.elem < (getRegion s (rgnOf f.loc)).elems.length) : ∃ F, Issuing s (issue s f i o upd) f i o upd F := by
  have hp' : (rgnOf f.loc).part < 16 := hp
  have hE := eaten_eaten s f i.w (judged s f i o) hp he
  have hj := judged_judged s f i o
  have hlen : f.loc.elem < (getRegion (eaten s f i.w (judged s f i o)) (rgnOf f.loc)).elems.length := by rw [hE.len]; exact he
  unfold issue
  extract_lets ord bad j q e outs bufs e' d oa ob src s2
  have hd : Elem.Framed e d.1 :=
    (((holdBuf_framed _ _).trans (placeMarks_framed _ _ _ _ _)).trans (listFramesBy_framed _ _ _ _)).trans (drawAccess_framed _ _ _)
  have hae : Elem.Issued (getElem s f.loc) e := hE.kept.issued.trans (applyIssue_issued _ _ _ _ _ _)
  have hcfg : e.cfg = (getElem s f.loc).cfg := by rw [hae.same]
  have hs2 : getRegion s2 (rgnOf f.loc) = { getRegion (eaten s f i.w (judged s f i o)) (rgnOf f.loc) with
      elems := modNth (getRegion (eaten s f i.w (judged s f i o)) (rgnOf f.loc)).elems f.loc.elem fun _ => { d.1 with
        pending := d.1.pending ++ [mkFiring s i ob outs bufs ord j.2] } } := getRegion_modRegion_same hp'
  have hclk : s2.clk = s.clk := RegionOnly.clk (r := rgnOf f.loc) (hE.only.trans (modElem_only _ _ _))
  have hi := issueRegion_same s2.clk (reserved j.1 outs) j.1.alloc i.passed (getRegion s2 (rgnOf f.loc))
  refine ⟨mkFiring s i ob outs bufs ord j.2, ⟨d.1, hd, ?_⟩, ?_, ?_, ?_, ?_, ?_, rfl, rfl, ?_, rfl, ?_, ?_⟩
  · rw [getElem_modRegion hp (issueRegion_elems _ _ _ _ _)]
    exact getElem_modElem_same hp hlen
  · intro n hn
    rw [getRegion_modRegion_same hp', issueRegion_elems, hs2]
    exact (elems_modNth_ne _ _ _ _ hn).trans (hE.others n hn)
  · exact (hE.only.trans (modElem_only _ _ _)).trans (modRegion_only _ _ _)
  · rw [getRegion_modRegion_same hp', issueRegion_chans, hs2]
    refine List.map_congr_left fun c _ => congrArg (fun l : List Nat => { c with reserved := c.reserved + l.count c.num }) ?_
    show reserved j.1 outs = match d.2 with | some a => a.dest | none => (outs.map fun o => o.chan).dedup
    have hdest : (d.2.map fun x => x.dest) = j.1.access.map fun x => x.dest := drawAccess_dest _ _ _
    unfold reserved
    cases hja : j.1.access <;> cases hd2 : d.2 <;> simp_all
  · rw [getRegion_modRegion_same hp']
    generalize hG : issueRegion s2.clk (reserved j.1 outs) j.1.alloc i.passed (getRegion s2 (rgnOf f.loc)) = G at hi ⊢
    rw [hi, hs2, hE.region, hclk]
  · rw [modRegion_focus, modElem_focus]
    exact eatAll_focus _ f i.w j.1
  · show (judged s f i o).st = o.st
    rw [hj.same]
  · show outs = _
    exact congrArg (onceFor f.mode fun t : OutTok => 4 * t.chan + t.tok.hdr.kind) (by unfold expandOuts destChans; rw [hcfg]; rfl)
  · exact (drawAccess_plain _ _ _).trans hj.access

end Sys2Proof.Machine
end

section
/-! SUPPORT. The operands of a firing leave their sets and FIFOs (spec/02: R53, R55, R59; spec/10: R259). -/

namespace Sys2Proof.Machine

/-! ### One position of an element -/

/-- An operand x has left position p of an element's candidate. -/
structure Ate (w : OpWord) (f : Focus) (p clk : Nat) (x : Held) (e e' : Elem) : Prop where
  cfg : e'.cfg = e.cfg
  sets : e'.sets = if w.src p = 1 then e.sets else (popSet e f.slot f.tag p clk).sets
  heads : e'.heads = if w.src p = 1 then (popHead e x.tok.hdr.chan clk).heads else e.heads

theorem eatPos_ate {s : State} {f : Focus} {w : OpWord} {p : Nat} {x : Held} (keep : Bool) (hold : Nat) (hp : f.loc.part < 16)
    (he : f.loc.elem < (getRegion s (rgnOf f.loc)).elems.length) (h : takenAt (getElem s f.loc) w f p = some x) :
    let t := (eatPos s f w keep hold p).1
    Ate w f p s.clk x (getElem s f.loc) (getElem t f.loc) ∧
      (getRegion t (rgnOf f.loc)).chans = (ackChan (getRegion s (rgnOf f.loc)) x.tok.hdr.chan).chans := by
  intro t
  have hp' : (rgnOf f.loc).part < 16 := hp
  obtain ⟨e', ht, hcfg, hsets, hheads⟩ := eatPos_some keep hold h
  have hel : getElem t f.loc = e' := by
    show getElem (eatPos s f w keep hold p).1 f.loc = e'
    rw [ht, getElem_modRegion hp (by rfl), getElem_modElem_same hp he]
  refine ⟨by rw [hel]; exact ⟨hcfg, hsets, hheads⟩, ?_⟩
  show (getRegion (eatPos s f w keep hold p).1 (rgnOf f.loc)).chans = _
  rw [ht, getRegion_modRegion_same hp', modElem, getRegion_modRegion_same hp']
  rfl

/-! ### Sets -/

/-- Position p of every set of the candidate is empty. -/
def Cleared (e : Elem) (f : Focus) (p : Nat) : Prop := ∀ m ∈ e.sets, m.slot = f.slot → m.tag = f.tag → m.pos p = none

/-- A set without the operand of a position, if it is the candidate's. -/
def popOut (slot tag p : Nat) (m : MSet) : MSet := if m.slot = slot ∧ m.tag = tag then { m.put p none with ready := none } else m

theorem popSet_sets (e : Elem) (slot tag p clk : Nat) :
    (popSet e slot tag p clk).sets = (e.sets.map (popOut slot tag p)).filter fun m => !m.empty := rfl

theorem put_slot (m : MSet) (p : Nat) (h : Option Held) : (m.put p h).slot = m.slot ∧ (m.put p h).tag = m.tag := by
  unfold MSet.put
  split <;> exact ⟨rfl, rfl⟩

theorem popOut_slot (slot tag p : Nat) (m : MSet) : (popOut slot tag p m).slot = m.slot ∧ (popOut slot tag p m).tag = m.tag := by
  unfold popOut
  split
  · exact put_slot m p none
  · exact ⟨rfl, rfl⟩

theorem pos_put_same (m : MSet) (p : Nat) (h : Option Held) : (m.put p h).pos p = h := by
  match p with
  | 0 | 1 | _ + 2 => rfl

theorem pos_put_ne (m : MSet) (h : Option Held) {p q : Nat} (hp : p < 3) (hq : q < 3) (hne : p ≠ q) : (m.put p h).pos q = m.pos q := by
  match p, q with
  | 0, 1 | 0, 2 | 1, 0 | 1, 2 | 2, 0 | 2, 1 => rfl
  | 0, 0 | 1, 1 | 2, 2 => exact absurd rfl hne
  | _ + 3, _ => omega
  | 0, _ + 3 | 1, _ + 3 | 2, _ + 3 => omega

theorem pos_put_none (m : MSet) (p : Nat) {q : Nat} (h : m.pos q = none) : (m.put p none).pos q = none := by
  match p, q with
  | 0, 0 | 1, 1 | _ + 2, _ + 2 => rfl
  | 0, 1 | 0, _ + 2 | 1, 0 | 1, _ + 2 | _ + 2, 0 | _ + 2, 1 => exact h

theorem popOut_pos_none {slot tag p q : Nat} {m : MSet} (h : m.pos q = none) : (popOut slot tag p m).pos q = none := by
  unfold popOut
  split
  · exact pos_put_none m p h
  · exact h

section
variable {w : OpWord} {f : Focus} {p q clk : Nat} {x : Held} {e e' : Elem} (h : Ate w f p clk x e e')
include h

theorem Ate.mem_sets {m : MSet} (hm : m ∈ e'.sets) : m ∈ e.sets ∨ (w.src p ≠ 1 ∧ ∃ m' ∈ e.sets, m = popOut f.slot f.tag p m') := by
  rw [h.sets] at hm
  split at hm
  · exact .inl hm
  · next hs =>
    rw [popSet_sets] at hm
    obtain ⟨m', hm', rfl⟩ := List.mem_map.1 (List.mem_of_mem_filter hm)
    exact .inr ⟨hs, m', hm', rfl⟩

/-- A cleared position stays so. -/
theorem Ate.cleared_mono (hc : Cleared e f q) : Cleared e' f q := by
  intro m hm hs ht
  obtain hm | ⟨-, m', hm', rfl⟩ := h.mem_sets hm
  · exact hc m hm hs ht
  · obtain ⟨hs', ht'⟩ := popOut_slot f.slot f.tag p m'
    exact popOut_pos_none (hc m' hm' (hs'.symm.trans hs) (ht'.symm.trans ht))

/-- A matched position that an operand has left is clear. -/
theorem Ate.clears (hsrc : w.src p ≠ 1) : Cleared e' f p := by
  intro m hm hs ht
  rw [h.sets, if_neg hsrc, popSet_sets] at hm
  obtain ⟨m', -, rfl⟩ := List.mem_map.1 (List.mem_of_mem_filter hm)
  obtain ⟨hs', ht'⟩ := popOut_slot f.slot f.tag p m'
  rw [popOut, if_pos ⟨hs'.symm.trans hs, ht'.symm.trans ht⟩]
  exact (MSet.pos_beside (m'.put p none) _ _ p).trans (pos_put_same m' p none)

end

/-- A set is the candidate's. -/
def ofCand (f : Focus) (m : MSet) : Bool := m.slot == f.slot && m.tag == f.tag

theorem heldAt_of_set (e : Elem) (f : Focus) {w : OpWord} {q : Nat} (h : w.src q = 0) :
    heldAt e w f.slot f.tag q = (e.sets.find? (ofCand f)).bind fun m => m.pos q := by
  unfold heldAt
  rw [h]
  rfl

theorem heldAt_of_head (e : Elem) (f : Focus) {w : OpWord} {q : Nat} (h : w.src q = 1) :
    heldAt e w f.slot f.tag q = (recvOf e f.slot q).bind fun r => (headsOf e r.chan).head? := by
  unfold heldAt headOf
  rw [h]
  cases recvOf e f.slot q <;> rfl

theorem heldAt_of_other (e : Elem) (f : Focus) {w : OpWord} {q : Nat} (h0 : w.src q ≠ 0) (h1 : w.src q ≠ 1) :
    heldAt e w f.slot f.tag q = none := by
  unfold heldAt
  split
  · next h => exact absurd h h0
  · next h => exact absurd h h1
  · rfl

theorem ofCand_popOut (f : Focus) (p : Nat) (m : MSet) : ofCand f (popOut f.slot f.tag p m) = ofCand f m := by
  unfold ofCand
  rw [(popOut_slot _ _ _ _).1, (popOut_slot _ _ _ _).2]

/-- The candidate's first set once a position of it is popped. -/
theorem find_popped (f : Focus) (p : Nat) (l : List MSet) :
    ((l.map (popOut f.slot f.tag p)).filter fun m => !m.empty).find? (ofCand f) =
      (l.find? fun m => !(popOut f.slot f.tag p m).empty && ofCand f m).map (popOut f.slot f.tag p) := by
  rw [List.find?_filter, List.find?_map]
  congr 2
  funext m
  simp only [Function.comp, ofCand_popOut, Bool.decide_and, Bool.decide_eq_true]

theorem find_popped_some {f : Focus} {p : Nat} {l : List MSet} {m : MSet} (h : l.find? (ofCand f) = some m)
    (hne : (popOut f.slot f.tag p m).empty = false) :
    ((l.map (popOut f.slot f.tag p)).filter fun m => !m.empty).find? (ofCand f) = some (popOut f.slot f.tag p m) := by
  rw [find_popped]
  obtain ⟨hm, as, bs, rfl, has⟩ := List.find?_eq_some_iff_append.1 h
  refine congrArg (Option.map _) (List.find?_eq_some_iff_append.2 ⟨?_, as, bs, rfl, fun a ha => ?_⟩)
  · rw [hne, hm]; rfl
  · have := has a ha
    simp only [Bool.not_eq_true'] at this
    rw [this, Bool.and_false]; rfl

theorem find_popped_none {f : Focus} {p : Nat} {l : List MSet} (h : ∀ m ∈ l, ofCand f m = true → (popOut f.slot f.tag p m).empty = true) :
    ((l.map (popOut f.slot f.tag p)).filter fun m => !m.empty).find? (ofCand f) = none := by
  rw [find_popped, Option.map_eq_none_iff, List.find?_eq_none]
  intro m hm
  cases hc : ofCand f m with
  | false => simp
  | true => rw [h m hm hc]; simp

/-- An element of a list in which at most one has a property. -/
theorem eq_of_filter_length_le_one {α : Type} {P : α → Bool} {l : List α} (h : (l.filter P).length ≤ 1) {a b : α}
    (ha : a ∈ l) (hb : b ∈ l) (hpa : P a = true) (hpb : P b = true) : a = b := by
  have ha' := List.mem_filter.2 ⟨ha, hpa⟩
  have hb' := List.mem_filter.2 ⟨hb, hpb⟩
  match hl : l.filter P with
  | [] => rw [hl] at ha'; cases ha'
  | [c] =>
    rw [hl, List.mem_singleton] at ha' hb'
    rw [ha', hb']
  | _ :: _ :: _ => rw [hl] at h; simp at h

theorem pos_of_empty {m : MSet} (h : m.empty = true) (q : Nat) : m.pos q = none := by
  unfold MSet.empty at h
  simp only [Bool.and_eq_true, Option.isNone_iff_eq_none] at h
  obtain ⟨⟨⟨ha, hb⟩, hc⟩, -⟩ := h
  unfold MSet.pos
  split
  · exact ha
  · exact hb
  · exact hc

theorem popOut_pos_ne (slot tag : Nat) (m : MSet) {p q : Nat} (hp : p < 3) (hq : q < 3) (hne : p ≠ q) :
    (popOut slot tag p m).pos q = m.pos q := by
  unfold popOut
  split
  · exact (MSet.pos_beside (m.put p none) _ _ q).trans (pos_put_ne m none hp hq hne)
  · rfl

section
variable {w : OpWord} {f : Focus} {p q clk : Nat} {x : Held} {e e' : Elem} (h : Ate w f p clk x e e') (hp : p < 3) (hq : q < 3) (hne : p ≠ q)
include h hp hq hne

/-- A matched operand stays at its position while another one leaves. -/
theorem Ate.heldAt_set (hsrc : w.src q = 0) (hone : heldAt e w f.slot f.tag q ≠ none ∨ (e.sets.filter (ofCand f)).length ≤ 1) :
    heldAt e' w f.slot f.tag q = heldAt e w f.slot f.tag q := by
  rw [heldAt_of_set e f hsrc] at hone ⊢
  rw [heldAt_of_set e' f hsrc, h.sets]
  by_cases hs : w.src p = 1
  · rw [if_pos hs]
  rw [if_neg hs, popSet_sets]
  cases hm : e.sets.find? (ofCand f) with
  | none => rw [find_popped_none fun m hmem hc => absurd hc (List.find?_eq_none.1 hm m hmem)]
  | some m =>
    have hpos := popOut_pos_ne f.slot f.tag m hp hq hne
    cases hempty : (popOut f.slot f.tag p m).empty with
    | false => rw [find_popped_some hm hempty, Option.bind_some, Option.bind_some, hpos]
    | true =>
      have hnone : m.pos q = none := hpos.symm.trans (pos_of_empty hempty q)
      have hlen := hone.resolve_left fun hn => hn (by rw [hm, Option.bind_some, hnone])
      rw [find_popped_none fun m' hm' hc => by
        rw [eq_of_filter_length_le_one hlen hm' (List.mem_of_find?_eq_some hm) hc (List.find?_some hm), hempty]]
      rw [Option.bind_none, Option.bind_some, hnone]

end

/-! ### FIFOs -/

theorem headsOf_congr {e e' : Elem} (h : e'.heads = e.heads) (ch : Nat) : headsOf e' ch = headsOf e ch := by
  unfold headsOf
  rw [h]

theorem headsOf_popHead_ne (e : Elem) (clk : Nat) {ch ch' : Nat} (h : ch ≠ ch') : headsOf (popHead e ch clk) ch' = headsOf e ch' := by
  unfold popHead
  split
  · unfold headsOf
    rw [lookupKey_putKey_ne _ _ _ _ h]
  · unfold headsOf
    rw [lookupKey_delKey_ne _ h]
  · rfl

/-- The head of a FIFO leaves, and the tokens behind it move up. -/
theorem headsOf_popHead_same (e : Elem) (ch clk : Nat) :
    (headsOf (popHead e ch clk) ch).map (fun h => h.tok) = ((headsOf e ch).map fun h => h.tok).tail := by
  unfold popHead
  split
  · next _ h r heq =>
    rw [heq]
    unfold headsOf
    rw [lookupKey_putKey_same]
    rfl
  · next heq =>
    rw [heq]
    unfold headsOf
    rw [lookupKey_delKey_same]
    rfl
  · next heq => rw [heq]; rfl

section
variable {w : OpWord} {f : Focus} {p q clk : Nat} {x : Held} {e e' : Elem} (h : Ate w f p clk x e e')
include h

theorem Ate.headsOf_ne {ch : Nat} (hch : w.src p = 1 → x.tok.hdr.chan ≠ ch) : headsOf e' ch = headsOf e ch := by
  by_cases hs : w.src p = 1
  · rw [headsOf_congr (h.heads.trans (if_pos hs)), headsOf_popHead_ne _ _ (hch hs)]
  · exact headsOf_congr (h.heads.trans (if_neg hs)) ch

theorem Ate.headsOf_same (hs : w.src p = 1) :
    (headsOf e' x.tok.hdr.chan).map (fun h => h.tok) = ((headsOf e x.tok.hdr.chan).map fun h => h.tok).tail := by
  rw [headsOf_congr (h.heads.trans (if_pos hs)), headsOf_popHead_same]

/-- A head stays at its position while an operand of another channel leaves. -/
theorem Ate.heldAt_head (hsrc : w.src q = 1) (hown : w.src p = 1 → (headsOf e x.tok.hdr.chan).head? = some x)
    (hapart : w.src p = 1 → ∀ k, heldAt e w f.slot f.tag q = some k → k.tok.hdr.chan ≠ x.tok.hdr.chan) :
    heldAt e' w f.slot f.tag q = heldAt e w f.slot f.tag q := by
  have hrecv : recvOf e' f.slot q = recvOf e f.slot q := by unfold recvOf; rw [h.cfg]
  rw [heldAt_of_head e f hsrc] at hapart ⊢
  rw [heldAt_of_head e' f hsrc, hrecv]
  cases hr : recvOf e f.slot q with
  | none => rfl
  | some r =>
    refine congrArg List.head? (h.headsOf_ne fun hs hch => ?_)
    rw [hr, Option.bind_some, ← hch, hown hs] at hapart
    exact hapart hs x rfl rfl

end

/-! ### Several positions -/

/-- The candidate's operands are where their positions say: heads in FIFOs of their own channels, each channel once, and at most
one set. -/
structure Sound (e : Elem) (w : OpWord) (f : Focus) (ps : List Nat) : Prop where
  own : ∀ p ∈ ps, ∀ h, w.src p = 1 → heldAt e w f.slot f.tag p = some h → (headsOf e h.tok.hdr.chan).head? = some h
  apart : ∀ p ∈ ps, ∀ q ∈ ps, ∀ h k, w.src p = 1 → w.src q = 1 → heldAt e w f.slot f.tag p = some h →
    heldAt e w f.slot f.tag q = some k → h.tok.hdr.chan = k.tok.hdr.chan → p = q
  one : (e.sets.filter (ofCand f)).length ≤ 1

theorem Ate.one {w : OpWord} {f : Focus} {p clk : Nat} {x : Held} {e e' : Elem} (h : Ate w f p clk x e e')
    (hone : (e.sets.filter (ofCand f)).length ≤ 1) : (e'.sets.filter (ofCand f)).length ≤ 1 := by
  rw [h.sets]
  split
  · exact hone
  · rw [popSet_sets, List.filter_comm]
    refine (List.length_filter_le _ _).trans ?_
    rw [List.filter_map, List.length_map]
    have hc : ofCand f ∘ popOut f.slot f.tag p = ofCand f := funext fun m => ofCand_popOut f p m
    rw [hc]
    exact hone

section
variable {w : OpWord} {f : Focus} {p clk : Nat} {x : Held} {e e' : Elem} {ps : List Nat} (h : Ate w f p clk x e e')
  (hx : heldAt e w f.slot f.tag p = some x) (hs : Sound e w f (p :: ps)) (hlt : ∀ q ∈ p :: ps, q < 3) (hnot : p ∉ ps)
include h hx hs hlt hnot

/-- The other operands stay where they are while one leaves. -/
theorem Ate.heldAt_rest {q : Nat} (hq : q ∈ ps) : heldAt e' w f.slot f.tag q = heldAt e w f.slot f.tag q := by
  have hne : p ≠ q := fun he => hnot (he ▸ hq)
  by_cases h0 : w.src q = 0
  · exact h.heldAt_set (hlt p List.mem_cons_self) (hlt q (List.mem_cons_of_mem _ hq)) hne h0 (.inr hs.one)
  by_cases h1 : w.src q = 1
  · refine h.heldAt_head h1 (fun hp => hs.own p List.mem_cons_self x hp hx) fun hp k hk hch => hne ?_
    exact hs.apart p List.mem_cons_self q (List.mem_cons_of_mem _ hq) x k hp h1 hx hk hch.symm
  · rw [heldAt_of_other e' f h0 h1, heldAt_of_other e f h0 h1]

theorem Ate.sound : Sound e' w f ps where
  own q hq k hk1 hk := by
    rw [h.heldAt_rest hx hs hlt hnot hq] at hk
    rw [h.headsOf_ne fun hp hch => hnot ?_]
    · exact hs.own q (List.mem_cons_of_mem _ hq) k hk1 hk
    · rw [hs.apart p List.mem_cons_self q (List.mem_cons_of_mem _ hq) x k hp hk1 hx hk hch]
      exact hq
  apart q hq r hr k l hq1 hr1 hk hl := by
    rw [h.heldAt_rest hx hs hlt hnot hq] at hk
    rw [h.heldAt_rest hx hs hlt hnot hr] at hl
    exact hs.apart q (List.mem_cons_of_mem _ hq) r (List.mem_cons_of_mem _ hr) k l hq1 hr1 hk hl
  one := h.one hs.one

end

end Sys2Proof.Machine
end

section
/-! SUPPORT. What the operands of a firing leave behind, position after position (spec/02: R53, R55, R59; spec/10: R259). -/

namespace Sys2Proof.Machine

/-- The state once the operands of some positions have left. -/
def eatFold (f : Focus) (w : OpWord) (o : FireOut) (ps : List Nat) (s : State) : State :=
  ps.foldl (fun s p => (eatPos s f w (o.fwd.contains p) o.hold p).1) s

/-- Position p of those taken holds an operand of a channel. -/
def takenOf (e : Elem) (w : OpWord) (f : Focus) (num p : Nat) : Bool := (takenAt e w f p).any fun h => h.tok.hdr.chan == num

theorem takenAt_congr {e e' : Elem} {w : OpWord} {f : Focus} {p : Nat} (h : heldAt e' w f.slot f.tag p = heldAt e w f.slot f.tag p) :
    takenAt e' w f p = takenAt e w f p := by
  unfold takenAt
  rw [h]

/-- A channel with the acknowledgements of operands that have left. -/
def acked (n : Nat) (c : Chan) : Chan := { c with acks := c.acks ++ List.replicate n { hops := c.hops.length, count := 1 } }

theorem acked_zero (c : Chan) : acked 0 c = c := by
  unfold acked
  rw [List.replicate_zero, List.append_nil]

theorem acked_succ (n : Nat) (c : Chan) :
    acked n { c with acks := c.acks ++ [{ hops := c.hops.length, count := 1 }] } = acked (n + 1) c := by
  unfold acked
  rw [List.replicate_succ, List.append_assoc]
  rfl

theorem Sound.tail {e : Elem} {w : OpWord} {f : Focus} {p : Nat} {ps : List Nat} (h : Sound e w f (p :: ps)) : Sound e w f ps where
  own q hq := h.own q (List.mem_cons_of_mem _ hq)
  apart q hq r hr := h.apart q (List.mem_cons_of_mem _ hq) r (List.mem_cons_of_mem _ hr)
  one := h.one

section
variable {f : Focus} {w : OpWord} {o : FireOut} (hp : f.loc.part < 16)
include hp

theorem eatFold_step {p : Nat} {ps : List Nat} {s : State} (he : f.loc.elem < (getRegion s (rgnOf f.loc)).elems.length) :
    (takenAt (getElem s f.loc) w f p = none ∧ eatFold f w o (p :: ps) s = eatFold f w o ps s) ∨
    ∃ x t, takenAt (getElem s f.loc) w f p = some x ∧ eatFold f w o (p :: ps) s = eatFold f w o ps t ∧
      Ate w f p s.clk x (getElem s f.loc) (getElem t f.loc) ∧
      (getRegion t (rgnOf f.loc)).chans = (ackChan (getRegion s (rgnOf f.loc)) x.tok.hdr.chan).chans ∧
      f.loc.elem < (getRegion t (rgnOf f.loc)).elems.length := by
  cases hx : takenAt (getElem s f.loc) w f p with
  | none =>
    refine .inl ⟨rfl, ?_⟩
    rw [eatFold, List.foldl_cons, eatPos_none _ _ hx]
    rfl
  | some x =>
    obtain ⟨ha, hc⟩ := eatPos_ate (o.fwd.contains p) o.hold hp he hx
    refine .inr ⟨x, _, rfl, rfl, ha, hc, ?_⟩
    rw [(eatPos_eaten s f w (o.fwd.contains p) o.hold p hp he).len]
    exact he

/-- A matched operand that is taken leaves its position clear. -/
theorem eatFold_cleared {ps : List Nat} (hlt : ∀ p ∈ ps, p < 3) {q : Nat} (hq : q < 3) (hsrc : w.src q = 0) {s : State}
    (he : f.loc.elem < (getRegion s (rgnOf f.loc)).elems.length)
    (h : Cleared (getElem s f.loc) f q ∨ (q ∈ ps ∧ heldAt (getElem s f.loc) w f.slot f.tag q ≠ none)) :
    Cleared (getElem (eatFold f w o ps s) f.loc) f q := by
  induction ps generalizing s with
  | nil => exact h.resolve_right fun hn => List.not_mem_nil hn.1
  | cons p ps ih =>
    have hlt' : ∀ p ∈ ps, p < 3 := fun p hp => hlt p (List.mem_cons_of_mem _ hp)
    obtain ⟨hnone, hfold⟩ | ⟨x, t, hx, hfold, hate, -, het⟩ := eatFold_step (w := w) (o := o) (p := p) (ps := ps) hp he
    · rw [hfold]
      refine ih hlt' he (h.imp_right fun ⟨hmem, hheld⟩ => ⟨(List.mem_cons.1 hmem).resolve_left ?_, hheld⟩)
      rintro rfl
      refine hheld ?_
      unfold takenAt at hnone
      rw [Option.filter_eq_none_iff] at hnone
      refine Option.eq_none_iff_forall_not_mem.2 fun k hk => hnone k hk ?_
      rw [hsrc]
      rfl
    · rw [hfold]
      refine ih hlt' het ?_
      obtain hc | ⟨hmem, hheld⟩ := h
      · exact .inl (hate.cleared_mono hc)
      · by_cases hpq : p = q
        · subst hpq
          exact .inl (hate.clears (by rw [hsrc]; decide))
        · refine .inr ⟨(List.mem_cons.1 hmem).resolve_left (Ne.symm hpq), ?_⟩
          rw [hate.heldAt_set (hlt p List.mem_cons_self) hq hpq hsrc (.inl hheld)]
          exact hheld

/-- FIFOs and acknowledgements after some positions of a candidate whose operands are where they should be. -/
structure EatenAll (e e' : Elem) (g g' : Region) (w : OpWord) (f : Focus) (ps : List Nat) : Prop where
  kept : ∀ ch, (∀ p ∈ ps, ∀ h, w.src p = 1 → takenAt e w f p = some h → h.tok.hdr.chan ≠ ch) → headsOf e' ch = headsOf e ch
  popped : ∀ p ∈ ps, ∀ h, w.src p = 1 → takenAt e w f p = some h →
    (headsOf e' h.tok.hdr.chan).map (fun x => x.tok) = ((headsOf e h.tok.hdr.chan).map fun x => x.tok).tail
  chans : g'.chans = g.chans.map fun c => acked (ps.filter (takenOf e w f c.num)).length c

omit hp in
theorem EatenAll.cons_none {e e' : Elem} {g g' : Region} {p : Nat} {ps : List Nat} (h : EatenAll e e' g g' w f ps)
    (hnone : takenAt e w f p = none) : EatenAll e e' g g' w f (p :: ps) where
  kept ch hch := h.kept ch fun q hq => hch q (List.mem_cons_of_mem _ hq)
  popped q hq k hq1 hk := by
    obtain rfl | hq := List.mem_cons.1 hq
    · rw [hnone] at hk; cases hk
    · exact h.popped q hq k hq1 hk
  chans := by
    rw [h.chans]
    refine List.map_congr_left fun c _ => ?_
    rw [List.filter_cons_of_neg (by rw [takenOf, hnone]; simp)]

omit hp in
theorem EatenAll.cons_some {e e1 e' : Elem} {g g1 g' : Region} {p clk : Nat} {x : Held} {ps : List Nat} (h : EatenAll e1 e' g1 g' w f ps)
    (hate : Ate w f p clk x e e1) (hchans : g1.chans = (ackChan g x.tok.hdr.chan).chans) (hx : takenAt e w f p = some x)
    (hs : Sound e w f (p :: ps)) (hlt : ∀ q ∈ p :: ps, q < 3) (hnot : p ∉ ps) : EatenAll e e' g g' w f (p :: ps) := by
  have hheld : heldAt e w f.slot f.tag p = some x := (Option.filter_eq_some_iff.1 hx).1
  have hsame (q : Nat) (hq : q ∈ ps) : takenAt e1 w f q = takenAt e w f q := takenAt_congr (hate.heldAt_rest hheld hs hlt hnot hq)
  have hapart (q : Nat) (hq : q ∈ ps) (k : Held) (hp1 : w.src p = 1) (hq1 : w.src q = 1) (hk : takenAt e w f q = some k) :
      x.tok.hdr.chan ≠ k.tok.hdr.chan := fun hch => hnot (by
    rw [hs.apart p List.mem_cons_self q (List.mem_cons_of_mem _ hq) x k hp1 hq1 hheld (Option.filter_eq_some_iff.1 hk).1 hch]
    exact hq)
  refine ⟨fun ch hch => ?_, fun q hq k hq1 hk => ?_, ?_⟩
  · rw [h.kept ch fun q hq k hq1 hk => hch q (List.mem_cons_of_mem _ hq) k hq1 (hsame q hq ▸ hk)]
    exact hate.headsOf_ne fun hp1 => hch p List.mem_cons_self x hp1 hx
  · obtain rfl | hq := List.mem_cons.1 hq
    · rw [hx] at hk
      cases hk
      rw [h.kept _ fun r hr k hr1 hk => (hapart r hr k hq1 hr1 (hsame r hr ▸ hk)).symm]
      exact hate.headsOf_same hq1
    · rw [h.popped q hq k hq1 (by rw [hsame q hq, hk]), hate.headsOf_ne fun hp1 => hapart q hq k hp1 hq1 hk]
  · have hcount (num : Nat) : ps.filter (takenOf e1 w f num) = ps.filter (takenOf e w f num) :=
      List.filter_congr fun q hq => by rw [takenOf, takenOf, hsame q hq]
    rw [h.chans, hchans]
    show (g.chans.map _).map _ = _
    rw [List.map_map]
    refine List.map_congr_left fun c _ => ?_
    simp only [Function.comp, hcount]
    by_cases hc : c.num = x.tok.hdr.chan
    · rw [if_pos hc, List.filter_cons_of_pos (by rw [takenOf, hx, hc]; simp)]
      exact acked_succ _ c
    · rw [if_neg hc, List.filter_cons_of_neg (by rw [takenOf, hx]; simpa using Ne.symm hc)]

theorem eatFold_all {ps : List Nat} (hlt : ∀ p ∈ ps, p < 3) (hnd : ps.Nodup) {s : State}
    (he : f.loc.elem < (getRegion s (rgnOf f.loc)).elems.length) (hs : Sound (getElem s f.loc) w f ps) :
    EatenAll (getElem s f.loc) (getElem (eatFold f w o ps s) f.loc) (getRegion s (rgnOf f.loc))
      (getRegion (eatFold f w o ps s) (rgnOf f.loc)) w f ps := by
  induction ps generalizing s with
  | nil => exact ⟨fun _ _ => rfl, fun p hp => absurd hp List.not_mem_nil, (List.map_id'' (fun c => acked_zero c) _).symm⟩
  | cons p ps ih =>
    have hlt' : ∀ p ∈ ps, p < 3 := fun p hp => hlt p (List.mem_cons_of_mem _ hp)
    obtain ⟨hnot, hnd'⟩ := List.nodup_cons.1 hnd
    obtain ⟨hnone, hfold⟩ | ⟨x, t, hx, hfold, hate, hchans, het⟩ := eatFold_step (w := w) (o := o) (p := p) (ps := ps) hp he
    · rw [hfold]
      exact (ih hlt' hnd' he hs.tail).cons_none hnone
    · rw [hfold]
      have hheld : heldAt (getElem s f.loc) w f.slot f.tag p = some x := (Option.filter_eq_some_iff.1 hx).1
      exact (ih hlt' hnd' het (hate.sound hheld hs hlt hnot)).cons_some hate hchans hx hs hlt hnot

end

end Sys2Proof.Machine
end

section
/-! SUPPORT. What a firing changes in its clk, whether it issues or stops (spec/02: R44, R56, R59 to R61; spec/14: R328). -/

namespace Sys2Proof.Machine

/-! ### A firing that stops -/

theorem putRec_rest (s : State) (r : Rgn) (x : FRec) : putRec s r x = { s with
    parts := (putRec s r x).parts, cores := (putRec s r x).cores, ids := (putRec s r x).ids, focus := (putRec s r x).focus } := by
  have hset (y : Region) : setRegion s r y = { s with
      parts := (setRegion s r y).parts, ids := (setRegion s r y).ids, focus := (setRegion s r y).focus } := (setRegion_only s r y).rest
  unfold putRec
  dsimp only
  split
  · rw [postRegion, hset]
  · split
    · rw [hset]
    · rw [postRegion, hset]

theorem meetStop_rest (s : State) (l : Loc) (x : FRec) (n : Nat) :
    (meetStop s l x n).clk = s.clk ∧ (meetStop s l x n).ns = s.ns := by
  rw [meetStop_eq]
  split
  · exact ⟨modRegion_clk .., modRegion_ns ..⟩
  · rw [putRec_rest]
    exact ⟨setRegion_clk .., setRegion_ns ..⟩

/-- A stopping cause changes its region in the stop and the queue alone. -/
theorem meetStop_same {s : State} {l : Loc} (hp : l.part < 16) (x : FRec) (n : Nat) :
    let h := getRegion (meetStop s l x n) (rgnOf l)
    h = { getRegion s (rgnOf l) with stopping := h.stopping, recorded := h.recorded, stopW0 := h.stopW0, stopKey := h.stopKey,
                                     faultq := h.faultq, fltlost := h.fltlost } := by
  have hr : (rgnOf l).part < 16 := hp
  intro h
  have hh : h = getRegion (meetStop s l x n) (rgnOf l) := rfl
  rw [meetStop_eq] at hh
  split at hh
  · rw [hh, getRegion_modRegion_same hr]
  · obtain ⟨q, m, hq, -⟩ := putRec_region (s := setRegion s (rgnOf l) (stopMet s l x n)) hr (atElem s l x)
    rw [getRegion_setRegion_same hr] at hq
    rw [hh, hq]
    rfl

/-- What a firing changes at most, whether it issues or stops. -/
structure FiringFrame (s t : State) (f : Focus) : Prop where
  isLocal : Local s t (rgnOf f.loc)
  clk : t.clk = s.clk
  ns : t.ns = s.ns
  others : ∀ n, n ≠ f.loc.elem → nth (getRegion t (rgnOf f.loc)).elems n {} = nth (getRegion s (rgnOf f.loc)).elems n {}
  elem : Elem.Issued (getElem s f.loc) { getElem t f.loc with pending := (getElem s f.loc).pending }
  region : let g := getRegion s (rgnOf f.loc)
    let h := getRegion t (rgnOf f.loc)
    h.st = g.st ∧ h.pour = g.pour ∧ h.img = g.img ∧ h.launch = g.launch ∧ h.place = g.place ∧ h.origin = g.origin

/-- The state in which a candidate that meets a stopping cause leaves its region. -/
def stopFire (s : State) (f : Focus) (x : Stop) : State :=
  { meetStop (modRegion s (rgnOf f.loc) fun g => { g with stopAt := some (g.stopAt.getD (f.loc.elem, f.slot, f.tag)) }) f.loc
      { cause := x.cause, tag := f.tag, slot := f.slot, code := x.code, addr := x.addr } 0 with focus := none }

theorem stopFire_elems {s : State} {f : Focus} (hp : f.loc.part < 16) (x : Stop) :
    (getRegion (stopFire s f x) (rgnOf f.loc)).elems = (getRegion s (rgnOf f.loc)).elems := by
  have hr : (rgnOf f.loc).part < 16 := hp
  show (getRegion (meetStop _ _ _ _) (rgnOf f.loc)).elems = _
  rw [meetStop_same hp, getRegion_modRegion_same hr]

theorem stopFire_frame {s : State} {f : Focus} (hp : f.loc.part < 16) (x : Stop) : FiringFrame s (stopFire s f x) f where
  isLocal :=
    ((modRegion_local _ _ _).trans (meetStop_local _ _ _ _)).trans ⟨rfl, ⟨rfl, rfl⟩, rfl, fun _ _ => rfl, fun _ => rfl⟩
  clk := (meetStop_rest _ _ _ _).1.trans (modRegion_clk ..)
  ns := (meetStop_rest _ _ _ _).2.trans (modRegion_ns ..)
  others n _ := by rw [stopFire_elems hp]
  elem := by rw [getElem_congr (stopFire_elems hp x)]; exact ⟨rfl⟩
  region := by
    have hr : (rgnOf f.loc).part < 16 := hp
    intro g h
    have hh : h = getRegion (meetStop _ f.loc _ 0) (rgnOf f.loc) := rfl
    rw [meetStop_same hp, getRegion_modRegion_same hr] at hh
    rw [hh]
    exact ⟨rfl, rfl, rfl, rfl, rfl, rfl⟩

/-! ### A firing that issues -/

theorem Elem.Framed.issued {e e' : Elem} (h : Elem.Framed e e') : Elem.Issued e e' := ⟨by rw [h.same]⟩

section
variable {s t : State} {f : Focus} {i : FireIn} {o : FireOut} {upd : Bool} {F : Firing} (h : Issuing s t f i o upd F)
  (hp : f.loc.part < 16) (he : f.loc.elem < (getRegion s (rgnOf f.loc)).elems.length)
include h hp he

theorem Issuing.issued : Elem.Issued (getElem s f.loc) { getElem t f.loc with pending := (getElem s f.loc).pending } ∧
    (getElem t f.loc).pending = (getElem s f.loc).pending ++ [F] := by
  obtain ⟨d, hd, ht⟩ := h.elem
  have hi : Elem.Issued (getElem s f.loc) d :=
    (((eaten_eaten s f i.w (judged s f i o) hp he).kept.issued).trans (applyIssue_issued _ _ _ _ _ _)).trans hd.issued
  rw [ht]
  refine ⟨⟨?_⟩, ?_⟩
  · exact congrArg (fun e : Elem => { e with pending := (getElem s f.loc).pending }) hi.same
  · show d.pending ++ [F] = _
    rw [hi.same]

theorem Issuing.frame : FiringFrame s t f where
  isLocal := h.only.isLocal
  clk := h.only.clk
  ns := by rw [h.only.rest]
  others := h.others
  elem := (h.issued hp he).1
  region := by rw [h.region]; exact ⟨rfl, rfl, rfl, rfl, rfl, rfl⟩

/-- The element's FIFOs, sets, predicates and unit after an issue. -/
theorem Issuing.fields : (getElem t f.loc).heads = (getElem (eaten s f i.w (judged s f i o)) f.loc).heads ∧
    (∀ q, Cleared (getElem (eaten s f i.w (judged s f i o)) f.loc) f q → Cleared (getElem t f.loc) f q) ∧
    (getElem t f.loc).preds = (if upd then predUpdate i.w (getElem s f.loc).preds else (getElem s f.loc).preds) ∧
    (getElem t f.loc).lastIssue = some s.clk := by
  obtain ⟨d, hd, ht⟩ := h.elem
  have hpreds : (getElem (eaten s f i.w (judged s f i o)) f.loc).preds = (getElem s f.loc).preds := by
    rw [(eaten_eaten s f i.w (judged s f i o) hp he).kept.same]
  have happly (e : Elem) : (applyIssue s.clk i.w i.opc (judged s f i o) upd e).heads = e.heads ∧
      (applyIssue s.clk i.w i.opc (judged s f i o) upd e).sets = e.sets ∧
      (applyIssue s.clk i.w i.opc (judged s f i o) upd e).preds = (if upd then predUpdate i.w e.preds else e.preds) := by
    cases upd <;> exact ⟨rfl, rfl, rfl⟩
  obtain ⟨hah, has, hap⟩ := happly (getElem (eaten s f i.w (judged s f i o)) f.loc)
  rw [ht]
  refine ⟨?_, fun q hq m hm hslot htag => ?_, ?_, ?_⟩
  · show d.heads = _
    rw [hd.same, ← hah]
  · obtain ⟨m', hm', hs', ht', hpos⟩ | hnone := hd.sets m hm
    · rw [hpos q]
      exact hq m' (has ▸ hm') (hs'.trans hslot) (ht'.trans htag)
    · exact hnone q
  · show d.preds = _
    rw [hd.same, ← hpreds, ← hap]
  · show d.lastIssue = _
    rw [hd.same]
    rfl

end

end Sys2Proof.Machine
end

section
/-! SUPPORT. The predicate, the operands and the quota of a firing that issues (spec/02: R55 to R57, R59; spec/04: R98, R99, R112). -/

namespace Sys2Proof.Machine

/-! ### Predicates -/

theorem predUpdate_last (w : OpWord) (p : Nat) (h : w.pidx.toNat = 15) : predUpdate w p = p := if_pos h

/-- A predicate update changes the bit that it names, by PACT (R56). -/
theorem bit_predUpdate (w : OpWord) (p : Nat) (h : w.pidx.toNat ≠ 15) :
    (∀ k, k ≠ w.pidx.toNat → bit (predUpdate w p) k = bit p k) ∧
    bit (predUpdate w p) w.pidx.toNat =
      match w.pact.toNat with | 1 => true | 2 => false | 3 => !bit p w.pidx.toNat | _ => bit p w.pidx.toNat := by
  unfold predUpdate
  rw [if_neg h]
  generalize w.pidx.toNat = n
  generalize w.pact.toNat = a
  unfold bit
  match a with
  | 1 =>
    show (∀ k, k ≠ n → (p ||| 2 ^ n).testBit k = p.testBit k) ∧ (p ||| 2 ^ n).testBit n = true
    refine ⟨fun k hk => ?_, ?_⟩
    · rw [Nat.testBit_or, Nat.testBit_two_pow_of_ne (Ne.symm hk), Bool.or_false]
    · rw [Nat.testBit_or, Nat.testBit_two_pow_self, Bool.or_true]
  | 2 =>
    show (∀ k, k ≠ n → (if p.testBit n = true then p - 2 ^ n else p).testBit k = p.testBit k) ∧
      (if p.testBit n = true then p - 2 ^ n else p).testBit n = false
    by_cases hb : p.testBit n = true
    · rw [if_pos hb]
      exact ⟨fun k hk => by rw [testBit_sub_two_pow hb]; simp [hk], by rw [testBit_sub_two_pow hb]; simp⟩
    · rw [if_neg hb]
      exact ⟨fun _ _ => rfl, Bool.eq_false_iff.2 hb⟩
  | 3 =>
    show (∀ k, k ≠ n → (p ^^^ 2 ^ n).testBit k = p.testBit k) ∧ (p ^^^ 2 ^ n).testBit n = !p.testBit n
    refine ⟨fun k hk => ?_, ?_⟩
    · rw [Nat.testBit_xor, Nat.testBit_two_pow_of_ne (Ne.symm hk), Bool.xor_false]
    · rw [Nat.testBit_xor, Nat.testBit_two_pow_self, Bool.xor_true]
  | 0 => exact ⟨fun _ _ => rfl, rfl⟩
  | _ + 4 => exact ⟨fun _ _ => rfl, rfl⟩

/-! ### The positions that a candidate takes -/

/-- The positions that a candidate takes: one of a `merge`, the control and its side of a `cmerge` (R98, R99). -/
def eats (opc : BitVec 8) (f : Focus) (ctl : Opd) (p : Nat) : Bool :=
  if opc = 0x02 then p == b2n f.mergeB else if opc = 0x03 then p == 2 || ctl.poison || p == (if ctl.truth then 0 else 1) else true

theorem eatsOf_perm {opc : BitVec 8} {q : FireIn} {f : Focus} {ctl : Opd} (hm : q.mergeB = f.mergeB) (hc : opc = 0x03 → q.c = ctl) :
    (eatsOf opc.toNat q).Perm ([0, 1, 2].filter (eats opc f ctl)) := by
  by_cases h2 : opc = 0x02
  · subst h2
    show [if q.mergeB then 1 else 0].Perm ([0, 1, 2].filter fun p => p == b2n f.mergeB)
    rw [hm]
    cases f.mergeB <;> decide
  by_cases h3 : opc = 0x03
  · subst h3
    show (eatsOf 0x03 q).Perm ([0, 1, 2].filter fun p => p == 2 || ctl.poison || p == (if ctl.truth then 0 else 1))
    rw [eatsOf_cmerge, hc rfl]
    cases ctl.poison <;> cases ctl.truth <;> decide
  · have h2' : opc.toNat ≠ 0x02 := fun h => h2 (BitVec.eq_of_toNat_eq h)
    have h3' : opc.toNat ≠ 0x03 := fun h => h3 (BitVec.eq_of_toNat_eq h)
    unfold eatsOf eats
    rw [if_neg h2', if_neg h3']
    simp only [h2, h3, if_false]
    decide

theorem gather_cmerge (s : State) (f : Focus) (w : OpWord) :
    (gather s f w 0x03).c = operandAt (getRegion s (rgnOf f.loc)) (getElem s f.loc).ahead w f.slot f.tag 2 := by
  have ht (e : Elem) : (takes e 0x03 f.slot f.tag f.mergeB).contains 2 = true := by
    unfold takes
    cases (setOf e f.slot f.tag).bind fun m => m.c with
    | none => rfl
    | some c =>
      show (if c.tok.hdr.poison then [0, 1, 2] else if c.truth then [2, 0] else [2, 1]).contains 2 = true
      cases c.tok.hdr.poison <;> cases c.truth <;> rfl
  unfold gather
  dsimp only
  rw [ht]
  rfl

end Sys2Proof.Machine
end

section
/-! SUPPORT. The frame of a firing, and its operands by the positions that it takes (spec/02: R44, R56, R57, R59 to R61; spec/04:
R98, R99, R112). -/

namespace Sys2Proof.Machine

section
variable {s : State} {f : Focus} {w : OpWord} {opc : Nat} {m : FireIn → FireRes}

theorem Elem.Issued.fields {e e' : Elem} (h : Elem.Issued e e') : e'.cfg = e.cfg ∧ e'.consts = e.consts ∧ e'.states = e.states ∧
    e'.banks = e.banks ∧ e'.scratch = e.scratch ∧ e'.badWords = e.badWords ∧ e'.gauges = e.gauges ∧ e'.flags = e.flags ∧
    e'.eosFlags = e.eosFlags ∧ e'.port = e.port ∧ e'.inject = e.inject ∧ e'.oldest = e.oldest ∧ e'.badCtrl = e.badCtrl := by
  rw [h.same]
  exact ⟨rfl, rfl, rfl, rfl, rfl, rfl, rfl, rfl, rfl, rfl, rfl, rfl, rfl⟩

theorem fire_frame (hf : s.focus = some f) (hp : f.loc.part < 16) (he : f.loc.elem < (getRegion s (rgnOf f.loc)).elems.length) :
    FiringFrame s (fire s w opc m) f := by
  unfold fire
  rw [hf]
  dsimp only
  split
  · next x _ => exact stopFire_frame hp x
  · next o _ =>
    obtain ⟨F, hF⟩ := issue_issuing s f (gather s f w opc) o o.upd hp he
    exact hF.frame hp he

/-- A chosen candidate that joins the firings of its element has issued. -/
theorem fire_issuing {F : Firing} (h : Chosen s f) (hm : ∀ q, (m q).Takes opc q)
    (hF : (getElem (fire s w opc m) f.loc).pending = (getElem s f.loc).pending ++ [F]) :
    ∃ o, o.Takes opc (gather s f w opc) ∧ Issuing s (fire s w opc m) f (gather s f w opc) o o.upd F := by
  obtain ⟨hfoc, hmode, hp, he⟩ := h
  generalize ht : fire s w opc m = t at hF ⊢
  unfold fire at ht
  rw [hfoc] at ht
  dsimp only at ht
  rw [if_neg (by rw [hmode]; decide)] at ht
  have htakes := hm (gather s f w opc)
  cases hr : m (gather s f w opc) with
  | stop x =>
    rw [hr] at ht
    have hkeep : getElem t f.loc = getElem s f.loc := by rw [← ht]; exact getElem_congr (stopFire_elems hp x)
    rw [hkeep] at hF
    exact absurd hF (by simp)
  | go o =>
    rw [hr] at ht htakes
    obtain ⟨F', hi⟩ := issue_issuing s f (gather s f w opc) o o.upd hp he
    have hsame : F' = F := by
      have := (hi.issued hp he).2
      rw [show issue s f (gather s f w opc) o o.upd = t from ht, hF] at this
      simpa using this.symm
    exact ⟨o, htakes, by rw [← ht, ← hsame]; exact hi⟩

end

/-! ### The operands that leave -/

/-- The operand that leaves a position, where the candidate takes it. -/
def goneAt (E : Nat → Bool) (e : Elem) (w : OpWord) (f : Focus) (p : Nat) : Option Held := if E p then takenAt e w f p else none

theorem goneAt_some {E : Nat → Bool} {e : Elem} {w : OpWord} {f : Focus} {p : Nat} {h : Held} :
    goneAt E e w f p = some h ↔ E p = true ∧ takenAt e w f p = some h := by
  unfold goneAt
  split <;> simp_all

theorem goneAt_any (E : Nat → Bool) (e : Elem) (w : OpWord) (f : Focus) (num p : Nat) :
    ((goneAt E e w f p).any fun h => h.tok.hdr.chan == num) = (E p && takenOf e w f num p) := by
  unfold goneAt takenOf
  cases E p <;> rfl

theorem Issuing.eaten_fold {s t : State} {f : Focus} {i : FireIn} {o : FireOut} {upd : Bool} {F : Firing} (_ : Issuing s t f i o upd F) :
    eaten s f i.w (judged s f i o) = eatFold f i.w (judged s f i o) o.eat { s with ids := s.ids + 1, focus := none } := by
  have heat : (judged s f i o).eat = o.eat := by rw [(judged_judged s f i o).same]
  rw [eaten, eatAll_fold, heat]
  rfl

section
variable {s t : State} {f : Focus} {i : FireIn} {o : FireOut} {upd : Bool} {F : Firing} (h : Issuing s t f i o upd F)
  (hp : f.loc.part < 16) (he : f.loc.elem < (getRegion s (rgnOf f.loc)).elems.length)
  {E : Nat → Bool} (hE : o.eat.Perm ([0, 1, 2].filter E))
include h hp he hE

omit h hp he in
theorem mem_eaten (p : Nat) : p ∈ o.eat ↔ p < 3 ∧ E p = true := by
  rw [hE.mem_iff, List.mem_filter]
  refine and_congr_left fun _ => ?_
  simp
  omega

/-- A matched operand that leaves has left its set (R55). -/
theorem Issuing.cleared {p : Nat} (hp3 : p < 3) (hsrc : i.w.src p = 0) (hg : goneAt E (getElem s f.loc) i.w f p ≠ none) :
    Cleared (getElem t f.loc) f p := by
  obtain ⟨x, hx⟩ := Option.ne_none_iff_exists'.1 hg
  obtain ⟨hEp, htaken⟩ := goneAt_some.1 hx
  have hheld := (Option.filter_eq_some_iff.1 htaken).1
  refine (h.fields hp he).2.1 p ?_
  rw [h.eaten_fold]
  exact eatFold_cleared hp (fun q hq => ((mem_eaten hE q).1 hq).1) hp3 hsrc he
    (.inr ⟨(mem_eaten hE p).2 ⟨hp3, hEp⟩, fun hn => Option.some_ne_none x (hheld.symm.trans hn)⟩)

/-- FIFOs and channels after an issue, with every token in the FIFO of its own channel (R59, R79, R259). -/
theorem Issuing.fifos (hs : Sound (getElem s f.loc) i.w f [0, 1, 2]) :
    (∀ ch, (∀ p < 3, ∀ x, i.w.src p = 1 → goneAt E (getElem s f.loc) i.w f p = some x → x.tok.hdr.chan ≠ ch) →
      headsOf (getElem t f.loc) ch = headsOf (getElem s f.loc) ch) ∧
    (∀ p < 3, ∀ x, i.w.src p = 1 → goneAt E (getElem s f.loc) i.w f p = some x →
      (headsOf (getElem t f.loc) x.tok.hdr.chan).map (fun y => y.tok) =
        ((headsOf (getElem s f.loc) x.tok.hdr.chan).map fun y => y.tok).tail) ∧
    (getRegion t (rgnOf f.loc)).chans = (getRegion s (rgnOf f.loc)).chans.map fun c =>
      { acked ([0, 1, 2].filter fun p => (goneAt E (getElem s f.loc) i.w f p).any fun x => x.tok.hdr.chan == c.num).length c with
        reserved := c.reserved + (quotaOf F).count c.num } := by
  have hmem := mem_eaten hE
  have hin (p : Nat) (hq : p ∈ o.eat) : p ∈ [0, 1, 2] := by have := ((hmem p).1 hq).1; simp; omega
  have hs' : Sound (getElem s f.loc) i.w f o.eat :=
    ⟨fun p hp => hs.own p (hin p hp), fun p hp q hq => hs.apart p (hin p hp) q (hin q hq), hs.one⟩
  have hnd : o.eat.Nodup := hE.nodup_iff.2 (List.Nodup.filter _ (by decide))
  have hall := eatFold_all (o := judged s f i o) hp (fun p hq => ((hmem p).1 hq).1) hnd
    (s := { s with ids := s.ids + 1, focus := none }) he hs'
  rw [← h.eaten_fold] at hall
  have hheads (ch : Nat) : headsOf (getElem t f.loc) ch = headsOf (getElem (eaten s f i.w (judged s f i o)) f.loc) ch :=
    headsOf_congr (h.fields hp he).1 ch
  refine ⟨fun ch hch => ?_, fun p hp3 x hsrc hx => ?_, ?_⟩
  · rw [hheads]
    exact hall.kept ch fun p hq x hsrc hx =>
      hch p ((hmem p).1 hq).1 x hsrc (goneAt_some.2 ⟨((hmem p).1 hq).2, hx⟩)
  · rw [hheads]
    obtain ⟨hEp, hx'⟩ := goneAt_some.1 hx
    exact hall.popped p ((hmem p).2 ⟨hp3, hEp⟩) x hsrc hx'
  · rw [h.chans, hall.chans, List.map_map]
    refine List.map_congr_left fun c _ => ?_
    have hlen : (o.eat.filter (takenOf (getElem s f.loc) i.w f c.num)).length =
        ([0, 1, 2].filter fun p => (goneAt E (getElem s f.loc) i.w f p).any fun x => x.tok.hdr.chan == c.num).length := by
      rw [(hE.filter _).length_eq, List.filter_filter]
      refine congrArg List.length (List.filter_congr fun p _ => ?_)
      rw [goneAt_any, Bool.and_comm]
    rw [← hlen]
    rfl

end

end Sys2Proof.Machine

open Sys2Proof Sys2Proof.Machine

/-- Settles O41: whether it issues or stops, a firing leaves what `FiringFrame` says; one that issues takes the positions of
`eatsOf`, which are those of the statement, and its operands leave one after another. -/
theorem elementFrame : Obligations.ElementFrame := by
  refine ⟨fun s t i opc w f hi hfoc hp he ht => ?_, fun s t i opc w f F hi hch ht hF => ?_⟩
  · obtain ⟨m, hm, -⟩ := op_means hi s
    have hst : fire s w opc.toNat m = t := by rw [hm] at ht; exact Host.Outcome.next.inj ht
    obtain ⟨hloc, hclk, hns, hothers, helem, hregion⟩ := hst ▸ fire_frame (w := w) (opc := opc.toNat) (m := m) hfoc hp he
    exact ⟨hloc.hbm, hloc.host.1, hloc.host.2, hloc.lanes, hclk, hns, hloc.regions, hothers, hloc.cores, helem.fields, hregion⟩
  · obtain ⟨m, hm, htakes⟩ := op_means hi s
    have hst : fire s w opc.toNat m = t := by rw [hm] at ht; exact Host.Outcome.next.inj ht
    obtain ⟨o, ho, hiss⟩ := fire_issuing hch htakes (hst ▸ hF)
    rw [hst] at hiss
    obtain ⟨hfoc, hmode, hp, he⟩ := hch
    obtain ⟨-, -, hpreds, hlast⟩ := hiss.fields hp he
    intro e e' g n held ctl eats gone sends
    have hE : o.eat.Perm ([0, 1, 2].filter eats) := by
      rw [ho.eat]
      refine eatsOf_perm (f := f) rfl fun h3 => ?_
      subst h3
      exact gather_cmerge s f w
    have hupd : o.upd = true ↔ opc ≠ 0x11 := by
      rw [ho.upd, bne_iff_ne]
      exact not_congr ⟨fun h => BitVec.eq_of_toNat_eq h, fun h => congrArg BitVec.toNat h⟩
    refine ⟨fun hno => hpreds.trans ?_, fun hopc hn => ?_, fun p hp3 hsrc hgone => hiss.cleared hp he hE hp3 hsrc hgone,
      fun hown hapart hone => ?_, hlast, by rw [hiss.region]⟩
    · split
      · next hu => exact predUpdate_last w _ (hno.resolve_left (hupd.1 hu))
      · rfl
    · rw [show e'.preds = predUpdate w e.preds from hpreds.trans (if_pos (hupd.2 hopc))]
      exact bit_predUpdate w e.preds hn
    · have hlt (p : Nat) (hp : p ∈ [0, 1, 2]) : p < 3 := by simp at hp; omega
      obtain ⟨hkept, hpopped, hchans⟩ := hiss.fifos hp he hE
        ⟨fun p hp => hown p (hlt p hp), fun p hp q hq => hapart p (hlt p hp) q (hlt q hq), hone⟩
      refine ⟨hkept, hpopped, hchans.trans (List.map_congr_left fun c _ => ?_)⟩
      have hsame : ([0, 1, 2].filter fun p => (goneAt eats e w f p).any fun x => x.tok.hdr.chan == c.num) =
          [0, 1, 2].filter fun p => match gone p with | some h => h.tok.hdr.chan == c.num | none => false :=
        List.filter_congr fun p _ => by
          show (gone p).any _ = _
          cases gone p <;> rfl
      rw [acked, ← List.map_const']
      exact congrArg (fun l : List Nat => { c with
        reserved := c.reserved + sends.count c.num, acks := c.acks ++ l.map fun _ => (⟨c.hops.length, 1⟩ : AckFlight) }) hsame
end

section
/-! SUPPORT. The EOS flags and the EOS heads of a slot leave (spec/04: R92; spec/10: R259). -/

namespace Sys2Proof.Machine

/-- The EOS of one position of a slot leaves: its flag, or its head with its channel's unit of quota. -/
def clearPos (f : Focus) (w : OpWord) (s : State) (p : Nat) : State :=
  let e := getElem s f.loc
  if w.src p = 0 then
    let k := recvIndex e f.slot p
    modElem s f.loc fun e => { e with eosFlags := if bit e.eosFlags k then e.eosFlags - 2 ^ k else e.eosFlags,
                                      eosTags := delKey e.eosTags k }
  else match recvOf e f.slot p with
    | some v => modRegion (modElem s f.loc fun e => popHead e v.chan s.clk) (rgnOf f.loc) fun g => ackChan g v.chan
    | none => s

theorem clearEos_fold (s : State) (f : Focus) (w : OpWord) : clearEos s f w = (tokPos w).foldl (clearPos f w) s := rfl

/-- Position p is a MATCH position whose EOS flag is bit j. -/
def flagAt (e : Elem) (f : Focus) (w : OpWord) (j p : Nat) : Bool := w.src p == 0 && recvIndex e f.slot p == j

/-- Position p is a HEAD position of a channel. -/
def headAt (e : Elem) (f : Focus) (w : OpWord) (num p : Nat) : Bool :=
  w.src p == 1 && match recvOf e f.slot p with | some v => v.chan == num | none => false

theorem popHead_eosFlags (e : Elem) (ch clk : Nat) : (popHead e ch clk).eosFlags = e.eosFlags := by
  unfold popHead
  split <;> rfl

theorem popHead_elem (e : Elem) (ch clk : Nat) : popHead e ch clk = { e with
    eosFlags := (popHead e ch clk).eosFlags, eosTags := (popHead e ch clk).eosTags, heads := (popHead e ch clk).heads } := by
  unfold popHead
  split <;> rfl

/-- An EOS flag cleared where it is set. -/
theorem bit_clearFlag (m k j : Nat) : bit (if bit m k then m - 2 ^ k else m) j = (bit m j && !(k == j)) := by
  unfold bit
  by_cases h : m.testBit k = true
  · rw [if_pos h, testBit_sub_two_pow h]
    by_cases hj : k = j
    · simp [hj]
    · simp [hj, Ne.symm hj]
  · rw [if_neg h]
    by_cases hj : k = j
    · subst hj
      simpa using h
    · simp [hj]

/-- The EOS of some positions of a slot have left, and nothing else of its element. -/
structure EosGone (s t : State) (f : Focus) (w : OpWord) (ps : List Nat) : Prop where
  only : RegionOnly s t (rgnOf f.loc)
  elem : getElem t f.loc = { getElem s f.loc with
    eosFlags := (getElem t f.loc).eosFlags, eosTags := (getElem t f.loc).eosTags, heads := (getElem t f.loc).heads }
  len : (getRegion t (rgnOf f.loc)).elems.length = (getRegion s (rgnOf f.loc)).elems.length
  flags : ∀ j, bit (getElem t f.loc).eosFlags j = (bit (getElem s f.loc).eosFlags j && !ps.any (flagAt (getElem s f.loc) f w j))
  heads : ∀ ch, (headsOf (getElem t f.loc) ch).map (fun h => h.tok) =
    ((headsOf (getElem s f.loc) ch).map fun h => h.tok).drop (ps.filter (headAt (getElem s f.loc) f w ch)).length
  chans : (getRegion t (rgnOf f.loc)).chans = (getRegion s (rgnOf f.loc)).chans.map fun c =>
    acked (ps.filter (headAt (getElem s f.loc) f w c.num)).length c

theorem EosGone.none (s : State) (f : Focus) (w : OpWord) {ps : List Nat} (hf : ∀ j, ps.any (flagAt (getElem s f.loc) f w j) = false)
    (hh : ∀ ch, ps.filter (headAt (getElem s f.loc) f w ch) = []) : EosGone s s f w ps where
  only := RegionOnly.refl _ _
  elem := rfl
  len := rfl
  flags j := by rw [hf, Bool.not_false, Bool.and_true]
  heads ch := by rw [hh]; rfl
  chans := by simp only [hh, List.length_nil, acked_zero, List.map_id']

section
variable {s t u : State} {f : Focus} {w : OpWord}

theorem EosGone.append {ps qs : List Nat} (h : EosGone s t f w ps) (k : EosGone t u f w qs) : EosGone s u f w (ps ++ qs) := by
  have hcfg : (getElem t f.loc).cfg = (getElem s f.loc).cfg := by rw [h.elem]
  have hflag (j : Nat) : flagAt (getElem t f.loc) f w j = flagAt (getElem s f.loc) f w j := by
    funext p
    unfold flagAt recvIndex
    rw [hcfg]
  have hhead (ch : Nat) : headAt (getElem t f.loc) f w ch = headAt (getElem s f.loc) f w ch := by
    funext p
    unfold headAt recvOf
    rw [hcfg]
  refine ⟨h.only.trans k.only, ?_, k.len.trans h.len, fun j => ?_, fun ch => ?_, ?_⟩
  · rw [k.elem, h.elem]
  · rw [k.flags, h.flags, hflag, List.any_append, Bool.not_or, Bool.and_assoc]
  · rw [k.heads, h.heads, hhead, List.drop_drop, List.filter_append, List.length_append]
  · rw [k.chans, h.chans, List.map_map]
    refine List.map_congr_left fun c _ => ?_
    have hnum : ∀ n, (acked n c).num = c.num := fun _ => rfl
    simp only [Function.comp, hnum, hhead, List.filter_append, List.length_append]
    unfold acked
    simp only [List.append_assoc, ← List.replicate_add]

variable (hp : f.loc.part < 16) (he : f.loc.elem < (getRegion s (rgnOf f.loc)).elems.length)
include hp he

omit he in
theorem modElem_len (g : Elem → Elem) :
    (getRegion (modElem s f.loc g) (rgnOf f.loc)).elems.length = (getRegion s (rgnOf f.loc)).elems.length := by
  have hr : (rgnOf f.loc).part < 16 := hp
  rw [modElem, getRegion_modRegion_same hr]
  exact modNth_length ..

/-- The EOS flag of a MATCH position is cleared (R92). -/
theorem clearPos_flag {p : Nat} (hsrc : w.src p = 0) : EosGone s (clearPos f w s p) f w [p] := by
  have hr : (rgnOf f.loc).part < 16 := hp
  have hnot (ch : Nat) : headAt (getElem s f.loc) f w ch p = false := by unfold headAt; rw [hsrc]; rfl
  unfold clearPos
  dsimp only
  rw [if_pos hsrc]
  refine ⟨modElem_only _ _ _, ?_, modElem_len hp _, fun j => ?_, fun ch => ?_, ?_⟩
  · rw [getElem_modElem_same hp he]
  · rw [getElem_modElem_same hp he]
    show bit (if bit (getElem s f.loc).eosFlags _ then _ else _) j = _
    rw [bit_clearFlag, List.any_cons, List.any_nil, Bool.or_false, flagAt, hsrc]
    rfl
  · rw [getElem_modElem_same hp he, List.filter_cons_of_neg (by rw [hnot]; decide)]
    rfl
  · rw [modElem, getRegion_modRegion_same hr]
    simp only [List.filter_cons_of_neg, hnot, List.filter_nil, List.length_nil, acked_zero, List.map_id', Bool.false_eq_true, not_false_eq_true]

/-- The head of a HEAD position leaves, and its channel's unit of quota is on its way back (R92, R259). -/
theorem clearPos_head {p : Nat} (hsrc : w.src p = 1) {v : RecvEnt} (hv : recvOf (getElem s f.loc) f.slot p = some v) :
    EosGone s (clearPos f w s p) f w [p] := by
  have hr : (rgnOf f.loc).part < 16 := hp
  have hnot (j : Nat) : flagAt (getElem s f.loc) f w j p = false := by unfold flagAt; rw [hsrc]; rfl
  have hat (ch : Nat) : headAt (getElem s f.loc) f w ch p = (v.chan == ch) := by unfold headAt; rw [hsrc, hv]; rfl
  have hclear : clearPos f w s p = modRegion (modElem s f.loc fun e => popHead e v.chan s.clk) (rgnOf f.loc) fun g => ackChan g v.chan := by
    unfold clearPos
    dsimp only
    rw [if_neg (by rw [hsrc]; decide), hv]
  have hel : getElem (clearPos f w s p) f.loc = popHead (getElem s f.loc) v.chan s.clk := by
    rw [hclear, getElem_modRegion hp rfl, getElem_modElem_same hp he]
  have hreg : getRegion (clearPos f w s p) (rgnOf f.loc) =
      ackChan (getRegion (modElem s f.loc fun e => popHead e v.chan s.clk) (rgnOf f.loc)) v.chan := by
    rw [hclear, getRegion_modRegion_same hr]
  refine ⟨?_, ?_, ?_, fun j => ?_, fun ch => ?_, ?_⟩
  · rw [hclear]; exact (modElem_only _ _ _).trans (modRegion_only _ _ _)
  · rw [hel]; exact popHead_elem _ _ _
  · rw [hreg]; exact modElem_len hp _
  · rw [hel, popHead_eosFlags, List.any_cons, hnot]
    simp
  · rw [hel]
    by_cases hc : v.chan = ch
    · subst hc
      rw [headsOf_popHead_same, List.filter_cons_of_pos (by rw [hat]; simp), List.filter_nil]
      exact (List.drop_one).symm
    · rw [headsOf_popHead_ne _ _ hc, List.filter_cons_of_neg (by rw [hat]; simpa using hc)]
      rfl
  · rw [hreg, modElem, getRegion_modRegion_same hr]
    refine List.map_congr_left fun c _ => ?_
    by_cases hc : c.num = v.chan
    · rw [if_pos hc, List.filter_cons_of_pos (by rw [hat, hc]; simp)]
      rfl
    · rw [if_neg hc, List.filter_cons_of_neg (by rw [hat]; simpa using Ne.symm hc)]
      exact (acked_zero c).symm

theorem clearPos_gone {p : Nat} (hsrc : w.isTok p = true) : EosGone s (clearPos f w s p) f w [p] := by
  have h2 : w.src p < 2 := by simpa [OpWord.isTok] using hsrc
  obtain h0 | h1 : w.src p = 0 ∨ w.src p = 1 := by omega
  · exact clearPos_flag hp he h0
  · cases hv : recvOf (getElem s f.loc) f.slot p with
    | some v => exact clearPos_head hp he h1 hv
    | none =>
      have hsame : clearPos f w s p = s := by
        unfold clearPos
        dsimp only
        rw [if_neg (by rw [h1]; decide), hv]
      rw [hsame]
      refine .none s f w (fun j => ?_) fun ch => ?_
      · rw [List.any_cons, flagAt, h1]; rfl
      · rw [List.filter_cons_of_neg (by rw [headAt, h1, hv]; simp)]; rfl

theorem clearAll_gone {ps : List Nat} (hps : ∀ p ∈ ps, w.isTok p = true) : EosGone s (ps.foldl (clearPos f w) s) f w ps := by
  induction ps generalizing s with
  | nil => exact .none s f w (fun _ => rfl) fun _ => rfl
  | cons p ps ih =>
    have h := clearPos_gone (w := w) hp he (hps p List.mem_cons_self)
    exact h.append (ih (h.len.symm ▸ he) fun q hq => hps q (List.mem_cons_of_mem _ hq))

/-- The EOS of a slot leave its element (R92). -/
theorem clearEos_gone : EosGone s (clearEos s f w) f w (tokPos w) := by
  rw [clearEos_fold]
  exact clearAll_gone hp he fun _ h => (List.mem_filter.1 h).2

end

end Sys2Proof.Machine
end

section
/-! SUPPORT. The firing of an EOS set (spec/04: R92, R108, R109; spec/06: R157; spec/08: R190). -/

namespace Sys2Proof.Machine

/-! ### One EOS on a channel -/

section
variable {α β : Type}

theorem firstPerKey_map (key : β → Nat) (g : α → β) (l : List α) :
    firstPerKey key (l.map g) = (firstPerKey (fun a => key (g a)) l).map g := by
  induction l with
  | nil => rfl
  | cons a l ih =>
    rw [List.map_cons, firstPerKey, firstPerKey, List.map_cons, ih, List.filter_map]
    rfl

theorem firstPerKey_nodup (key : α → Nat) (l : List α) : (firstPerKey key l).Nodup := by
  induction l with
  | nil => exact List.nodup_nil
  | cons a l ih =>
    rw [firstPerKey, List.nodup_cons]
    exact ⟨fun h => by simpa using (List.mem_filter.1 h).2, ih.filter _⟩

theorem mem_firstPerKey {key : α → Nat} (hk : ∀ a b, key a = key b → a = b) {l : List α} {a : α} : a ∈ firstPerKey key l ↔ a ∈ l := by
  induction l with
  | nil => rfl
  | cons b l ih =>
    rw [firstPerKey, List.mem_cons, List.mem_cons, List.mem_filter, ih, bne_iff_ne]
    by_cases hab : a = b
    · simp [hab]
    · have hkey : key a ≠ key b := fun h => hab (hk a b h)
      simp [hab, hkey]

theorem firstPerKey_of_nodup {key : α → Nat} {l : List α} (h : (l.map key).Nodup) : firstPerKey key l = l := by
  induction l with
  | nil => rfl
  | cons a l ih =>
    rw [List.map_cons, List.nodup_cons] at h
    rw [firstPerKey, ih h.2, List.filter_eq_self.2]
    intro b hb
    rw [bne_iff_ne]
    exact fun hk => h.1 (hk ▸ List.mem_map_of_mem hb)

end

/-- The key of an output of an EOS set: its channel and KIND. -/
def outKey (t : OutTok) : Nat := 4 * t.chan + t.tok.hdr.kind

/-- What an output sends. -/
def OutTok.view (o : OutTok) : Nat × Nat × Hdr := (o.chan, o.tok.payload, o.tok.hdr.plain)

theorem expandOuts_append (e : Elem) (a b : List (Nat × Token)) : expandOuts e (a ++ b) = expandOuts e a ++ expandOuts e b :=
  List.flatMap_append ..

/-- A token on every channel of its entry. -/
theorem expandOuts_one (e : Elem) (p : Nat × Token) :
    expandOuts e [p] = (destChans e p.1).map fun ch => { chan := ch, tok := { p.2 with hdr := { p.2.hdr with chan := ch } } } := by
  rw [expandOuts, List.flatMap_cons, List.flatMap_nil, List.append_nil]

/-- The EOS of a set on a channel. -/
def eosOn (i : FireIn) (ch : Nat) : OutTok :=
  { chan := ch, tok := { hdr := { withSeq i.g (eosToken (outTag i.w i.tag)).hdr with chan := ch } } }

theorem eosOn_key (i : FireIn) (ch : Nat) : outKey (eosOn i ch) = 4 * ch + 1 := by
  show 4 * ch + (withSeq _ _).kind = _
  rw [withSeq_kind]
  rfl

/-- The channels on which an EOS set of a slot emits, entry after entry. -/
def eosChans (e : Elem) (i : FireIn) : List Nat := (entriesOf i.opc i.w).flatMap (destChans e)

theorem eosOn_view (i : FireIn) (ch : Nat) : (eosOn i ch).view = (ch, 0, ({ tag := outTag i.w i.tag, kind := 1 } : Hdr).plain) := by
  show (ch, 0, (withSeq _ _).plain) = _
  rw [withSeq_plain]
  rfl

theorem expandOuts_eosOuts (e : Elem) (i : FireIn) : expandOuts e (eosOuts i) = (eosChans e i).map (eosOn i) := by
  unfold expandOuts eosOuts eosChans
  rw [List.flatMap_map, List.map_flatMap]
  rfl

theorem eosEntries_eq (e : Elem) (i : FireIn) :
    ((entriesOf i.opc i.w).flatMap fun k => toEntry e k { tag := outTag i.w i.tag, kind := 1 } 0) =
      (eosChans e i).map fun ch => (eosOn i ch).view := by
  unfold eosChans
  rw [List.map_flatMap]
  simp only [eosOn_view]
  rfl

/-- An EOS set that emits its EOS alone sends one on each of its channels. -/
theorem firstPerKey_eosOuts (e : Elem) (i : FireIn) :
    let sent := (firstPerKey outKey (expandOuts e (eosOuts i))).map OutTok.view
    let eos := (entriesOf i.opc i.w).flatMap fun k => toEntry e k { tag := outTag i.w i.tag, kind := 1 } 0
    sent.Nodup ∧ ∀ x, x ∈ sent ↔ x ∈ eos := by
  intro sent eos
  have hs : sent = (firstPerKey (fun ch => outKey (eosOn i ch)) (eosChans e i)).map fun ch => (eosOn i ch).view := by
    show List.map _ (firstPerKey _ (expandOuts e (eosOuts i))) = _
    rw [expandOuts_eosOuts, firstPerKey_map, List.map_map]
    rfl
  have hinj (a b : Nat) (h : outKey (eosOn i a) = outKey (eosOn i b)) : a = b := by
    rw [eosOn_key, eosOn_key] at h
    omega
  rw [hs, show eos = _ from eosEntries_eq e i]
  refine ⟨(firstPerKey_nodup _ _).map fun a b h => congrArg Prod.fst h, fun x => ?_⟩
  rw [List.mem_map, List.mem_map]
  exact exists_congr fun ch => and_congr_left fun _ => mem_firstPerKey hinj

/-- A data token on an entry, and the EOS behind it: with each channel once in the entry, all of them are sent. -/
theorem firstPerKey_made (e : Elem) (i : FireIn) {p : Nat × Token} (hk : p.2.hdr.kind = 0) (hent : entriesOf i.opc i.w = [p.1])
    (hnd : (destChans e p.1).Nodup) :
    firstPerKey outKey (expandOuts e (p :: eosOuts i)) = expandOuts e [p] ++ (destChans e p.1).map (eosOn i) := by
  have hl : expandOuts e (p :: eosOuts i) = expandOuts e [p] ++ (destChans e p.1).map (eosOn i) := by
    rw [← List.singleton_append, expandOuts_append, expandOuts_eosOuts, eosChans, hent, List.flatMap_cons, List.flatMap_nil,
      List.append_nil]
  rw [hl]
  refine firstPerKey_of_nodup ?_
  have hmade : (expandOuts e [p]).map outKey = (destChans e p.1).map fun ch => 4 * ch := by
    rw [expandOuts_one, List.map_map]
    refine List.map_congr_left fun ch _ => ?_
    show 4 * ch + p.2.hdr.kind = 4 * ch
    rw [hk, Nat.add_zero]
  have heos : ((destChans e p.1).map (eosOn i)).map outKey = (destChans e p.1).map fun ch => 4 * ch + 1 := by
    rw [List.map_map]
    exact List.map_congr_left fun ch _ => eosOn_key i ch
  rw [List.map_append, hmade, heos, List.nodup_append]
  refine ⟨hnd.map fun a b h => by simpa using h, hnd.map fun a b h => by simpa using h, fun a ha b hb => ?_⟩
  obtain ⟨x, -, rfl⟩ := List.mem_map.1 ha
  obtain ⟨y, -, rfl⟩ := List.mem_map.1 hb
  omega

end Sys2Proof.Machine
end

section
/-! SUPPORT. What the firing of an EOS set leaves (spec/04: R92, R108, R109; spec/06: R157; spec/08: R190). -/

namespace Sys2Proof.Machine

/-! ### What an EOS set emits -/

theorem eosExtra_quiet (i : FireIn) : (eosExtra i).reads = [] ∧ (eosExtra i).nonfin = none ∧ (eosExtra i).access = none := by
  unfold eosExtra
  split
  · exact ⟨rfl, rfl, rfl⟩
  · exact ⟨rfl, rfl, rfl⟩
  · dsimp only
    split <;> exact ⟨rfl, rfl, rfl⟩
  · exact ⟨rfl, rfl, rfl⟩
  · exact ⟨rfl, rfl, rfl⟩

theorem eosExtra_other {i : FireIn} (h : i.opc ∉ [0x0A, 0x65]) : (eosExtra i).outs = [] ∧ (eosExtra i).banks = [] ∧
    (eosExtra i).st = if i.opc = 0x0C then some (2 ^ 63 + i.st % 2 ^ 63) else if i.opc = 0x0D then some 0 else none := by
  simp only [List.mem_cons, List.not_mem_nil, or_false, not_or] at h
  unfold eosExtra
  split
  · next ho => exact absurd ho h.1
  · next ho => exact ⟨rfl, rfl, by rw [if_pos ho]⟩
  · next ho => exact absurd ho h.2
  · next ho => exact ⟨rfl, rfl, by rw [ho]; rfl⟩
  · next hc _ hd => exact ⟨rfl, rfl, by rw [if_neg hc, if_neg hd]⟩

/-- The count that a `cnt` has reached (R108). -/
def partialTok (i : FireIn) : Nat × Token :=
  let t := int32Tok i i.dest (outTag i.w i.tag) (i.st % 2 ^ 32) (bit i.st 63)
  (t.1, { t.2 with hdr := { t.2.hdr with fidx := if bit i.st 63 then bits i.st 47 32 else 0 } })

theorem eosExtra_cnt {i : FireIn} (h : i.opc = 0x0A) :
    eosExtra i = { outs := if i.st % 2 ^ 32 = 0 then [] else [partialTok i], st := some 0 } := by
  unfold eosExtra
  rw [h]
  rfl

/-- The bank that an `accrel` releases (R157). -/
def releasedTok (i : FireIn) : Nat × Token :=
  releaseTok i i.dest (outTag i.w i.tag) (nth i.e.banks i.bankNo {}) (bit i.st 63) (bits i.st 47 32)

theorem eosExtra_accrel {i : FireIn} (h : i.opc = 0x65) : eosExtra i =
    if i.st % 2 ^ 32 = 0 then { st := some 0 }
    else { outs := [releasedTok i], banks := [(i.bankNo, {})], st := some 0, lat := 34, occ := 32 } := by
  unfold eosExtra
  rw [h]
  rfl

section
variable (i : FireIn)

theorem eosOut_quiet : (eosOut i).eat = [] ∧ (eosOut i).reads = [] ∧ (eosOut i).nonfin = none := by
  obtain ⟨hr, hn, -⟩ := eosExtra_quiet i
  unfold eosOut
  dsimp only
  split
  · exact ⟨rfl, hr, hn⟩
  · exact ⟨rfl, hr, hn⟩

theorem eosOut_st : (eosOut i).st = (eosExtra i).st ∧ (eosOut i).banks = (eosExtra i).banks := by
  unfold eosOut
  dsimp only
  split <;> exact ⟨rfl, rfl⟩

theorem eosOut_sent (h : eosByPort i.opc i.w.mod.toNat i.const = false) :
    (eosOut i).outs = (eosExtra i).outs ++ eosOuts i ∧ (eosOut i).access = none := by
  unfold eosOut
  dsimp only
  rw [if_neg (ne_true_of_eq_false h)]
  exact ⟨rfl, (eosExtra_quiet i).2.2⟩

theorem eosOut_port (h : eosByPort i.opc i.w.mod.toNat i.const = true) :
    (eosOut i).outs = (eosExtra i).outs ∧ (eosOut i).access = some (eosAccess i) := by
  unfold eosOut
  dsimp only
  rw [if_pos h]
  exact ⟨rfl, rfl⟩

end

/-- A firing that reads nothing and forms no non-finite value is not judged (R36, R406). -/
theorem judged_quiet (s : State) (f : Focus) (i : FireIn) {o : FireOut} (heat : o.eat = []) (hreads : o.reads = [])
    (hn : o.nonfin = none) : judged s f i o = o := by
  have hbad : readRanges i.e f i.w o = [] := by
    unfold readRanges
    rw [heat, hreads]
    rfl
  unfold judged judgeOut
  rw [hbad]
  show (match o.nonfin with | none => (o, false) | some cs => _).1 = o
  rw [hn]

/-- What an EOS set reads: the constants, states and banks of its slot, and no operand. -/
def eosIn (s : State) (f : Focus) (w : OpWord) (opc : Nat) : FireIn := { gather s f w opc with a := {}, b := {}, c := {} }

/-! ### The firing of an EOS set -/

/-- The word of a candidate's slot. -/
def wordAt (s : State) (f : Focus) : Word64 := slotWord (getElem s f.loc) f.slot

/-- What the EOS set of a candidate reads. -/
def eosInAt (s : State) (f : Focus) : FireIn := eosIn s f (opFields (wordAt s f)) (opCode (wordAt s f)).toNat

/-- An EOS set has fired on an element: F has joined its firings, its EOS have left, and the rest is as it was. -/
structure EosFired (s t : State) (f : Focus) (w : OpWord) (i : FireIn) (F : Firing) : Prop where
  pending : (getElem t f.loc).pending = (getElem s f.loc).pending ++ [F]
  slot : F.slot = f.slot
  tag : F.tag = f.tag
  st : F.st = (eosExtra i).st
  banks : F.banks = (eosExtra i).banks
  outs : F.outs = onceFor f.mode outKey (expandOuts (getElem s f.loc) (eosOut i).outs)
  access : F.access.map Access.plain = (eosOut i).access.map Access.plain
  kept : (getElem t f.loc).preds = (getElem s f.loc).preds ∧ (getElem t f.loc).states = (getElem s f.loc).states ∧
    (getElem t f.loc).banks = (getElem s f.loc).banks ∧ (getElem t f.loc).scratch = (getElem s f.loc).scratch
  focus : t.focus = none
  isLocal : Local s t (rgnOf f.loc)
  flags : ∀ j, bit (getElem t f.loc).eosFlags j = (bit (getElem s f.loc).eosFlags j && !(tokPos w).any (flagAt (getElem s f.loc) f w j))
  heads : ∀ ch, (headsOf (getElem t f.loc) ch).map (fun h => h.tok) =
    ((headsOf (getElem s f.loc) ch).map fun h => h.tok).drop ((tokPos w).filter (headAt (getElem s f.loc) f w ch)).length
  chans : (getRegion t (rgnOf f.loc)).chans = (getRegion s (rgnOf f.loc)).chans.map fun c =>
    { acked ((tokPos w).filter (headAt (getElem s f.loc) f w c.num)).length c with
      reserved := c.reserved + (quotaOf F).count c.num }

theorem eosSet_fired {s : State} {f : Focus} (hf : s.focus = some f) (hl : Live s f.loc) : ∃ t F, exec .evEosSetFire s = .next t ∧
    EosFired s t f (opFields (wordAt s f)) (eosInAt s f) F := by
  obtain ⟨hp, he, -⟩ := hl
  have hexec : exec .evEosSetFire s =
      .next (issue (clearEos s f (opFields (wordAt s f))) f (eosInAt s f) (eosOut (eosInAt s f)) false) := by
    show execEvEosSetFire s = _
    unfold execEvEosSetFire
    rw [hf]
    rfl
  have hg := clearEos_gone (w := opFields (wordAt s f)) hp he
  generalize hu : clearEos s f (opFields (wordAt s f)) = u at hg hexec
  have hlen : f.loc.elem < (getRegion u (rgnOf f.loc)).elems.length := by rw [hg.len]; exact he
  obtain ⟨F, h⟩ := issue_issuing u f (eosInAt s f) (eosOut (eosInAt s f)) false hp hlen
  generalize ht : issue u f (eosInAt s f) (eosOut (eosInAt s f)) false = t at h hexec
  obtain ⟨heat, hreads, hnon⟩ := eosOut_quiet (eosInAt s f)
  obtain ⟨hst, hbanks⟩ := eosOut_st (eosInAt s f)
  have hj := judged_quiet u f (eosInAt s f) heat hreads hnon
  obtain ⟨hissued, hpending⟩ := h.issued hp hlen
  obtain ⟨hheads, -, hpreds, -⟩ := h.fields hp hlen
  obtain ⟨hcfg, hconsts, hstates, hbk, hscr, -, -, -, heos, -⟩ := hissued.fields
  have heaten : eaten u f (eosInAt s f).w (judged u f (eosInAt s f) (eosOut (eosInAt s f))) = { u with ids := u.ids + 1, focus := none } := by
    rw [h.eaten_fold, heat]
    rfl
  refine ⟨t, F, hexec, ?_, h.slot, h.tag, h.st.trans hst, ?_, ?_, h.access, ⟨?_, ?_, ?_, ?_⟩, h.focus, hg.only.isLocal.trans h.only.isLocal,
    fun j => ?_, fun ch => ?_, ?_⟩
  · rw [hpending, hg.elem]
  · rw [h.banks, hj, hbanks]
  · rw [h.outs, hj]
    unfold expandOuts destChans
    rw [hg.elem]
    rfl
  · rw [hpreds, hg.elem]; rfl
  · exact hstates.trans (by rw [hg.elem])
  · exact hbk.trans (by rw [hg.elem])
  · exact hscr.trans (by rw [hg.elem])
  · rw [← hg.flags j]
    exact congrArg (bit · j) heos
  · rw [headsOf_congr hheads, heaten]
    exact hg.heads ch
  · rw [h.chans, heaten]
    show (getRegion u (rgnOf f.loc)).chans.map _ = _
    rw [hg.chans, List.map_map]
    rfl

end Sys2Proof.Machine
end

section
/-! SUPPORT. TRUNC, and what an EOS set sends by its opcode (spec/04: R92, R93, R108, R109; spec/06: R157; spec/08: R190). -/

namespace Sys2Proof.Machine

/-! ### TRUNC -/

theorem unfocus_local (s : State) (r : Rgn) : Local s { s with focus := none } r :=
  ⟨rfl, ⟨rfl, rfl⟩, rfl, fun _ _ => rfl, fun _ => rfl⟩

/-- The matched operands of the candidate leave, and nothing is sent or updated (R93). -/
theorem trunc_discards {s : State} {f : Focus} (hf : s.focus = some f) (hl : Live s f.loc) :
    Completes .evTruncDiscard s fun t =>
      let e := getElem s f.loc
      let e' := getElem t f.loc
      t.focus = none ∧ Elem.Issued e e' ∧ e'.preds = e.preds ∧ Local s t (rgnOf f.loc) ∧
      ∀ p < 3, (opFields (wordAt s f)).src p = 0 → heldAt e (opFields (wordAt s f)) f.slot f.tag p ≠ none → Cleared e' f p := by
  obtain ⟨hp, he, -⟩ := hl
  generalize hw : opFields (wordAt s f) = w
  have hE := eatAll_eaten s f w {} hp he
  have hfold : (eatAll s f w {}).1 = eatFold f w {} [0, 1, 2] s := eatAll_fold s f w {}
  generalize hu : (eatAll s f w {}).1 = u at hE hfold
  have hlen : f.loc.elem < (getRegion u (rgnOf f.loc)).elems.length := by rw [hE.len]; exact he
  let opc := (opCode (wordAt u f)).toNat
  have hexec : exec .evTruncDiscard s = .next
      (busy { modElem u f.loc (fun e => listFrames u.clk (applyIssue u.clk w opc {} false e)) with focus := none } (rgnOf f.loc)) := by
    show execEvTruncDiscard s = _
    unfold execEvTruncDiscard
    rw [hf]
    dsimp only
    rw [show opFields (slotWord (getElem s f.loc) f.slot) = w from hw, hu]
    rfl
  have hd := listFramesBy_framed (setFull (applyIssue u.clk w opc {} false (getElem u f.loc))) u.clk 64
    (applyIssue u.clk w opc {} false (getElem u f.loc))
  refine ⟨_, hexec, modRegion_focus .., ?_⟩
  have hel : getElem (busy { modElem u f.loc (fun e => listFrames u.clk (applyIssue u.clk w opc {} false e)) with focus := none }
      (rgnOf f.loc)) f.loc = listFrames u.clk (applyIssue u.clk w opc {} false (getElem u f.loc)) :=
    (getElem_busy hp).trans (getElem_modElem_same hp hlen)
  rw [hel]
  refine ⟨(hE.kept.issued.trans (applyIssue_issued ..)).trans hd.issued, ?_, ?_, fun p hp3 hsrc hheld m hm hslot htag => ?_⟩
  · show (listFramesBy _ _ _ _).preds = _
    rw [hd.same]
    show (getElem u f.loc).preds = _
    rw [hE.kept.same]
  · exact ((hE.only.isLocal.trans (modElem_local _ _ _)).trans (unfocus_local _ _)).trans (busy_local _ _)
  · obtain ⟨m', hm', hs', ht', hpos⟩ | hnone := hd.sets m hm
    · rw [hpos p]
      have hclear : Cleared (getElem u f.loc) f p := by
        rw [hfold]
        exact eatFold_cleared hp (by decide) hp3 hsrc he (.inr ⟨by simp; omega, hheld⟩)
      exact hclear m' hm' (hs'.trans hslot) (ht'.trans htag)
    · exact hnone p

theorem ahead_consts (e : Elem) : e.ahead.consts = e.consts := by
  have key (l : List Firing) (x : Elem) : (l.foldl (fun e f => f.land e) x).consts = x.consts := by
    induction l generalizing x with
    | nil => rfl
    | cons F r ih =>
      obtain ⟨bad, h⟩ := land_eq F x
      exact (ih _).trans (show (F.land x).consts = x.consts by rw [h])
  exact key e.pending e

/-! ### EOS sets by their opcode -/

section
variable {s t : State} {f : Focus} {F : Firing}
  (h : EosFired s t f (opFields (wordAt s f)) (eosInAt s f) F) (hmode : f.mode = .eos)
include h hmode

theorem EosFired.sent_of {outs : List (Nat × Token)} (ho : (eosOut (eosInAt s f)).outs = outs) :
    F.outs = firstPerKey outKey (expandOuts (getElem s f.loc) outs) := by
  rw [h.outs, hmode, ho]
  rfl

/-- An EOS set that makes no data token of its own. -/
theorem EosFired.plain_sent (hport : eosByPort (eosInAt s f).opc (eosInAt s f).w.mod.toNat (eosInAt s f).const = false)
    (hopc : (eosInAt s f).opc ∉ [0x0A, 0x65]) :
    let eos := (entriesOf (eosInAt s f).opc (eosInAt s f).w).flatMap fun k =>
      toEntry (getElem s f.loc) k { tag := outTag (eosInAt s f).w (eosInAt s f).tag, kind := 1 } 0
    F.sent.Nodup ∧ (∀ x, x ∈ F.sent ↔ x ∈ eos) ∧ F.banks = [] ∧ F.access = none := by
  intro eos
  obtain ⟨houts, hacc⟩ := eosOut_sent _ hport
  obtain ⟨hx, hb, -⟩ := eosExtra_other hopc
  have hout := h.sent_of hmode (houts.trans (congrArg (· ++ eosOuts _) hx))
  have hsent : F.sent = (firstPerKey outKey (expandOuts (getElem s f.loc) (eosOuts (eosInAt s f)))).map OutTok.view :=
    congrArg (List.map OutTok.view) hout
  obtain ⟨hnd, hmem⟩ := firstPerKey_eosOuts (getElem s f.loc) (eosInAt s f)
  refine ⟨hsent ▸ hnd, hsent ▸ hmem, h.banks.trans hb, ?_⟩
  have := h.access
  rw [hacc] at this
  simpa using this

/-- An EOS set with one entry that makes no data token. -/
theorem EosFired.alone_sent (hport : eosByPort (eosInAt s f).opc (eosInAt s f).w.mod.toNat (eosInAt s f).const = false)
    {d : Nat} (hmade : (eosExtra (eosInAt s f)).outs = []) (hent : entriesOf (eosInAt s f).opc (eosInAt s f).w = [d])
    (hnd : (destChans (getElem s f.loc) d).Nodup) : F.outs = (destChans (getElem s f.loc) d).map (eosOn (eosInAt s f)) := by
  have hout := h.sent_of hmode ((eosOut_sent _ hport).1.trans (congrArg (· ++ eosOuts _) hmade))
  rw [List.nil_append, expandOuts_eosOuts, eosChans, hent, List.flatMap_cons, List.flatMap_nil, List.append_nil] at hout
  rw [hout]
  refine firstPerKey_of_nodup ?_
  rw [List.map_map]
  refine hnd.map fun a b hab => ?_
  have hkey : 4 * a + 1 = 4 * b + 1 := (eosOn_key _ a).symm.trans (hab.trans (eosOn_key _ b))
  omega

/-- An EOS set that makes one data token before its EOS. -/
theorem EosFired.made_sent (hport : eosByPort (eosInAt s f).opc (eosInAt s f).w.mod.toNat (eosInAt s f).const = false)
    {p : Nat × Token} (hmade : (eosExtra (eosInAt s f)).outs = [p]) (hk : p.2.hdr.kind = 0)
    (hent : entriesOf (eosInAt s f).opc (eosInAt s f).w = [p.1]) (hnd : (destChans (getElem s f.loc) p.1).Nodup) :
    F.sent = ((destChans (getElem s f.loc) p.1).map fun ch => (ch, p.2.payload, p.2.hdr.plain)) ++
      (destChans (getElem s f.loc) p.1).map (fun ch => (eosOn (eosInAt s f) ch).view) ∧
    ∀ o ∈ F.outs, o.tok.hdr.kind = 0 → o.tok.hdr.poison = p.2.hdr.poison ∧ o.tok.hdr.fidx = p.2.hdr.fidx := by
  have hout := h.sent_of hmode ((eosOut_sent _ hport).1.trans (congrArg (· ++ eosOuts _) hmade))
  rw [List.singleton_append, firstPerKey_made _ _ hk hent hnd, expandOuts_one] at hout
  refine ⟨?_, fun o ho hkind => ?_⟩
  · show F.outs.map OutTok.view = _
    rw [hout, List.map_append, List.map_map, List.map_map]
    rfl
  · rw [hout, List.mem_append, List.mem_map, List.mem_map] at ho
    obtain ⟨ch, -, rfl⟩ | ⟨ch, -, rfl⟩ := ho
    · exact ⟨rfl, rfl⟩
    · have := eosOn_key (eosInAt s f) ch
      unfold outKey at this
      rw [hkind] at this
      exact absurd this (by show 4 * ch + 0 ≠ _; omega)

end

end Sys2Proof.Machine
end

section/-! SUPPORT. The counts and banks that an EOS set sends (spec/04: R92, R108, R109; spec/06: R157). -/

namespace Sys2Proof.Machine

theorem eosByPort_cnt (m k : Nat) : eosByPort 0x0A m k = false := by
  unfold eosByPort
  simp

theorem eosByPort_accrel (m k : Nat) : eosByPort 0x65 m k = false := by
  unfold eosByPort
  simp

/-- The count that a `cnt` has reached, as it is sent. -/
theorem partialTok_view (i : FireIn) : (partialTok i).1 = i.w.dest.toNat ∧ (partialTok i).2.payload = i.st % 2 ^ 32 ∧
    (partialTok i).2.hdr.plain = (scalarHdr .int32 (outTag i.w i.tag)).plain ∧ (partialTok i).2.hdr.kind = 0 ∧
    (partialTok i).2.hdr.poison = bit i.st 63 ∧ (partialTok i).2.hdr.fidx = if bit i.st 63 then bits i.st 47 32 else 0 := by
  refine ⟨rfl, Nat.mod_mod _ _, ?_, ?_, ?_, rfl⟩
  · show (withSeq _ _).plain = _
    rw [withSeq_plain]
    rfl
  · show (withSeq _ _).kind = _
    rw [withSeq_kind]
    rfl
  · show (withSeq _ _).poison = _
    rw [withSeq_poison]

/-- The bank of an `accrel` as it is sent. -/
theorem releasedTok_view (i : FireIn) : let b : Bank := nth i.e.banks i.bankNo {}
    (releasedTok i).1 = i.w.dest.toNat ∧ (releasedTok i).2.payload = releaseCells b ∧
    (releasedTok i).2.hdr.plain = (tileHdr i.fmt (outTag i.w i.tag) 32 32 b.vr b.vc b.mask).plain ∧ (releasedTok i).2.hdr.kind = 0 ∧
    (releasedTok i).2.hdr.poison = (bit i.st 63 || b.poison) ∧
    (releasedTok i).2.hdr.fidx = if b.poison then b.fidx else if bit i.st 63 then bits i.st 47 32 else 0 := by
  refine ⟨rfl, rfl, ?_, ?_, ?_, rfl⟩
  · show (withSeq _ _).plain = _
    rw [withSeq_plain]
    rfl
  · show (withSeq _ _).kind = _
    rw [withSeq_kind]
    rfl
  · show (withSeq _ _).poison = _
    rw [withSeq_poison]

/-- The cells of a released bank: the valid ones, and zeros elsewhere. -/
theorem lane_releaseCells (b : Bank) {y x : Nat} (hy : y < 32) (hx : x < 32) :
    lane 32 (releaseCells b) (y * 32 + x) = if y < b.vr ∧ x < b.vc then b.cell y x else 0 := by
  unfold releaseCells
  rw [lane_cells 32 _ hy hx]
  by_cases hc : y < b.vr ∧ x < b.vc
  · rw [if_pos hc, if_pos (by simpa using hc)]
    exact Nat.mod_mod _ _
  · rw [if_neg hc, if_neg (by simpa using hc)]
    rfl

section
variable {s t : State} {f : Focus} {w : OpWord} {i : FireIn} {F : Firing} (h : EosFired s t f w i F)
include h

theorem EosFired.flag_cleared {p : Nat} (hp : p ∈ tokPos w) (hsrc : w.src p = 0) :
    bit (getElem t f.loc).eosFlags (recvIndex (getElem s f.loc) f.slot p) = false := by
  rw [h.flags, List.any_eq_true.2 ⟨p, hp, by rw [flagAt, hsrc]; simp⟩]
  exact Bool.and_false _

theorem EosFired.flag_kept {j : Nat} (hj : ∀ p ∈ tokPos w, w.src p = 0 → recvIndex (getElem s f.loc) f.slot p ≠ j) :
    bit (getElem t f.loc).eosFlags j = bit (getElem s f.loc).eosFlags j := by
  rw [h.flags, List.any_eq_false.2 fun p hp => ?_]
  · exact Bool.and_true _
  · unfold flagAt
    by_cases hsrc : w.src p = 0
    · simpa [hsrc] using hj p hp hsrc
    · simp [hsrc]

/-- A FIFO with one HEAD position of the slot has lost its head, any other none. -/
theorem EosFired.heads_popped {ch : Nat} (hch : ((tokPos w).filter (headAt (getElem s f.loc) f w ch)).length ≤ 1) :
    (headsOf (getElem t f.loc) ch).map (fun h => h.tok) =
      if (tokPos w).filter (headAt (getElem s f.loc) f w ch) = [] then (headsOf (getElem s f.loc) ch).map fun h => h.tok
      else ((headsOf (getElem s f.loc) ch).map fun h => h.tok).tail := by
  rw [h.heads ch]
  split
  · next hnil => rw [hnil]; rfl
  · next hne =>
    rw [Nat.le_antisymm hch (List.length_pos_iff.2 hne), List.drop_one]

theorem EosFired.chans_acked : (getRegion t (rgnOf f.loc)).chans = (getRegion s (rgnOf f.loc)).chans.map fun c => { c with
    reserved := c.reserved + (quotaOf F).count c.num,
    acks := c.acks ++ ((tokPos w).filter (headAt (getElem s f.loc) f w c.num)).map fun _ => { hops := c.hops.length, count := 1 } } := by
  rw [h.chans]
  refine List.map_congr_left fun c _ => ?_
  rw [List.map_const']
  rfl

end

section
variable {s t : State} {f : Focus} {F : Firing}
  (h : EosFired s t f (opFields (wordAt s f)) (eosInAt s f) F) (hmode : f.mode = .eos)
include h hmode

/-- A `cnt` emits the count that it has reached before its EOS (R108). -/
theorem EosFired.cnt_sent (hopc : (eosInAt s f).opc = 0x0A) (hnd : (destChans (getElem s f.loc) (eosInAt s f).w.dest.toNat).Nodup) :
    let i := eosInAt s f
    let e := getElem s f.loc
    let n := i.st % 2 ^ 32
    let T := outTag i.w i.tag
    F.st = some 0 ∧ F.banks = [] ∧
    F.sent = (if n = 0 then [] else toEntry e i.w.dest.toNat (scalarHdr .int32 T) n) ++
      ((entriesOf i.opc i.w).flatMap fun k => toEntry e k { tag := T, kind := 1 } 0) ∧
    ∀ o ∈ F.outs, o.tok.hdr.kind = 0 → o.tok.hdr.poison = bit i.st 63 ∧
      o.tok.hdr.fidx = if bit i.st 63 then bits i.st 47 32 else 0 := by
  intro i e n T
  have hx := eosExtra_cnt hopc
  have hport : eosByPort (eosInAt s f).opc (eosInAt s f).w.mod.toNat (eosInAt s f).const = false := by rw [hopc, eosByPort_cnt]
  have hent : entriesOf (eosInAt s f).opc (eosInAt s f).w = [(eosInAt s f).w.dest.toNat] := by rw [hopc]; rfl
  have hout : (eosExtra (eosInAt s f)).outs = if n = 0 then [] else [partialTok i] := by rw [hx]
  refine ⟨h.st.trans (by rw [hx]), h.banks.trans (by rw [hx]), ?_⟩
  rw [eosEntries_eq, eosChans, show entriesOf i.opc i.w = _ from hent, List.flatMap_cons, List.flatMap_nil, List.append_nil]
  by_cases hn : n = 0
  · rw [if_pos hn] at hout ⊢
    have houts := h.alone_sent hmode hport hout hent hnd
    refine ⟨?_, fun o ho hk => ?_⟩
    · show F.outs.map OutTok.view = _
      rw [houts, List.map_map]
      rfl
    · rw [houts] at ho
      obtain ⟨ch, -, rfl⟩ := List.mem_map.1 ho
      have hkey : 4 * ch + (eosOn i ch).tok.hdr.kind = 4 * ch + 1 := eosOn_key i ch
      rw [show (eosOn i ch).tok.hdr.kind = 0 from hk] at hkey
      omega
  · rw [if_neg hn] at hout ⊢
    obtain ⟨h1, hpay, hplain, hkind, hpz, hfx⟩ := partialTok_view (eosInAt s f)
    obtain ⟨hsent, hpoison⟩ := h.made_sent hmode hport hout hkind hent hnd
    refine ⟨hsent.trans ?_, fun o ho hk => ?_⟩
    · rw [hpay, hplain]
      rfl
    · obtain ⟨hp, hx⟩ := hpoison o ho hk
      exact ⟨hp.trans hpz, hx.trans hfx⟩

/-- An `accrel` releases its bank before its EOS, where it has counted (R157). -/
theorem EosFired.accrel_sent (hopc : (eosInAt s f).opc = 0x65) (hnd : (destChans (getElem s f.loc) (eosInAt s f).w.dest.toNat).Nodup) :
    let i := eosInAt s f
    let e := getElem s f.loc
    let n := i.st % 2 ^ 32
    let T := outTag i.w i.tag
    let bank : Bank := nth i.e.banks i.bankNo {}
    let eos := (entriesOf i.opc i.w).flatMap fun k => toEntry e k { tag := T, kind := 1 } 0
    F.st = some 0 ∧ (n = 0 → F.banks = [] ∧ F.sent = eos) ∧
    (n ≠ 0 → F.banks = [(i.bankNo, {})] ∧
      F.sent = toEntry e i.w.dest.toNat (tileHdr i.fmt T 32 32 bank.vr bank.vc bank.mask) (releaseCells bank) ++ eos ∧
      ∀ o ∈ F.outs, o.tok.hdr.kind = 0 → o.tok.hdr.poison = (bit i.st 63 || bank.poison) ∧
        o.tok.hdr.fidx = if bank.poison then bank.fidx else if bit i.st 63 then bits i.st 47 32 else 0) := by
  intro i e n T bank eos
  have hx := eosExtra_accrel hopc
  have hport : eosByPort (eosInAt s f).opc (eosInAt s f).w.mod.toNat (eosInAt s f).const = false := by rw [hopc, eosByPort_accrel]
  have hent : entriesOf (eosInAt s f).opc (eosInAt s f).w = [(eosInAt s f).w.dest.toNat] := by rw [hopc]; rfl
  have heos : eos = (destChans e i.w.dest.toNat).map fun ch => (eosOn i ch).view := by
    show (entriesOf i.opc i.w).flatMap _ = _
    rw [eosEntries_eq, eosChans, show entriesOf i.opc i.w = _ from hent, List.flatMap_cons, List.flatMap_nil, List.append_nil]
  refine ⟨h.st.trans (by rw [hx]; split <;> rfl), fun hn => ?_, fun hn => ?_⟩
  · rw [if_pos hn] at hx
    refine ⟨h.banks.trans (by rw [hx]), ?_⟩
    have houts := h.alone_sent hmode hport (by rw [hx]) hent hnd
    show F.outs.map OutTok.view = _
    rw [houts, List.map_map, heos]
    rfl
  · rw [if_neg hn] at hx
    refine ⟨h.banks.trans (by rw [hx]), ?_⟩
    obtain ⟨h1, hpay, hplain, hkind, hpz, hfx⟩ := releasedTok_view (eosInAt s f)
    obtain ⟨hsent, hpoison⟩ := h.made_sent hmode hport (by rw [hx]) hkind hent hnd
    refine ⟨hsent.trans ?_, fun o ho hk => ?_⟩
    · rw [hpay, hplain, heos]
      rfl
    · obtain ⟨hp, hx⟩ := hpoison o ho hk
      exact ⟨hp.trans hpz, hx.trans hfx⟩

/-- The EOS of a memory slot goes through its port (R190). -/
theorem EosFired.port_sent (hport : eosByPort (eosInAt s f).opc (eosInAt s f).w.mod.toNat (eosInAt s f).const = true) :
    let i := eosInAt s f
    F.sent = [] ∧ (i.opc = 0x0D → F.st = some 0) ∧ (i.opc ≠ 0x0D → F.st = none) ∧
    ∃ a, F.access = some a ∧ a.eos = true ∧ a.outTag = outTag i.w i.tag ∧ a.dest = destChans (getElem s f.loc) i.w.dest.toNat := by
  intro i
  have hopc : (eosInAt s f).opc ∉ [0x0A, 0x65] := by
    intro hm
    obtain ho | ho : (eosInAt s f).opc = 0x0A ∨ (eosInAt s f).opc = 0x65 := by simpa using hm
    · rw [ho, eosByPort_cnt] at hport; cases hport
    · rw [ho, eosByPort_accrel] at hport; cases hport
  have hc : (eosInAt s f).opc ≠ 0x0C := by
    intro ho
    rw [ho] at hport
    unfold eosByPort at hport
    simp at hport
  obtain ⟨houts, hacc⟩ := eosOut_port _ hport
  obtain ⟨hx, -, hst⟩ := eosExtra_other hopc
  rw [if_neg hc] at hst
  refine ⟨?_, fun hd => h.st.trans (hst.trans (if_pos hd)), fun hd => h.st.trans (hst.trans (if_neg hd)), ?_⟩
  · show F.outs.map OutTok.view = []
    rw [h.sent_of hmode (houts.trans hx)]
    rfl
  · have ha := h.access
    rw [hacc, Option.map_some, Option.map_eq_some_iff] at ha
    obtain ⟨a, hF, hplain⟩ := ha
    refine ⟨a, hF, congrArg Access.eos hplain, congrArg Access.outTag hplain, (congrArg Access.dest hplain).trans ?_⟩
    show destChans (getElem s f.loc).ahead _ = _
    unfold destChans
    rw [ahead_cfg]
    rfl

end

end Sys2Proof.Machine

open Sys2Proof Sys2Proof.Machine

/-- Settles O45: an EOS set takes its EOS away and then issues with no operands; what it sends is its opcode's. -/
theorem eosAndTrunc : Obligations.EosAndTrunc := by
  intro s f hf hl e g wd w opc k st n T eos fires
  have hk : (eosInAt s f).const = k := by
    show nth (getElem s f.loc).ahead.consts f.slot 0 = _
    rw [ahead_consts]
  refine ⟨fun hmode => ?_, ?_⟩
  · obtain ⟨t, F, hexec, hF⟩ := eosSet_fired hf hl
    have fires_of {P : State → Firing → Prop} (h : P t F) : fires P := ⟨t, hexec, F, hF.pending, hF.slot, hF.tag, h⟩
    refine ⟨fun hport hopc => fires_of ?_, fun hopc hnd => fires_of ?_, fun hopc hnd => fires_of ?_, fun hport => fires_of ?_,
      fires_of ?_⟩
    · rw [← hk] at hport
      obtain ⟨hnd, hmem, hb, hacc⟩ := hF.plain_sent hmode hport hopc
      refine ⟨hnd, hmem, hb, hacc, hF.st.trans ((eosExtra_other hopc).2.2.trans ?_)⟩
      have hd : opc ≠ 0x0D := fun hd => by
        rw [hd] at hport
        unfold eosByPort at hport
        simp at hport
      exact congrArg (ite _ _) (if_neg hd)
    · exact hF.cnt_sent hmode hopc hnd
    · obtain ⟨hst, h0, h1⟩ := hF.accrel_sent hmode hopc hnd
      refine ⟨hst, h0, fun hn => ?_⟩
      obtain ⟨hb, hsent, hpz⟩ := h1 hn
      refine ⟨hb, ⟨_, ?_, fun y hy x hx => lane_releaseCells _ hy hx⟩, hpz⟩
      have hfmt : (eosInAt s f).fmt = recFmt (nth e.cfg.fmts w.fmt.toNat 0) := by
        show recFmt (nth (getElem s f.loc).ahead.cfg.fmts _ 0) = _
        rw [ahead_cfg]
        rfl
      rw [← hfmt]
      exact hsent
    · rw [← hk] at hport
      exact hF.port_sent hmode hport
    · obtain ⟨hpreds, hstates, hbanks, hscr⟩ := hF.kept
      exact ⟨hpreds, hstates, hbanks, hscr, hF.focus, hF.isLocal, fun p hp hsrc => hF.flag_cleared hp hsrc,
        fun j hj => hF.flag_kept hj, fun ch hch => hF.heads_popped hch, hF.chans_acked⟩
  · obtain ⟨t, hexec, hfoc, hissued, hpreds, hloc, hcleared⟩ := trunc_discards hf hl
    obtain ⟨-, -, hstates, hbanks, hscr, -, -, -, -, -, hinj, -⟩ := hissued.fields
    refine ⟨t, hexec, hfoc, ?_, hstates, hbanks, hpreds, hinj, hscr, hloc, hcleared⟩
    rw [hissued.same]
end

section
/-! SUPPORT. The encoder and the decoder undo each other: kettle words (spec/09: R214 to R216, Tables 9.1 to 9.4) and operation
words (spec/03: R64, Tables 3.1 and 3.6). -/

namespace Sys2Proof
open BitVec (extractLsb'_append_eq_of_le extractLsb'_append_eq_of_add_le extractLsb'_append_extractLsb'_eq_extractLsb')

/-! ### The fields of a kettle word -/

section
variable (op : BitVec 6) (d a b : KReg) (f : BitVec 11) (i : BitVec 16) (o : BitVec 26)

@[simp] theorem kwOp_formK : kwOp (formK op d a b f) = op := by
  simp (disch := decide) [kwOp, formK, extractLsb'_append_eq_of_le, -Nat.reduceAdd]
@[simp] theorem kwD_formK : kwD (formK op d a b f) = d := by
  simp (disch := decide) [kwD, formK, extractLsb'_append_eq_of_le, extractLsb'_append_eq_of_add_le, -Nat.reduceAdd]
@[simp] theorem kwA_formK : kwA (formK op d a b f) = a := by
  simp (disch := decide) [kwA, formK, extractLsb'_append_eq_of_le, extractLsb'_append_eq_of_add_le, -Nat.reduceAdd]
@[simp] theorem kwB_formK : kwB (formK op d a b f) = b := by
  simp (disch := decide) [kwB, formK, extractLsb'_append_eq_of_le, extractLsb'_append_eq_of_add_le, -Nat.reduceAdd]
@[simp] theorem kwF_formK : kwF (formK op d a b f) = f := by
  simp (disch := decide) [kwF, formK, extractLsb'_append_eq_of_add_le, -Nat.reduceAdd]
@[simp] theorem kwOp_formI : kwOp (formI op d a i) = op := by
  simp (disch := decide) [kwOp, formI, extractLsb'_append_eq_of_le, -Nat.reduceAdd]
@[simp] theorem kwD_formI : kwD (formI op d a i) = d := by
  simp (disch := decide) [kwD, formI, extractLsb'_append_eq_of_le, extractLsb'_append_eq_of_add_le, -Nat.reduceAdd]
@[simp] theorem kwA_formI : kwA (formI op d a i) = a := by
  simp (disch := decide) [kwA, formI, extractLsb'_append_eq_of_le, extractLsb'_append_eq_of_add_le, -Nat.reduceAdd]
@[simp] theorem kwI_formI : kwI (formI op d a i) = i := by
  simp (disch := decide) [kwI, formI, extractLsb'_append_eq_of_add_le, -Nat.reduceAdd]
@[simp] theorem kwOp_formJ : kwOp (formJ op o) = op := by
  simp (disch := decide) [kwOp, formJ, extractLsb'_append_eq_of_le, -Nat.reduceAdd]
@[simp] theorem target_formJ : (formJ op o).extractLsb' 0 26 = o := by
  simp (disch := decide) [formJ, extractLsb'_append_eq_of_add_le, -Nat.reduceAdd]
end

theorem formK_of_fields (w : Word32) : formK (kwOp w) (kwD w) (kwA w) (kwB w) (kwF w) = w := by
  simp (disch := decide) [formK, kwOp, kwD, kwA, kwB, kwF, extractLsb'_append_extractLsb'_eq_extractLsb', -Nat.reduceAdd]

theorem formI_of_fields (w : Word32) : formI (kwOp w) (kwD w) (kwA w) (kwI w) = w := by
  simp (disch := decide) [formI, kwOp, kwD, kwA, kwI, extractLsb'_append_extractLsb'_eq_extractLsb', -Nat.reduceAdd]

theorem formJ_of_fields (w : Word32) : formJ (kwOp w) (w.extractLsb' 0 26) = w := by
  simp (disch := decide) [formJ, kwOp, extractLsb'_append_extractLsb'_eq_extractLsb', -Nat.reduceAdd]

/-! ### Parts of a field -/

@[simp] theorem shamt_upper (k : BitVec 6) : (0#10 ++ k : BitVec 16).extractLsb' 6 10 = 0 := BitVec.extractLsb'_append_eq_left
@[simp] theorem shamt_lower (k : BitVec 6) : (0#10 ++ k : BitVec 16).extractLsb' 0 6 = k := BitVec.extractLsb'_append_eq_right
@[simp] theorem csr_upper (x : BitVec 4) (c : BitVec 12) : (x ++ c : BitVec 16).extractLsb' 12 4 = x := BitVec.extractLsb'_append_eq_left
@[simp] theorem csr_lower (x : BitVec 4) (c : BitVec 12) : (x ++ c : BitVec 16).extractLsb' 0 12 = c := BitVec.extractLsb'_append_eq_right

/-! ### The decoder by the parts of fn and imm16 -/

theorem decodeOrdered_ordFn (d a b : KReg) (c sz st : Bool) : decodeOrdered d a b (ordFn c sz st) =
    match st, sz with
    | false, false => needZero (b == 0) (.kLdAcq d a c)
    | false, true => needZero (b == 0) (.kLwAcq d a c)
    | true, false => needZero (d == 0) (.kSdRel a b c)
    | true, true => needZero (d == 0) (.kSwRel a b c) := by
  cases c <;> cases sz <;> cases st <;> rfl

theorem decodeAmo_amoFn (d a b : KReg) (op : BitVec 3) (w : Bool) (o : BitVec 2) (s u : Bool) :
    decodeAmo d a b (amoFn op w o s u) =
    match op.toNat with
    | 0 => needZero (!u) (.kAmoAdd d a b w o s)
    | 1 => needZero (!u) (.kAmoSwp d a b w o s)
    | 2 => needZero (!u) (.kAmoCas d a b w o s)
    | 3 => needZero (!u) (.kAmoAnd d a b w o s)
    | 4 => needZero (!u) (.kAmoOr d a b w o s)
    | 5 => .ok (.kAmoMin d a b w o s u)
    | 6 => .ok (.kAmoMax d a b w o s u)
    | _ => .error .fn := by
  have hz : (amoFn op w o s u).extractLsb' 0 3 = 0 := BitVec.extractLsb'_append_eq_right
  have hop : (amoFn op w o s u).extractLsb' 8 3 = op := by
    simp (disch := decide) [amoFn, extractLsb'_append_eq_of_le, -Nat.reduceAdd]
  have ho : (amoFn op w o s u).extractLsb' 5 2 = o := by
    simp (disch := decide) [amoFn, extractLsb'_append_eq_of_le, extractLsb'_append_eq_of_add_le, -Nat.reduceAdd]
  have hw : (amoFn op w o s u).getLsbD 7 = w := by simp only [amoFn, bit1, BitVec.getLsbD_append]; simp
  have hs : (amoFn op w o s u).getLsbD 4 = s := by simp only [amoFn, bit1, BitVec.getLsbD_append]; simp
  have hu : (amoFn op w o s u).getLsbD 3 = u := by simp only [amoFn, bit1, BitVec.getLsbD_append]; simp
  unfold decodeAmo
  rw [if_neg (not_not_intro hz), hop, ho, hw, hs, hu] <;> rfl

theorem decodeCsr_append (d a : KReg) (x : BitVec 4) (c : BitVec 12) : decodeCsr d a (x ++ c) =
    match x.toNat with
    | 0 => needZero (a == 0) (.kCsrr d c)
    | 1 => needZero (d == 0) (.kCsrw a c)
    | 2 => needZero (d == 0) (.kCsrs a c)
    | 3 => needZero (d == 0) (.kCsrc a c)
    | _ => .error .fn := by
  unfold decodeCsr
  rw [csr_upper, csr_lower] <;> rfl

/-- The kettle decoder undoes the encoder (R214 to R216). -/
theorem decodeKettle_of_encode {i : Instr} {w : Word32} (h : encodeKettle i = some w) : decodeKettle w = .ok i := by
  cases i
  case kAdd | kSub | kAnd | kOr | kXor | kShl | kShr | kSra | kSlt | kSltu | kMul | kMulh | kMulhu | kDiv | kDivu | kRem | kRemu =>
    cases h; simp [decodeKettle, decodeAlu]
  case kLdAcq | kLwAcq | kSdRel | kSwRel => cases h; simp [decodeKettle, decodeOrdered_ordFn, needZero]
  case kAmoAdd | kAmoSwp | kAmoCas | kAmoAnd | kAmoOr | kAmoMin | kAmoMax => cases h; simp [decodeKettle, decodeAmo_amoFn, needZero]
  case kCsrr | kCsrw | kCsrs | kCsrc => cases h; simp [decodeKettle, decodeCsr_append, needZero]
  case kFence c => cases h; cases c <;> rfl
  case kTret | kKwait => cases h; simp [decodeKettle, decodeWait, needZero]
  case kArm | kArmOff => cases h; simp [decodeKettle, decodeArm, needZero]
  all_goals cases h
  all_goals simp [decodeKettle, needZero, onlyFn0]

/-! ### The encoder undoes the decoder -/

theorem ofNat_eq_of_toNat {n k : Nat} {x : BitVec n} (h : x.toNat = k) : BitVec.ofNat n k = x := by
  subst h
  simp

theorem needZero_eq_ok {z : Bool} {i j : Instr} : needZero z i = .ok j ↔ z = true ∧ i = j := by
  unfold needZero
  split <;> simp_all

theorem onlyFn0_eq_ok {f : BitVec 11} {r : Except Reject Instr} {i : Instr} : onlyFn0 f r = .ok i ↔ f = 0 ∧ r = .ok i := by
  unfold onlyFn0
  split <;> simp_all

section
variable {d a b : KReg} {f : BitVec 11} {i : Instr} {k : BitVec 16} {w : Word32} {n : Nat}

theorem encodeKettle_of_decodeAlu (h : decodeAlu d a b f = .ok i) : encodeKettle i = some (formK 0x00 d a b f) := by
  unfold decodeAlu at h
  split at h <;> cases h <;> (rename_i hf; rw [← ofNat_eq_of_toNat hf]; rfl)

theorem bit1_getLsbD {n : Nat} (x : BitVec n) (k : Nat) : bit1 (x.getLsbD k) = x.extractLsb' k 1 := by
  ext j hj
  obtain rfl : j = 0 := by omega
  simp [bit1]

/-- A word of op 0x17 that decodes has fn[10:3] = 0 (R222). -/
theorem decodeOrdered_ok (h : decodeOrdered d a b f = .ok i) : ∃ c sz st, f = ordFn c sz st := by
  refine ⟨f.getLsbD 2, f.getLsbD 1, f.getLsbD 0, ?_⟩
  have hz : f.extractLsb' 3 8 = 0 := by
    by_contra hz
    unfold decodeOrdered at h
    rw [if_pos hz] at h
    cases h
  unfold ordFn
  rw [bit1_getLsbD, bit1_getLsbD, bit1_getLsbD, ← hz]
  simp (disch := decide) [extractLsb'_append_extractLsb'_eq_extractLsb', -Nat.reduceAdd]

/-- A word of op 0x18 that decodes has fn[2:0] = 0 (R224). -/
theorem decodeAmo_ok (h : decodeAmo d a b f = .ok i) : ∃ op w o s u, f = amoFn op w o s u := by
  refine ⟨f.extractLsb' 8 3, f.getLsbD 7, f.extractLsb' 5 2, f.getLsbD 4, f.getLsbD 3, ?_⟩
  have hz : f.extractLsb' 0 3 = 0 := by
    by_contra hz
    unfold decodeAmo at h
    rw [if_pos hz] at h
    cases h
  unfold amoFn
  rw [bit1_getLsbD, bit1_getLsbD, bit1_getLsbD, ← hz]
  simp (disch := decide) [extractLsb'_append_extractLsb'_eq_extractLsb', -Nat.reduceAdd]

theorem encodeKettle_of_decodeOrdered (h : decodeOrdered d a b f = .ok i) : encodeKettle i = some (formK 0x17 d a b f) := by
  obtain ⟨c, sz, st, rfl⟩ := decodeOrdered_ok h
  rw [decodeOrdered_ordFn] at h
  split at h <;> obtain ⟨hz, rfl⟩ := needZero_eq_ok.1 h <;> rw [eq_of_beq hz] <;> rfl

theorem encodeKettle_of_decodeAmo (h : decodeAmo d a b f = .ok i) : encodeKettle i = some (formK 0x18 d a b f) := by
  obtain ⟨op, w, o, s, u, rfl⟩ := decodeAmo_ok h
  rw [decodeAmo_amoFn] at h
  split at h
  case h_1 hop | h_2 hop | h_3 hop | h_4 hop | h_5 hop =>
    obtain ⟨hu, rfl⟩ := needZero_eq_ok.1 h
    obtain rfl : u = false := by simpa using hu
    rw [← ofNat_eq_of_toNat hop]
    rfl
  case h_6 hop | h_7 hop =>
    cases h
    rw [← ofNat_eq_of_toNat hop]
    rfl
  case h_8 => cases h

theorem encodeKettle_of_decodeCsr (h : decodeCsr d a k = .ok i) : encodeKettle i = some (formI 0x2D d a k) := by
  have hk : k.extractLsb' 12 4 ++ k.extractLsb' 0 12 = k := BitVec.extractLsb'_append_extractLsb'
  rw [← hk] at h ⊢
  rw [decodeCsr_append] at h
  split at h
  case h_1 hop | h_2 hop | h_3 hop | h_4 hop =>
    obtain ⟨hz, rfl⟩ := needZero_eq_ok.1 h
    rw [← ofNat_eq_of_toNat hop, eq_of_beq hz]
    rfl
  case h_5 => cases h

theorem encodeKettle_of_decodeWait (h : decodeWait d a b f = .ok i) : encodeKettle i = some (formK 0x2F d a b f) := by
  unfold decodeWait at h
  split at h
  case h_1 hf =>
    obtain ⟨hz, rfl⟩ := needZero_eq_ok.1 h
    obtain ⟨⟨rfl, rfl⟩, rfl⟩ : (d = 0 ∧ a = 0) ∧ b = 0 := by simpa using hz
    rw [← ofNat_eq_of_toNat hf]
    rfl
  case h_2 hf =>
    obtain ⟨hz, rfl⟩ := needZero_eq_ok.1 h
    rw [← ofNat_eq_of_toNat hf, eq_of_beq hz]
    rfl
  case h_3 => cases h

theorem encodeKettle_of_decodeArm (h : decodeArm d a b f = .ok i) : encodeKettle i = some (formK 0x31 d a b f) := by
  unfold decodeArm at h
  split at h
  case h_1 hf | h_2 hf =>
    obtain ⟨hz, rfl⟩ := needZero_eq_ok.1 h
    rw [← ofNat_eq_of_toNat hf, eq_of_beq hz]
    rfl
  case h_3 => cases h

theorem formK_of_op (hop : (kwOp w).toNat = n) (hf : kwF w = f) : formK (BitVec.ofNat 6 n) (kwD w) (kwA w) (kwB w) f = w := by
  rw [ofNat_eq_of_toNat hop, ← hf, formK_of_fields]

theorem formI_of_op (hop : (kwOp w).toNat = n) : formI (BitVec.ofNat 6 n) (kwD w) (kwA w) (kwI w) = w := by
  rw [ofNat_eq_of_toNat hop, formI_of_fields]

theorem formJ_of_op (hop : (kwOp w).toNat = n) : formJ (BitVec.ofNat 6 n) (w.extractLsb' 0 26) = w := by
  rw [ofNat_eq_of_toNat hop, formJ_of_fields]

theorem shamt_of_zero (h : k.extractLsb' 6 10 = 0) : (0 : BitVec 10) ++ k.extractLsb' 0 6 = k := by
  rw [← h]
  exact BitVec.extractLsb'_append_extractLsb'

theorem fence_of_zero (h : f.extractLsb' 1 10 = 0) : (0 : BitVec 10) ++ bit1 (f.getLsbD 0) = f := by
  rw [← h, bit1_getLsbD]
  exact BitVec.extractLsb'_append_extractLsb'

/-- The kettle encoder undoes the decoder (R214 to R216). -/
theorem encode_of_decodeKettle (h : decodeKettle w = .ok i) : encodeKettle i = some w := by
  unfold decodeKettle at h
  split at h
  case h_1 hop => exact (encodeKettle_of_decodeAlu h).trans (congrArg some (formK_of_op hop rfl))
  case h_18 hop => exact (encodeKettle_of_decodeOrdered h).trans (congrArg some (formK_of_op hop rfl))
  case h_19 hop => exact (encodeKettle_of_decodeAmo h).trans (congrArg some (formK_of_op hop rfl))
  case h_31 hop => exact (encodeKettle_of_decodeCsr h).trans (congrArg some (formI_of_op hop))
  case h_33 hop => exact (encodeKettle_of_decodeWait h).trans (congrArg some (formK_of_op hop rfl))
  case h_35 hop => exact (encodeKettle_of_decodeArm h).trans (congrArg some (formK_of_op hop rfl))
  -- form I and form B with every field free
  case h_2 hop | h_3 hop | h_4 hop | h_5 hop | h_9 hop | h_11 hop | h_12 hop | h_13 hop | h_14 hop | h_15 hop | h_16 hop | h_17 hop
      | h_20 hop | h_21 hop | h_22 hop | h_23 hop | h_24 hop | h_25 hop | h_28 hop =>
    cases h
    exact congrArg some (formI_of_op hop)
  -- the shifts by an immediate
  case h_6 hop | h_7 hop | h_8 hop =>
    obtain ⟨hz, rfl⟩ := needZero_eq_ok.1 h
    refine congrArg some (Eq.trans ?_ (formI_of_op hop))
    exact congrArg (formI _ _ _) (shamt_of_zero (eq_of_beq hz))
  case h_10 hop =>
    obtain ⟨hz, rfl⟩ := needZero_eq_ok.1 h
    have hw := formI_of_op hop
    rw [eq_of_beq hz] at hw
    exact congrArg some hw
  case h_32 hop =>
    obtain ⟨hz, rfl⟩ := needZero_eq_ok.1 h
    obtain ⟨hd, ha⟩ : kwD w = 0 ∧ kwA w = 0 := by simpa using hz
    have hw := formI_of_op hop
    rw [hd, ha] at hw
    exact congrArg some hw
  -- form J
  case h_26 hop | h_27 hop =>
    cases h
    exact congrArg some (formJ_of_op hop)
  case h_30 hop =>
    have hf : (kwF w).extractLsb' 1 10 = 0 := by
      by_contra hf
      rw [if_pos hf] at h
      cases h
    rw [if_neg (not_not_intro hf)] at h
    obtain ⟨hz, rfl⟩ := needZero_eq_ok.1 h
    obtain ⟨⟨hd, ha⟩, hb⟩ : (kwD w = 0 ∧ kwA w = 0) ∧ kwB w = 0 := by simpa using hz
    have hw := formK_of_op hop (fence_of_zero hf).symm
    rw [hd, ha, hb] at hw
    exact congrArg some hw
  -- form K with the one function fn 0
  case h_29 hop | h_34 hop | h_36 hop | h_37 hop | h_38 hop | h_39 hop | h_41 hop | h_42 hop | h_43 hop | h_44 hop | h_45 hop
      | h_46 hop | h_47 hop | h_49 hop =>
    obtain ⟨hf, h⟩ := onlyFn0_eq_ok.1 h
    cases h
    exact congrArg some (formK_of_op hop hf)
  case h_40 hop | h_48 hop =>
    obtain ⟨hf, h⟩ := onlyFn0_eq_ok.1 h
    obtain ⟨hz, rfl⟩ := needZero_eq_ok.1 h
    have hw := formK_of_op hop hf
    rw [eq_of_beq hz] at hw
    exact congrArg some hw
  case h_50 => cases h
end

/-! ### Operation words (R64, Table 3.6) -/

section
variable (c : BitVec 8) (o : OpWord) (w : Word64)

theorem opCode_opForm : opCode (opForm c o) = c := by
  simp (disch := decide) [opCode, opForm, extractLsb'_append_eq_of_le, -Nat.reduceAdd]

theorem getLsbD_of_bit1 {n : Nat} {x : BitVec n} {k : Nat} {b : Bool} (h : x.extractLsb' k 1 = bit1 b) : x.getLsbD k = b := by
  rw [BitVec.getLsbD_eq_extractLsb', h]
  cases b <;> rfl

theorem opFields_opForm : opFields (opForm c o) = o := by
  have hsat : (opForm c o).getLsbD 49 = o.sat := getLsbD_of_bit1 (by
    simp (disch := decide) [opForm, extractLsb'_append_eq_of_le, extractLsb'_append_eq_of_add_le, -Nat.reduceAdd])
  have hurg : (opForm c o).getLsbD 48 = o.urg := getLsbD_of_bit1 (by
    simp (disch := decide) [opForm, extractLsb'_append_eq_of_le, extractLsb'_append_eq_of_add_le, -Nat.reduceAdd])
  have hgen : (opForm c o).getLsbD 47 = o.gen := getLsbD_of_bit1 (by
    simp (disch := decide) [opForm, extractLsb'_append_eq_of_le, extractLsb'_append_eq_of_add_le, -Nat.reduceAdd])
  have hgsense : (opForm c o).getLsbD 46 = o.gsense := getLsbD_of_bit1 (by
    simp (disch := decide) [opForm, extractLsb'_append_eq_of_le, extractLsb'_append_eq_of_add_le, -Nat.reduceAdd])
  unfold opFields
  rw [hsat, hurg, hgen, hgsense]
  simp (disch := decide) [opForm, extractLsb'_append_eq_of_le, extractLsb'_append_eq_of_add_le, -Nat.reduceAdd]

theorem opForm_of_fields : opForm (opCode w) (opFields w) = w := by
  simp only [opCode, opFields, opForm, bit1_getLsbD]
  simp (disch := decide) [extractLsb'_append_extractLsb'_eq_extractLsb', -Nat.reduceAdd]
end

/-- The word of an operation decodes by its opcode and fields. -/
theorem opCodeOf_of_encode {i : Instr} {w : Word64} (h : encodeOp i = some w) : opCodeOf i = some (opCode w, opFields w) := by
  obtain ⟨⟨c, o⟩, hi, rfl⟩ := Option.map_eq_some_iff.1 h
  rw [opCode_opForm, opFields_opForm, hi]

/-- The operation decoder undoes the encoder; `ld` and `st` by the variant of their MOD (Table 8.1). -/
theorem decodeOp_of_encode {i : Instr} {w : Word64} (hwf : i.wf = true) (h : encodeOp i = some w) : decodeOp w = .ok i := by
  have hi := opCodeOf_of_encode h
  have hv : variantOk i = true := by
    unfold Instr.wf at hwf
    rw [hi] at hwf
    exact (Bool.and_eq_true_iff.1 hwf).2
  unfold decodeOp
  generalize opCode w = c at hi ⊢
  generalize opFields w = o at hi ⊢
  cases i
  case opLd | opSt =>
    cases hi
    have hm : o.mod.toNat = 0 ∨ o.mod.toNat = 1 := Nat.le_one_iff_eq_zero_or_eq_one.1 (of_decide_eq_true hv)
    rcases hm with hm | hm <;> simp [hm]
  case opLdLoc | opStLoc =>
    cases hi
    have hm : 2 ≤ o.mod.toNat ∧ o.mod.toNat ≤ 4 := by simpa [variantOk] using hv
    obtain hm | hm | hm : o.mod.toNat = 2 ∨ o.mod.toNat = 3 ∨ o.mod.toNat = 4 := by omega
    all_goals simp [hm]
  case opLdRec =>
    cases hi
    have hm : o.mod.toNat = 5 := eq_of_beq hv
    simp [hm]
  all_goals cases hi
  all_goals rfl

/-- The operation encoder undoes the decoder. -/
theorem encode_of_decodeOp {i : Instr} {w : Word64} (h : decodeOp w = .ok i) : encodeOp i = some w := by
  suffices hi : opCodeOf i = some (opCode w, opFields w) by
    rw [encodeOp, hi]
    exact congrArg some (opForm_of_fields w)
  unfold decodeOp at h
  split at h
  case h_111 => cases h
  case h_85 hop | h_86 hop =>
    rw [← ofNat_eq_of_toNat hop]
    dsimp only at h
    split at h <;> cases h <;> rfl
  all_goals
    rename_i hop
    rw [← ofNat_eq_of_toNat hop]
    cases h
    rfl

end Sys2Proof

open Sys2Proof

/-- Settles O56: each decoder undoes its encoder, instruction by instruction, and each encoder its decoder, word by word. -/
theorem decodeEncode : Obligations.DecodeEncode :=
  ⟨fun _ _ => decodeKettle_of_encode, fun _ _ => decodeOp_of_encode, fun _ _ => encode_of_decodeKettle, fun _ _ => encode_of_decodeOp⟩

/-- Settles O57: each word by its fields. -/
theorem decodedWords : Obligations.DecodedWords :=
  ⟨rfl, rfl, rfl, rfl, rfl, rfl, rfl, rfl, rfl, rfl, rfl, rfl, rfl, rfl⟩
end

section
/-! SUPPORT. What the controller leaves when it accepts a fabric instruction (spec/09: R232, R236 to R238; spec/10: R267): the
status, the region, its event; and the four instructions that start or end what a region holds (R240, R246). -/

namespace Sys2Proof.Machine

/-! ### Folds that change nothing -/

/-- A fold whose steps all leave the start leaves it. -/
theorem foldl_unchanged {α β : Type} {f : α → β → α} {a : α} (l : List β) (h : ∀ b ∈ l, f a b = a) : l.foldl f a = a := by
  induction l with
  | nil => rfl
  | cons b l ih =>
    rw [List.foldl_cons, h b List.mem_cons_self]
    exact ih fun c hc => h c (List.mem_cons_of_mem b hc)

/-! ### The region, its partition and its event -/

/-- A region with a state other than UNARMED is of a partition P0 to P15. -/
theorem part_lt_of_st {s : State} {r : Rgn} (h : (getRegion s r).st ≠ 0) : r.part < 16 := by
  by_contra hp
  unfold getRegion getPart at h
  rw [dif_neg hp] at h
  exact h rfl

theorem getRegion_enterState {s : State} {r : Rgn} (hp : r.part < 16) (g : Region) (st : Nat) :
    getRegion (enterState s r g st) r = { g with st := st } := getRegion_setRegion_same hp

theorem enterState_local (s : State) (r : Rgn) (g : Region) (st : Nat) : Local s (enterState s r g st) r :=
  (setRegion_local _ _ _).trans (postRegion_local _ _ _ _)

theorem enterState_cur (s : State) (r : Rgn) (g : Region) (st : Nat) : (enterState s r g st).cur = s.cur := setRegion_cur ..
theorem enterState_clk (s : State) (r : Rgn) (g : Region) (st : Nat) : (enterState s r g st).clk = s.clk := setRegion_clk ..
theorem enterState_lanes (s : State) (r : Rgn) (g : Region) (st : Nat) : (enterState s r g st).lanes = s.lanes := setRegion_lanes ..

/-- A handle's bit of KS_REVT (R232). -/
theorem event_bit (x : Word64) (h : Nat) : (x ||| BitVec.ofNat 64 (2 ^ (h % 64))).getLsbD (h % 64) = true := by
  have hlt : h % 64 < 64 := Nat.mod_lt _ (by decide)
  rw [BitVec.getLsbD_or, BitVec.getLsbD_ofNat, Nat.testBit_two_pow_self]
  simp [hlt]

theorem postRegion_posted (s : State) (r : Rgn) : Posted s (postRegion s r.part r.handle) r := by
  intro k hk
  have hc : (postRegion s r.part r.handle).cores[k] =
      { s.cores[k] with revt := s.cores[k].revt ||| BitVec.ofNat 64 (2 ^ (r.handle % 64)), event := s.cores[k].event ||| 1 } := by
    unfold postRegion
    simp only [Fin.getElem_fin, Vector.getElem_mapFinIdx, hk, if_true]
  rw [hc]
  exact ⟨event_bit _ _, by simp⟩

/-- What a core is told does not depend on the regions. -/
theorem Posted.of_cores {s s' t t' : State} {r : Rgn} (h : Posted s t r) (hm : s'.pmap = s.pmap) (hc : t'.cores = t.cores) :
    Posted s' t' r := by
  intro k hk
  rw [hc]
  refine h k ?_
  unfold ownsCore partDies pmapOf at hk ⊢
  rwa [← hm]

theorem enterState_posted (s : State) (r : Rgn) (g : Region) (st : Nat) : Posted s (enterState s r g st) r :=
  (postRegion_posted _ _).of_cores (setRegion_pmap ..).symm rfl

/-! ### The status of an accepted instruction -/

section
variable {s u : State} {d : KReg} {r : Rgn} (n : Nat)

theorem getRegion_fstatus (q : Rgn) : getRegion (fstatus u d n) q = getRegion u q := rfl

/-- A status leaves the events of every core. -/
theorem fstatus_events (k : Fin 32) : (fstatus u d n).cores[k].event = u.cores[k].event ∧ (fstatus u d n).cores[k].revt = u.cores[k].revt := by
  unfold fstatus kret setCore
  simp only [Fin.getElem_fin, Vector.getElem_set]
  split
  · next hk =>
    unfold Core.setReg curCore
    simp only [hk]
    split <;> exact ⟨rfl, rfl⟩
  · exact ⟨rfl, rfl⟩

theorem Posted.fstatus (h : Posted s u r) : Posted s (fstatus u d n) r := by
  intro k hk
  obtain ⟨he, hr⟩ := fstatus_events (u := u) (d := d) n k
  rw [he, hr]
  exact h k hk

end

theorem Posted.busy {s u : State} {r q : Rgn} (h : Posted s u r) : Posted s (busy u q) r := h.of_cores rfl (modRegion_cores ..)

theorem curCore_congr {s t : State} (hc : s.cores = t.cores) (hk : s.cur = t.cur) : curCore s = curCore t := by
  unfold curCore
  simp only [hc, hk]

/-- An event of a region leaves the current core but its event bits. -/
theorem Local.curCore {s u : State} {r : Rgn} (h : Local s u r) (hcur : u.cur = s.cur) :
    curCore u = { curCore s with event := (Machine.curCore u).event, revt := (Machine.curCore u).revt } := by
  have hu : Machine.curCore u = u.cores[s.cur.toFin] := by
    unfold Machine.curCore
    simp only [hcur]
    rfl
  rw [hu]
  exact h.cores s.cur.toFin

/-- What the acceptance of an instruction leaves beside its region, where it may change the lane groups. -/
theorem answers_of_local {s u : State} {d : KReg} {r : Rgn} (h : Local { s with lanes := u.lanes } u r) (hcur : u.cur = s.cur) :
    Answers s (fstatus (busy u r) d 0) d 0 r := by
  have hb : curCore (busy u r) = { curCore s with event := (curCore u).event, revt := (curCore u).revt } :=
    (curCore_congr (modRegion_cores ..) (modRegion_cur ..)).trans (h.curCore hcur)
  obtain ⟨hset, hregs⟩ := kret_setsReg (busy u r) d (BitVec.ofNat 64 0)
  have hcore : curCore (fstatus (busy u r) d 0) = { curCore (busy u r) with
      regs := (curCore (fstatus (busy u r) d 0)).regs, pc := (curCore (busy u r)).pc + 4 } := by
    have hc := congrArg curCore hset
    rwa [curCore_setCore] at hc
  refine ⟨fun q => ?_, ?_, ?_, (modRegion_hbm ..).trans h.hbm, ⟨(modRegion_hostMem ..).trans h.host.1, (modRegion_hostOut ..).trans h.host.2⟩,
    fun q hq => (getRegion_modRegion_ne (Ne.symm hq)).trans (h.regions q hq)⟩
  · have hq : kreg (busy u r) q = kreg s q := by unfold kreg; rw [hb]; rfl
    exact (hregs q).trans (by rw [hq]; rfl)
  · rw [hcore, hb]
  · rw [hcore, hb]

/-- The controller's judgement where nothing refuses (R236 to R238). -/
theorem fabric_accepts {s u : State} {d : KReg} {v : Word64} {r : Rgn} {states : List Nat} {f : State → Rgn → Region → Nat × State}
    (hf : Free s v r) (hst : (getRegion s r).st ∈ states) (hu : f s r (getRegion s r) = (0, u)) :
    fabric s d v states f = fstatus (busy u r) d 0 := by
  have hidle : regionBusy (getRegion s r) = false := by simp [regionBusy, hf.load, hf.cutp, hf.save]
  have hsmall : v.toNat / 64 = 0 := Nat.div_eq_of_lt hf.small
  have hc : states.contains (getRegion s r).st = true := List.contains_iff_mem.2 hst
  unfold fabric
  simp only [korder_mod hf.done, hsmall, ← hf.rgn, hidle, hc, hu]
  rfl

/-- An instruction whose judgement the controller makes, accepted with u as what it leaves. -/
theorem accepts_of {i : Instr} {s u : State} {d : KReg} {v : Word64} {r : Rgn} {states : List Nat} {f : State → Rgn → Region → Nat × State}
    {P : State → Region → Prop} (he : exec i s = .next (fabric s d v states f)) (hf : Free s v r) (hst : (getRegion s r).st ∈ states)
    (hp : r.part < 16) (hu : f s r (getRegion s r) = (0, u)) (hl : Local { s with lanes := u.lanes } u r) (hcur : u.cur = s.cur)
    (hP : P (fstatus (busy u r) d 0) { getRegion u r with idleBase := u.clk }) : Accepts i s d r P := by
  refine ⟨_, he.trans (congrArg _ (fabric_accepts hf hst hu)), answers_of_local hl hcur, ?_⟩
  rw [getRegion_fstatus, busy, getRegion_modRegion_same hp]
  exact hP

/-! ### `arm` and `arm.off` (R240) -/

/-- A region as `arm` leaves it. -/
def armed (g : Region) : Region :=
  { configureCold { g with foot := armFoot g } with rdrain := none, stopping := false, recorded := [], stopW0 := 0 }

theorem armRegion_accepts {s : State} {r : Rgn} {g : Region} (h : armFoot g = g.foot ∨ growHeld s r g 0 (armFoot g) = false) :
    armRegion s r g = (0, enterState s r (armed g) 1) := by
  have hc : ¬((decide (armFoot g ≠ g.foot) && growHeld s r g 0 (armFoot g)) = true) := by
    rcases h with h | h <;> simp [h]
  unfold armRegion
  exact if_neg hc

/-- A region that goes UNARMED, before its state is set: its launch has ended, its lane groups are free. -/
def released (s : State) (r : Rgn) : State := unbindLanes (endLaunch s r (getRegion s r).launch 2) r

theorem endLaunch_local (s : State) (r q : Rgn) (id st : Nat) : Local s (endLaunch s r id st) q :=
  modPart_local s r.part _ (fun x => by split <;> [rfl; (split <;> rfl)]) q

theorem released_local (s : State) (r q : Rgn) : Local { s with lanes := (released s r).lanes } (released s r) q where
  hbm := (endLaunch_local s r q _ 2).hbm
  host := (endLaunch_local s r q _ 2).host
  lanes := rfl
  regions := (endLaunch_local s r q _ 2).regions
  cores := (endLaunch_local s r q _ 2).cores

/-! ### `launch` (R246) -/

/-- The lane groups of a region that is launched owe a BIND flit (R309). -/
def bindsDue (s : State) (r : Rgn) : State :=
  { s with lanes := s.lanes.map fun l => match l.bind with
    | some b => if b.1 = r.part ∧ b.2.1 = r.handle then { l with bindDue := true, bindSeen := none } else l
    | none => l }

/-- A region as `launch` leaves it, before its state is set. -/
def launched (g : Region) (id clk : Nat) : Region :=
  resetGauges { g with launch := id, rflags := 0, faultq := [], fltlost := 0, signals := 0, origin := 0, nfront := 0,
                       launchClk := clk, rdrain := none, resumeSt := 2, between := true, starting := true }

/-- The state in which a region has been launched: it runs, and its launch is pending. -/
def launching (s : State) (r : Rgn) (id : Nat) : State :=
  putLaunch (enterState (bindsDue s r) r (launched (getRegion s r) id s.clk) 2) r id

theorem launchRegion_eq (s : State) (r : Rgn) (id : Nat) :
    launchRegion s r (getRegion s r) id = meetLost (meetCtrl (launching s r id) r) r := rfl

theorem launching_lanes (s : State) (r : Rgn) (id : Nat) : (launching s r id).lanes = (bindsDue s r).lanes :=
  (modPart_lanes ..).trans (enterState_lanes ..)

theorem launching_region {s : State} {r : Rgn} (hp : r.part < 16) (id : Nat) :
    getRegion (launching s r id) r = { launched (getRegion s r) id s.clk with st := 2 } :=
  (getRegion_modPart _ _ _ (by intro; rfl) _).trans (getRegion_enterState hp _ _)

/-- With no uncorrectable control state there is none to meet (R406). -/
theorem meetCtrl_good {s : State} {r : Rgn} (h : ∀ e ∈ (getRegion s r).elems, e.badCtrl = none) : meetCtrl s r = s := by
  refine foldl_unchanged _ fun q hq => ?_
  rw [h q.1 (List.fst_mem_of_mem_zipIdx hq)]

/-- With every lane group of the region up there is none lost to meet (R323). -/
theorem meetLost_up {s : State} {r : Rgn} (h : LanesUp s r) : meetLost s r = s := by
  refine foldl_unchanged _ fun n hn => ?_
  have hl : getLane s n ∈ s.lanes := by
    have hlt : n < s.lanes.length := List.mem_range.1 hn
    unfold getLane nth
    rw [List.getD_eq_getElem _ _ hlt]
    exact List.getElem_mem hlt
  dsimp only
  split
  · next b hb =>
    refine if_neg fun hc => ?_
    obtain ⟨⟨hp, hh⟩, hlost⟩ : (b.1 = r.part ∧ b.2.1 = r.handle) ∧ ((getLane s n).lost = true ∨ (getLane s n).up = false) := by
      simpa using hc
    obtain ⟨h1, h2⟩ := h _ hl b hb hp hh
    rw [h1, h2] at hlost
    simp at hlost
  · rfl

theorem bindsDue_lanesUp {s : State} {r : Rgn} (h : LanesUp s r) : LanesUp (bindsDue s r) r := by
  intro l hl
  obtain ⟨l', hl', he⟩ := List.mem_map.1 hl
  obtain ⟨x, y, rfl⟩ : ∃ x y, l = { l' with bindDue := x, bindSeen := y } := by
    rw [← he]
    split
    · split <;> exact ⟨_, _, rfl⟩
    · exact ⟨_, _, rfl⟩
  exact h l' hl'

theorem putLaunch_local (s : State) (r q : Rgn) (id : Nat) : Local s (putLaunch s r id) q := by
  unfold putLaunch
  exact modPart_local s r.part _ (by intro; rfl) q

theorem launchOf_putLaunch {s : State} {r : Rgn} (hp : r.part < 16) (id : Nat) :
    launchOf (putLaunch s r id) r.part id = some { id := id, st := 0, handle := r.handle } := by
  unfold launchOf putLaunch modPart
  rw [getPart_setPart_same hp, List.find?_append, List.find?_eq_none.2]
  · simp
  · intro x hx
    simpa using (List.mem_filter.1 hx).2

theorem launchOf_busy (s : State) (r : Rgn) (id : Nat) : launchOf (busy s r) r.part id = launchOf s r.part id := by
  unfold launchOf busy
  rw [(modRegion_only s r _).own]

/-- What `launch` leaves where no lane group is lost and no control state bad. -/
theorem launchRegion_good {s : State} {r : Rgn} (hp : r.part < 16) (hup : LanesUp s r) (id : Nat)
    (hctrl : ∀ e ∈ (getRegion s r).elems, e.badCtrl = none) : launchRegion s r (getRegion s r) id = launching s r id := by
  rw [launchRegion_eq, meetCtrl_good, meetLost_up]
  · unfold LanesUp
    rw [launching_lanes]
    exact bindsDue_lanesUp hup
  · rw [launching_region hp]
    intro e he
    obtain ⟨e', he', rfl⟩ := List.mem_map.1 he
    exact hctrl e' he'

end Sys2Proof.Machine

open Sys2Proof Sys2Proof.Machine

/-- Settles O21, instruction by instruction: each is accepted, and its region is what the controller leaves. -/
theorem fabricLifecycle : Obligations.FabricLifecycle := by
  intro s d a b r hf g n
  refine ⟨fun hst hheld => ?_, fun hst => ?_, fun hst hn => ?_, fun hst h0 hlt hup hctrl => ?_⟩
  · have hp : r.part < 16 := part_lt_of_st fun h0 : g.st = 0 => by omega
    refine accepts_of (u := enterState s r (armed g) 1) rfl hf (by rw [hst]; decide) hp (armRegion_accepts hheld) ?_ (enterState_cur ..) ?_
    · rw [enterState_lanes]
      exact enterState_local ..
    · rw [getRegion_enterState hp]
      exact ⟨rfl, rfl, rfl, rfl, ((enterState_posted _ _ _ _).busy).fstatus 0⟩
  · have hp : r.part < 16 := part_lt_of_st fun h0 : g.st = 0 => by omega
    refine accepts_of (u := enterState (released s r) r (offRegion g) 0) rfl hf (by simpa using hst) hp rfl ?_ ?_ ?_
    · rw [enterState_lanes]
      exact (released_local s r r).trans (enterState_local ..)
    · exact (enterState_cur ..).trans (modPart_cur ..)
    · rw [getRegion_enterState hp, enterState_clk, show (released s r).clk = s.clk from modPart_clk ..]
      refine ⟨rfl, ((Posted.of_cores (enterState_posted _ _ _ _) ?_ rfl).busy).fstatus 0⟩
      exact (modPart_pmap ..).symm
  · have hp : r.part < 16 := part_lt_of_st fun h0 : g.st = 0 => by omega
    refine accepts_of (u := setRegion s r { g with shadow := some n }) rfl hf (by simpa using hst) hp (if_neg (Nat.not_le.2 hn)) ?_ (setRegion_cur ..) ?_
    · rw [setRegion_lanes]
      exact setRegion_local ..
    · rw [getRegion_setRegion_same hp, setRegion_clk]
  · have hp : r.part < 16 := part_lt_of_st fun h0 : g.st = 0 => by omega
    have hn : ¬((decide (n = 0) || decide (2 ^ 32 ≤ n)) = true) := by
      rw [Bool.or_eq_true, decide_eq_true_eq, decide_eq_true_eq]
      omega
    refine accepts_of (u := launching s r n) rfl hf (by rw [hst]; decide) hp
      ((if_neg hn).trans (congrArg _ (launchRegion_good hp hup n hctrl))) ?_ ((modPart_cur ..).trans (enterState_cur ..)) ?_
    · rw [launching_lanes]
      exact (enterState_local (bindsDue s r) r _ 2).trans (putLaunch_local ..)
    · rw [launching_region hp]
      have hlaunch : launchOf (fstatus (busy (launching s r n) r) d 0) r.part n = some { id := n, st := 0, handle := r.handle } :=
        (launchOf_busy _ r n).trans (launchOf_putLaunch hp n)
      have hposted : Posted s (launching s r n) r :=
        (enterState_posted (bindsDue s r) r (launched g n s.clk) 2).of_cores rfl (modPart_cores ..)
      exact ⟨rfl, rfl, rfl, rfl, rfl, rfl, rfl, rfl, rfl, by rw [hlaunch]; rfl, hposted.busy.fstatus 0⟩

end

section
/-! SUPPORT. The poison of the one token that a lane, reduction or function firing sends (spec/03: R72; spec/14: R326). -/

namespace Sys2Proof.Machine

/-- The instruction is a firing that sends one token, with its operands' poison. -/
def SendsOne (i : Instr) (w : OpWord) : Prop :=
  ∃ opc, opc ≠ 2 ∧ opc ≠ 3 ∧ ∃ m : FireIn → FireOut, (∀ s, exec i s = .next (fireGo s w opc m)) ∧
    ∀ q : FireIn, ∃ entry h p, (m q).outs = [q.emit entry h p q.poison]

theorem laneOp_sendsOne {i : Instr} {w : OpWord} (hi : i ∈ laneOps w) : SendsOne i w := by
  simp only [laneOps, List.mem_cons, List.not_mem_nil, or_false] at hi
  rcases hi with rfl | rfl | rfl | rfl | rfl | rfl | rfl | rfl | rfl | rfl | rfl | rfl | rfl | rfl | rfl | rfl | rfl | rfl | rfl | rfl |
    rfl | rfl | rfl | rfl | rfl | rfl | rfl | rfl | rfl | rfl | rfl | rfl | rfl | rfl | rfl | rfl
  all_goals exact ⟨_, by decide, by decide, _, fun _ => rfl, fun _ => ⟨_, _, _, rfl⟩⟩

theorem functionOp_sendsOne {i : Instr} {w : OpWord} (hi : i ∈ (functionOps w).map Prod.fst) : SendsOne i w := by
  simp only [functionOps, List.map_cons, List.map_nil, List.mem_cons, List.not_mem_nil, or_false] at hi
  rcases hi with rfl | rfl | rfl | rfl | rfl | rfl | rfl | rfl | rfl | rfl | rfl | rfl | rfl | rfl | rfl | rfl | rfl
  all_goals exact ⟨_, by decide, by decide, _, fun _ => rfl, fun _ => ⟨_, _, _, rfl⟩⟩

/-- Poison that is there already stays as it is. -/
theorem poisonOut_poisoned (clears link : Bool) (fx : Nat) {o : FireOut} (h : ∀ p ∈ o.outs, p.2.hdr.poison = true) :
    (poisonOut clears link fx o).outs = o.outs := by
  have hkeep (p : Nat × Token) (hp : p ∈ o.outs) :
      (p.1, { p.2 with hdr := if p.2.hdr.kind = 1 || p.2.hdr.poison then p.2.hdr else { p.2.hdr with poison := true, fidx := fx } }) = p := by
    rw [h p hp, Bool.or_true, if_pos rfl]
  unfold poisonOut
  dsimp only
  split
  · rw [List.map_congr_left fun p hp => hkeep p (List.mem_of_mem_take hp), List.map_id', List.take_append_drop]
  · rw [List.map_congr_left hkeep, List.map_id']

theorem judgeOut_poisoned {i : FireIn} {ord : Nat} {bad : Option Nat} {o : FireOut} (h : ∀ p ∈ o.outs, p.2.hdr.poison = true) :
    (judgeOut i ord bad o).1.outs = o.outs := by
  unfold judgeOut
  cases bad with
  | some code => exact poisonOut_poisoned (i.opc == 0x63 || i.opc == 0x65) (i.opc == 0x04) _ h
  | none =>
    dsimp only
    split
    · rfl
    · split
      · rfl
      · split
        · exact poisonOut_poisoned (i.opc == 0x63 || i.opc == 0x65) (i.opc == 0x04) _ h
        · exact poisonOut_poisoned (i.opc == 0x63 || i.opc == 0x65) (i.opc == 0x04) _ h

theorem judgeOut_unjudged {i : FireIn} {ord : Nat} {o : FireOut} (h : recNfp i.rec_ = false) : (judgeOut i ord none o).1.outs = o.outs := by
  unfold judgeOut
  dsimp only
  split
  · rfl
  · rw [h]
    rfl

/-- The tokens of a firing that sends one, where the judgement of its values changes nothing: each with its poison. -/
theorem poison_of_outs {e : Elem} {F : Firing} {q : FireIn} {entry p : Nat} {h : Hdr}
    (ho : F.outs = expandOuts e [q.emit entry h p q.poison]) :
    ∀ o ∈ F.outs, o.tok.hdr.poison = q.poison ∧ o.tok.hdr.fidx = if q.poison then q.fidx else 0 := by
  intro o hmem
  have hy : o.mark ∈ F.outs.map OutTok.mark := List.mem_map_of_mem hmem
  rw [ho, expandOuts_mark] at hy
  simp only [List.flatMap_cons, List.flatMap_nil, List.append_nil, List.mem_map, emit_mark, OutTok.mark, Prod.mk.injEq] at hy
  obtain ⟨-, -, -, hp, hx⟩ := hy
  exact ⟨hp.symm, hx.symm⟩

section
variable {i : Instr} {s : State} {f : Focus} {w : OpWord} (hi : SendsOne i w) (hf : Chosen s f)
include hi hf

/-- A poisoned operand poisons every token of the firing, whatever else is judged of it (R72). -/
theorem SendsOne.poisoned (hp : candPoison s f w = true) :
    Issues i s f fun _ F => ∀ o ∈ F.outs, o.tok.hdr.poison = true ∧ o.tok.hdr.fidx = candFidx s f w := by
  obtain ⟨opc, h2, h3, m, he, hm⟩ := hi
  have hq : (gather s f w opc).poison = true := (gather_poison s f w ⟨h2, h3⟩).trans hp
  refine issues_go hf (he s) fun t F hF => ?_
  obtain ⟨entry, h, p, ho⟩ := hm (gather s f w opc)
  obtain ⟨bad, -, houts⟩ := hF.outs
  have hall : ∀ x ∈ (m (gather s f w opc)).outs, x.2.hdr.poison = true := by
    rw [ho, List.forall_mem_singleton]
    exact (congrArg Prod.fst (emit_mark (gather s f w opc) entry h p _)).trans hq
  rw [judgeOut_poisoned hall, ho] at houts
  have hmark := poison_of_outs houts
  rw [hq, gather_fidx s f w ⟨h2, h3⟩ hp] at hmark
  exact hmark

/-- With no operand poisoned, no word of the element bad and no value judged, nothing is poisoned (R36, R406). -/
theorem SendsOne.clean (hp : candPoison s f w = false) (hb : (getElem s f.loc).ahead.badWords = [])
    (hn : recNfp (nth (getElem s f.loc).ahead.cfg.fmts w.fmt.toNat 0) = false) :
    Issues i s f fun _ F => ∀ o ∈ F.outs, o.tok.hdr.poison = false := by
  obtain ⟨opc, h2, h3, m, he, hm⟩ := hi
  refine issues_go hf (he s) fun t F hF => ?_
  obtain ⟨entry, h, p, ho⟩ := hm (gather s f w opc)
  obtain ⟨bad, hbad, houts⟩ := hF.outs
  have hrec : recNfp (gather s f w opc).rec_ = false := hn
  rw [hbad hb, judgeOut_unjudged hrec, ho] at houts
  have hmark := poison_of_outs houts
  rw [gather_poison s f w ⟨h2, h3⟩, hp] at hmark
  exact fun o hmem => (hmark o hmem).1

end

end Sys2Proof.Machine

open Sys2Proof Sys2Proof.Machine

/-- Settles O42: each of these firings sends one token with its operands' poison, which the judgement of its values keeps. -/
theorem poisonPropagates : Obligations.PoisonPropagates := by
  intro s f w i hf hi e g a b c fx
  have hone : SendsOne i w := (List.mem_append.1 hi).elim laneOp_sendsOne functionOp_sendsOne
  refine ⟨fun hp => hone.poisoned hf ?_, fun ha hb hc hw hn => hone.clean hf ?_ hw hn⟩
  · show (a.poison || b.poison || c.poison) = true
    rcases hp with h | h | h <;> simp [h]
  · show (a.poison || b.poison || c.poison) = false
    rw [ha, hb, hc]
    rfl

end

section
/-! SUPPORT. A commit keeps the pour of its region, whatever its firing does (spec/02: R60; spec/10: R270). -/

namespace Sys2Proof.Machine


/-- What a commit leaves of its region: the pour, the image and the state. -/
structure SamePour (g h : Region) : Prop where
  pour : h.pour = g.pour
  img : h.img = g.img
  st : h.st = g.st

theorem SamePour.refl (g : Region) : SamePour g g := ⟨rfl, rfl, rfl⟩

theorem SamePour.trans {a b c : Region} (h : SamePour a b) (k : SamePour b c) : SamePour a c :=
  ⟨k.pour.trans h.pour, k.img.trans h.img, k.st.trans h.st⟩

/-- The steps of a fold that keep the pour keep it together. -/
theorem samePour_foldl {β : Type} {r : Rgn} {f : State → β → State} (h : ∀ s b, SamePour (getRegion s r) (getRegion (f s b) r))
    (l : List β) (s : State) : SamePour (getRegion s r) (getRegion (l.foldl f s) r) := by
  induction l generalizing s with
  | nil => exact .refl _
  | cons b l ih => exact (h s b).trans (ih _)

section
variable {r : Rgn} (hp : r.part < 16)
include hp

theorem samePour_modRegion (s : State) {f : Region → Region} (hf : ∀ g, SamePour g (f g)) :
    SamePour (getRegion s r) (getRegion (modRegion s r f) r) := by
  rw [getRegion_modRegion_same hp]
  exact hf _

theorem samePour_drawOrigin (s : State) : SamePour (getRegion s r) (getRegion (drawOrigin s r).1 r) := by
  unfold drawOrigin
  exact samePour_modRegion hp s fun _ => ⟨rfl, rfl, rfl⟩

theorem samePour_putRecs (s : State) (xs : List FRec) : SamePour (getRegion s r) (getRegion (putRecs s r xs) r) := by
  obtain ⟨q, n, h⟩ := putRecs_region (s := s) hp xs
  rw [h]
  exact ⟨rfl, rfl, rfl⟩

theorem samePour_orphanRec (s : State) (m : MsgFlight) : SamePour (getRegion s r) (getRegion (orphanRec s r m) r) :=
  samePour_putRecs hp s [_]

theorem samePour_modBody (s : State) (b : Nat) (f : BodySt → BodySt) : SamePour (getRegion s r) (getRegion (modBody s r b f) r) :=
  samePour_modRegion hp s fun _ => ⟨rfl, rfl, rfl⟩

theorem samePour_retire (s : State) (b n : Nat) : SamePour (getRegion s r) (getRegion (retire s r b n) r) := by
  unfold retire
  dsimp only
  split
  · exact .refl _
  · split
    · exact .refl _
    · exact (samePour_modBody hp s _ _).trans (samePour_modRegion hp _ fun _ => ⟨rfl, rfl, rfl⟩)

theorem samePour_applyMsg (s : State) (m : MsgFlight) : SamePour (getRegion s r) (getRegion (applyMsg s r m) r) := by
  unfold applyMsg
  split
  · unfold applyDone
    dsimp only
    split
    · exact samePour_orphanRec hp s m
    · split
      · exact samePour_orphanRec hp s m
      · exact (samePour_modBody hp s _ _).trans (samePour_retire hp _ _ _)
  · unfold applyFree
    dsimp only
    split
    · exact samePour_orphanRec hp s m
    · split
      · exact samePour_orphanRec hp s m
      · exact (samePour_modBody hp s _ _).trans (samePour_modRegion hp _ fun _ => ⟨rfl, rfl, rfl⟩)

end

theorem samePour_modElem {l : Loc} (hp : l.part < 16) (s : State) (f : Elem → Elem) :
    SamePour (getRegion s (rgnOf l)) (getRegion (modElem s l f) (rgnOf l)) :=
  samePour_modRegion (r := rgnOf l) hp s fun _ => ⟨rfl, rfl, rfl⟩

theorem samePour_sendMsg {l : Loc} (hp : l.part < 16) (s : State) (f : Firing) (w : WinMsg) :
    SamePour (getRegion s (rgnOf l)) (getRegion (sendMsg s l f w) (rgnOf l)) := by
  unfold sendMsg
  extract_lets g m b
  split
  · exact samePour_applyMsg (r := rgnOf l) hp s _
  · exact samePour_modRegion (r := rgnOf l) hp s fun _ => ⟨rfl, rfl, rfl⟩

theorem samePour_signalled {r : Rgn} (hp : r.part < 16) (f : Firing) (s : State) :
    SamePour (getRegion s r) (getRegion (signalled f s r) r) := by
  obtain ⟨n, h, -⟩ := getRegion_signalled f (s := s) hp
  rw [h]
  exact ⟨rfl, rfl, rfl⟩

/-- A commit keeps the pour, whatever its firing does. -/
theorem samePour_commit {l : Loc} (hp : l.part < 16) (s : State) (k : Nat) :
    SamePour (getRegion s (rgnOf l)) (getRegion (commit s l k) (rgnOf l)) := by
  have hr : (rgnOf l).part < 16 := hp
  unfold commit
  dsimp only
  split
  · exact .refl _
  · next f0 _ =>
    refine SamePour.trans ?_ (samePour_modRegion hr _ fun _ => ⟨rfl, rfl, rfl⟩)
    refine SamePour.trans ?_ (samePour_signalled hr _ _)
    refine SamePour.trans ?_ (samePour_foldl (fun s w => samePour_sendMsg hp s _ w) _ _)
    refine SamePour.trans ?_ (samePour_modElem hp _ _)
    refine SamePour.trans ?_ (samePour_putRecs hr _ _)
    split
    · exact (samePour_drawOrigin hr s).trans (samePour_modElem hp _ _)
    · exact .refl _

theorem samePour_commitElem {l : Loc} (hp : l.part < 16) (n : Nat) (s : State) :
    SamePour (getRegion s (rgnOf l)) (getRegion (commitElem l n s) (rgnOf l)) := by
  induction n generalizing s with
  | zero => exact .refl _
  | succ n ih =>
    unfold commitElem
    dsimp only
    split
    · exact (samePour_commit hp s _).trans (ih _)
    · exact .refl _

theorem samePour_commitPour {r : Rgn} (hp : r.part < 16) (s : State) :
    SamePour (getRegion s r) (getRegion (commitPour s r) r) :=
  samePour_foldl (f := fun s k => commitElem ⟨r.part, r.handle, k⟩ (getElem s ⟨r.part, r.handle, k⟩).pending.length s)
    (fun s k => samePour_commitElem (l := ⟨r.part, r.handle, k⟩) hp _ s) _ s

end Sys2Proof.Machine
end

section
/-! SUPPORT. What the hardware writes to memory leaves the regions; the stop broadcast, the cut and the Doldrums monitor (spec/09:
R242; spec/10: R267; spec/14: R328, R329; spec/22: R407). -/

namespace Sys2Proof.Machine

theorem getRegion_congr {s t : State} (h : t.parts = s.parts) (r : Rgn) : getRegion t r = getRegion s r := by
  unfold getRegion getPart
  rw [h]

theorem physWrite_parts (s : State) (by_ : Option Nat) (pa n v : Nat) : (physWrite s by_ pa n v).parts = s.parts := by
  unfold physWrite physWriteMask
  dsimp only
  split
  · split <;> rfl
  · split <;> rfl
  · rfl

theorem getRegion_vput (s : State) (p va n v : Nat) (r : Rgn) : getRegion (vput s p va n v) r = getRegion s r := by
  unfold vput
  split
  · rfl
  · exact getRegion_congr (physWrite_parts ..) r

/-- The error log stands in its partition, not in a region. -/
theorem getRegion_errLog (s : State) (p launch stack syms kind layer pa : Nat) (r : Rgn) :
    getRegion (errLog s p launch stack syms kind layer pa) r = getRegion s r := by
  unfold errLog
  dsimp only
  split
  · refine (getRegion_modPart _ _ _ ?_ r).trans ((getRegion_vput ..).trans (getRegion_vput ..))
    exact fun _ => rfl
  · rfl

theorem getRegion_logRead (s : State) (p launch pa : Nat) (r : Rgn) : getRegion (logRead s p launch pa) r = getRegion s r := by
  unfold logRead
  split
  · exact getRegion_errLog ..
  · split
    · exact getRegion_errLog ..
    · rfl

theorem getRegion_logWrite (s : State) (p launch pa n : Nat) (r : Rgn) : getRegion (logWrite s p launch pa n) r = getRegion s r := by
  unfold logWrite
  split
  · exact getRegion_errLog ..
  · rfl

theorem getRegion_logWalk (s : State) (c : List WalkEnt) (p va : Nat) (r : Rgn) : getRegion (logWalk s c p va) r = getRegion s r := by
  unfold logWalk
  split
  · rfl
  · clear * -
    generalize walkReads s c p va = l
    induction l generalizing s with
    | nil => rfl
    | cons pa l ih => exact (ih _).trans (getRegion_logRead ..)

/-- What the hardware writes to memory changes no region. -/
theorem getRegion_vwriteD (s : State) (p va n v : Nat) (r : Rgn) : getRegion (vwriteD s p va n v) r = getRegion s r := by
  unfold vwriteD vwrite
  split
  · exact getRegion_logWalk ..
  · exact (getRegion_congr (physWrite_parts ..) r).trans ((getRegion_logWrite ..).trans (getRegion_logWalk ..))

theorem getRegion_vwriteLong (p fuel : Nat) (s : State) (va n v : Nat) (r : Rgn) :
    getRegion (vwriteLong s p fuel va n v) r = getRegion s r := by
  induction fuel generalizing s va n v with
  | zero => rfl
  | succ fuel ih =>
    unfold vwriteLong
    split
    · rfl
    · exact (ih ..).trans (getRegion_vwriteD ..)

/-! ### The Doldrums monitor -/

/-- A record shows its cause (Table 14.4). -/
theorem recordBits_cause (s : State) (g : Region) (x : FRec) : bits (recordBits s g x) 63 56 = x.cause % 256 := by
  have hst : stamp s g < 2 ^ 48 := Nat.mod_lt _ (by decide)
  unfold recordBits bits
  rw [Nat.shiftRight_eq_div_pow]
  dsimp only
  omega

/-- A stopping cause of the region itself: the region is stopping, and the record is queued unless it was written before. -/
theorem meetStopRgn_region {s : State} {r : Rgn} (hp : r.part < 16) (x : FRec) (n : Nat) :
    let g := getRegion s r
    let h := getRegion (meetStopRgn s r x n) r
    h.elems = g.elems ∧ h.chans = g.chans ∧ h.stopping = true ∧
    (g.recorded = [] → g.faultq.length < 32 → h.faultq = queueRec (recordBits s g { x with ekind := 3 }) g.faultq) := by
  intro g h
  have hh : h = getRegion (meetStopRgn s r x n) r := rfl
  unfold meetStopRgn at hh
  dsimp only at hh
  split at hh
  · next hc =>
    rw [hh, getRegion_modRegion_same hp]
    refine ⟨rfl, rfl, rfl, fun hn => ?_⟩
    rw [show (getRegion s r).recorded = [] from hn] at hc
    cases hc
  · generalize hu : setRegion s r _ = u at hh
    obtain ⟨q, m, hq, hqueue⟩ := putRec_region (s := u) hp { x with ekind := 3 }
    rw [← hu, getRegion_setRegion_same hp] at hq hqueue
    rw [hh, ← hu, hq]
    refine ⟨rfl, rfl, rfl, fun _ hlen => (hqueue hlen).trans ?_⟩
    exact congrArg (queueRec · g.faultq) (recordBits_congr (setRegion_clk ..) rfl rfl rfl _)

/-- The Doldrums monitor stops its region with one record. -/
def Stalled (g h : Region) (cause : Nat) : Prop :=
  h.stopping = true ∧ h.elems = g.elems ∧ h.chans = g.chans ∧ ∃ x, h.faultq = queueRec x g.faultq ∧ bits x 63 56 = cause

theorem meetStop_stalled {s : State} {r : Rgn} {k n : Nat} {x : FRec} (hp : r.part < 16) (hrec : (getRegion s r).recorded = [])
    (hlen : (getRegion s r).faultq.length < 32) :
    Stalled (getRegion s r) (getRegion (meetStop s ⟨r.part, r.handle, k⟩ x n) r) (x.cause % 256) := by
  obtain ⟨helems, hchans, hstop, -, hq⟩ := meetStop_region (s := s) (l := ⟨r.part, r.handle, k⟩) hp x n
  have hnone : (getRegion s r).recorded.contains (x.cause, k, x.slot, x.tag, n) = false := by rw [hrec]; rfl
  exact ⟨hstop, helems, hchans, _, hq hnone hlen, recordBits_cause ..⟩

theorem meetStopRgn_stalled {s : State} {r : Rgn} {n : Nat} {x : FRec} (hp : r.part < 16) (hrec : (getRegion s r).recorded = [])
    (hlen : (getRegion s r).faultq.length < 32) :
    Stalled (getRegion s r) (getRegion (meetStopRgn s r x n) r) (x.cause % 256) := by
  obtain ⟨helems, hchans, hstop, hq⟩ := meetStopRgn_region (s := s) hp x n
  exact ⟨hstop, helems, hchans, _, hq hrec hlen, recordBits_cause ..⟩

/-- SPILL_FULL where an element shows bit 3 or 6 of its reasons, else DEADLOCK (R267, R268). -/
def stallCause (s : State) (r : Rgn) : Nat := if (blocked s r).any fun q => bit q.2.2 3 || bit q.2.2 6 then 0x31 else 0x30

theorem stallCause_mod (s : State) (r : Rgn) : stallCause s r % 256 = stallCause s r := by
  unfold stallCause
  split <;> rfl

theorem doldrumsFire_stalled {s : State} {r : Rgn} (hp : r.part < 16) (hdue : doldrumsDue s r = true)
    (hrec : (getRegion s r).recorded = []) (hlen : (getRegion s r).faultq.length < 32) :
    Stalled (getRegion s r) (getRegion (doldrumsFire s r) r) (stallCause s r) := by
  unfold doldrumsFire
  rw [hdue, ← stallCause_mod]
  simp only [Bool.not_true, Bool.false_eq_true, if_false]
  generalize hu : vwriteLong s r.part _ _ _ _ = u
  have hr : getRegion u r = getRegion s r := hu ▸ getRegion_vwriteLong ..
  rw [← hr] at hrec hlen ⊢
  split
  · exact meetStop_stalled hp hrec hlen
  · exact meetStopRgn_stalled hp hrec hlen

/-! ### The stop broadcast and the cut -/

theorem stopBroadcast_due {s : State} {r : Rgn} (hstop : (getRegion s r).stopping = true) (hb : (getRegion s r).bcastClk = none)
    (hrun : running (getRegion s r) = true) :
    stopBroadcast s r = setRegion s r { getRegion s r with bcastClk := some s.clk, cutp := true } := by
  unfold stopBroadcast
  simp only [hstop, hb, hrun, Option.isNone_none, Bool.and_self, if_true]

theorem stopBroadcast_region {s : State} {r : Rgn} (hp : r.part < 16) (hstop : (getRegion s r).stopping = true) (hb : (getRegion s r).bcastClk = none)
    (hrun : running (getRegion s r) = true) :
    getRegion (stopBroadcast s r) r = { getRegion s r with bcastClk := some s.clk, cutp := true } ∧ Local s (stopBroadcast s r) r := by
  rw [stopBroadcast_due hstop hb hrun]
  exact ⟨getRegion_setRegion_same hp, setRegion_local ..⟩

/-- A region whose cut is complete, before what follows the cut is set. -/
def cutRegion (g : Region) (clk : Nat) : Region :=
  { g with cutp := false, stopping := false, bcastClk := none, idleBase := clk, resumeSt := g.st }

/-- A region whose frontier blocks are written. -/
def frontsWritten (g : Region) : Region := { g with nfront := g.nfront + g.fronts.length, fronts := [] }

theorem frontsWritten_none {g : Region} (h : g.fronts = []) : frontsWritten g = g := by
  cases g
  cases h
  rfl

theorem writeFronts_none {s : State} {r : Rgn} (h : (getRegion s r).fronts = []) : writeFronts s r = modRegion s r frontsWritten := by
  unfold writeFronts
  simp only [h, List.foldl_nil]
  rfl

theorem getRegion_writeFronts {s : State} {r : Rgn} (hp : r.part < 16) (h : (getRegion s r).fronts = []) :
    getRegion (writeFronts s r) r = getRegion s r := by
  rw [writeFronts_none h, getRegion_modRegion_same hp, frontsWritten_none h]

section
variable {s : State} {r : Rgn} (hp : r.part < 16) (hrun : running (getRegion s r) = true) (hcut : cutDone s r = true)
  (hf : (getRegion s r).fronts = [])
include hp hrun hcut hf

theorem cutComplete_stops (hj : ∀ area, (getRegion s r).job ≠ some (.evict area)) :
    cutComplete s r = enterState (writeFronts s r) r (cutRegion (getRegion s r) s.clk) 5 := by
  have hclk : (writeFronts s r).clk = s.clk := by rw [writeFronts_none hf]; exact modRegion_clk ..
  unfold cutComplete
  simp only [hrun, hcut, Bool.not_true, Bool.or_self, Bool.false_eq_true, if_false, getRegion_writeFronts hp hf, hclk]
  rfl

theorem cutComplete_saves {area : Nat} (hj : (getRegion s r).job = some (.evict area)) :
    cutComplete s r = setRegion (writeFronts s r) r { cutRegion (getRegion s r) s.clk with job := some (.save area) } := by
  have hclk : (writeFronts s r).clk = s.clk := by rw [writeFronts_none hf]; exact modRegion_clk ..
  unfold cutComplete
  simp only [hrun, hcut, Bool.not_true, Bool.or_self, Bool.false_eq_true, if_false, getRegion_writeFronts hp hf, hclk, hj]
  rfl

end

end Sys2Proof.Machine
end

section
/-! SUPPORT. The LEAK records of a pour's end (spec/10: R270; spec/14: R337). -/

namespace Sys2Proof.Machine

/-! ### Records that are queued -/

theorem queueRec_perm (x : Nat) (l : List Nat) : (queueRec x l).Perm (x :: l) := by
  induction l with
  | nil => exact .refl _
  | cons y l ih =>
    unfold queueRec
    split
    · exact .refl _
    · exact (ih.cons y).trans (.swap x y l)

/-- Where the queue has room, the records of a list all stand in it, with those that it held. -/
theorem putRecs_queue {r : Rgn} (hp : r.part < 16) (fs : List FRec) (s : State)
    (hlen : (getRegion s r).faultq.length + fs.length ≤ 32) :
    (getRegion (putRecs s r fs) r).faultq.Perm (fs.map (recordBits s (getRegion s r)) ++ (getRegion s r).faultq) := by
  induction fs generalizing s with
  | nil => exact .refl _
  | cons f fs ih =>
    rw [List.length_cons] at hlen
    obtain ⟨q, n, hg, hq⟩ := putRec_region (s := s) hp f
    have hq := hq (by omega)
    have hclk : (putRec s r f).clk = s.clk := putRec_clk ..
    have hbits : recordBits (putRec s r f) (getRegion (putRec s r f) r) = recordBits s (getRegion s r) := by
      funext x
      exact recordBits_congr hclk (by rw [hg]) (by rw [hg]) (by rw [hg]) x
    have hfq : (getRegion (putRec s r f) r).faultq = queueRec (recordBits s (getRegion s r) f) (getRegion s r).faultq := by
      rw [hg, ← hq]
    have ih := ih (putRec s r f) (by rw [hfq, queueRec_length]; omega)
    rw [hbits, hfq] at ih
    exact (ih.trans ((queueRec_perm _ _).append_left _)).trans List.perm_middle

theorem atElem_postRegion (s : State) (p h : Nat) (l : Loc) (x : FRec) : atElem (postRegion s p h) l x = atElem s l x := rfl

/-- A record changes neither an element nor its place. -/
theorem atElem_putRec {s : State} {l : Loc} (hp : l.part < 16) (f x : FRec) : atElem (putRec s (rgnOf l) f) l x = atElem s l x := by
  have hset (g : Region) (he : g.elems = (getRegion s (rgnOf l)).elems) (hl : g.place = (getRegion s (rgnOf l)).place) :
      atElem (setRegion s (rgnOf l) g) l x = atElem s l x := atElem_modRegion hp (fun _ => g) x he hl
  unfold putRec
  dsimp only
  split
  · exact (atElem_postRegion ..).trans (hset _ rfl rfl)
  · split
    · exact hset _ rfl rfl
    · exact (atElem_postRegion ..).trans (hset _ rfl rfl)

theorem atElem_putRecs {l : Loc} (hp : l.part < 16) (fs : List FRec) (s : State) (x : FRec) :
    atElem (putRecs s (rgnOf l) fs) l x = atElem s l x := by
  induction fs generalizing s with
  | nil => rfl
  | cons f fs ih => exact (ih _).trans (atElem_putRec hp f x)

/-! ### The LEAK records (R270) -/

theorem insertBy_perm (k : Nat → Nat) (n : Nat) (l : List Nat) : (insertBy k n l).Perm (n :: l) := by
  induction l with
  | nil => exact .refl _
  | cons m l ih =>
    unfold insertBy
    split
    · exact .refl _
    · exact (ih.cons m).trans (.swap n m l)

/-- The order of reports names each element once. -/
theorem reportOrder_perm (s : State) (r : Rgn) : (reportOrder s r).Perm (List.range (getRegion s r).elems.length) := by
  unfold reportOrder
  generalize List.range (getRegion s r).elems.length = l
  have h (acc : List Nat) : (l.foldl (fun acc n => insertBy (fun m => reportKey s ⟨r.part, r.handle, m⟩) n acc) acc).Perm (l ++ acc) := by
    induction l generalizing acc with
    | nil => exact .refl _
    | cons n l ih => exact (ih _).trans (((insertBy_perm _ n acc).append_left l).trans List.perm_middle)
  simpa using h []

/-- Data that is left at a place when a pour ends: at an element, or queued by `inj` for a lane group. -/
def leftAt (s : State) (g : Region) (p : Option Nat) : List Resid := (resids s g).filter fun x => x.at_ == p && x.toks != 0

/-- The LEAK record of a place, of the first of what is left there. -/
def leakOf (s : State) (r : Rgn) (p : Option Nat) (o : Resid) : FRec :=
  let f : FRec := { cause := 0x60, tag := o.tag, slot := o.slot, addr := ((leftAt s (getRegion s r) p).map fun y => y.toks).sum }
  match p with
  | some n => atElem s ⟨r.part, r.handle, n⟩ f
  | none => { f with slot := 0, ekind := 3 }

/-- The LEAK record of a place where something is left. -/
def leakAt (s : State) (r : Rgn) (p : Option Nat) : Option FRec :=
  (firstResid (residKey (getRegion s r)) (leftAt s (getRegion s r) p)).map (leakOf s r p)

theorem leakRec_at (s : State) (g : Region) (p : Option Nat) : leakRec g ((resids s g).filter fun x => x.at_ == p) =
    (firstResid (residKey g) (leftAt s g p)).map fun x =>
      { cause := 0x60, tag := x.tag, slot := x.slot, addr := ((leftAt s g p).map fun y => y.toks).sum } := by
  have h : ((resids s g).filter fun x => x.at_ == p).filter (fun x => x.toks != 0) = leftAt s g p := by
    rw [List.filter_filter]
    exact List.filter_congr fun x _ => Bool.and_comm _ _
  unfold leakRec
  rw [h]

theorem firstResid_isSome (k : Resid → Nat) (l : List Resid) : (firstResid k l).isSome = (l != []) := by
  cases l with
  | nil => rfl
  | cons x l =>
    unfold firstResid
    split
    · split <;> rfl
    · rfl

theorem leakAt_isSome (s : State) (r : Rgn) (p : Option Nat) : (leakAt s r p).isSome = (leftAt s (getRegion s r) p != []) := by
  unfold leakAt
  rw [Option.isSome_map, firstResid_isSome]

/-- The places of the LEAK records in the order of reports. -/
def leakPlaces (s : State) (r : Rgn) : List (Option Nat) := (reportOrder s r).map some ++ [none]

theorem putRecs_append (s : State) (r : Rgn) (xs ys : List FRec) : putRecs s r (xs ++ ys) = putRecs (putRecs s r xs) r ys := List.foldl_append

/-- Steps that each write a record or none write the records together. -/
theorem foldl_putRecs {β : Type} {s u : State} {r : Rgn} {f : State → β → State} {rec_ : β → Option FRec}
    (h : ∀ xs b, f (putRecs s r xs) b = putRecs s r (xs ++ (rec_ b).toList)) (l : List β) (xs : List FRec) (hu : u = putRecs s r xs) :
    l.foldl f u = putRecs s r (xs ++ l.filterMap rec_) := by
  induction l generalizing xs u with
  | nil => rw [hu]; exact congrArg (putRecs s r) (List.append_nil xs).symm
  | cons b l ih =>
    refine (ih (xs ++ (rec_ b).toList) (by rw [hu, h])).trans ?_
    rw [List.append_assoc]
    cases hb : rec_ b <;> simp [hb]

/-- The LEAK records of a pour's end are those of its places in order. -/
theorem leakRecs_eq {s : State} {r : Rgn} (hp : r.part < 16) : leakRecs s r = putRecs s r ((leakPlaces s r).filterMap (leakAt s r)) := by
  unfold leakRecs
  dsimp only
  rw [foldl_putRecs (s := s) (u := s) (r := r) (rec_ := fun n => leakAt s r (some n)) ?_ (reportOrder s r) [] rfl]
  · have hlast : [none].filterMap (leakAt s r) = (leakAt s r none).toList := by cases h : leakAt s r none <;> simp [h]
    rw [List.nil_append, leakRec_at, leakPlaces, List.filterMap_append, List.filterMap_map, putRecs_append, hlast, leakAt]
    cases firstResid (residKey (getRegion s r)) (leftAt s (getRegion s r) none) <;> rfl
  · intro xs n
    rw [leakRec_at, putRecs_append]
    unfold leakAt
    cases firstResid (residKey (getRegion s r)) (leftAt s (getRegion s r) (some n)) with
    | none => rfl
    | some o => exact congrArg (putRec (putRecs s r xs) r) (atElem_putRecs (l := ⟨r.part, r.handle, n⟩) hp xs s _)

/-- The places that the statement of R270 lists: each element, and none. -/
def places (g : Region) : List (Option Nat) := (List.range g.elems.length).map some ++ [none]

theorem leakPlaces_perm (s : State) (r : Rgn) : (leakPlaces s r).Perm (places (getRegion s r)) :=
  ((reportOrder_perm s r).map some).append_right [none]

theorem leaks_length (s : State) (r : Rgn) : ((leakPlaces s r).filterMap (leakAt s r)).length =
    ((places (getRegion s r)).filter fun p => leftAt s (getRegion s r) p != []).length := by
  rw [((leakPlaces_perm s r).filterMap _).length_eq, List.length_filterMap_eq_countP, List.countP_eq_length_filter]
  exact congrArg List.length (List.filter_congr fun p _ => leakAt_isSome s r p)

theorem leakRecs_region {s : State} {r : Rgn} (hp : r.part < 16) : ∃ q n,
    getRegion (leakRecs s r) r = { getRegion s r with faultq := q, fltlost := n } := by
  rw [leakRecs_eq hp]
  exact putRecs_region hp _

/-- With room in the queue, a LEAK record of each place where something is left stands in it. -/
theorem leakRecs_queue {s : State} {r : Rgn} (hp : r.part < 16)
    (hlen : (getRegion s r).faultq.length + (places (getRegion s r)).length ≤ 32) :
    let q := (getRegion (leakRecs s r) r).faultq
    q.length = (getRegion s r).faultq.length + ((places (getRegion s r)).filter fun p => leftAt s (getRegion s r) p != []).length ∧
      (∀ x ∈ (getRegion s r).faultq, x ∈ q) ∧
      ∀ p ∈ places (getRegion s r), ∀ o, firstResid (residKey (getRegion s r)) (leftAt s (getRegion s r) p) = some o →
        recordBits s (getRegion s r) (leakOf s r p o) ∈ q := by
  intro q
  have hroom : (getRegion s r).faultq.length + ((leakPlaces s r).filterMap (leakAt s r)).length ≤ 32 := by
    rw [leaks_length]
    exact (Nat.add_le_add_left (List.length_filter_le _ _) _).trans hlen
  have hq : q.Perm _ := (show q = _ from congrArg (fun t => (getRegion t r).faultq) (leakRecs_eq hp)) ▸ putRecs_queue hp _ s hroom
  refine ⟨?_, fun x hx => hq.mem_iff.2 (List.mem_append_right _ hx), fun p hpl o ho => ?_⟩
  · rw [hq.length_eq, List.length_append, List.length_map, leaks_length, Nat.add_comm]
  · refine hq.mem_iff.2 (List.mem_append_left _ (List.mem_map_of_mem ?_))
    exact List.mem_filterMap.2 ⟨p, (leakPlaces_perm s r).mem_iff.2 hpl, by rw [leakAt, ho]; rfl⟩

end Sys2Proof.Machine
end

section
/-! SUPPORT. The end of a pour and the start of the next (spec/10: R270; spec/12: R301, R303; spec/18: R367; spec/19: R370). -/

namespace Sys2Proof.Machine

/-! ### A translation does not depend on the regions -/

/-- A state with other partitions, cores, names and focus. -/
def withRegions (s : State) (ps : Vector Part 16) (cs : Vector Core 32) (ids : Nat) (f : Option Focus) : State :=
  { s with parts := ps, cores := cs, ids := ids, focus := f }

section
variable (s : State) (ps : Vector Part 16) (cs : Vector Core 32) (ids : Nat) (f : Option Focus)

theorem walkFrom_withRegions (p va n lv tbl : Nat) (met : List WalkEnt) :
    walkFrom (withRegions s ps cs ids f) p va n lv tbl met = walkFrom s p va n lv tbl met := by
  have howns : ownsHbm (withRegions s ps cs ids f) = ownsHbm s := rfl
  have hbad : lineBad (withRegions s ps cs ids f) = lineBad s := rfl
  have hread : physRead (withRegions s ps cs ids f) = physRead s := rfl
  have hfresh : (withRegions s ps cs ids f).fresh = s.fresh := rfl
  have hplace : entryPlace (withRegions s ps cs ids f) = entryPlace s := by
    funext lv pa
    unfold entryPlace
    rw [hread, hfresh]
  have hentry : readEntry (withRegions s ps cs ids f) = readEntry s := by
    funext p lv e
    unfold readEntry
    rw [howns]
  induction n generalizing lv tbl met with
  | zero => rfl
  | succ n ih =>
    unfold walkFrom
    simp only [ih, howns, hbad, hplace, hread, hentry]

theorem xlat_withRegions {p : Nat} (hb : (getPart (withRegions s ps cs ids f) p).ptbase = (getPart s p).ptbase) (nd : Need) (va : Nat) :
    xlat (withRegions s ps cs ids f) p nd va = xlat s p nd va := by
  have hw : walkOn (withRegions s ps cs ids f) [] p va = walkOn s [] p va := by
    unfold walkOn
    rw [hb]
    simp only [walkFrom_withRegions]
  have hc : checkLeaf (withRegions s ps cs ids f) p nd = checkLeaf s p nd := rfl
  unfold xlat translate
  rw [hw, hc]

end

theorem putRecs_withRegions (r : Rgn) (xs : List FRec) (s : State) : ∃ ps cs ids f, putRecs s r xs = withRegions s ps cs ids f := by
  induction xs generalizing s with
  | nil => exact ⟨s.parts, s.cores, s.ids, s.focus, rfl⟩
  | cons x xs ih =>
    obtain ⟨ps, cs, ids, f, h⟩ := ih (putRec s r x)
    exact ⟨ps, cs, ids, f, h.trans (by rw [putRec_rest]; rfl)⟩

theorem putRec_ptbase (s : State) (r : Rgn) (x : FRec) : (getPart (putRec s r x) r.part).ptbase = (getPart s r.part).ptbase := by
  have hset (g : Region) : (getPart (setRegion s r g) r.part).ptbase = (getPart s r.part).ptbase := by rw [(setRegion_only s r g).own]
  unfold putRec
  dsimp only
  split
  · exact hset _
  · split <;> exact hset _

theorem putRecs_ptbase (r : Rgn) (xs : List FRec) (s : State) : (getPart (putRecs s r xs) r.part).ptbase = (getPart s r.part).ptbase := by
  induction xs generalizing s with
  | nil => rfl
  | cons x xs ih => exact (ih _).trans (putRec_ptbase s r x)

/-- A write by the hardware where no line is in error. -/
theorem vwriteD_good {s : State} {p va n v pa st off : Nat} (hb : s.badLines = []) (hs : s.softLines = [])
    (hx : xlatW s p va = .ok pa) (ht : target pa = .hbm st off) : (vwriteD s p va n v).hbm = writeBytes s.hbm pa n v := by
  have hw : logWrite s p 0 pa n = s := by simp [logWrite, lineBad, hb]
  unfold vwriteD vwrite
  simp only [hx, logWalk_good hb hs, hw]
  exact physWrite_hbm_bytes none ht

/-! ### What a pour leaves at its end -/

/-- With no firing under way there is none to commit. -/
theorem commitPour_idle {s : State} {r : Rgn} (h : ∀ e ∈ (getRegion s r).elems, e.pending = []) : commitPour s r = s := by
  refine foldl_unchanged _ fun k hk => ?_
  have hlt : k < (getRegion s r).elems.length := List.mem_range.1 hk
  have he : (getElem s ⟨r.part, r.handle, k⟩).pending = [] := by
    refine h _ ?_
    show nth (getRegion s r).elems k {} ∈ _
    unfold nth
    rw [List.getD_eq_getElem _ _ hlt]
    exact List.getElem_mem hlt
  dsimp only
  rw [he]
  rfl

/-- The state at a pour's end before its region is cleared: what was issued has committed, LEAK records and digest are written. -/
def pourLeft (s : State) (r : Rgn) : State :=
  let g := getRegion s r
  clearFar (vwriteD (leakRecs (commitPour s r) r) r.part (workArea g + 0x4000 + 32 * g.pour) 32 (pourDigest g)) g

theorem getRegion_pourLeft (s : State) (r : Rgn) : getRegion (pourLeft s r) r = getRegion (leakRecs (commitPour s r) r) r :=
  getRegion_vwriteD ..

/-- The launch is over: the region is DONE. -/
def launchOver (s : State) (r : Rgn) (g : Region) : State :=
  postRegion (endLaunch (setRegion s r { g with st := 4, shrp := false, rdrain := none }) r g.launch 1) r.part r.handle

theorem pourEnd_eq {s : State} {r : Rgn} (h : pourOver (getRegion s r) = true) :
    pourEnd s r =
      let g := clearPour (getRegion (pourLeft s r) r)
      if g.pour + 1 < g.img.npour then setRegion (pourLeft s r) r { g with between := true } else launchOver (pourLeft s r) r g := by
  unfold pourEnd
  dsimp only
  rw [h]
  rfl

theorem pourLeft_same {s : State} {r : Rgn} (hp : r.part < 16) : SamePour (getRegion s r) (getRegion (pourLeft s r) r) := by
  obtain ⟨q, n, h⟩ := leakRecs_region (s := commitPour s r) hp
  rw [getRegion_pourLeft, h]
  exact (samePour_commitPour hp s).trans ⟨rfl, rfl, rfl⟩

theorem getRegion_launchOver {s : State} {r : Rgn} (hp : r.part < 16) (g : Region) :
    getRegion (launchOver s r g) r = { g with st := 4, shrp := false, rdrain := none } := by
  unfold launchOver
  rw [getRegion_postRegion]
  refine (getRegion_modPart _ _ _ (fun x => ?_) _).trans (getRegion_setRegion_same hp)
  split <;> [rfl; (split <;> rfl)]

theorem launchOver_hbm (s : State) (r : Rgn) (g : Region) : (launchOver s r g).hbm = s.hbm := (modPart_hbm ..).trans (setRegion_hbm ..)

theorem launchOver_posted (s : State) (r : Rgn) (g : Region) : Posted (launchOver s r g) (launchOver s r g) r :=
  (postRegion_posted (endLaunch (setRegion s r { g with st := 4, shrp := false, rdrain := none }) r g.launch 1) r).of_cores rfl rfl

section
variable {s : State} {r : Rgn} (hp : r.part < 16) (h : pourOver (getRegion s r) = true)
include hp h

theorem pourEnd_more (hn : (getRegion s r).pour + 1 < (getRegion s r).img.npour) :
    pourEnd s r = setRegion (pourLeft s r) r { clearPour (getRegion (pourLeft s r) r) with between := true } := by
  obtain ⟨hpour, himg, -⟩ := pourLeft_same (s := s) hp
  rw [pourEnd_eq h]
  exact if_pos (show (getRegion (pourLeft s r) r).pour + 1 < (getRegion (pourLeft s r) r).img.npour by rw [hpour, himg]; exact hn)

theorem pourEnd_last (hn : (getRegion s r).img.npour ≤ (getRegion s r).pour + 1) :
    pourEnd s r = launchOver (pourLeft s r) r (clearPour (getRegion (pourLeft s r) r)) := by
  obtain ⟨hpour, himg, -⟩ := pourLeft_same (s := s) hp
  rw [pourEnd_eq h]
  exact if_neg (show ¬(getRegion (pourLeft s r) r).pour + 1 < (getRegion (pourLeft s r) r).img.npour by rw [hpour, himg]; omega)

/-- A pour's end clears its region, and leaves memory as its digest left it. -/
theorem pourEnd_clears : (∃ b st sh rd, getRegion (pourEnd s r) r =
      { clearPour (getRegion (pourLeft s r) r) with between := b, st := st, shrp := sh, rdrain := rd }) ∧
    (pourEnd s r).hbm = (pourLeft s r).hbm := by
  by_cases hn : (getRegion s r).pour + 1 < (getRegion s r).img.npour
  · rw [pourEnd_more hp h hn]
    exact ⟨⟨_, _, _, _, getRegion_setRegion_same hp⟩, setRegion_hbm ..⟩
  · rw [pourEnd_last hp h (Nat.not_lt.1 hn)]
    exact ⟨⟨_, _, _, _, getRegion_launchOver hp _⟩, launchOver_hbm ..⟩

end

/-- The digest of a pour in memory (R301, R303). -/
theorem pourLeft_hbm {s : State} {r : Rgn} {pa st off : Nat} (hp : r.part < 16) (hidle : ∀ e ∈ (getRegion s r).elems, e.pending = [])
    (hb : s.badLines = []) (hs : s.softLines = [])
    (hx : xlatW s r.part (workArea (getRegion s r) + 0x4000 + 32 * (getRegion s r).pour) = .ok pa) (ht : target pa = .hbm st off) :
    (pourLeft s r).hbm = writeBytes s.hbm pa 32 (pourDigest (getRegion s r)) := by
  have hbase := putRecs_ptbase r ((leakPlaces s r).filterMap (leakAt s r)) s
  obtain ⟨ps, cs, ids, f, hrecs⟩ := putRecs_withRegions r ((leakPlaces s r).filterMap (leakAt s r)) s
  rw [hrecs] at hbase
  unfold pourLeft
  rw [commitPour_idle hidle, leakRecs_eq hp, hrecs]
  exact vwriteD_good (s := withRegions s ps cs ids f) hb hs ((xlat_withRegions s ps cs ids f hbase _ _).trans hx) ht

section
variable {s : State} {r : Rgn} (hp : r.part < 16) (h : pourOver (getRegion s r) = true)
include hp h

/-- A pour's end where no firing is under way: the region's flags, and its queue as the LEAK records left it. -/
theorem pourEnd_idle (hidle : ∀ e ∈ (getRegion s r).elems, e.pending = []) :
    (getRegion (pourEnd s r) r).rflags = (getRegion s r).elems.foldl (fun f e => f ||| e.flags) (getRegion s r).rflags ∧
      (getRegion (pourEnd s r) r).faultq = (getRegion (leakRecs s r) r).faultq := by
  obtain ⟨⟨b, st, sh, rd, hg⟩, -⟩ := pourEnd_clears hp h
  have hleft : getRegion (pourLeft s r) r = getRegion (leakRecs s r) r := by rw [getRegion_pourLeft, commitPour_idle hidle]
  obtain ⟨q, n, hl⟩ := leakRecs_region (s := s) hp
  rw [hg, hleft, hl]
  exact ⟨rfl, rfl⟩

/-- Everything of the pour is discarded (R270). -/
theorem pourEnd_empty :
    (∀ e ∈ (getRegion (pourEnd s r) r).elems,
      e.sets = [] ∧ e.heads = [] ∧ e.pending = [] ∧ e.inject = [] ∧ e.port.accs = [] ∧ e.flags = 0) ∧
    (∀ c ∈ (getRegion (pourEnd s r) r).chans, c.flights = [] ∧ c.arrived = [] ∧ c.acks = [] ∧ c.outstanding = 0 ∧ c.reserved = 0) ∧
    (getRegion (pourEnd s r) r).pour = (getRegion s r).pour := by
  obtain ⟨⟨b, st, sh, rd, hg⟩, -⟩ := pourEnd_clears hp h
  rw [hg]
  refine ⟨fun e he => ?_, fun c hc => ?_, (pourLeft_same hp).pour⟩
  · obtain ⟨e', -, rfl⟩ := List.mem_map.1 he
    exact ⟨rfl, rfl, rfl, rfl, rfl, rfl⟩
  · obtain ⟨c', -, rfl⟩ := List.mem_map.1 hc
    exact ⟨rfl, rfl, rfl, rfl, rfl⟩

end

/-! ### The start of the next pour -/

/-- A region configured with its next pour at the footprint that it has (R367). -/
def nextPour (g : Region) : Region := configure { g with pour := g.pour + 1 } (liveBuffers g (g.pour + 1))

/-- The `inj` channels of a region. -/
def injChans (g : Region) : List Nat := (g.chans.filter fun c => c.src == .inj).map fun c => c.num

/-- A region as its next pour starts (R367, R370). -/
def poured (g : Region) (clk : Nat) : Region :=
  { nextPour g with idleBase := clk, shadow := none, eosInj := if (nextPour g).st = 3 then injChans (nextPour g) else [] }

section
variable {s : State} {r : Rgn}

theorem pourStart_away (h : wheelIndex s (firstDie (getRegion s r).place) ≠ 0) : execEvPourStart r s = .next s := by
  have hw : (wheelIndex s (firstDie (getRegion s r).place) == 0) = false := beq_false_of_ne h
  unfold execEvPourStart
  simp only [hw, Bool.and_false, Bool.false_eq_true, if_false]

variable (hb : (getRegion s r).between = true) (hst : (getRegion s r).st = 2 ∨ (getRegion s r).st = 3)
  (hw : wheelIndex s (firstDie (getRegion s r).place) = 0)
include hb hst hw

/-- Where the wheels stand at index 0, the first pour of a launch starts, or the boundary to the next is passed. -/
theorem pourStart_due : execEvPourStart r s = .next (if (getRegion s r).starting then startFirst s r else boundary s r) := by
  have hrun : ((getRegion s r).st == 2 || (getRegion s r).st == 3) = true := by
    rcases hst with h | h <;> rw [h] <;> rfl
  unfold execEvPourStart
  simp only [hb, hrun, hw, Bool.and_self, beq_self_eq_true, if_true]

theorem pourStart_first (hs : (getRegion s r).starting = true) : execEvPourStart r s = .next (startFirst s r) := by
  rw [pourStart_due hb hst hw, if_pos hs]

theorem pourStart_next (hs : (getRegion s r).starting = false) (hshrp : (getRegion s r).shrp = false) :
    execEvPourStart r s = .next (if pourWaits s r then s else setRegion s r (poured (getRegion s r) s.clk)) := by
  rw [pourStart_due hb hst hw, if_neg (by rw [hs]; decide)]
  unfold boundary
  simp only [hshrp, Bool.not_false, if_true]
  rfl

end

section
variable (g : Region) (clk : Nat)

theorem poured_elems_length : (poured g clk).elems.length = (allElems g.img (curVariant (poured g clk))).length := by
  rw [show curVariant (poured g clk) = curVariant { g with pour := g.pour + 1 } from rfl]
  exact List.length_map ..

/-- Every element of a pour starts empty (R367). -/
theorem poured_elems_fresh : ∀ e ∈ (poured g clk).elems, e.sets = [] ∧ e.pending = [] ∧ e.banks = ({} : Elem).banks := by
  intro e he
  obtain ⟨q, -, rfl⟩ := List.mem_map.1 he
  exact ⟨rfl, rfl, rfl⟩

theorem poured_chans : (poured g clk).chans = (nextPour g).chans := by
  simp only [poured]

theorem poured_eosInj : (poured g clk).eosInj = if (nextPour g).st = 3 then injChans (nextPour g) else [] := rfl

theorem nextPour_st : (nextPour g).st = g.st := rfl

variable {g}

/-- A pour that starts in DRAINING queues an EOS for each `inj` channel (R370). -/
theorem poured_draining (h : g.st = 3) : ∀ c ∈ (poured g clk).chans, c.src = .inj → c.num ∈ (poured g clk).eosInj := by
  intro c hc hsrc
  rw [poured_chans] at hc
  rw [poured_eosInj, if_pos ((nextPour_st g).trans h)]
  exact List.mem_map_of_mem (List.mem_filter.2 ⟨hc, beq_iff_eq.2 hsrc⟩)

theorem poured_running (h : g.st = 2) : (poured g clk).eosInj = [] := by
  rw [poured_eosInj, if_neg (by rw [nextPour_st, h]; decide)]

end

end Sys2Proof.Machine

open Sys2Proof Sys2Proof.Machine

/-- Settles O49, event by event: broadcast, cut, Doldrums, the end of a pour and the start of the next. -/
theorem pourEvents : Obligations.PourEvents := by
  intro s r hp g
  refine ⟨fun hstop hb hrun => ?_, fun hrun hcut hf => ⟨fun hj => ?_, fun area hj => ?_⟩, fun hdue hrec hlen => ?_, fun hover => ?_,
    fun hb hs hst hw => ?_, fun hw => ?_, fun hb hs hst hw hshrp => ⟨fun hwait => ?_, fun hgo => ?_⟩⟩
  · exact ⟨_, rfl, stopBroadcast_region hp hstop hb hrun⟩
  · refine ⟨_, rfl, ?_⟩
    rw [cutComplete_stops hp hrun hcut hf hj]
    have hfronts : Local s (writeFronts s r) r := by
      rw [writeFronts_none hf]
      exact modRegion_local ..
    exact ⟨getRegion_enterState hp _ _, (enterState_posted _ _ _ _).of_cores (by exact setRegion_pmap ..) rfl,
      hfronts.trans (enterState_local ..)⟩
  · refine ⟨_, rfl, ?_⟩
    rw [cutComplete_saves hp hrun hcut hf hj]
    dsimp only
    rw [getRegion_setRegion_same hp]
    exact ⟨rfl, rfl, rfl⟩
  · exact ⟨_, rfl, doldrumsFire_stalled hp hdue hrec hlen⟩
  · obtain ⟨helems, hchans, hpour⟩ := pourEnd_empty hp hover
    refine ⟨_, rfl, helems, hchans, hpour, fun hidle => (pourEnd_idle hp hover hidle).1, fun hidle hlen => ?_,
      fun pa st off hidle hbad hsoft hwf hx ht => ?_, fun hn => ?_, fun hn => ?_⟩
    · rw [(pourEnd_idle hp hover hidle).2]
      exact leakRecs_queue hp hlen
    · have hmem := (pourEnd_clears hp hover).2.trans (pourLeft_hbm hp hidle hbad hsoft hx ht)
      refine ⟨hmem, fun hseq => ?_⟩
      rw [hmem, readBytes_writeBytes hwf, pourDigest, hseq]
      rfl
    · rw [pourEnd_more hp hover hn, getRegion_setRegion_same hp]
      exact ⟨rfl, (pourLeft_same hp).st⟩
    · rw [pourEnd_last hp hover hn, getRegion_launchOver hp]
      exact ⟨rfl, rfl, launchOver_posted _ _ _⟩
  · refine ⟨_, pourStart_first hb hst hw hs, getRegion_modRegion_same hp, modRegion_local ..⟩
  · exact ⟨_, pourStart_away hw, rfl⟩
  · exact ⟨_, pourStart_next hb hst hw hs hshrp, if_pos hwait⟩
  · refine ⟨_, pourStart_next hb hst hw hs hshrp, ?_⟩
    rw [if_neg (by rw [hgo]; decide)]
    dsimp only
    rw [getRegion_setRegion_same hp]
    exact ⟨rfl, rfl, rfl, rfl, rfl, rfl, rfl, rfl, poured_elems_length g s.clk, poured_elems_fresh g s.clk, poured_draining s.clk,
      poured_running s.clk, setRegion_local ..⟩

end

section
/-! SUPPORT. The home of a body: `itdone` counts, advances and frees (spec/04: R94, R101, R104; spec/10: R254, R255). -/

namespace Sys2Proof.Machine

/-! ### Lists -/

theorem modNth_modNth {α : Type} (l : List α) (n : Nat) (f g : α → α) : modNth (modNth l n f) n g = modNth l n fun x => g (f x) := by
  induction l generalizing n with
  | nil => rfl
  | cons x xs ih => cases n with
    | zero => rfl
    | succ n => exact congrArg (x :: ·) (ih n)

/-- An element may be replaced by what a function makes of the old one. -/
theorem modNth_replace {α : Type} (l : List α) (n : Nat) (f : α → α) (d : α) : (modNth l n fun _ => f (nth l n d)) = modNth l n f := by
  induction l generalizing n with
  | nil => rfl
  | cons x xs ih => cases n with
    | zero => rfl
    | succ n => exact congrArg (x :: ·) (ih n)

/-! ### One live copy -/

/-- A live copy of a body with one more count of iteration k. -/
def Inst.count (k : Nat) (i : Inst) : Inst := { i with counts := modNth i.counts k (· + 1) }

/-- A live copy of a body that has advanced past its oldest live iteration, in place k of the window. -/
def Inst.advance (k : Nat) (i : Inst) : Inst :=
  { i with oldest := (i.oldest + 1) % 2 ^ 16, counts := modNth i.counts k fun _ => 0 }

theorem Inst.count_same {k : Nat} {i : Inst} (h : k < i.counts.length) : nth (i.count k).counts k 0 = nth i.counts k 0 + 1 :=
  nth_modNth_same _ _ _ _ h

theorem Inst.count_ne {k j : Nat} (i : Inst) (h : k ≠ j) : nth (i.count k).counts j 0 = nth i.counts j 0 := nth_modNth_ne _ _ _ _ _ h

section
variable {g : Region} {d : Body} {i : Inst}

theorem retireInst_stays (h : nth i.counts (i.oldest % bodyW d) 0 ≠ d.c) (fuel : Nat) : retireInst g d fuel i = i := by
  cases fuel with
  | zero => rfl
  | succ fuel => exact if_neg (by simp [h])

/-- A live copy advances by one where its oldest iteration has its counts and the next one has not. -/
theorem retireInst_one (hk : nth i.counts (i.oldest % bodyW d) 0 = d.c) (hp : polSeq g = false) (hw : 1 < bodyW d)
    (hn : nth (i.advance (i.oldest % bodyW d)).counts ((i.oldest + 1) % 2 ^ 16 % bodyW d) 0 ≠ d.c) :
    retireInst g d (bodyW d) i = i.advance (i.oldest % bodyW d) := by
  obtain ⟨fuel, hf⟩ : ∃ fuel, bodyW d = fuel + 1 := ⟨bodyW d - 1, by omega⟩
  have hpass : passedBelow g i.oldest = true := by unfold passedBelow; rw [hp]; rfl
  have hstep : retireInst g d (fuel + 1) i = retireInst g d fuel (i.advance (i.oldest % bodyW d)) :=
    if_pos (by simp [hk, hpass])
  exact (congrArg (retireInst g d · i) hf).trans (hstep.trans (retireInst_stays hn fuel))

end

/-! ### The bodies of a region -/

/-- The change of a body's state, among those of its region. -/
def atBody (b : Nat) (f : BodySt → BodySt) (bs : List BodySt) : List BodySt := bs.map fun x => if x.desc.num = b then f x else x

/-- The state of a body. -/
def bodySt (g : Region) (b : Nat) : Option BodySt := g.bodies.find? fun (x : BodySt) => x.desc.num == b

theorem find_atBody {b : Nat} {f : BodySt → BodySt} (hf : ∀ y, (f y).desc = y.desc) {bs : List BodySt} {x : BodySt}
    (h : (bs.find? fun (y : BodySt) => y.desc.num == b) = some x) :
    ((atBody b f bs).find? fun (y : BodySt) => y.desc.num == b) = some (f x) := by
  induction bs with
  | nil => cases h
  | cons y ys ih =>
    by_cases hy : y.desc.num = b
    · have hx : y = x := by simpa [hy] using h
      subst hx
      simp [atBody, hf, hy]
    · have h' := ih (by simpa [hy] using h)
      simpa [atBody, hy] using h'

section
variable {s : State} {r : Rgn} (hp : r.part < 16)
include hp

theorem getRegion_modBody (b : Nat) (f : BodySt → BodySt) :
    getRegion (modBody s r b f) r = { getRegion s r with bodies := atBody b f (getRegion s r).bodies } := getRegion_modRegion_same hp

theorem bodySt_modBody {b : Nat} {f : BodySt → BodySt} (hf : ∀ y, (f y).desc = y.desc) {x : BodySt} (h : bodySt (getRegion s r) b = some x) :
    bodySt (getRegion (modBody s r b f) r) b = some (f x) := by
  rw [getRegion_modBody hp]
  exact find_atBody hf h

end

/-! ### Retirement (R104) -/

/-- The state of a body with one of its instances changed. -/
def BodySt.atInst (n : Nat) (f : Inst → Inst) (x : BodySt) : BodySt := { x with insts := modNth x.insts n f }

section
variable {s : State} {r : Rgn} {b n : Nat} {x : BodySt} (hx : bodySt (getRegion s r) b = some x) {i : Inst} (hi : nth x.insts n {} = i)
include hx hi

theorem retire_eq {j : Inst} (hj : retireInst (getRegion s r) x.desc (bodyW x.desc) i = j) : retire s r b n =
    if j.oldest = i.oldest then s else sendAdvance (modBody s r b (BodySt.atInst n fun _ => j)) r b n j.oldest := by
  subst hi hj
  unfold bodySt at hx
  unfold retire
  dsimp only
  rw [hx]
  rfl

theorem retire_stays (h : nth i.counts (i.oldest % bodyW x.desc) 0 ≠ x.desc.c) : retire s r b n = s := by
  rw [retire_eq hx hi (retireInst_stays h _)]
  exact if_pos rfl

/-- A live copy whose oldest iteration alone is complete advances by one, and every element hears of it. -/
theorem retire_one (hk : nth i.counts (i.oldest % bodyW x.desc) 0 = x.desc.c) (hpol : polSeq (getRegion s r) = false)
    (hw : 1 < bodyW x.desc)
    (hn : nth (i.advance (i.oldest % bodyW x.desc)).counts ((i.oldest + 1) % 2 ^ 16 % bodyW x.desc) 0 ≠ x.desc.c) :
    retire s r b n =
      sendAdvance (modBody s r b (BodySt.atInst n fun _ => i.advance (i.oldest % bodyW x.desc))) r b n ((i.oldest + 1) % 2 ^ 16) := by
  have hne : (i.oldest + 1) % 2 ^ 16 ≠ i.oldest := by omega
  rw [retire_eq hx hi (retireInst_one hk hpol hw hn)]
  exact if_neg hne

end

/-- A count and the advance that it brings about, taken together. -/
theorem atInst_counted_advanced {x : BodySt} {j k : Nat} {i : Inst} (hi : nth x.insts j {} = i) :
    (x.atInst j (Inst.count k)).atInst j (fun _ => (i.count k).advance k) = x.atInst j (Inst.advance k) := by
  subst hi
  have hadv (i : Inst) : (i.count k).advance k = i.advance k := by
    unfold Inst.advance Inst.count
    rw [modNth_modNth]
  unfold BodySt.atInst
  rw [modNth_modNth, hadv, modNth_replace]

theorem nth_counted {x : BodySt} {j k : Nat} {i : Inst} (hi : nth x.insts j {} = i) (h : j < x.insts.length) :
    nth (x.atInst j (Inst.count k)).insts j {} = i.count k := by
  subst hi
  exact nth_modNth_same _ _ _ _ h

/-! ### A window message at the home (R94) -/

section
variable {s : State} {r : Rgn} {n : Nat} (hp : r.part < 16) (hrun : running (getRegion s r) = true) {m : MsgFlight}
  (hm : (getRegion s r).msgs[n]? = some m)
  (hfirst : ((getRegion s r).msgs.take n).any (fun (y : MsgFlight) => y.src == m.src) = false)

/-- The region once message n has arrived. -/
def received (s : State) (r : Rgn) (n : Nat) : State := setRegion s r { getRegion s r with msgs := (getRegion s r).msgs.eraseIdx n }

include hrun hm hfirst in
theorem windowMessage_applies : exec (.evWindowMessage r n) s = .next (applyMsg (received s r n) r m) := by
  show execEvWindowMessage r n s = _
  unfold execEvWindowMessage
  simp only [hm, hrun, hfirst]
  rfl

include hp in
theorem getRegion_received : getRegion (received s r n) r = { getRegion s r with msgs := (getRegion s r).msgs.eraseIdx n } :=
  getRegion_setRegion_same hp

/-- The home has counted an `itdone`, and looks for what retires. -/
theorem applyDone_counts {u : State} {t : Nat} {x : BodySt} (hx : bodySt (getRegion u r) (tagBody t) = some x)
    (hst : (nth x.insts (tagInst t) {}).st = 1)
    (hage : (tagIter t + 2 ^ 16 - (nth x.insts (tagInst t) {}).oldest) % 2 ^ 16 < bodyW x.desc)
    (hc : nth (nth x.insts (tagInst t) {}).counts (tagIter t % bodyW x.desc) 0 ≠ x.desc.c) : applyDone u r m t =
      retire (modBody u r (tagBody t) (BodySt.atInst (tagInst t) (Inst.count (tagIter t % bodyW x.desc)))) r (tagBody t) (tagInst t) := by
  unfold bodySt at hx
  unfold applyDone
  dsimp only
  rw [hx]
  exact if_neg (by simp only [hst, Nat.not_le.2 hage, hc]; decide)

end

/-- Every element is sent an advance. -/
theorem sendAdvance_reaches {s : State} {r : Rgn} (hp : r.part < 16) (b n o : Nat) {e : Nat} (he : e < (getRegion s r).elems.length) :
    (getRegion (sendAdvance s r b n o) r).bcasts.any (fun q => q.dst == e && q.body == b && q.inst == n && !q.free && q.oldest == o) =
      true := by
  unfold sendAdvance
  rw [getRegion_modRegion_same hp, List.any_eq_true]
  exact ⟨{ dst := e, body := b, inst := n, free := false, oldest := o },
    List.mem_append_right _ (List.mem_map_of_mem (List.mem_range.2 he)), by simp⟩

section
variable {s : State} {r : Rgn} {n : Nat} (hp : r.part < 16) (hrun : running (getRegion s r) = true) {m : MsgFlight}
  (hm : (getRegion s r).msgs[n]? = some m)
  (hfirst : ((getRegion s r).msgs.take n).any (fun (y : MsgFlight) => y.src == m.src) = false)
include hp hrun hm hfirst

omit hrun hm hfirst in
theorem bodySt_counted {b j k : Nat} {x : BodySt} (hx : bodySt (getRegion s r) b = some x) :
    bodySt (getRegion (modBody (received s r n) r b (BodySt.atInst j (Inst.count k))) r) b = some (x.atInst j (Inst.count k)) := by
  have hx' : bodySt (getRegion (received s r n) r) b = some x := by rw [getRegion_received hp]; exact hx
  exact bodySt_modBody hp (f := BodySt.atInst j (Inst.count k)) (fun _ => rfl) hx'

omit hrun hm hfirst in
theorem bodySt_advanced {b j k : Nat} {x : BodySt} (hx : bodySt (getRegion s r) b = some x) {i : Inst} (hi : nth x.insts j {} = i)
    (o : Nat) : bodySt (getRegion (sendAdvance (modBody (modBody (received s r n) r b (BodySt.atInst j (Inst.count k))) r b
      (BodySt.atInst j fun _ => (i.count k).advance k)) r b j o) r) b = some (x.atInst j (Inst.advance k)) := by
  rw [← atInst_counted_advanced hi, sendAdvance, getRegion_modRegion_same hp]
  exact bodySt_modBody hp (f := BodySt.atInst j fun _ => (i.count k).advance k) (fun _ => rfl) (bodySt_counted hp hx)

section
variable {t : Nat} (hmsg : m.msg = .done t) {x : BodySt} (hx : bodySt (getRegion s r) (tagBody t) = some x) {i : Inst}
  (hi : nth x.insts (tagInst t) {} = i) {k : Nat} (hk : tagIter t % bodyW x.desc = k) (hst : i.st = 1)
  (hage : (tagIter t + 2 ^ 16 - i.oldest) % 2 ^ 16 < bodyW x.desc) (hc : nth i.counts k 0 ≠ x.desc.c)
include hmsg hx hi hk hst hage hc

/-- The home counts an `itdone` and looks for what retires (R104). -/
theorem done_counts : exec (.evWindowMessage r n) s =
    .next (retire (modBody (received s r n) r (tagBody t) (BodySt.atInst (tagInst t) (Inst.count k))) r (tagBody t) (tagInst t)) := by
  subst hi hk
  have hx' : bodySt (getRegion (received s r n) r) (tagBody t) = some x := by rw [getRegion_received hp]; exact hx
  rw [windowMessage_applies hrun hm hfirst, applyMsg, hmsg]
  dsimp only
  rw [applyDone_counts hx' hst hage hc]

variable (hlen : k < i.counts.length) (hin : tagInst t < x.insts.length)
include hlen hin

/-- Below C the count stands, where the oldest iteration is not complete. -/
theorem done_stays (hlow : nth i.counts k 0 + 1 ≠ x.desc.c) (hold : nth i.counts (i.oldest % bodyW x.desc) 0 ≠ x.desc.c) :
    exec (.evWindowMessage r n) s =
      .next (modBody (received s r n) r (tagBody t) (BodySt.atInst (tagInst t) (Inst.count k))) := by
  have hlow' : nth (i.count k).counts (i.oldest % bodyW x.desc) 0 ≠ x.desc.c := by
    by_cases hko : k = i.oldest % bodyW x.desc
    · rw [← hko, Inst.count_same hlen]
      exact hlow
    · rw [Inst.count_ne _ hko]
      exact hold
  rw [done_counts hp hrun hm hfirst hmsg hx hi hk hst hage hc, retire_stays (bodySt_counted hp hx) (nth_counted hi hin) hlow']

/-- With the C-th count of the oldest iteration the live copy advances, where the next one is not complete. -/
theorem done_advances (hfull : nth i.counts k 0 + 1 = x.desc.c) (hko : k = i.oldest % bodyW x.desc)
    (hpol : polSeq (getRegion s r) = false) (hw : 1 < bodyW x.desc)
    (hnext : nth i.counts ((i.oldest + 1) % 2 ^ 16 % bodyW x.desc) 0 ≠ x.desc.c) : exec (.evWindowMessage r n) s =
      .next (sendAdvance (modBody (modBody (received s r n) r (tagBody t) (BodySt.atInst (tagInst t) (Inst.count k))) r (tagBody t)
        (BodySt.atInst (tagInst t) fun _ => (i.count k).advance k)) r (tagBody t) (tagInst t) ((i.oldest + 1) % 2 ^ 16)) := by
  have hpol' : polSeq (getRegion (modBody (received s r n) r (tagBody t) (BodySt.atInst (tagInst t) (Inst.count k))) r) = false := by
    rw [getRegion_modBody hp, getRegion_received hp]
    exact hpol
  have hnext' : nth ((i.count k).advance k).counts ((i.oldest + 1) % 2 ^ 16 % bodyW x.desc) 0 ≠ x.desc.c := by
    show nth (modNth (modNth i.counts k _) k _) _ 0 ≠ _
    rw [modNth_modNth]
    by_cases hsame : k = (i.oldest + 1) % 2 ^ 16 % bodyW x.desc
    · rw [← hsame, nth_modNth_same _ _ _ _ hlen]
      omega
    · rw [nth_modNth_ne _ _ _ _ _ hsame]
      exact hnext
  rw [done_counts hp hrun hm hfirst hmsg hx hi hk hst hage hc]
  subst hko
  exact congrArg _ (retire_one (bodySt_counted hp hx) (nth_counted hi hin) ((Inst.count_same hlen).trans hfull) hpol' hw hnext')

end

/-- A free of a live copy takes it out of use and goes to every element (R101, R255). -/
theorem free_begins {b i : Nat} (hmsg : m.msg = .free b i) {x : BodySt} (hx : bodySt (getRegion s r) b = some x)
    (hdyn : x.desc.dyn = true) (hst : (nth x.insts i {}).st = 1) : ∃ u, exec (.evWindowMessage r n) s = .next u ∧
      (getRegion u r).frees = (getRegion s r).frees ++ [((b, i), List.range (getRegion s r).elems.length)] ∧
      (getRegion u r).bcasts = (getRegion s r).bcasts ++ (List.range (getRegion s r).elems.length).map fun e =>
        { dst := e, body := b, inst := i, free := true } := by
  have hx' : bodySt (getRegion (received s r n) r) b = some x := by rw [getRegion_received hp]; exact hx
  unfold bodySt at hx'
  refine ⟨_, windowMessage_applies hrun hm hfirst, ?_⟩
  unfold applyMsg
  rw [hmsg]
  dsimp only
  unfold applyFree
  dsimp only
  rw [hx']
  dsimp only
  rw [if_neg (by simp only [hdyn, hst]; decide), getRegion_modRegion_same hp, getRegion_modBody hp, getRegion_received hp]
  exact ⟨rfl, rfl⟩

end

end Sys2Proof.Machine
end

section
/-! SUPPORT. Advances and frees at an element, and the end of a free (spec/04: R94, R95; spec/10: R255). -/

namespace Sys2Proof.Machine

/-! ### What an element discards -/

/-- What names a set, and its orphan marks. -/
def MSet.name (m : MSet) : Nat × Nat × Nat := (m.slot, m.tag, m.orphan)

/-- The frame-ready list takes sets under their names. -/
theorem listFramesBy_names (full : MSet → Bool) (clk n : Nat) (e : Elem) :
    (listFramesBy full clk n e).sets.map MSet.name = e.sets.map MSet.name := by
  induction n generalizing e with
  | zero => rfl
  | succ n ih =>
    unfold listFramesBy
    dsimp only
    split
    · rfl
    · split
      · rfl
      · refine (ih _).trans ?_
        rw [List.map_map]
        refine List.map_congr_left fun m _ => ?_
        simp only [Function.comp]
        split <;> rfl

theorem foldl_touchEos_same (clk : Nat) (l : List MSet) (e : Elem) : l.foldl (fun e m => touchEos e m.slot clk) e =
    { e with eosTags := (l.foldl (fun e m => touchEos e m.slot clk) e).eosTags } := by
  induction l generalizing e with
  | nil => rfl
  | cons m l ih =>
    rw [List.foldl_cons, ih]
    rfl

section
variable (b i clk : Nat) (e : Elem)

/-- No set of the live copy is left. -/
theorem dropInst_sets : ∀ m ∈ (dropInst b i clk e).sets, ¬(tagBody m.tag = b ∧ tagInst m.tag = i) := by
  intro m hm
  unfold dropInst at hm
  extract_lets e1 top keep gone at hm
  have hname : m.name ∈ (e1.sets.filter fun m => !gone m).map MSet.name := by
    have h := listFramesBy_names (setFull _) clk 64 _ ▸ List.mem_map_of_mem (f := MSet.name) hm
    rw [foldl_touchEos_same] at h
    exact h
  obtain ⟨m', hm', he⟩ := List.mem_map.1 hname
  have ht : m'.tag = m.tag := congrArg (fun q => q.2.1) he
  have hg : gone m' = false := by simpa using (List.mem_filter.1 hm').2
  rw [← ht]
  rintro ⟨hb, hi⟩
  exact absurd hg (by simp [gone, hb, hi])

/-- No token of the live copy is left at the head of a channel or behind it. -/
theorem dropInst_heads : ∀ q ∈ (dropInst b i clk e).heads, ∀ h ∈ q.2, tokOf b i h.tok = false := by
  intro q hq h hh
  unfold dropInst at hq
  extract_lets e1 top keep gone at hq
  have htop (l : List Held) : ∀ h ∈ top l, ∃ h' ∈ l, h.tok = h'.tok := by
    intro h hh
    cases l with
    | nil => cases hh
    | cons x xs =>
      obtain rfl | hx := List.mem_cons.1 hh
      · exact ⟨x, List.mem_cons_self, rfl⟩
      · exact ⟨h, List.mem_cons_of_mem _ hx, rfl⟩
  have hheads : q ∈ e1.heads.filterMap keep := by
    unfold listFrames at hq
    rw [(listFramesBy_framed _ _ _ _).same, foldl_touchEos_same] at hq
    exact hq
  obtain ⟨p, -, hp⟩ := List.mem_filterMap.1 hheads
  obtain ⟨h', hh', ht⟩ : ∃ h' ∈ p.2.filter fun h => !tokOf b i h.tok, h.tok = h'.tok := by
    simp only [keep] at hp
    split at hp
    · cases hp
    · cases hp
      dsimp only at hh
      split at hh
      · exact ⟨h, hh, rfl⟩
      · exact htop _ h hh
  rw [ht]
  simpa using (List.mem_filter.1 hh').2

end

/-! ### The steps -/

/-- The acknowledgements of a free that are still due once its element has applied it. -/
def acksLeft (frees : List ((Nat × Nat) × List Nat)) (b : BcastFlight) : List ((Nat × Nat) × List Nat) :=
  frees.map fun q => if q.1 = (b.body, b.inst) then (q.1, q.2.filter (· ≠ b.dst)) else q

theorem acksLeft_none {frees : List ((Nat × Nat) × List Nat)} {b : BcastFlight} :
    ∀ q ∈ acksLeft frees b, q.1 = (b.body, b.inst) → b.dst ∉ q.2 := by
  intro q hq hk
  obtain ⟨p, -, rfl⟩ := List.mem_map.1 hq
  by_cases hp : p.1 = (b.body, b.inst)
  · rw [if_pos hp]
    simp
  · rw [if_neg hp] at hk
    exact absurd hk hp

/-- Acknowledgements of operands change a region in its channels alone. -/
theorem foldl_ackChan {α : Type} {r : Rgn} (hp : r.part < 16) (c : α → Nat) (l : List α) (s : State) :
    let u := l.foldl (fun s x => modRegion s r fun g => ackChan g (c x)) s
    getRegion u r = { getRegion s r with chans := (getRegion u r).chans } ∧ Local s u r := by
  induction l generalizing s with
  | nil => exact ⟨rfl, Local.refl _ _⟩
  | cons x l ih =>
    obtain ⟨hg, hl⟩ := ih (modRegion s r fun g => ackChan g (c x))
    refine ⟨?_, (modRegion_local _ _ _).trans hl⟩
    rw [List.foldl_cons, hg, getRegion_modRegion_same hp]
    rfl

section
variable {s : State} {r : Rgn} {n : Nat} (hp : r.part < 16) {b : BcastFlight} (hb : bcastReady (getRegion s r) n = some b)

/-- The state once broadcast n has been taken from its way, and acknowledged where it is a free. -/
def delivered (s : State) (r : Rgn) (n : Nat) (frees : List ((Nat × Nat) × List Nat)) : State :=
  setRegion s r { getRegion s r with bcasts := (getRegion s r).bcasts.eraseIdx n, frees := frees }

section
include hp
variable (frees : List ((Nat × Nat) × List Nat))

theorem getRegion_delivered :
    getRegion (delivered s r n frees) r = { getRegion s r with bcasts := (getRegion s r).bcasts.eraseIdx n, frees := frees } :=
  getRegion_setRegion_same hp

theorem getRegion_modElem_delivered (d : Nat) (f : Elem → Elem) : getRegion (modElem (delivered s r n frees) ⟨r.part, r.handle, d⟩ f) r =
    { getRegion (delivered s r n frees) r with elems := modNth (getRegion (delivered s r n frees) r).elems d f } :=
  getRegion_modRegion_same hp

theorem getElem_modElem_delivered {d : Nat} (hd : d < (getRegion s r).elems.length) (f : Elem → Elem) :
    getElem (modElem (delivered s r n frees) ⟨r.part, r.handle, d⟩ f) ⟨r.part, r.handle, d⟩ =
      f (getElem (delivered s r n frees) ⟨r.part, r.handle, d⟩) := by
  refine getElem_modElem_same hp ?_
  rw [show rgnOf ⟨r.part, r.handle, d⟩ = r from rfl, getRegion_delivered hp]
  exact hd

end

include hb in
theorem windowAdvance_taken (hf : b.free = false) : exec (.evWindowAdvance r n) s =
    .next (modElem (delivered s r n (getRegion s r).frees) ⟨r.part, r.handle, b.dst⟩ fun e =>
      { e with oldest := putKey e.oldest (b.body, b.inst) b.oldest }) := by
  show execEvWindowAdvance r n s = _
  unfold execEvWindowAdvance
  dsimp only
  rw [hb]
  exact if_neg (by simp [hf])

include hp hb in
/-- An element applies a free: it holds nothing of the live copy, and the free waits for its acknowledgement no more. -/
theorem freeApply_taken (hf : b.free = true) :
    let l : Loc := ⟨r.part, r.handle, b.dst⟩
    let v := delivered s r n (acksLeft (getRegion s r).frees b)
    ∃ u, exec (.evFreeApply r n) s = .next u ∧ Local s u r ∧
      (getRegion u r).elems = (getRegion (modElem v l (dropInst b.body b.inst v.clk)) r).elems ∧
      (getRegion u r).bcasts = (getRegion s r).bcasts.eraseIdx n ∧ (getRegion u r).frees = acksLeft (getRegion s r).frees b := by
  intro l v
  let gone := residentsOf b.body b.inst (getElem s l)
  let w := modElem v l (dropInst b.body b.inst v.clk)
  let x := gone.foldl (fun s x => modRegion s r fun g => ackChan g x.2.2.1) w
  have hw : getRegion w r = { getRegion v r with elems := (getRegion w r).elems } := by
    rw [show getRegion w r = _ from getRegion_modElem_delivered hp _ _ _]
  obtain ⟨hx, hl⟩ := foldl_ackChan hp (fun x : Nat × Nat × Nat × PLoc => x.2.2.1) gone w
  have hloc : Local s x r := ((setRegion_local _ _ _).trans (modElem_local v l _)).trans hl
  have hfields : (getRegion x r).elems = (getRegion w r).elems ∧ (getRegion x r).bcasts = (getRegion s r).bcasts.eraseIdx n ∧
      (getRegion x r).frees = acksLeft (getRegion s r).frees b := by
    rw [hx, hw, getRegion_delivered hp]
    exact ⟨rfl, rfl, rfl⟩
  have he : exec (.evFreeApply r n) s = .next (if gone = [] then x else
      putRec x r (atElem x l { cause := 0x61, slot := (lowestSlot gone).1, tag := (lowestSlot gone).2, addr := gone.length })) := by
    show execEvFreeApply r n s = _
    unfold execEvFreeApply
    dsimp only
    rw [hb]
    exact if_neg (by simp [hf])
  refine ⟨_, he, ?_⟩
  split
  · exact ⟨hloc, hfields⟩
  · obtain ⟨q, k, hq, -⟩ := putRec_region (s := x) hp
      (atElem x l { cause := 0x61, slot := (lowestSlot gone).1, tag := (lowestSlot gone).2, addr := gone.length })
    refine ⟨hloc.trans (putRec_local _ _ _), ?_⟩
    rw [hq]
    exact hfields

end

/-- Once every element has acknowledged, the free ends and the copy is free again (R255). -/
theorem freeComplete_ends {s : State} {r : Rgn} (hp : r.part < 16) (hrun : running (getRegion s r) = true) {b i : Nat}
    (h : ((b, i), []) ∈ (getRegion s r).frees) : Completes (.evFreeComplete r b i) s fun u =>
      (∀ q ∈ (getRegion u r).frees, q.1 ≠ (b, i)) ∧
      ∀ x ∈ (getRegion u r).bodies, x.desc.num = b → i < x.insts.length → (nth x.insts i {}).st = 0 := by
  have hany : (running (getRegion s r) && (getRegion s r).frees.any fun q => q.1 == (b, i) && q.2 == []) = true := by
    rw [hrun, Bool.true_and, List.any_eq_true]
    exact ⟨_, h, by simp⟩
  refine ⟨_, if_pos hany, ?_⟩
  dsimp only
  rw [getRegion_modBody hp, getRegion_setRegion_same hp]
  refine ⟨fun q hq => by simpa using (List.mem_filter.1 hq).2, fun x hx hnum hlen => ?_⟩
  obtain ⟨y, -, rfl⟩ := List.mem_map.1 hx
  by_cases hy : y.desc.num = b
  · rw [if_pos hy] at hlen ⊢
    rw [nth_modNth_same _ _ _ _ (by simpa using hlen)]
  · rw [if_neg hy] at hnum
    exact absurd hnum hy

end Sys2Proof.Machine

open Sys2Proof Sys2Proof.Machine

/-- Settles O46: the home counts, advances and begins frees by its window messages; each element takes a broadcast; a free ends
with its last acknowledgement. -/
theorem windowEvents : Obligations.WindowEvents := by
  unfold Obligations.WindowEvents
  intro s r n hp hrun g
  refine ⟨fun m x hm hfirst => ⟨fun t hmsg hx => ?_, fun b i hmsg hx hdyn hst => ?_⟩, fun b hb hdst => ?_, fun b i h =>
    freeComplete_ends hp hrun h⟩
  · intro W i k d hst hage hd hk hin
    refine ⟨fun hlow hold => ?_, fun hfull hko hpol hw hnext => ?_⟩
    · refine ⟨_, done_stays hp hrun hm hfirst hmsg hx rfl rfl hst hage hd hk hin hlow hold, ?_, bodySt_counted hp hx⟩
      rw [getRegion_modBody hp, getRegion_received hp]
    · refine ⟨_, done_advances hp hrun hm hfirst hmsg hx rfl rfl hst hage hd hk hin hfull hko hpol hw hnext, ?_, fun e he => ?_⟩
      · exact bodySt_advanced hp hx rfl _
      · refine sendAdvance_reaches hp _ _ _ ?_
        rw [getRegion_modBody hp, getRegion_modBody hp, getRegion_received hp]
        exact he
  · obtain ⟨u, hu, hfrees, hbcasts⟩ := free_begins hp hrun hm hfirst hmsg hx hdyn hst
    refine ⟨u, hu, hfrees, fun e he => ?_⟩
    rw [hbcasts, List.any_eq_true]
    exact ⟨{ dst := e, body := b, inst := i, free := true },
      List.mem_append_right _ (List.mem_map_of_mem (List.mem_range.2 he)), by simp⟩
  · intro l
    refine ⟨fun hf => ?_, fun hf => ?_⟩
    · refine ⟨_, windowAdvance_taken hb hf, ?_, ?_, (setRegion_local _ _ _).trans (modElem_local _ l _)⟩
      · rw [getElem_modElem_delivered hp _ hdst]
        unfold oldestCopy
        rw [lookupKey_putKey_same]
        rfl
      · rw [getRegion_modElem_delivered hp, getRegion_delivered hp]
    · obtain ⟨u, hu, hlocal, helems, hbcasts, hfrees⟩ := freeApply_taken hp hb hf
      have hel : getElem u l = dropInst b.body b.inst (delivered s r n (acksLeft g.frees b)).clk
          (getElem (delivered s r n (acksLeft g.frees b)) l) :=
        (Machine.getElem_congr helems).trans (getElem_modElem_delivered hp _ hdst _)
      refine ⟨u, hu, ?_, ?_, hbcasts, ?_, hlocal⟩
      · rw [hel]
        exact dropInst_sets _ _ _ _
      · rw [hel]
        exact dropInst_heads _ _ _ _
      · rw [hfrees]
        exact acksLeft_none

end

section
/-! SUPPORT. How an issue ends: the access that it hands on, the orphan marks that it leaves; marks of several tokens; what `merge`
and `cmerge` read (spec/04: R98, R99; spec/08: R190; spec/14: R326). -/

namespace Sys2Proof.Machine

/-! ### The end of an issue -/

/-- An access but for the buffer that is drawn for it. -/
def Access.unbuffered (a : Access) : Access := { a with buffer := none }

theorem drawAccess_unbuffered (e : Elem) (kept : List Nat) (a : Option Access) :
    (drawAccess e kept a).2.map Access.unbuffered = a.map Access.unbuffered := by
  unfold drawAccess
  split
  · split
    · rfl
    · split <;> rfl
  · rfl

theorem drawAccess_sets (e : Elem) (kept : List Nat) (a : Option Access) : (drawAccess e kept a).1.sets = e.sets := by
  unfold drawAccess
  split
  · split
    · rfl
    · split <;> rfl
  · rfl

theorem placeMarks_marked (e : Elem) (slot tag : Nat) {marks : Nat} (fr : Bool) (h : marks ≠ 0) :
    (slot, tag, marks) ∈ (placeMarks e slot tag marks fr).sets.map MSet.name := by
  unfold placeMarks
  rw [if_neg h]
  split
  · next hany =>
    obtain ⟨m, hm, hname⟩ := List.any_eq_true.1 hany
    obtain ⟨hs, ht⟩ : m.slot = slot ∧ m.tag = tag := by simpa using hname
    refine List.mem_map.2 ⟨_, List.mem_map_of_mem hm, ?_⟩
    rw [if_pos ⟨hs, ht⟩, MSet.name, hs, ht]
  · exact List.mem_cons_self

/-- What is left once a firing has issued: the access that its judgement gives it, and its orphan marks in the set store. -/
structure Ended (s t : State) (f : Focus) (i : FireIn) (o : FireOut) (F : Firing) : Prop where
  access : F.access.map Access.unbuffered = (judged s f i o).access.map Access.unbuffered
  marks : o.marks ≠ 0 → (f.slot, f.tag, o.marks) ∈ (getElem t f.loc).sets.map MSet.name

theorem issue_ended {s : State} {f : Focus} {i : FireIn} {o : FireOut} {upd : Bool} {F : Firing} (hp : f.loc.part < 16)
    (he : f.loc.elem < (getRegion s (rgnOf f.loc)).elems.length)
    (hF : (getElem (issue s f i o upd) f.loc).pending = (getElem s f.loc).pending ++ [F]) : Ended s (issue s f i o upd) f i o F := by
  have hE := eaten_eaten s f i.w (judged s f i o) hp he
  have hlen : f.loc.elem < (getRegion (eaten s f i.w (judged s f i o)) (rgnOf f.loc)).elems.length := by rw [hE.len]; exact he
  have hmarks : (judged s f i o).marks = o.marks := by rw [(judged_judged s f i o).same]
  generalize ht : issue s f i o upd = t at hF ⊢
  unfold issue at ht
  extract_lets ord bad j q e outs bufs e' d oa ob src s2 at ht
  subst ht
  have hel : getElem (modRegion s2 (rgnOf f.loc) (issueRegion s2.clk (reserved j.1 outs) j.1.alloc i.passed)) f.loc =
      { d.1 with pending := d.1.pending ++ [mkFiring s i ob outs bufs ord j.2] } :=
    (getElem_modRegion hp (issueRegion_elems _ _ _ _ _)).trans (getElem_modElem_same hp hlen)
  rw [hel] at hF
  obtain rfl : mkFiring s i ob outs bufs ord j.2 = F := List.singleton_inj.1 (List.append_inj_right' hF rfl)
  refine ⟨drawAccess_unbuffered _ _ _, fun hm => ?_⟩
  rw [hel]
  show _ ∈ d.1.sets.map MSet.name
  rw [drawAccess_sets, show e'.sets.map MSet.name = _ from listFramesBy_names _ _ _ _, ← hmarks]
  exact placeMarks_marked _ _ _ _ (by rw [show j.1.marks = o.marks from hmarks]; exact hm)

/-- An instruction whose meaning is a firing issues, and ends as every issue does. -/
theorem issues_ended {i : Instr} {s : State} {f : Focus} {w : OpWord} {opc : Nat} {m : FireIn → FireRes} {P : State → Firing → Prop}
    (o : FireOut) (h : Chosen s f) (he : exec i s = .next (fire s w opc m)) (hm : m (gather s f w opc) = .go o)
    (hP : ∀ t F, Fired s t f (gather s f w opc) o F → Ended s t f (gather s f w opc) o F → P t F) : Issues i s f P := by
  obtain ⟨F, hF⟩ := fire_fired h hm
  have ht : fire s w opc m = issue s f (gather s f w opc) o o.upd := by
    unfold fire
    rw [h.focus]
    dsimp only
    rw [if_neg (by rw [h.mode]; decide), hm]
  rw [ht] at hF he
  exact ⟨_, he, F, hF.pending, hF.slot, hF.tag, hP _ _ hF (issue_ended h.part h.elem hF.pending)⟩

/-- With no uncorrectable word and no non-finite value the judgement of a firing changes nothing. -/
theorem judged_clean {s : State} {f : Focus} {i : FireIn} {o : FireOut} (hb : i.e.badWords = []) (hn : o.nonfin = none) :
    judged s f i o = o := by
  unfold judged
  rw [badRead_good _ hb]
  unfold judgeOut
  rw [hn]
  rfl

/-! ### Marks of several tokens -/

section
variable {s : State} {f : Focus} {w : OpWord} {opc : Nat}

theorem marks_all {i : Instr} {m : FireIn → FireRes} {p : Bool} {x : Nat} (o : FireOut) (h : Chosen s f)
    (hb : (getElem s f.loc).ahead.badWords = []) (he : exec i s = .next (fire s w opc m)) (hm : m (gather s f w opc) = .go o)
    (hn : o.nonfin = none) (ho : ∀ t ∈ o.outs, markOf t = (p, if p then x else 0)) : Marks i s f p x := by
  refine issues_of o h he hm fun u F hF y hmem => ?_
  have hy : y.mark ∈ F.outs.map OutTok.mark := List.mem_map_of_mem hmem
  rw [hF.marks hb hn] at hy
  obtain ⟨t, ht, hyt⟩ := List.mem_flatMap.1 hy
  obtain ⟨c, -, hc⟩ := List.mem_map.1 hyt
  rw [ho t ht, OutTok.mark, Prod.mk.injEq, Prod.mk.injEq] at hc
  obtain ⟨-, hpoison, hfidx⟩ := hc
  exact ⟨hpoison.symm, hfidx.symm⟩

/-! ### Operands that are taken, and those that are not -/

theorem gather_taken {p : Nat} (hp : p < 3) (ht : (takes (getElem s f.loc).ahead opc f.slot f.tag f.mergeB).contains p = true) :
    (gather s f w opc).opd p = operandAt (getRegion s (rgnOf f.loc)) (getElem s f.loc).ahead w f.slot f.tag p := by
  unfold gather FireIn.opd
  match p with
  | 0 | 1 | 2 => exact if_pos ht

theorem gather_untaken {p : Nat} (hp : p < 3) (ht : (takes (getElem s f.loc).ahead opc f.slot f.tag f.mergeB).contains p = false) :
    (gather s f w opc).opd p = {} := by
  unfold gather FireIn.opd
  match p with
  | 0 | 1 | 2 => exact if_neg (ne_true_of_eq_false ht)

/-- `merge` reads the operand that made it a candidate (R98). -/
theorem gather_merge : (if f.mergeB then (gather s f w 0x02).b else (gather s f w 0x02).a) =
    operandAt (getRegion s (rgnOf f.loc)) (getElem s f.loc).ahead w f.slot f.tag (b2n f.mergeB) := by
  have ht (e : Elem) : takes e 0x02 f.slot f.tag f.mergeB = [b2n f.mergeB] := rfl
  cases hm : f.mergeB with
  | true => exact gather_taken (p := 1) (by decide) (by rw [ht, hm]; rfl)
  | false => exact gather_taken (p := 0) (by decide) (by rw [ht, hm]; rfl)

theorem heldAt_of_tok {g : Region} {e : Elem} {slot tag p : Nat} {t : Token} (hs : w.src p = 0)
    (ht : (operandAt g e w slot tag p).tok = some t) : ∃ x, heldAt e w slot tag p = some x ∧ x.tok = t := by
  unfold operandAt at ht
  dsimp only at ht
  rw [hs, if_pos (by decide)] at ht
  split at ht
  · next x hx =>
    split at ht
    · cases ht
    · cases ht
      exact ⟨x, hx, rfl⟩
  · cases ht

/-- `cmerge` takes the side that its control selects, or all behind a poisoned one (R99). -/
theorem takes_cmerge {c : Opd} (hc : operandAt (getRegion s (rgnOf f.loc)) (getElem s f.loc).ahead w f.slot f.tag 2 = c)
    (hs : w.src 2 = 0) (ht : c.tok.isSome = true) : takes (getElem s f.loc).ahead 0x03 f.slot f.tag f.mergeB =
      if c.poison then [0, 1, 2] else if c.truth then [2, 0] else [2, 1] := by
  obtain ⟨t, htok⟩ := Option.isSome_iff_exists.1 ht
  obtain ⟨x, hx, hxt⟩ := heldAt_of_tok hs (hc ▸ htok)
  unfold heldAt at hx
  rw [hs] at hx
  unfold takes
  rw [show ((setOf (getElem s f.loc).ahead f.slot f.tag).bind fun m => m.c) = some x from hx]
  unfold Opd.poison Opd.truth Opd.low32 Held.truth
  rw [htok, ← hxt]
  rfl

end

end Sys2Proof.Machine
end

section
/-! SUPPORT. The operations that send their data token on (spec/04: R89, R96 to R103, R110, R112; spec/08: R205, R207). -/

namespace Sys2Proof.Machine

/-- A tag's context with another iteration (R66). -/
theorem tagStep_add (t n : Nat) : tagStep t n = t / 2 ^ 16 % 2 ^ 16 * 2 ^ 16 + (t % 2 ^ 16 + n) % 2 ^ 16 := by
  have hc : tagCtx t = t / 2 ^ 16 % 2 ^ 16 := by rw [tagCtx, bits, Nat.shiftRight_eq_div_pow]
  have hi : tagIter t = t % 2 ^ 16 := by rw [tagIter, bits, Nat.shiftRight_zero]
  rw [tagStep, hc, hi, uval, ← Int.natCast_add, ← Int.natCast_emod, Int.toNat_natCast]

theorem operandAt_code (g : Region) (e : Elem) (w : OpWord) (slot tag p : Nat) :
    (operandAt g e w slot tag p).code = 31 ↔ w.src p = 31 := by
  unfold operandAt
  dsimp only
  split
  · next h =>
    have hne : w.src p ≠ 31 := by omega
    split
    · split
      · exact ⟨fun h => absurd (show 2 = 31 from h) (by decide), fun h => absurd h hne⟩
      · exact Iff.rfl
    · exact Iff.rfl
  · split
    · next h => rw [h]
    · split
      · next h => rw [h]
      · split
        · next h => rw [h]
        · exact Iff.rfl

/-! ### Firings that emit tokens with their operands' poison (R72, R89) -/

/-- The candidate's firing emits tokens of given entries, headers and payloads, each with the poison of its operands. -/
def Emits (i : Instr) (s : State) (f : Focus) (w : OpWord) (opc : Nat) (l : List (Nat × Hdr × Nat)) : Prop :=
  ∃ m o, exec i s = .next (fire s w opc m) ∧ m (gather s f w opc) = .go o ∧ o.nonfin = none ∧
    o.outs = l.map fun t => (gather s f w opc).emit t.1 t.2.1 t.2.2 (gather s f w opc).poison

/-- An operand forwarded to entries under a tag. -/
def copies (x : Opd) (tag : Nat) (ks : List Nat) : List (Nat × Hdr × Nat) := ks.map fun k => (k, { x.hdr with tag := tag }, x.payload)

section
variable {i : Instr} {s : State} {f : Focus} {w : OpWord} {opc : Nat} {l : List (Nat × Hdr × Nat)}

theorem Issues.mono {P Q : State → Firing → Prop} (hP : Issues i s f P) (hPQ : ∀ t F, P t F → Q t F) : Issues i s f Q := by
  obtain ⟨t, he, F, hF, hslot, htag, hp⟩ := hP
  exact ⟨t, he, F, hF, hslot, htag, hPQ t F hp⟩

theorem Marks.congr {p : Bool} {x y : Nat} (hM : Marks i s f p x) (hxy : p = true → x = y) : Marks i s f p y := by
  cases p with
  | false => exact hM
  | true => rwa [← hxy rfl]

theorem Emits.issues (hE : Emits i s f w opc l) (h : Chosen s f) :
    Issues i s f fun _ F => F.sent = l.flatMap fun t => toEntry (getElem s f.loc) t.1 t.2.1 t.2.2 := by
  obtain ⟨m, o, he, hm, -, ho⟩ := hE
  have hview : o.outs.map plainView = l.map fun t => (t.1, t.2.2, t.2.1.plain) := by
    rw [ho, List.map_map]
    exact List.map_congr_left fun t _ => emit_view _ _ _ _ _
  refine issues_of o h he hm fun t F hF => ?_
  rw [hF.sent_eq _ hview, List.flatMap_map]
  rfl

theorem Emits.sends {entry p : Nat} {hd : Hdr} (hE : Emits i s f w opc [(entry, hd, p)]) (h : Chosen s f) : Sends i s f entry hd p := by
  have hi := hE.issues h
  rw [List.flatMap_singleton] at hi
  exact hi

theorem Emits.marks (hE : Emits i s f w opc l) (h : Chosen s f) (hb : (getElem s f.loc).ahead.badWords = []) :
    Marks i s f (gather s f w opc).poison (gather s f w opc).fidx := by
  obtain ⟨m, o, he, hm, hn, ho⟩ := hE
  refine marks_all o h hb he hm hn fun t ht => ?_
  rw [ho] at ht
  obtain ⟨q, -, rfl⟩ := List.mem_map.1 ht
  exact emit_mark _ _ _ _ _

/-- The marks of a firing that takes all of its operands. -/
theorem Emits.marks_cand (hE : Emits i s f w opc l) (ho : opc ≠ 2 ∧ opc ≠ 3) (h : Chosen s f)
    (hb : (getElem s f.loc).ahead.badWords = []) : Marks i s f (candPoison s f w) (candFidx s f w) := by
  have hm := hE.marks h hb
  rw [gather_poison s f w ho] at hm
  exact hm.congr (gather_fidx s f w ho)

end

section
variable {s : State} {f : Focus} {w : OpWord} {a b : Opd}
  (ha : operandAt (getRegion s (rgnOf f.loc)) (getElem s f.loc).ahead w f.slot f.tag 0 = a)
  (hb : operandAt (getRegion s (rgnOf f.loc)) (getElem s f.loc).ahead w f.slot f.tag 1 = b)

include hb in
theorem gather_poison_of_b {opc : Nat} (ho : opc ≠ 2 ∧ opc ≠ 3) (hp : b.poison = true) : (gather s f w opc).poison = true := by
  rw [FireIn.poison, gather_b s f w ho, hb, hp, Bool.or_true, Bool.true_or]

/-! ### `steer` and `switch` (R96, R97) -/

section
include ha hb

theorem steer_emits {ks : List Nat}
    (hk : (if b.poison then [w.dest.toNat, w.imm12 % 32] else if b.low32 ≠ 0 then [w.dest.toNat] else [w.imm12 % 32]) = ks) :
    Emits (.opSteer w) s f w 0x00 (copies a (outTag w f.tag) ks) := by
  subst hk
  have hga : (gather s f w 0x00).a = a := (gather_a s f w (by decide)).trans ha
  have hgb : (gather s f w 0x00).b = b := (gather_b s f w (by decide)).trans hb
  refine ⟨_, _, rfl, rfl, rfl, ?_⟩
  dsimp only
  rw [hga, hgb]
  by_cases hp : b.poison = true
  · rw [if_pos hp, if_pos hp, gather_poison_of_b hb (by decide) hp]
    rfl
  · rw [if_neg hp, if_neg hp]
    by_cases hl : b.low32 ≠ 0
    · rw [if_pos hl, if_pos (show b.truth = true from bne_iff_ne.2 hl)]
      rfl
    · rw [if_neg hl, if_neg (show ¬b.truth = true from mt bne_iff_ne.1 hl)]
      rfl

theorem switch_emits (hp : b.poison = true ∨ b.low32 < w.imm12 % 64) {ks : List Nat}
    (hk : (if b.poison then (List.range (w.imm12 % 64)).map fun k => w.dest.toNat + k else [w.dest.toNat + b.low32]) = ks) :
    Emits (.opSwitch w) s f w 0x01 (copies a (outTag w f.tag) ks) := by
  subst hk
  have hga : (gather s f w 0x01).a = a := (gather_a s f w (by decide)).trans ha
  have hgb : (gather s f w 0x01).b = b := (gather_b s f w (by decide)).trans hb
  by_cases hpz : b.poison = true
  · refine ⟨_, _, rfl, if_pos (by rw [hgb]; exact hpz), rfl, ?_⟩
    rw [if_pos hpz, gather_poison_of_b hb (by decide) hpz, hga, copies, List.map_map, List.map_map]
    rfl
  · have hl : ¬w.imm12 % 64 ≤ b.low32 := Nat.not_le.2 (hp.resolve_left hpz)
    refine ⟨_, _, rfl, (if_neg (by rw [hgb]; exact hpz)).trans (if_neg (by rw [hgb]; exact hl)), rfl, ?_⟩
    rw [if_neg hpz, hga, hgb]
    rfl

end

/-! ### Tags, `brk`, `gwait` and `pwait` on no launch (R101 to R103, R110, R112, R205, R207) -/

section
include ha

theorem nextit_emits : Emits (.opNextit w) s f w 0x06
    (copies a (f.tag / 2 ^ 16 % 2 ^ 16 * 2 ^ 16 + (f.tag % 2 ^ 16 + w.imm12 % 256) % 2 ^ 16) [w.dest.toNat]) := by
  refine ⟨_, _, rfl, rfl, rfl, ?_⟩
  dsimp only
  rw [(gather_a s f w (by decide)).trans ha, ← tagStep_add]
  rfl

theorem pnop_emits : Emits (.opPnop w) s f w 0x0E (copies a (outTag w f.tag) [w.dest.toNat]) := by
  refine ⟨_, _, rfl, rfl, rfl, ?_⟩
  dsimp only
  rw [(gather_a s f w (by decide)).trans ha]
  rfl

theorem brk_emits (h : (getRegion s (rgnOf f.loc)).brken = false ∨ (getRegion s (rgnOf f.loc)).pass = some (f.loc.elem, f.slot, f.tag)) :
    Emits (.opBrk w) s f w 0x11 (copies a (outTag w f.tag) [w.dest.toNat]) := by
  have hgo : ¬((gather s f w 0x11).g.brken && !(gather s f w 0x11).passed) = true := by
    show ¬((getRegion s (rgnOf f.loc)).brken && !(getRegion s (rgnOf f.loc)).pass == some (f.loc.elem, f.slot, f.tag)) = true
    rcases h with h | h <;> simp [h]
  refine ⟨_, _, rfl, if_neg hgo, rfl, ?_⟩
  rw [(gather_a s f w (by decide)).trans ha]
  rfl

theorem pwait_emits (hn : nth (getElem s f.loc).ahead.consts f.slot 0 % 2 ^ 32 = 0) :
    Emits (.opPwait w) s f w 0xC4 (copies a (outTag w f.tag) [w.dest.toNat]) := by
  refine ⟨_, _, rfl, congrArg FireRes.go (if_pos hn), rfl, ?_⟩
  dsimp only
  rw [(gather_a s f w (by decide)).trans ha]
  rfl

include hb

theorem retag_emits : Emits (.opRetag w) s f w 0x05 (copies a
    (outTag w (if w.mod = 1 then b.low32 else f.tag / 2 ^ 16 % 2 ^ 16 * 2 ^ 16 + b.low32 % 2 ^ 16)) [w.dest.toNat]) := by
  refine ⟨_, _, rfl, rfl, rfl, ?_⟩
  dsimp only
  rw [(gather_a s f w (by decide)).trans ha, (gather_b s f w (by decide)).trans hb, tagCtx, bits, Nat.shiftRight_eq_div_pow]
  rfl

theorem ctxend_emits : Emits (.opCtxend w) s f w 0x08 (copies a (outTag w b.low32) [w.dest.toNat]) := by
  refine ⟨_, _, rfl, rfl, rfl, ?_⟩
  dsimp only
  rw [(gather_a s f w (by decide)).trans ha, (gather_b s f w (by decide)).trans hb]
  rfl

/-- `ctxend` sends its result under the caller's tag, and a free of its live copy to the home (R101). -/
theorem ctxend_issues (h : Chosen s f) : Issues (.opCtxend w) s f fun _ F =>
    F.sent = toEntry (getElem s f.loc).ahead w.dest.toNat { a.hdr with tag := outTag w b.low32 } a.payload ∧
      F.win = [.free (tagBody f.tag) (tagInst f.tag)] := by
  refine issues_go (opc := 0x08) h rfl fun t F hF => ⟨?_, hF.win⟩
  rw [toEntry_ahead]
  refine hF.sent_one _ _ _ (congrArg (· :: []) ?_)
  rw [(gather_a s f w (by decide)).trans ha, (gather_b s f w (by decide)).trans hb]
  exact forward_view ..

theorem gwait_emits : Emits (.opGwait w) s f w 0xC2 (copies (if w.src 1 = 31 then a else b) (outTag w f.tag) [w.dest.toNat]) := by
  refine ⟨_, _, rfl, rfl, rfl, ?_⟩
  have hcode : b.code = 31 ↔ w.src 1 = 31 := by rw [← hb]; exact operandAt_code ..
  dsimp only
  rw [(gather_a s f w (by decide)).trans ha, (gather_b s f w (by decide)).trans hb]
  by_cases hsrc : w.src 1 = 31
  · rw [if_pos hsrc, if_neg (by simpa using hcode.2 hsrc)]
    rfl
  · rw [if_neg hsrc, if_pos (by simpa using mt hcode.1 hsrc)]
    rfl

end

/-! ### `merge` (R98) -/

section
variable (h : Chosen s f) {x : Opd}
  (hx : operandAt (getRegion s (rgnOf f.loc)) (getElem s f.loc).ahead w f.slot f.tag (b2n f.mergeB) = x)
include h hx

theorem merge_sends : Sends (.opMerge w) s f w.dest.toNat { x.hdr with tag := outTag w f.tag } x.payload := by
  refine sends_go (opc := 0x02) h rfl ?_
  show [plainView _] = _
  dsimp only
  rw [show (if (gather s f w 0x02).mergeB then _ else _) = x from gather_merge.trans hx]
  exact congrArg (fun q => [(w.dest.toNat, x.payload, q)]) (withSeq_plain _ _)

/-- `merge` passes its operand's poison on, with its fault index. -/
theorem merge_marks (hb : (getElem s f.loc).ahead.badWords = []) :
    Issues (.opMerge w) s f fun _ F => ∀ y ∈ F.outs, y.tok.hdr.poison = x.hdr.poison ∧ y.tok.hdr.fidx = x.hdr.fidx := by
  refine issues_go (opc := 0x02) h rfl fun t F hF y hmem => ?_
  have hy : y.mark ∈ F.outs.map OutTok.mark := List.mem_map_of_mem hmem
  rw [hF.marks hb rfl] at hy
  dsimp only at hy
  rw [show (if (gather s f w 0x02).mergeB then _ else _) = x from gather_merge.trans hx] at hy
  simp only [List.flatMap_cons, List.flatMap_nil, List.append_nil, List.mem_map, OutTok.mark, Prod.mk.injEq, markOf, withSeq_poison,
    withSeq_fidx] at hy
  obtain ⟨-, -, -, hp, hfx⟩ := hy
  exact ⟨hp.symm, hfx.symm⟩

end

/-! ### `cmerge` (R99) -/

section
variable {c : Opd} (hc : operandAt (getRegion s (rgnOf f.loc)) (getElem s f.loc).ahead w f.slot f.tag 2 = c)
  (hs : w.src 2 = 0) (ht : c.tok.isSome = true)
include hc

theorem gather_cmerge_c : (gather s f w 0x03).c = c := (gather_cmerge s f w).trans hc

include hs ht

section
variable (hp : c.poison = true)
include hp

theorem gather_cmerge_all {p : Nat} (h : p < 3) :
    (gather s f w 0x03).opd p = operandAt (getRegion s (rgnOf f.loc)) (getElem s f.loc).ahead w f.slot f.tag p := by
  refine gather_taken h ?_
  rw [takes_cmerge hc hs ht, if_pos hp]
  match p with
  | 0 | 1 | 2 => rfl

include ha hb

/-- Behind a poisoned control all three operands count. -/
theorem gather_cmerge_poisoned : (gather s f w 0x03).a = a ∧ (gather s f w 0x03).b = b ∧ (gather s f w 0x03).poison = true ∧
    (gather s f w 0x03).fidx = candFidx s f w := by
  have hga := gather_cmerge_all hc hs ht hp (p := 0) (by decide)
  have hgb := gather_cmerge_all hc hs ht hp (p := 1) (by decide)
  have hgp : (gather s f w 0x03).poison = true := by
    rw [FireIn.poison, gather_cmerge_c hc, hp, Bool.or_true]
  refine ⟨hga.trans ha, hgb.trans hb, hgp, ?_⟩
  rw [FireIn.fidx_of_poison hgp, show (gather s f w 0x03).a = _ from hga, show (gather s f w 0x03).b = _ from hgb, gather_cmerge]
  rfl

/-- What `cmerge` emits behind a poisoned control: what is there, or zeros. -/
theorem cmerge_poisoned_emits {l : List (Nat × Hdr × Nat)} (hl : (
    if a.tok.isSome then copies a (outTag w f.tag) [w.dest.toNat]
    else if b.tok.isSome then copies b (outTag w f.tag) [w.dest.toNat]
    else [(w.dest.toNat, edgeHdr (edgeKind (getRegion s (rgnOf f.loc)) (getElem s f.loc).ahead f.slot 0) (outTag w f.tag), 0)]) = l) :
    Emits (.opCmerge w) s f w 0x03 l := by
  subst hl
  obtain ⟨hga, hgb, hgp, -⟩ := gather_cmerge_poisoned ha hb hc hs ht hp
  refine ⟨_, _, rfl, congrArg FireRes.go (if_pos (by rw [gather_cmerge_c hc]; exact hp)), rfl, ?_⟩
  dsimp only
  rw [hga, hgb, hgp]
  split
  · rfl
  · split <;> rfl

theorem cmerge_poisoned_marks (h : Chosen s f) (hbad : (getElem s f.loc).ahead.badWords = []) :
    Marks (.opCmerge w) s f true (candFidx s f w) := by
  have hm := (cmerge_poisoned_emits ha hb hc hs ht hp rfl).marks h hbad
  obtain ⟨-, -, hgp, hfx⟩ := gather_cmerge_poisoned ha hb hc hs ht hp
  rwa [hgp, hfx] at hm

/-- A poisoned control marks each side that is not there as an orphan. -/
theorem cmerge_orphans (h : Chosen s f) (hn : a.tok = none ∨ b.tok = none) : Issues (.opCmerge w) s f fun t _ =>
    ∃ m ∈ (getElem t f.loc).sets, m.slot = f.slot ∧ m.tag = f.tag ∧ m.orphan = b2n a.tok.isNone + 2 * b2n b.tok.isNone := by
  obtain ⟨hga, hgb, -⟩ := gather_cmerge_poisoned ha hb hc hs ht hp
  refine issues_ended _ h rfl (congrArg FireRes.go (if_pos (by rw [gather_cmerge_c hc]; exact hp))) fun t F _ hE => ?_
  have hmarks := hE.marks
  dsimp only at hmarks
  rw [hga, hgb] at hmarks
  obtain ⟨m, hm, hname⟩ := List.mem_map.1 (hmarks (by rcases hn with hn | hn <;> simp [hn, b2n]))
  rw [MSet.name, Prod.mk.injEq, Prod.mk.injEq] at hname
  exact ⟨m, hm, hname⟩

end

section
variable (hp : c.poison = false)
include hp

include ha hb

/-- Of a and b the firing reads the side that the control selects. -/
theorem gather_cmerge_sides : (gather s f w 0x03).a = (if c.low32 ≠ 0 then a else {}) ∧
    (gather s f w 0x03).b = if c.low32 ≠ 0 then {} else b := by
  have htakes := (takes_cmerge hc hs ht).trans (if_neg (ne_true_of_eq_false hp))
  by_cases hl : c.low32 ≠ 0
  · rw [if_pos (show c.truth = true from bne_iff_ne.2 hl)] at htakes
    rw [if_pos hl, if_pos hl]
    exact ⟨(gather_taken (p := 0) (by decide) (by rw [htakes]; rfl)).trans ha,
      gather_untaken (p := 1) (by decide) (by rw [htakes]; rfl)⟩
  · rw [if_neg (show ¬c.truth = true from mt bne_iff_ne.1 hl)] at htakes
    rw [if_neg hl, if_neg hl]
    exact ⟨gather_untaken (p := 0) (by decide) (by rw [htakes]; rfl),
      (gather_taken (p := 1) (by decide) (by rw [htakes]; rfl)).trans hb⟩

variable {x : Opd} (hx : (if c.low32 ≠ 0 then a else b) = x)
include hx

theorem gather_cmerge_poison : (gather s f w 0x03).poison = x.poison ∧ (x.poison = true → (gather s f w 0x03).fidx = x.hdr.fidx) := by
  obtain ⟨hga, hgb⟩ := gather_cmerge_sides ha hb hc hs ht hp
  by_cases hl : c.low32 ≠ 0
  · rw [if_pos hl] at hga hgb hx
    have hgp : (gather s f w 0x03).poison = x.poison := by
      rw [FireIn.poison, hga, hgb, gather_cmerge_c hc, hp, hx, Bool.or_false]
      exact Bool.or_false _
    refine ⟨hgp, fun hpx => ?_⟩
    rw [FireIn.fidx_of_poison (hgp.trans hpx), hga, hx]
    exact if_pos hpx
  · rw [if_neg hl] at hga hgb hx
    have hgp : (gather s f w 0x03).poison = x.poison := by
      rw [FireIn.poison, hga, hgb, gather_cmerge_c hc, hp, hx, Bool.or_false]
      exact Bool.false_or _
    refine ⟨hgp, fun hpx => ?_⟩
    rw [FireIn.fidx_of_poison (hgp.trans hpx), hga, hgb, hx]
    exact (if_neg (by decide)).trans (if_pos hpx)

theorem cmerge_clean_emits : Emits (.opCmerge w) s f w 0x03 (copies x (outTag w f.tag) [w.dest.toNat]) := by
  obtain ⟨hga, hgb⟩ := gather_cmerge_sides ha hb hc hs ht hp
  obtain ⟨hgp, -⟩ := gather_cmerge_poison ha hb hc hs ht hp hx
  have hgc := gather_cmerge_c hc
  have hclean : ¬(gather s f w 0x03).c.poison = true := by rw [hgc, hp]; decide
  by_cases hl : c.low32 ≠ 0
  · have htrue : (gather s f w 0x03).c.truth = true := by rw [hgc]; exact bne_iff_ne.2 hl
    rw [if_pos hl] at hga hx
    refine ⟨_, _, rfl, congrArg FireRes.go ((if_neg hclean).trans (if_pos htrue)), rfl, ?_⟩
    dsimp only
    rw [hgp, hga, hx]
    rfl
  · have hfalse : ¬(gather s f w 0x03).c.truth = true := by rw [hgc]; exact mt bne_iff_ne.1 hl
    rw [if_neg hl] at hgb hx
    refine ⟨_, _, rfl, congrArg FireRes.go ((if_neg hclean).trans (if_neg hfalse)), rfl, ?_⟩
    dsimp only
    rw [hgp, hgb, hx]
    rfl

theorem cmerge_clean_marks (h : Chosen s f) (hbad : (getElem s f.loc).ahead.badWords = []) :
    Marks (.opCmerge w) s f x.poison x.hdr.fidx := by
  obtain ⟨hgp, hfx⟩ := gather_cmerge_poison ha hb hc hs ht hp hx
  have hm := (cmerge_clean_emits ha hb hc hs ht hp hx).marks h hbad
  rw [hgp] at hm
  exact hm.congr hfx

end

end

/-! ### `pwait` on a launch (R207, R330) -/

section
variable {n : Nat} (hn : nth (getElem s f.loc).ahead.consts f.slot 0 % 2 ^ 32 = n) (h0 : n ≠ 0) (h : Chosen s f)
include hn h0 h

/-- A `pwait` on a launch hands its token to the port, and sends nothing. -/
theorem pwait_waits (ha : operandAt (getRegion s (rgnOf f.loc)) (getElem s f.loc).ahead w f.slot f.tag 0 = a) :
    Issues (.opPwait w) s f fun _ F => F.sent = [] ∧ ∃ A x, F.access = some A ∧ A.op = 0xC4 ∧ A.desc = n ∧
      A.a = some x ∧ x.payload = a.payload ∧ x.hdr.plain = { a.hdr with tag := outTag w f.tag }.plain ∧
      A.dest = destChans (getElem s f.loc).ahead w.dest.toNat ∧
      ((getElem s f.loc).ahead.badWords = [] → A.poison = candPoison s f w) := by
  subst hn
  have hga : (gather s f w 0xC4).a = a := (gather_a s f w (by decide)).trans ha
  refine issues_ended _ h rfl (congrArg FireRes.go (if_neg h0)) fun t F hF hE => ⟨hF.sent_eq _ rfl, ?_⟩
  obtain ⟨A, hA, hplain⟩ := Option.map_eq_some_iff.1 hF.access
  have hview := emit_view (gather s f w 0xC4) w.dest.toNat { a.hdr with tag := outTag w f.tag } a.payload (gather s f w 0xC4).poison
  have hget {β : Type} (p : Access → β) := congrArg p hplain
  refine ⟨A, _, hA, hget (·.op), hget (·.desc), hget (·.a), ?_, ?_, hget (·.dest), fun hbad => ?_⟩
  · rw [hga]
    rfl
  · rw [hga]
    exact congrArg (fun q => q.2.2) hview
  · have hacc := hE.access
    rw [judged_clean (i := gather s f w 0xC4) hbad rfl, hA] at hacc
    exact (congrArg Access.poison (Option.some_inj.1 hacc)).trans (gather_poison s f w (by decide))

theorem pwait_waits_marks (p : Bool) (x : Nat) : Marks (.opPwait w) s f p x := by
  subst hn
  refine issues_of _ h rfl (congrArg FireRes.go (if_neg h0)) fun t F hF y hy => ?_
  have hsent : F.sent = [] := hF.sent_eq _ rfl
  rw [List.map_eq_nil_iff.1 hsent] at hy
  cases hy

end

end

end Sys2Proof.Machine

open Sys2Proof Sys2Proof.Machine

/-- Settles O26: each operation emits copies of its data operand with its operands' poison; `merge` and `cmerge` of the operand
that they take. -/
theorem forwardedTokens : Obligations.ForwardedTokens := by
  unfold Obligations.ForwardedTokens
  intro s f w h e g a b c T d sends
  have hx : operandAt g e w f.slot f.tag (b2n f.mergeB) = if f.mergeB then b else a := by cases f.mergeB <;> rfl
  refine ⟨fun hp hl => (steer_emits rfl rfl ((if_neg (ne_true_of_eq_false hp)).trans (if_pos hl))).sends h,
    fun hp hl => (steer_emits rfl rfl ((if_neg (ne_true_of_eq_false hp)).trans (if_neg (not_not.2 hl)))).sends h, fun hp => ?_,
    fun hp hl => (switch_emits rfl rfl (.inr hl) (if_neg (ne_true_of_eq_false hp))).sends h, fun hp => ?_, merge_sends h hx,
    fun h0 h1 h2 hc => ⟨fun hp => (cmerge_clean_emits rfl rfl rfl h2 hc hp rfl).sends h, fun hp ha => ?_, fun hp ha hb => ?_,
      fun hp ha hb => ?_⟩,
    (retag_emits rfl rfl).sends h, (nextit_emits rfl).sends h, ?_, (pnop_emits rfl).sends h, fun hg => (brk_emits rfl hg).sends h,
    (gwait_emits rfl rfl).sends h, ⟨fun hn => (pwait_emits rfl hn).sends h, fun hn => pwait_waits rfl hn h rfl⟩,
    fun hbad => ⟨(steer_emits rfl rfl rfl).marks_cand (by decide) h hbad,
      fun hg => (switch_emits rfl rfl hg rfl).marks_cand (by decide) h hbad, (retag_emits rfl rfl).marks_cand (by decide) h hbad,
      (nextit_emits rfl).marks_cand (by decide) h hbad, (ctxend_emits rfl rfl).marks_cand (by decide) h hbad,
      (pnop_emits rfl).marks_cand (by decide) h hbad, (gwait_emits rfl rfl).marks_cand (by decide) h hbad, ?_,
      fun hg => (brk_emits rfl hg).marks_cand (by decide) h hbad, merge_marks h hx hbad, fun h0 h1 h2 hc =>
        ⟨fun hp hl => cmerge_clean_marks rfl rfl rfl h2 hc hp (if_pos hl) h hbad,
          fun hp hl => cmerge_clean_marks rfl rfl rfl h2 hc hp (if_neg (not_not.2 hl)) h hbad,
          fun hp => cmerge_poisoned_marks rfl rfl rfl h2 hc hp h hbad⟩⟩,
    fun h0 h1 h2 hc hp hn => cmerge_orphans rfl rfl rfl h2 hc hp h hn⟩
  · refine ((steer_emits rfl rfl (if_pos hp)).issues h).mono fun t F hF => hF.trans ?_
    rw [toEntry_ahead, toEntry_ahead]
    exact congrArg (_ ++ ·) (List.append_nil _)
  · refine ((switch_emits rfl rfl (.inl hp) (if_pos hp)).issues h).mono fun t F hF => hF.trans ?_
    rw [copies, List.map_map, List.flatMap_map]
    exact List.flatMap_congr fun k _ => (toEntry_ahead ..).symm
  · exact (cmerge_poisoned_emits rfl rfl rfl h2 hc hp (if_pos ha)).sends h
  · exact (cmerge_poisoned_emits rfl rfl rfl h2 hc hp ((if_neg (by rw [ha]; decide)).trans (if_pos hb))).sends h
  · exact (cmerge_poisoned_emits rfl rfl rfl h2 hc hp
      ((if_neg (by rw [ha]; decide)).trans (if_neg (by rw [hb]; decide)))).sends h
  · exact ctxend_issues rfl rfl h
  · by_cases hn : nth e.consts f.slot 0 % 2 ^ 32 = 0
    · exact (pwait_emits rfl hn).marks_cand (by decide) h hbad
    · exact pwait_waits_marks rfl hn h _ _

end

section
/-! SUPPORT. Gauges, `psig`, the near-memory operations `filt` and `cmpct`, and `sort2` (spec/04: R113; spec/08: R202 to R206). -/

namespace Sys2Proof.Machine

/-! ### Gauges (R204, R205) -/

/-- While TARGET is above 0 and COUNT reaches it, COUNT goes down by TARGET and GEN up by 1. -/
theorem Gauge.step_counts (c : Gauge) : c.step.target = c.target ∧ (c.target = 0 → c.step = c) ∧
    (c.target ≠ 0 → c.step.count < c.target ∧ ∃ k, c.count = k * c.target + c.step.count ∧ c.step.gen = (c.gen + k) % 2 ^ 32) := by
  unfold Gauge.step
  by_cases h : c.target = 0
  · rw [if_pos h]
    exact ⟨rfl, fun _ => rfl, fun h' => absurd h h'⟩
  · rw [if_neg h]
    exact ⟨rfl, fun h' => absurd h' h, fun _ => ⟨Nat.mod_lt _ (Nat.pos_of_ne_zero h), c.count / c.target, (Nat.div_add_mod' _ _).symm, rfl⟩⟩

/-! ### Rows put one behind another -/

theorem packLanes_append (w : Nat) (l : List Nat) (x : Nat) : packLanes w (l ++ [x]) = packLanes w l + 2 ^ (w * l.length) * (x % 2 ^ w) := by
  induction l with
  | nil => simp [packLanes]
  | cons y l ih =>
    rw [List.cons_append, packLanes, ih, packLanes, List.length_cons, Nat.mul_succ, Nat.add_comm (w * l.length), Nat.pow_add]
    ring

theorem byteRange_lane (x n rb : Nat) : byteRange x (n * rb) rb = lane (8 * rb) x n := by
  rw [byteRange, lane, Nat.mul_left_comm]

/-- Bytes written behind all that a value holds. -/
theorem setByteRange_behind {x off : Nat} (n v : Nat) (h : x < 2 ^ (8 * off)) :
    setByteRange x off n v = x + 2 ^ (8 * off) * (v % 2 ^ (8 * n)) := by
  have habove : x >>> (8 * (off + n)) = 0 := by
    rw [Nat.shiftRight_eq_div_pow]
    exact Nat.div_eq_of_lt (h.trans_le (Nat.pow_le_pow_right (by decide) (by omega)))
  rw [setByteRange, habove, Nat.mod_eq_of_lt h, Nat.mul_zero, Nat.add_zero]

/-- Rows of rb bytes, each moved up behind those before it, are the rows packed. -/
theorem foldl_rows (p rb : Nat) (rows : List Nat) :
    rows.zipIdx.foldl (fun v q => setByteRange v (q.2 * rb) rb (byteRange p (q.1 * rb) rb)) 0 =
      packLanes (8 * rb) (rows.map fun row => byteRange p (row * rb) rb) := by
  induction rows using List.reverseRecOn with
  | nil => rfl
  | append_singleton rows row ih =>
    have hlt := packLanes_lt (8 * rb) (rows.map fun row => byteRange p (row * rb) rb)
    have hoff : 8 * (rows.length * rb) = 8 * rb * rows.length := by ring
    rw [List.length_map, ← hoff] at hlt
    rw [List.zipIdx_append, List.foldl_append, ih, List.map_append, List.map_singleton, packLanes_append, List.length_map]
    show setByteRange _ ((0 + rows.length) * rb) rb _ = _
    rw [Nat.zero_add, setByteRange_behind _ _ hlt, hoff]

/-- The rows that a test keeps stand in order, and nothing behind them. -/
theorem keepRows_rows (i : FireIn) (test : Nat → Bool) {t : Token} (ht : i.a.tok = some t) :
    let rb := t.hdr.tcols * fmtWidth t.hdr.fmt / 8
    let rows := (List.range t.hdr.vrows).filter test
    (∀ n row, rows[n]? = some row → byteRange (keepRows i test).2 (n * rb) rb = byteRange t.payload (row * rb) rb) ∧
      (keepRows i test).2 < 2 ^ (8 * (rows.length * rb)) := by
  intro rb rows
  have hdata : i.a.data = t := by unfold Opd.data; rw [ht]; rfl
  have hbuf : (keepRows i test).2 = packLanes (8 * rb) (rows.map fun row => byteRange t.payload (row * rb) rb) := by
    unfold keepRows Opd.hdr
    dsimp only
    rw [hdata]
    exact foldl_rows _ _ _
  rw [hbuf]
  refine ⟨fun n row hn => ?_, ?_⟩
  · rw [byteRange_lane, lane_packLanes_of_getElem? (v := byteRange t.payload (row * rb) rb) (by rw [List.getElem?_map, hn]; rfl)]
    exact Nat.mod_mod _ _
  · have hlt := packLanes_lt (8 * rb) (rows.map fun row => byteRange t.payload (row * rb) rb)
    rwa [List.length_map, show 8 * rb * rows.length = 8 * (rows.length * rb) by ring] at hlt

/-! ### The operations -/

section
variable {s : State} {f : Focus} {w : OpWord}

theorem ack_sent {t : State} {F : Firing} {opc : Nat} {o : FireOut} (hF : Fired s t f (gather s f w opc) o F)
    (ho : o.outs = [(gather s f w opc).ack 0]) :
    F.sent = toEntry (getElem s f.loc).ahead w.dest.toNat { tag := outTag w f.tag, kind := 2 } 0 := by
  rw [toEntry_ahead]
  exact hF.sent_one _ _ _ (by rw [ho]; exact congrArg (· :: []) (ack_view _ _))

variable (h : Chosen s f)
include h

/-- A gauge operation acks, and hands its change to the commit unless an operand is poisoned (R205). -/
theorem gauge_issues {i : Instr} {opc : Nat} {op : FireIn → GaugeOp} {x : GaugeOp} (hopc : opc ≠ 2 ∧ opc ≠ 3)
    (he : exec i s = .next (fireGo s w opc fun q => gaugeFire q (op q))) (hx : op (gather s f w opc) = x) : Issues i s f fun _ F =>
      F.sent = toEntry (getElem s f.loc).ahead w.dest.toNat { tag := outTag w f.tag, kind := 2 } 0 ∧
      F.gauge = if candPoison s f w then [] else [x] := by
  refine issues_go h he fun t F hF => ⟨ack_sent hF rfl, hF.gauge.trans ?_⟩
  rw [← hx, ← gather_poison s f w hopc]
  rfl

theorem psig_issues : Issues (.opPsig w) s f fun _ F =>
    F.sent = toEntry (getElem s f.loc).ahead w.dest.toNat { tag := outTag w f.tag, kind := 2 } 0 ∧
      F.signal = some (nth (getElem s f.loc).ahead.consts f.slot 0 % 16) :=
  issues_go (opc := 0xC3) h rfl fun _ _ hF => ⟨ack_sent hF rfl, hF.signal⟩

/-- A near-memory operation hands on a tile of the rows that its test keeps (R202). -/
theorem near_issues {i : Instr} {opc : Nat} {m : FireIn → FireOut} {kept test : Nat → Bool} {t : Token}
    (hopc : opc ≠ 2 ∧ opc ≠ 3)
    (he : exec i s = .next (fireGo s w opc m)) (ho : (m (gather s f w opc)).outs = [])
    (hacc : (m (gather s f w opc)).access = (nearFire (gather s f w opc) (keepRows (gather s f w opc) kept) fNone).access) (hkept : kept = test)
    (ht : (operandAt (getRegion s (rgnOf f.loc)) (getElem s f.loc).ahead w f.slot f.tag 0).tok = some t) :
    let rb := t.hdr.tcols * fmtWidth t.hdr.fmt / 8
    let rows := (List.range t.hdr.vrows).filter test
    Issues i s f fun _ F => F.sent = [] ∧ ∃ A, F.access = some A ∧ A.begun = true ∧
      A.dest = destChans (getElem s f.loc).ahead w.dest.toNat ∧
      A.hdr.vrows = rows.length ∧ A.hdr.trows = t.hdr.trows ∧ A.hdr.tcols = t.hdr.tcols ∧ A.hdr.vcols = t.hdr.vcols ∧
      A.hdr.tag = outTag w f.tag ∧ A.hdr.fmt = t.hdr.fmt ∧
      (∀ n row, rows[n]? = some row → byteRange A.buf (n * rb) rb = byteRange t.payload (row * rb) rb) ∧
      A.buf < 2 ^ (8 * (rows.length * rb)) := by
  subst hkept
  intro rb rows
  have hga : (gather s f w opc).a.tok = some t := by rw [gather_a s f w hopc]; exact ht
  have hhdr : (gather s f w opc).a.hdr = t.hdr := by unfold Opd.hdr Opd.data; rw [hga]; rfl
  obtain ⟨hrows, hlast⟩ := keepRows_rows (gather s f w opc) kept hga
  refine issues_go h he fun u F hF => ⟨hF.sent_eq _ (congrArg _ ho), ?_⟩
  have haccess := hF.access
  rw [hacc] at haccess
  obtain ⟨A, hA, hplain⟩ := Option.map_eq_some_iff.1 haccess
  have hget {β : Type} (p : Access → β) := congrArg p hplain
  have hbuf : A.buf = (keepRows (gather s f w opc) kept).2 := hget (·.buf)
  refine ⟨A, hA, hget (·.begun), hget (·.dest), (hget (·.hdr.vrows)).trans ?_, (hget (·.hdr.trows)).trans (congrArg (·.trows) hhdr),
    (hget (·.hdr.tcols)).trans (congrArg (·.tcols) hhdr), (hget (·.hdr.vcols)).trans (congrArg (·.vcols) hhdr), hget (·.hdr.tag),
    (hget (·.hdr.fmt)).trans (congrArg (·.fmt) hhdr), ?_, ?_⟩
  · exact congrArg (fun q : Hdr => ((List.range q.vrows).filter kept).length) hhdr
  · rw [hbuf]
    exact hrows
  · rw [hbuf]
    exact hlast

section
variable {a b : Opd} {k st : Nat}
  (ha : operandAt (getRegion s (rgnOf f.loc)) (getElem s f.loc).ahead w f.slot f.tag 0 = a)
  (hb : operandAt (getRegion s (rgnOf f.loc)) (getElem s f.loc).ahead w f.slot f.tag 1 = b)
  (hk : nth (getElem s f.loc).ahead.consts f.slot 0 = k) (hst : nth (getElem s f.loc).ahead.states f.slot 0 = st)
include ha hk

theorem sort2_stops (hbig : bits k 21 16 < beatsOf a.hdr) : Stops (.opSort2 w) s f { cause := 0x02 } := by
  subst ha hk
  refine stops_of (opc := 0x0D) h rfl (if_pos ?_)
  rw [gather_a s f w (by decide)]
  exact hbig

include hb hst

/-- `sort2` counts its record on the sides that its control names, and passes it to the port (R113). -/
theorem sort2_issues (hfits : beatsOf a.hdr ≤ bits k 21 16) {toT toF : Bool} (hT : (b.poison || b.low32 != 0) = toT)
    (hF : (b.poison || b.low32 == 0) = toF) : Issues (.opSort2 w) s f fun _ F => F.sent = [] ∧
      (∃ x, F.st = some x ∧ x % 2 ^ 32 = (st + b2n toT) % 2 ^ 32 ∧ x / 2 ^ 32 = (st / 2 ^ 32 + b2n toF) % 2 ^ 32) ∧
      ∃ A, F.access = some A ∧ A.op = 0x0D ∧ A.mod = b2n toT + 2 * b2n toF ∧ A.state = st ∧ A.desc = k ∧
        A.stream = w.imm12 / 64 % 64 := by
  subst ha hk hst
  have hgb : (gather s f w 0x0D).b = b := (gather_b s f w (by decide)).trans hb
  have hgT : ((gather s f w 0x0D).b.poison || (gather s f w 0x0D).b.truth) = toT := by rw [hgb]; exact hT
  have hgF : ((gather s f w 0x0D).b.poison || !(gather s f w 0x0D).b.truth) = toF := by
    rw [hgb, ← hF, Opd.truth, bne, Bool.not_not]
  refine issues_of (opc := 0x0D) _ h rfl (if_neg ?_) fun t F hFd => ⟨hFd.sent_eq _ rfl, ⟨_, hFd.st, ?_, ?_⟩, ?_⟩
  · rw [gather_a s f w (by decide)]
    exact Nat.not_lt.2 hfits
  · rw [hgT, Nat.add_mul_mod_self_right, Nat.mod_mod, Nat.mod_add_mod]
    rfl
  · rw [hgF, Nat.add_mul_div_right _ _ (by decide), Nat.div_eq_of_lt (Nat.mod_lt _ (by decide)), Nat.zero_add]
    rfl
  · obtain ⟨A, hA, hplain⟩ := Option.map_eq_some_iff.1 hFd.access
    have hget {β : Type} (p : Access → β) := congrArg p hplain
    refine ⟨A, hA, hget (·.op), (hget (·.mod)).trans ?_, hget (·.state), hget (·.desc), hget (·.stream)⟩
    rw [← hgT, ← hgF]
    rfl

end

end

end Sys2Proof.Machine

open Sys2Proof Sys2Proof.Machine

/-- Settles O40: gauge operations by their one firing, `filt` and `cmpct` by the rows that they keep, `sort2` by its sides, and a
gauge by division of COUNT by TARGET. -/
theorem gaugeAndNear : Obligations.GaugeAndNear := by
  unfold Obligations.GaugeAndNear
  refine ⟨fun s f w h => ?_, fun g n v => ⟨Gauge.step_counts _, rfl, Gauge.step_counts _⟩⟩
  intro e g r fm a b pz k st v ack gauges keeps
  have hval {opc : Nat} (ho : opc ≠ 2 ∧ opc ≠ 3) : (gather s f w opc).gaugeVal = v := by
    unfold FireIn.gaugeVal
    rw [gather_a s f w ho]
  refine ⟨fun hm => ?_, fun hm => ?_, ?_, psig_issues h, fun t ht => ?_, fun t ht => ?_, fun hfits => ?_, sort2_stops h rfl rfl⟩
  · exact gauge_issues h (opc := 0xC0) (by decide) rfl ((if_neg hm).trans (congrArg _ (hval (by decide))))
  · exact gauge_issues h (opc := 0xC0) (by decide) rfl ((if_pos hm).trans (congrArg _ (hval (by decide))))
  · exact gauge_issues h (opc := 0xC1) (by decide) rfl (congrArg _ (hval (by decide)))
  · refine near_issues h (opc := 0xC6) (by decide) rfl rfl rfl ?_ ht
    rw [gather_b s f w (opc := 0xC6) (by decide)]
  · refine near_issues h (opc := 0xC5) (by decide) rfl rfl rfl ?_ ht
    funext row
    dsimp only
    rw [apply_ite Prod.fst, gather_a s f w (opc := 0xC5) (by decide), gather_b s f w (opc := 0xC5) (by decide)]
    rfl
  · exact sort2_issues h rfl rfl rfl rfl hfits rfl rfl

end

section
/-! SUPPORT. Operations on bits, lane by lane (spec/05: R118, R127, R129 to R131, R139, R140). -/

namespace Sys2Proof.Machine

/-! ### Bit counts (R131) -/

/-- `popc` counts the bits one by one. -/
theorem popcount_eq_sum (n x : Nat) : popcount n x = ((List.range n).map fun j => b2n (bit x j)).sum := by
  induction n generalizing x with
  | zero => rfl
  | succ n ih =>
    have h0 : b2n (bit x 0) = x % 2 := by
      rcases Nat.mod_two_eq_zero_or_one x with h | h <;> simp [b2n, bit, h]
    have hs (j : Nat) : bit x (j + 1) = bit (x / 2) j := Nat.testBit_succ x j
    simp only [popcount, ih, List.range_succ_eq_map, List.map_cons, List.map_map, List.sum_cons, h0, Function.comp_def,
      Nat.succ_eq_add_one, hs]

/-- A set top bit has no zeros above it. -/
theorem leadingZeros_succ_of_bit {w x : Nat} (h : bit x w = true) : leadingZeros (w + 1) x = 0 := by
  have hm : x % 2 ^ (w + 1) = x % 2 ^ w + 2 ^ w := by
    have hq : x / 2 ^ w % 2 = 1 := by simpa [bit, Nat.testBit_eq_decide_div_mod_eq] using h
    rw [Nat.mod_pow_succ, hq, Nat.mul_one]
  have hlt : x % 2 ^ w < 2 ^ w := Nat.mod_lt _ (Nat.two_pow_pos w)
  have hlog : (x % 2 ^ w + 2 ^ w).log2 = w := (Nat.log2_eq_iff (by omega)).2 ⟨by omega, by rw [Nat.pow_succ]; omega⟩
  rw [leadingZeros, hm, if_neg (by omega), hlog]
  omega

/-- A clear top bit is one more zero. -/
theorem leadingZeros_succ_of_not_bit {w x : Nat} (h : bit x w = false) : leadingZeros (w + 1) x = leadingZeros w x + 1 := by
  have hm : x % 2 ^ (w + 1) = x % 2 ^ w := by
    have hq : x / 2 ^ w % 2 = 0 := by simpa [bit, Nat.testBit_eq_decide_div_mod_eq] using h
    rw [Nat.mod_pow_succ, hq, Nat.mul_zero, Nat.add_zero]
  rw [leadingZeros, leadingZeros, hm]
  split
  · rfl
  · next h0 =>
    have hlog : (x % 2 ^ w).log2 < w := (Nat.log2_lt h0).2 (Nat.mod_lt _ (Nat.two_pow_pos w))
    omega

/-- `clz` counts the zeros from the top bit downwards. -/
theorem leadingZeros_eq_length (w x : Nat) : leadingZeros w x = ((List.range w).reverse.takeWhile fun j => !bit x j).length := by
  induction w with
  | zero => simp [leadingZeros, Nat.mod_one]
  | succ w ih =>
    rw [List.range_succ, List.reverse_append, List.reverse_singleton, List.singleton_append]
    cases h : bit x w with
    | false => rw [leadingZeros_succ_of_not_bit h, ih, List.takeWhile_cons_of_pos (by simp [h]), List.length_cons]
    | true => rw [leadingZeros_succ_of_bit h, List.takeWhile_cons_of_neg (by simp [h]), List.length_nil]

/-! ### The control of `sel` (R127) -/

section
variable {i : FireIn} {t : Token} (k : Nat)

theorem selects_of_const_scalar (hc : i.c.tok = none) (hv : i.w.shape ≠ 2) : i.selects k = true ↔ i.c.low32 ≠ 0 := by
  simp [FireIn.selects, FireIn.vec, hc, hv]

theorem selects_of_const_vector (hc : i.c.tok = none) (hv : i.w.shape = 2) :
    i.selects k = true ↔ i.c.cell i.fmt.width k ≠ 0 := by
  simp [FireIn.selects, FireIn.vec, hc, hv]

theorem selects_of_scalar_token (hc : i.c.tok = some t) (hp : t.hdr.pkind ≠ 2) : i.selects k = true ↔ i.c.low32 ≠ 0 := by
  simp [FireIn.selects, hc, hp]

theorem selects_of_vector_token (hc : i.c.tok = some t) (hp : t.hdr.pkind = 2) :
    i.selects k = true ↔ lane i.fmt.width t.payload k ≠ 0 := by
  simp [FireIn.selects, hc, hp]

end

/-! ### Firings on bits (R118) -/

/-- Lanes that agree in the bits of their width are sent alike. -/
theorem SendsFlagged.congr_mod {i : Instr} {s : State} {f : Focus} {w : OpWord} {hd : Hdr} {wd n : Nat} {u v : Nat → Nat} {fl : Nat → Flags}
    (hS : SendsFlagged i s f w hd wd n u fl) (huv : ∀ k, u k % 2 ^ wd = v k % 2 ^ wd) : SendsFlagged i s f w hd wd n v fl := by
  obtain ⟨hsends, hflags⟩ := hS
  exact ⟨hsends.mono fun _ _ ⟨p, hsent, hlanes⟩ => ⟨p, hsent, fun k hk => (hlanes k hk).trans (huv k)⟩, hflags⟩

/-- Settles O31, operation by operation: a lane is the operation on the bits of the operands' lanes, and no lane raises a flag. -/
theorem bitLanes : Obligations.BitLanes := by
  intro s f w h e g fm wd n c x cnt mask hd gives
  have sends {i : Instr} {opc : Nat} {lat : FireIn → Nat} {op : FireIn → Nat → Nat → Nat → Nat → Nat} {v : Nat → Nat}
      (he : exec i s = .next (fireGo s w opc fun i => bitFire i (lat i) (op i))) (ho : opc ≠ 2 ∧ opc ≠ 3)
      (hv : ∀ k, op (gather s f w opc) k (x 0 k) (x 1 k) (x 2 k) = v k) : gives i v :=
    sendsFlagged_go h he ho (laneHdr_gather s f w ho _) rfl (laneCount_gather s f w opc _) fun k => congrArg (·, fNone) (hv k)
  have sel {p : Nat → Prop} [DecidablePred p] (hp : ∀ k, (gather s f w 0x29).selects k = true ↔ p k) :
      gives (.opSel w) fun k => if p k then x 0 k else x 1 k :=
    sends rfl (by decide) fun k => if_congr (hp k) rfl rfl
  have hc : (gather s f w 0x29).c = c := gather_c s f w (by decide)
  have hcell (k : Nat) : (gather s f w 0x29).c.cell (gather s f w 0x29).fmt.width k = x 2 k := congrArg (·.cell wd k) hc
  refine ⟨?and, ?or, ?xor, ?not, ?shl, ?shr, ?sra, ?popc, ?clz, ?selConst, ?selConstVec, ?selToken, ?selTokenVec, ?shuf, ?bcast⟩
  case shl =>
    have hshl : gives (.opShl w) fun k => x 0 k * 2 ^ cnt k % 2 ^ wd := sends rfl (by decide) fun _ => rfl
    exact hshl.congr_mod fun k => Nat.mod_mod _ _
  case popc => exact sends rfl (by decide) fun k => popcount_eq_sum wd (x 0 k)
  case clz => exact sends rfl (by decide) fun k => leadingZeros_eq_length wd (x 0 k)
  case selConst => exact fun ht hv => sel fun k => hc ▸ selects_of_const_scalar k (hc ▸ ht) hv
  case selConstVec =>
    refine fun ht hv => sel fun k => ?_
    rw [← hcell]
    exact selects_of_const_vector k (hc ▸ ht) hv
  case selToken => exact fun t ht hp => sel fun k => hc ▸ selects_of_scalar_token k (hc ▸ ht) hp
  case selTokenVec => exact fun t ht hp => sel fun k => selects_of_vector_token k (hc ▸ ht) hp
  case shuf =>
    -- each form of MOD is one branch of `shufLane`
    have hm : (gather s f w 0x44).w.mod = w.mod := rfl
    refine ⟨?_, ?_, ?_, ?_, ?_, ?_⟩ <;> intro hform <;> refine sends rfl (by decide) fun k => ?_ <;>
      rw [shufLane, gather_a s f w (by decide), gather_b s f w (by decide), hm, hform] <;> rfl
  case bcast =>
    refine sends rfl (by decide) fun k => ?_
    rw [gather_a s f w (by decide)]
    rfl
  all_goals exact sends rfl (by decide) fun _ => rfl

end Sys2Proof.Machine
end

section
/-! SUPPORT. Refutation of O35: the header of its statement keeps the STAT of the operand, as that of O34 does. -/

namespace Sys2Proof.Machine

/-- If the lanes of an `exp` firing reach a channel under a header, that header has STAT 0. -/
theorem exp_sendsLanes_stat_zero {s : State} {f : Focus} {w : OpWord} {hd : Hdr} {wd n : Nat} {v : Nat → Nat} (h : Chosen s f)
    (hS : SendsLanes (.opExp w) s f w hd wd n v) {ch : Nat} (hch : ch ∈ destChans (getElem s f.loc) w.dest.toNat) : hd.stat = 0 := by
  obtain ⟨t, F, ⟨p, hsent, -⟩, hzero⟩ := hS.same (exp_sends_stat_zero h)
  exact hzero (ch, p, hd.plain) (hsent ▸ List.mem_map_of_mem hch)

/-- Refutes O35 by its clause on `exp` of +0. The operand of `statElem` is the FP32 scalar +0 with STAT 4 (NOMATCH), as the old
value that `acas` returns can have. The statement asks for 1.0 under the operand's header, STAT 4 with it; the model sends STAT 0. -/
theorem not_functionSpecials : ¬ Obligations.FunctionSpecials := by
  intro h
  let a := operandAt (getRegion (loneState statElem) (rgnOf loneFocus.loc)) (getElem (loneState statElem) loneFocus.loc).ahead statWord
    loneFocus.slot loneFocus.tag 0
  have hstat : a.hdr.stat = 4 := by decide +kernel
  have hzero : a.cell 32 0 = 0 := by decide +kernel
  have hdest : 10 ∈ destChans (getElem (loneState statElem) loneFocus.loc) statWord.dest.toNat := by decide +kernel
  have hc := chosen_loneState statElem
  obtain ⟨⟨-, -, hplus, -⟩, -⟩ := h _ _ statWord hc (by decide +kernel) (by decide +kernel) (by decide +kernel)
  obtain ⟨hlanes, -⟩ := hplus hzero
  exact absurd (hstat.symm.trans (exp_sendsLanes_stat_zero hc hlanes hdest)) (by decide)

end Sys2Proof.Machine
end

section
/-! SUPPORT. What a translation that meets errors leaves of its core, and the atomics of a kettle core on host memory (spec/08: R198;
spec/09: R224; spec/20: R386). -/

namespace Sys2Proof.Machine

/-! ### What a report to the error log leaves alone -/

/-- The current core is as it was but for its event bits, and host memory as it was. -/
structure CoreKept (s t : State) : Prop where
  cur : t.cur = s.cur
  hostMem : t.hostMem = s.hostMem
  core : curCore t = { curCore s with event := (curCore t).event }

theorem CoreKept.refl (s : State) : CoreKept s s := ⟨rfl, rfl, rfl⟩

theorem CoreKept.trans {a b c : State} (h : CoreKept a b) (k : CoreKept b c) : CoreKept a c :=
  ⟨k.cur.trans h.cur, k.hostMem.trans h.hostMem, by rw [k.core, h.core]⟩

theorem CoreKept.of_cores {s t : State} (hcur : t.cur = s.cur) (hmem : t.hostMem = s.hostMem) (hc : t.cores = s.cores) : CoreKept s t :=
  ⟨hcur, hmem, by rw [curCore_congr hc hcur]⟩

theorem hitMonitors_kept (s : State) (by_ : Option Nat) (l : MonLine) : CoreKept s (hitMonitors s by_ l) := by
  refine ⟨rfl, rfl, ?_⟩
  unfold curCore hitMonitors
  rw [Vector.getElem_mapFinIdx]
  split <;> rfl

theorem physWriteMask_kept (s : State) (by_ : Option Nat) (pa n v m : Nat) : CoreKept s (physWriteMask s by_ pa n v m) := by
  unfold physWriteMask
  dsimp only
  split
  · refine CoreKept.trans (.of_cores ?_ ?_ ?_) (hitMonitors_kept _ by_ _) <;> split <;> rfl
  · refine CoreKept.trans (.of_cores ?_ ?_ ?_) (hitMonitors_kept _ by_ _) <;> split <;> rfl
  · exact .refl s

theorem vput_kept (s : State) (p va n v : Nat) : CoreKept s (vput s p va n v) := by
  unfold vput
  split
  · exact .refl s
  · exact physWriteMask_kept ..

theorem errLog_kept (s : State) (p launch stack syms kind layer pa : Nat) : CoreKept s (errLog s p launch stack syms kind layer pa) := by
  unfold errLog
  dsimp only
  split
  · exact ((vput_kept ..).trans (vput_kept ..)).trans (.of_cores (modPart_cur ..) (modPart_hostMem ..) (modPart_cores ..))
  · exact .refl s

theorem logRead_kept (s : State) (p launch pa : Nat) : CoreKept s (logRead s p launch pa) := by
  unfold logRead
  split
  · exact errLog_kept ..
  · split
    · exact errLog_kept ..
    · exact .refl s

theorem logWalk_kept (s : State) (c : List WalkEnt) (p va : Nat) : CoreKept s (logWalk s c p va) := by
  unfold logWalk
  split
  · exact .refl s
  · clear * -
    generalize walkReads s c p va = l
    induction l generalizing s with
    | nil => exact .refl s
    | cons pa l ih => exact (logRead_kept s p 0 pa).trans (ih _)

theorem logXlat_kept (s : State) (c : List WalkEnt) (p : Nat) (tlb : List TlbEnt) (va : Nat) : CoreKept s (logXlat s c p tlb va) := by
  unfold logXlat
  split
  · exact .refl s
  · exact logWalk_kept ..

/-- A translation, whatever its walk meets, changes of its core the translation cache and event bits only (R386, R407). -/
theorem kxlat_kept {s u : State} {nd : Need} {va : Nat} {x : Except XErr Nat} (h : kxlat s nd va = (x, u)) : u.cur = s.cur ∧
    u.hostMem = s.hostMem ∧ curCore u = { curCore s with event := (curCore u).event, tlb := (curCore u).tlb } := by
  obtain rfl : _ = u := congrArg Prod.snd h
  obtain ⟨hcur, hmem, hcore⟩ := logXlat_kept s (walker s (s.cur.toNat / 4)) (curPart s) (curCore s).tlb va
  refine ⟨hcur, hmem, ?_⟩
  unfold kxlat
  dsimp only
  rw [curCore_setWalker, curCore_setCore, hcore]

theorem kreg_congr {s t : State} (h : (curCore t).regs = (curCore s).regs) (r : KReg) : kreg t r = kreg s r := by
  unfold kreg Core.reg
  rw [h]

/-! ### A write to host memory -/

theorem readSettle_nil {u : State} (ho : u.hostOut = []) (pa : Nat) : readSettle u pa = u := by
  unfold readSettle
  split
  · exact drainHost_nil ho _
  · rfl

/-- A read of host memory whose path holds no write. -/
theorem physRead_host {u : State} {pa port bus : Nat} (ht : target pa = .host port bus) (ho : u.hostOut = []) (n : Nat) :
    physRead u pa n = readBytes u.hostMem bus n := by
  simp [physRead, ht, pathMem, ho]

/-- n bytes of v stored in host memory at a bus address, no write left under way. -/
def hostWritten (u : State) (bus n v : Nat) : State := { u with hostMem := writeBytes u.hostMem bus n v, hostOut := [] }

/-- A write to host memory whose path holds no other, performed at its target (R281). -/
theorem physWrite_host_settled {u : State} {pa port bus : Nat} (ht : target pa = .host port bus) (ho : u.hostOut = [])
    (by_ : Option Nat) (n v : Nat) : readSettle (physWrite u by_ pa n v) pa =
      hitMonitors (hostWritten u bus n v) by_ (.phys (lineOf pa)) := by
  unfold readSettle physWrite physWriteMask
  simp only [ht]
  rw [if_pos (Nat.mod_eq_of_lt (by have := Nat.two_pow_pos n; omega)), ho]
  simp [drainHost, drainHostOne, splitPort, hitMonitors, hostWritten]

/-! ### Atomics -/

/-- Signed order of the low bits, as `amo.min` and `amo.max` compare and as Table 9.3 is read. -/
theorem amoLess_eq (w u : Bool) (x y : Nat) : amoLess w u x y = lessIn (amoBytes w) u x y := by
  have hval (x : Nat) : sval (8 * amoBytes w) x = (BitVec.ofNat (8 * amoBytes w) x).toInt := by
    cases w <;> rw [BitVec.toInt_eq_toNat_cond, BitVec.toNat_ofNat, sval] <;> simp only [amoBytes] <;> split <;> split <;> omega
  cases u
  · simp only [amoLess, lessIn, hval]
    rfl
  · rfl

/-- What Table 9.3 says of an atomic is what it does. -/
theorem exec_amo {s : State} {i : Instr} {f : AmoForm} (h : amoForm s i = some f) : ∃ o : BitVec 2, o.getLsbD 1 = f.rel ∧
    exec i s = .next (kamo s f.d f.a f.w o f.sys f.u f.host f.new) := by
  have hm (w : Bool) : 2 ^ (8 * amoBytes w) = if w then 2 ^ 32 else 2 ^ 64 := by cases w <;> rfl
  have harg (w : Bool) (b : KReg) : amoArg s w b = (kreg s b).toNat % if w then 2 ^ 32 else 2 ^ 64 := by rw [amoArg, hm]
  have new {d a : KReg} {w c u host : Bool} {o : BitVec 2} {g k : Nat → Nat} (hg : ∀ x, g x = k x) :
      (.next (kamo s d a w o c u host g) : Host.Outcome State Fault Refusal) = .next (kamo s d a w o c u host k) := by rw [funext hg]
  unfold amoForm at h
  split at h
  case h_8 => cases h
  all_goals obtain rfl := Option.some.inj h
  case h_1 => exact ⟨_, rfl, new fun x => by rw [harg, hm, Nat.add_mod_mod]⟩
  case h_2 => exact ⟨_, rfl, new fun x => harg ..⟩
  case h_3 => exact ⟨_, rfl, new fun x => by rw [harg, harg]⟩
  case h_4 => exact ⟨_, rfl, new fun x => by rw [harg]⟩
  case h_5 => exact ⟨_, rfl, new fun x => by rw [harg]⟩
  case h_6 => exact ⟨_, rfl, new fun x => by rw [amoLess_eq, harg]; rfl⟩
  case h_7 => exact ⟨_, rfl, new fun x => by rw [amoLess_eq, harg]; rfl⟩

section
variable {s u : State} {d a : KReg} {w sys z host : Bool} {o : BitVec 2} {new : Nat → Nat} {pa port bus : Nat}
  (hal : (kreg s a).toNat % amoBytes w = 0) (hlo : 0x80000 ≤ (kreg s a).toNat) (hhi : (kreg s a).toNat < 2 ^ 56)
  (hx : kxlat s { r := true, w := true } (kreg s a).toNat = (.ok pa, u)) (ht : target pa = .host port bus)
include hal hlo hhi hx ht

/-- An operation that has no PCIe AtomicOp meets PERMISSION (R198). -/
theorem kamo_host_refused (hh : host = false) : kamo s d a w o sys z host new = ktrap u (trapMemory 0x11 (kreg s a)) := by
  unfold kamo
  dsimp only
  rw [if_neg (not_not.2 hal), kplace_virt hlo hhi]
  dsimp only
  rw [hx]
  dsimp only
  rw [ht]
  exact if_pos (by rw [hh]; rfl)

/-- An AtomicOp reads the host's bytes and writes them, where no store is under way (R198, R281). -/
theorem kamo_host (hh : host = true) (hu : Settled u) : kamo s d a w o sys z host new =
    kret (hitMonitors (hostWritten u bus (amoBytes w) (new (physRead u pa (amoBytes w))))
      (some u.cur.toNat) (.phys (lineOf pa))) d (amoOld w z (physRead u pa (amoBytes w))) := by
  obtain ⟨-, ho⟩ := id hu
  unfold kamo
  dsimp only
  rw [if_neg (not_not.2 hal), kplace_virt hlo hhi]
  dsimp only
  rw [hx]
  dsimp only
  rw [ht]
  dsimp only
  rw [if_neg (by rw [hh]; decide), korder_settled hu, readSettle_nil ho, physWrite_host_settled ht ho]

end

end Sys2Proof.Machine

open Sys2Proof Sys2Proof.Machine

/-- Settles O10: an atomic that the host does not take traps in the state after the walk, and one that it takes reads and writes
the host's bytes, its path holding no other write. -/
theorem kettleHostAtomics : Obligations.KettleHostAtomics := by
  unfold Obligations.KettleHostAtomics
  intro s u i f pa port bus hf va hal hlo hhi hx ht
  obtain ⟨o, -, he⟩ := exec_amo hf
  obtain ⟨-, hmem, hcore⟩ := kxlat_kept hx
  have hpc : (curCore u).pc = (curCore s).pc := congrArg (·.pc) hcore
  refine ⟨fun hh => ⟨_, he, ?_⟩, fun hh hs ho => ?_⟩
  · rw [kamo_host_refused hal hlo hhi hx ht hh, ← hpc]
    exact ktrap_taken u (trapMemory 0x11 _) (show 2 < 256 by decide) (show 0x11 < 256 by decide)
  · obtain ⟨hbuf, -⟩ := hs
    have hu : Settled u := ⟨(congrArg (·.buf) hcore).trans hbuf, ho⟩
    refine ⟨(physRead_host ht ho _).trans (by rw [hmem]), _, he, ?_⟩
    rw [kamo_host hal hlo hhi hx ht hh hu]
    have hhit := (hitMonitors_kept (hostWritten u bus (amoBytes f.w) (f.new (physRead u pa (amoBytes f.w)))) (some u.cur.toNat)
      (.phys (lineOf pa))).core
    refine ⟨funext fun r => ((kret_setsReg ..).2 r).trans (if_congr Iff.rfl rfl ?_), ?_, rfl, rfl, congrArg (writeBytes · bus _ _) hmem⟩
    · exact kreg_congr ((congrArg (·.regs) hhit).trans (congrArg (·.regs) hcore)) r
    · rw [kret, curCore_setCore]
      exact congrArg (· + 4) ((congrArg (·.pc) hhit).trans hpc)

end

section
/-! SUPPORT. The access that a memory or atomic firing passes to its port (spec/08: R177, R190, R192, R194, R195, R197, R199 to R201). -/

namespace Sys2Proof.Machine

/-- What a port reads of an operand (R65, R93). -/
def portReads (o : Opd) (fm : Fmt) (tag : Nat) : Option Token :=
  if o.code = 31 then none else match o.tok, o.pad with
    | some t, _ => some t
    | none, some t => some t
    | none, none => some { hdr := scalarHdr fm tag, payload := fitBits o.code o.raw fm.width }

theorem portOpd_eq (i : FireIn) (o : Opd) : i.portOpd o = portReads o i.fmt i.tag := by
  unfold FireIn.portOpd portReads FireIn.scalar
  cases o.tok <;> cases o.pad <;> rfl

/-! ### What an operation asks of b -/

/-- b is a slot constant, or agrees with a record (R192). -/
def FitsRecord (b : Opd) (shape : Nat) (r : Option Layout) : Prop := (b.tok = none ∧ b.pad ≠ none) ∨ shapeFits b.hdr shape r = true

theorem fillB_isSome (i : FireIn) : i.fillB.isSome = true ↔ i.b.tok = none ∧ i.b.pad ≠ none := by
  rw [← not_iff_not, ← fillB_isNone, Bool.not_eq_true, Option.isSome_eq_false_iff]

theorem fitsRecord_iff (i : FireIn) (r : Option Layout) : FitsRecord i.b i.w.shape r ↔
    (i.fillB.isSome || shapeFits i.b.hdr i.w.shape r) = true := by
  rw [Bool.or_eq_true, fillB_isSome, FitsRecord]

section
variable {s : State} {i : FireIn}

theorem shapedFire_fits (h : FitsRecord i.b i.w.shape (layoutAtIssue s i.l (mdHandle i.const))) : shapedFire s i = .go (portFire i) :=
  if_pos ((fitsRecord_iff i _).1 h)

theorem shapedFire_misfit (h : ¬FitsRecord i.b i.w.shape (layoutAtIssue s i.l (mdHandle i.const))) :
    shapedFire s i = .stop { cause := 0x02 } :=
  if_neg (mt (fitsRecord_iff i _).2 h)

end

/-- `red.m` at its issue: the tile of `.acc` is stored 32 × 32 (R200). -/
def wholeFire (i : FireIn) : FireRes :=
  if i.w.mod = 0 && !(i.b.hdr.trows == 32 && i.b.hdr.tcols == 32) then formatEdge else .go (portFire i)

theorem exec_redM (w : OpWord) (s : State) : exec (.opRedM w) s = .next (fire s w 0xA8 wholeFire) := rfl

/-- The tile of `red.m.acc` is whole. -/
def WholeTile (w : OpWord) (b : Hdr) : Prop := w.mod = 0 → b.trows = 32 ∧ b.tcols = 32

theorem wholeTile_iff (i : FireIn) : WholeTile i.w i.b.hdr ↔ ¬(i.w.mod = 0 && !(i.b.hdr.trows == 32 && i.b.hdr.tcols == 32)) = true := by
  simp [WholeTile]

section
variable {i : FireIn}

theorem wholeFire_whole (h : WholeTile i.w i.b.hdr) : wholeFire i = .go (portFire i) := if_neg ((wholeTile_iff i).1 h)

theorem wholeFire_part (h : ¬WholeTile i.w i.b.hdr) : wholeFire i = .stop { cause := 0x02 } :=
  if_pos (not_not.1 (mt (wholeTile_iff i).2 h))

end

/-! ### The firing -/

/-- The candidate sends nothing itself, and its access has the fields that its word, slot and operands give it (R190). -/
def PassesAccess (s : State) (f : Focus) (w : OpWord) (i : Instr) (opc : Nat) : Prop :=
  let e := (getElem s f.loc).ahead
  let fm := recFmt (nth e.cfg.fmts w.fmt.toNat 0)
  let reads (p : Nat) : Option Token := portReads (operandAt (getRegion s (rgnOf f.loc)) e w f.slot f.tag p) fm f.tag
  Issues i s f fun _ F => F.sent = [] ∧ ∃ A, F.access = some A ∧
    A.op = opc ∧ A.mod = w.mod.toNat ∧ A.shape = w.shape ∧ A.fmt = fm.code ∧ A.slot = f.slot ∧ A.tag = f.tag ∧
    A.outTag = outTag w f.tag ∧ A.stream = w.stream ∧ A.scope = w.scope ∧ A.ord = w.ord ∧ A.desc = nth e.consts f.slot 0 ∧
    A.state = nth e.states f.slot 0 ∧ A.a = reads 0 ∧ A.b = reads 1 ∧ A.c = reads 2 ∧ A.dest = destChans e w.dest.toNat ∧
    A.clk0 = s.clk ∧ A.begun = false ∧ A.pieces = []

/-- A firing that passes its access and does nothing else. -/
theorem passesAccess_of {s : State} {f : Focus} {w : OpWord} {i : Instr} {opc : Nat} {m : FireIn → FireRes}
    (ho : opc ≠ 2 ∧ opc ≠ 3) (h : Chosen s f)
    (he : exec i s = .next (fire s w opc m)) (hm : m (gather s f w opc) = .go (portFire (gather s f w opc))) :
    PassesAccess s f w i opc := by
  refine issues_of _ h he hm fun t F hF => ⟨hF.sent_eq _ rfl, ?_⟩
  obtain ⟨A, hA, hplain⟩ := Option.map_eq_some_iff.1 hF.access
  have hget {β : Type} (p : Access → β) := congrArg p hplain
  have hreads {o o' : Opd} (ho : o = o') : (gather s f w opc).portOpd o = portReads o' (gather s f w opc).fmt f.tag := ho ▸ portOpd_eq ..
  exact ⟨A, hA, hget (·.op), hget (·.mod), hget (·.shape), hget (·.fmt), hget (·.slot), hget (·.tag), hget (·.outTag), hget (·.stream),
    hget (·.scope), hget (·.ord), hget (·.desc), hget (·.state), (hget (·.a)).trans (hreads (gather_a s f w ho)),
    (hget (·.b)).trans (hreads (gather_b s f w ho)), (hget (·.c)).trans (hreads (gather_c s f w ho)), hget (·.dest), hget (·.clk0),
    hget (·.begun), hget (·.pieces)⟩

end Sys2Proof.Machine

open Sys2Proof Sys2Proof.Machine

/-- Settles O39: each operation passes the one access that its candidate makes; the stores and `red` where b fits the record as it
stands at the issue, `red.m.acc` where its tile is whole. -/
theorem portAccesses : Obligations.PortAccesses := by
  unfold Obligations.PortAccesses
  intro s f w h e g fm k opd reads passes padded fits
  have hfits {opc : Nat} (ho : opc ≠ 2 ∧ opc ≠ 3) : FitsRecord (gather s f w opc).b w.shape
      (layoutAtIssue s f.loc (mdHandle (gather s f w opc).const)) ↔ fits := by
    rw [gather_b s f w ho]
    rfl
  have go {i : Instr} {opc : Nat} (he : exec i s = .next (fireGo s w opc portFire)) (ho : opc ≠ 2 ∧ opc ≠ 3 := by decide) :
      passes i opc := passesAccess_of ho h he rfl
  have stored {i : Instr} {opc : Nat} (hf : fits) (he : exec i s = .next (fire s w opc (shapedFire s)))
      (ho : opc ≠ 2 ∧ opc ≠ 3 := by decide) : passes i opc := passesAccess_of ho h he (shapedFire_fits ((hfits ho).2 hf))
  have misfit {i : Instr} {opc : Nat} (hf : ¬fits) (he : exec i s = .next (fire s w opc (shapedFire s)))
      (ho : opc ≠ 2 ∧ opc ≠ 3 := by decide) : Stops i s f { cause := 0x02 } := stops_of h he (shapedFire_misfit (mt (hfits ho).1 hf))
  have hb : (gather s f w 0xA8).b = opd 1 := gather_b s f w (by decide)
  have hwhole : WholeTile w (gather s f w 0xA8).b.hdr ↔ (w.mod = 0 → (opd 1).hdr.trows = 32 ∧ (opd 1).hdr.tcols = 32) := by
    rw [hb]
    rfl
  refine ⟨go rfl, go rfl, go rfl, go rfl, go rfl, go rfl, go rfl, go rfl, go rfl, go rfl, go rfl, go rfl, go rfl, go rfl, go rfl,
    fun hf => ⟨stored hf rfl, stored hf rfl, stored hf rfl⟩,
    fun hf => ⟨misfit (opc := 0xA1) hf rfl, misfit (opc := 0xA3) hf rfl, misfit (opc := 0xA7) hf rfl⟩,
    fun hw => passesAccess_of (by decide) h (exec_redM w s) (wholeFire_whole (hwhole.2 hw)),
    fun hw => stops_of h (exec_redM w s) (wholeFire_part (mt hwhole.1 hw))⟩

end

section
/-! SUPPORT. Refutation of O47: the clause on a written piece names no operation, and an `ld.rec` whose pieces are all performed goes on
to its second step (spec/08: R195). -/

namespace Sys2Proof.Machine

/-- An `ld.rec` with one piece left, which writes a byte at 0x1000. The header that it has read, 2^50, is that of an FP32 vector. -/
def recWriter : Access :=
  { op := 0xA0, mod := 5, shape := 2, begun := true, pieces := [{ els := [(0, 0x1000)], wr := true }], xl := 1, pages := [(1, 1)],
    buf := 2 ^ 50, width := 8 }

/-- A machine whose one region runs a port with that access alone. The port holds its layout record: no element in bounds, PAD 1. -/
def recState : State :=
  setRegion State.reset ⟨0, 0⟩ { st := 2, elems := [{ port := { accs := [recWriter], layc := [(0, 2 ^ 416)] } }] }

/-- The access 0 of the one port as an outcome leaves it. -/
def accessAfter (o : Host.Outcome State Fault Refusal) : Option Access := match o with | .next t => getAccess t ⟨0, 0, 0⟩ 0 | _ => none

theorem live_recState : Live recState ⟨0, 0, 0⟩ where
  part := by decide
  elem := by decide +kernel
  run := by decide +kernel

theorem recWriter_mayPerform : MayPerform recState ⟨0, 0, 0⟩ 0 0 recWriter { els := [(0, 0x1000)], wr := true } where
  acc := by decide +kernel
  piece := by decide +kernel
  turn := by decide +kernel
  copy := by decide +kernel
  near := by decide +kernel
  rel := by decide +kernel
  hbm := by
    rintro e he
    obtain rfl := List.mem_singleton.1 he
    exact ⟨0, 0x1000, by decide +kernel⟩
  line := by decide +kernel
  good := by
    rintro e -
    exact ⟨rfl, fun x hx => absurd hx List.not_mem_nil⟩

/-- The piece is the last, so the access goes on to the payload of its record: 128 bytes of PAD behind the header beat. -/
theorem recWriter_goesOn : (accessAfter (exec (.evPortAccessPerform ⟨0, 0, 0⟩ 0 0) recState)).map (·.buf) =
    some (2 ^ 50 + 2 ^ 1024 * fillBits 8 128 1) := by decide +kernel

/-- Refutes O47 by its clause on a written piece, which asks that the access's payload stays as it was and, unlike the clause on a
piece that is read, does not leave `ld.rec` out. No step of the model gives an `ld.rec` a piece to write; the statement is about every
access. -/
theorem not_portEvents : ¬ Obligations.PortEvents := by
  intro h
  obtain ⟨-, -, -, -, -, h⟩ := h
  obtain ⟨hpiece, -⟩ := h recState ⟨0, 0, 0⟩ 0 0 recWriter live_recState
  obtain ⟨-, hwrite, -⟩ := hpiece _ recWriter_mayPerform (by decide +kernel)
  obtain ⟨t, ht, ⟨b, hb, -, hbuf⟩, -⟩ := hwrite rfl rfl (by decide +kernel) rfl (.inl (by decide)) (by decide)
  have hgoes := recWriter_goesOn
  rw [ht] at hgoes
  have hload : b.buf = 2 ^ 50 + 2 ^ 1024 * fillBits 8 128 1 := by
    have hmap : (getAccess t ⟨0, 0, 0⟩ 0).map (·.buf) = _ := hgoes
    rw [hb] at hmap
    exact Option.some.inj hmap
  exact absurd (hload.symm.trans hbuf) (by decide +kernel)

end Sys2Proof.Machine
end

section
/-! SUPPORT. The integer operations of the kettle core: its products, quotients and remainders as operations on bit vectors, and the
words that hold an operation of Table 9.2 or an immediate (spec/09: R214, R217, R218). -/

namespace Sys2Proof.Machine

/-! ### High products, quotients and remainders (Table 9.2) -/

theorem extract_ofInt_high (z : Int) : (BitVec.ofInt 128 z).extractLsb' 64 64 = BitVec.ofInt 64 (z / 2 ^ 64) := by
  apply BitVec.eq_of_toNat_eq
  rw [BitVec.extractLsb'_toNat, BitVec.toNat_ofInt, BitVec.toNat_ofInt, Nat.shiftRight_eq_div_pow]
  omega

theorem mulHigh_eq (x y : Word64) : mulHigh x y = (x.signExtend 128 * y.signExtend 128).extractLsb' 64 64 := by
  rw [BitVec.signExtend, BitVec.signExtend, ← BitVec.ofInt_mul, extract_ofInt_high]
  rfl

theorem mulHighU_eq (x y : Word64) : mulHighU x y = (x.zeroExtend 128 * y.zeroExtend 128).extractLsb' 64 64 := by
  have hx : (x.zeroExtend 128).toNat = x.toNat := BitVec.toNat_setWidth_of_le (by decide)
  have hy : (y.zeroExtend 128).toNat = y.toNat := BitVec.toNat_setWidth_of_le (by decide)
  have hlt : x.toNat * y.toNat < 2 ^ 128 := lt_of_lt_of_eq (Nat.mul_lt_mul'' x.isLt y.isLt) (by decide)
  apply BitVec.eq_of_toNat_eq
  rw [BitVec.extractLsb'_toNat, BitVec.toNat_mul, hx, hy, Nat.mod_eq_of_lt hlt, Nat.shiftRight_eq_div_pow]
  exact BitVec.toNat_ofNat ..

theorem ofInt_tdiv (x y : Word64) : BitVec.ofInt 64 (x.toInt.tdiv y.toInt) = x.sdiv y := by
  apply BitVec.eq_of_toInt_eq
  rw [BitVec.toInt_ofInt, BitVec.toInt_sdiv]

theorem divS_eq (x y : Word64) : divS x y = if y = 0 then 0xFFFFFFFFFFFFFFFF else x.sdiv y := by
  rw [divS, ofInt_tdiv]
  rfl

theorem divU_eq (x y : Word64) : divU x y = if y = 0 then 0xFFFFFFFFFFFFFFFF else BitVec.ofNat 64 (x.toNat / y.toNat) := by
  have h : x / y = BitVec.ofNat 64 (x.toNat / y.toNat) := by rw [← BitVec.toNat_udiv, BitVec.ofNat_toNat, BitVec.setWidth_eq]
  rw [divU, h]
  rfl

theorem remS_eq (x y : Word64) : remS x y = if y = 0 then 0xFFFFFFFFFFFFFFFF else x - x.sdiv y * y := by
  have h : BitVec.ofInt 64 (x.toInt.tmod y.toInt) = x - x.sdiv y * y := by
    rw [Int.tmod_def, Int.sub_eq_add_neg, BitVec.ofInt_add, BitVec.ofInt_neg, BitVec.ofInt_mul, BitVec.ofInt_toInt, BitVec.ofInt_toInt,
      ofInt_tdiv, BitVec.mul_comm, ← BitVec.sub_eq_add_neg]
  rw [remS, h]
  rfl

theorem remU_eq (x y : Word64) : remU x y = if y = 0 then 0xFFFFFFFFFFFFFFFF else BitVec.ofNat 64 (x.toNat % y.toNat) := by
  have h : x % y = BitVec.ofNat 64 (x.toNat % y.toNat) := by rw [← BitVec.toNat_umod, BitVec.ofNat_toNat, BitVec.setWidth_eq]
  rw [remU, h]
  rfl

theorem slt_eq (x y : Word64) : (if x.slt y then 1 else 0 : Word64) = if x.toInt < y.toInt then 1 else 0 := by
  simp [BitVec.slt]

theorem ult_eq (x y : Word64) : (if x.ult y then 1 else 0 : Word64) = if x.toNat < y.toNat then 1 else 0 := by
  simp [BitVec.ult]

/-- An instruction that writes kd and goes on. -/
theorem completes_kret {i : Instr} {s : State} {d : KReg} {v w : Word64} (he : exec i s = .next (kret s d v)) (h : v = w) :
    Completes i s fun t => SetsReg s t d w :=
  ⟨_, he, h ▸ kret_setsReg s d v⟩

/-! ### The words (R214) -/

/-- An ALU word is judged by its fn. -/
theorem decodeKettle_alu (d a b : KReg) (n : BitVec 11) : decodeKettle ((0 : BitVec 6) ++ d ++ a ++ b ++ n) = decodeAlu d a b n := by
  have h : ((0 : BitVec 6) ++ d ++ a ++ b ++ n) = formK 0 d a b n := rfl
  rw [h]
  simp [decodeKettle]

/-- The ALU functions, by fn (Table 9.2). -/
def aluFns (d a b : KReg) : List Instr :=
  [.kAdd d a b, .kSub d a b, .kAnd d a b, .kOr d a b, .kXor d a b, .kShl d a b, .kShr d a b, .kSra d a b, .kSlt d a b, .kSltu d a b,
   .kMul d a b, .kMulh d a b, .kMulhu d a b, .kDiv d a b, .kDivu d a b, .kRem d a b, .kRemu d a b]

theorem decodeAlu_eq (d a b : KReg) (n : BitVec 11) : decodeAlu d a b n =
    match (aluFns d a b)[n.toNat]? with | some i => .ok i | none => .error .fn := by
  unfold decodeAlu
  by_cases hn : n.toNat < 17
  · generalize n.toNat = m at hn
    interval_cases m <;> rfl
  · rw [List.getElem?_eq_none (Nat.le_of_not_lt hn)]
    split
    case h_18 => rfl
    all_goals omega

end Sys2Proof.Machine

open Sys2Proof Sys2Proof.Machine

/-- Settles O1: each function writes its value and goes on; the words by fn. -/
theorem kettleAluResults : Obligations.KettleAluResults := by
  intro s d a b x y gives
  have div : gives (.kDiv d a b) (if y = 0 then 0xFFFFFFFFFFFFFFFF else x.sdiv y) := completes_kret rfl (divS_eq x y)
  have rem : gives (.kRem d a b) (if y = 0 then 0xFFFFFFFFFFFFFFFF else x - x.sdiv y * y) := completes_kret rfl (remS_eq x y)
  refine ⟨completes_kret rfl rfl, completes_kret rfl rfl, completes_kret rfl rfl, completes_kret rfl rfl, completes_kret rfl rfl,
    completes_kret rfl rfl, completes_kret rfl rfl, completes_kret rfl rfl, completes_kret rfl (slt_eq x y), completes_kret rfl (ult_eq x y),
    completes_kret rfl rfl, completes_kret rfl (mulHigh_eq x y), completes_kret rfl (mulHighU_eq x y), div,
    completes_kret rfl (divU_eq x y), rem, completes_kret rfl (remU_eq x y), fun hx hy => ?_, fun n => ?_⟩
  · rw [hx, hy] at div rem
    exact ⟨div, rem⟩
  · rw [decodeKettle_alu, decodeAlu_eq]
    rfl

/-- Settles O2: each instruction writes its value and goes on; a shift decodes where the rest of its immediate is 0, `lui` where ka is. -/
theorem kettleImmediateResults : Obligations.KettleImmediateResults := by
  intro s d a i k x gives
  refine ⟨completes_kret rfl rfl, completes_kret rfl rfl, completes_kret rfl rfl, completes_kret rfl rfl, completes_kret rfl rfl,
    completes_kret rfl rfl, completes_kret rfl rfl, completes_kret rfl (slt_eq x _), completes_kret rfl rfl, fun w hop => ?_, fun w hop => ?_⟩
  · have hz : ((kwI w).extractLsb' 6 10 = 0) ↔ w.extractLsb' 6 10 = 0 := by
      rw [kwI, BitVec.extractLsb'_extractLsb'_of_le (by decide)]
    change kwOp w = 5 ∨ kwOp w = 6 ∨ kwOp w = 7 at hop
    rw [← hz]
    rcases hop with hop | hop | hop <;> simp [decodeKettle, hop, needZero_eq_ok]
  · change kwOp w = 9 at hop
    simp [decodeKettle, hop, needZero_eq_ok, kwA]

end

section
/-! SUPPORT. What a report to the error log may change, and what a translation leaves of everything else (spec/20: R386; spec/22: R405,
R407). -/

namespace Sys2Proof.Machine

/-- Reports to the error log have been written: bytes of HBM or on a host path, lines of HBM whose correctable error a write took away,
MON of the cores that watch them, and the log's own NEXT. -/
structure Logged (s t : State) : Prop where
  frame : t = { s with hbm := t.hbm, softLines := t.softLines, hostOut := t.hostOut, cores := t.cores, parts := t.parts }
  core : curCore t = { curCore s with event := (curCore t).event }
  soft : t.softLines ⊆ s.softLines
  part : ∀ p, getPart t p = { getPart s p with errNext := (getPart t p).errNext }

theorem Logged.refl (s : State) : Logged s s := ⟨rfl, rfl, fun _ h => h, fun _ => rfl⟩

theorem Logged.trans {a b c : State} (h : Logged a b) (k : Logged b c) : Logged a c :=
  ⟨by rw [k.frame, h.frame], by rw [k.core, h.core], fun _ hx => h.soft (k.soft hx), fun p => by rw [k.part, h.part]⟩

theorem Logged.foldl {β : Type} {f : State → β → State} (h : ∀ s x, Logged s (f s x)) (l : List β) (s : State) :
    Logged s (l.foldl f s) := by
  induction l generalizing s with
  | nil => exact .refl s
  | cons x l ih => exact (h s x).trans (ih _)

theorem Logged.kreg {s t : State} (h : Logged s t) (r : KReg) : kreg t r = kreg s r := kreg_congr (congrArg (·.regs) h.core) r

theorem Logged.getRegion {s t : State} (h : Logged s t) (r : Rgn) : getRegion t r = getRegion s r := by
  unfold Machine.getRegion
  rw [h.part]

/-- A write of less than a line leaves every marker (R405). -/
theorem physWrite_logged (s : State) (by_ : Option Nat) (pa v : Nat) {n : Nat} (hn : n ≠ 64) : Logged s (physWrite s by_ pa n v) := by
  have hcore := (physWriteMask_kept s by_ pa n v (2 ^ n - 1)).core
  have h64 : ¬(n = 64 ∧ pa % 64 = 0 ∧ (2 ^ n - 1) % 2 ^ 64 = 2 ^ 64 - 1) := fun h => hn h.1
  refine ⟨?_, hcore, ?_, ?_⟩ <;> unfold physWrite physWriteMask <;> dsimp only <;> rw [if_neg h64] <;> split
  · rfl
  · split <;> rfl
  · rfl
  · exact List.filter_subset_self _
  · split <;> exact fun _ h => h
  · exact fun _ h => h
  · exact fun _ => rfl
  · split <;> exact fun _ => rfl
  · exact fun _ => rfl

theorem vput_logged (s : State) (p va v : Nat) {n : Nat} (hn : n ≠ 64) : Logged s (vput s p va n v) := by
  unfold vput
  split
  · exact .refl s
  · exact physWrite_logged _ _ _ _ hn

/-- The log's NEXT advances. -/
theorem errNext_logged (s : State) (p m : Nat) : Logged s (modPart s p fun q => { q with errNext := m }) where
  frame := by
    unfold modPart setPart
    split <;> rfl
  core := by rw [curCore_congr (modPart_cores s p _) (modPart_cur s p _)]
  soft := by
    rw [modPart_softLines]
    exact fun _ h => h
  part q := by
    unfold modPart
    by_cases hq : p = q
    · subst hq
      by_cases hp : p < 16
      · rw [getPart_setPart_same hp]
      · rw [getPart_setPart_big hp]
    · rw [getPart_setPart_ne hq]

theorem errLog_logged (s : State) (p launch stack syms kind layer pa : Nat) : Logged s (errLog s p launch stack syms kind layer pa) := by
  unfold errLog
  dsimp only
  split
  · exact ((vput_logged _ _ _ _ (by decide)).trans (vput_logged _ _ _ _ (by decide))).trans (errNext_logged ..)
  · exact .refl s

theorem logRead_logged (s : State) (p launch pa : Nat) : Logged s (logRead s p launch pa) := by
  unfold logRead
  split
  · exact errLog_logged ..
  · split
    · exact errLog_logged ..
    · exact .refl s

theorem logWrite_logged (s : State) (p launch pa n : Nat) : Logged s (logWrite s p launch pa n) := by
  unfold logWrite
  split
  · exact errLog_logged ..
  · exact .refl s

theorem logWalk_logged (s : State) (c : List WalkEnt) (p va : Nat) : Logged s (logWalk s c p va) := by
  unfold logWalk
  split
  · exact .refl s
  · exact Logged.foldl (fun t pa => logRead_logged t p 0 pa) _ s

theorem logXlat_logged (s : State) (c : List WalkEnt) (p : Nat) (tlb : List TlbEnt) (va : Nat) : Logged s (logXlat s c p tlb va) := by
  unfold logXlat
  split
  · exact .refl s
  · exact logWalk_logged ..

/-- What a translation of the current core changes beside the reports of its walk: the core's translation cache and its die walker's. -/
structure Walked (s u : State) : Prop where
  frame : u = { s with hbm := u.hbm, softLines := u.softLines, hostOut := u.hostOut, cores := u.cores, parts := u.parts, walkc := u.walkc }
  core : curCore u = { curCore s with event := (curCore u).event, tlb := (curCore u).tlb }
  soft : u.softLines ⊆ s.softLines
  part : ∀ p, getPart u p = { getPart s p with errNext := (getPart u p).errNext }

theorem Walked.refl (s : State) : Walked s s := ⟨rfl, rfl, fun _ h => h, fun _ => rfl⟩

theorem Walked.trans {a b c : State} (h : Walked a b) (k : Walked b c) : Walked a c :=
  ⟨by rw [k.frame, h.frame], by rw [k.core, h.core], fun _ hx => h.soft (k.soft hx), fun p => by rw [k.part, h.part]⟩

section
variable {s u : State} (h : Walked s u)
include h

theorem Walked.pc : (curCore u).pc = (curCore s).pc := congrArg (·.pc) h.core
theorem Walked.buf : (curCore u).buf = (curCore s).buf := congrArg (·.buf) h.core
theorem Walked.kreg (r : KReg) : kreg u r = kreg s r := kreg_congr (congrArg (·.regs) h.core) r
theorem Walked.cur : u.cur = s.cur := congrArg (·.cur) h.frame
theorem Walked.holding : u.holding = s.holding := congrArg (·.holding) h.frame
theorem Walked.badLines : u.badLines = s.badLines := congrArg (·.badLines) h.frame

end

theorem kxlat_walked {s u : State} {nd : Need} {va : Nat} {x : Except XErr Nat} (h : kxlat s nd va = (x, u)) : Walked s u := by
  obtain rfl : _ = u := congrArg Prod.snd h
  have hl := logXlat_logged s (walker s (s.cur.toNat / 4)) (curPart s) (curCore s).tlb va
  unfold kxlat
  dsimp only
  refine ⟨?_, ?_, ?_, fun p => ?_⟩
  · generalize logXlat s (walker s (s.cur.toNat / 4)) (curPart s) (curCore s).tlb va = t at hl
    obtain ⟨hbm, soft, out, cores, parts, rfl⟩ : ∃ hbm soft out cores parts, t =
        { s with hbm := hbm, softLines := soft, hostOut := out, cores := cores, parts := parts } := ⟨_, _, _, _, _, hl.frame⟩
    rfl
  · rw [curCore_setWalker, curCore_setCore, hl.core]
  · rw [setWalker_softLines, setCore_softLines]
    exact hl.soft
  · rw [getPart, setWalker_parts, setCore_parts]
    exact hl.part p

end Sys2Proof.Machine
end

section
/-! SUPPORT. The loads, stores and atomics of a kettle core: when an access fails, and what it does when it does not (spec/09: R212, R220 to
R224, R227; spec/22: R406). -/

namespace Sys2Proof.Machine

/-! ### An access that fails -/

/-- An access at va fails, by the first of its judgements that does not hold: the trap that it takes, and the state in which it does
(R212, R220, R227, R406). -/
inductive AccessFails (s : State) (nd : Need) (va : Word64) (n : Nat) : State → KTrap → Prop
  | misaligned (h : va.toNat % n ≠ 0) : AccessFails s nd va n s (trapAccess va)
  | nowhere (h : va.toNat % n = 0) (hi : 2 ^ 56 ≤ va.toNat) : AccessFails s nd va n s (trapAccess va)
  | untranslated {e : XErr} {u : State} (h : va.toNat % n = 0) (lo : 0x80000 ≤ va.toNat) (hi : va.toNat < 2 ^ 56)
      (hx : kxlat s nd va.toNat = (.error e, u)) : AccessFails s nd va n u (trapMemory e.code va)
  | badLocal (h : va.toNat % n = 0) (hi : va.toNat < 0x80000) (hb : localBad s va.toNat = true) :
      AccessFails s nd va n s (trapMemory 0x12 va)
  | badCache {pa st off : Nat} {u : State} (h : va.toNat % n = 0) (lo : 0x80000 ≤ va.toNat) (hi : va.toNat < 2 ^ 56)
      (hx : kxlat s nd va.toNat = (.ok pa, u)) (ht : target pa = .hbm st off) (hb : cacheBad u pa = true) :
      AccessFails s nd va n u (trapMemory 0x12 va)

section
variable {s t : State} {va : Word64} {n v : Nat} {x : KTrap}

theorem kload_fails (h : AccessFails s { r := true } va n t x) : kload s va n = (.error x, t) := by
  unfold kload
  cases h with
  | misaligned h => rw [if_pos h]
  | nowhere h hi => rw [if_neg (not_not.2 h), kplace_none hi]
  | untranslated h lo hi hx =>
    rw [if_neg (not_not.2 h), kplace_virt lo hi]
    dsimp only
    rw [hx]
  | badLocal h hi hb =>
    rw [if_neg (not_not.2 h), kplace_loc hi]
    dsimp only
    rw [if_pos hb]
  | badCache h lo hi hx ht hb =>
    rw [if_neg (not_not.2 h), kplace_virt lo hi]
    dsimp only
    rw [hx]
    dsimp only
    rw [if_pos hb]

theorem kstore_fails (plain : Bool) (h : AccessFails s { w := true } va n t x) : kstore s va n v plain = (.error x, t) := by
  unfold kstore
  cases h with
  | misaligned h => rw [if_pos h]
  | nowhere h hi => rw [if_neg (not_not.2 h), kplace_none hi]
  | untranslated h lo hi hx =>
    rw [if_neg (not_not.2 h), kplace_virt lo hi]
    dsimp only
    rw [hx]
  | badLocal h hi hb =>
    rw [if_neg (not_not.2 h), kplace_loc hi]
    dsimp only
    rw [if_pos hb]
  | badCache h lo hi hx ht hb =>
    rw [if_neg (not_not.2 h), kplace_virt lo hi]
    dsimp only
    rw [hx]
    dsimp only
    rw [if_pos hb]

theorem kamo_fails {d a : KReg} {w sys z host : Bool} {o : BitVec 2} {f : Nat → Nat}
    (h : AccessFails s { r := true, w := true } (kreg s a) (amoBytes w) t x) : kamo s d a w o sys z host f = ktrap t x := by
  unfold kamo
  dsimp only
  cases h with
  | misaligned h => rw [if_pos h]
  | nowhere h hi => rw [if_neg (not_not.2 h), kplace_none hi]
  | untranslated h lo hi hx =>
    rw [if_neg (not_not.2 h), kplace_virt lo hi]
    dsimp only
    rw [hx]
  | badLocal h hi hb =>
    rw [if_neg (not_not.2 h), kplace_loc hi]
    dsimp only
    rw [if_pos hb]
  | badCache h lo hi hx ht hb =>
    rw [if_neg (not_not.2 h), kplace_virt lo hi]
    dsimp only
    rw [hx]
    dsimp only
    rw [ht]
    dsimp only
    rw [if_pos hb]

/-- The trap of a failed access is taken at the instruction, and its walk is all that may have happened. -/
theorem AccessFails.taken {nd : Need} (h : AccessFails s nd va n t x) : TrapTaken t (ktrap t x) false x.vec x.code x.tval (curCore s).pc := by
  have hpc : (curCore t).pc = (curCore s).pc := by
    cases h with
    | misaligned | nowhere | badLocal => rfl
    | untranslated _ _ _ hx => exact (kxlat_walked hx).pc
    | badCache _ _ _ hx => exact (kxlat_walked hx).pc
  have hvec : x.vec < 256 ∧ x.code < 256 := by
    cases h with
    | misaligned | nowhere | badLocal | badCache => simp [trapAccess, trapMemory]
    | @untranslated e => cases e <;> simp [trapMemory, XErr.code]
  rw [← hpc]
  exact ktrap_taken t x hvec.1 hvec.2

end

/-! ### The instructions by kind (R220, R222, R224) -/

section
variable {s : State} {i : Instr} {va : Word64} {n : Nat} {nd : Need} (h : kettleAccess s i = some (va, n, nd))
include h

theorem access_of_load {d : KReg} {f : Nat → Word64} (hl : kettleLoad i = some (d, f)) :
    nd = { r := true } ∧ exec i s = .next (kloadTo s d va n f) := by
  unfold kettleLoad at hl
  split at hl <;> cases hl <;> cases h <;> exact ⟨rfl, rfl⟩

theorem access_of_store {r : KReg} (hs : kettleStore i = some r) :
    nd = { w := true } ∧ n < 64 ∧ exec i s = .next (kstoreFrom s va n (kreg s r).toNat true) := by
  unfold kettleStore at hs
  split at hs <;> cases hs <;> cases h <;> exact ⟨rfl, by decide, rfl⟩

theorem access_of_release {r : KReg} {c : Bool} (hs : kettleRelease i = some (r, c)) :
    nd = { w := true } ∧ n < 64 ∧ ∃ a, va = kreg s a ∧ exec i s = .next (krelease s a r n c) := by
  unfold kettleRelease at hs
  split at hs <;> cases hs <;> cases h <;> exact ⟨rfl, by decide, _, rfl, rfl⟩

theorem access_of_amo {f : AmoForm} (ha : amoForm s i = some f) : nd = { r := true, w := true } ∧ va = kreg s f.a ∧ n = amoBytes f.w := by
  unfold amoForm at ha
  split at ha <;> cases ha <;> cases h <;> exact ⟨rfl, rfl, rfl⟩

theorem access_cases : (∃ d f, kettleLoad i = some (d, f)) ∨ (∃ r, kettleStore i = some r) ∨ (∃ r c, kettleRelease i = some (r, c)) ∨
    ∃ f, amoForm s i = some f := by
  unfold kettleAccess at h
  split at h
  case h_19 => cases h
  case h_1 | h_2 | h_3 | h_4 | h_5 | h_6 => exact .inl ⟨_, _, rfl⟩
  case h_7 | h_8 | h_9 => exact .inr (.inl ⟨_, rfl⟩)
  case h_10 | h_11 => exact .inr (.inr (.inl ⟨_, _, rfl⟩))
  all_goals exact .inr (.inr (.inr ⟨_, rfl⟩))

/-- An access that fails is its trap, whatever instruction makes it. -/
theorem exec_of_accessFails {t : State} {x : KTrap} (hf : AccessFails s nd va n t x) : exec i s = .next (ktrap t x) := by
  obtain ⟨d, f, hl⟩ | ⟨r, hs⟩ | ⟨r, c, hr⟩ | ⟨f, ha⟩ := access_cases h
  · obtain ⟨rfl, he⟩ := access_of_load h hl
    rw [he, kloadTo, kload_fails hf]
  · obtain ⟨rfl, -, he⟩ := access_of_store h hs
    rw [he, kstoreFrom, kstore_fails true hf]
  · obtain ⟨rfl, -, a, rfl, he⟩ := access_of_release h hr
    rw [he, krelease, kstore_fails false hf]
  · obtain ⟨rfl, rfl, rfl⟩ := access_of_amo h ha
    obtain ⟨o, -, he⟩ := exec_amo ha
    rw [he, kamo_fails hf]

end

/-! ### Loads -/

section
variable {s u : State} {va : Word64} {n pa : Nat} {nd : Need} (hal : va.toNat % n = 0)
include hal

theorem kload_local (hi : va.toNat < 0x80000) (hb : (curCore s).badLocal.contains (va.toNat / 64) = false) :
    kload s va n = (.ok (readBytes (curCore s).lmem va.toNat n), s) := by
  unfold kload
  rw [if_neg (not_not.2 hal), kplace_loc hi]
  exact if_neg (by rw [localBad, lineOf, hb]; decide)

theorem kload_hbm (lo : 0x80000 ≤ va.toNat) (hi : va.toNat < 2 ^ 56) (hr : Reaches s { r := true } va.toNat pa u) :
    kload s va n = (.ok (bufOver (curCore s).buf pa n (readBytes u.hbm pa n)), u) := by
  obtain ⟨hx, ⟨st, off, ht⟩, hgood, hfine, hcopy⟩ := hr
  have hbehind : readBehind u pa = u := by rw [readBehind, ht]
  have hread : physRead u pa n = readBytes u.hbm pa n := by rw [physRead, ht]
  unfold kload
  rw [if_neg (not_not.2 hal), kplace_virt lo hi]
  dsimp only
  rw [hx]
  dsimp only
  rw [if_neg (by rw [cacheBad, lineOf, hcopy]; decide), if_neg (by rw [lineBad, lineOf, hgood]; decide), hbehind, logRead_quiet hgood hfine,
    (kxlat_walked hx).buf, hread]

end

/-! ### Stores -/

section
variable {s u : State} {va : Word64} {n pa v : Nat} {plain : Bool} (hal : va.toNat % n = 0)
include hal

theorem kstore_local (hi : va.toNat < 0x80000) (hb : (curCore s).badLocal.contains (va.toNat / 64) = false) :
    kstore s va n v plain = (.ok (), lstore s va.toNat n v) := by
  unfold kstore
  rw [if_neg (not_not.2 hal), kplace_loc hi]
  exact if_neg (by rw [localBad, lineOf, hb]; decide)

theorem kstore_hbm (lo : 0x80000 ≤ va.toNat) (hi : va.toNat < 2 ^ 56) (hr : Reaches s { w := true } va.toNat pa u) :
    kstore s va n v plain = (.ok (),
      if plain = true ∧ (s.holding.contains s.cur.toNat = true ∨ (curCore s).buf ≠ []) then
        setCore u { curCore u with buf := (curCore s).buf ++ [⟨pa, n, v % 2 ^ (8 * n)⟩] }
      else physWrite u (some u.cur.toNat) pa n v) := by
  obtain ⟨hx, -, hgood, -, hcopy⟩ := hr
  have hw := kxlat_walked hx
  unfold kstore
  rw [if_neg (not_not.2 hal), kplace_virt lo hi]
  dsimp only
  rw [hx]
  dsimp only
  rw [if_neg (by rw [cacheBad, lineOf, hcopy]; decide), logWrite_quiet hgood, hw.holding, hw.cur, hw.buf]
  cases plain
  · rfl
  · simp only [Bool.true_and, Bool.or_eq_true, decide_eq_true_eq, true_and]
    split <;> rfl

end

/-- A core performs its own write to memory without an event: it goes on from where it was. -/
theorem curCore_physWrite_own (s : State) (pa n v : Nat) : curCore (physWrite s (some s.cur.toNat) pa n v) = curCore s := by
  have hhit (t : State) (l : MonLine) (hc : t.cores = s.cores) (hk : t.cur = s.cur) :
      curCore (hitMonitors t (some s.cur.toNat) l) = curCore s := by
    unfold curCore hitMonitors
    simp [hc, hk]
  unfold physWrite physWriteMask
  dsimp only
  split
  · split <;> exact hhit _ _ rfl rfl
  · split <;> exact hhit _ _ rfl rfl
  · rfl

theorem physWrite_own_hostOut {s : State} {pa st off : Nat} (ht : target pa = .hbm st off) (by_ : Option Nat) (n v : Nat) :
    (physWrite s by_ pa n v).hostOut = s.hostOut := by
  unfold physWrite physWriteMask
  simp only [ht]
  split <;> rfl

/-- A releasing store of a core whose earlier accesses are all performed, as is its own (R222). -/
theorem krelease_settled {s t : State} {a r : KReg} {n : Nat} {c : Bool} (hs : Settled s)
    (hk : kstore s (kreg s a) n (kreg s r).toNat false = (.ok (), t)) (ht : Settled t) : krelease s a r n c = kadvance t := by
  unfold krelease
  rw [korder_settled hs, hk]
  dsimp only
  rw [korder_settled ht, ite_self]

/-! ### Atomics -/

section
variable {s u : State} {d a : KReg} {w sys z host : Bool} {o : BitVec 2} {f : Nat → Nat} {pa : Nat} (hs : Settled s)
  (hal : (kreg s a).toNat % amoBytes w = 0)
include hs hal

theorem kamo_local (hi : (kreg s a).toNat < 0x80000) (hb : (curCore s).badLocal.contains ((kreg s a).toNat / 64) = false) :
    kamo s d a w o sys z host f =
      kret (lstore s (kreg s a).toNat (amoBytes w) (f (readBytes (curCore s).lmem (kreg s a).toNat (amoBytes w)))) d
        (amoOld w z (readBytes (curCore s).lmem (kreg s a).toNat (amoBytes w))) := by
  unfold kamo
  dsimp only
  rw [if_neg (not_not.2 hal), kplace_loc hi]
  dsimp only
  rw [if_neg (by rw [localBad, lineOf, hb]; decide), korder_settled hs, ite_self]

theorem kamo_hbm (lo : 0x80000 ≤ (kreg s a).toNat) (hi : (kreg s a).toNat < 2 ^ 56)
    (hr : Reaches s { r := true, w := true } (kreg s a).toNat pa u) (ho : u.hostOut = []) :
    kamo s d a w o sys z host f = kret (physWrite u (some u.cur.toNat) pa (amoBytes w) (f (readBytes u.hbm pa (amoBytes w)))) d
      (amoOld w z (readBytes u.hbm pa (amoBytes w))) := by
  obtain ⟨hx, ⟨st, off, ht⟩, hgood, hfine, hcopy⟩ := hr
  have hu : Settled u := ⟨(kxlat_walked hx).buf.trans hs.1, ho⟩
  have hread : physRead u pa (amoBytes w) = readBytes u.hbm pa (amoBytes w) := by rw [physRead, ht]
  unfold kamo
  dsimp only
  rw [if_neg (not_not.2 hal), kplace_virt lo hi]
  dsimp only
  rw [hx]
  dsimp only
  rw [ht]
  dsimp only
  rw [if_neg (by rw [cacheBad, lineOf, hcopy]; decide), if_neg (by rw [lineBad, lineOf, hgood]; decide), korder_settled hu,
    logRead_quiet hgood hfine, hread]

end

end Sys2Proof.Machine

open Sys2Proof Sys2Proof.Machine

/-- Settles O4: the five ways to fail, each taken as its trap by every load, store and atomic. -/
theorem kettleAccessTraps : Obligations.KettleAccessTraps := by
  intro s i va n nd h
  have traps {t : State} {x : KTrap} (hf : AccessFails s nd va n t x) :
      Completes i s fun u => TrapTaken t u false x.vec x.code x.tval (curCore s).pc := ⟨_, exec_of_accessFails h hf, hf.taken⟩
  refine ⟨fun hm => traps (.misaligned hm), fun hi => ?_, fun e u hal lo hi hx => traps (.untranslated hal lo hi hx),
    fun hal hi hb => traps (.badLocal hal hi hb), fun pa u st off hal lo hi hx ht hb => traps (.badCache hal lo hi hx ht hb)⟩
  by_cases hal : va.toNat % n = 0
  · exact traps (.nowhere hal hi)
  · exact traps (.misaligned hal)

/-- Settles O5. -/
theorem kettleLocalLoads : Obligations.KettleLocalLoads := by
  intro s i va n nd d f h hl hal hi hb
  obtain ⟨-, he⟩ := access_of_load h hl
  refine ⟨_, he, ?_⟩
  rw [kloadTo, kload_local hal hi hb]
  exact kret_setsReg ..

/-- Settles O6. -/
theorem kettleHbmLoads : Obligations.KettleHbmLoads := by
  intro s u i va n pa nd d f h hl hal lo hi hr
  obtain ⟨rfl, he⟩ := access_of_load h hl
  refine ⟨_, he, ?_⟩
  rw [kloadTo, kload_hbm hal lo hi hr]
  exact kret_setsReg ..

/-- Settles O7: both kinds of store write the core's local memory and go on. -/
theorem kettleLocalStores : Obligations.KettleLocalStores := by
  intro s i va n nd h hal hi hb
  have stores (v : Nat) : ∃ m, WritesLocal s m va.toNat n v ∧ SetsPc m (kadvance (lstore s va.toNat n v)) ((curCore s).pc + 4) := by
    refine ⟨_, lstore_writes .., ?_⟩
    have hpc : (curCore (lstore s va.toNat n v)).pc = (curCore s).pc := by rw [lstore, curCore_setCore]
    exact hpc ▸ kadvance_setsPc _
  refine ⟨fun r hr => ?_, fun r c hr hs => ?_⟩
  · obtain ⟨-, -, he⟩ := access_of_store h hr
    refine ⟨_, he, ?_⟩
    rw [kstoreFrom, kstore_local hal hi hb]
    exact stores _
  · obtain ⟨-, -, a, rfl, he⟩ := access_of_release h hr
    refine ⟨_, he, ?_⟩
    rw [krelease_settled hs (kstore_local hal hi hb) (by rw [Settled, lstore, curCore_setCore]; exact hs)]
    exact stores _

/-- Settles O8: a store goes to memory at once, or joins the queue behind the stores that the core holds back. -/
theorem kettleHbmStores : Obligations.KettleHbmStores := by
  intro s u i va n pa nd h hal lo hi hr
  have hw := kxlat_walked hr.xlat
  obtain ⟨st, off, ht⟩ := hr.hbm
  have stores (v : Nat) (hn : n < 64) : ∃ m, WritesHbm u m pa n v ∧
      SetsPc m (kadvance (physWrite u (some u.cur.toNat) pa n v)) ((curCore s).pc + 4) := by
    refine ⟨_, physWrite_hbm ht hn, ?_⟩
    rw [← hw.pc, ← curCore_physWrite_own u pa n v]
    exact kadvance_setsPc _
  refine ⟨fun r hs hh hb => ?_, fun r hs hq => ?_, fun r c hs hset ho => ?_⟩
  · obtain ⟨rfl, hn, he⟩ := access_of_store h hs
    refine ⟨_, he, ?_⟩
    rw [kstoreFrom, kstore_hbm hal lo hi hr, if_neg (by rw [hh, hb]; simp)]
    exact stores _ hn
  · obtain ⟨rfl, -, he⟩ := access_of_store h hs
    refine ⟨_, he, ?_⟩
    rw [kstoreFrom, kstore_hbm hal lo hi hr, if_pos ⟨rfl, hq⟩]
    simp only [kadvance, curCore_setCore, setCore_setCore, hw.pc]
  · obtain ⟨rfl, hn, a, rfl, he⟩ := access_of_release h hs
    refine ⟨_, he, ?_⟩
    have hk := kstore_hbm (v := (kreg s r).toNat) (plain := false) hal lo hi hr
    rw [if_neg (by simp)] at hk
    rw [krelease_settled hset hk ⟨by rw [curCore_physWrite_own, hw.buf, hset.1], (physWrite_own_hostOut ht ..).trans ho⟩]
    exact stores _ hn

/-- Settles O9: in local memory and in HBM the old bytes are read and the new ones written in one step. -/
theorem kettleAtomics : Obligations.KettleAtomics := by
  intro s i f hf hal hs va
  obtain ⟨o, -, he⟩ := exec_amo hf
  refine ⟨fun hi hb => ⟨_, he, _, lstore_writes .., ?_⟩, fun pa u lo hi hr ho => ?_⟩
  · rw [kamo_local hs hal hi hb]
    exact kret_setsReg ..
  · obtain ⟨st, off, ht⟩ := hr.hbm
    refine ⟨_, he, _, physWrite_hbm ht (by unfold AmoForm.bytes; split <;> decide), ?_⟩
    rw [kamo_hbm hs hal lo hi hr ho]
    exact kret_setsReg ..

end

section
/-! SUPPORT. The control and status registers: what a core holds of them, and what a read and a write of each does (spec/09: R225, R226,
R230, R232, R233, Table 9.6). -/

namespace Sys2Proof.Machine

/-! ### What a core holds -/

theorem findPart_lt (f : Nat → Bool) : findPart f < 16 := by
  unfold findPart
  cases h : (List.range 16).find? f with
  | none => decide
  | some p => exact List.mem_range.1 (List.mem_of_find?_eq_some h)

theorem curPart_lt (s : State) : curPart s < 16 := findPart_lt _

/-- The register of a number that the core itself holds, v for any other. -/
def Core.csr (c : Core) (k : Nat) (v : Word64) : Word64 :=
  match k with
  | 0x001 => c.status
  | 0x002 => c.cause
  | 0x003 => c.epc
  | 0x004 => c.tval
  | 0x005 => c.ftvec
  | 0x006 => c.rtvec
  | 0x007 => c.tdeleg
  | 0x008 => c.ien
  | 0x009 => c.event
  | 0x00A => c.mona
  | 0x00B => c.wlimit
  | 0x00D => c.timecmp
  | 0x010 => c.rsel
  | 0x018 => c.revt
  | 0x019 => c.scrubu
  | 0x030 => c.scratch[0]
  | 0x031 => c.scratch[1]
  | 0x032 => c.scratch[2]
  | 0x033 => c.scratch[3]
  | _ => v

/-- A core with one of its plain registers written. -/
def Core.withCsr (c : Core) (n : Nat) (x : Word64) : Core :=
  match n with
  | 0x002 => { c with cause := x }
  | 0x003 => { c with epc := x }
  | 0x004 => { c with tval := x }
  | 0x005 => { c with ftvec := x }
  | 0x006 => { c with rtvec := x }
  | 0x007 => { c with tdeleg := x }
  | 0x008 => { c with ien := x }
  | 0x00B => { c with wlimit := x }
  | 0x00D => { c with timecmp := x }
  | 0x010 => { c with rsel := x }
  | 0x030 => { c with scratch := c.scratch.set 0 x }
  | 0x031 => { c with scratch := c.scratch.set 1 x }
  | 0x032 => { c with scratch := c.scratch.set 2 x }
  | 0x033 => { c with scratch := c.scratch.set 3 x }
  | _ => c

/-- The numbers of the plain registers. -/
def plainNumbers : List Nat := [0x002, 0x003, 0x004, 0x005, 0x006, 0x007, 0x008, 0x00B, 0x00D, 0x010, 0x030, 0x031, 0x032, 0x033]

theorem plainCsrs_spec {n : BitVec 12} {m : Word64} {f : Bool} (h : (n, m, f) ∈ plainCsrs) :
    (∃ r, csrRights n.toNat = some (r, .rw) ∧ (f = false → r = .rw)) ∧ m = csrMask n.toNat ∧ n.toNat ∈ plainNumbers := by
  simp only [plainCsrs, List.mem_cons, List.not_mem_nil, or_false, Prod.mk.injEq] at h
  rcases h with h | h | h | h | h | h | h | h | h | h | h | h | h | h <;>
    (obtain ⟨rfl, rfl, rfl⟩ := h; exact ⟨⟨_, rfl, by decide⟩, rfl, by decide⟩)

section
variable {c : Core} {n k : Nat} {x v : Word64}

/-- A plain register written, read back: every other one is as it was. -/
theorem csr_withCsr (hn : n ∈ plainNumbers) : (c.withCsr n x).csr k v = if k = n then x else c.csr k v := by
  simp only [plainNumbers, List.mem_cons, List.not_mem_nil, or_false] at hn
  by_cases hk : k = n
  · subst hk
    rw [if_pos rfl]
    rcases hn with rfl | rfl | rfl | rfl | rfl | rfl | rfl | rfl | rfl | rfl | rfl | rfl | rfl | rfl <;> simp [Core.withCsr, Core.csr]
  · rw [if_neg hk]
    rcases hn with rfl | rfl | rfl | rfl | rfl | rfl | rfl | rfl | rfl | rfl | rfl | rfl | rfl | rfl <;>
      unfold Core.csr <;> split <;> simp_all [Core.withCsr]

/-- What a write of a plain register leaves alone. -/
theorem withCsr_frame : (c.withCsr n x).regs = c.regs ∧ (c.withCsr n x).pc = c.pc ∧ (c.withCsr n x).lmem = c.lmem ∧
    (n ≠ 0x010 → (c.withCsr n x).rsel = c.rsel) := by
  unfold Core.withCsr
  split <;> simp

end

section
variable (s : State) (c : Core)

theorem cores_setCore_ne {k : Fin 32} (hk : s.cur.toNat ≠ k) : (setCore s c).cores[k] = s.cores[k] := by
  unfold setCore
  exact Vector.getElem_set_ne s.cur.isLt k.isLt hk

theorem saveSize_congr {s t : State} (h : t.lanes = s.lanes) (g : Region) : saveSize t g = saveSize s g := by
  unfold saveSize saveOffsets chanBeats chanTokens
  rw [h]

theorem getRegion_setCore (r : Rgn) : getRegion (setCore s c) r = getRegion s r := rfl

/-- The registers where the core has been replaced: those that it holds are the new core's. -/
theorem csrGet_setCore {k : Nat} (hsel : c.rsel = (curCore s).rsel ∨ k ∉ selectedCsrs) :
    csrGet (setCore s c) k = c.csr k (csrGet s k) := by
  have hrgn (hk : k ∈ selectedCsrs) : selRgn (setCore s c) = selRgn s := by
    unfold selRgn
    rw [curCore_setCore, hsel.resolve_right (not_not.2 hk)]
    rfl
  unfold csrGet Core.csr
  simp only [curCore_setCore]
  split
  case h_16 | h_17 | h_18 | h_19 | h_20 | h_21 | h_22 =>
    simp only [hrgn (by decide), getRegion_setCore, saveSize_congr (setCore_lanes s c)]
  case h_30 => simp only [*]
  all_goals rfl

theorem csrGet_core (k : Nat) : (curCore s).csr k (csrGet s k) = csrGet s k := by
  rw [← csrGet_setCore s _ (.inl rfl), setCore_curCore]

/-- The state after a plain register is written, with the pc moved on. -/
def csrWritten (n : Nat) (x : Word64) : State := kadvance (setCore s ((curCore s).withCsr n x))

theorem csrWritten_sets {n : BitVec 12} (hn : n.toNat ∈ plainNumbers) (x : Word64) : SetsCsr s (csrWritten s n.toNat x) n x := by
  obtain ⟨hregs, hpc, hlmem, hrsel⟩ := withCsr_frame (c := curCore s) (n := n.toNat) (x := x)
  have he : csrWritten s n.toNat x = setCore s { (curCore s).withCsr n.toNat x with pc := (curCore s).pc + 4 } := by
    unfold csrWritten kadvance
    rw [setCore_setCore, curCore_setCore, hpc]
  have hcsr (k : Nat) (hk : n = 0x010 → k ∉ selectedCsrs) : csrGet (csrWritten s n.toNat x) k = if k = n.toNat then x else csrGet s k := by
    rw [he, csrGet_setCore]
    · exact (csr_withCsr hn).trans (by rw [csrGet_core])
    · by_cases h : n = 0x010
      · exact .inr (hk h)
      · exact .inl (hrsel fun h' => h (BitVec.eq_of_toNat_eq h'))
  have hsel : n = 0x010 → n.toNat ∉ selectedCsrs := by
    rintro rfl
    decide
  refine ⟨(hcsr _ hsel).trans (if_pos rfl), fun k hne hk => (hcsr k hk).trans (if_neg hne), ?_, ?_, ?_, rfl, rfl, rfl, fun k hk => ?_⟩
  · intro r
    refine kreg_congr ?_ r
    rw [he, curCore_setCore, hregs]
  · rw [he, curCore_setCore]
  · rw [he, curCore_setCore, hlmem]
  · rw [he]
    exact cores_setCore_ne s _ hk

/-! ### Reads and writes -/

theorem csrMerge_full {n : Nat} (h : csrMask n = BitVec.allOnes 64) (old v : Word64) : csrMerge n old v = v := by
  rw [csrMerge, h, BitVec.not_allOnes, BitVec.and_zero, BitVec.zero_or, BitVec.and_allOnes]

theorem csrSet_plain {n : Nat} (hn : n ∈ plainNumbers) (v : Word64) :
    csrSet s n v = .ok (setCore s ((curCore s).withCsr n (csrMerge n (csrGet s n) v))) := by
  simp only [plainNumbers, List.mem_cons, List.not_mem_nil, or_false] at hn
  rcases hn with rfl | rfl | rfl | rfl | rfl | rfl | rfl | rfl | rfl | rfl | rfl | rfl | rfl | rfl
  case inl | inr.inr.inr.inl | inr.inr.inr.inr.inl | inr.inr.inr.inr.inr.inl | inr.inr.inr.inr.inr.inr.inl |
      inr.inr.inr.inr.inr.inr.inr.inr.inr.inl => rfl
  all_goals
    rw [csrMerge_full rfl]
    rfl

theorem csrGuard_of {s : State} {n : Nat} {r : Access1} (h : csrRight s n = some r) (hr : r ≠ .denied) (word : Nat) (f : Access1 → State) :
    csrGuard s n word f = f r := by
  unfold csrGuard
  rw [h]
  cases r
  case denied => exact absurd rfl hr
  all_goals rfl

end

/-- A plain register at a level that may write it. -/
theorem plain_writable {s : State} {n : BitVec 12} {m : Word64} {f : Bool} (h : (n, m, f) ∈ plainCsrs)
    (hf : f = true → (curCore s).prv = true) : csrRight s n.toNat = some .rw := by
  obtain ⟨⟨r, hr, hrw⟩, -, -⟩ := plainCsrs_spec h
  unfold csrRight
  rw [hr]
  cases f with
  | false => simp [hrw rfl]
  | true => simp [hf rfl]

theorem csrWrite_plain {s : State} {n : Nat} (hn : n ∈ plainNumbers) (clear : Bool) (v : Word64) :
    csrWrite s n .rw clear v = csrWritten s n (csrMerge n (csrGet s n) v) := by
  unfold csrWrite
  rw [csrSet_plain s hn]
  rfl

/-- The bits of a mask: those that `csrs` sets and `csrc` clears. -/
theorem csrMerge_or (n : Nat) (old v : Word64) : csrMerge n old (old ||| v) = old ||| (v &&& csrMask n) := by
  unfold csrMerge
  ext j hj
  simp only [BitVec.getElem_or, BitVec.getElem_and, BitVec.getElem_not]
  cases old[j] <;> cases v[j] <;> cases (csrMask n)[j] <;> rfl

theorem csrMerge_andNot (n : Nat) (old v : Word64) : csrMerge n old (old &&& ~~~v) = old &&& ~~~(v &&& csrMask n) := by
  unfold csrMerge
  ext j hj
  simp only [BitVec.getElem_or, BitVec.getElem_and, BitVec.getElem_not]
  cases old[j] <;> cases v[j] <;> cases (csrMask n)[j] <;> rfl

theorem readOnly_right {s : State} {n : BitVec 12} (h : n ∈ readOnlyCsrs (curCore s).prv) : csrRight s n.toNat = some .ro := by
  unfold csrRight
  cases hp : (curCore s).prv <;> rw [hp] at h <;>
    simp only [readOnlyCsrs, List.cons_append, List.nil_append, List.mem_cons, List.not_mem_nil, or_false, if_true, if_false,
      Bool.false_eq_true] at h
  · rcases h with rfl | rfl | rfl | rfl | rfl | rfl | rfl | rfl | rfl | rfl | rfl | rfl | rfl <;> rfl
  · rcases h with rfl | rfl | rfl | rfl | rfl | rfl | rfl | rfl | rfl <;> rfl

theorem csrRights_unlisted {n : BitVec 12} (h : n ∉ listedCsrs) : csrRights n.toNat = none := by
  unfold csrRights
  split
  case h_30 => rfl
  all_goals
    next hn =>
      rw [← ofNat_eq_of_toNat hn] at h
      exact absurd (by decide) h

/-- A register that the level reads (R225). -/
theorem csrr_reads {s : State} {d : KReg} {n : BitVec 12} {r : Access1} {v : Word64} (h : csrRight s n.toNat = some r) (hr : r ≠ .denied)
    (hv : csrGet s n.toNat = v) : Completes (.kCsrr d n) s fun t => SetsReg s t d v := by
  refine ⟨_, rfl, ?_⟩
  rw [csrGuard_of h hr, hv]
  exact kret_setsReg ..

/-- A register that both levels read. -/
theorem csrr_reads_both {s : State} {d : KReg} {n : BitVec 12} {r r' : Access1} {v : Word64} (h : csrRights n.toNat = some (r, r'))
    (hr : r ≠ .denied) (hr' : r' ≠ .denied) (hv : csrGet s n.toNat = v) : Completes (.kCsrr d n) s fun t => SetsReg s t d v := by
  refine csrr_reads (r := if (curCore s).prv then r' else r) ?_ ?_ hv
  · rw [csrRight, h]
    rfl
  · split <;> assumption

theorem rstate_eq (g : Region) : rstate g = g.st % 16 + b2n g.shrp * 2 ^ 5 + b2n g.load * 2 ^ 6 + b2n g.cutp * 2 ^ 7 + g.foot % 4 * 2 ^ 8
    + g.faultq.length % 2 ^ 16 * 2 ^ 16 + g.pour % 2 ^ 16 * 2 ^ 32 := by
  unfold rstate
  omega

theorem ksId_eq (s : State) : ksId (curPart s) s.cur.toNat = 0x7E08 * 2 ^ 48 + 0x01 * 2 ^ 40 + curPart s * 2 ^ 8 + s.cur.toNat := by
  rw [ksId, Nat.mod_eq_of_lt (curPart_lt s), Nat.mod_eq_of_lt s.cur.isLt]

/-! ### Registers of a partition or a region -/

/-- The partition's table base, written. -/
def ptbaseWritten (s : State) (x : Nat) : State := modPart s (curPart s) fun q => { q with ptbase := x }

section
variable (s : State) (x : Nat)

theorem curCore_ptbaseWritten : curCore (ptbaseWritten s x) = curCore s := curCore_congr (modPart_cores ..) (modPart_cur ..)

theorem curPart_congr {s t : State} (hm : t.pmap = s.pmap) (hc : t.cur = s.cur) : curPart t = curPart s := by
  unfold curPart corePart ownsCore partDies pmapOf
  rw [hm, hc]

theorem curPart_ptbaseWritten : curPart (ptbaseWritten s x) = curPart s := curPart_congr (modPart_pmap ..) (modPart_cur ..)

theorem csrGet_ptbaseWritten {k : Nat} (hk : k ≠ 0x020) : csrGet (ptbaseWritten s x) k = csrGet s k := by
  have hsel : selRgn (ptbaseWritten s x) = selRgn s := by rw [selRgn, curCore_ptbaseWritten, curPart_ptbaseWritten, selRgn]
  have hrgn : getRegion (ptbaseWritten s x) (selRgn s) = getRegion s (selRgn s) := getRegion_modPart _ _ _ (by intro; rfl) _
  have hsave (g : Region) : saveSize (ptbaseWritten s x) g = saveSize s g := saveSize_congr (modPart_lanes ..) g
  have hcur : (ptbaseWritten s x).cur = s.cur := modPart_cur ..
  have hns : (ptbaseWritten s x).ns = s.ns := modPart_ns ..
  unfold csrGet
  dsimp only
  rw [hsel, hrgn, hsave, hcur, hns, curCore_ptbaseWritten, curPart_ptbaseWritten]
  split
  case h_25 => exact absurd rfl hk
  all_goals rfl

theorem csrGet_kadvance (t : State) (k : Nat) : csrGet (kadvance t) k = csrGet t k := by
  exact (csrGet_setCore t { curCore t with pc := (curCore t).pc + 4 } (.inl rfl)).trans (csrGet_core t k)

/-- A write to the table base and on: every other register is as it was. -/
theorem ptbaseWritten_sets {v : Word64} : SetsCsr s (kadvance (ptbaseWritten s v.toNat)) 0x020 v := by
  have hcore := curCore_ptbaseWritten s v.toNat
  refine ⟨?_, fun k hne _ => (csrGet_kadvance _ k).trans (csrGet_ptbaseWritten s _ hne), fun r => kreg_congr ?_ r, ?_, ?_,
    modPart_hbm .., modPart_hostMem .., modPart_hostOut .., fun k hne => ?_⟩
  · rw [csrGet_kadvance]
    show BitVec.ofNat 64 (getPart (ptbaseWritten s v.toNat) (curPart (ptbaseWritten s v.toNat))).ptbase = _
    rw [curPart_ptbaseWritten, ptbaseWritten, modPart, getPart_setPart_same (curPart_lt s), BitVec.ofNat_toNat, BitVec.setWidth_eq]
  · rw [kadvance, curCore_setCore, hcore]
  · rw [kadvance, curCore_setCore, hcore]
  · rw [kadvance, curCore_setCore, hcore]
  · have hcur : (ptbaseWritten s v.toNat).cur = s.cur := modPart_cur ..
    rw [kadvance, cores_setCore_ne _ _ (by rw [hcur]; exact hne), ptbaseWritten, modPart_cores]

end

/-- An instruction that answers t, which is u. -/
theorem completes_of {i : Instr} {s t u : State} {P : State → Prop} (he : exec i s = .next t) (htu : t = u) (h : P u) : Completes i s P :=
  ⟨u, he.trans (congrArg _ htu), h⟩

/-! ### Traps of a refused access -/

theorem csrGuard_unlisted {s : State} {n : BitVec 12} (h : n ∉ listedCsrs) (word : Nat) (f : Access1 → State) :
    csrGuard s n.toNat word f = ktrap s (trapIllegal (BitVec.ofNat 64 word)) := by
  unfold csrGuard csrRight
  rw [csrRights_unlisted h]
  rfl

theorem csrGuard_denied {s : State} (h : (curCore s).prv = false) (word : Nat) (f : Access1 → State) :
    csrGuard s 0x005 word f = ktrap s (trapAccess 0x005) := by
  unfold csrGuard csrRight csrRights
  simp only [h]
  rfl

/-- A trap at the instruction itself, by its numerals. -/
theorem completes_ktrap {i : Instr} {s : State} {x : KTrap} (he : exec i s = .next (ktrap s x)) (hv : x.vec < 256) (hc : x.code < 256) :
    Completes i s fun t => TrapTaken s t false x.vec x.code x.tval (curCore s).pc :=
  ⟨_, he, ktrap_taken s x hv hc⟩

theorem completes_access {i : Instr} {s : State} {v : Word64} (he : exec i s = .next (ktrap s (trapAccess v))) :
    Completes i s fun t => TrapTaken s t false 1 0x71 v (curCore s).pc :=
  completes_ktrap he (by simp [trapAccess]) (by simp [trapAccess])

theorem completes_illegal {i : Instr} {s : State} {v : Word64} (he : exec i s = .next (ktrap s (trapIllegal v))) :
    Completes i s fun t => TrapTaken s t false 0 0x70 v (curCore s).pc :=
  completes_ktrap he (by simp [trapIllegal]) (by simp [trapIllegal])

/-! ### The monitor (R233) -/

/-- A core that watches a line, with MON cleared, and the pc moved on. -/
def monitored (t : State) (v : Word64) (l : MonLine) : State :=
  setCore t { curCore t with mona := v, monitor := some l, event := (curCore t).event &&& ~~~4, pc := (curCore t).pc + 4 }

section
variable {s u : State} {v : Word64}

theorem monaWrite_local (h : v.toNat < 0x80000) : csrEnd (monaWrite s v) = monitored s v (.loc (v.toNat / 64)) := by
  unfold monaWrite
  dsimp only
  rw [kplace_loc h]
  simp only [csrEnd, kadvance, curCore_setCore, setCore_setCore]
  rfl

theorem monaWrite_virt {pa : Nat} (lo : 0x80000 ≤ v.toNat) (hi : v.toNat < 2 ^ 56) (hx : kxlat s { r := true } v.toNat = (.ok pa, u)) :
    csrEnd (monaWrite s v) = monitored u v (.phys (pa / 64)) := by
  unfold monaWrite
  dsimp only
  rw [kplace_virt lo hi]
  dsimp only
  rw [hx]
  simp only [csrEnd, kadvance, curCore_setCore, setCore_setCore]
  rfl

theorem monaWrite_nowhere (h : 2 ^ 56 ≤ v.toNat) : csrEnd (monaWrite s v) = ktrap s (trapAccess v) := by
  unfold monaWrite
  dsimp only
  rw [kplace_none h]
  rfl

theorem monaWrite_untranslated {e : XErr} (lo : 0x80000 ≤ v.toNat) (hi : v.toNat < 2 ^ 56)
    (hx : kxlat s { r := true } v.toNat = (.error e, u)) : csrEnd (monaWrite s v) = ktrap u (trapMemory e.code v) := by
  unfold monaWrite
  dsimp only
  rw [kplace_virt lo hi]
  dsimp only
  rw [hx]
  rfl

end

/-! ### Status (R229, R230) -/

theorem statusWrite_allowed {s : State} {v : Word64} (h : (curCore s).prv = true ∨ v.getLsbD 7 = (curCore s).pprv) :
    csrEnd (statusWrite s v) =
      setCore s { curCore s with status := ((curCore s).status &&& ~~~0xC2) ||| (v &&& 0xC2), pc := (curCore s).pc + 4 } := by
  have hc : ¬((!(curCore s).prv && (v.getLsbD 7 != (curCore s).pprv)) = true) := by
    rcases h with h | h <;> rw [h] <;> simp
  unfold statusWrite
  dsimp only
  rw [if_neg hc]
  simp only [csrEnd, kadvance, curCore_setCore, setCore_setCore]
  rfl

theorem statusWrite_refused {s : State} {v : Word64} (h : (curCore s).prv = false) (hv : v.getLsbD 7 ≠ (curCore s).pprv) :
    csrEnd (statusWrite s v) = ktrap s (trapAccess v) := by
  have hc : (!(curCore s).prv && (v.getLsbD 7 != (curCore s).pprv)) = true := by rw [h]; simpa using hv
  unfold statusWrite
  dsimp only
  rw [if_pos hc]
  rfl

/-! ### Traps between instructions (R228) -/

theorem exec_tret {s : State} (h : (curCore s).prv = true ∨ (curCore s).pprv = false) : exec .kTret s = .next (setCore s (curCore s).leaveTrap) :=
  if_neg (by rcases h with h | h <;> simp [h])

theorem exec_tret_denied {s : State} (h : (curCore s).prv = false) (h' : (curCore s).pprv = true) :
    exec .kTret s = .next (ktrap s (trapAccess (curCore s).epc)) :=
  if_pos (by rw [h, h']; rfl)

section
variable {c : Core} {ns : Nat}

theorem asyncDue_region (hi : c.ie = true) (h : c.event.getLsbD 0 = true ∧ c.ien.getLsbD 0 = true) : asyncDue c ns = some 4 := by
  unfold asyncDue
  rw [hi, h.1, h.2]
  rfl

theorem asyncDue_timer (hi : c.ie = true) (hr : ¬(c.event.getLsbD 0 = true ∧ c.ien.getLsbD 0 = true))
    (h : c.event.getLsbD 1 = true ∧ c.ien.getLsbD 1 = true ∧ c.timecmp.toNat ≤ ns % 2 ^ 64) : asyncDue c ns = some 5 := by
  obtain ⟨he, hn, ht⟩ := h
  unfold asyncDue
  rw [hi, he, hn, decide_eq_true ht, ← Bool.and_eq_true, Bool.not_eq_true] at *
  rw [hr]
  rfl

theorem asyncDue_masked (hi : c.ie = false) : asyncDue c ns = none := by
  unfold asyncDue
  rw [hi]
  rfl

end

section
variable {s : State}

theorem asyncTrap_completes {v : Nat} {x : Word64} (h : asyncDue (curCore s) s.ns = some v) (hv : v < 256)
    (hx : (if v = 5 then BitVec.ofNat 64 s.ns else 0) = x) :
    Completes .evAsyncTrap s fun t => TrapTaken s t true v 0 x (curCore s).pc ∧ (curCore t).wait = none := by
  subst hx
  refine ⟨setCore s { (curCore s).enterTrap true ⟨v, 0, if v = 5 then BitVec.ofNat 64 s.ns else 0⟩ (curCore s).pc with wait := none }, ?_,
    enterTrap_taken s _ true _ _ none hv (show 0 < 256 by decide) rfl, by rw [curCore_setCore]⟩
  show execEvAsyncTrap s = _
  unfold execEvAsyncTrap
  dsimp only
  rw [h]

theorem asyncTrap_idle (h : asyncDue (curCore s) s.ns = none) : exec .evAsyncTrap s = .next s := by
  show execEvAsyncTrap s = _
  unfold execEvAsyncTrap
  dsimp only
  rw [h]

end

end Sys2Proof.Machine

open Sys2Proof Sys2Proof.Machine

/-- Settles O11: each trap by its entry, `tret` by the fields that it takes back, the asynchronous vectors by which of them is due. -/
theorem kettleTraps : Obligations.KettleTraps := by
  intro s c
  refine ⟨fun i => ⟨_, rfl, enterTrap_taken s _ false ⟨3, 0x40, zext64 i⟩ _ _ (show 3 < 256 by decide) (show 0x40 < 256 by decide) rfl⟩,
    fun w => completes_illegal rfl, fun h => ⟨_, exec_tret h, ?_⟩, fun h h' => completes_access (exec_tret_denied h h'),
    fun hie hr => asyncTrap_completes (asyncDue_region hie hr) (by decide) rfl,
    fun hie hr ht => asyncTrap_completes (asyncDue_timer hie hr ht) (by decide) rfl,
    fun hie => ⟨s, asyncTrap_idle (asyncDue_masked hie), rfl⟩⟩
  simp only [curCore_setCore, Core.leaveTrap]
  exact ⟨rfl, mkStatus_prv .., mkStatus_ie .., mkStatus_pprv .., mkStatus_pie ..⟩

/-- Settles O12: each register by its rights and its value. -/
theorem csrReads : Obligations.CsrReads := by
  intro s d c g reads
  have both {n : BitVec 12} {r r' : Access1} {v : Word64} (h : csrRights n.toNat = some (r, r')) (hr : r ≠ .denied) (hr' : r' ≠ .denied)
      (hv : csrGet s n.toNat = v) : reads n v := csrr_reads_both h hr hr' hv
  have ro {n : BitVec 12} {v : Word64} (h : csrRights n.toNat = some (.ro, .ro)) (hv : csrGet s n.toNat = v) : reads n v :=
    both h (by decide) (by decide) hv
  have rw' {n : BitVec 12} {v : Word64} (h : csrRights n.toNat = some (.rw, .rw)) (hv : csrGet s n.toNat = v) : reads n v :=
    both h (by decide) (by decide) hv
  have fw {n : BitVec 12} {v : Word64} (h : csrRights n.toNat = some (.ro, .rw)) (hv : csrGet s n.toNat = v) : reads n v :=
    both h (by decide) (by decide) hv
  have w1c {n : BitVec 12} {v : Word64} (h : csrRights n.toNat = some (.w1c, .w1c)) (hv : csrGet s n.toNat = v) : reads n v :=
    both h (by decide) (by decide) hv
  refine ⟨ro rfl (congrArg (BitVec.ofNat 64) (ksId_eq s)), rw' rfl rfl, fw rfl rfl, rw' rfl rfl, fw rfl rfl, fun hp => ?_, rw' rfl rfl, fw rfl rfl, rw' rfl rfl,
    w1c rfl rfl, rw' rfl rfl, rw' rfl rfl, ro rfl rfl, rw' rfl rfl, rw' rfl rfl, ro rfl (congrArg (BitVec.ofNat 64) (rstate_eq g)),
    ro rfl (BitVec.ofNat_toNat ..), ro rfl rfl, ro rfl rfl, rw' rfl ?_, ro rfl rfl, ro rfl rfl, w1c rfl rfl, ro rfl rfl, fw rfl rfl,
    rw' rfl rfl, rw' rfl rfl, rw' rfl rfl, rw' rfl rfl⟩
  · refine csrr_reads (r := .rw) ?_ (by decide) rfl
    show some (if c.prv then Access1.rw else .denied) = _
    rw [hp]
    rfl
  · show BitVec.ofNat 64 (b2n g.brken) = _
    cases g.brken <;> rfl

/-- Settles O13: a plain register takes the bits of its mask, a register that is read-only at the level nothing. -/
theorem csrWrites : Obligations.CsrWrites := by
  intro s a n v
  refine ⟨fun m f hm hf => ?_, fun hro => ?_⟩
  · intro old
    obtain ⟨-, rfl, hn⟩ := plainCsrs_spec hm
    have hr := plain_writable hm hf
    have sets {i : Instr} {clear : Bool} {x y : Word64} (he : exec i s = .next (csrWrite s n.toNat .rw clear x))
        (hxy : csrMerge n.toNat old x = y) : Completes i s fun t => SetsCsr s t n y := by
      refine ⟨_, he, ?_⟩
      rw [csrWrite_plain hn, hxy]
      exact csrWritten_sets s hn y
    exact ⟨sets (congrArg _ (csrGuard_of hr (by decide) ..)) rfl, sets (congrArg _ (csrGuard_of hr (by decide) ..)) (csrMerge_or ..),
      sets (congrArg _ (csrGuard_of hr (by decide) ..)) (csrMerge_andNot ..)⟩
  · have hr := readOnly_right hro
    have ignores {i : Instr} {word : Nat} {f : Access1 → State} (he : exec i s = .next (csrGuard s n.toNat word f)) (hf : f .ro = kadvance s) :
        Completes i s fun t => SetsPc s t ((curCore s).pc + 4) :=
      completes_of he ((csrGuard_of hr (by decide) ..).trans hf) (kadvance_setsPc s)
    exact ⟨ignores rfl rfl, ignores rfl rfl, ignores rfl rfl⟩

/-- Settles O14: the partition's and the region's register by their own lemmas, the others by the steps that they are. -/
theorem csrSpecialWrites : Obligations.CsrSpecialWrites := by
  intro s a v
  have right {n : Nat} {r : Access1} (h : csrRights n = some (r, r)) : csrRight s n = some r := by
    rw [csrRight, h]
    simp
  have write (n : BitVec 12) {r : Access1} (h : csrRights n.toNat = some (r, r)) (hr : r ≠ .denied) :
      exec (.kCsrw a n) s = .next (csrWrite s n.toNat r false v) := congrArg _ (csrGuard_of (right h) hr ..)
  have set (n : BitVec 12) (h : csrRights n.toNat = some (.w1c, .w1c)) :
      exec (.kCsrs a n) s = .next (csrWrite s n.toNat .w1c false v) := congrArg _ (csrGuard_of (right h) (by decide) ..)
  have clear (n : BitVec 12) (h : csrRights n.toNat = some (.w1c, .w1c)) : exec (.kCsrc a n) s = .next (kadvance s) :=
    congrArg _ (csrGuard_of (right h) (by decide) ..)
  refine ⟨fun hp => ?_, ?_, write 0x001 rfl (by decide), write 0x009 rfl (by decide), write 0x00A rfl (by decide), write 0x018 rfl (by decide),
    set 0x009 rfl, set 0x018 rfl, ⟨_, clear 0x009 rfl, kadvance_setsPc s⟩, ⟨_, clear 0x018 rfl, kadvance_setsPc s⟩⟩
  · have hr : csrRight s 0x020 = some .rw := by
      show some (if (curCore s).prv then Access1.rw else .ro) = _
      rw [hp]
      rfl
    have hval : v &&& 0x000FFFFFFFF00000 = csrMerge 0x020 0 v := by
      simp [csrMerge, csrMask]
    have hwrite : exec (.kCsrw a 0x020) s = .next (csrWrite s 0x020 .rw false v) :=
      congrArg Host.Outcome.next (csrGuard_of (n := 0x020) hr (by decide) ..)
    rw [hval]
    exact ⟨_, hwrite, ptbaseWritten_sets s⟩
  · let t := modRegion s (selRgn s) fun g => { g with brken := v.getLsbD 0 }
    have hcore : curCore t = curCore s := curCore_congr (modRegion_cores ..) (modRegion_cur ..)
    have hbr : (getRegion t (selRgn s)).brken = v.getLsbD 0 := by rw [getRegion_modRegion_same (curPart_lt s)]
    have hsel : selRgn (kadvance t) = selRgn s := by
      unfold selRgn
      rw [kadvance, curCore_setCore, hcore, curPart_congr (t := setCore t _) (modRegion_pmap ..) (modRegion_cur ..)]
    refine ⟨kadvance t, write 0x015 rfl (by decide), hbr, ?_, ?_, fun r => ?_⟩
    · show BitVec.ofNat 64 (b2n (getRegion (kadvance t) (selRgn (kadvance t))).brken) = _
      rw [hsel, kadvance, getRegion_setCore, hbr]
      ext j hj
      cases j <;> cases hv : v.getLsbD 0 <;> simp_all [b2n]
    · rw [kadvance, curCore_setCore, hcore]
    · refine kreg_congr ?_ r
      rw [kadvance, curCore_setCore, hcore]

/-- Settles O15: an unlisted number is judged first, then the level. -/
theorem csrRefused : Obligations.CsrRefused := by
  intro s d n word
  have hword (sel x y : Nat) : word sel x y = BitVec.ofNat 64 (csrWord sel x y n.toNat) := rfl
  refine ⟨fun hn => ?_, ?_⟩
  · simp only [hword]
    exact ⟨completes_illegal (congrArg _ (csrGuard_unlisted hn ..)), completes_illegal (congrArg _ (csrGuard_unlisted hn ..)),
      completes_illegal (congrArg _ (csrGuard_unlisted hn ..)), completes_illegal (congrArg _ (csrGuard_unlisted hn ..))⟩
  · rintro hp rfl i hi
    simp only [List.mem_cons, List.not_mem_nil, or_false] at hi
    rcases hi with rfl | rfl | rfl | rfl <;> exact completes_access (congrArg _ (csrGuard_denied hp ..))

/-- Settles O16: each step by the register that it writes. -/
theorem kettleEventSteps : Obligations.KettleEventSteps := by
  intro s v c pc
  have moved {nd : Need} {x : Except XErr Nat} {u : State} (hx : kxlat s nd v.toNat = (x, u)) : (curCore u).pc = c.pc := (kxlat_walked hx).pc
  refine ⟨fun h => completes_of rfl (statusWrite_allowed h) rfl, fun h hv => completes_access (congrArg _ (statusWrite_refused h hv)),
    ⟨_, rfl, ?_⟩, ⟨_, rfl, ?_⟩, fun h => completes_of rfl (monaWrite_local h) rfl, fun pa u lo hi hx => ?_,
    fun h => completes_access (congrArg _ (monaWrite_nowhere h)), fun e u lo hi hx => ?_, fun h => ⟨_, rfl, ?_⟩, fun h => ⟨_, rfl, ?_⟩⟩
  · simp only [eventWrite, kadvance, curCore_setCore, setCore_setCore]
    rfl
  · simp only [revtWrite, kadvance, curCore_setCore, setCore_setCore]
    rfl
  · refine completes_of rfl (monaWrite_virt lo hi hx) ?_
    rw [monitored, moved hx]
  · refine completes_of rfl (monaWrite_untranslated lo hi hx) ?_
    rw [← moved hx]
    exact ktrap_taken u (trapMemory e.code v) (show 2 < 256 by decide) (show e.code < 256 by cases e <;> decide)
  · rw [Core.timer, if_pos h]
    rfl
  · rw [Core.timer, if_neg (Nat.not_le.2 h), setCore_curCore]

end

section
/-! SUPPORT. The order of a core's accesses: the stores that it holds back are performed, and a host port's path is emptied (spec/09: R221,
R223; spec/11: R281). -/

namespace Sys2Proof.Machine

/-! ### Stores that a core holds back (R221) -/

/-- The current core after its oldest delayed store: it holds the others back. -/
theorem kdrainOne_core {s : State} {b : BufStore} {r : List BufStore} (h : (curCore s).buf = b :: r) :
    curCore (kdrainOne s) = { curCore s with buf := r, event := (curCore (kdrainOne s)).event } := by
  unfold kdrainOne
  rw [h]
  dsimp only
  have hlog := (logWrite_logged (setCore s { curCore s with buf := r }) (curPart (setCore s { curCore s with buf := r })) 0 b.pa b.n).core
  have hown := (physWriteMask_kept (logWrite (setCore s { curCore s with buf := r }) (curPart (setCore s { curCore s with buf := r })) 0 b.pa b.n)
    (some (setCore s { curCore s with buf := r }).cur.toNat) b.pa b.n b.val (2 ^ b.n - 1)).core
  rw [physWrite, hown, hlog, curCore_setCore]

/-- A rule of induction for the stores that a core holds back: what one of them keeps, all of them keep. -/
theorem kdrain_induct {P : State → Prop} (hstep : ∀ s b r, (curCore s).buf = b :: r → P s → P (kdrainOne s)) {s : State} (h : P s) :
    P (kdrain s) ∧ (curCore (kdrain s)).buf = [] := by
  unfold kdrain
  generalize hl : (curCore s).buf = l
  induction l generalizing s with
  | nil => exact ⟨h, hl⟩
  | cons b r ih => exact ih (hstep s b r hl h) (congrArg (·.buf) (kdrainOne_core hl))

theorem kdrain_core (s : State) : curCore (kdrain s) = { curCore s with buf := [], event := (curCore (kdrain s)).event } := by
  obtain ⟨h, hb⟩ := kdrain_induct (P := fun t => curCore t = { curCore s with buf := (curCore t).buf, event := (curCore t).event })
    (fun t b r hbuf ht => by
      have hone := kdrainOne_core hbuf
      rw [hone, ht]) rfl
  rw [h, hb]

/-- A held store to a good line of HBM is performed: its bytes are there, and nothing of the host paths, the markers or the partitions
changes. -/
theorem kdrainOne_hbm {s : State} {b : BufStore} {r : List BufStore} {st off : Nat} (h : (curCore s).buf = b :: r)
    (ht : target b.pa = .hbm st off) (hgood : s.badLines.contains (b.pa / 64) = false) (hn : b.n < 64) : let t := kdrainOne s
    t.hbm = writeBytes s.hbm b.pa b.n b.val ∧ t.hostOut = s.hostOut ∧ t.hostMem = s.hostMem ∧ t.badLines = s.badLines ∧ t.parts = s.parts := by
  have hone : kdrainOne s = physWrite (setCore s { curCore s with buf := r }) (some s.cur.toNat) b.pa b.n b.val := by
    unfold kdrainOne
    rw [h]
    dsimp only
    rw [logWrite_quiet (s := setCore s _) hgood]
    rfl
  obtain ⟨hframe, hhbm, -⟩ := physWrite_hbm (s := setCore s { curCore s with buf := r }) (v := b.val) ht hn
  rw [hone]
  exact ⟨hhbm, congrArg (·.hostOut) hframe, congrArg (·.hostMem) hframe, congrArg (·.badLines) hframe, congrArg (·.parts) hframe⟩

/-- Held stores to good lines of HBM are written there in program order. -/
theorem kdrain_hbm {s : State} (h : ∀ b ∈ (curCore s).buf, ((∃ st off, target b.pa = .hbm st off) ∧ s.badLines.contains (b.pa / 64) = false) ∧ b.n < 64) :
    let t := kdrain s
    t.hbm = (curCore s).buf.foldl (fun m b => writeBytes m b.pa b.n b.val) s.hbm ∧ t.hostOut = s.hostOut ∧ t.hostMem = s.hostMem ∧
      t.badLines = s.badLines ∧ t.parts = s.parts := by
  unfold kdrain
  generalize hl : (curCore s).buf = l at h
  induction l generalizing s with
  | nil => exact ⟨rfl, rfl, rfl, rfl, rfl⟩
  | cons b r ih =>
    obtain ⟨⟨⟨st, off, ht⟩, hgood⟩, hn⟩ := h b List.mem_cons_self
    obtain ⟨h1, h2, h3, h4, h5⟩ := kdrainOne_hbm hl ht hgood hn
    obtain ⟨k1, k2, k3, k4, k5⟩ := ih (congrArg (·.buf) (kdrainOne_core hl)) fun c hc => by
      rw [h4]
      exact h c (List.mem_cons_of_mem b hc)
    exact ⟨by rw [List.foldl_cons, k1, h1]; rfl, k2.trans h2, k3.trans h3, k4.trans h4, k5.trans h5⟩

/-- A held store to host memory enters its port's path (R281). -/
theorem kdrain_host {s : State} {b : BufStore} {port bus : Nat} (h : (curCore s).buf = [b]) (ht : target b.pa = .host port bus)
    (hgood : s.badLines.contains (b.pa / 64) = false) : let t := kdrain s
    t.hbm = s.hbm ∧ t.hostMem = s.hostMem ∧ t.hostOut = s.hostOut ++ [(port, false, ⟨bus, b.n, b.val⟩)] := by
  have hone : kdrain s = physWrite (setCore s { curCore s with buf := [] }) (some s.cur.toNat) b.pa b.n b.val := by
    unfold kdrain
    rw [h, List.foldl_cons, List.foldl_nil, kdrainOne, h]
    dsimp only
    rw [logWrite_quiet (s := setCore s _) hgood]
    rfl
  rw [hone]
  unfold physWrite physWriteMask
  simp only [ht]
  rw [if_pos (Nat.mod_eq_of_lt (by have := Nat.two_pow_pos b.n; omega))]
  exact ⟨rfl, rfl, rfl⟩

/-! ### The path of a host port (R281) -/

theorem splitPort_eq (p : Nat) (l : List (Nat × Bool × BufStore)) :
    splitPort p l = ((l.find? (·.1 == p)).map (·.2.2), l.eraseP (·.1 == p)) := by
  induction l with
  | nil => rfl
  | cons e r ih =>
    obtain ⟨q, b⟩ := e
    unfold splitPort
    by_cases h : q = p
    · simp [h]
    · simp [h, ih]

theorem filter_eraseP {α : Type} (p : α → Bool) (l : List α) :
    (l.eraseP p).filter p = (l.filter p).tail ∧ (l.eraseP p).filter (!p ·) = l.filter (!p ·) := by
  induction l with
  | nil => exact ⟨rfl, rfl⟩
  | cons a r ih =>
    cases h : p a
    · simp [h, ih]
    · simp [h]

/-- A port's path emptied: its writes have reached the host's memory in their order. -/
theorem drainHost_eq (s : State) (p : Nat) :
    drainHost s p = { s with hostMem := pathMem s p, hostOut := s.hostOut.filter fun e => !(e.1 == p) } := by
  unfold drainHost pathMem
  generalize hl : (s.hostOut.filter (·.1 == p)) = l
  induction l generalizing s with
  | nil =>
    have hall : s.hostOut.filter (fun e => !(e.1 == p)) = s.hostOut :=
      List.filter_eq_self.2 fun e he => by simpa using List.filter_eq_nil_iff.1 hl e he
    rw [hall]
    rfl
  | cons e r ih =>
    have hfind : s.hostOut.find? (·.1 == p) = some e := by rw [← List.head?_filter, hl, List.head?_cons]
    obtain ⟨hsame, hother⟩ := filter_eraseP (fun e : Nat × Bool × BufStore => e.1 == p) s.hostOut
    have hone : drainHostOne s p = { s with hostMem := writeBytes s.hostMem e.2.2.pa e.2.2.n e.2.2.val, hostOut := s.hostOut.eraseP (·.1 == p) } := by
      unfold drainHostOne
      rw [splitPort_eq, hfind]
      rfl
    rw [List.foldl_cons, hone, ih _ (by rw [hsame, hl, List.tail_cons]), hother]
    rfl

theorem korder_sys (s : State) : korder s true = { kdrain s with
    hostMem := pathMem (drainHost (kdrain s) 0) 1
    hostOut := ((kdrain s).hostOut.filter fun e => !(e.1 == 0)).filter fun e => !(e.1 == 1) } := by
  unfold korder
  rw [if_pos rfl, drainHost_eq (drainHost _ 0)]
  simp only [drainHost_eq]

/-- What an order of accesses leaves of the core: it holds no store back (R223). -/
theorem korder_core (s : State) (sys : Bool) : curCore (korder s sys) = { curCore s with buf := [], event := (curCore (korder s sys)).event } := by
  cases sys with
  | false => exact kdrain_core s
  | true =>
    rw [korder_sys]
    exact kdrain_core s

/-- Where a path holds all the writes, the other ports' have none. -/
theorem pathMem_all {s : State} {p : Nat} (h : ∀ e ∈ s.hostOut, e.1 = p) :
    pathMem s p = s.hostOut.foldl (fun m e => writeBytes m e.2.2.pa e.2.2.n e.2.2.val) s.hostMem := by
  unfold pathMem
  rw [List.filter_eq_self.2 fun e he => by simp [h e he]]

theorem pathMem_none {s : State} {p : Nat} (h : ∀ e ∈ s.hostOut, e.1 ≠ p) : pathMem s p = s.hostMem := by
  unfold pathMem
  rw [List.filter_eq_nil_iff.2 fun e he => by simp [h e he]]
  rfl

/-- All the writes under way are of one of the two ports: they reach the host's memory in their order. -/
theorem korder_sys_path {s : State} {p : Nat} (hp : p < 2) (hb : (curCore s).buf = []) (h : ∀ e ∈ s.hostOut, e.1 = p) :
    korder s true = { s with hostMem := s.hostOut.foldl (fun m e => writeBytes m e.2.2.pa e.2.2.n e.2.2.val) s.hostMem, hostOut := [] } := by
  have hout : (s.hostOut.filter fun e => !(e.1 == 0)).filter (fun e => !(e.1 == 1)) = [] := by
    refine List.filter_eq_nil_iff.2 fun e he => ?_
    obtain ⟨he, h0⟩ := List.mem_filter.1 he
    have := h e he
    have : e.1 ≠ 0 := by simpa using h0
    have : e.1 = 1 := by omega
    simp [this]
  have hmem : pathMem (drainHost s 0) 1 = s.hostOut.foldl (fun m e => writeBytes m e.2.2.pa e.2.2.n e.2.2.val) s.hostMem := by
    rw [drainHost_eq]
    obtain rfl | rfl : p = 0 ∨ p = 1 := by omega
    · rw [pathMem_none (p := 1) (fun e he => by rw [h e (List.mem_filter.1 he).1]; decide)]
      exact pathMem_all h
    · have hkeep : s.hostOut.filter (fun e => !(e.1 == 0)) = s.hostOut := List.filter_eq_self.2 fun e he => by simp [h e he]
      rw [hkeep, pathMem_none (p := 0) (fun e he => by rw [h e he]; decide)]
      exact pathMem_all h
  rw [korder_sys, kdrain_nil hb, hout, hmem]

end Sys2Proof.Machine

open Sys2Proof Sys2Proof.Machine

/-- Settles O17: the held stores by where they go, the paths by their ports. -/
theorem kettleFence : Obligations.KettleFence := by
  intro s c hbm host
  have parts {t : State} (h : t.parts = s.parts) (r : Rgn) : getRegion t r = getRegion s r := by
    unfold getRegion getPart
    rw [h]
  refine ⟨fun h => ⟨_, rfl, ?_⟩, fun b port bus hb hh hc => ⟨_, rfl, ?_⟩, fun p hp hc hb ho => ⟨_, rfl, ?_⟩, ⟨_, rfl, ?_⟩, fun hs => ⟨_, rfl, ?_⟩⟩
  · obtain ⟨h1, h2, h3, h4, h5⟩ := kdrain_hbm h
    cases c with
    | false => exact ⟨h1, fun _ => ⟨h2, h3⟩, h4, parts h5⟩
    | true =>
      rw [korder_sys]
      exact ⟨h1, fun hc => absurd hc (by decide), h4, parts h5⟩
  · subst hc
    exact kdrain_host hb hh.1 hh.2
  · subst hc
    rw [korder_sys_path hp hb ho]
    exact ⟨rfl, rfl, rfl⟩
  · have hcore : curCore (kadvance (korder s c)) =
        { curCore s with buf := [], event := (curCore (korder s c)).event, pc := (curCore s).pc + 4 } := by
      rw [kadvance, curCore_setCore, korder_core]
    refine ⟨congrArg (·.buf) hcore, fun hc e he => ?_, congrArg (·.pc) hcore, kreg_congr (congrArg (·.regs) hcore)⟩
    subst hc
    rw [korder_sys] at he
    obtain ⟨he, h1⟩ := List.mem_filter.1 he
    obtain ⟨-, h0⟩ := List.mem_filter.1 he
    exact ⟨by simpa using h0, by simpa using h1⟩
  · rw [korder_settled hs]
    exact kadvance_setsPc s

end

section
/-! SUPPORT. Waits of a kettle core: what ends them, and what goes on (spec/09: R234, R235, R238). -/

namespace Sys2Proof.Machine

/-! ### A wait that ends, and one that goes on -/

/-- A wait ends with kd := v: the core goes on, and nothing else of it changes. -/
theorem kret_unwaited (u : State) (c : Core) (d : KReg) (v : Word64) : let t := kret (setCore u { c with wait := none }) d v
    t = setCore u { c with regs := (curCore t).regs, wait := none, pc := c.pc + 4 } ∧ ∀ q, kreg t q = if q = d ∧ d ≠ 0 then v else c.reg q := by
  obtain ⟨hset, hreg⟩ := kret_setsReg (setCore u { c with wait := none }) d v
  rw [curCore_setCore, setCore_setCore] at hset
  refine ⟨hset, fun q => ?_⟩
  rw [hreg, kreg, curCore_setCore]
  rfl

/-- A core that waits on for what it waits for already. -/
theorem setCore_wait {s : State} {w : Option Wait} (h : (curCore s).wait = w) : setCore s { curCore s with wait := w } = s := by
  subst h
  exact setCore_curCore s

/-! ### `kwait` (R234) -/

section
variable {s : State} {d a : KReg} {since : Nat}

theorem kwaitTry_ends (h : kwaitReason s a since ≠ 0) : kwaitTry s d a since =
    kret (setCore s { curCore s with wait := none }) d (BitVec.ofNat 64 (kwaitReason s a since)) := if_pos h

theorem kwaitTry_waits (h : kwaitReason s a since = 0) : kwaitTry s d a since =
    setCore s { curCore s with wait := some (.kwait d a since) } := if_neg (not_not.2 h)

theorem exec_kwaitWake (h : (curCore s).wait = some (.kwait d a since)) : exec .evKwaitWake s = .next (kwaitTry s d a since) := by
  show execEvKwaitWake s = _
  unfold execEvKwaitWake
  rw [h]

end

/-! ### `gwaitk` (R235) -/

/-- A gauge word names no gauge of the region's image, or the region is UNARMED or SAVED. -/
def NoGauge (g : Region) (w : Nat) : Prop := 2 ^ 29 ≤ w ∨ g.st = 0 ∨ g.st = 6 ∨ findGauge g w = none

theorem gaugeWordOk_iff (w : Nat) : gaugeWordOk w = true ↔ w < 2 ^ 29 := by
  unfold gaugeWordOk
  rw [beq_iff_eq]
  omega

/-- The gauge of a word, as the controller judges it. -/
theorem judgedGauge {g : Region} {w : Nat} : (if gaugeWordOk w && g.st ≠ 0 && g.st ≠ 6 then findGauge g w else none : Option (Nat × Nat)) =
    if w < 2 ^ 29 ∧ g.st ≠ 0 ∧ g.st ≠ 6 then findGauge g w else none := by
  refine if_congr ?_ rfl rfl
  simp only [Bool.and_eq_true, gaugeWordOk_iff, decide_eq_true_eq, and_assoc]

theorem judgedGauge_none {g : Region} {w : Nat} (h : NoGauge g w) :
    (if gaugeWordOk w && g.st ≠ 0 && g.st ≠ 6 then findGauge g w else none : Option (Nat × Nat)) = none := by
  rw [judgedGauge]
  split
  · next hc =>
    obtain ⟨h1, h2, h3⟩ := hc
    rcases h with h | h | h | h
    · omega
    · exact absurd h h2
    · exact absurd h h3
    · exact h
  · rfl

theorem judgedGauge_some {g : Region} {w : Nat} {q : Nat × Nat} (h : ¬NoGauge g w) (hq : findGauge g w = some q) :
    (if gaugeWordOk w && g.st ≠ 0 && g.st ≠ 6 then findGauge g w else none : Option (Nat × Nat)) = some q := by
  rw [judgedGauge, if_pos, hq]
  unfold NoGauge at h
  push Not at h
  exact ⟨h.1, h.2.1, h.2.2.1⟩

theorem genReached_iff (gen b : Nat) : genReached gen b = true ↔ (gen + 2 ^ 32 - b % 2 ^ 32) % 2 ^ 32 < 2 ^ 31 := decide_eq_true_iff

theorem genReached_eq_false {gen b : Nat} (h : 2 ^ 31 ≤ (gen + 2 ^ 32 - b % 2 ^ 32) % 2 ^ 32) : genReached gen b = false :=
  decide_eq_false (Nat.not_lt.2 h)

section
variable {s : State} {d a b : KReg} {since : Nat}

/-- The region whose gauge the word in a register names. -/
def gaugeRgn (s : State) (a : KReg) : Rgn := ⟨curPart s, (kreg s a).toNat % 64⟩

theorem gwaitkTry_refused (h : NoGauge (getRegion s (gaugeRgn s a)) (kreg s a).toNat) :
    gwaitkTry s d a b since = ktrap (setCore s { curCore s with wait := none }) (trapAccess (kreg s a)) := by
  unfold gwaitkTry
  dsimp only
  rw [show (⟨curPart s, (kreg s a).toNat % 64⟩ : Rgn) = gaugeRgn s a from rfl, judgedGauge_none h]

/-- A `gwaitk` ends: its generation is reached, or its limit has passed. -/
theorem gwaitkTry_ends {e n : Nat} (h : ¬NoGauge (getRegion s (gaugeRgn s a)) (kreg s a).toNat)
    (hg : findGauge (getRegion s (gaugeRgn s a)) (kreg s a).toNat = some (e, n))
    (hr : genReached (nth (nth (getRegion s (gaugeRgn s a)).elems e {}).gauges n {}).gen (kreg s b).toNat = true ∨
      (curCore s).wlimit ≠ 0 ∧ (curCore s).wlimit.toNat ≤ s.kcyc - since) :
    gwaitkTry s d a b since = kret (setCore (busy s (gaugeRgn s a)) { curCore s with wait := none }) d
      (BitVec.ofNat 64 (nth (nth (getRegion s (gaugeRgn s a)).elems e {}).gauges n {}).gen) := by
  unfold gwaitkTry
  dsimp only
  rw [show (⟨curPart s, (kreg s a).toNat % 64⟩ : Rgn) = gaugeRgn s a from rfl, judgedGauge_some h hg]
  exact if_pos (by simpa using hr)

theorem gwaitkTry_waits {e n : Nat} (h : ¬NoGauge (getRegion s (gaugeRgn s a)) (kreg s a).toNat)
    (hg : findGauge (getRegion s (gaugeRgn s a)) (kreg s a).toNat = some (e, n))
    (hr : genReached (nth (nth (getRegion s (gaugeRgn s a)).elems e {}).gauges n {}).gen (kreg s b).toNat = false)
    (hl : ¬((curCore s).wlimit ≠ 0 ∧ (curCore s).wlimit.toNat ≤ s.kcyc - since)) :
    gwaitkTry s d a b since = setCore (if (curCore s).wait.isNone then busy s (gaugeRgn s a) else s)
      { curCore s with wait := some (.gwaitk d a b since) } := by
  unfold gwaitkTry
  dsimp only
  rw [show (⟨curPart s, (kreg s a).toNat % 64⟩ : Rgn) = gaugeRgn s a from rfl, judgedGauge_some h hg]
  refine if_neg fun hc => hl ?_
  rw [Bool.or_eq_true] at hc
  exact (by simpa using hc.resolve_left (by rw [hr]; decide))

theorem exec_gwaitkWake (h : (curCore s).wait = some (.gwaitk d a b since)) : exec .evGwaitkWake s = .next (gwaitkTry s d a b since) := by
  show execEvGwaitkWake s = _
  unfold execEvGwaitkWake
  rw [h]

theorem regionBusy_eq_false (g : Region) : regionBusy g = false ↔ g.load = false ∧ g.cutp = false ∧ saving g = false := by
  simp [regionBusy, and_assoc]

section
variable (hb : (curCore s).buf = [])
include hb

theorem exec_gwaitk_busy (h : regionBusy (getRegion s (gaugeRgn s a)) = true) (hw : (kreg s a).toNat < 2 ^ 29) :
    exec (.kGwaitk d a b) s = .next (kret s d 1) := by
  show execKGwaitk d a b s = _
  unfold execKGwaitk
  rw [korder_mod hb]
  exact if_pos (Bool.and_eq_true_iff.2 ⟨(gaugeWordOk_iff _).2 hw, h⟩)

theorem exec_gwaitk_tries (h : regionBusy (getRegion s (gaugeRgn s a)) = false ∨ 2 ^ 29 ≤ (kreg s a).toNat) :
    exec (.kGwaitk d a b) s = .next (gwaitkTry s d a b s.kcyc) := by
  show execKGwaitk d a b s = _
  unfold execKGwaitk
  rw [korder_mod hb]
  refine if_neg fun hc => ?_
  obtain ⟨hw, hbusy⟩ := Bool.and_eq_true_iff.1 hc
  rcases h with h | h
  · exact absurd (h.symm.trans hbusy) (by decide)
  · exact absurd ((gaugeWordOk_iff _).1 hw) (Nat.not_lt.2 h)

end

end

end Sys2Proof.Machine

open Sys2Proof Sys2Proof.Machine

/-- Settles O18: both waits by whether they end, where they start and where the core looks again. -/
theorem kettleWaits : Obligations.KettleWaits := by
  refine ⟨fun s d a since => ?_, fun s d a b since => ?_⟩
  · intro c reason ends
    have hreason (n : Nat) : reason (s.kcyc - n) = kwaitReason s a n := rfl
    have hnow : reason 0 = kwaitReason s a s.kcyc := by rw [← hreason, Nat.sub_self]
    have ended {i : Instr} {n : Nat} (he : exec i s = .next (kwaitTry s d a n)) (hr : kwaitReason s a n ≠ 0) : ends i (s.kcyc - n) :=
      completes_of he (kwaitTry_ends hr) (kret_unwaited s c d _)
    refine ⟨fun hr => ?_, fun hr => ?_, fun hw hr => ended (exec_kwaitWake hw) hr, fun hw hr => ?_⟩
    · have h := ended (i := .kKwait d a) (n := s.kcyc) rfl (hnow ▸ hr)
      rwa [Nat.sub_self] at h
    · exact completes_of rfl (kwaitTry_waits (hnow ▸ hr)) rfl
    · exact completes_of (exec_kwaitWake hw) ((kwaitTry_waits hr).trans (setCore_wait hw)) rfl
  · intro c g idle ends bad
    have hidle : idle ↔ regionBusy g = false := (regionBusy_eq_false g).symm
    have ended {i : Instr} {n : Nat} {v : Word64} (he : exec i s = .next (gwaitkTry s d a b n))
        (ht : gwaitkTry s d a b n = kret (setCore (busy s (gaugeRgn s a)) { c with wait := none }) d v) : ends i v :=
      completes_of he ht (kret_unwaited _ c d v)
    have refused {i : Instr} {n : Nat} (hbad : bad) (he : exec i s = .next (gwaitkTry s d a b n)) :
        Completes i s fun t => TrapTaken s t false 1 0x71 (kreg s a) c.pc ∧ (curCore t).wait = none := by
      refine completes_of he (gwaitkTry_refused hbad) ⟨enterTrap_taken s _ false (trapAccess (kreg s a)) c.pc none (show 1 < 256 by decide)
        (show 0x71 < 256 by decide) ?_, ?_⟩
      · simp only [ktrap, curCore_setCore, setCore_setCore]
        rfl
      · simp only [ktrap, curCore_setCore]
        rfl
    refine ⟨fun e n hbad hg hr => ⟨fun hb hi => ?_, fun hw => ?_⟩, fun e n hbad hg hr => ⟨fun hb hi hw => ?_, fun hw hl => ?_, fun hw hl => ?_⟩,
      fun hbad hw => refused hbad (exec_gwaitkWake hw), fun hi hw hb => ?_, fun hbad hi hb hw => ?_⟩
    · exact ended (exec_gwaitk_tries hb (.inl (hidle.1 hi))) (gwaitkTry_ends hbad hg (.inl ((genReached_iff ..).2 hr)))
    · exact ended (exec_gwaitkWake hw) (gwaitkTry_ends hbad hg (.inl ((genReached_iff ..).2 hr)))
    · refine completes_of (exec_gwaitk_tries hb (.inl (hidle.1 hi))) (gwaitkTry_waits hbad hg (genReached_eq_false hr) ?_) ?_
      · rintro ⟨h0, hle⟩
        rw [Nat.sub_self, Nat.le_zero] at hle
        exact h0 (BitVec.eq_of_toNat_eq hle)
      · rw [hw]
        rfl
    · exact ended (exec_gwaitkWake hw) (gwaitkTry_ends hbad hg (.inr hl))
    · refine completes_of (exec_gwaitkWake hw) (gwaitkTry_waits hbad hg (genReached_eq_false hr) hl) ?_
      rw [hw]
      exact setCore_wait hw
    · refine completes_of (exec_gwaitk_busy hb ?_ hw) rfl (kret_setsReg s d 1)
      exact Bool.not_eq_false _ ▸ fun h => hi (hidle.2 h)
    · obtain ⟨t, he, ht, -⟩ := refused hbad (exec_gwaitk_tries (d := d) (b := b) hb (hi.imp_left hidle.1))
      exact ⟨t, he, ht⟩

end

section
/-! SUPPORT. What a scrub finds and leaves, and an Almanac record taken (spec/09: R249, R250; spec/22: R408; spec/23: R419, R420). -/

namespace Sys2Proof.Machine

/-! ### The scrub (R250, R408) -/

/-- A bitmap of chunks has the bits of the chunks of its offsets, beside those it had. -/
theorem testBit_chunks (w c : Nat) (offs : List Nat) (m : Nat) :
    (offs.foldl (fun m o => m ||| 2 ^ (o / w)) m).testBit c = (m.testBit c || offs.any fun o => o / w == c) := by
  induction offs generalizing m with
  | nil => simp
  | cons o offs ih =>
    rw [List.foldl_cons, ih, Nat.testBit_or, Nat.testBit_two_pow, List.any_cons, Bool.or_assoc]
    rfl

theorem testBit_chunkMap (len c : Nat) (offs : List Nat) : (chunkMap len offs).testBit c = offs.any fun o => o / (len / 64) == c := by
  rw [chunkMap, testBit_chunks, Nat.zero_testBit, Bool.false_or]

/-- The bitmap of the lines that a test picks among those that a range holds. -/
theorem getLsbD_chunkMap {α : Type} (len : Nat) {c : Nat} (hc : c < 64) (l : List α) (f : α → List Nat) (q : α → Bool) :
    (BitVec.ofNat 64 (chunkMap len ((l.filter fun x => f x != [] && q x).flatMap f))).getLsbD c =
      l.any fun x => q x && (f x).any fun o => o / (len / 64) == c := by
  rw [BitVec.getLsbD_ofNat, testBit_chunkMap, List.any_flatMap, List.any_filter, decide_eq_true hc, Bool.true_and]
  refine congrArg l.any (funext fun x => ?_)
  cases hx : f x <;> simp [Bool.and_assoc]

theorem scrubPages_walked (n : Nat) : ∀ (s : State) (va : Nat), Walked s (scrubPages s n va).2 := by
  induction n with
  | zero => exact fun s va => .refl s
  | succ n ih =>
    intro s va
    unfold scrubPages
    split
    · exact .refl s
    · split
      · next h => exact kxlat_walked h
      · next h =>
        split
        · exact kxlat_walked h
        · have hw := (kxlat_walked h).trans (ih _ (va + 4096))
          split <;> next he => rwa [he] at hw

/-- The lines in error that a scrub of a walked range finds and reports. -/
def scrubReported (t : State) (soft : List (Nat × Nat × Nat)) (bad : List Nat) : State :=
  let p := curPart t
  bad.foldl (fun u l => errLog u p 0 (stackOf (l * 64)) 0 4 0 (l * 64))
    (soft.foldl (fun u e => errLog u p 0 (stackOf (e.1 * 64)) (softSyms e) 3 (softLayer e) (e.1 * 64)) t)

theorem scrubReported_logged (t : State) (soft : List (Nat × Nat × Nat)) (bad : List Nat) : Logged t (scrubReported t soft bad) :=
  (Logged.foldl (fun _ _ => errLog_logged ..) soft t).trans (Logged.foldl (fun _ _ => errLog_logged ..) bad _)

/-- The correctable lines of a range, and the uncorrectable ones. -/
def scrubSoft (t : State) (pages : List Nat) : List (Nat × Nat × Nat) :=
  t.softLines.filter fun e => scrubOffs pages e.1 != [] && !t.badLines.contains e.1
def scrubBad (t : State) (pages : List Nat) : List Nat := t.badLines.filter fun l => scrubOffs pages l != []

/-- What a scrub leaves before its core goes on. -/
def scrubbedState (t : State) (pages : List Nat) (len : Nat) : State :=
  let v := scrubReported t (scrubSoft t pages) (scrubBad t pages)
  let v := { v with softLines := v.softLines.filter fun e => !(scrubSoft t pages).contains e }
  setCore v { curCore v with scrubu := BitVec.ofNat 64 (chunkMap len ((scrubBad t pages).flatMap (scrubOffs pages))) }

/-- A length that a scrub takes, and an address in virtual memory, as the instruction asks for them. -/
theorem scrubLength_iff (n : Nat) : (decide (n % 2 ^ 18 ≠ 0) || decide (2 ^ 34 < n)) = true ↔ n % 2 ^ 18 ≠ 0 ∨ 2 ^ 34 < n := by
  rw [Bool.or_eq_true, decide_eq_true_eq, decide_eq_true_eq]

theorem scrubNowhere_iff (n : Nat) : (decide (n < localTop) || decide (2 ^ 56 ≤ n)) = true ↔ n < 0x80000 ∨ 2 ^ 56 ≤ n := by
  rw [Bool.or_eq_true, decide_eq_true_eq, decide_eq_true_eq]
  rfl

section
variable {s t : State} {d a b : KReg} {pages : List Nat}

theorem exec_kscrub (hlen : (kreg s b).toNat % 2 ^ 18 = 0) (hmax : (kreg s b).toNat ≤ 2 ^ 34) (hal : (kreg s a).toNat % 4096 = 0)
    (lo : 0x80000 ≤ (kreg s a).toNat) (hi : (kreg s a).toNat < 2 ^ 56) (hb : (curCore s).buf = [])
    (hp : scrubPages s ((kreg s b).toNat / 4096) (kreg s a).toNat = (.ok pages, t)) :
    exec (.kKscrub d a b) s = .next (kret (scrubbedState t pages (kreg s b).toNat) d
      (BitVec.ofNat 64 (chunkMap (kreg s b).toNat ((scrubSoft t pages).flatMap fun e => scrubOffs pages e.1)))) := by
  show execKKscrub d a b s = _
  unfold execKKscrub
  rw [if_neg (by rw [scrubLength_iff]; omega), if_neg (not_not.2 hal), if_neg (by rw [scrubNowhere_iff]; omega), kdrain_nil hb]
  dsimp only
  rw [hp]
  rfl

theorem exec_kscrub_length (h : (kreg s b).toNat % 2 ^ 18 ≠ 0 ∨ 2 ^ 34 < (kreg s b).toNat) :
    exec (.kKscrub d a b) s = .next (ktrap s (trapAccess (kreg s b))) := by
  show execKKscrub d a b s = _
  unfold execKKscrub
  exact if_pos ((scrubLength_iff _).2 h)

section
variable (hlen : (kreg s b).toNat % 2 ^ 18 = 0) (hmax : (kreg s b).toNat ≤ 2 ^ 34)
include hlen hmax

theorem exec_kscrub_range (hal : (kreg s a).toNat % 4096 ≠ 0) : exec (.kKscrub d a b) s = .next (kret s d 4) := by
  show execKKscrub d a b s = _
  unfold execKKscrub
  rw [if_neg (by rw [scrubLength_iff]; omega), if_pos hal]

theorem exec_kscrub_nowhere (hal : (kreg s a).toNat % 4096 = 0) (h : (kreg s a).toNat < 0x80000 ∨ 2 ^ 56 ≤ (kreg s a).toNat) :
    exec (.kKscrub d a b) s = .next (ktrap s (trapAccess (kreg s a))) := by
  show execKKscrub d a b s = _
  unfold execKKscrub
  rw [if_neg (by rw [scrubLength_iff]; omega), if_neg (not_not.2 hal), if_pos ((scrubNowhere_iff _).2 h)]

end

theorem scrubbedState_frame (t : State) (pages : List Nat) (len : Nat) : let v := scrubbedState t pages len
    curCore v = { curCore t with
        event := (curCore v).event, scrubu := BitVec.ofNat 64 (chunkMap len ((scrubBad t pages).flatMap (scrubOffs pages))) } ∧
    v.badLines = t.badLines ∧
    (∀ e ∈ v.softLines, scrubOffs pages e.1 ≠ [] → t.badLines.contains e.1 = true) := by
  have hl := scrubReported_logged t (scrubSoft t pages) (scrubBad t pages)
  unfold scrubbedState
  dsimp only
  refine ⟨?_, ?_, fun e he hoff => ?_⟩
  · rw [curCore_setCore]
    exact congrArg (fun c : Core => { c with scrubu := BitVec.ofNat 64 (chunkMap len ((scrubBad t pages).flatMap (scrubOffs pages))) }) hl.core
  · exact congrArg (·.badLines) hl.frame
  · obtain ⟨hmem, hsoft⟩ := List.mem_filter.1 he
    by_contra hbad
    have : e ∈ scrubSoft t pages := List.mem_filter.2 ⟨hl.soft hmem, by simpa [hoff] using hbad⟩
    simp [this] at hsoft

end

/-! ### The Almanac's records (R419, R420) -/

theorem physWrite_pmap (s : State) (by_ : Option Nat) (pa n v : Nat) : (physWrite s by_ pa n v).pmap = s.pmap := by
  unfold physWrite physWriteMask
  dsimp only
  split
  · split <;> rfl
  · split <;> rfl
  · rfl

/-- A write by the hardware leaves the core but for MON, and its partition but for the error log's NEXT. -/
theorem vwriteD_kept (s : State) (p va n v : Nat) : CoreKept s (vwriteD s p va n v) ∧ (vwriteD s p va n v).pmap = s.pmap ∧
    ∀ q, getPart (vwriteD s p va n v) q = { getPart s q with errNext := (getPart (vwriteD s p va n v) q).errNext } := by
  have hlog {t : State} (h : Logged s t) : CoreKept s t := ⟨congrArg (·.cur) h.frame, congrArg (·.hostMem) h.frame, h.core⟩
  unfold vwriteD vwrite
  split
  · have hl := logWalk_logged s [] p va
    exact ⟨hlog hl, congrArg (·.pmap) hl.frame, hl.part⟩
  · next pa _ =>
    have hl := (logWalk_logged s [] p va).trans (logWrite_logged _ p 0 pa n)
    refine ⟨(hlog hl).trans (physWriteMask_kept ..), ?_, fun q => ?_⟩
    · exact (physWrite_pmap ..).trans (congrArg (·.pmap) hl.frame)
    · have hp : getPart (physWrite (logWrite (logWalk s [] p va) p 0 pa n) none pa n v) q = getPart (logWrite (logWalk s [] p va) p 0 pa n) q := by
        rw [getPart, physWrite_parts, ← getPart]
      rw [Option.getD_some, hp]
      exact hl.part q

/-- Where no line is in error, no partition changes. -/
theorem vwriteD_parts {s : State} {p va n v : Nat} (hb : s.badLines = []) (hs : s.softLines = []) : (vwriteD s p va n v).parts = s.parts := by
  unfold vwriteD vwrite
  rw [logWalk_good hb hs]
  split
  · rfl
  · next pa _ =>
    rw [Option.getD_some, physWrite_parts, show logWrite s p 0 pa n = s by simp [logWrite, lineBad, hb]]

theorem getPart_vwriteD {s : State} {p va n v : Nat} (hb : s.badLines = []) (hs : s.softLines = []) (q : Nat) :
    getPart (vwriteD s p va n v) q = getPart s q := by
  unfold getPart
  rw [vwriteD_parts hb hs]

section
variable {s : State} {d b : KReg}

/-- The next sequence number of the partition of the current core (R420). -/
def almNext (s : State) : Nat := ((getPart s (curPart s)).almseq + (getPart s (curPart s)).almq.length) % 2 ^ 64

theorem almPlace_iff (n : Nat) : (decide (n % 64 ≠ 0) || decide (localTop ≤ n)) = true ↔ n % 64 ≠ 0 ∨ 0x80000 ≤ n := by
  rw [Bool.or_eq_true, decide_eq_true_eq, decide_eq_true_eq]
  rfl

theorem exec_almw (hal : (kreg s b).toNat % 64 = 0) (hi : (kreg s b).toNat < 0x80000) (hbad : (curCore s).badLocal.contains ((kreg s b).toNat / 64) = false)
    (hb : (curCore s).buf = []) (hok : almOk (readBytes (curCore s).lmem (kreg s b).toNat 64) = true) :
    exec (.kAlmw d b) s = .next (kret (almTake s (curPart s) (readBytes (curCore s).lmem (kreg s b).toNat 64)).1 d (BitVec.ofNat 64 (almNext s))) := by
  show execKAlmw d b s = _
  unfold execKAlmw
  dsimp only
  have hok' : ¬(!almOk (readBytes (curCore s).lmem (kreg s b).toNat 64)) = true := by simp [hok]
  rw [if_neg (by rw [almPlace_iff]; omega), if_neg (show ¬localBad s (kreg s b).toNat = true from Bool.eq_false_iff.1 hbad), if_neg hok', korder_mod hb]
  rfl

theorem exec_almw_reserved (hal : (kreg s b).toNat % 64 = 0) (hi : (kreg s b).toNat < 0x80000)
    (hbad : (curCore s).badLocal.contains ((kreg s b).toNat / 64) = false) (hok : almOk (readBytes (curCore s).lmem (kreg s b).toNat 64) = false) :
    exec (.kAlmw d b) s = .next (kret s d (BitVec.allOnes 64)) := by
  show execKAlmw d b s = _
  unfold execKAlmw
  dsimp only
  have hok' : (!almOk (readBytes (curCore s).lmem (kreg s b).toNat 64)) = true := by simp [hok]
  rw [if_neg (by rw [almPlace_iff]; omega), if_neg (show ¬localBad s (kreg s b).toNat = true from Bool.eq_false_iff.1 hbad), if_pos hok']

theorem exec_almw_misplaced (h : (kreg s b).toNat % 64 ≠ 0 ∨ 0x80000 ≤ (kreg s b).toNat) :
    exec (.kAlmw d b) s = .next (ktrap s (trapAccess (kreg s b))) := if_pos ((almPlace_iff _).2 h)

/-- The address of the record that a partition takes next, and the record itself. -/
def almVa (s : State) (p : Nat) : Nat := (getPart s p).almbase + 64 * (((getPart s p).almseq + (getPart s p).almq.length) % 2 ^ 64 % 65536)
def almRecord (s : State) (p image : Nat) : Nat :=
  image % 2 ^ 384 + s.ns % 2 ^ 64 * 2 ^ 384 + ((getPart s p).almseq + (getPart s p).almq.length) % 2 ^ 64 * 2 ^ 448

theorem almTake_hbm (s : State) (p image : Nat) : (almTake s p image).1.hbm = (vwriteD s p (almVa s p) 64 (almRecord s p image)).hbm :=
  modPart_hbm ..

theorem curCore_almTake (s : State) (p image : Nat) :
    curCore (almTake s p image).1 = { curCore s with event := (curCore (almTake s p image).1).event } := by
  have hmod : curCore (almTake s p image).1 = curCore (vwriteD s p (almVa s p) 64 (almRecord s p image)) :=
    curCore_congr (modPart_cores ..) (modPart_cur ..)
  rw [hmod]
  exact (vwriteD_kept ..).1.core

/-- The partition keeps what it was but for the records taken and the error log's NEXT. -/
theorem getPart_almTake (s : State) {p : Nat} (hp : p < 16) (image : Nat) : getPart (almTake s p image).1 p = { getPart s p with
    errNext := (getPart (vwriteD s p (almVa s p) 64 (almRecord s p image)) p).errNext
    almq := (getPart s p).almq ++ [(((getPart s p).almseq + (getPart s p).almq.length) % 2 ^ 64, true)] } := by
  have hmod : getPart (almTake s p image).1 p = _ := getPart_setPart_same hp
  exact hmod.trans (congrArg (fun q : Part => { q with almq := q.almq ++ [(((getPart s p).almseq + (getPart s p).almq.length) % 2 ^ 64, true)] })
    ((vwriteD_kept s p (almVa s p) 64 (almRecord s p image)).2.2 p))

end

end Sys2Proof.Machine

open Sys2Proof Sys2Proof.Machine

/-- Settles O19: a walked range with its two bitmaps, then the refusals in their order. -/
theorem kettleScrub : Obligations.KettleScrub := by
  intro s t d a b pages va len
  refine ⟨fun hlen hmax hal lo hi hb hp => ?_, fun h => completes_access (exec_kscrub_length h),
    fun hlen hmax => ⟨fun hal => completes_of (exec_kscrub_range hlen hmax hal) rfl (kret_setsReg s d 4),
      fun hal h => completes_access (exec_kscrub_nowhere hlen hmax hal h)⟩⟩
  have hw : Walked s t := by
    have h := scrubPages_walked (len / 4096) s va
    rwa [hp] at h
  obtain ⟨hcore, hbad, hsoft⟩ := scrubbedState_frame t pages len
  obtain ⟨hset, hreg⟩ := kret_setsReg (scrubbedState t pages len) d
    (BitVec.ofNat 64 (chunkMap len ((scrubSoft t pages).flatMap fun e => scrubOffs pages e.1)))
  have hkept (r : KReg) : kreg (scrubbedState t pages len) r = kreg s r := (kreg_congr (congrArg (·.regs) hcore) r).trans (hw.kreg r)
  have hcur : curCore (kret (scrubbedState t pages len) d _) = _ := (congrArg curCore hset).trans (curCore_setCore ..)
  refine completes_of (exec_kscrub hlen hmax hal lo hi hb hp) rfl ⟨fun hd c hc => ?_, fun c hc => ?_, ?_, ?_, ?_, fun r hr => ?_⟩
  · rw [hreg, if_pos ⟨rfl, hd⟩]
    exact getLsbD_chunkMap len hc t.softLines (fun e => scrubOffs pages e.1) fun e => !t.badLines.contains e.1
  · have hmap := getLsbD_chunkMap len hc t.badLines (scrubOffs pages) fun _ => true
    simp only [Bool.and_true, Bool.true_and] at hmap
    rw [hcur]
    exact (congrArg (fun x : Core => x.scrubu.getLsbD c) hcore).trans hmap
  · rw [hset]
    exact hsoft
  · rw [hset]
    exact hbad.trans rfl
  · rw [hcur]
    exact congrArg (· + 4) ((congrArg (·.pc) hcore).trans hw.pc)
  · rw [hreg, if_neg fun h => hr h.1, hkept]

/-- Settles O20: the record taken by what its write reaches, the refusals, and the head. -/
theorem almanacAppend : Obligations.AlmanacAppend := by
  intro s d b p a r q n
  have hp := curPart_lt s
  refine ⟨fun hal hi hbad hb => ?_, fun h => completes_access (exec_almw_misplaced h), fun hp m rest hq => ?_⟩
  · have hexec (hok : almOk r = true) : exec (.kAlmw d b) s = .next (kret (almTake s (curPart s) r).1 d (BitVec.ofNat 64 n)) :=
      exec_almw (d := d) hal hi hbad hb hok
    obtain ⟨hset, hreg⟩ := kret_setsReg (almTake s (curPart s) r).1 d (BitVec.ofNat 64 n)
    have hcore := curCore_almTake s (curPart s) r
    have hpart : getPart (kret (almTake s (curPart s) r).1 d (BitVec.ofNat 64 n)) (curPart s) = _ := getPart_almTake s hp r
    have hhbm : (kret (almTake s (curPart s) r).1 d (BitVec.ofNat 64 n)).hbm = _ := almTake_hbm s (curPart s) r
    refine ⟨fun hok => completes_of (hexec hok) rfl ⟨fun x => ?_, ?_, ?_, ?_⟩, fun pa st off hok hbl hsl hx ht => completes_of (hexec hok) rfl ⟨?_, ?_⟩,
      fun e hok hbl hsl hx => completes_of (hexec hok) rfl ?_, fun hok => completes_of (exec_almw_reserved hal hi hbad hok) rfl (kret_setsReg s d _)⟩
    · rw [hreg, kreg_congr (congrArg (·.regs) hcore)]
    · rw [hset, curCore_setCore]
      exact congrArg (· + 4) (congrArg (·.pc) hcore)
    · rw [hpart]
    · rw [hpart]
    · exact hhbm.trans (vwriteD_good hbl hsl hx ht)
    · rw [hpart, getPart_vwriteD hbl hsl]
    · rw [hhbm]
      unfold vwriteD vwrite
      rw [show xlatW s (curPart s) (almVa s (curPart s)) = .error e from hx, Option.getD_none, logWalk_good hbl hsl]
  · refine completes_of ?_ rfl rfl
    show execEvAlmanacHeadAdvance p s = _
    unfold execEvAlmanacHeadAdvance
    rw [hq]
    rfl

end

section
/-! SUPPORT. The controller's refusals, and what it leaves of a region that runs, is drained, saved, shrunk, loaded or given data
(spec/09: R236 to R248). -/

namespace Sys2Proof.Machine

/-! ### What the controller refuses (R236, R238) -/

/-- The fabric instructions that name a region by its handle alone are judged by the controller. -/
theorem exec_fabricForm {s : State} {i : Instr} {d : KReg} {v : Word64} {states : List Nat} (h : fabricForm s i = some (d, v, states)) :
    ∃ f, exec i s = .next (fabric s d v states f) := by
  unfold fabricForm at h
  split at h <;> cases h <;> exact ⟨_, rfl⟩

section
variable {s : State} {d : KReg} {v : Word64} {states : List Nat} {f : State → Rgn → Region → Nat × State} (hb : (curCore s).buf = [])
include hb

theorem fabric_badHandle (h : 64 ≤ v.toNat) : fabric s d v states f = fstatus s d 3 := by
  unfold fabric
  rw [korder_mod hb]
  exact if_pos (by omega)

section
variable (hv : v.toNat < 64)
include hv

theorem fabric_busy (h : regionBusy (getRegion s ⟨curPart s, v.toNat⟩) = true) : fabric s d v states f = fstatus s d 1 := by
  unfold fabric
  rw [korder_mod hb]
  exact (if_neg (by omega)).trans (if_pos h)

theorem fabric_badState (h : regionBusy (getRegion s ⟨curPart s, v.toNat⟩) = false) (hst : (getRegion s ⟨curPart s, v.toNat⟩).st ∉ states) :
    fabric s d v states f = fstatus s d 2 := by
  unfold fabric
  rw [korder_mod hb]
  refine (if_neg (by omega)).trans ((if_neg (Bool.eq_false_iff.1 h)).trans (if_pos ?_))
  simpa using hst

end

end

/-! ### The region that runs (R242 to R247) -/

theorem beginCut_cur (s : State) (r : Rgn) : (beginCut s r).cur = s.cur := modRegion_cur ..

theorem beginCut_local (s : State) (r : Rgn) : Local s (beginCut s r) r := modRegion_local ..

theorem getRegion_beginCut {s : State} {r : Rgn} (hp : r.part < 16) : getRegion (beginCut s r) r = { getRegion s r with
    stopping := true, cutp := true, bcastClk := some ((getRegion s r).bcastClk.getD s.clk) } := getRegion_modRegion_same hp

theorem Local.withLanes {s u : State} {r : Rgn} (h : Local s u r) : Local { s with lanes := u.lanes } u r := by
  rw [h.lanes]
  exact h

/-- A resume of a region without lost lane groups or bad control state meets nothing. -/
theorem resume_meets {s : State} {r : Rgn} (hp : r.part < 16) (hup : LanesUp s r) (hctrl : ∀ e ∈ (getRegion s r).elems, e.badCtrl = none)
    (pass : Bool) : let u := enterState s r (resume (getRegion s r) pass s.clk) (getRegion s r).resumeSt
    meetLost (meetCtrl u r) r = u := by
  intro u
  have hc : meetCtrl u r = u := by
    refine meetCtrl_good fun e he => ?_
    rw [getRegion_enterState hp] at he
    obtain ⟨e', he', rfl⟩ := List.mem_map.1 he
    exact hctrl e' he'
  rw [hc]
  refine meetLost_up ?_
  unfold LanesUp
  rw [enterState_lanes]
  exact hup

theorem areaOk_not {v : Nat} (hal : v % 4096 = 0) (hlt : v < 2 ^ 56) : ¬(!areaOk v) = true := by
  simpa [areaOk, hal] using hlt

theorem shrinkOk_of {g : Region} {v : Nat} (h : g.pour + 1 < g.img.npour) (hv : ∀ vs ∈ g.img.pours.drop (g.pour + 1), ∃ x ∈ vs, x.foot = v) :
    shrinkOk g v = true := by
  simpa [shrinkOk, h] using hv

end Sys2Proof.Machine

open Sys2Proof Sys2Proof.Machine

/-- Settles O25, by what the controller refuses before it asks what the instruction does. -/
theorem fabricRefusals : Obligations.FabricRefusals := by
  intro s i d v states hi hb
  obtain ⟨f, he⟩ := exec_fabricForm hi
  refine ⟨fun hv => completes_of he (fabric_badHandle hb hv) (kret_setsReg s d 3), fun hv => ⟨fun h => ?_, fun hl hc hs hst => ?_⟩⟩
  · refine completes_of he (fabric_busy hb hv ?_) (kret_setsReg s d 1)
    simpa [regionBusy, or_assoc] using h
  · exact completes_of he (fabric_badState hb hv ((regionBusy_eq_false _).2 ⟨hl, hc, hs⟩) hst) (kret_setsReg s d 2)

/-- Settles O22, instruction by instruction: each is accepted, and its region is what the controller leaves. -/
theorem fabricControl : Obligations.FabricControl := by
  intro s d a b r hf g v
  refine ⟨fun hst => ?_, fun hst hv hup hctrl => ?_, fun hst => ?_, fun hst hal hlt => ?_, fun hst hal hlt => ?_, fun hst hv hn hvs => ?_⟩
  all_goals have hp : r.part < 16 := part_lt_of_st fun h0 : g.st = 0 => by omega
  · refine accepts_of (u := beginCut s r) rfl hf (by simpa using hst) hp rfl (beginCut_local s r).withLanes (beginCut_cur s r) ?_
    rw [getRegion_beginCut hp, show (beginCut s r).clk = s.clk from modRegion_clk ..]
  · refine accepts_of (u := enterState s r (resume g (v == 1) s.clk) g.resumeSt) rfl hf (by simpa using hst) hp
      ((if_neg (Nat.not_le.2 hv)).trans (congrArg _ (resume_meets hp hup hctrl _))) (enterState_local ..).withLanes (enterState_cur ..) ?_
    rw [getRegion_enterState hp]
    refine ⟨rfl, rfl, rfl, rfl, ?_, ((enterState_posted _ _ _ _).busy).fstatus 0⟩
    show (if (v == 1) = true then g.stopAt else none) = _
    simp only [beq_iff_eq]
  · refine accepts_of (u := drainRegion s r g (v % 2 ^ 32)) rfl hf (by simpa using hst) hp rfl (enterState_local ..).withLanes (enterState_cur ..) ?_
    unfold drainRegion
    rw [getRegion_enterState hp]
    refine ⟨rfl, rfl, fun h1 h2 => ?_, fun h n => ?_, ((enterState_posted _ _ _ _).busy).fstatus 0⟩
    · simp [h1, h2]
    · have hif : (g.between && !g.starting) = false := by rcases h with h | h <;> simp [h]
      simp only [hif, Bool.false_eq_true, if_false, List.mem_map, List.mem_filter, Bool.and_eq_true, beq_iff_eq, Bool.not_eq_true']
      exact exists_congr fun c => by tauto
  · refine accepts_of (u := setRegion s r { g with job := some (.save v) }) rfl hf (by simpa using hst) hp
      (if_neg (areaOk_not hal hlt)) (setRegion_local ..).withLanes (setRegion_cur ..) ?_
    rw [getRegion_setRegion_same hp, setRegion_clk]
  · refine accepts_of (u := beginCut (setRegion s r { g with job := some (.evict v) }) r) rfl hf (by simpa using hst) hp
      (if_neg (areaOk_not hal hlt)) ((setRegion_local ..).trans (beginCut_local ..)).withLanes
      ((beginCut_cur ..).trans (setRegion_cur ..)) ?_
    rw [getRegion_beginCut hp, getRegion_setRegion_same hp, setRegion_clk, show (beginCut _ r).clk = _ from modRegion_clk .., setRegion_clk]
  · refine accepts_of (u := setRegion s r { g with shrp := true, shrink := v }) rfl hf (by simpa using hst) hp
      (if_neg ?_) (setRegion_local ..).withLanes (setRegion_cur ..) ?_
    · have hok : shrinkOk (getRegion s r) (kreg s b).toNat = true := shrinkOk_of hn hvs
      simpa [hok] using hv
    · rw [getRegion_setRegion_same hp, setRegion_clk]

end

section
/-! SUPPORT. Regions handedOver to the Infusers, and the constants, tokens and fault records of a region (spec/09: R239 to R241, R245, R247,
R248). -/

namespace Sys2Proof.Machine

/-! ### `iload` and `rrestore` (R239, R240, R247) -/

/-- Each die of a placement has its Infuser occupied by the region. -/
theorem occupyInfusers_mem (s : State) (r : Rgn) (place : Nat) {die : Nat} (hd : die < 8) (h : bit (placeDies place) die = true) :
    (die, (r.part, r.handle)) ∈ (occupyInfusers s r place).infuser :=
  List.mem_append_right _ (List.mem_map_of_mem (List.mem_filter.2 ⟨List.mem_range.2 hd, h⟩))

/-- A region g handedOver to the Infusers of a placement. -/
def handedOver (s : State) (r : Rgn) (place : Nat) (g : Region) : State := occupyInfusers (setRegion s r g) r place

theorem handedOver_local (s : State) (r : Rgn) (place : Nat) (g : Region) : Local s (handedOver s r place g) r :=
  (setRegion_local s r g).trans ⟨rfl, ⟨rfl, rfl⟩, rfl, fun _ _ => rfl, fun _ => rfl⟩

/-- An instruction that hands a region to the Infusers, and answers OK. -/
theorem accepts_handedOver {i : Instr} {s : State} {d : KReg} {r : Rgn} {place : Nat} {g : Region} {P : State → Region → Prop}
    (he : exec i s = .next (fstatus (busy (handedOver s r place g) r) d 0)) (hp : r.part < 16)
    (hP : ∀ t, (∀ die < 8, bit (placeDies place) die = true → (die, (r.part, r.handle)) ∈ t.infuser) → P t { g with idleBase := s.clk }) :
    Accepts i s d r P := by
  refine ⟨_, he, answers_of_local (handedOver_local s r place g).withLanes (setRegion_cur s r g), ?_⟩
  have hclk : (handedOver s r place g).clk = s.clk := setRegion_clk s r g
  have hrgn : getRegion (handedOver s r place g) r = g := getRegion_setRegion_same hp
  rw [getRegion_fstatus, busy, getRegion_modRegion_same hp, hclk, hrgn]
  refine hP _ fun die hd hb => ?_
  show _ ∈ (modRegion (handedOver s r place g) r _).infuser
  rw [modRegion_infuser]
  exact occupyInfusers_mem _ r place hd hb

theorem iload_accepts {s : State} {r : Rgn} {va place x y : Nat} (hbusy : regionBusy (getRegion s r) = false) (hst : (getRegion s r).st = 0)
    (hal : va % 4096 = 0) (hlt : va < 2 ^ 56) (hplace : placeOk place = true) (hpeek : peekShape s r.part va = some (x, y))
    (hden : placeDenied s r place x y = false) (hinf : infuserBusy s r.part place = false) :
    iload s r va place = (0, busy (handedOver s r place { getRegion s r with
      load := true, failed := false, place := place, imgAddr := va, foot := 0, img := { regw := x, regh := y }, copy := {}, job := some (.load va place) }) r) := by
  have hva : ¬(decide (va % 4096 ≠ 0) || decide (2 ^ 56 ≤ va)) = true := by
    rw [Bool.or_eq_true, decide_eq_true_eq, decide_eq_true_eq]
    omega
  unfold iload
  dsimp only
  rw [hpeek, if_neg (by rw [hbusy]; decide), if_neg (by rw [hst]; decide), if_neg hva, if_neg (by rw [hplace]; decide)]
  dsimp only [Option.map_some, Option.getD_some]
  rw [if_neg (by rw [hden]; decide), if_neg (by rw [hinf]; decide)]
  rfl

theorem rrestore_accepts {s : State} {r : Rgn} {area place x : Nat} (hbusy : regionBusy (getRegion s r) = false) (hst : (getRegion s r).st = 6)
    (hal : area % 4096 = 0) (hlt : area < 2 ^ 56) (hplace : placeOk place = true) (hx : saveHeader s r.part area = some x)
    (hsh : shapeDiffers place (byteRange x 0x20 2) (byteRange x 0x22 2) = false)
    (hden : placeDenied s r place (byteRange x 0x20 2) (byteRange x 0x22 2) = false) (hinf : infuserBusy s r.part place = false) :
    rrestore s r area place = (0, busy (handedOver s r place { getRegion s r with
      load := true, place := place, copy := {}, job := some (.restore place area) }) r) := by
  have hva : ¬(decide (area % 4096 ≠ 0) || decide (2 ^ 56 ≤ area)) = true := by
    rw [Bool.or_eq_true, decide_eq_true_eq, decide_eq_true_eq]
    omega
  unfold rrestore
  dsimp only
  rw [hx, if_neg (by rw [hbusy]; decide), if_neg (by rw [hst]; decide), if_neg hva, if_neg (by rw [hplace]; decide)]
  dsimp only
  rw [if_neg (by rw [hsh]; decide), if_neg (by rw [hden]; decide), if_neg (by rw [hinf]; decide)]
  rfl

section
variable {s u : State} {d a b : KReg} (hb : (curCore s).buf = [])
include hb

theorem exec_iload (h : iload s ⟨curPart s, (kreg s b).toNat % 64⟩ (kreg s a).toNat (kreg s b).toNat = (0, u)) :
    exec (.kIload d a b) s = .next (fstatus u d 0) := by
  show execKIload d a b s = _
  unfold execKIload
  rw [korder_mod hb]
  dsimp only
  rw [h, if_pos rfl]

theorem exec_rrestore (h : rrestore s ⟨curPart s, (kreg s a).toNat % 64⟩ (kreg s b).toNat (kreg s a).toNat = (0, u)) :
    exec (.kRrestore d a b) s = .next (fstatus u d 0) := by
  show execKRrestore d a b s = _
  unfold execKRrestore
  rw [korder_mod hb]
  dsimp only
  rw [h, if_pos rfl]

end

/-! ### `argw`, `inj` and `fltq` (R241, R245, R248) -/

theorem tapEnter_cur (s : State) (r : Rgn) (ch : Nat) (tok : Token) : (tapEnter s r ch tok).cur = s.cur := by
  obtain h | h := tapEnter_cases s r ch tok
  · rw [h]
  · rw [h]
    obtain h | ⟨f, -, h⟩ := tapSee_cases s r ch 0 tok
    · rw [h]
    · rw [h, modPart_cur]

theorem tokenImage_length (m : List Host.Cell) (x : Nat) : 0 < (tokenImage m x).2 := by
  unfold tokenImage
  dsimp only
  split
  · exact Nat.zero_lt_succ _
  · split
    · exact Nat.zero_lt_succ _
    · exact Nat.add_pos_left (Nat.zero_lt_succ _) _

theorem argWrite_accepts {s : State} {r : Rgn} {v k n : Nat}
    (hfind : ((getRegion s r).elems.findIdx? fun e => e.x == bits k 18 11 && e.y == bits k 24 19 && e.kind == b2n (bit k 25)) = some n)
    (hn : n < (curVariant (getRegion s r)).elems.length)
    (hdesc : let wd := nth (nth (getRegion s r).elems n {}).cfg.slots (bits k 10 6) 0xFF00000FFFE00000
      descFault (getRegion s r).img (opCode wd).toNat (opFields wd) v = 0) :
    argWrite s r (getRegion s r) v k = (0, setRegion s r { getRegion s r with
      elems := modNth (getRegion s r).elems n fun e => { e with consts := modNth e.consts (bits k 10 6) fun _ => v } }) := by
  unfold argWrite
  dsimp only
  rw [hfind]
  exact (if_neg (Nat.not_le.2 hn)).trans (if_neg (not_not.2 hdesc))

/-- A region that an `inj` has sent a token on: its channel, its origins and its queued EOS. -/
def tokenSent (g : Region) (clk : Nat) (c : Chan) (t : Token) : Region :=
  { g with origin := if t.hdr.poison && t.hdr.kind != 1 then nextOrigin g.origin else g.origin,
           eosInj := if t.hdr.kind = 1 then g.eosInj.filter (· ≠ c.num) else g.eosInj,
           chans := g.chans.map fun x => if x.num = c.num then injSend clk (injToken g t) x else x }

theorem inject_accepts {s : State} {r : Rgn} {t : Token} {c : Chan} (hfind : ((getRegion s r).chans.find? fun (c : Chan) =>
    c.num == (getRegion s r).chBase + t.hdr.chan && c.src == .inj) = some c) (hok : imageHdrOk t.hdr = true) (htakes : chanTakes c t.hdr = true)
    (hquota : c.reserved + c.outstanding < c.quota) : inject s r (getRegion s r) t =
      (0, tapEnter (setRegion s r (tokenSent (getRegion s r) s.clk c t)) r c.num (injToken (getRegion s r) t)) := by
  unfold inject
  rw [hfind]
  exact (if_neg (by simp [hok, htakes])).trans (if_neg (Nat.not_le.2 hquota))

/-- A token image that `inj` reads: aligned, in local memory, or not (R236, R245). -/
theorem injPlace_iff (x n : Nat) : (decide (x % 128 ≠ 0) || decide (localTop ≤ x) || decide (localTop < x + n)) = true ↔
    x % 128 ≠ 0 ∨ 0x80000 ≤ x ∨ 0x80000 < x + n := by
  rw [Bool.or_eq_true, Bool.or_eq_true, decide_eq_true_eq, decide_eq_true_eq, decide_eq_true_eq, or_assoc]
  rfl

section
variable {s : State} {d a b : KReg}

theorem exec_inj (hal : (kreg s a).toNat % 128 = 0) (hi : (kreg s a).toNat + (tokenImage (curCore s).lmem (kreg s a).toNat).2 ≤ 0x80000)
    (hbad : localBadIn s (kreg s a).toNat (tokenImage (curCore s).lmem (kreg s a).toNat).2 = false) :
    exec (.kInj d a b) s =
      .next (fabric s d (kreg s b) [1, 2] fun s' r g => inject s' r g (tokenImage (curCore s).lmem (kreg s a).toNat).1) := by
  have hn := tokenImage_length (curCore s).lmem (kreg s a).toNat
  show execKInj d a b s = _
  unfold execKInj
  dsimp only
  rw [if_neg (by rw [injPlace_iff]; omega), if_neg (by rw [hbad]; decide)]

theorem exec_inj_bad (hal : (kreg s a).toNat % 128 = 0) (hi : (kreg s a).toNat + (tokenImage (curCore s).lmem (kreg s a).toNat).2 ≤ 0x80000)
    (hbad : localBadIn s (kreg s a).toNat (tokenImage (curCore s).lmem (kreg s a).toNat).2 = true) :
    exec (.kInj d a b) s = .next (ktrap s (trapMemory 0x12 (kreg s a))) := by
  have hn := tokenImage_length (curCore s).lmem (kreg s a).toNat
  show execKInj d a b s = _
  unfold execKInj
  dsimp only
  rw [if_neg (by rw [injPlace_iff]; omega), if_pos hbad]

/-- A record moved to local memory, its region with what is left: what the core and the region are. -/
theorem fltqMoved (s : State) {r : Rgn} (hp : r.part < 16) (g : Region) (x f : Nat) (d : KReg) (n : Nat) :
    let t := kret (lstore (setRegion s r g) x 64 f) d (BitVec.ofNat 64 n)
    (∀ q, kreg t q = if q = d ∧ d ≠ 0 then BitVec.ofNat 64 n else kreg s q) ∧ (curCore t).pc = (curCore s).pc + 4 ∧
    (curCore t).lmem = writeBytes (curCore s).lmem x 64 f ∧ getRegion t r = g := by
  have hcore : curCore (lstore (setRegion s r g) x 64 f) = { curCore s with lmem := writeBytes (curCore s).lmem x 64 f } := by
    rw [lstore, curCore_setCore, curCore_congr (setRegion_cores ..) (setRegion_cur ..)]
  obtain ⟨hset, hreg⟩ := kret_setsReg (lstore (setRegion s r g) x 64 f) d (BitVec.ofNat 64 n)
  refine ⟨fun q => ?_, ?_, ?_, ?_⟩
  · have hregs : (curCore (lstore (setRegion s r g) x 64 f)).regs = (curCore s).regs := by rw [hcore]
    rw [hreg, kreg_congr hregs]
  · rw [hset, curCore_setCore, hcore]
  · rw [hset, curCore_setCore, hcore]
  · rw [hset, getRegion_setCore, lstore, getRegion_setCore, getRegion_setRegion_same hp]

section
variable (hal : (kreg s b).toNat % 64 = 0) (hi : (kreg s b).toNat < 0x80000)
include hal hi

theorem exec_fltq_bad (hbad : localBadIn s (kreg s b).toNat 64 = true) :
    exec (.kFltq d a b) s = .next (ktrap s (trapMemory 0x12 (kreg s b))) := by
  show execKFltq d a b s = _
  unfold execKFltq
  dsimp only
  rw [if_neg (by rw [almPlace_iff]; omega), if_pos hbad]

variable (hbad : localBadIn s (kreg s b).toNat 64 = false) (hb : (curCore s).buf = []) (hh : (kreg s a).toNat < 64)
include hbad hb hh

theorem exec_fltq_empty (hq : (getRegion s ⟨curPart s, (kreg s a).toNat⟩).faultq = []) :
    exec (.kFltq d a b) s = .next (fstatus (busy s ⟨curPart s, (kreg s a).toNat⟩) d 0) := by
  show execKFltq d a b s = _
  unfold execKFltq
  dsimp only
  rw [if_neg (by rw [almPlace_iff]; omega), if_neg (by rw [hbad]; decide), korder_mod hb, if_neg (by omega), hq]

theorem exec_fltq_record {f : Nat} {rest : List Nat} (hq : (getRegion s ⟨curPart s, (kreg s a).toNat⟩).faultq = f :: rest) :
    exec (.kFltq d a b) s = .next (fstatus (lstore (setRegion s ⟨curPart s, (kreg s a).toNat⟩
      { getRegion s ⟨curPart s, (kreg s a).toNat⟩ with faultq := rest, idleBase := s.clk }) (kreg s b).toNat 64 f) d (bits f 63 56)) := by
  show execKFltq d a b s = _
  unfold execKFltq
  dsimp only
  rw [if_neg (by rw [almPlace_iff]; omega), if_neg (by rw [hbad]; decide), korder_mod hb, if_neg (by omega), hq]

end

end

end Sys2Proof.Machine

open Sys2Proof Sys2Proof.Machine

/-- Settles O23: both instructions by what they hand over, where nothing refuses them. -/
theorem fabricLoads : Obligations.FabricLoads := by
  intro s d a b hb
  refine ⟨fun hst hbusy hal hlt hplace x y hpeek hden hinf => ?_, fun hst hbusy hal hlt hplace x hx hsh hden hinf => ?_⟩
  · exact accepts_handedOver (exec_iload hb (iload_accepts hbusy hst hal hlt hplace hpeek hden hinf)) (curPart_lt s)
      fun t ht => ⟨hst, rfl, rfl, rfl, rfl, rfl, ht⟩
  · exact accepts_handedOver (exec_rrestore hb (rrestore_accepts hbusy hst hal hlt hplace hx hsh hden hinf)) (curPart_lt s)
      fun t ht => ⟨rfl, ht⟩

/-- Settles O24: the accepted `argw` and `inj`, then the record that `fltq` moves. -/
theorem fabricData : Obligations.FabricData := by
  intro s d a b hb
  refine ⟨fun r n hf hk hst hfind hn hdesc => ?_, fun r c hf hal hi hbad hst hfind hok htakes hquota => ?_, fun hal _ hi hbad => ?_,
    fun hal hi => ⟨fun hbad => ?_, fun hbad hh => ⟨fun hq => ?_, fun f rest hq => ?_⟩⟩⟩
  · have hp : r.part < 16 := part_lt_of_st (s := s) (by omega)
    refine accepts_of rfl hf (by simpa using hst) hp ((if_neg (by omega)).trans (argWrite_accepts hfind hn hdesc)) (setRegion_local ..).withLanes (setRegion_cur ..) ?_
    rw [getRegion_setRegion_same hp, setRegion_clk]
  · have hp : r.part < 16 := part_lt_of_st (s := s) (by omega)
    refine accepts_of (exec_inj hal hi hbad) hf (by simpa using hst) hp (inject_accepts hfind hok htakes hquota)
      ((setRegion_local ..).trans (tapEnter_local ..)).withLanes ((tapEnter_cur ..).trans (setRegion_cur ..)) ?_
    rw [getRegion_tapEnter, getRegion_setRegion_same hp]
    exact ⟨rfl, rfl⟩
  · exact completes_ktrap (exec_inj_bad hal hi hbad) (show 2 < 256 by decide) (show 0x12 < 256 by decide)
  · exact completes_ktrap (exec_fltq_bad hal hi hbad) (show 2 < 256 by decide) (show 0x12 < 256 by decide)
  · exact completes_of (exec_fltq_empty hal hi hbad hb hh hq) rfl (kret_setsReg _ d 0)
  · obtain ⟨hreg, hpc, hlmem, hrgn⟩ := fltqMoved s (r := ⟨curPart s, (kreg s a).toNat⟩) (curPart_lt s)
      { getRegion s ⟨curPart s, (kreg s a).toNat⟩ with faultq := rest, idleBase := s.clk } (kreg s b).toNat f d (bits f 63 56)
    exact completes_of (exec_fltq_record hal hi hbad hb hh hq) rfl ⟨hreg, hpc, hlmem, congrArg (·.faultq) hrgn⟩

end

section
/-! SUPPORT. What keeps the invariant, state operation by state operation: the fields that it does not speak of, memories, cores and the
events that they are told (spec/09: R210, R226, R228, R229, R232, R233; spec/20: R383). -/

namespace Sys2Proof.Machine

-- One proof after another: side by side, this many short proofs wait for one another in more threads than the check's memory holds.
set_option Elab.async false

/-! ### Fields, folds and partitions -/

/-- The invariant speaks of the memories, the cores, ACTMAX and the stretch of the clocks alone. -/
theorem Inv.of_eq {s t : State} (h : Inv s) (hbm : t.hbm = s.hbm := by rfl) (hostMem : t.hostMem = s.hostMem := by rfl)
    (cores : t.cores = s.cores := by rfl) (isobar : t.isobar = s.isobar := by rfl) (stretch : t.stretch = s.stretch := by rfl) : Inv t where
  hbm := hbm ▸ h.hbm
  hostMem := hostMem ▸ h.hostMem
  cores := cores ▸ h.cores
  actmax := isobar ▸ h.actmax
  stretch := stretch ▸ h.stretch

theorem inv_foldl {β : Type} {f : State → β → State} (hf : ∀ s x, Inv s → Inv (f s x)) (l : List β) {s : State} (h : Inv s) : Inv (l.foldl f s) := by
  induction l generalizing s with
  | nil => exact h
  | cons x l ih => exact ih (hf s x h)

section
variable {s : State} (h : Inv s)
include h

@[simp] theorem inv_setPart (p : Nat) (x : Part) : Inv (setPart s p x) :=
  h.of_eq (setPart_hbm ..) (setPart_hostMem ..) (setPart_cores ..) (setPart_isobar ..) (setPart_stretch ..)

@[simp] theorem inv_modPart (p : Nat) (f : Part → Part) : Inv (modPart s p f) := inv_setPart h ..
@[simp] theorem inv_setRegion (r : Rgn) (x : Region) : Inv (setRegion s r x) := inv_modPart h ..
@[simp] theorem inv_modRegion (r : Rgn) (f : Region → Region) : Inv (modRegion s r f) := inv_setRegion h ..
@[simp] theorem inv_modElem (l : Loc) (f : Elem → Elem) : Inv (modElem s l f) := inv_modRegion h ..
@[simp] theorem inv_modPort (l : Loc) (f : Port → Port) : Inv (modPort s l f) := inv_modElem h ..
@[simp] theorem inv_busy (r : Rgn) : Inv (busy s r) := inv_modRegion h ..
@[simp] theorem inv_modChan (r : Rgn) (n : Nat) (f : Chan → Chan) : Inv (modChan s r n f) := inv_modRegion h ..
@[simp] theorem inv_modBody (r : Rgn) (b : Nat) (f : BodySt → BodySt) : Inv (modBody s r b f) := inv_modRegion h ..
@[simp] theorem inv_modLane (n : Nat) (f : Lane → Lane) : Inv (modLane s n f) := h.of_eq
@[simp] theorem inv_setWalker (d : Nat) (c : List WalkEnt) : Inv (setWalker s d c) := h.of_eq
@[simp] theorem inv_markSys (n : Nat) : Inv (markSys s n) := h.of_eq

/-! ### Memories -/

theorem inv_hbm {m : List Host.Cell} (hm : Memory.wf m = true) : Inv { s with hbm := m } := ⟨hm, h.hostMem, h.cores, h.actmax, h.stretch⟩
theorem inv_hostMem {m : List Host.Cell} (hm : Memory.wf m = true) : Inv { s with hostMem := m } := ⟨h.hbm, hm, h.cores, h.actmax, h.stretch⟩

@[simp] theorem inv_drainHostOne (port : Nat) : Inv (drainHostOne s port) := by
  unfold drainHostOne
  split
  · exact (inv_hostMem h (wf_writeBytes h.hostMem ..)).of_eq
  · exact h

@[simp] theorem inv_drainHost (port : Nat) : Inv (drainHost s port) := inv_foldl (fun _ _ h => inv_drainHostOne h port) _ h

@[simp] theorem inv_readBehind (pa : Nat) : Inv (readBehind s pa) := by
  unfold readBehind
  split
  · exact inv_foldl (fun _ _ h => inv_drainHostOne h _) _ h
  · exact h

@[simp] theorem inv_readSettle (pa : Nat) : Inv (readSettle s pa) := by
  unfold readSettle
  split
  · exact inv_drainHost h _
  · exact h

/-! ### Cores -/

/-- Cores of a state changed one by one, each to one that has the form. -/
theorem inv_cores {f : (i : Nat) → Core → i < 32 → Core} (hf : ∀ i c hi, CoreOk c → CoreOk (f i c hi)) :
    Inv { s with cores := s.cores.mapFinIdx f } where
  hbm := h.hbm
  hostMem := h.hostMem
  cores k := by
    simp only [Fin.getElem_fin, Vector.getElem_mapFinIdx]
    exact hf _ _ _ (h.cores k)
  actmax := h.actmax
  stretch := h.stretch

theorem inv_setCore {c : Core} (hc : CoreOk c) : Inv (setCore s c) where
  hbm := h.hbm
  hostMem := h.hostMem
  cores k := by
    simp only [setCore, Fin.getElem_fin, Vector.getElem_set]
    split
    · exact hc
    · exact h.cores k
  actmax := h.actmax
  stretch := h.stretch

theorem coreOk_cur : CoreOk (curCore s) := h.cores s.cur.toFin

@[simp] theorem inv_modCore (k : Nat) {f : Core → Core} (hf : ∀ c, CoreOk c → CoreOk (f c)) : Inv (modCore s k f) := by
  unfold modCore
  split
  · next hk =>
    refine ⟨h.hbm, h.hostMem, fun i => ?_, h.actmax, h.stretch⟩
    simp only [Fin.getElem_fin, Vector.getElem_set]
    split
    · exact hf _ (h.cores ⟨k, hk⟩)
    · exact h.cores i
  · exact h

end

/-- The low n bits of a word read 0 where it is a multiple of 2^n. -/
theorem aligned_iff (x : Word64) (n : Nat) (hn : n ≤ 64) : x &&& BitVec.ofNat 64 (2 ^ n - 1) = 0 ↔ x.toNat % 2 ^ n = 0 := by
  have hlt : 2 ^ n - 1 < 2 ^ 64 := by
    have := Nat.pow_le_pow_right (n := 2) (by decide) hn
    omega
  rw [← BitVec.toNat_inj, BitVec.toNat_and, BitVec.toNat_ofNat, Nat.mod_eq_of_lt hlt, Nat.and_two_pow_sub_one_eq_mod]
  rfl

section
variable {c : Core} (h : CoreOk c)
include h

/-- A core keeps its form under a change of what the invariant does not speak of. -/
theorem CoreOk.of_eq {e : Core} (pc : e.pc = c.pc := by rfl) (regs : e.regs = c.regs := by rfl) (lmem : e.lmem = c.lmem := by rfl)
    (status : e.status = c.status := by rfl) (event : e.event = c.event := by rfl) (ien : e.ien = c.ien := by rfl)
    (tdeleg : e.tdeleg = c.tdeleg := by rfl) (rsel : e.rsel = c.rsel := by rfl) (ftvec : e.ftvec = c.ftvec := by rfl)
    (rtvec : e.rtvec = c.rtvec := by rfl) : CoreOk e :=
  ⟨pc ▸ h.pc, regs ▸ h.k0, lmem ▸ h.lmem, status ▸ h.status, event ▸ h.event, ien ▸ h.ien, tdeleg ▸ h.tdeleg, rsel ▸ h.rsel,
    ftvec ▸ h.ftvec, rtvec ▸ h.rtvec⟩

theorem coreOk_pc {x : Word64} (hx : x &&& 3 = 0) : CoreOk { c with pc := x } := { h with pc := hx }
theorem coreOk_lmem {m : List Host.Cell} (hm : Memory.wf m = true) : CoreOk { c with lmem := m } := { h with lmem := hm }

/-- Every event bit that a core is told is one of the three of KS_EVENT (R232). -/
theorem coreOk_post {m : Word64} (hm : m &&& 0xFFFFFFFFFFFFFFF8 = 0) : CoreOk (c.post m) := by
  refine { h with event := ?_ }
  show (c.event ||| m) &&& 0xFFFFFFFFFFFFFFF8 = 0
  rw [BitVec.and_or_distrib_right, h.event, hm]
  rfl

/-- A pc that moves past its instruction stays a multiple of 4 (R210). -/
theorem pc_next : c.pc + 4 &&& 3 = 0 := by
  have hp := (aligned_iff c.pc 2 (by decide)).1 h.pc
  refine (aligned_iff (c.pc + 4) 2 (by decide)).2 ?_
  rw [BitVec.toNat_add, show (4 : Word64).toNat = 4 from rfl]
  omega

theorem coreOk_setReg (r : KReg) (v : Word64) : CoreOk (c.setReg r v) := by
  unfold Core.setReg
  split
  · exact h
  · next hr =>
    refine { h with k0 := ?_ }
    have hne : r.toNat ≠ 0 := fun h0 => hr (BitVec.eq_of_toNat_eq h0)
    show (c.regs.set r.toNat v)[0] = 0
    rw [Vector.getElem_set_ne _ _ hne]
    exact h.k0

end

/-- The entry of a vector, each 64 bytes behind an address that is a multiple of 512, is a multiple of 4 (R228). -/
theorem vector_aligned {x : Word64} (hx : x &&& 0x1FF = 0) (n : Nat) : x + BitVec.ofNat 64 (64 * n) &&& 3 = 0 := by
  have hx' := (aligned_iff x 9 (by decide)).1 hx
  refine (aligned_iff _ 2 (by decide)).2 ?_
  rw [BitVec.toNat_add, BitVec.toNat_ofNat]
  omega

/-- A status of its four fields has no other bit (Table 9.8). -/
theorem mkStatus_reserved (a b c d : Bool) : mkStatus a b c d &&& 0xFFFFFFFFFFFFFF3C = 0 := by
  cases a <;> cases b <;> cases c <;> cases d <;> decide

section
variable {c : Core} (h : CoreOk c)
include h

theorem coreOk_enterTrap (async : Bool) (t : KTrap) (epc : Word64) : CoreOk (c.enterTrap async t epc) := by
  refine { h with status := mkStatus_reserved .., pc := ?_ }
  show (if trapLevel c t.vec then c.ftvec else c.rtvec) + BitVec.ofNat 64 (64 * t.vec) &&& 3 = 0
  refine vector_aligned ?_ t.vec
  split
  · exact h.ftvec
  · exact h.rtvec

theorem coreOk_leaveTrap : CoreOk c.leaveTrap := by
  refine { h with status := mkStatus_reserved .., pc := ?_ }
  show c.epc &&& BitVec.ofNat 64 (2 ^ 64 - 4) &&& 3 = 0
  rw [BitVec.and_assoc]
  exact BitVec.and_zero

theorem coreOk_timer (ns : Nat) : CoreOk (c.timer ns) := by
  unfold Core.timer
  split
  · exact coreOk_post h (by decide)
  · exact h

end

/-! ### Writes to physical memory and the error log (R233, R405, R407) -/

section
variable {s : State} (h : Inv s)
include h

@[simp] theorem inv_hitMonitors (by_ : Option Nat) (l : MonLine) : Inv (hitMonitors s by_ l) := by
  refine inv_cores h fun i c _ hc => ?_
  split
  · exact coreOk_post hc (by decide)
  · exact hc

@[simp] theorem inv_physWriteMask (by_ : Option Nat) (pa n v mask : Nat) : Inv (physWriteMask s by_ pa n v mask) := by
  unfold physWriteMask
  split
  · refine inv_hitMonitors ?_ ..
    have hw := inv_hbm h (wf_writeMasked h.hbm pa n v mask)
    split <;> exact hw.of_eq
  · refine inv_hitMonitors ?_ ..
    split <;> exact h.of_eq
  · exact h

@[simp] theorem inv_physWrite (by_ : Option Nat) (pa n v : Nat) : Inv (physWrite s by_ pa n v) := inv_physWriteMask h ..

@[simp] theorem inv_vput (p va n v : Nat) : Inv (vput s p va n v) := by
  unfold vput
  split
  · exact h
  · exact inv_physWrite h ..

@[simp] theorem inv_errLog (p launch stack syms kind layer pa : Nat) : Inv (errLog s p launch stack syms kind layer pa) := by
  unfold errLog
  dsimp only
  split
  · exact inv_modPart (inv_vput (inv_vput h ..) ..) ..
  · exact h

@[simp] theorem inv_logRead (p launch pa : Nat) : Inv (logRead s p launch pa) := by
  unfold logRead
  split
  · exact inv_errLog h ..
  · split
    · exact inv_errLog h ..
    · exact h

@[simp] theorem inv_logWrite (p launch pa n : Nat) : Inv (logWrite s p launch pa n) := by
  unfold logWrite
  split
  · exact inv_errLog h ..
  · exact h

@[simp] theorem inv_logWalk (c : List WalkEnt) (p va : Nat) : Inv (logWalk s c p va) := by
  unfold logWalk
  split
  · exact h
  · exact inv_foldl (fun _ _ h => inv_logRead h ..) _ h

@[simp] theorem inv_logXlat (c : List WalkEnt) (p : Nat) (tlb : List TlbEnt) (va : Nat) : Inv (logXlat s c p tlb va) := by
  unfold logXlat
  split
  · exact h
  · exact inv_logWalk h ..

@[simp] theorem inv_vwriteD (p va n v : Nat) : Inv (vwriteD s p va n v) := by
  unfold vwriteD vwrite
  split
  · exact inv_logWalk h ..
  · exact inv_physWrite (inv_logWrite (inv_logWalk h ..) ..) ..

@[simp] theorem inv_logVread (p launch va : Nat) : Inv (logVread s p launch va) := by
  unfold logVread
  dsimp only
  split
  · exact h
  · split
    · exact inv_logWalk h ..
    · exact inv_logRead (inv_logWalk h ..) ..

@[simp] theorem inv_logSram (l : Loc) (kind off : Nat) : Inv (logSram s l kind off) := inv_errLog h ..

end

@[simp] theorem inv_vwriteLong (p fuel : Nat) : ∀ {s : State} (va n v : Nat), Inv s → Inv (vwriteLong s p fuel va n v) := by
  induction fuel with
  | zero => exact fun _ _ _ h => h
  | succ fuel ih =>
    intro s va n v h
    unfold vwriteLong
    split
    · exact h
    · exact ih _ _ _ (inv_vwriteD h ..)

@[simp] theorem inv_logVreadLong (p launch fuel : Nat) : ∀ {s : State} (va n : Nat), Inv s → Inv (logVreadLong s p launch fuel va n) := by
  induction fuel with
  | zero => exact fun _ _ h => h
  | succ fuel ih =>
    intro s va n h
    unfold logVreadLong
    split
    · exact h
    · dsimp only
      split
      · exact inv_logVread h ..
      · exact ih _ _ (inv_logVread h ..)

/-! ### The current core, its accesses and its traps -/

section
variable {s : State} (h : Inv s)
include h

theorem inv_kjump {a : Word64} (ha : a &&& 3 = 0) : Inv (kjump s a) := inv_setCore h (coreOk_pc (coreOk_cur h) ha)
@[simp] theorem inv_kadvance : Inv (kadvance s) := inv_kjump h (pc_next (coreOk_cur h))
@[simp] theorem inv_kret (d : KReg) (v : Word64) : Inv (kret s d v) :=
  inv_setCore h (coreOk_pc (coreOk_setReg (coreOk_cur h) d v) (pc_next (coreOk_cur h)))
@[simp] theorem inv_fstatus (d : KReg) (n : Nat) : Inv (fstatus s d n) := inv_kret h ..
@[simp] theorem inv_ktrap (t : KTrap) : Inv (ktrap s t) := inv_setCore h (coreOk_enterTrap (coreOk_cur h) ..)
@[simp] theorem inv_lstore (x n v : Nat) : Inv (lstore s x n v) :=
  inv_setCore h (coreOk_lmem (coreOk_cur h) (wf_writeBytes (coreOk_cur h).lmem ..))

@[simp] theorem inv_kxlat (nd : Need) (va : Nat) : Inv (kxlat s nd va).2 :=
  inv_setWalker (inv_setCore (inv_logXlat h ..) (coreOk_cur (inv_logXlat h ..)).of_eq) ..

@[simp] theorem inv_kdrainOne : Inv (kdrainOne s) := by
  unfold kdrainOne
  split
  · exact h
  · exact inv_physWrite (inv_logWrite (inv_setCore h (coreOk_cur h).of_eq) ..) ..

@[simp] theorem inv_kdrain : Inv (kdrain s) := inv_foldl (fun _ _ h => inv_kdrainOne h) _ h

@[simp] theorem inv_korder (sys : Bool) : Inv (korder s sys) := by
  unfold korder
  dsimp only
  split
  · exact inv_drainHost (inv_drainHost (inv_kdrain h) _) _
  · exact inv_kdrain h

@[simp] theorem inv_drainCore (k : Nat) : Inv (drainCore s k) :=
  (inv_kdrainOne (s := { s with cur := BitVec.ofNat 5 k }) h.of_eq).of_eq

@[simp] theorem inv_postRegion (p n : Nat) : Inv (postRegion s p n) := by
  refine inv_cores h fun i c _ hc => ?_
  split
  · exact (coreOk_post hc (m := 1) (by decide)).of_eq
  · exact hc

/-- The state behind a translation is named by what it returns. -/
theorem inv_of_kxlat {t : State} {nd : Need} {va : Nat} {x : Except XErr Nat} (hk : kxlat s nd va = (x, t)) : Inv t := by
  have ht := inv_kxlat h nd va
  rwa [hk] at ht

@[simp] theorem inv_kload (a : Word64) (n : Nat) : Inv (kload s a n).2 := by
  unfold kload
  split
  · exact h
  · split
    · exact h
    · split <;> exact h
    · split
      · next hk => exact inv_of_kxlat h hk
      · next hk =>
        have ht := inv_of_kxlat h hk
        split
        · exact ht
        · split
          · exact inv_logRead ht ..
          · exact inv_logRead (inv_readBehind ht _) ..

@[simp] theorem inv_kstore (a : Word64) (n v : Nat) (plain : Bool) : Inv (kstore s a n v plain).2 := by
  unfold kstore
  split
  · exact h
  · split
    · exact h
    · split
      · exact h
      · exact inv_lstore h ..
    · split
      · next hk => exact inv_of_kxlat h hk
      · next hk =>
        have ht := inv_of_kxlat h hk
        split
        · exact ht
        · split
          · exact inv_setCore ht (coreOk_cur ht).of_eq
          · exact inv_physWrite (inv_logWrite ht ..) ..

@[simp] theorem inv_kloadTo (d : KReg) (a : Word64) (n : Nat) (f : Nat → Word64) : Inv (kloadTo s d a n f) := by
  have hl := inv_kload h a n
  unfold kloadTo
  split
  · next hk => exact inv_kret (by rwa [hk] at hl) ..
  · next hk => exact inv_ktrap (by rwa [hk] at hl) _

@[simp] theorem inv_kstoreFrom (a : Word64) (n v : Nat) (plain : Bool) : Inv (kstoreFrom s a n v plain) := by
  have hl := inv_kstore h a n v plain
  unfold kstoreFrom
  split
  · next hk => exact inv_kadvance (by rwa [hk] at hl)
  · next hk => exact inv_ktrap (by rwa [hk] at hl) _

@[simp] theorem inv_kfetch : Inv (kfetch s).2 := by
  unfold kfetch
  dsimp only
  split
  · exact h
  · split <;> exact h
  · split
    · next hk => exact inv_of_kxlat h hk
    · next hk =>
      have ht := inv_of_kxlat h hk
      split
      · exact ht
      · split <;> exact inv_logRead ht ..

end
end Sys2Proof.Machine
end

section
/-! SUPPORT. The fault records, firings and port accesses of elements keep the invariant (spec/08, spec/12, spec/14). -/

namespace Sys2Proof.Machine

-- One proof after another: side by side, this many short proofs wait for one another in more threads than the check's memory holds.
set_option Elab.async false

/-! ### Fault records and lane groups (R248, R323, R325, R328) -/

section
variable {s : State} (h : Inv s)
include h

@[simp] theorem inv_putRec (r : Rgn) (f : FRec) : Inv (putRec s r f) := by
  unfold putRec
  dsimp only
  repeat' split
  all_goals simp [h]

@[simp] theorem inv_putRecs (r : Rgn) (fs : List FRec) : Inv (putRecs s r fs) := inv_foldl (fun _ _ h => inv_putRec h ..) _ h

@[simp] theorem inv_drawOrigin (r : Rgn) : Inv (drawOrigin s r).1 := inv_setRegion h r _

@[simp] theorem inv_meetStop (l : Loc) (f : FRec) (n : Nat) : Inv (meetStop s l f n) := by
  unfold meetStop
  dsimp only
  split <;> simp [h]

@[simp] theorem inv_meetStopRgn (r : Rgn) (f : FRec) (n : Nat) : Inv (meetStopRgn s r f n) := by
  unfold meetStopRgn
  dsimp only
  split <;> simp [h]

@[simp] theorem inv_loseLane (g : Nat) : Inv (loseLane s g) := by
  have hl := inv_modLane h g fun l => { l with up := false, lost := true }
  unfold loseLane
  dsimp only
  repeat' split
  case h_1 => exact (inv_modRegion hl ..).of_eq
  all_goals simp [hl]

@[simp] theorem inv_meetLost (r : Rgn) : Inv (meetLost s r) := by
  refine inv_foldl (fun s g h => ?_) _ h
  dsimp only
  repeat' split
  all_goals simp [h]

/-! ### Firings (R58) -/

@[simp] theorem inv_eatPos (f : Focus) (w : OpWord) (keep : Bool) (hold pos : Nat) : Inv (eatPos s f w keep hold pos).1 := by
  unfold eatPos
  dsimp only
  repeat' split
  all_goals simp [h]

end

/-- A fold over a state and what it gathers keeps what its steps keep of the state. -/
theorem inv_foldl_fst {β γ : Type} {f : State × γ → β → State × γ} (hf : ∀ q x, Inv q.1 → Inv (f q x).1) (l : List β) {q : State × γ}
    (h : Inv q.1) : Inv (l.foldl f q).1 := by
  induction l generalizing q with
  | nil => exact h
  | cons x l ih => exact ih (hf q x h)

section
variable {s : State} (h : Inv s)
include h

@[simp] theorem inv_eatAll (f : Focus) (w : OpWord) (o : FireOut) : Inv (eatAll s f w o).1 := by
  unfold eatAll
  refine inv_foldl_fst (fun q pos hq => ?_) o.eat h
  exact inv_eatPos hq ..

@[simp] theorem inv_issue (f : Focus) (i : FireIn) (o : FireOut) (upd : Bool) : Inv (issue s f i o upd) :=
  inv_modRegion (inv_modElem (inv_eatAll (s := { s with ids := s.ids + 1, focus := none }) h.of_eq ..) ..) ..

@[simp] theorem inv_fire (w : OpWord) (opc : Nat) (m : FireIn → FireRes) : Inv (fire s w opc m) := by
  unfold fire
  split
  · exact h
  · dsimp only
    split
    · exact (inv_meetStop (inv_modRegion h ..) ..).of_eq
    · exact inv_issue h ..

@[simp] theorem inv_fireGo (w : OpWord) (opc : Nat) (m : FireIn → FireOut) : Inv (fireGo s w opc m) := inv_fire h ..

/-! ### Port accesses (R185, R187) -/

@[simp] theorem inv_holdAccess (l : Loc) (a : Access) (cause va : Nat) : Inv (holdAccess s l a cause va).1 := by
  unfold holdAccess
  dsimp only
  split <;> simp [h]

@[simp] theorem inv_walkRecord (l : Loc) (bad : Bool) (va : Nat) : Inv (walkRecord s l bad va) := by
  unfold walkRecord
  split <;> simp [h]

@[simp] theorem inv_portXlat (l : Loc) (nd : Need) (walks : Bool) (va : Nat) : Inv (portXlat s l nd walks va).1 := by
  unfold portXlat
  dsimp only
  split
  · exact inv_setWalker (inv_modPort (inv_walkRecord (inv_logXlat h ..) ..) ..) ..
  · exact h

@[simp] theorem inv_fetchLayout (l : Loc) (n : Nat) : Inv (fetchLayout s l n).1 := by
  have hx := inv_portXlat h l { r := true } true (layoutVa (getRegion s (rgnOf l)) n)
  unfold fetchLayout
  dsimp only
  repeat' split
  all_goals simp [h, hx]

@[simp] theorem inv_resolveCoords (l : Loc) (a : Access) : Inv (resolveCoords s l a).1 := by
  unfold resolveCoords
  dsimp only
  repeat' split
  all_goals simp [h]

@[simp] theorem inv_suppress (l : Loc) (a : Access) : Inv (suppress s l a).1 := inv_putRec h ..

@[simp] theorem inv_secondLayout (l : Loc) (a : Access) (r : Layout) : Inv (secondLayout s l a r).1 := by
  unfold secondLayout
  split <;> simp [h]

@[simp] theorem inv_sortSide (l : Loc) (a : Access) (side : Nat) : Inv (sortSide s l a side).1 := by
  unfold sortSide
  dsimp only
  repeat' split
  all_goals simp [h]

@[simp] theorem inv_beginAccess (l : Loc) (a : Access) : Inv (beginAccess s l a).1 := by
  have hc := inv_resolveCoords h l a
  have hf := inv_fetchLayout hc l (mdHandle (resolveCoords s l a).2.desc)
  have hs := inv_secondLayout hf l (resolveCoords s l a).2
  unfold beginAccess
  dsimp only
  repeat' split
  all_goals simp [h, hc, hf, hs]

@[simp] theorem inv_xlPage (l : Loc) (a : Access) (p : Piece) (walks : Bool) (va : Nat) : Inv (xlPage s l a p walks va).1 := by
  unfold xlPage
  dsimp only
  repeat' split
  all_goals simp [h]

end

@[simp] theorem inv_xlPiece (l : Loc) (p : Piece) (vas : List Nat) {s : State} (a : Access) (w : Nat) (h : Inv s) : Inv (xlPiece l p vas s a w).1 := by
  induction vas generalizing s a w with
  | nil => exact h
  | cons va r ih =>
    unfold xlPiece
    dsimp only
    split
    · exact ih _ _ (inv_xlPage h ..)
    · exact inv_xlPage h ..

@[simp] theorem inv_xlPieces (l : Loc) (fuel : Nat) {s : State} (a : Access) (w : Nat) (h : Inv s) : Inv (xlPieces l fuel s a w).1 := by
  induction fuel generalizing s a w with
  | zero => exact h
  | succ fuel ih =>
    unfold xlPieces
    dsimp only
    split
    · exact h
    · split
      · exact ih _ _ h
      · have hx := fun p => inv_xlPiece l p p.pageVas a w h
        split
        · exact ih _ _ (hx _)
        · exact hx _
        · exact inv_holdAccess (hx _) ..

section
variable {s : State} (h : Inv s)
include h

@[simp] theorem inv_advanceXl (l : Loc) (a : Access) (walks : Nat) : Inv (advanceXl s l a walks).1 := inv_xlPieces _ _ _ _ h

@[simp] theorem inv_meetBad (l : Loc) (a : Access) (va : Nat) : Inv (meetBad s l a va).1 := by
  unfold meetBad
  dsimp only
  split <;> simp [h]

@[simp] theorem inv_touchLines (l : Loc) (a : Access) (p : Piece) : Inv (touchLines s l a p).1 := by
  refine inv_foldl_fst (fun q x h => ?_) _ h
  have hr := inv_logRead (inv_readBehind h (64 * x.1)) l.part (getRegion q.1 (rgnOf l)).launch (64 * x.1)
  dsimp only
  split
  · exact inv_meetBad hr.of_eq ..
  · exact hr

@[simp] theorem inv_readPiece (l : Loc) (a : Access) (before : List Access) (p : Piece) : Inv (readPiece s l a before p).1 := inv_touchLines h ..

@[simp] theorem inv_digWrite (l : Loc) (a : Access) (va n v : Nat) : Inv (digWrite s l a va n v) := by
  unfold digWrite
  dsimp only
  split <;> simp [h]

@[simp] theorem inv_writeLine (l : Loc) (a : Access) (ws : List (Nat × Nat)) (es : Nat) : Inv (writeLine s l a ws es) :=
  inv_foldl (fun _ _ h => inv_digWrite h ..) _ (inv_physWriteMask (inv_logWrite h ..) ..)

@[simp] theorem inv_writeEls (l : Loc) (a : Access) (ws : List (Nat × Nat)) (es : Nat) : Inv (writeEls s l a ws es) :=
  inv_foldl (fun _ _ h => inv_writeLine h ..) _ h

@[simp] theorem inv_writePiece (l : Loc) (a : Access) (p : Piece) : Inv (writePiece s l a p) := by
  unfold writePiece
  dsimp only
  split <;> simp [h]

@[simp] theorem inv_digFull (l : Loc) (a : Access) : Inv (digFull s l a) := by
  unfold digFull
  split <;> simp [h]

@[simp] theorem inv_putAccess (l : Loc) (n : Nat) (a : Access) : Inv (putAccess s l n a) := inv_digFull (inv_modPort h ..) ..

@[simp] theorem inv_relSettle (a : Access) : Inv (relSettle s a) := by
  unfold relSettle
  split <;> simp [h]

@[simp] theorem inv_recStep (l : Loc) (a : Access) : Inv (recStep s l a).1 := by
  unfold recStep
  dsimp only
  repeat' split
  all_goals simp [h]

@[simp] theorem inv_askPage (l : Loc) (lane page : Nat) (w : Bool) : Inv (askPage s l lane page w) := by
  unfold askPage
  split <;> simp [h]

@[simp] theorem inv_askFar (l : Loc) (a : Access) (p : Piece) : Inv (askFar s l a p) := by
  refine inv_foldl (fun s va h => ?_) _ h
  repeat' split
  all_goals simp [h]

@[simp] theorem inv_sendRemote (l : Loc) (n k : Nat) (a : Access) (p : Piece) : Inv (sendRemote s l n k a p) := by
  unfold sendRemote
  dsimp only
  repeat' split
  all_goals simp [h]

@[simp] theorem inv_nextStep (l : Loc) (a : Access) : Inv (nextStep s l a).1 := by
  unfold nextStep
  repeat' split
  all_goals simp [h]

@[simp] theorem inv_goOn (l : Loc) (a : Access) (first : Bool) : Inv (goOn s l a first).1 := by
  unfold goOn
  dsimp only
  split <;> simp [h]

@[simp] theorem inv_portPerform (l : Loc) (n k : Nat) : Inv (portPerform s l n k) := by
  have hb := inv_beginAccess h l
  have hr := inv_relSettle h
  have hwr := fun a => inv_writePiece (hr a) l a
  have hrd := fun a => inv_readPiece (hr a) l a
  unfold portPerform
  dsimp only
  repeat' split
  all_goals simp [h, hb, hr, hwr, hrd]

end
end Sys2Proof.Machine
end

section
/-! SUPPORT. Read-modify-writes at their owner, the end of an access, commits, messages to a body's home and arrivals keep the invariant
(spec/04, spec/07, spec/08, spec/13). -/

namespace Sys2Proof.Machine

-- One proof after another: side by side, this many short proofs wait for one another in more threads than the check's memory holds.
set_option Elab.async false

section
variable {s : State} (h : Inv s)
include h

/-! ### Port accesses that read, modify and write; their ends (R187, R194) -/

@[simp] theorem inv_updateElem (l : Loc) (a : Access) (p : Piece) (e : Nat × Nat) : Inv (updateElem s l a p e).1 := by
  have ht := inv_touchLines h l a p
  unfold updateElem
  dsimp only
  repeat' split
  all_goals simp [ht]

@[simp] theorem inv_updateBlock (l : Loc) (a : Access) (p : Piece) : Inv (updateBlock s l a p).1 := by
  have ht := inv_touchLines h l a p
  unfold updateBlock
  dsimp only
  repeat' split
  all_goals simp [ht]

@[simp] theorem inv_settlePiece (a : Access) (p : Piece) : Inv (settlePiece s a p) := by
  unfold settlePiece
  split <;> simp [h]

@[simp] theorem inv_ownerRmw (l : Loc) (n k : Nat) : Inv (ownerRmw s l n k) := by
  have hr := inv_relSettle h
  have hs := fun a => inv_settlePiece (hr a) a
  have hb := fun a p => inv_updateBlock (hs a p) l a p
  have he := fun a p => inv_updateElem (hs a p) l a p
  unfold ownerRmw
  dsimp only
  repeat' split
  all_goals simp [h, hr, hs, hb, he]

@[simp] theorem inv_creditGauge (r : Rgn) (gid n : Nat) : Inv (creditGauge s r gid n) := by
  unfold creditGauge
  dsimp only
  split <;> simp [h]

@[simp] theorem inv_copyPiece (l : Loc) (n b : Nat) : Inv (copyPiece s l n b) := by
  have hd := inv_drainHost (inv_drainHost h 0) 1
  unfold copyPiece
  dsimp only
  repeat' split
  all_goals simp [h, hd]

@[simp] theorem inv_emitAccess (l : Loc) (n : Nat) (a : Access) (c : Hdr × Nat × Flags) (pz : Bool × Nat) : Inv (emitAccess s l n a c pz) :=
  inv_busy (inv_modElem h ..) ..

@[simp] theorem inv_originAt (l : Loc) (a : Access) (cs : List Int) : Inv (originAt s l a cs).1 := inv_putRec (inv_drawOrigin h _) ..

@[simp] theorem inv_completeAccess (l : Loc) (n : Nat) : Inv (completeAccess s l n) := by
  have hd := inv_drainHost (inv_drainHost h 0) 1
  have ho := inv_originAt h l
  have hdo := inv_originAt hd l
  unfold completeAccess
  dsimp only
  repeat' split
  all_goals simp [h, hd, ho, hdo]

/-! ### Taps (R429) -/

@[simp] theorem inv_tapSee (r : Rgn) (ch k : Nat) (tok : Token) : Inv (tapSee s r ch k tok) := by
  obtain h' | ⟨f, -, h'⟩ := tapSee_cases s r ch k tok
  · rwa [h']
  · rw [h']
    exact inv_modPart h ..

@[simp] theorem inv_tapEnter (r : Rgn) (ch : Nat) (tok : Token) : Inv (tapEnter s r ch tok) := by
  obtain h' | h' := tapEnter_cases s r ch tok
  · rwa [h']
  · rw [h']
    exact inv_tapSee h ..

/-! ### Commits, and the messages to a body's home (R107) -/

@[simp] theorem inv_orphanRec (r : Rgn) (m : MsgFlight) : Inv (orphanRec s r m) := inv_putRec h ..

@[simp] theorem inv_sendAdvance (r : Rgn) (b n o : Nat) : Inv (sendAdvance s r b n o) := inv_modRegion h ..

@[simp] theorem inv_retire (r : Rgn) (b n : Nat) : Inv (retire s r b n) := by
  unfold retire
  dsimp only
  repeat' split
  all_goals simp [h]

@[simp] theorem inv_retireAll (r : Rgn) : Inv (retireAll s r) :=
  inv_foldl (fun _ _ h => inv_foldl (fun _ _ h => inv_retire h ..) _ h) _ h

@[simp] theorem inv_applyDone (r : Rgn) (m : MsgFlight) (t : Nat) : Inv (applyDone s r m t) := by
  unfold applyDone
  dsimp only
  repeat' split
  all_goals simp [h]

@[simp] theorem inv_applyFree (r : Rgn) (m : MsgFlight) (b n : Nat) : Inv (applyFree s r m b n) := by
  unfold applyFree
  dsimp only
  repeat' split
  all_goals simp [h]

@[simp] theorem inv_applyMsg (r : Rgn) (m : MsgFlight) : Inv (applyMsg s r m) := by
  unfold applyMsg
  split <;> simp [h]

@[simp] theorem inv_sendMsg (l : Loc) (f : Firing) (w : WinMsg) : Inv (sendMsg s l f w) := by
  unfold sendMsg
  dsimp only
  repeat' split
  all_goals simp [h]

@[simp] theorem inv_commit (l : Loc) (k : Nat) : Inv (commit s l k) := by
  unfold commit
  dsimp only
  split
  · exact h
  · next f0 _ =>
    have ho : Inv (if f0.origin then modElem (if f0.origin then drawOrigin s (rgnOf l) else (s, 0)).1 l (patchFidx (pendingFidx f0.ord)
        (if f0.origin then drawOrigin s (rgnOf l) else (s, 0)).2) else (if f0.origin then drawOrigin s (rgnOf l) else (s, 0)).1) := by
      split <;> simp [h]
    split
    · exact inv_busy (inv_modRegion (inv_foldl (fun _ _ h => inv_sendMsg h ..) _ (inv_modElem (inv_putRecs ho ..) ..)) ..) ..
    · exact inv_busy (inv_foldl (fun _ _ h => inv_sendMsg h ..) _ (inv_modElem (inv_putRecs ho ..) ..)) ..

@[simp] theorem inv_clearEos (f : Focus) (w : OpWord) : Inv (clearEos s f w) := by
  refine inv_foldl (fun s p h => ?_) _ h
  dsimp only
  repeat' split
  all_goals simp [h]

end

@[simp] theorem inv_passRx (g fuel : Nat) {s : State} (h : Inv s) : Inv (passRx g fuel s) := by
  induction fuel generalizing s with
  | zero => exact h
  | succ fuel ih =>
    unfold passRx
    dsimp only
    repeat' split
    · exact ih (inv_modLane (inv_tapEnter (inv_busy (inv_setRegion h ..) ..) ..) ..)
    all_goals exact h

/-! ### Tokens enter the network and arrive (R58, R74, R311) -/

section
variable {s : State} (h : Inv s)
include h

@[simp] theorem inv_injectBad (l : Loc) (t : InjTok) : Inv (injectBad s l t).1 := by
  unfold injectBad
  dsimp only
  split <;> simp [h]

@[simp] theorem inv_injectToken (l : Loc) (ch : Nat) : Inv (injectToken s l ch) := by
  unfold injectToken
  dsimp only
  split
  · exact h
  · split <;> split
    any_goals exact h
    all_goals exact inv_tapEnter (inv_busy (inv_modRegion (inv_modElem (inv_injectBad h ..) ..) ..) ..) ..

@[simp] theorem inv_sendEos (r : Rgn) (ch : Nat) : Inv (sendEos s r ch) := by
  unfold sendEos
  dsimp only
  split
  · exact h
  · split
    · exact inv_tapEnter (inv_busy (inv_setRegion h ..) ..) ..
    · exact h

theorem inv_placePayload {l : Loc} {t : Token} {rm : Room} {u : State} (hu : placePayload s l t rm = some u) : Inv u := by
  unfold placePayload at hu
  dsimp only at hu
  split at hu
  · cases hu
    exact inv_modElem h ..
  · split at hu
    · cases hu
      exact inv_modElem (inv_vwriteLong _ _ _ _ _ h) ..
    · cases hu
  · cases hu
    exact h

@[simp] theorem inv_takeHead (l : Loc) (ch : Nat) : Inv (takeHead s l ch) := inv_busy (inv_modChan h ..) ..
@[simp] theorem inv_stopArrival (l : Loc) (cause : Nat) (t : Token) (v : RecvEnt) : Inv (stopArrival s l cause t v) := inv_meetStop h ..
@[simp] theorem inv_stopSpill (l : Loc) (t : Token) (v : RecvEnt) (rm : Room) : Inv (stopSpill s l t v rm) := inv_meetStop h ..

@[simp] theorem inv_tokenArrival (l : Loc) (ch : Nat) : Inv (tokenArrival s l ch) := by
  have ht := inv_takeHead h l ch
  unfold tokenArrival
  dsimp only
  split
  · exact h
  · split
    · exact h
    · split
      · exact inv_stopArrival h ..
      · exact h
      · exact inv_putRec (inv_modRegion (inv_modElem ht ..) ..) ..
      · split
        · exact h
        · split
          · exact inv_stopSpill h ..
          · next hp => exact inv_modElem (inv_takeHead (inv_placePayload h hp) ..) ..

@[simp] theorem inv_headArrival (l : Loc) (ch : Nat) : Inv (headArrival s l ch) := by
  unfold headArrival
  split
  · exact h
  · split
    · exact h
    · split
      · exact inv_stopArrival h ..
      · split
        · exact h
        · split
          · exact inv_stopSpill h ..
          · next hp => exact inv_modElem (inv_takeHead (inv_placePayload h hp) ..) ..

@[simp] theorem inv_eosArrival (l : Loc) (ch : Nat) : Inv (eosArrival s l ch) := by
  have ht := inv_takeHead h l ch
  unfold eosArrival
  dsimp only
  repeat' split
  all_goals simp [h, ht]

@[simp] theorem inv_spillFetch (l : Loc) (n : Nat) : Inv (spillFetch s l n) := by
  unfold spillFetch
  dsimp only
  split
  · split
    · exact h
    · have hr := fun p l m a n => inv_logVreadLong p l m a n h
      split
      · exact inv_busy (inv_modElem (hr ..) ..) ..
      · exact inv_busy (inv_modElem (inv_modElem (inv_putRec (inv_drawOrigin (hr ..).of_eq _) ..) ..) ..) ..
      · exact inv_meetStop (hr ..) ..
  · exact h

end
end Sys2Proof.Machine
end

section
/-! SUPPORT. The host ports, the control registers, waits, and the controller's steps on regions keep the invariant (spec/09, spec/12,
spec/18, spec/21). -/

namespace Sys2Proof.Machine

-- One proof after another: side by side, this many short proofs wait for one another in more threads than the check's memory holds.
set_option Elab.async false

/-! ### Host ports (R276, R281) -/

@[simp] theorem inv_hostBytes (p fuel : Nat) {s : State} (pa n : Nat) (h : Inv s) : Inv (hostBytes p fuel s pa n).1 := by
  induction fuel generalizing s pa n with
  | zero => exact h
  | succ fuel ih =>
    unfold hostBytes
    split
    · exact h
    · exact ih _ _ (inv_logRead h ..)

@[simp] theorem inv_hostWrite (p fuel : Nat) {s : State} (pa n v : Nat) (h : Inv s) : Inv (hostWrite p fuel s pa n v) := by
  induction fuel generalizing s pa n v with
  | zero => exact h
  | succ fuel ih =>
    unfold hostWrite
    split
    · exact h
    · exact ih _ _ _ (inv_physWrite (inv_logWrite h ..) ..)

section
variable {s : State} (h : Inv s)
include h

@[simp] theorem inv_reply (port status data : Nat) : Inv (reply s port status data) := (inv_drainHost h port).of_eq

@[simp] theorem inv_putIngress (p w : Nat) (x : Ingress) : Inv (putIngress s p w x) := inv_vwriteD (inv_modPart h ..) ..

@[simp] theorem inv_inboundDone (p : Nat) (x : Inbound) : Inv (inboundDone s p x) := by
  unfold inboundDone
  dsimp only
  repeat' split
  all_goals simp [h]

@[simp] theorem inv_inboundLine (p : Nat) (x : Inbound) (line : Nat) : Inv (inboundLine s p x line).1 := by
  unfold inboundLine
  dsimp only
  split <;> simp [h]

@[simp] theorem inv_inboundPiece (p k j : Nat) : Inv (inboundPiece s p k j) := by
  have hl := inv_inboundLine h p
  unfold inboundPiece
  dsimp only
  repeat' split
  all_goals simp [h, hl]

@[simp] theorem inv_inboundFlush (p : Nat) : Inv (inboundFlush s p) := by
  refine inv_foldl (fun s _ h => ?_) _ h
  split <;> simp [h]

@[simp] theorem inv_inboundTake (p : Nat) (x : Inbound) : Inv (inboundTake s p x) := by
  have hf := inv_inboundFlush h p
  unfold inboundTake
  dsimp only
  repeat' split
  all_goals simp [h, hf]

@[simp] theorem inv_dropCached (p : Nat) (q : InvalReq) : Inv (dropCached s p q) := by
  refine (inv_cores (inv_modPart h p _) (f := fun i c _ => if ownsCore _ p i then { c with tlb := c.tlb.filter fun t => !t.inRange q } else c)
    fun i c _ hc => ?_).of_eq
  split
  · exact hc.of_eq
  · exact hc

@[simp] theorem inv_dropRange (p : Nat) (q : InvalReq) : Inv (dropRange s p q) := (inv_dropCached h p q).of_eq

@[simp] theorem inv_endInval (p w0 seq : Nat) : Inv (endInval s p w0 seq) := inv_vwriteD (inv_vwriteD h ..) ..

end

@[simp] theorem inv_ringWrite (p fuel : Nat) {s : State} (w : WVane) (x n v : Nat) (h : Inv s) : Inv (ringWrite p fuel s w x n v) := by
  induction fuel generalizing s x n v with
  | zero => exact h
  | succ fuel ih =>
    unfold ringWrite
    split
    · exact h
    · exact ih _ _ _ (inv_vwriteD h ..)

/-! ### Control registers (R225, R226, R230, R232, R233) -/

/-- Bits cleared: what read 0 reads 0. -/
theorem and_reserved {x k : Word64} (hx : x &&& k = 0) (m : Word64) : x &&& m &&& k = 0 := by
  rw [BitVec.and_assoc, BitVec.and_comm m, ← BitVec.and_assoc, hx]
  exact BitVec.zero_and

/-- Bits that read 0 and that no write may change read 0 after one. -/
theorem csrMerge_reserved {n : Nat} {k old : Word64} (hk : csrMask n &&& k = 0) (ho : old &&& k = 0) (v : Word64) :
    csrMerge n old v &&& k = 0 := by
  have hv : v &&& csrMask n &&& k = 0 := by
    rw [BitVec.and_assoc, hk]
    exact BitVec.and_zero
  rw [csrMerge, BitVec.and_or_distrib_right, and_reserved ho, hv]
  rfl

section
variable {s : State} (h : Inv s)
include h

theorem inv_statusWrite (v : Word64) : Inv (csrEnd (statusWrite s v)) := by
  unfold statusWrite
  dsimp only
  split
  · exact inv_ktrap h _
  · exact inv_kadvance (inv_setCore h { coreOk_cur h with status := csrMerge_reserved (by decide) (coreOk_cur h).status v })

@[simp] theorem inv_eventWrite (v : Word64) : Inv (eventWrite s v) :=
  inv_setCore h { coreOk_cur h with event := and_reserved (coreOk_cur h).event _ }

@[simp] theorem inv_revtWrite (v : Word64) : Inv (revtWrite s v) := inv_setCore h (coreOk_cur h).of_eq

/-- The monitor armed: MON is cleared. -/
theorem inv_monaArmed (v : Word64) (l : Option MonLine) : Inv (setCore s { curCore s with
    mona := v, monitor := l, event := (curCore s).event &&& ~~~(4 : Word64) }) :=
  inv_setCore h { coreOk_cur h with event := and_reserved (coreOk_cur h).event _ }

theorem inv_monaWrite (v : Word64) : Inv (csrEnd (monaWrite s v)) := by
  unfold monaWrite
  dsimp only
  split
  · exact inv_ktrap h _
  · exact inv_kadvance (inv_monaArmed h ..)
  · split
    · next hk => exact inv_ktrap (inv_of_kxlat h hk) _
    · next hk => exact inv_kadvance (inv_monaArmed (inv_of_kxlat h hk) ..)

@[simp] theorem inv_csrSet (n : Nat) (v : Word64) : Inv (csrEnd (csrSet s n v)) := by
  have hc := coreOk_cur h
  unfold csrSet
  dsimp only
  split
  · exact inv_statusWrite h v
  · exact inv_kadvance (inv_setCore h hc.of_eq)
  · exact inv_kadvance (inv_setCore h hc.of_eq)
  · exact inv_kadvance (inv_setCore h hc.of_eq)
  · exact inv_kadvance (inv_setCore h { hc with ftvec := csrMerge_reserved (by decide) hc.ftvec v })
  · exact inv_kadvance (inv_setCore h { hc with rtvec := csrMerge_reserved (by decide) hc.rtvec v })
  · exact inv_kadvance (inv_setCore h { hc with tdeleg := csrMerge_reserved (by decide) hc.tdeleg v })
  · exact inv_kadvance (inv_setCore h { hc with ien := csrMerge_reserved (by decide) hc.ien v })
  · exact inv_kadvance (inv_eventWrite h v)
  · exact inv_monaWrite h v
  · exact inv_kadvance (inv_setCore h hc.of_eq)
  · exact inv_kadvance (inv_setCore h hc.of_eq)
  · exact inv_kadvance (inv_setCore h { hc with rsel := csrMerge_reserved (by decide) hc.rsel v })
  · exact inv_kadvance (inv_modRegion h ..)
  · exact inv_kadvance (inv_revtWrite h v)
  · exact inv_kadvance (inv_modPart h ..)
  · exact inv_kadvance (inv_setCore h hc.of_eq)
  · exact inv_kadvance (inv_setCore h hc.of_eq)
  · exact inv_kadvance (inv_setCore h hc.of_eq)
  · exact inv_kadvance (inv_setCore h hc.of_eq)
  · exact inv_kadvance h

@[simp] theorem inv_csrWrite (n : Nat) (r : Access1) (clear : Bool) (v : Word64) : Inv (csrWrite s n r clear v) := by
  unfold csrWrite
  repeat' split
  all_goals simp [h]

theorem inv_csrGuard (n word : Nat) {f : Access1 → State} (hf : ∀ r, Inv (f r)) : Inv (csrGuard s n word f) := by
  unfold csrGuard
  split
  · exact inv_ktrap h _
  · exact inv_ktrap h _
  · exact hf _

/-! ### Waits (R234, R235) -/

/-- A core that begins or ends a wait. -/
theorem inv_setWait {u : State} (hu : Inv u) (w : Option Wait) : Inv (setCore u { curCore s with wait := w }) :=
  inv_setCore hu (coreOk_cur h).of_eq

@[simp] theorem inv_kwaitTry (d a : KReg) (since : Nat) : Inv (kwaitTry s d a since) := by
  unfold kwaitTry
  dsimp only
  split
  · exact inv_kret (inv_setWait h h _) ..
  · exact inv_setWait h h _

@[simp] theorem inv_gwaitkTry (d a b : KReg) (since : Nat) : Inv (gwaitkTry s d a b since) := by
  unfold gwaitkTry
  dsimp only
  split
  · exact inv_ktrap (inv_setWait h h _) _
  · split
    · exact inv_kret (inv_setWait h (inv_busy h _) _) ..
    · refine inv_setWait h ?_ _
      split
      · exact inv_busy h _
      · exact h

/-! ### Pours and the controller (R236 to R247, R366, R367) -/

@[simp] theorem inv_occupyInfusers (r : Rgn) (place : Nat) : Inv (occupyInfusers s r place) := h.of_eq
@[simp] theorem inv_freeInfusers (r : Rgn) : Inv (freeInfusers s r) := h.of_eq
@[simp] theorem inv_unbindLanes (r : Rgn) : Inv (unbindLanes s r) := h.of_eq
@[simp] theorem inv_clearFar (g : Region) : Inv (clearFar s g) := h.of_eq
@[simp] theorem inv_bindLanes (r : Rgn) (img : Image) : Inv (bindLanes s r img) :=
  (inv_modRegion h r fun g => { g with spares := [] }).of_eq
@[simp] theorem inv_putLaunch (r : Rgn) (id : Nat) : Inv (putLaunch s r id) := inv_modPart h ..
@[simp] theorem inv_endLaunch (r : Rgn) (id st : Nat) : Inv (endLaunch s r id st) := inv_modPart h ..

@[simp] theorem inv_leakRecs (r : Rgn) : Inv (leakRecs s r) := by
  have hf : Inv ((reportOrder s r).foldl (fun s' n => match leakRec (getRegion s r) ((resids s (getRegion s r)).filter fun x => x.at_ == some n) with
      | some f => putRec s' r (atElem s' ⟨r.part, r.handle, n⟩ f)
      | none => s') s) := by
    refine inv_foldl (fun s' n h' => ?_) _ h
    split <;> simp [h']
  unfold leakRecs
  dsimp only
  split
  · exact inv_putRec hf ..
  · exact hf

end

@[simp] theorem inv_commitElem (l : Loc) (n : Nat) {s : State} (h : Inv s) : Inv (commitElem l n s) := by
  induction n generalizing s with
  | zero => exact h
  | succ n ih =>
    unfold commitElem
    dsimp only
    split
    · exact ih (inv_commit h ..)
    · exact h

section
variable {s : State} (h : Inv s)
include h

@[simp] theorem inv_commitPour (r : Rgn) : Inv (commitPour s r) := inv_foldl (fun _ _ h => inv_commitElem _ _ h) _ h

@[simp] theorem inv_pourEnd (r : Rgn) : Inv (pourEnd s r) := by
  unfold pourEnd
  dsimp only
  split
  · exact h
  · have hc := fun x y n v => inv_clearFar (inv_vwriteD (inv_leakRecs (inv_commitPour h r) r) x y n v) (getRegion s r)
    split
    · exact inv_setRegion (hc ..) ..
    · exact inv_postRegion (inv_endLaunch (inv_setRegion (hc ..) ..) ..) ..

@[simp] theorem inv_enterState (r : Rgn) (g : Region) (st : Nat) : Inv (enterState s r g st) := inv_postRegion (inv_setRegion h ..) ..
@[simp] theorem inv_reconfigBusy (r : Rgn) (q : Nat × Nat × Nat) : Inv (reconfigBusy s r q) := inv_postRegion (inv_setRegion h ..) ..
@[simp] theorem inv_startPour (r : Rgn) (carry : List (Nat × Nat × Nat)) : Inv (startPour s r carry) := inv_setRegion h ..

@[simp] theorem inv_keepFoot {s' : State} (h' : Inv s') (r : Rgn) (carry : List (Nat × Nat × Nat)) : Inv (keepFoot s s' r carry) := by
  unfold keepFoot
  split <;> simp [h, h']

@[simp] theorem inv_boundary (r : Rgn) : Inv (boundary s r) := by
  have hr := fun k va n v => inv_vwriteLong r.part k va n v h
  unfold boundary
  dsimp only
  repeat' split
  all_goals simp [h, hr]

@[simp] theorem inv_startFirst (r : Rgn) : Inv (startFirst s r) := inv_modRegion h ..

theorem inv_fabric (d : KReg) (v : Word64) (states : List Nat) {f : State → Rgn → Region → Nat × State}
    (hf : ∀ {u}, Inv u → ∀ r g, Inv (f u r g).2) : Inv (fabric s d v states f) := by
  have hk := inv_korder h false
  unfold fabric
  dsimp only
  split
  · exact inv_fstatus hk ..
  · split
    · exact inv_fstatus hk ..
    · split
      · exact inv_fstatus hk ..
      · split
        · exact inv_fstatus (inv_busy (hf hk ..) _) ..
        · exact inv_fstatus hk ..

@[simp] theorem inv_iload (r : Rgn) (va place : Nat) : Inv (iload s r va place).2 := by
  have hl := fun g => inv_occupyInfusers (inv_setRegion h r g) r place
  unfold iload
  dsimp only
  repeat' split
  all_goals simp [h, hl]

@[simp] theorem inv_rrestore (r : Rgn) (area place : Nat) : Inv (rrestore s r area place).2 := by
  have hl := fun g => inv_occupyInfusers (inv_setRegion h r g) r place
  unfold rrestore
  dsimp only
  repeat' split
  all_goals simp [h, hl]

@[simp] theorem inv_armRegion (r : Rgn) (g : Region) : Inv (armRegion s r g).2 := by
  unfold armRegion
  dsimp only
  split <;> simp [h]

@[simp] theorem inv_armOff (r : Rgn) : Inv (armOff s r) := inv_enterState (inv_unbindLanes (inv_endLaunch h ..) _) ..

@[simp] theorem inv_meetCtrl (r : Rgn) : Inv (meetCtrl s r) := by
  refine inv_foldl (fun s q h => ?_) _ h
  split <;> simp [h]

@[simp] theorem inv_launchRegion (r : Rgn) (g : Region) (id : Nat) : Inv (launchRegion s r g id) :=
  inv_meetLost (inv_meetCtrl (inv_putLaunch (inv_enterState (s := bindsDue s r) h.of_eq ..) ..) _) _

@[simp] theorem inv_inject (r : Rgn) (g : Region) (t : Token) : Inv (inject s r g t).2 := by
  unfold inject
  dsimp only
  repeat' split
  all_goals simp [h]

@[simp] theorem inv_argWrite (r : Rgn) (g : Region) (v k : Nat) : Inv (argWrite s r g v k).2 := by
  unfold argWrite
  dsimp only
  repeat' split
  all_goals simp [h]

@[simp] theorem inv_beginCut (r : Rgn) : Inv (beginCut s r) := inv_modRegion h ..
@[simp] theorem inv_drainRegion (r : Rgn) (g : Region) (tag : Nat) : Inv (drainRegion s r g tag) := inv_enterState h ..

end
end Sys2Proof.Machine
end

section
/-! SUPPORT. Boots, resets, the regulators and the environment, and the kettle core's own instructions keep the invariant (spec/09: R210,
R217 to R224; spec/22: R404 to R412; spec/23: R414 to R418). -/

namespace Sys2Proof.Machine

-- One proof after another: side by side, this many short proofs wait for one another in more threads than the check's memory holds.
set_option Elab.async false

/-! ### Regulators (R409, R415) -/

theorem mem_modNth {α : Type} {x : α} {f : α → α} {l : List α} {n : Nat} (h : x ∈ modNth l n f) : x ∈ l ∨ ∃ y ∈ l, x = f y := by
  induction l generalizing n with
  | nil => exact absurd h List.not_mem_nil
  | cons y l ih =>
    cases n with
    | zero => exact (List.mem_cons.1 h).elim (fun h => .inr ⟨y, List.mem_cons_self, h⟩) fun h => .inl (List.mem_cons_of_mem y h)
    | succ n =>
      refine (List.mem_cons.1 h).elim (fun h => .inl (h ▸ List.mem_cons_self)) fun h => ?_
      exact (ih h).imp (List.mem_cons_of_mem y) fun ⟨z, hz, he⟩ => ⟨z, List.mem_cons_of_mem y hz, he⟩

section
variable {s : State} (h : Inv s)
include h

/-- The stretch of one die's clocks set, within its bound. -/
theorem inv_stretch (d : Nat) {n : Nat} (hn : n ≤ 4) : Inv { s with stretch := modNth s.stretch d fun _ => n } where
  hbm := h.hbm
  hostMem := h.hostMem
  cores := h.cores
  actmax := h.actmax
  stretch x hx := (mem_modNth hx).elim (h.stretch x) fun ⟨_, _, he⟩ => he ▸ hn

/-- One stack's ACTMAX and THROT changed, ACTMAX within its bound. -/
theorem inv_isobar (st : Nat) {f : Nat × Nat → Nat × Nat} (hf : ∀ q, 256 ≤ q.1 → 256 ≤ (f q).1) : Inv { s with isobar := modNth s.isobar st f } where
  hbm := h.hbm
  hostMem := h.hostMem
  cores := h.cores
  actmax q hq := (mem_modNth hq).elim (h.actmax q) fun ⟨p, hp, he⟩ => he ▸ hf p (h.actmax p hp)
  stretch := h.stretch

@[simp] theorem inv_activated (st : Nat) : Inv (activated s st) := h.of_eq

@[simp] theorem inv_activate (st : Nat) : Inv (activate s st) := by
  unfold activate
  split
  · exact inv_activated h st
  · exact (inv_isobar h st (f := fun q => (q.1, (q.2 + 1) % 2 ^ 64)) fun _ hq => hq).of_eq

end

/-! ### Boots and resets (R213, R395, R416) -/

/-- A core as a boot ROM starts it has the form, its pc being a multiple of 4. -/
theorem coreOk_boot {entry : Nat} {m : List Host.Cell} (hm : Memory.wf m = true) : CoreOk (bootCore entry m) := by
  refine { coreOk_reset with pc := ?_, lmem := hm }
  show BitVec.ofNat 64 entry &&& 0xFFFFFFFFFFFFFFFC &&& 3 = 0
  rw [BitVec.and_assoc]
  exact BitVec.and_zero

section
variable {s : State} (h : Inv s)
include h

theorem inv_bareModule {m : List Host.Cell} (hm : Memory.wf m = true) : Inv (bareModule s m) :=
  ⟨hm, h.hostMem, inv_reset.cores, inv_reset.actmax, inv_reset.stretch⟩

theorem inv_coresMap {f : Core → Core} (hf : ∀ c, CoreOk c → CoreOk (f c)) : Inv { s with cores := s.cores.map f } where
  hbm := h.hbm
  hostMem := h.hostMem
  cores k := by
    simp only [Fin.getElem_fin, Vector.getElem_map]
    exact hf _ (h.cores k)
  actmax := h.actmax
  stretch := h.stretch

theorem inv_boot {m : List Host.Cell} (hm : Memory.wf m = true) {lmem : Nat → List Host.Cell} (hl : ∀ i < 32, Memory.wf (lmem i) = true) :
    Inv (boot s m lmem) := by
  have hb := inv_bareModule h hm
  unfold boot
  dsimp only
  split
  · refine (inv_cores hb (f := fun i _ _ => bootCore _ (writeBytes (lmem i) 0 _ _)) fun i c hi _ => ?_).of_eq
    exact coreOk_boot (wf_writeBytes (hl i hi) ..)
  · exact (inv_coresMap hb (f := fun c => { c with started := false }) fun c hc => hc.of_eq).of_eq

/-- Requests of the host that are refused are answered. -/
theorem inv_refusals (l : List Inbound) : Inv (l.foldl (fun s x => if x.write then s else { s with hostReply := some (1, 0) }) s) := by
  refine inv_foldl (fun s x h => ?_) l h
  split
  · exact h
  · exact h.of_eq

@[simp] theorem inv_resetPart (p : Nat) : Inv (resetPart s p) := by
  refine inv_setPart (inv_refusals ?_ _) ..
  refine (inv_cores h (f := fun i c _ => if ownsCore s p i then { c with started := false, wait := none, buf := [] } else c) fun i c _ hc => ?_).of_eq
  split
  · exact hc.of_eq
  · exact hc

@[simp] theorem inv_restartPart (p : Nat) : Inv (restartPart s p) := by
  refine inv_cores (inv_modPart h ..) fun i c _ hc => ?_
  split
  · exact coreOk_boot hc.lmem
  · exact hc

end

/-! ### Blocks that the hardware publishes (R410, R412) -/

@[simp] theorem inv_keepBytes (p fuel : Nat) {s : State} (va n v : Nat) (h : Inv s) : Inv (keepBytes s p fuel va n v) := by
  induction fuel generalizing s va n v with
  | zero => exact h
  | succ fuel ih =>
    unfold keepBytes
    split
    · exact h
    · refine ih _ _ _ ?_
      split
      · exact h
      · split
        · exact h
        · exact inv_physWrite h ..

section
variable {s : State} (h : Inv s)
include h

@[simp] theorem inv_publishPart (p : Nat) : Inv (publishPart s p) := by
  unfold publishPart
  refine inv_keepBytes _ _ _ _ _ ?_
  split
  · exact inv_foldl (fun _ _ h => inv_keepBytes _ _ _ _ _ h) _ h
  · exact h

@[simp] theorem inv_publish : Inv (publish s) := by
  refine inv_foldl (fun s p h => ?_) _ h
  split <;> simp [h]

/-! ### The environment (R221, R304, R404 to R407) -/

@[simp] theorem inv_bankError (l : Loc) (b : Nat) : Inv (bankError s l b) :=
  inv_putRec (inv_modElem (inv_drawOrigin (inv_logSram h ..) _) ..) ..

@[simp] theorem inv_stopError (l : Loc) (off : Nat) : Inv (stopError s l off) := by
  unfold stopError
  dsimp only
  split <;> simp [h]

@[simp] theorem inv_stageMore (r : Rgn) (n : Nat) : Inv (stageMore s r n) := by
  unfold stageMore
  dsimp only
  split <;> simp [h]

@[simp] theorem inv_softError (line sym layer : Nat) : Inv (softError s line sym layer) := by
  unfold softError
  dsimp only
  repeat' split
  all_goals exact h.of_eq

@[simp] theorem inv_logReplay (g kind off : Nat) : Inv (logReplay s g kind off) := by
  unfold logReplay
  split <;> simp [h]

@[simp] theorem inv_logCore (k kind off : Nat) : Inv (logCore s k kind off) := inv_errLog h ..

theorem inv_applyEnv (a : EnvAct) : Inv (applyEnv s a) := by
  cases a with
  | soft pa sym layer =>
    unfold applyEnv
    dsimp only
    split <;> simp [h]
  | hard pa =>
    unfold applyEnv
    dsimp only
    split
    · exact h.of_eq
    · exact h
  | hostDrain port => exact inv_drainHostOne h port
  | hostStore port bus n v => exact inv_hitMonitors (inv_hostMem h (wf_writeBytes h.hostMem ..)) ..
  | hold k on => exact h.of_eq
  | drain k => exact inv_drainCore h k
  | scratchErr l off => exact inv_logSram (inv_modElem h ..) ..
  | bankErr l b => exact inv_bankError h ..
  | gaugeErr l off =>
    unfold applyEnv
    dsimp only
    refine inv_stopError ?_ ..
    split <;> simp [h]
  | ctrlErr l off => exact inv_stopError (inv_modElem h ..) ..
  | sramFix l off => exact inv_logSram h ..
  | localErr k line => exact inv_logCore (inv_modCore h k fun _ hc => hc.of_eq) ..
  | localFix k line => exact inv_logCore h ..
  | cacheErr k pa => exact inv_logCore (inv_modCore h k fun _ hc => hc.of_eq) ..
  | cacheFix k pa => exact inv_logCore h ..
  | replayErr g off => exact inv_loseLane (inv_logReplay h ..) _
  | replayFix g off => exact inv_logReplay h ..
  | meshErr r ch n beat => exact inv_setPart h ..
  | posted p n => exact inv_setPart h ..
  | byLine p on => exact inv_setPart h ..
  | inPiece p k j => exact inv_inboundPiece h ..
  | configRead p port => exact inv_reply h ..
  | flashBegin img =>
    unfold applyEnv
    dsimp only
    split
    · exact h.of_eq
    · exact h
  | flashEnd =>
    unfold applyEnv
    dsimp only
    split
    · exact h.of_eq
    · exact h
  | sagOver d => exact h.of_eq
  | lag d n =>
    unfold applyEnv
    dsimp only
    split
    · exact h.of_eq
    · exact h
  | activate st => exact inv_activate h st
  | stage r n => exact inv_stageMore h ..
  | postpone st b => exact h.of_eq

/-! ### The kettle core (R217 to R224) -/

@[simp] theorem inv_kbin (d a b : KReg) (f : Word64 → Word64 → Word64) : Inv (kbin s d a b f) := inv_kret h ..
@[simp] theorem inv_kimm (d a : KReg) (f : Word64 → Word64) : Inv (kimm s d a f) := inv_kret h ..

/-- The target of a branch is a multiple of 4 (R214). -/
theorem ktarget_aligned {n : Nat} (o : BitVec n) : ktarget s o &&& 3 = 0 := by
  have hp := (aligned_iff (curCore s).pc 2 (by decide)).1 (coreOk_cur h).pc
  refine (aligned_iff _ 2 (by decide)).2 ?_
  unfold ktarget
  rw [BitVec.toNat_add, BitVec.toNat_shiftLeft, Nat.shiftLeft_eq]
  omega

@[simp] theorem inv_kbranch (c : Bool) (o : BitVec 16) : Inv (kbranch s c o) := by
  unfold kbranch
  split
  · exact inv_kjump h (ktarget_aligned h o)
  · exact inv_kadvance h

theorem inv_of_kstore {t : State} {a : Word64} {n v : Nat} {plain : Bool} {x : Except KTrap Unit} (hk : kstore s a n v plain = (x, t)) : Inv t := by
  have ht := inv_kstore h a n v plain
  rwa [hk] at ht

@[simp] theorem inv_krelease (a b : KReg) (n : Nat) (sys : Bool) : Inv (krelease s a b n sys) := by
  unfold krelease
  split
  · next hk => exact inv_ktrap (inv_of_kstore h hk) _
  · split
    · next hk =>
      have ht := inv_of_kstore (inv_korder h sys) hk
      refine inv_kadvance ?_
      split
      · exact inv_korder ht _
      · exact ht
    · next hk => exact inv_ktrap (inv_of_kstore (inv_korder h sys) hk) _

@[simp] theorem inv_kamo (d a : KReg) (w : Bool) (o : BitVec 2) (sys u hostOk : Bool) (f : Nat → Nat) : Inv (kamo s d a w o sys u hostOk f) := by
  unfold kamo
  dsimp only
  split
  · exact inv_ktrap h _
  · split
    · exact inv_ktrap h _
    · split
      · exact inv_ktrap h _
      · refine inv_kret (inv_lstore ?_ ..) ..
        split
        · exact inv_korder h _
        · exact h
    · split
      · next hk => exact inv_ktrap (inv_of_kxlat h hk) _
      · next hk =>
        have ht := inv_of_kxlat h hk
        split
        · split
          · exact inv_ktrap ht _
          · exact inv_kret (inv_readSettle (inv_physWrite (inv_readSettle (inv_korder ht _) _) ..) _) ..
        · split
          · exact inv_ktrap ht _
          · split
            · exact inv_ktrap (inv_logRead ht ..) _
            · exact inv_kret (inv_physWrite (inv_logRead (inv_korder ht _) ..) ..) ..

@[simp] theorem inv_almTake (p image : Nat) : Inv (almTake s p image).1 := inv_setPart (inv_vwriteD h ..) ..

end

theorem inv_scrubPages (n : Nat) {s : State} (va : Nat) (h : Inv s) : Inv (scrubPages s n va).2 := by
  induction n generalizing s va with
  | zero => exact h
  | succ n ih =>
    unfold scrubPages
    split
    · exact h
    · split
      · next hk => exact inv_of_kxlat h hk
      · next hk =>
        have ht := inv_of_kxlat h hk
        split
        · exact ht
        · have hr := ih (va + 4096) ht
          split <;> next he => rwa [he] at hr

end Sys2Proof.Machine
end

section
/-! SUPPORT. The ends of loads, saves and restores, lane groups, far accesses, the scheduler and the sequencer keep the invariant (spec/11,
spec/13, spec/14, spec/18, spec/19, spec/23). -/

namespace Sys2Proof.Machine

-- One proof after another: side by side, this many short proofs wait for one another in more threads than the check's memory holds.
set_option Elab.async false

section
variable {s : State} (h : Inv s)
include h

/-! ### Loads, saves and restores (R240, R247) -/

@[simp] theorem inv_writeWork (p : Nat) (g : Region) : Inv (writeWork s p g) := inv_vwriteLong _ _ _ _ _ h

@[simp] theorem inv_loadFailed (r : Rgn) (place : Nat) (f : Refused) : Inv (loadFailed s r place f) :=
  inv_postRegion (inv_freeInfusers (inv_setRegion h ..) _) ..

@[simp] theorem inv_loadPassed (r : Rgn) (va place : Nat) (q : Passed) : Inv (loadPassed s r va place q) :=
  inv_postRegion (inv_bindLanes (inv_freeInfusers (inv_setRegion (inv_writeWork h ..) ..) _) ..) ..

@[simp] theorem inv_writeSection (p area off n v : Nat) : Inv (writeSection s p area off n v) := inv_vwriteLong _ _ _ _ _ h

@[simp] theorem inv_writeSave (r : Rgn) (area : Nat) : Inv (writeSave s r area) :=
  inv_writeSection (inv_writeSection (inv_writeSection (inv_writeSection (inv_writeSection h ..) ..) ..) ..) ..

@[simp] theorem inv_clearRxq (r : Rgn) : Inv (clearRxq s r) := h.of_eq
@[simp] theorem inv_refillRx (g : Region) (l : List (Nat × List Token)) : Inv (refillRx s g l) := h.of_eq

@[simp] theorem inv_restoreFailed (r : Rgn) (c : Nat) : Inv (restoreFailed s r c) :=
  inv_postRegion (inv_freeInfusers (inv_setRegion h ..) _) ..

@[simp] theorem inv_restoreComplete (r : Rgn) (place area : Nat) : Inv (restoreComplete s r place area) := by
  have hl := fun p l m a n => inv_logVreadLong p l m a n h
  unfold restoreComplete
  dsimp only
  split
  · exact inv_restoreFailed h ..
  · split
    · exact inv_restoreFailed h ..
    · split
      · exact inv_restoreFailed h ..
      · split
        · have he := fun p l m a n z x r g st => inv_enterState (inv_freeInfusers (inv_refillRx (hl p l m a n) z x) r) r g st
          split
          · exact he ..
          · exact inv_meetLost (inv_meetCtrl (he ..) _) _
        · exact inv_restoreFailed h ..

/-! ### Lane groups (R305 to R315) -/

@[simp] theorem inv_takeToken (g : Nat) : Inv (takeToken s g) := by
  unfold takeToken
  dsimp only
  split
  · exact h
  · exact inv_modLane (inv_busy (inv_modRegion h ..) _) ..

@[simp] theorem inv_sendQueued (g : Nat) : Inv (sendQueued s g) := inv_modLane h ..

@[simp] theorem inv_flitSend (g : Nat) : Inv (flitSend s g) := by
  unfold flitSend
  dsimp only
  repeat' split
  all_goals simp [h]

@[simp] theorem inv_farCredit (g n : Nat) : Inv (farCredit s g n) := by
  unfold farCredit
  dsimp only
  split <;> simp [h]

@[simp] theorem inv_flitReceive (g f : Nat) (err : Bool) : Inv (flitReceive s g f err) := by
  have hm := fun u => inv_modLane h g u
  unfold flitReceive
  dsimp only
  split
  · exact h
  · refine inv_passRx _ _ ?_
    repeat' split
    any_goals exact inv_farCredit (hm _) ..
    all_goals exact hm _

end

/-! ### Accesses of other modules (R318 to R321) -/

@[simp] theorem inv_farRead (p fuel : Nat) {s : State} (pa n : Nat) (h : Inv s) : Inv (farRead p fuel s pa n).1 := by
  induction fuel generalizing s pa n with
  | zero => exact h
  | succ fuel ih =>
    unfold farRead
    dsimp only
    split
    · exact h
    · refine ih _ _ ?_
      split
      · exact (inv_logRead h ..).of_eq
      · exact inv_logRead h ..

@[simp] theorem inv_farWrite (p fuel : Nat) {s : State} (pa n v m : Nat) (h : Inv s) : Inv (farWrite p fuel s pa n v m) := by
  induction fuel generalizing s pa n v m with
  | zero => exact h
  | succ fuel ih =>
    unfold farWrite
    dsimp only
    split
    · exact h
    · refine ih _ _ _ _ ?_
      split
      · exact h
      · exact inv_physWriteMask (inv_logWrite h ..) ..

section
variable {s : State} (h : Inv s)
include h

@[simp] theorem inv_farLoad (p : Nat) (q : FarReq) (r : FarAns) (ln : Nat) : Inv (farLoad s p q r ln).1 := inv_farRead _ _ _ _ h
@[simp] theorem inv_farStore (p : Nat) (q : FarReq) (u : RxUnit) (ln : Nat) : Inv (farStore s p q u ln).1 := inv_farWrite _ _ _ _ _ _ h

@[simp] theorem inv_farAtomic (p : Nat) (q : FarReq) : Inv (farAtomic s p q).1 := by
  have hr := inv_farRead p 2 q.pa q.n h
  unfold farAtomic
  dsimp only
  repeat' split
  all_goals simp [hr]

@[simp] theorem inv_farRed (p : Nat) (q : FarReq) (u : RxUnit) (r : FarAns) (ln : Nat) : Inv (farRed s p q u r ln).1 := by
  have hr := inv_farRead p 1 (q.pa + (linePart q ln).1) (linePart q ln).2 h
  unfold farRed
  dsimp only
  split
  · exact hr
  · exact inv_foldl (fun _ _ h => inv_farWrite _ _ _ _ _ _ h) _ hr

@[simp] theorem inv_farCells (p : Nat) (runs : List (Nat × Nat × Nat)) (v : Nat) : Inv (farCells p s runs v).1 := by
  unfold farCells
  refine inv_foldl_fst (fun q r hq => ?_) runs h
  exact inv_farRead _ _ _ _ hq

@[simp] theorem inv_farPutCells (p : Nat) (runs : List (Nat × Nat × Nat)) (v : Nat) : Inv (farPutCells p s runs v) :=
  inv_foldl (fun _ _ h => inv_farWrite _ _ _ _ _ _ h) _ h

@[simp] theorem inv_farBlock (p : Nat) (q : FarReq) (u : RxUnit) : Inv (farBlock s p q u).1 := by
  have hc := inv_farCells h p q.runs 0
  have hr := fun c => inv_farRead p 2 c 4 hc
  unfold farBlock
  dsimp only
  repeat' split
  all_goals simp [hc, hr]

@[simp] theorem inv_farLine (p : Nat) (u : RxUnit) (ln : Nat) : Inv (farLine s p u ln).1 := by
  unfold farLine
  dsimp only
  repeat' split
  all_goals simp [h]

@[simp] theorem inv_farPerform (p now : Nat) (u : RxUnit) : Inv (farPerform s p now u).1 := by
  have hl := inv_farLine (s := { s with fresh := s.fresh + 1 }) h.of_eq p u
  unfold farPerform
  dsimp only
  repeat' split
  all_goals simp [h, hl]

@[simp] theorem inv_farAdvance (g k : Nat) : Inv (farAdvance s g k) := by
  unfold farAdvance
  dsimp only
  split
  · exact inv_modLane (inv_farPerform (s := { s with fresh := s.fresh + 1 }) h.of_eq ..) ..
  · exact h

end

@[simp] theorem inv_farFinish (g fuel : Nat) {s : State} (h : Inv s) : Inv (farFinish g fuel s) := by
  induction fuel generalizing s with
  | zero => exact h
  | succ fuel ih =>
    unfold farFinish
    split
    · exact ih (inv_farAdvance h ..)
    · exact h

section
variable {s : State} (h : Inv s)
include h

@[simp] theorem inv_farDigest (l : Loc) (a : Access) (p : Piece) (x : Hdr) (scalar data bad : Nat) : Inv (farDigest s l a p x scalar data bad) := by
  unfold farDigest
  dsimp only
  repeat' split
  any_goals exact h
  all_goals exact inv_foldl (fun _ _ h => inv_digWrite h ..) _ h

@[simp] theorem inv_farReply (g : Nat) (w : FarWait) (u : RxUnit) : Inv (farReply s g w u) := by
  unfold farReply
  dsimp only
  split
  · exact h
  · split
    · exact h
    · split
      · exact h
      · split
        · exact inv_putAccess (inv_modPort h ..) ..
        · split
          · exact inv_putAccess (inv_busy (inv_goOn (inv_farDigest (inv_meetBad h ..) ..) ..) _) ..
          · exact inv_putAccess (inv_busy (inv_goOn (inv_farDigest h ..) ..) _) ..

@[simp] theorem inv_failFar (l : Loc) (k : LinkBind) (page cause : Nat) : Inv (failFar s l k page cause) := by
  refine inv_foldl (fun s n h => ?_) _ h
  dsimp only
  repeat' split
  all_goals simp [h]

/-! ### The scheduler (R421 to R428) -/

@[simp] theorem inv_setEnt (p n k v : Nat) : Inv (setEnt s p n k v) := inv_vwriteD h ..

@[simp] theorem inv_putState (p n st : Nat) : Inv (putState s p n st) := by
  unfold putState
  split <;> simp [h]

@[simp] theorem inv_putNine (p n status cause : Nat) (placed : Option Nat) : Inv (putNine s p n status cause placed) := by
  unfold putNine
  dsimp only
  split <;> simp [h]

@[simp] theorem inv_journal (p n kind launch : Nat) : Inv (journal s p n kind launch) := inv_almTake (s := { s with fresh := s.fresh + 1 }) h.of_eq ..

@[simp] theorem inv_writeGauge (p gauge status launch : Nat) : Inv (writeGauge s p gauge status launch) := by
  have hd := inv_drainHost (inv_drainHost (inv_vwriteD h p (gauge + 8) 8 launch) 0) 1
  unfold writeGauge
  dsimp only
  repeat' split
  all_goals simp [h, hd]

@[simp] theorem inv_forget (p n : Nat) : Inv (forget s p n) := inv_modPart h ..

@[simp] theorem inv_endEnt (p n : Nat) (w : List Nat) (st : Nat) : Inv (endEnt s p n w st) := by
  have he := inv_setEnt (inv_putState h p n st) p n 11 s.ns
  unfold endEnt
  dsimp only
  refine inv_forget (inv_writeGauge ?_ ..) ..
  repeat' split
  all_goals simp [he]

@[simp] theorem inv_refuseEnt (p n : Nat) (w : List Nat) (status cause : Nat) : Inv (refuseEnt s p n w status cause) := inv_endEnt (inv_putNine h ..) ..

@[simp] theorem inv_unmark (p : Nat) (done : List Nat) : Inv (unmark s p done) := inv_modPart h ..

end

/-- A step of the scheduler that may find nothing to do keeps the invariant where it does something. -/
structure InvIf (o : Option State) : Prop where
  keeps : ∀ t, o = some t → Inv t

@[simp] theorem invIf_none : InvIf none := ⟨fun _ h => by cases h⟩
@[simp] theorem invIf_some (s : State) : InvIf (some s) ↔ Inv s := ⟨fun h => h.keeps s rfl, fun h => ⟨fun t ht => by cases ht; exact h⟩⟩

theorem inv_getD {s : State} {o : Option State} (ho : InvIf o) (h : Inv s) : Inv (o.getD s) := by
  cases o with
  | none => exact h
  | some t => exact ho.keeps t rfl

section
variable {s : State} (h : Inv s)
include h

@[simp] theorem inv_evictEnt (p : Nat) (v : Nat × List Nat) : InvIf (evictEnt s p v) := by
  unfold evictEnt
  dsimp only
  split
  · exact invIf_none
  · exact (invIf_some _).2 (inv_putNine (inv_modPart (inv_busy (inv_beginCut (inv_setRegion h ..) _) _) ..) ..)

@[simp] theorem inv_endPass (p n : Nat) (all : List (Nat × List Nat)) : InvIf (endPass s p n all) := by
  unfold endPass
  dsimp only
  split <;> simp [h]

end

@[simp] theorem inv_preempt (p n : Nat) (all : List (Nat × List Nat)) (fuel : Nat) {s : State} (vs : List (Nat × List Nat)) (h : Inv s) :
    InvIf (preempt p n all fuel s vs) := by
  induction fuel generalizing vs with
  | zero => exact invIf_none
  | succ fuel ih =>
    have hv : ∀ v rest, InvIf (match evictEnt s p v with | some t => some t | none => preempt p n all fuel s rest) := by
      intro v rest
      split
      · next he => exact (invIf_some _).2 ((inv_evictEnt h p v).keeps _ he)
      · exact ih rest
    unfold preempt
    dsimp only
    split
    · exact inv_endPass h ..
    · split
      · exact invIf_none
      · split
        · exact ih _
        · split
          · exact invIf_none
          · split
            · exact hv ..
            · split
              · exact (invIf_some _).2 (inv_putNine (inv_modPart (inv_busy (inv_setRegion h ..) _) ..) ..)
              · exact hv ..

section
variable {s : State} (h : Inv s)
include h

@[simp] theorem inv_loadEnt (p n : Nat) (w : List Nat) (place : Nat) : InvIf (loadEnt s p n w place) := by
  have hi := inv_iload h (entRgn p w) (word w 1) (place + entRh w)
  unfold loadEnt
  dsimp only
  repeat' split
  all_goals simp [h, hi]

@[simp] theorem inv_waitingEnt (p n : Nat) (w : List Nat) : InvIf (waitingEnt s p n w) := by
  unfold waitingEnt
  dsimp only
  repeat' split
  all_goals simp [h]

@[simp] theorem inv_abortEnt (p n : Nat) (w : List Nat) : InvIf (abortEnt s p n w) := by
  have ho := inv_armOff h (entRgn p w)
  have hc := inv_beginCut h (entRgn p w)
  unfold abortEnt
  dsimp only
  repeat' split
  all_goals simp [h, ho, hc]

@[simp] theorem inv_startedEnt (p n : Nat) (w : List Nat) : Inv (startedEnt s p n w) := inv_journal (inv_setEnt (inv_putState h ..) ..) ..

@[simp] theorem inv_loadingEnt (p n : Nat) (w : List Nat) : InvIf (loadingEnt s p n w) := by
  have hl := inv_launchRegion h (entRgn p w)
  unfold loadingEnt
  dsimp only
  repeat' split
  all_goals simp [h, hl]

@[simp] theorem inv_runningEnt (p n : Nat) (w : List Nat) : InvIf (runningEnt s p n w) := by
  have hm := fun f => inv_unmark (inv_modPart h p f) p [n]
  unfold runningEnt
  dsimp only
  repeat' split
  all_goals simp [h, hm]

@[simp] theorem inv_savedEnt (p n : Nat) (w : List Nat) : InvIf (savedEnt s p n w) := by
  unfold savedEnt
  dsimp only
  repeat' split
  all_goals simp [h]

theorem inv_pastEnt (p n : Nat) (w : List Nat) {go : Option State} (hgo : InvIf go) : InvIf (pastEnt s p n w go) := by
  unfold pastEnt
  repeat' split
  all_goals simp [h, hgo]

@[simp] theorem inv_actEnt (p n : Nat) (w : List Nat) : InvIf (actEnt s p n w) := by
  unfold actEnt
  dsimp only
  split
  · split
    · exact (invIf_some _).2 (inv_refuseEnt h ..)
    · exact (invIf_some _).2 (inv_getD (inv_waitingEnt (inv_putState h ..) ..) (inv_putState h ..))
  · exact inv_waitingEnt h ..
  · exact inv_pastEnt h _ _ _ (inv_loadingEnt h ..)
  · exact inv_pastEnt h _ _ _ (inv_loadingEnt h ..)
  · exact inv_pastEnt h _ _ _ (inv_runningEnt h ..)
  · exact inv_pastEnt h _ _ _ (inv_savedEnt h ..)
  · exact invIf_none

@[simp] theorem inv_actFirst (p fuel : Nat) (l : List (Nat × List Nat)) : Inv (actFirst s p fuel l) := by
  induction fuel generalizing l with
  | zero => exact h
  | succ fuel ih =>
    unfold actFirst
    split
    · exact h
    · split
      · next he => exact (inv_actEnt h _ _ _).keeps _ he
      · exact ih _

@[simp] theorem inv_logEnts (p : Nat) : Inv (logEnts s p) := by
  unfold logEnts
  split
  · exact h
  · exact inv_foldl (fun _ _ h => inv_logVread h ..) _ h

/-! ### The sequencer, stops and the Doldrums monitor (R265, R328, R329, R332) -/

@[simp] theorem inv_sequencerOrder (l : Loc) (n : Nat) : Inv (sequencerOrder s l n) := by
  have hm := fun f => inv_modRegion h (rgnOf l) f
  unfold sequencerOrder
  dsimp only
  repeat' split
  all_goals simp [h, hm]

@[simp] theorem inv_stopBroadcast (r : Rgn) : Inv (stopBroadcast s r) := by
  unfold stopBroadcast
  dsimp only
  split <;> simp [h]

@[simp] theorem inv_writeFronts (r : Rgn) : Inv (writeFronts s r) := by
  unfold writeFronts
  exact inv_modRegion (inv_foldl (fun _ _ h => inv_vwriteLong _ _ _ _ _ h) _ h) ..

@[simp] theorem inv_cutComplete (r : Rgn) : Inv (cutComplete s r) := by
  have hf := inv_writeFronts h r
  unfold cutComplete
  dsimp only
  repeat' split
  all_goals simp [h, hf]

@[simp] theorem inv_doldrumsFire (r : Rgn) : Inv (doldrumsFire s r) := by
  unfold doldrumsFire
  dsimp only
  repeat' split
  all_goals simp [h]

@[simp] theorem inv_useOutput (ph : Nat × Nat × Nat) (o : Nat) : Inv (useOutput s ph o) := h.of_eq

end
end Sys2Proof.Machine
end

section
/-! SUPPORT. What every instruction and event leaves keeps the invariant, for those whose meaning is more than one state function. -/

namespace Sys2Proof.Machine

-- One proof after another: side by side, this many short proofs wait for one another in more threads than the check's memory holds.
set_option Elab.async false

/-- The next state, where there is one, meets the invariant. -/
structure InvNext (o : Host.Outcome State Fault Refusal) : Prop where
  keeps : ∀ t, o = .next t → Inv t

@[simp] theorem invNext_next (s : State) : InvNext (.next s) ↔ Inv s := ⟨fun h => h.keeps s rfl, fun h => ⟨fun t ht => by cases ht; exact h⟩⟩
@[simp] theorem invNext_fault (f : Fault) : InvNext (.fault f) := ⟨fun _ ht => by cases ht⟩

theorem Inv.next {s : State} (h : Inv s) : InvNext (.next s) := (invNext_next s).2 h

section
variable {s : State} (h : Inv s)
include h

/-! The elements, their ports and the network (spec/05 to spec/10). -/

theorem inv_focus (f : Option Focus) : Inv { s with focus := f } := h.of_eq

theorem invNext_evEosSetFire : InvNext (execEvEosSetFire s) := by
  unfold execEvEosSetFire
  split
  · exact h.next
  · exact (inv_issue (inv_clearEos h ..) ..).next

theorem invNext_evTruncDiscard : InvNext (execEvTruncDiscard s) := by
  unfold execEvTruncDiscard
  split
  · exact h.next
  · exact (inv_busy (inv_focus (inv_modElem (inv_eatAll h ..) ..) _) _).next

theorem invNext_evPwaitForward (l : Loc) (n : Nat) : InvNext (execEvPwaitForward l n s) := by
  have hd := inv_drainHost (inv_drainHost h 0) 1
  unfold execEvPwaitForward
  dsimp only
  split
  · exact h.next
  · split
    · exact h.next
    · split
      · exact h.next
      · refine (inv_emitAccess ?_ ..).next
        split
        · exact inv_drawOrigin (by split <;> assumption) _
        · split <;> assumption

theorem invNext_evPageWalk (l : Loc) (n : Nat) : InvNext (execEvPageWalk l n s) := by
  unfold execEvPageWalk
  split
  · exact h.next
  · next a _ =>
    split
    · have hp := inv_putAccess (inv_advanceXl h l a 1) l n (advanceXl s l a 1).2
      dsimp only
      split
      · split
        · exact (inv_askFar hp ..).next
        · exact hp.next
      · exact hp.next
    · exact h.next

theorem invNext_evFiringCommit (l : Loc) : InvNext (execEvFiringCommit l s) := by
  unfold execEvFiringCommit
  split
  · exact (inv_commit h ..).next
  · exact h.next

theorem invNext_evTokenInject (l : Loc) (ch : Nat) : InvNext (execEvTokenInject l ch s) := by
  unfold execEvTokenInject
  split
  · exact (inv_sendEos h ..).next
  · exact (inv_injectToken h ..).next

theorem invNext_evWheelSlot (r : Rgn) (x y o : Nat) : InvNext (execEvWheelSlot r x y o s) := by
  unfold execEvWheelSlot
  dsimp only
  split
  · exact h.next
  · split
    · exact (inv_busy (inv_useOutput h ..) _).next
    · split
      · exact h.next
      · split
        · split
          · exact (inv_tapSee (inv_busy (inv_modChan (inv_useOutput h ..) ..) _) ..).next
          · exact (inv_busy (inv_modChan (inv_useOutput h ..) ..) _).next
        · exact (inv_busy (inv_modChan (inv_useOutput h ..) ..) _).next

theorem invNext_evAcknowledgement (r : Rgn) (ch n : Nat) : InvNext (execEvAcknowledgement r ch n s) := by
  unfold execEvAcknowledgement
  dsimp only
  split
  · exact h.next
  · split
    · exact h.next
    · split
      · exact h.next
      · split
        · split
          · exact (inv_passRx _ _ (inv_modChan h ..)).next
          · exact (inv_modChan h ..).next
        · split
          · exact (inv_modChan h ..).next
          · exact h.next

theorem invNext_evWindowMessage (r : Rgn) (n : Nat) : InvNext (execEvWindowMessage r n s) := by
  unfold execEvWindowMessage
  dsimp only
  split
  · exact h.next
  · split
    · exact h.next
    · exact (inv_applyMsg (inv_setRegion h ..) ..).next

theorem invNext_evWindowAdvance (r : Rgn) (n : Nat) : InvNext (execEvWindowAdvance r n s) := by
  unfold execEvWindowAdvance
  dsimp only
  split
  · exact h.next
  · split
    · exact h.next
    · exact (inv_modElem (inv_setRegion h ..) ..).next

theorem invNext_evFreeApply (r : Rgn) (n : Nat) : InvNext (execEvFreeApply r n s) := by
  unfold execEvFreeApply
  dsimp only
  split
  · exact h.next
  · split
    · exact h.next
    · rw [invNext_next]
      split
      · exact inv_foldl (fun _ _ h => inv_modRegion h ..) _ (inv_modElem (inv_setRegion h ..) ..)
      · exact inv_putRec (inv_foldl (fun _ _ h => inv_modRegion h ..) _ (inv_modElem (inv_setRegion h ..) ..)) ..

theorem invNext_evFreeComplete (r : Rgn) (b i : Nat) : InvNext (execEvFreeComplete r b i s) := by
  unfold execEvFreeComplete
  dsimp only
  split
  · exact (inv_modBody (inv_setRegion h ..) ..).next
  · exact h.next

theorem invNext_evFrontierPass (r : Rgn) : InvNext (execEvFrontierPass r s) := by
  unfold execEvFrontierPass
  dsimp only
  split
  · exact (inv_retireAll (inv_setRegion h ..) _).next
  · exact h.next

theorem invNext_evPourStart (r : Rgn) : InvNext (execEvPourStart r s) := by
  unfold execEvPourStart
  dsimp only
  split
  · split
    · exact (inv_startFirst h _).next
    · exact (inv_boundary h _).next
  · exact h.next

/-! The ends of loads, saves and restores (spec/19). -/

theorem invNext_evIloadComplete (r : Rgn) : InvNext (execEvIloadComplete r s) := by
  unfold execEvIloadComplete
  split
  · split
    · exact h.next
    · split
      · exact (inv_loadFailed h ..).next
      · exact (inv_loadPassed h ..).next
  · exact h.next

theorem invNext_evSaveComplete (r : Rgn) : InvNext (execEvSaveComplete r s) := by
  unfold execEvSaveComplete
  split
  · exact (inv_enterState (inv_clearRxq (inv_writeSave h ..) _) ..).next
  · exact h.next

theorem invNext_evRestoreComplete (r : Rgn) : InvNext (execEvRestoreComplete r s) := by
  unfold execEvRestoreComplete
  split
  · split
    · exact h.next
    · exact (inv_restoreComplete h ..).next
  · exact h.next

/-! The lane groups (spec/23). -/

theorem invNext_evNak (g : Nat) : InvNext (execEvNak g s) := by
  unfold execEvNak
  split
  · exact h.next
  · exact (inv_modLane h ..).next

theorem invNext_evLinkIdleFlit (g : Nat) : InvNext (execEvLinkIdleFlit g s) := by
  unfold execEvLinkIdleFlit
  dsimp only
  split
  · exact (inv_modLane h ..).next
  · exact h.next

theorem invNext_evBind (g : Nat) : InvNext (execEvBind g s) := by
  unfold execEvBind
  dsimp only
  split
  · split
    · exact h.next
    · split
      · exact (inv_modLane h ..).next
      · exact (inv_loseLane (inv_modLane h ..) _).next
  · exact h.next

theorem invNext_evUnbind (g : Nat) : InvNext (execEvUnbind g s) := by
  unfold execEvUnbind
  split
  · exact h.next
  · exact (inv_loseLane (inv_modLane h ..) _).next

theorem invNext_evLinkTraining (g major minor : Nat) : InvNext (execEvLinkTraining g major minor s) := (Inv.of_eq h).next

theorem invNext_evRemoteReply (g : Nat) : InvNext (execEvRemoteReply g s) := by
  unfold execEvRemoteReply
  dsimp only
  split
  · exact h.next
  · split
    · exact (inv_modLane h ..).next
    · split
      · exact (inv_farReply (inv_modLane h ..) ..).next
      · exact (inv_modLane h ..).next

theorem invNext_evRemoteTranslateRequest (g : Nat) : InvNext (execEvRemoteTranslateRequest g s) := by
  unfold execEvRemoteTranslateRequest
  dsimp only
  split
  · exact (inv_modLane h ..).next
  · exact h.next

theorem invNext_evRemoteTranslateReply (g : Nat) : InvNext (execEvRemoteTranslateReply g s) := by
  unfold execEvRemoteTranslateReply
  dsimp only
  split
  · split
    · exact (inv_modLane h ..).next
    · split
      · exact (inv_failFar (inv_modLane h ..) ..).next
      · exact (inv_modPort (inv_modLane h ..) ..).next
  · exact h.next

theorem invNext_evInv (g : Nat) : InvNext (execEvInv g s) := by
  unfold execEvInv
  dsimp only
  split
  · exact h.next
  · split
    · exact (inv_modRegion (inv_modLane h ..) ..).next
    · exact (inv_modLane h ..).next

theorem invNext_evInvackSend (g : Nat) : InvNext (execEvInvackSend g s) := by
  unfold execEvInvackSend
  dsimp only
  split
  · exact h.next
  · split
    · exact h.next
    · exact (inv_modLane h ..).next

theorem invNext_evInvackReceive (g : Nat) : InvNext (execEvInvackReceive g s) := by
  unfold execEvInvackReceive
  split
  · exact h.next
  · exact (inv_modLane h ..).next

theorem invNext_evRemoteInvalidateTimeout (g : Nat) : InvNext (execEvRemoteInvalidateTimeout g s) := by
  unfold execEvRemoteInvalidateTimeout
  dsimp only
  split
  · split
    · exact (inv_meetStopRgn h ..).next
    · exact h.next
  · exact h.next

theorem invNext_evEpochAdvance (g : Nat) : InvNext (execEvEpochAdvance g s) := by
  unfold execEvEpochAdvance
  dsimp only
  split
  · exact (inv_modLane (inv_farFinish _ _ h) ..).next
  · exact h.next

end
end Sys2Proof.Machine
end

section
/-! SUPPORT. What the host's accesses, the kettle instructions and the module's events leave keeps the invariant (spec/09, spec/12, spec/16,
spec/22, spec/24, spec/25). -/

namespace Sys2Proof.Machine

-- One proof after another: side by side, this many short proofs wait for one another in more threads than the check's memory holds.
set_option Elab.async false

section
variable {s : State} (h : Inv s)
include h

/-! The host's accesses (spec/16, spec/22). -/

theorem invNext_evHostApertureWrite (p off n data : Nat) : InvNext (execEvHostApertureWrite p off n data s) := by
  unfold execEvHostApertureWrite
  dsimp only
  split
  · exact (inv_modPart h ..).next
  · split
    · exact (inv_modPart (inv_logWalk h ..) ..).next
    · exact (inv_inboundTake (inv_logWalk h ..) ..).next

theorem invNext_evHostApertureRead (p off n : Nat) : InvNext (execEvHostApertureRead p off n s) := by
  unfold execEvHostApertureRead
  dsimp only
  split
  · exact (inv_reply h ..).next
  · split
    · split
      · exact (inv_reply h ..).next
      · exact (inv_reply h ..).next
    · split
      · exact (inv_reply (inv_modPart (inv_logWalk h ..) ..) ..).next
      · exact (inv_inboundTake (inv_logWalk h ..) ..).next

theorem invNext_evHostApertureAtomic (p off n op x y : Nat) : InvNext (execEvHostApertureAtomic p off n op x y s) := by
  unfold execEvHostApertureAtomic
  dsimp only
  split
  · exact (inv_reply h ..).next
  · split
    · exact (inv_reply (inv_modPart (inv_logWalk h ..) ..) ..).next
    · have hf := fun va => inv_inboundFlush (inv_logWalk h [] p va) p
      split
      · exact (inv_reply (inv_modPart (hf _) ..) ..).next
      · split
        · exact (inv_reply (inv_modPart (inv_hostBytes _ _ _ _ (hf _)) ..) ..).next
        · exact (inv_reply (inv_hostWrite _ _ _ _ _ (inv_hostBytes _ _ _ _ (hf _))) ..).next

theorem invNext_evMwApbaseWrite (p off n data : Nat) : InvNext (execEvMwApbaseWrite p off n data s) := by
  unfold execEvMwApbaseWrite
  split
  · exact (inv_modPart h ..).next
  · split
    · exact (inv_modPart h ..).next
    · exact h.next

theorem invNext_evRegisterWrite (p off n data : Nat) : InvNext (execEvRegisterWrite p off n data s) := by
  unfold execEvRegisterWrite
  split
  · exact h.next
  · exact (inv_modPart h ..).next

theorem invNext_evIngressWrite (p off n data rq : Nat) (ro : Bool) : InvNext (execEvIngressWrite p off n data rq ro s) := by
  unfold execEvIngressWrite
  dsimp only
  split
  · exact (inv_modPart h ..).next
  · split
    · exact h.next
    · split
      · exact (inv_putIngress h ..).next
      · split
        · exact (inv_putIngress (inv_logWalk h ..) ..).next
        · exact (inv_inboundTake (inv_logWalk h ..) ..).next

theorem invNext_evIngressRead (p off n rq : Nat) : InvNext (execEvIngressRead p off n rq s) := by
  unfold execEvIngressRead
  dsimp only
  split
  · exact (inv_reply h ..).next
  · split
    · exact (inv_reply h ..).next
    · split
      · exact (inv_reply (inv_logWalk h ..) ..).next
      · exact (inv_inboundTake (inv_logWalk h ..) ..).next

theorem invNext_evIngressDescriptorUpdate (p win : Nat) : InvNext (execEvIngressDescriptorUpdate p win s) := by
  unfold execEvIngressDescriptorUpdate
  split
  · exact h.next
  · split
    · exact h.next
    · exact (inv_putIngress (inv_logVread h ..) ..).next

theorem invNext_evInvalidationRequest (p : Nat) : InvNext (execEvInvalidationRequest p s) := by
  unfold execEvInvalidationRequest
  dsimp only
  split
  · exact h.next
  · have hl := inv_logVread h p 0 invalVa
    split
    · exact hl.next
    · split
      · exact (inv_endInval hl ..).next
      · split
        · exact (inv_endInval (inv_modPart hl ..) ..).next
        · exact (inv_dropRange (inv_modPart hl ..) ..).next

theorem invNext_evInvalidationComplete (p : Nat) : InvNext (execEvInvalidationComplete p s) := by
  unfold execEvInvalidationComplete
  dsimp only
  split
  · exact h.next
  · split
    · exact h.next
    · have hd := fun r => inv_dropCached (inv_drainHost (inv_drainHost h 0) 1) p r
      split
      · exact (inv_modPart (hd _) ..).next
      · exact (inv_endInval (inv_modPart (hd _) ..) ..).next

theorem invNext_evWeathervaneUpdate (p d : Nat) : InvNext (execEvWeathervaneUpdate p d s) := by
  unfold execEvWeathervaneUpdate
  split
  · exact h.next
  · split
    · exact h.next
    · exact (inv_modPart (inv_logVreadLong _ _ _ _ _ h) ..).next

theorem invNext_evTapCopy (p d : Nat) : InvNext (execEvTapCopy p d s) := by
  unfold execEvTapCopy
  dsimp only
  split
  · exact h.next
  · refine (inv_vwriteD (inv_vwriteD (inv_modPart ?_ ..) ..) ..).next
    split
    · exact h
    · exact inv_ringWrite _ _ _ _ _ _ h

/-! The kettle instructions (spec/09). -/

theorem invNext_kCsrr (d : KReg) (c : BitVec 12) : InvNext (execKCsrr d c s) := (inv_csrGuard h _ _ fun _ => inv_kret h ..).next
theorem invNext_kCsrw (a : KReg) (c : BitVec 12) : InvNext (execKCsrw a c s) := (inv_csrGuard h _ _ fun _ => inv_csrWrite h ..).next
theorem invNext_kCsrs (a : KReg) (c : BitVec 12) : InvNext (execKCsrs a c s) := (inv_csrGuard h _ _ fun _ => inv_csrWrite h ..).next
theorem invNext_kCsrc (a : KReg) (c : BitVec 12) : InvNext (execKCsrc a c s) := (inv_csrGuard h _ _ fun _ => inv_csrWrite h ..).next

theorem invNext_kTrap (i : BitVec 16) : InvNext (execKTrap i s) := (inv_setCore h (coreOk_enterTrap (coreOk_cur h) ..)).next

theorem invNext_kTret : InvNext (execKTret s) := by
  unfold execKTret
  dsimp only
  split
  · exact (inv_ktrap h _).next
  · exact (inv_setCore h (coreOk_leaveTrap (coreOk_cur h))).next

theorem invNext_evTimer : InvNext (execEvTimer s) := (inv_setCore h (coreOk_timer (coreOk_cur h) _)).next

theorem invNext_evAsyncTrap : InvNext (execEvAsyncTrap s) := by
  unfold execEvAsyncTrap
  dsimp only
  split
  · next v _ => exact (inv_setCore h (coreOk_enterTrap (coreOk_cur h) true ⟨v, 0, _⟩ (curCore s).pc).of_eq).next
  · exact h.next

theorem invNext_evKwaitWake : InvNext (execEvKwaitWake s) := by
  unfold execEvKwaitWake
  split
  · exact (inv_kwaitTry h ..).next
  · exact h.next

theorem invNext_evGwaitkWake : InvNext (execEvGwaitkWake s) := by
  unfold execEvGwaitkWake
  split
  · exact (inv_gwaitkTry h ..).next
  · exact h.next

theorem invNext_kGwaitk (d a b : KReg) : InvNext (execKGwaitk d a b s) := by
  unfold execKGwaitk
  dsimp only
  split
  · exact (inv_kret (inv_korder h _) ..).next
  · exact (inv_gwaitkTry (inv_korder h _) ..).next

theorem invNext_kJal (o : BitVec 26) : InvNext (execKJal o s) := (inv_kjump (inv_kret h ..) (ktarget_aligned h o)).next

theorem invNext_kJalr (d a : KReg) (i : BitVec 16) : InvNext (execKJalr d a i s) := by
  refine (inv_kjump (inv_kret h ..) ?_).next
  rw [BitVec.and_assoc, show BitVec.ofNat 64 (2 ^ 64 - 4) &&& 3 = 0 from rfl]
  exact BitVec.and_zero

theorem inv_setScrubu (v : Word64) : Inv (setCore s { curCore s with scrubu := v }) := inv_setCore h (coreOk_cur h).of_eq
theorem inv_softLines (l : List (Nat × Nat × Nat)) : Inv { s with softLines := l } := h.of_eq

theorem invNext_kKscrub (d a b : KReg) : InvNext (execKKscrub d a b s) := by
  unfold execKKscrub
  dsimp only
  split
  · exact (inv_ktrap h _).next
  · split
    · exact (inv_kret h ..).next
    · split
      · exact (inv_ktrap h _).next
      · have hs := fun n va => inv_scrubPages n va (inv_kdrain h)
        split
        · next he => exact (inv_ktrap (by simpa only [he] using hs ((kreg s b).toNat / 4096) (kreg s a).toNat) _).next
        · next t he =>
          have ht : Inv t := by simpa only [he] using hs ((kreg s b).toNat / 4096) (kreg s a).toNat
          refine (inv_kret (inv_setScrubu (inv_softLines ?_ _) _) ..).next
          exact inv_foldl (fun _ _ h => inv_errLog h ..) _ (inv_foldl (fun _ _ h => inv_errLog h ..) _ ht)

theorem invNext_kAlmw (d b : KReg) : InvNext (execKAlmw d b s) := by
  unfold execKAlmw
  dsimp only
  split
  · exact (inv_ktrap h _).next
  · split
    · exact (inv_ktrap h _).next
    · split
      · exact (inv_kret h ..).next
      · exact (inv_kret (inv_almTake (inv_korder h _) ..) ..).next

/-! The fabric instructions (spec/09). -/

theorem invNext_kIload (d a b : KReg) : InvNext (execKIload d a b s) := by
  refine (inv_fstatus ?_ ..).next
  split
  · exact inv_iload (inv_korder h _) ..
  · exact inv_korder h _

theorem invNext_kRrestore (d a b : KReg) : InvNext (execKRrestore d a b s) := by
  refine (inv_fstatus ?_ ..).next
  split
  · exact inv_rrestore (inv_korder h _) ..
  · exact inv_korder h _

theorem invNext_kArm (d a : KReg) : InvNext (execKArm d a s) := (inv_fabric h _ _ _ fun hu _ _ => inv_armRegion hu ..).next
theorem invNext_kArmOff (d a : KReg) : InvNext (execKArmOff d a s) := (inv_fabric h _ _ _ fun hu _ _ => inv_armOff hu _).next
theorem invNext_kRstop (d a : KReg) : InvNext (execKRstop d a s) := (inv_fabric h _ _ _ fun hu _ _ => inv_beginCut hu _).next
theorem invNext_kRdrain (d a b : KReg) : InvNext (execKRdrain d a b s) := (inv_fabric h _ _ _ fun hu _ _ => inv_drainRegion hu ..).next

theorem invNext_kPour (d a b : KReg) : InvNext (execKPour d a b s) := by
  refine (inv_fabric h _ _ _ fun hu _ _ => ?_).next
  split
  · exact hu
  · exact inv_setRegion hu ..

theorem invNext_kLaunch (d a b : KReg) : InvNext (execKLaunch d a b s) := by
  refine (inv_fabric h _ _ _ fun hu _ _ => ?_).next
  split
  · exact hu
  · exact inv_launchRegion hu ..

theorem invNext_kInj (d a b : KReg) : InvNext (execKInj d a b s) := by
  unfold execKInj
  dsimp only
  split
  · exact (inv_ktrap h _).next
  · split
    · exact (inv_ktrap h _).next
    · exact (inv_fabric h _ _ _ fun hu _ _ => inv_inject hu ..).next

theorem invNext_kArgw (d a b : KReg) : InvNext (execKArgw d a b s) := by
  refine (inv_fabric h _ _ _ fun hu _ _ => ?_).next
  split
  · exact hu
  · exact inv_argWrite hu ..

theorem invNext_kRresume (d a b : KReg) : InvNext (execKRresume d a b s) := by
  refine (inv_fabric h _ _ _ fun hu _ _ => ?_).next
  split
  · exact hu
  · exact inv_meetLost (inv_meetCtrl (inv_enterState hu ..) _) _

theorem invNext_kRsave (d a b : KReg) : InvNext (execKRsave d a b s) := by
  refine (inv_fabric h _ _ _ fun hu _ _ => ?_).next
  split
  · exact hu
  · exact inv_setRegion hu ..

theorem invNext_kEvict (d a b : KReg) : InvNext (execKEvict d a b s) := by
  refine (inv_fabric h _ _ _ fun hu _ _ => ?_).next
  split
  · exact hu
  · exact inv_beginCut (inv_setRegion hu ..) _

theorem invNext_kShrink (d a b : KReg) : InvNext (execKShrink d a b s) := by
  refine (inv_fabric h _ _ _ fun hu _ _ => ?_).next
  split
  · exact hu
  · exact inv_setRegion hu ..

theorem invNext_kFltq (d a b : KReg) : InvNext (execKFltq d a b s) := by
  unfold execKFltq
  dsimp only
  split
  · exact (inv_ktrap h _).next
  · split
    · exact (inv_ktrap h _).next
    · have ho := inv_korder h false
      split
      · exact (inv_fstatus ho ..).next
      · split
        · exact (inv_fstatus (inv_busy ho _) ..).next
        · exact (inv_fstatus (inv_lstore (inv_setRegion ho ..) ..) ..).next

/-! The scheduler's events (spec/18). -/

theorem invNext_evDispatchEntryNotice (p e : Nat) : InvNext (execEvDispatchEntryNotice p e s) := by
  unfold execEvDispatchEntryNotice
  split
  · exact (inv_modPart h ..).next
  · exact h.next

theorem invNext_evSchedulerStep (p : Nat) : InvNext (execEvSchedulerStep p s) := by
  unfold execEvSchedulerStep
  split
  · exact h.next
  · exact (inv_actFirst (inv_logEnts h _) ..).next

theorem invNext_evGraceExpire (p e : Nat) : InvNext (execEvGraceExpire p e s) := by
  unfold execEvGraceExpire
  dsimp only
  split
  · split
    · exact h.next
    · split
      · exact (inv_unmark h ..).next
      · exact (inv_getD (inv_evictEnt (inv_modPart h ..) ..) (inv_modPart h ..)).next
  · exact h.next

theorem invNext_evEntryDone (p e : Nat) : InvNext (execEvEntryDone p e s) := by
  unfold execEvEntryDone
  dsimp only
  split
  · exact h.next
  · split
    · exact h.next
    · split
      · exact (inv_getD (inv_abortEnt h ..) h).next
      · split
        · exact (inv_endEnt h ..).next
        · exact (inv_putNine (inv_armOff (inv_endEnt h ..) _) ..).next

theorem invNext_evAlmanacHeadAdvance (p : Nat) : InvNext (execEvAlmanacHeadAdvance p s) := by
  unfold execEvAlmanacHeadAdvance
  split
  · split
    · exact (inv_modPart h ..).next
    · exact h.next
  · exact h.next

/-! Power, boot and the module's own events (spec/24, spec/25). -/

theorem invNext_evPowerUp : InvNext (execEvPowerUp s) := by
  unfold execEvPowerUp
  split
  · exact h.next
  · exact (inv_boot h rfl fun _ _ => rfl).next

theorem invNext_evModuleReset : InvNext (execEvModuleReset s) := by
  unfold execEvModuleReset
  split
  · refine (inv_boot h h.hbm fun k hk => ?_).next
    have hc : s.cores[k]? = some (s.cores[(⟨k, hk⟩ : Fin 32)]) := Vector.getElem?_eq_getElem hk
    rw [hc]
    exact (h.cores ⟨k, hk⟩).lmem
  · exact h.next

theorem invNext_evPowerOff : InvNext (execEvPowerOff s) :=
  ((inv_coresMap (inv_bareModule h rfl) (f := fun c => { c with started := false }) fun _ hc => hc.of_eq).of_eq).next

theorem invNext_evPartitionReset (p : Nat) : InvNext (execEvPartitionReset p s) := by
  unfold execEvPartitionReset
  split
  · exact (inv_restartPart h _).next
  · exact (inv_resetPart h _).next

theorem invNext_evAttestationRequest (p : Nat) : InvNext (execEvAttestationRequest p s) := by
  unfold execEvAttestationRequest
  split
  · exact h.next
  · have hl := inv_logVread h p 0 0x158000
    dsimp only
    split
    · exact hl.next
    · split
      · exact (inv_vwriteD (inv_vwriteLong _ _ _ _ _ hl) ..).next
      · exact (inv_vwriteD (inv_vwriteLong _ _ _ _ _ hl.of_eq) ..).next

theorem invNext_evSupplyDroop (d x : Nat) : InvNext (execEvSupplyDroop d x s) := (inv_stretch h d (Nat.min_le_left ..)).of_eq.next

theorem invNext_evSquallRelease (d : Nat) : InvNext (execEvSquallRelease d s) := by
  unfold execEvSquallRelease
  split
  · exact (inv_stretch h d (Nat.zero_le _)).next
  · exact h.next

theorem invNext_evDiePowerLimit (d x : Nat) : InvNext (execEvDiePowerLimit d x s) := (Inv.of_eq h).next

theorem invNext_evIsobarRecompute (st x : Nat) : InvNext (execEvIsobarRecompute st x s) := by
  unfold execEvIsobarRecompute
  split
  · exact h.next
  · dsimp only
    split
    · exact (Inv.of_eq (inv_isobar h st (f := fun q => (min 65535 (max 256 x), q.2)) fun _ _ => by omega)).next
    · exact (Inv.of_eq h).next

theorem invNext_evIsobarRelease (st : Nat) : InvNext (execEvIsobarRelease st s) := by
  unfold execEvIsobarRelease
  split
  · exact (inv_activated (Inv.of_eq h) _).next
  · exact h.next

theorem invNext_evRefresh (st b : Nat) : InvNext (execEvRefresh st b s) := (Inv.of_eq h).next

end
end Sys2Proof.Machine
end

section
/-! SUPPORT. One step keeps the invariant: every instruction and event, the turn that begins, the publication of the read-only blocks and the
choice of who moves. -/

namespace Sys2Proof.Machine

-- One proof after another: side by side, this many short proofs wait for one another in more threads than the check's memory holds.
set_option Elab.async false

section
variable {s : State} (h : Inv s)
include h

/-- What any instruction or event leaves meets the invariant. -/
theorem invNext_exec (i : Instr) : InvNext (exec i s) := by
  cases i with
  | opSteer | opMerge | opCmerge | opCtxnew | opRetag | opNextit | opItdone | opCtxend | opEos | opCnt | opConst | opSink | opPnop | opTagof | opNop
  | opAdd | opSub | opMul | opMad | opMin | opMax | opAbs | opNeg | opCmp | opSel | opClamp | opDiv | opLdexp | opFrexp | opDot | opAnd | opOr
  | opXor | opNot | opShl | opShr | opSra | opPopc | opClz | opCvt | opExpand | opPack | opUnpack | opShuf | opBcast | opIota | opRand | opRsum
  | opRmax | opRmin | opRsumM | opAccz | opAccrel | opExp | opExp2 | opLog | opLog2 | opLog1p | opExpm1 | opSin | opCos | opSinpi | opCospi | opTanh
  | opLogistic | opErf | opGelu | opRsqrt | opSqrt | opRcp | opLd | opLdRec | opLdg | opAgen | opSbar | opCopy | opAadd | opAmin | opAmax | opAand
  | opAor | opAxor | opAswp | opAcas | opAincB | opGset | opGadd | opGwait | opPsig | opPwait | opFilt | opCmpct =>
    exact (inv_fireGo h ..).next
  | opSwitch | opSort2 | opTrap | opBrk | opMma | opMmaMx | opMmaTb | opAccadd | opTadd | opTsub | opTmul | opTmax | opTmin | opTtr | opTcvt
  | opLdLoc | opSt | opStLoc | opStg | opRed | opRedM =>
    exact (inv_fire h ..).next
  | evTokenArrival => exact (inv_tokenArrival h ..).next
  | evHeadArrival => exact (inv_headArrival h ..).next
  | evEosArrival => exact (inv_eosArrival h ..).next
  | evSpillFetchDone => exact (inv_spillFetch h ..).next
  | evPortAccessPerform => exact (inv_portPerform h ..).next
  | evCompletionToken => exact (inv_completeAccess h ..).next
  | evOwnerRmw => exact (inv_ownerRmw h ..).next
  | evCopyPiecePerformed => exact (inv_copyPiece h ..).next
  | evSequencerOrder => exact (inv_sequencerOrder h ..).next
  | evStopBroadcast => exact (inv_stopBroadcast h ..).next
  | evCutComplete => exact (inv_cutComplete h ..).next
  | evDoldrumsFire => exact (inv_doldrumsFire h ..).next
  | evPourEnd => exact (inv_pourEnd h ..).next
  | evFlitReceive => exact (inv_flitReceive h ..).next
  | evLaneGroupLost => exact (inv_loseLane h ..).next
  | evRemoteRequest => exact (inv_farAdvance h ..).next
  | evUndefinedEncoding => exact (inv_ktrap h _).next
  | kAdd | kSub | kAnd | kOr | kXor | kShl | kShr | kSra | kSlt | kSltu | kMul | kMulh | kMulhu | kDiv | kDivu | kRem | kRemu =>
    exact (inv_kbin h ..).next
  | kAddi | kAndi | kOri | kXori | kShli | kShri | kSrai | kSlti => exact (inv_kimm h ..).next
  | kLui => exact (inv_kret h ..).next
  | kLd | kLw | kLwu | kLbu | kLdAcq | kLwAcq => exact (inv_kloadTo h ..).next
  | kSd | kSw | kSb => exact (inv_kstoreFrom h ..).next
  | kSdRel | kSwRel => exact (inv_krelease h ..).next
  | kAmoAdd | kAmoSwp | kAmoCas | kAmoAnd | kAmoOr | kAmoMin | kAmoMax => exact (inv_kamo h ..).next
  | kBeq | kBne | kBlt | kBge | kBltu | kBgeu => exact (inv_kbranch h ..).next
  | kJ => exact (inv_kjump h (ktarget_aligned h _)).next
  | kKwait => exact (inv_kwaitTry h ..).next
  | evFlitSend => exact (inv_flitSend h ..).next
  | kFence => exact (inv_kadvance (inv_korder h _)).next
  | evKsEventWrite => exact (inv_kadvance (inv_eventWrite h _)).next
  | evKsRevtWrite => exact (inv_kadvance (inv_revtWrite h _)).next
  | evKsStatusWrite => exact (inv_statusWrite h _).next
  | evKsMonaWrite => exact (inv_monaWrite h _).next
  | evEosSetFire => exact invNext_evEosSetFire h
  | evTruncDiscard => exact invNext_evTruncDiscard h
  | evPwaitForward => exact invNext_evPwaitForward h ..
  | evFiringCommit => exact invNext_evFiringCommit h ..
  | evTokenInject => exact invNext_evTokenInject h ..
  | evWheelSlot => exact invNext_evWheelSlot h ..
  | evAcknowledgement => exact invNext_evAcknowledgement h ..
  | evWindowMessage => exact invNext_evWindowMessage h ..
  | evWindowAdvance => exact invNext_evWindowAdvance h ..
  | evFreeApply => exact invNext_evFreeApply h ..
  | evFreeComplete => exact invNext_evFreeComplete h ..
  | evPageWalk => exact invNext_evPageWalk h ..
  | evFrontierPass => exact invNext_evFrontierPass h ..
  | evPourStart => exact invNext_evPourStart h ..
  | evIloadComplete => exact invNext_evIloadComplete h ..
  | evSaveComplete => exact invNext_evSaveComplete h ..
  | evRestoreComplete => exact invNext_evRestoreComplete h ..
  | evNak => exact invNext_evNak h ..
  | evLinkIdleFlit => exact invNext_evLinkIdleFlit h ..
  | evBind => exact invNext_evBind h ..
  | evLinkTraining => exact invNext_evLinkTraining h ..
  | evRemoteReply => exact invNext_evRemoteReply h ..
  | evRemoteTranslateRequest => exact invNext_evRemoteTranslateRequest h ..
  | evRemoteTranslateReply => exact invNext_evRemoteTranslateReply h ..
  | evInv => exact invNext_evInv h ..
  | evInvackSend => exact invNext_evInvackSend h ..
  | evInvackReceive => exact invNext_evInvackReceive h ..
  | evRemoteInvalidateTimeout => exact invNext_evRemoteInvalidateTimeout h ..
  | evEpochAdvance => exact invNext_evEpochAdvance h ..
  | kJal => exact invNext_kJal h ..
  | kJalr => exact invNext_kJalr h ..
  | kKscrub => exact invNext_kKscrub h ..
  | kCsrr => exact invNext_kCsrr h ..
  | kCsrw => exact invNext_kCsrw h ..
  | kCsrs => exact invNext_kCsrs h ..
  | kCsrc => exact invNext_kCsrc h ..
  | kTrap => exact invNext_kTrap h ..
  | kTret => exact invNext_kTret h
  | evKwaitWake => exact invNext_evKwaitWake h
  | kIload => exact invNext_kIload h ..
  | kArm => exact invNext_kArm h ..
  | kArmOff => exact invNext_kArmOff h ..
  | kPour => exact invNext_kPour h ..
  | kLaunch => exact invNext_kLaunch h ..
  | kInj => exact invNext_kInj h ..
  | kArgw => exact invNext_kArgw h ..
  | kRstop => exact invNext_kRstop h ..
  | kRresume => exact invNext_kRresume h ..
  | kRdrain => exact invNext_kRdrain h ..
  | kRsave => exact invNext_kRsave h ..
  | kRrestore => exact invNext_kRrestore h ..
  | kShrink => exact invNext_kShrink h ..
  | kEvict => exact invNext_kEvict h ..
  | kFltq => exact invNext_kFltq h ..
  | kAlmw => exact invNext_kAlmw h ..
  | evAlmanacHeadAdvance => exact invNext_evAlmanacHeadAdvance h ..
  | kGwaitk => exact invNext_kGwaitk h ..
  | evGwaitkWake => exact invNext_evGwaitkWake h
  | evTimer => exact invNext_evTimer h
  | evAsyncTrap => exact invNext_evAsyncTrap h
  | evDispatchEntryNotice => exact invNext_evDispatchEntryNotice h ..
  | evSchedulerStep => exact invNext_evSchedulerStep h ..
  | evGraceExpire => exact invNext_evGraceExpire h ..
  | evEntryDone => exact invNext_evEntryDone h ..
  | evInvalidationRequest => exact invNext_evInvalidationRequest h ..
  | evInvalidationComplete => exact invNext_evInvalidationComplete h ..
  | evHostApertureWrite => exact invNext_evHostApertureWrite h ..
  | evHostApertureRead => exact invNext_evHostApertureRead h ..
  | evHostApertureAtomic => exact invNext_evHostApertureAtomic h ..
  | evMwApbaseWrite => exact invNext_evMwApbaseWrite h ..
  | evRegisterWrite p off n data => exact invNext_evRegisterWrite h p off n data
  | evIngressWrite => exact invNext_evIngressWrite h ..
  | evIngressRead => exact invNext_evIngressRead h ..
  | evIngressDescriptorUpdate => exact invNext_evIngressDescriptorUpdate h ..
  | evWeathervaneUpdate => exact invNext_evWeathervaneUpdate h ..
  | evTapCopy => exact invNext_evTapCopy h ..
  | evPartitionReset => exact invNext_evPartitionReset h ..
  | evAttestationRequest => exact invNext_evAttestationRequest h ..
  | evPowerUp => exact invNext_evPowerUp h
  | evModuleReset => exact invNext_evModuleReset h
  | evPowerOff => exact invNext_evPowerOff h
  | evSupplyDroop => exact invNext_evSupplyDroop h ..
  | evSquallRelease => exact invNext_evSquallRelease h ..
  | evDiePowerLimit => exact invNext_evDiePowerLimit h ..
  | evIsobarRecompute => exact invNext_evIsobarRecompute h ..
  | evIsobarRelease => exact invNext_evIsobarRelease h ..
  | evRefresh => exact invNext_evRefresh h ..
  | evUnbind => exact invNext_evUnbind h ..

theorem invNext_runWord (w : Word32) : InvNext (runWord w s) := by
  unfold runWord
  split
  · exact invNext_exec h _
  · exact invNext_exec h _

theorem invNext_runCore : InvNext (runCore s) := by
  have ht := inv_setCore h (coreOk_timer (coreOk_cur h) s.ns)
  unfold runCore
  split
  · exact h.next
  · dsimp only
    split
    · exact invNext_exec ht _
    · split
      · exact invNext_exec ht _
      · exact invNext_exec ht _
      · have hf := inv_kfetch ht
        split
        · next hk => exact (inv_ktrap (by simpa only [hk] using hf) _).next
        · next hk => exact invNext_runWord (by simpa only [hk] using hf) _

theorem invNext_runElem (l : Loc) : InvNext (runElem s l) := by
  have hf := fun f => inv_focus h (some f)
  unfold runElem
  split
  · exact h.next
  · dsimp only
    split
    · exact invNext_exec (hf _) _
    · exact invNext_exec (hf _) _
    · split
      · exact invNext_exec (hf _) _
      · exact (hf _).next

theorem inv_cur (c : BitVec 5) : Inv { s with cur := c } := h.of_eq

theorem invNext_runAct (a : Act) : InvNext (runAct s a) := by
  cases a with
  | core c => exact invNext_runCore (inv_cur h c)
  | fire l => exact invNext_runElem h l
  | ev i => exact invNext_exec h i

theorem inv_settleBuffers : Inv (settleBuffers s) := h.of_eq

theorem inv_beginTurn (t : Turn) (rest : List Turn) : Inv (beginTurn s t rest) := by
  refine inv_foldl (fun _ a hu => inv_applyEnv hu a) _ ?_
  split
  · exact h.of_eq
  · exact inv_settleBuffers h.of_eq

theorem invNext_step : InvNext (step s) := by
  unfold step
  split
  · split
    · exact invNext_runCore (inv_publish h)
    · exact invNext_fault _
  · split
    · exact invNext_runAct (inv_publish (inv_beginTurn h ..)) _
    · split
      · exact invNext_exec (Inv.of_eq h) _
      · exact invNext_fault _

end
end Sys2Proof.Machine

open Sys2Proof Sys2Proof.Machine

/-- Settles O60: the step's instruction or event, begun from a state that the turn and the publication leave well-formed, keeps the invariant by
`invNext_exec`, whose cases are the lemmas `inv_f` over the model's state functions. -/
theorem stepKeepsInvariant : Obligations.StepKeepsInvariant := fun _ t h ht => (invNext_step h).keeps t ht
end

section
/-! SUPPORT. Byte ranges of values put together from fields and chunks (Table 19.3). -/

namespace Sys2Proof.Machine

theorem byteRange_eq (x off n : Nat) : byteRange x off n = x / 2 ^ (8 * off) % 2 ^ (8 * n) := by rw [byteRange, Nat.shiftRight_eq_div_pow]

/-- A part of a byte range. -/
theorem byteRange_byteRange {j m n : Nat} (h : j + m ≤ n) (x o : Nat) : byteRange (byteRange x o n) j m = byteRange x (o + j) m := by
  simp only [byteRange_eq]
  rw [show 8 * n = 8 * j + 8 * (n - j) by omega, Nat.pow_add 2 (8 * j), Nat.mod_mul_right_div_self, Nat.mod_mod_of_dvd _ (pow_dvd_pow 2 (by omega)),
    Nat.div_div_eq_div_mul, ← Nat.pow_add, Nat.mul_add]

theorem byteRange_zero_off (x n : Nat) : byteRange x 0 n = x % 2 ^ (8 * n) := by rw [byteRange_eq, Nat.mul_zero, pow_zero, Nat.div_one]

theorem byteRange_mod {j m n : Nat} (h : j + m ≤ n) (x : Nat) : byteRange (x % 2 ^ (8 * n)) j m = byteRange x j m := by
  rw [← byteRange_zero_off, byteRange_byteRange h, Nat.zero_add]

/-- A byte range that ends below byte b does not see what lies from byte b on. -/
theorem byteRange_add_high {o m b : Nat} (h : o + m ≤ b) (a u : Nat) : byteRange (a + 2 ^ (8 * b) * u) o m = byteRange a o m := by
  rw [← byteRange_mod h, Nat.add_mul_mod_self_left, byteRange_mod h]

/-- A byte range from byte b on does not see what lies below. -/
theorem byteRange_add_low {a o b : Nat} (ha : a < 2 ^ (8 * b)) (h : b ≤ o) (u m : Nat) :
    byteRange (a + 2 ^ (8 * b) * u) o m = byteRange (2 ^ (8 * b) * u) o m := by
  obtain ⟨d, rfl⟩ := Nat.exists_eq_add_of_le h
  simp only [byteRange_eq]
  rw [Nat.mul_add 8 b d, Nat.pow_add, ← Nat.div_div_eq_div_mul, ← Nat.div_div_eq_div_mul, Nat.add_mul_div_left _ _ (Nat.two_pow_pos _),
    Nat.div_eq_of_lt ha, Nat.zero_add, Nat.mul_div_cancel_left _ (Nat.two_pow_pos _)]

/-- A byte range from byte b on is that of what lies there. -/
theorem byteRange_above {a b : Nat} (ha : a < 2 ^ (8 * b)) (u j m : Nat) : byteRange (a + 2 ^ (8 * b) * u) (b + j) m = byteRange u j m := by
  rw [byteRange_add_low ha (Nat.le_add_right ..), byteRange_eq, byteRange_eq, Nat.mul_add 8 b j, Nat.pow_add, ← Nat.div_div_eq_div_mul,
    Nat.mul_div_cancel_left _ (Nat.two_pow_pos _)]

/-- A part of a field: the same part of its value. -/
theorem byteRange_part {x v o n j m : Nat} (hv : byteRange x o n = v % 2 ^ (8 * n)) (h : j + m ≤ n) : byteRange x (o + j) m = byteRange v j m := by
  rw [← byteRange_byteRange h, hv, byteRange_mod h]

/-! ### Chunks -/

theorem lane_packLanes_nth (w : Nat) (l : List Nat) (k : Nat) : lane w (packLanes w l) k = nth l k 0 % 2 ^ w := by
  unfold nth
  by_cases h : k < l.length
  · rw [lane_packLanes w l k h, List.getD_eq_getElem _ _ h]
  · rw [lane_packLanes_beyond (by omega), List.getD_eq_default _ _ (by omega), Nat.zero_mod]

theorem byteRange_byteChunks (n : Nat) (l : List Nat) (k : Nat) : byteRange (byteChunks n l) (n * k) n = nth l k 0 % 2 ^ (8 * n) := by
  rw [Nat.mul_comm, byteRange_lane, byteChunks, lane_packLanes_nth]

theorem byteChunks_lt (n : Nat) (l : List Nat) : byteChunks n l < 2 ^ (8 * (n * l.length)) := by
  rw [← Nat.mul_assoc]
  exact packLanes_lt (8 * n) l

/-- A chunk of a field that holds chunks of n bytes. -/
theorem byteRange_chunk {x o n m k : Nat} {l : List Nat} (hv : byteRange x o m = byteChunks n l % 2 ^ (8 * m)) (h : n * k + n ≤ m) :
    byteRange x (o + n * k) n = nth l k 0 % 2 ^ (8 * n) := by
  rw [byteRange_part hv h, byteRange_byteChunks]

theorem nth_map_of_getElem? {α : Type} {f : α → Nat} {l : List α} {k : Nat} {x : α} (h : l[k]? = some x) : nth (l.map f) k 0 = f x :=
  nth_of_getElem? (by rw [List.getElem?_map, h]; rfl) 0

theorem nth_map_range {α : Type} (f : Nat → α) {n k : Nat} (h : k < n) (d : α) : nth ((List.range n).map f) k d = f k :=
  nth_of_getElem? (by rw [List.getElem?_map, List.getElem?_range h]; rfl) d

/-! ### Fields in ascending order -/

/-- Fields of offset, bytes and value, put together. -/
def packFields (l : List (Nat × Nat × Nat)) : Nat := l.foldr (fun q v => fld q.1 q.2.1 q.2.2 + v) 0

theorem packFields_nil : packFields [] = 0 := rfl

theorem packFields_cons (off n v : Nat) (l : List (Nat × Nat × Nat)) : packFields ((off, n, v) :: l) = fld off n v + packFields l := by
  rw [packFields, List.foldr_cons, packFields]

theorem packFields_append (l m : List (Nat × Nat × Nat)) : packFields (l ++ m) = packFields l + packFields m := by
  induction l with
  | nil => rw [List.nil_append, packFields_nil, Nat.zero_add]
  | cons q l ih => rw [List.cons_append, packFields_cons, packFields_cons, ih, Nat.add_assoc]

/-- Fields that follow one another from an offset on, up to another. -/
def fieldsOk : Nat → Nat → List (Nat × Nat × Nat) → Bool
  | lo, hi, [] => lo ≤ hi
  | lo, hi, q :: l => lo ≤ q.1 && fieldsOk (q.1 + q.2.1) hi l

theorem fieldsOk_nil (lo hi : Nat) : fieldsOk lo hi [] = decide (lo ≤ hi) := rfl

theorem fieldsOk_cons_eq (lo hi off n v : Nat) (l : List (Nat × Nat × Nat)) :
    fieldsOk lo hi ((off, n, v) :: l) = (decide (lo ≤ off) && fieldsOk (off + n) hi l) := by rw [fieldsOk]

theorem fieldsOk_cons {lo hi : Nat} {q : Nat × Nat × Nat} {l : List (Nat × Nat × Nat)} :
    fieldsOk lo hi (q :: l) = true ↔ lo ≤ q.1 ∧ fieldsOk (q.1 + q.2.1) hi l = true := by
  rw [fieldsOk, Bool.and_eq_true, decide_eq_true_iff]

theorem fieldsOk_le {lo hi : Nat} {l : List (Nat × Nat × Nat)} (h : fieldsOk lo hi l = true) : lo ≤ hi := by
  induction l generalizing lo with
  | nil => exact of_decide_eq_true h
  | cons q l ih =>
    obtain ⟨hle, hl⟩ := fieldsOk_cons.1 h
    have := ih hl
    omega

/-- Fields from an offset on are a multiple of its power, below the power of their end. -/
theorem packFields_bounds {lo hi : Nat} {l : List (Nat × Nat × Nat)} (h : fieldsOk lo hi l = true) :
    ∃ u, packFields l = 2 ^ (8 * lo) * u ∧ u < 2 ^ (8 * (hi - lo)) := by
  induction l generalizing lo with
  | nil => exact ⟨0, rfl, Nat.two_pow_pos _⟩
  | cons q l ih =>
    obtain ⟨off, n, v⟩ := q
    obtain ⟨hle, hl⟩ := fieldsOk_cons.1 h
    obtain ⟨u, hu, hlt⟩ := ih hl
    have hend := fieldsOk_le hl
    dsimp only at hle hl hu hlt hend
    have hv : v % 2 ^ (8 * n) < 2 ^ (8 * n) := Nat.mod_lt _ (Nat.two_pow_pos _)
    refine ⟨2 ^ (8 * (off - lo)) * (v % 2 ^ (8 * n) + 2 ^ (8 * n) * u), ?_, ?_⟩
    · rw [packFields_cons, hu, fld, ← Nat.mul_assoc, ← Nat.pow_add,
        show 8 * lo + 8 * (off - lo) = 8 * off by omega, Nat.mul_add 8 off n, Nat.pow_add]
      ring
    · have hsum : v % 2 ^ (8 * n) + 2 ^ (8 * n) * u < 2 ^ (8 * n) * 2 ^ (8 * (hi - (off + n))) := by
        have := Nat.mul_le_mul_left (2 ^ (8 * n)) (show u + 1 ≤ 2 ^ (8 * (hi - (off + n))) from hlt)
        rw [Nat.mul_succ] at this
        omega
      calc 2 ^ (8 * (off - lo)) * (v % 2 ^ (8 * n) + 2 ^ (8 * n) * u)
          < 2 ^ (8 * (off - lo)) * (2 ^ (8 * n) * 2 ^ (8 * (hi - (off + n)))) := Nat.mul_lt_mul_of_pos_left hsum (Nat.two_pow_pos _)
        _ = 2 ^ (8 * (hi - lo)) := by rw [← Nat.pow_add, ← Nat.pow_add]; congr 1; omega

theorem packFields_lt {hi : Nat} {l : List (Nat × Nat × Nat)} (h : fieldsOk 0 hi l = true) : packFields l < 2 ^ (8 * hi) := by
  obtain ⟨u, hu, hlt⟩ := packFields_bounds h
  rwa [hu, Nat.mul_zero, pow_zero, Nat.one_mul]

theorem fld_lt (off n v : Nat) : fld off n v < 2 ^ (8 * (off + n)) := by
  rw [fld, Nat.mul_add 8 off n, Nat.pow_add, Nat.mul_comm (2 ^ (8 * off))]
  exact Nat.mul_lt_mul_of_pos_right (Nat.mod_lt _ (Nat.two_pow_pos _)) (Nat.two_pow_pos _)

/-- A field stands at or above the offset from which its list is in order. -/
theorem fieldsOk_mem {lo hi : Nat} {l : List (Nat × Nat × Nat)} (h : fieldsOk lo hi l = true) {q : Nat × Nat × Nat} (hq : q ∈ l) : lo ≤ q.1 := by
  induction l generalizing lo with
  | nil => exact absurd hq List.not_mem_nil
  | cons p l ih =>
    obtain ⟨hle, hl⟩ := fieldsOk_cons.1 h
    rcases List.mem_cons.1 hq with rfl | hq
    · exact hle
    · exact hle.trans ((Nat.le_add_right ..).trans (ih hl hq))

/-- Each field reads back as its value. -/
theorem byteRange_packFields {lo hi : Nat} {l : List (Nat × Nat × Nat)} (h : fieldsOk lo hi l = true) :
    ∀ q ∈ l, byteRange (packFields l) q.1 q.2.1 = q.2.2 % 2 ^ (8 * q.2.1) := by
  induction l generalizing lo with
  | nil => exact fun _ hq => absurd hq List.not_mem_nil
  | cons p l ih =>
    obtain ⟨off, n, v⟩ := p
    obtain ⟨hle, hl⟩ := fieldsOk_cons.1 h
    obtain ⟨u, hu, hlt⟩ := packFields_bounds hl
    intro q hq
    rcases List.mem_cons.1 hq with rfl | hq
    · dsimp only at hu ⊢
      rw [packFields_cons, hu, byteRange_add_high (Nat.le_refl _), byteRange_eq, fld, Nat.mul_div_cancel _ (Nat.two_pow_pos _), Nat.mod_mod]
    · rw [← ih hl q hq, packFields_cons]
      dsimp only at hu
      rw [hu, byteRange_add_low (fld_lt off n v) (fieldsOk_mem hl hq)]

end Sys2Proof.Machine
end

section
/-! SUPPORT. The bytes of a save area: header, bodies, elements and sets (Table 19.3, Table 10.3). -/

namespace Sys2Proof.Machine

theorem pow256 (n : Nat) : 256 ^ n = 2 ^ (8 * n) := by rw [Nat.pow_mul]

/-! ### The header -/

/-- The fields of the first 4 KiB but for the fault queue. -/
def headFields (s : State) (g : Region) : List (Nat × Nat × Nat) :=
  let o := saveOffsets s g
  [(0x00, 8, 0x5641534F4C494F4E), (0x08, 2, 1), (0x0A, 1, if g.st = 5 ∨ g.recorded ≠ [] then 5 else g.st), (0x0B, 1, g.foot),
    (0x0C, 4, g.launch), (0x10, 8, g.imgAddr), (0x18, 8, o.2.2.2.2), (0x20, 2, g.img.regw), (0x22, 2, g.img.regh), (0x24, 2, g.pour),
    (0x26, 2, g.origin), (0x28, 8, s.clk - g.launchClk), (0x30, 4, g.frontier), (0x34, 4, (allChanTokens s g).length),
    (0x38, 2, g.faultq.length), (0x40, 8, o.1), (0x48, 8, o.2.1), (0x50, 8, o.2.2.1), (0x58, 8, o.2.2.2.1),
    (0x60, 8, if g.st = 5 ∨ g.recorded ≠ [] then g.stopW0 else 0), (0x80, 200, g.digest.state), (0x148, 8, g.digest.absorbed)]

theorem resumeByte_eq (g : Region) : resumeByte g = if g.st = 5 ∨ g.recorded ≠ [] then 5 else g.st := by simp [resumeByte]

theorem resumeByte_stopped (g : Region) : resumeByte g = 5 ↔ g.st = 5 ∨ g.recorded ≠ [] := by
  rw [resumeByte_eq]
  split
  · next h => exact iff_of_true rfl h
  · next h => exact iff_of_false (fun he => h (.inl he)) h

theorem saveHead_eq (s : State) (g : Region) : saveHead s g = packFields (headFields s g ++ [(0x800, 2048, byteChunks 64 g.faultq)]) := by
  simp only [saveHead, headFields, packFields_cons, packFields_nil, List.cons_append, List.nil_append, Nat.add_assoc, Nat.add_zero, resumeByte_stopped,
    ← resumeByte_eq]

theorem headFields_ok (s : State) (g : Region) : fieldsOk 0 0x1000 (headFields s g ++ [(0x800, 2048, byteChunks 64 g.faultq)]) = true := by
  simp [headFields, fieldsOk_cons_eq, fieldsOk_nil]

theorem saveHead_field (s : State) (g : Region) (q : Nat × Nat × Nat) (hq : q ∈ headFields s g) :
    byteRange (saveHead s g) q.1 q.2.1 = q.2.2 % 256 ^ q.2.1 := by
  rw [saveHead_eq, pow256]
  exact byteRange_packFields (headFields_ok s g) q (List.mem_append_left _ hq)

theorem saveHead_fault (s : State) (g : Region) {k : Nat} (hk : k < 32) :
    byteRange (saveHead s g) (0x800 + 64 * k) 64 = nth g.faultq k 0 % 2 ^ 512 := by
  have hf := byteRange_packFields (headFields_ok s g) (0x800, 2048, _) (List.mem_append_right _ (List.mem_singleton.2 rfl))
  rw [saveHead_eq]
  exact byteRange_chunk (m := 2048) hf (by omega)

theorem saveHead_lt (s : State) (g : Region) : saveHead s g < 256 ^ 0x1000 := by
  rw [saveHead_eq, pow256]
  exact packFields_lt (headFields_ok s g)

theorem roundUp_mod (x m : Nat) : roundUp x m % m = 0 := Nat.mul_mod_left ..

theorem le_roundUp (x : Nat) {m : Nat} (hm : 0 < m) : x ≤ roundUp x m := by
  have := Nat.div_add_mod (x + (m - 1)) m
  have := Nat.mod_lt (x + (m - 1)) hm
  rw [roundUp, Nat.mul_comm]
  omega

theorem elemBlock_eq (e : Elem) : elemBlock e = if e.kind = 1 then 0x15000 else 0xD000 := rfl

theorem sum_elemBlock_mod (l : List Elem) : (l.map elemBlock).sum % 4096 = 0 := by
  induction l with
  | nil => rfl
  | cons e l ih =>
    rw [List.map_cons, List.sum_cons, elemBlock_eq]
    split <;> omega

/-! ### Bodies -/

theorem instBytes_eq (i : Inst) : instBytes i = packFields [(0, 1, i.st), (4, 4, i.oldest), (16, 256, byteChunks 1 i.counts)] := by
  simp only [instBytes, packFields_cons, packFields_nil, Nat.add_assoc, Nat.add_zero]

theorem instBytes_field {i : Inst} {q : Nat × Nat × Nat} (hq : q ∈ [(0, 1, i.st), (4, 4, i.oldest), (16, 256, byteChunks 1 i.counts)]) :
    byteRange (instBytes i) q.1 q.2.1 = q.2.2 % 2 ^ (8 * q.2.1) := by
  rw [instBytes_eq]
  exact byteRange_packFields (lo := 0) (hi := 272) rfl q hq

/-- A body's block: its header fields, and from byte 16 on a chunk for each copy. -/
theorem bodyBlock_eq (b : BodySt) : bodyBlock b =
    packFields [(0, 2, b.desc.num), (2, 2, b.desc.k), (4, 4, b.alloc)] + 2 ^ (8 * 16) * byteChunks 272 (b.insts.map instBytes) := by
  simp only [bodyBlock, packFields_cons, packFields_nil, Nat.add_assoc, Nat.add_zero]

theorem bodyBlock_lt {b : BodySt} (h : b.insts.length = b.desc.k) : bodyBlock b < 2 ^ (8 * (16 + 272 * b.desc.k)) := by
  have hlow : packFields [(0, 2, b.desc.num), (2, 2, b.desc.k), (4, 4, b.alloc)] < 2 ^ (8 * 16) := packFields_lt rfl
  have hc := byteChunks_lt 272 (b.insts.map instBytes)
  rw [List.length_map, h] at hc
  rw [bodyBlock_eq, Nat.mul_add 8 16, Nat.pow_add]
  have := Nat.mul_le_mul_left (2 ^ (8 * 16)) (Nat.succ_le_of_lt hc)
  rw [Nat.mul_succ] at this
  omega

theorem bodyBlock_field {b : BodySt} {q : Nat × Nat × Nat} (hq : q ∈ [(0, 2, b.desc.num), (2, 2, b.desc.k), (4, 4, b.alloc)]) :
    byteRange (bodyBlock b) q.1 q.2.1 = q.2.2 % 2 ^ (8 * q.2.1) := by
  have hend : q.1 + q.2.1 ≤ 16 := by
    simp only [List.mem_cons, List.not_mem_nil, or_false] at hq
    rcases hq with rfl | rfl | rfl <;> simp
  rw [bodyBlock_eq, byteRange_add_high hend]
  exact byteRange_packFields (lo := 0) (hi := 16) rfl q hq

/-- Copy k of a body, in its block. -/
theorem bodyBlock_inst {b : BodySt} {k : Nat} {i : Inst} (hi : b.insts[k]? = some i) {j m : Nat} (h : j + m ≤ 272) :
    byteRange (bodyBlock b) (16 + 272 * k + j) m = byteRange (instBytes i) j m := by
  have hlow : packFields [(0, 2, b.desc.num), (2, 2, b.desc.k), (4, 4, b.alloc)] < 2 ^ (8 * 16) := packFields_lt rfl
  have hb : byteRange (bodyBlock b) (16 + 272 * k) 272 = instBytes i % 2 ^ (8 * 272) := by
    rw [bodyBlock_eq, byteRange_above hlow, byteRange_byteChunks, nth_map_of_getElem? hi]
  exact byteRange_part hb h

/-- The body section: a block behind another. -/
theorem bodySection_cons (b : BodySt) (l : List BodySt) :
    bodySection (b :: l) = bodyBlock b + 2 ^ (8 * (16 + 272 * b.desc.k)) * bodySection l := rfl

theorem bodySection_low {b : BodySt} {o m : Nat} (h : o + m ≤ 16 + 272 * b.desc.k) (l : List BodySt) :
    byteRange (bodySection (b :: l)) o m = byteRange (bodyBlock b) o m := byteRange_add_high h ..

theorem bodySection_rest {b : BodySt} (h : b.insts.length = b.desc.k) (l : List BodySt) :
    bodySection (b :: l) / 2 ^ (8 * (16 + 272 * b.desc.k)) = bodySection l := by
  rw [bodySection_cons, Nat.add_mul_div_left _ _ (Nat.two_pow_pos _), Nat.div_eq_of_lt (bodyBlock_lt h), Nat.zero_add]

/-- What the bytes of a body and of its copies show (Table 19.3). -/
theorem bodySection_shows {b : BodySt} (l : List BodySt) (hk : b.insts.length = b.desc.k) :
    byteRange (bodySection (b :: l)) 0 2 = b.desc.num % 2 ^ 16 ∧ byteRange (bodySection (b :: l)) 2 2 = b.desc.k % 2 ^ 16 ∧
    byteRange (bodySection (b :: l)) 4 4 = b.alloc % 2 ^ 32 := by
  refine ⟨?_, ?_, ?_⟩ <;> rw [bodySection_low (by omega)]
  · exact bodyBlock_field (q := (0, 2, b.desc.num)) (by simp)
  · exact bodyBlock_field (q := (2, 2, b.desc.k)) (by simp)
  · exact bodyBlock_field (q := (4, 4, b.alloc)) (by simp)

theorem bodySection_inst {b : BodySt} (l : List BodySt) (hk : b.insts.length = b.desc.k) {k : Nat} {i : Inst} (hi : b.insts[k]? = some i) :
    byteRange (bodySection (b :: l)) (16 + 272 * k) 1 = i.st % 256 ∧ byteRange (bodySection (b :: l)) (16 + 272 * k + 4) 4 = i.oldest % 2 ^ 32 ∧
    ∀ j < 256, byteRange (bodySection (b :: l)) (16 + 272 * k + 16 + j) 1 = nth i.counts j 0 % 256 := by
  have hlt : k < b.desc.k := hk ▸ (List.getElem?_eq_some_iff.1 hi).1
  have hb {j m : Nat} (h : j + m ≤ 272) : byteRange (bodySection (b :: l)) (16 + 272 * k + j) m = byteRange (instBytes i) j m := by
    rw [bodySection_low (by omega), bodyBlock_inst hi h]
  refine ⟨?_, ?_, fun j hj => ?_⟩
  · exact (hb (j := 0) (by decide)).trans (instBytes_field (q := (0, 1, i.st)) (by simp))
  · exact (hb (by decide)).trans (instBytes_field (q := (4, 4, i.oldest)) (by simp))
  · rw [Nat.add_assoc (16 + 272 * k), hb (by omega)]
    have hc := byteRange_chunk (n := 1) (k := j) (m := 256) (instBytes_field (i := i) (q := (16, 256, byteChunks 1 i.counts)) (by simp)) (by omega)
    rwa [Nat.one_mul] at hc

/-! ### Elements -/

/-- The fields of an element's block that every element has. -/
def elemFields (g : Region) (e : Elem) : List (Nat × Nat × Nat) :=
  [(0, 2, e.preds), (2, 1, e.flags.toNat), (8, 8, e.eosFlags), (16, 256, byteChunks 8 e.states), (272, 128, byteChunks 4 e.consts),
    (0x1000, 0x2000, byteChunks 128 ((e.sets.filter fun m => !m.inFrame).map (setBytes g e))),
    (0x3000, 0x100, byteChunks 4 ((e.sets.filter fun m => m.inFrame && m.ready.isSome).filterMap fun m => frameOff g e m.slot m.tag)),
    (0x4000, 0x4000, byteChunks 64 ((e.heads.flatMap fun q => q.2).map (headBytes g))),
    (0x8000, 0x5000, byteChunks 4160 (e.banks.map bankBytes))]

/-- The fields of a stack element's port. -/
def portFields (g : Region) (e : Elem) : List (Nat × Nat × Nat) :=
  [(0xD000, 0x4000, byteChunks 64 ((List.range 256).map fun h => (lookupKey e.port.layc h).getD 0)),
    (0x11000, 0x2000, byteChunks 128 ((e.port.accs.take 64).map (requestBytes g))),
    (0x13000, 0x2000, byteChunks 128 ((List.range 64).map fun n => nestBytes ((lookupKey e.port.nests n).getD {})))]

/-- The fields of an element's block. -/
def blockFields (g : Region) (e : Elem) : List (Nat × Nat × Nat) := elemFields g e ++ if e.kind = 1 then portFields g e else []

theorem elemBytesSaved_eq (g : Region) (e : Elem) : elemBytesSaved g e = packFields (blockFields g e) := by
  rw [blockFields, elemBytesSaved, packFields_append]
  refine congrArg₂ (· + ·) ?_ ?_
  · simp only [elemFields, packFields_cons, packFields_nil, Nat.add_assoc, Nat.add_zero]
  · split
    · rw [portFields, packFields_cons, packFields_cons, packFields_cons, packFields_nil, Nat.add_zero, Nat.add_assoc]
    · rfl

theorem blockFields_ok (g : Region) (e : Elem) : fieldsOk 0 (elemBlock e) (blockFields g e) = true := by
  by_cases hk : e.kind = 1
  · rw [elemBlock_eq, blockFields, if_pos hk, if_pos hk]
    simp [elemFields, portFields, fieldsOk_cons_eq, fieldsOk_nil]
  · rw [elemBlock_eq, blockFields, if_neg hk, if_neg hk]
    simp [elemFields, fieldsOk_cons_eq, fieldsOk_nil]

theorem elemSection_cons (g : Region) (e : Elem) (l : List Elem) :
    elemSection g (e :: l) = elemBytesSaved g e + 2 ^ (8 * elemBlock e) * elemSection g l := rfl

theorem elemSection_rest (g : Region) (e : Elem) (l : List Elem) : elemSection g (e :: l) / 2 ^ (8 * elemBlock e) = elemSection g l := by
  have hlt : elemBytesSaved g e < 2 ^ (8 * elemBlock e) := by
    rw [elemBytesSaved_eq]
    exact packFields_lt (blockFields_ok g e)
  rw [elemSection_cons, Nat.add_mul_div_left _ _ (Nat.two_pow_pos _), Nat.div_eq_of_lt hlt, Nat.zero_add]

/-- A field of the first element's block reads back from the section. -/
theorem elemSection_field {g : Region} {e : Elem} (l : List Elem) {q : Nat × Nat × Nat} (hq : q ∈ blockFields g e)
    (hend : q.1 + q.2.1 ≤ elemBlock e) : byteRange (elemSection g (e :: l)) q.1 q.2.1 = q.2.2 % 2 ^ (8 * q.2.1) := by
  rw [elemSection_cons, byteRange_add_high hend, elemBytesSaved_eq]
  exact byteRange_packFields (blockFields_ok g e) q hq

theorem le_elemBlock (e : Elem) : 0xD000 ≤ elemBlock e := by
  rw [elemBlock_eq]
  split <;> decide

theorem elemSection_elem {g : Region} {e : Elem} (l : List Elem) {off n v : Nat} (hq : (off, n, v) ∈ elemFields g e) (hend : off + n ≤ 0xD000) :
    byteRange (elemSection g (e :: l)) off n = v % 2 ^ (8 * n) :=
  elemSection_field l (q := (off, n, v)) (List.mem_append_left _ hq) (hend.trans (le_elemBlock e))

theorem elemSection_port {g : Region} {e : Elem} (l : List Elem) {off n v : Nat} (hk : e.kind = 1) (hq : (off, n, v) ∈ portFields g e)
    (hend : off + n ≤ 0x15000) : byteRange (elemSection g (e :: l)) off n = v % 2 ^ (8 * n) :=
  elemSection_field l (q := (off, n, v)) (List.mem_append_right _ (by rwa [if_pos hk])) (by rwa [elemBlock_eq, if_pos hk])

/-- The fields of a bank. -/
def bankFields (b : Bank) : List (Nat × Nat × Nat) :=
  [(0, 4096, b.cells), (4096, 2, b.vr), (4098, 2, b.vc), (4100, 2, b.mask), (4102, 2, b2n b.poison), (4104, 2, b.fidx), (4106, 4, b.sctx)]

theorem bankBytes_field {b : Bank} {off n v : Nat} (hq : (off, n, v) ∈ bankFields b) : byteRange (bankBytes b) off n = v % 2 ^ (8 * n) := by
  have hb : bankBytes b = packFields (bankFields b) := by
    simp only [bankBytes, bankFields, packFields_cons, packFields_nil, Nat.add_assoc, Nat.add_zero]
  rw [hb]
  exact byteRange_packFields (lo := 0) (hi := 4110) (by simp [bankFields, fieldsOk_cons_eq, fieldsOk_nil]) (off, n, v) hq

/-- A field of bank k of the first element. -/
theorem elemSection_bank {g : Region} {e : Elem} (l : List Elem) {k : Nat} {b : Bank} (hk : k < 4) (hb : e.banks[k]? = some b) {off n v : Nat}
    (hq : (off, n, v) ∈ bankFields b) (hend : off + n ≤ 4160) :
    byteRange (elemSection g (e :: l)) (0x8000 + 4160 * k + off) n = v % 2 ^ (8 * n) := by
  have hf : byteRange (elemSection g (e :: l)) 0x8000 0x5000 = byteChunks 4160 (e.banks.map bankBytes) % 2 ^ (8 * 0x5000) :=
    elemSection_elem l (by simp [elemFields]) (by decide)
  have hbank := byteRange_chunk (k := k) hf (by omega)
  rw [nth_map_of_getElem? hb] at hbank
  rw [byteRange_part hbank hend, bankBytes_field hq]

/-- The fields of a loop-nest unit. -/
theorem nestBytes_field {u : LoopNest} {off n v : Nat} (hq : (off, n, v) ∈ [(0, 121, u.prog), (121, 1, b2n u.exhausted)]) :
    byteRange (nestBytes u) off n = v % 2 ^ (8 * n) := by
  have hb : nestBytes u = packFields ([(0, 121, u.prog), (121, 1, b2n u.exhausted)] ++ [(122, 6, byteChunks 1 (u.v.map fun x => x % 256))]) := by
    simp only [nestBytes, packFields_cons, packFields_nil, List.cons_append, List.nil_append, Nat.add_assoc, Nat.add_zero]
  rw [hb]
  exact byteRange_packFields (lo := 0) (hi := 128) (by simp [fieldsOk_cons_eq, fieldsOk_nil]) (off, n, v) (List.mem_append_left _ hq)

/-! ### Sets -/

/-- The byte of a set that shows what is present, awaited and ready. -/
def setMarks (m : MSet) : Nat :=
  b2n m.a.isSome + 2 * b2n m.b.isSome + 4 * b2n m.c.isSome + 8 * m.orphan + 64 * b2n (m.inFrame && m.ready.isSome)

/-- The fields of a set. -/
def setFields (g : Region) (e : Elem) (m : MSet) : List (Nat × Nat × Nat) :=
  [(0, 4, m.tag), (4, 1, setMarks m), (32, 32, posBytes g e m 0 m.a), (64, 32, posBytes g e m 1 m.b), (96, 32, posBytes g e m 2 m.c)]

theorem setBytes_field {g : Region} {e : Elem} {m : MSet} {off n v : Nat} (hq : (off, n, v) ∈ setFields g e m) :
    byteRange (setBytes g e m) off n = v % 2 ^ (8 * n) := by
  have hb : setBytes g e m = packFields (setFields g e m) := by
    simp only [setBytes, setFields, setMarks, packFields_cons, packFields_nil, Nat.add_assoc, Nat.add_zero]
  rw [hb]
  exact byteRange_packFields (lo := 0) (hi := 128) (by simp [setFields, fieldsOk_cons_eq, fieldsOk_nil]) (off, n, v) hq

theorem setBytes_pos (g : Region) (e : Elem) (m : MSet) {p : Nat} (hp : p < 3) :
    byteRange (setBytes g e m) (32 + 32 * p) 32 = posBytes g e m p (m.pos p) % 2 ^ (8 * 32) := by
  match p with
  | 0 => exact setBytes_field (by simp [setFields, MSet.pos])
  | 1 => exact setBytes_field (by simp [setFields, MSet.pos])
  | 2 => exact setBytes_field (by simp [setFields, MSet.pos])

/-- Presence bits, orphan marks and the ready bit stand side by side. -/
theorem setMarks_bits : ∀ (x y z w : Bool) (o : Fin 8), let v := (b2n x + 2 * b2n y + 4 * b2n z + 8 * o.val + 64 * b2n w) % 2 ^ 8
    bit v 0 = x ∧ bit v 1 = y ∧ bit v 2 = z ∧ bit v 3 = bit o.val 0 ∧ bit v 4 = bit o.val 1 ∧ bit v 5 = bit o.val 2 ∧ bit v 6 = w := by decide

theorem setBytes_marks (g : Region) (e : Elem) {m : MSet} (ho : m.orphan < 8) :
    (∀ p < 3, bit (byteRange (setBytes g e m) 4 1) p = (m.pos p).isSome ∧ bit (byteRange (setBytes g e m) 4 1) (p + 3) = bit m.orphan p) ∧
    bit (byteRange (setBytes g e m) 4 1) 6 = (m.inFrame && m.ready.isSome) := by
  have hv : byteRange (setBytes g e m) 4 1 = setMarks m % 2 ^ 8 := setBytes_field (by simp [setFields])
  obtain ⟨ha, hb, hc, h0, h1, h2, hr⟩ := setMarks_bits m.a.isSome m.b.isSome m.c.isSome (m.inFrame && m.ready.isSome) ⟨m.orphan, ho⟩
  rw [hv]
  refine ⟨fun p hp => ?_, hr⟩
  match p with
  | 0 => exact ⟨ha, h0⟩
  | 1 => exact ⟨hb, h1⟩
  | 2 => exact ⟨hc, h2⟩

/-- A present operand: header words HW1 to HW6, and where its payload stands. -/
theorem posBytes_some (g : Region) (e : Elem) (m : MSet) (p : Nat) (h : Held) :
    byteRange (posBytes g e m p (some h)) 0 24 = midWords g h.tok.hdr ∧ byteRange (posBytes g e m p (some h)) 24 8 = placeBytes h % 2 ^ 64 := by
  have hm : midWords g h.tok.hdr < 2 ^ (8 * 24) := Nat.mod_lt _ (Nat.two_pow_pos _)
  have hb : posBytes g e m p (some h) = packFields [(0, 24, midWords g h.tok.hdr), (24, 8, placeBytes h)] := by
    rw [packFields_cons, packFields_cons, packFields_nil, Nat.add_zero, fld, Nat.mod_eq_of_lt hm, Nat.mul_zero, pow_zero, Nat.mul_one]
    rfl
  have hf := byteRange_packFields (lo := 0) (hi := 32) (l := [(0, 24, midWords g h.tok.hdr), (24, 8, placeBytes h)]) (by simp [fieldsOk_cons_eq, fieldsOk_nil])
  rw [hb]
  exact ⟨(hf (0, 24, _) List.mem_cons_self).trans (Nat.mod_eq_of_lt hm), hf (24, 8, _) (List.mem_cons_of_mem _ List.mem_cons_self)⟩

end Sys2Proof.Machine
end

section
/-! SUPPORT. What a region that goes on meets on its way, lost lane groups and bad control state, leaves what a restore put in place
(spec/14: R328; spec/13: R323; spec/22: R406). -/

namespace Sys2Proof.Machine

/-- A channel whose ends may have moved to another lane group. -/
structure EndsMoved (c d : Chan) : Prop where
  rest : d = { c with src := d.src, dst := d.dst }
  link : (∃ l, c.src = .link l) → ∃ l, d.src = .link l

/-- A region but for a stop that it met, its fault queue and the lane groups of its channels. -/
structure SameRun (g h : Region) : Prop where
  rest : h = { g with stopping := h.stopping, recorded := h.recorded, stopW0 := h.stopW0, stopKey := h.stopKey, faultq := h.faultq,
                      fltlost := h.fltlost, chans := h.chans, spares := h.spares, linkOwed := h.linkOwed }
  chans : ∀ d ∈ h.chans, ∃ c ∈ g.chans, EndsMoved c d

theorem SameRun.of_eq {g h : Region} (hc : h.chans = g.chans)
    (hr : h = { g with
      stopping := h.stopping, recorded := h.recorded, stopW0 := h.stopW0, stopKey := h.stopKey, faultq := h.faultq,
      fltlost := h.fltlost, chans := h.chans, spares := h.spares, linkOwed := h.linkOwed }) : SameRun g h :=
  ⟨hr, fun d hd => ⟨d, hc ▸ hd, rfl, id⟩⟩

theorem SameRun.refl (g : Region) : SameRun g g := .of_eq rfl rfl

theorem EndsMoved.trans {a b c : Chan} (h : EndsMoved a b) (k : EndsMoved b c) : EndsMoved a c :=
  ⟨by rw [k.rest, h.rest], fun hl => k.link (h.link hl)⟩

theorem SameRun.trans {a b c : Region} (h : SameRun a b) (k : SameRun b c) : SameRun a c where
  rest := by rw [k.rest, h.rest]
  chans d hd := by
    obtain ⟨e, he, hde⟩ := k.chans d hd
    obtain ⟨f, hf, hef⟩ := h.chans e he
    exact ⟨f, hf, hef.trans hde⟩

/-- What a region that goes on leaves as it was: HBM, the events that the cores have been told, its state. -/
structure Met (r : Rgn) (s t : State) : Prop where
  hbm : t.hbm = s.hbm
  pmap : t.pmap = s.pmap
  revt : ∀ (k : Fin 32) (n : Nat), s.cores[k].revt.getLsbD n = true → t.cores[k].revt.getLsbD n = true
  event : ∀ (k : Fin 32) (n : Nat), s.cores[k].event.getLsbD n = true → t.cores[k].event.getLsbD n = true
  region : SameRun (getRegion s r) (getRegion t r)

theorem Met.of_cores {r : Rgn} {s t : State} (hbm : t.hbm = s.hbm) (pmap : t.pmap = s.pmap) (hc : t.cores = s.cores)
    (region : SameRun (getRegion s r) (getRegion t r)) : Met r s t :=
  ⟨hbm, pmap, fun k n h => by rwa [hc], fun k n h => by rwa [hc], region⟩

theorem Met.refl (r : Rgn) (s : State) : Met r s s := .of_cores rfl rfl rfl (.refl _)

theorem Met.trans {r : Rgn} {a b c : State} (h : Met r a b) (k : Met r b c) : Met r a c :=
  ⟨k.hbm.trans h.hbm, k.pmap.trans h.pmap, fun i n hb => k.revt i n (h.revt i n hb), fun i n hb => k.event i n (h.event i n hb),
    h.region.trans k.region⟩

theorem Met.foldl {r : Rgn} {β : Type} {f : State → β → State} (hf : ∀ s x, Met r s (f s x)) (l : List β) (s : State) : Met r s (l.foldl f s) := by
  induction l generalizing s with
  | nil => exact .refl r s
  | cons x l ih => exact (hf s x).trans (ih _)

/-- A region that was told stays told. -/
theorem Posted.met {r : Rgn} {s t : State} (h : Posted s s r) (hm : Met r s t) : Posted t t r := by
  intro k hk
  have ho : ownsCore s r.part k = true := by
    unfold ownsCore partDies pmapOf at hk ⊢
    rwa [← hm.pmap]
  exact ⟨hm.revt k _ (h k ho).1, hm.event k _ (h k ho).2⟩

theorem met_postRegion (s : State) (p h : Nat) (r : Rgn) : Met r s (postRegion s p h) where
  hbm := rfl
  pmap := rfl
  revt k n hb := by
    unfold postRegion
    simp only [Fin.getElem_fin, Vector.getElem_mapFinIdx]
    split
    · rw [BitVec.getLsbD_or, show s.cores[k.val].revt.getLsbD n = true from hb, Bool.true_or]
    · exact hb
  event k n hb := by
    unfold postRegion
    simp only [Fin.getElem_fin, Vector.getElem_mapFinIdx]
    split
    · rw [BitVec.getLsbD_or, show s.cores[k.val].event.getLsbD n = true from hb, Bool.true_or]
    · exact hb
  region := .refl _

theorem met_modLane (s : State) (n : Nat) (f : Lane → Lane) (r : Rgn) : Met r s (modLane s n f) := .of_cores rfl rfl rfl (.refl _)

section
variable {s : State} {r : Rgn} (hp : r.part < 16)
include hp

theorem met_setRegion {g : Region} (hg : SameRun (getRegion s r) g) : Met r s (setRegion s r g) :=
  .of_cores (setRegion_hbm ..) (setRegion_pmap ..) (setRegion_cores ..) (by rwa [getRegion_setRegion_same hp])

theorem met_setPost {g : Region} (hg : SameRun (getRegion s r) g) : Met r s (postRegion (setRegion s r g) r.part r.handle) :=
  (met_setRegion hp hg).trans (met_postRegion ..)

theorem met_putRec (x : FRec) : Met r s (putRec s r x) := by
  unfold putRec
  dsimp only
  split
  · exact met_setPost hp (.of_eq rfl rfl)
  · split
    · exact met_setRegion hp (.of_eq rfl rfl)
    · exact met_setPost hp (.of_eq rfl rfl)

theorem met_setPut {g : Region} (hg : SameRun (getRegion s r) g) (x : FRec) : Met r s (putRec (setRegion s r g) r x) :=
  (met_setRegion hp hg).trans (met_putRec hp x)

theorem met_meetStop (n : Nat) (x : FRec) (k : Nat) : Met r s (meetStop s ⟨r.part, r.handle, n⟩ x k) := by
  have hr : rgnOf ⟨r.part, r.handle, n⟩ = r := rfl
  rw [meetStop_eq, hr]
  split
  · exact met_setRegion hp (.of_eq rfl rfl)
  · refine met_setPut hp ?_ _
    exact .of_eq rfl rfl

theorem met_meetStopRgn (x : FRec) (n : Nat) : Met r s (meetStopRgn s r x n) := by
  unfold meetStopRgn
  dsimp only
  split
  · exact met_setRegion hp (.of_eq rfl rfl)
  · refine met_setPut hp ?_ _
    exact .of_eq rfl rfl

theorem met_meetCtrl : Met r s (meetCtrl s r) := by
  unfold meetCtrl
  refine Met.foldl (fun u q => ?_) _ s
  split
  · exact met_meetStop hp ..
  · exact .refl r u

omit hp in
/-- A channel's ends that move to a spare. -/
theorem moveEnds_sameRun (a b : Nat) (g : Region) : SameRun g (moveEnds a b g) := by
  refine ⟨rfl, fun d hd => ?_⟩
  obtain ⟨c, hc, rfl⟩ := List.mem_map.1 hd
  refine ⟨c, hc, rfl, fun ⟨l, hl⟩ => ?_⟩
  dsimp only
  rw [hl]
  split <;> exact ⟨_, rfl⟩

/-- A lane group of the region is lost. -/
theorem met_loseLane {n : Nat} {b : Nat × Nat × Nat} (hb : (getLane s n).bind = some b) (h1 : b.1 = r.part) (h2 : b.2.1 = r.handle) :
    Met r s (loseLane s n) := by
  have hr : (⟨b.1, b.2.1⟩ : Rgn) = r := by rw [h1, h2]
  have hl := met_modLane s n (fun l => { l with up := false, lost := true }) r
  unfold loseLane
  dsimp only
  rw [hb]
  split
  · next b' k hb' _ =>
    obtain rfl : b = b' := Option.some.inj hb'
    rw [hr]
    split
    · exact hl
    · split
      · exact (hl.trans (met_setRegion hp (moveEnds_sameRun ..))).trans (.of_cores rfl rfl rfl (.refl _))
      · split
        · exact hl.trans (met_meetStopRgn hp ..)
        · exact hl
  · exact hl

theorem met_meetLost : Met r s (meetLost s r) := by
  unfold meetLost
  refine Met.foldl (fun u n => ?_) _ s
  dsimp only
  split
  · next b hb =>
    split
    · next hc =>
      obtain ⟨⟨h1, h2⟩, -⟩ : (b.1 = r.part ∧ b.2.1 = r.handle) ∧ _ := by simpa using hc
      exact met_loseLane hp hb h1 h2
    · exact .refl r u
  · exact .refl r u

end
end Sys2Proof.Machine
end

section
/-! SUPPORT. An element, a body and a channel read back from a save area (spec/19: R378, R379, Table 19.3; spec/10: Table 10.3). -/

namespace Sys2Proof.Machine

/-! ### Operands and sets -/

theorem heldOf_hdr (base clk tag x : Nat) (e : Elem) :
    (heldOf base clk tag x e).tok.hdr = (hdrOfBits (tag % 2 ^ 32 + 2 ^ 32 * (x % 2 ^ 192))).onBase base := by
  unfold heldOf
  dsimp only
  split
  · rfl
  · split <;> rfl

theorem slotOfBytes_congr {e f : Elem} (h : e.cfg = f.cfg) (base x : Nat) : slotOfBytes base x e = slotOfBytes base x f := by
  unfold slotOfBytes
  rw [h]

theorem settle_eq (clk : Nat) (e : Elem) (m : MSet) : ∃ r, settle clk e m = { m with ready := r } := by
  unfold settle
  split
  · exact ⟨_, rfl⟩
  · exact ⟨_, rfl⟩

/-- What a set read back from the bytes z shows. -/
structure SetBack (base slot z : Nat) (m : MSet) : Prop where
  slot : m.slot = slot
  tag : m.tag = byteRange z 0 4
  orphan : m.orphan = bits (byteRange z 4 1) 5 3
  pos : ∀ p < 3, (m.pos p).isSome = bit (byteRange z 4 1) p ∧ ∀ d, m.pos p = some d →
    d.tok.hdr = (hdrOfBits (byteRange z 0 4 + 2 ^ 32 * byteRange z (32 + 32 * p) 24)).onBase base

/-- Position p of a set's bytes read back. -/
def posOfBytes (base clk z p : Nat) (e : Elem) : Option Held :=
  if bit (byteRange z 4 1) p then some (heldOf base clk (byteRange z 0 4) (byteRange z (32 + 32 * p) 32) e) else none

theorem setOfBytes_pos (base clk slot z : Nat) (frame : Bool) (e : Elem) {p : Nat} (hp : p < 3) :
    (setOfBytes base clk slot z frame e).pos p = posOfBytes base clk z p e := by
  match p with
  | 0 | 1 | 2 => rfl

theorem setOfBytes_back (base clk slot z : Nat) (frame : Bool) (e : Elem) : SetBack base slot z (setOfBytes base clk slot z frame e) where
  slot := rfl
  tag := rfl
  orphan := rfl
  pos p hp := by
    rw [setOfBytes_pos base clk slot z frame e hp]
    unfold posOfBytes
    split
    · next hb =>
      refine ⟨hb.symm, fun d hd => ?_⟩
      obtain rfl := Option.some.inj hd
      have htag : byteRange z 0 4 % 2 ^ 32 = byteRange z 0 4 := Nat.mod_mod ..
      have hmid : byteRange z (32 + 32 * p) 32 % 2 ^ 192 = byteRange z (32 + 32 * p) 24 := by
        rw [← byteRange_zero_off _ 24, byteRange_byteRange (by decide), Nat.add_zero]
      rw [heldOf_hdr, htag, hmid]
    · next hb => exact ⟨(eq_false_of_ne_true hb).symm, fun d hd => by cases hd⟩

theorem SetBack.ready {base slot z : Nat} {m : MSet} (h : SetBack base slot z m) (r : Option Nat) : SetBack base slot z { m with ready := r } :=
  ⟨h.slot, h.tag, h.orphan, h.pos⟩

/-- Every set of the matching store whose slot is known is read back. -/
theorem storeSets_back {base clk x j slot : Nat} {e : Elem} (hj : j < 64)
    (hs : slotOfBytes base (byteRange x (0x1000 + 128 * j) 128) e = some slot) :
    ∃ m ∈ storeSets base clk x e, SetBack base slot (byteRange x (0x1000 + 128 * j) 128) m := by
  obtain ⟨r, hr⟩ := settle_eq clk e { setOfBytes base clk slot (byteRange x (0x1000 + 128 * j) 128) false e with ready := none }
  refine ⟨_, List.mem_filterMap.2 ⟨j, List.mem_range.2 hj, ?_⟩, ((setOfBytes_back base clk slot _ false e).ready none).ready r⟩
  dsimp only
  rw [hs, Option.map_some, hr]

/-! ### Heads -/

theorem mem_of_lookupKey {κ α : Type} [DecidableEq κ] {l : List (κ × α)} {k : κ} {v : α} (h : lookupKey l k = some v) : (k, v) ∈ l := by
  induction l with
  | nil => cases h
  | cons q l ih =>
    obtain ⟨a, b⟩ := q
    rw [lookupKey] at h
    split at h
    · next hk =>
      obtain rfl := Option.some.inj h
      exact hk ▸ List.mem_cons_self
    · exact List.mem_cons_of_mem _ (ih h)

/-- A head read back from its 64 bytes. -/
def headOfWord (base clk w : Nat) (e : Elem) : Held := heldOf base clk (w % 2 ^ 32) (byteRange w 4 24 + fld 24 8 (byteRange w 32 8)) e

/-- Entry i of the saved heads, read back. -/
def headOfBytes (base clk x : Nat) (e : Elem) (i : Nat) : Held := headOfWord base clk (byteRange x (0x4000 + 64 * i) 64) e

/-- The heads with entry i behind them. -/
def headStep (base clk x : Nat) (e : Elem) (hs : List (Nat × List Held)) (i : Nat) : List (Nat × List Held) :=
  if byteRange x (0x4000 + 64 * i) 64 = 0 then hs
  else
    let h := headOfBytes base clk x e i
    putKey hs h.tok.hdr.chan ((lookupKey hs h.tok.hdr.chan).getD [] ++ [h])

theorem headLists_eq (base clk x : Nat) (e : Elem) : headLists base clk x e = (List.range 256).foldl (headStep base clk x e) [] := by
  unfold headLists headStep headOfBytes headOfWord
  rfl

theorem headOfWord_hdr (base clk w : Nat) (e : Elem) : (headOfWord base clk w e).tok.hdr = (hdrOfBits (byteRange w 0 28)).onBase base := by
  have hhigh : (byteRange w 4 24 + fld 24 8 (byteRange w 32 8)) % 2 ^ 192 = w / 2 ^ 32 % 2 ^ 192 := by
    rw [fld, Nat.add_mul_mod_self_right, byteRange_eq, Nat.mod_mod]
  rw [headOfWord, heldOf_hdr, Nat.mod_mod, hhigh, ← Nat.mod_mul, ← pow_add, byteRange_zero_off]

theorem headOfBytes_hdr (base clk x : Nat) (e : Elem) (i : Nat) :
    (headOfBytes base clk x e i).tok.hdr = (hdrOfBits (byteRange x (0x4000 + 64 * i) 28)).onBase base := by
  rw [headOfBytes, headOfWord_hdr, byteRange_byteRange (by decide), Nat.add_zero]

/-- A held token stands in the list of its channel. -/
def Listed (hs : List (Nat × List Held)) (d : Held) : Prop := ∃ v, lookupKey hs d.tok.hdr.chan = some v ∧ d ∈ v

theorem Listed.mem {hs : List (Nat × List Held)} {d : Held} (h : Listed hs d) : ∃ c ∈ hs, d ∈ c.2 ∧ c.1 = d.tok.hdr.chan := by
  obtain ⟨v, hv, hd⟩ := h
  exact ⟨_, mem_of_lookupKey hv, hd, rfl⟩

theorem Listed.step {hs : List (Nat × List Held)} {d : Held} (h : Listed hs d) (base clk x : Nat) (e : Elem) (i : Nat) :
    Listed (headStep base clk x e hs i) d := by
  obtain ⟨v, hv, hd⟩ := h
  unfold headStep
  split
  · exact ⟨v, hv, hd⟩
  · dsimp only
    by_cases hc : (headOfBytes base clk x e i).tok.hdr.chan = d.tok.hdr.chan
    · refine ⟨_, by rw [hc]; exact lookupKey_putKey_same .., ?_⟩
      rw [hv]
      exact List.mem_append_left _ hd
    · exact ⟨v, by rw [lookupKey_putKey_ne _ _ _ _ hc]; exact hv, hd⟩

theorem headStep_listed {base clk x i : Nat} {e : Elem} (hw : byteRange x (0x4000 + 64 * i) 64 ≠ 0) (hs : List (Nat × List Held)) :
    Listed (headStep base clk x e hs i) (headOfBytes base clk x e i) := by
  unfold headStep
  rw [if_neg hw]
  exact ⟨_, lookupKey_putKey_same .., List.mem_append_right _ (List.mem_singleton.2 rfl)⟩

theorem foldl_headStep_listed {base clk x i : Nat} {e : Elem} (hw : byteRange x (0x4000 + 64 * i) 64 ≠ 0) (l : List Nat) (hs : List (Nat × List Held))
    (h : i ∈ l ∨ Listed hs (headOfBytes base clk x e i)) : Listed (l.foldl (headStep base clk x e) hs) (headOfBytes base clk x e i) := by
  induction l generalizing hs with
  | nil => exact h.resolve_left List.not_mem_nil
  | cons k l ih =>
    refine ih _ ?_
    rcases h with hi | hl
    · rcases List.mem_cons.1 hi with rfl | hi
      · exact .inr (headStep_listed hw hs)
      · exact .inl hi
    · exact .inr (hl.step ..)

/-- Every head saved is read back into the list of its channel. -/
theorem headLists_back {base clk x j : Nat} {e : Elem} (hj : j < 256) (hw : byteRange x (0x4000 + 64 * j) 64 ≠ 0) :
    ∃ c ∈ headLists base clk x e, ∃ d ∈ c.2, d.tok.hdr = (hdrOfBits (byteRange x (0x4000 + 64 * j) 28)).onBase base ∧ c.1 = d.tok.hdr.chan := by
  obtain ⟨c, hc, hd, hk⟩ := (foldl_headStep_listed (base := base) (clk := clk) (e := e) hw (List.range 256) [] (.inl (List.mem_range.2 hj))).mem
  exact ⟨c, by rwa [headLists_eq], _, hd, headOfBytes_hdr .., hk⟩

/-! ### Layout copies -/

theorem lookupKey_filterMap {α : Type} (p : Nat → Bool) (v : Nat → α) (l : List Nat) (j : Nat) :
    lookupKey (l.filterMap fun h => if p h then some (h, v h) else none) j = if j ∈ l ∧ p j = true then some (v j) else none := by
  induction l with
  | nil => rfl
  | cons k l ih =>
    rw [List.filterMap_cons]
    by_cases hp : p k = true
    · rw [if_pos hp]
      dsimp only
      rw [lookupKey]
      by_cases hk : k = j
      · subst hk
        rw [if_pos rfl, if_pos ⟨List.mem_cons_self, hp⟩]
      · rw [if_neg hk, ih]
        simp [Ne.symm hk]
    · rw [if_neg hp]
      dsimp only
      rw [ih]
      by_cases hk : j = k
      · subst hk
        simp [hp]
      · simp [hk]

end Sys2Proof.Machine
end

section
/-! SUPPORT. Elements, bodies and channels of a restored region (spec/19: R378, R379, Table 19.3). -/

namespace Sys2Proof.Machine

/-! ### Elements -/

/-- What an element read back from the bytes y shows (Table 19.3). -/
structure ElemBack (base y : Nat) (e : Elem) : Prop where
  pending : e.pending = []
  preds : e.preds = byteRange y 0 2
  flags : e.flags = BitVec.ofNat 5 (byteRange y 2 1)
  eosFlags : e.eosFlags = byteRange y 8 8
  words : ∀ j < 32, nth e.states j 0 = byteRange y (16 + 8 * j) 8 ∧ nth e.consts j 0 = byteRange y (272 + 4 * j) 4
  banks : ∀ j < 4, ∃ b, e.banks[j]? = some b ∧ b.cells = byteRange y (0x8000 + 4160 * j) 4096 ∧ b.vr = byteRange y (0x8000 + 4160 * j + 4096) 2 ∧
    b.vc = byteRange y (0x8000 + 4160 * j + 4098) 2 ∧ b.mask = byteRange y (0x8000 + 4160 * j + 4100) 2 ∧
    b.poison = (byteRange y (0x8000 + 4160 * j + 4102) 2 != 0) ∧ b.fidx = byteRange y (0x8000 + 4160 * j + 4104) 2 ∧
    b.sctx = byteRange y (0x8000 + 4160 * j + 4106) 4
  sets : ∀ j < 64, ∀ slot, slotOfBytes base (byteRange y (0x1000 + 128 * j) 128) e = some slot →
    ∃ m ∈ e.sets, SetBack base slot (byteRange y (0x1000 + 128 * j) 128) m
  heads : ∀ j < 256, byteRange y (0x4000 + 64 * j) 64 ≠ 0 → ∃ c ∈ e.heads, ∃ d ∈ c.2,
    d.tok.hdr = (hdrOfBits (byteRange y (0x4000 + 64 * j) 28)).onBase base ∧ c.1 = d.tok.hdr.chan
  layc : e.kind = 1 → ∀ j < 256, lookupKey e.port.layc j =
    if byteRange y (0xD000 + 64 * j) 64 = 0 then none else some (byteRange y (0xD000 + 64 * j) 64)

/-- An access that goes on changes nothing of this. -/
theorem ElemBack.accs {base y : Nat} {e : Elem} (h : ElemBack base y e) (l : List Access) : ElemBack base y { e with port := { e.port with accs := l } } :=
  ⟨h.pending, h.preds, h.flags, h.eosFlags, h.words, h.banks, h.sets, h.heads, h.layc⟩

section
variable (clk : Nat) (g oldG : Region) (e old : Elem) (x : Nat)

theorem restoreElem_parts (carve : List (Nat × Nat)) : ∃ f mem, f.cfg = e.cfg ∧
    (restoreElem clk g oldG e old x carve).sets = storeSets g.chBase clk x f ++ frameSets clk g f mem ∧
    (restoreElem clk g oldG e old x carve).heads = headLists g.chBase clk x f := by
  unfold restoreElem
  dsimp only
  refine ⟨_, _, ?_, rfl, rfl⟩
  rfl

theorem restoreElem_layc (carve : List (Nat × Nat)) : (restoreElem clk g oldG e old x carve).port.layc = (List.range 256).filterMap fun h =>
    if (e.kind = 1 && byteRange x (0xD000 + 64 * h) 64 != 0) = true then some (h, byteRange x (0xD000 + 64 * h) 64) else none := by
  unfold restoreElem
  dsimp only

end

/-- An element that is read back from its block shows the block's bytes. -/
theorem restoreElem_back (clk : Nat) (g oldG : Region) (e old : Elem) {x y : Nat} (carve : List (Nat × Nat))
    (hxy : ∀ o m, o + m ≤ elemBlock e → byteRange x o m = byteRange y o m) : ElemBack g.chBase y (restoreElem clk g oldG e old x carve) := by
  have hle := le_elemBlock e
  obtain ⟨f, mem, hcfg, hsets, hheads⟩ := restoreElem_parts clk g oldG e old x carve
  have hcfg' : f.cfg = (restoreElem clk g oldG e old x carve).cfg := hcfg
  have hbank {j o m : Nat} (hj : j < 4) (h : o + m ≤ 4160) :
      byteRange (byteRange x (0x8000 + 4160 * j) 4160) o m = byteRange y (0x8000 + 4160 * j + o) m := by
    rw [byteRange_byteRange h, hxy _ _ (by omega)]
  refine ⟨rfl, hxy _ _ (by omega), ?_, hxy _ _ (by omega), fun j hj => ⟨?_, ?_⟩, fun j hj => ?_, fun j hj slot hs => ?_, fun j hj hw => ?_,
    fun hk j hj => ?_⟩
  · rw [← hxy 2 1 (by omega)]
    rfl
  · rw [← hxy _ _ (by omega)]
    exact nth_map_range (fun i => byteRange x (16 + 8 * i) 8) hj 0
  · rw [← hxy _ _ (by omega)]
    exact nth_map_range (fun i => byteRange x (272 + 4 * i) 4) hj 0
  · refine ⟨bankOfBytes (byteRange x (0x8000 + 4160 * j) 4160), ?_, ?_⟩
    · show ((List.range 4).map fun i => bankOfBytes (byteRange x (0x8000 + 4160 * i) 4160))[j]? = _
      rw [List.getElem?_map, List.getElem?_range hj]
      rfl
    · have hcells := hbank (o := 0) (m := 4096) hj (by decide)
      have hpoison := hbank (o := 4102) (m := 2) hj (by decide)
      exact ⟨hcells, hbank hj (by decide), hbank hj (by decide), hbank hj (by decide), congrArg (· != 0) hpoison, hbank hj (by decide),
        hbank hj (by decide)⟩
  · rw [← hxy _ _ (by omega), ← slotOfBytes_congr hcfg'] at hs
    rw [← hxy _ _ (by omega), hsets]
    obtain ⟨m, hm, hback⟩ := storeSets_back (clk := clk) hj hs
    exact ⟨m, List.mem_append_left _ hm, hback⟩
  · rw [← hxy _ _ (by omega)] at hw
    have h28 : byteRange y (0x4000 + 64 * j) 28 = byteRange x (0x4000 + 64 * j) 28 := (hxy _ _ (by omega)).symm
    rw [h28, hheads]
    exact headLists_back hj hw
  · have hk' : e.kind = 1 := hk
    rw [restoreElem_layc, lookupKey_filterMap, ← hxy _ _ (by rw [elemBlock_eq, if_pos hk']; omega)]
    simp [hk', hj]

/-! ### Bodies -/

/-- What a body read back from the bytes y shows (Table 19.3). -/
structure BodyBack (y : Nat) (b : BodySt) : Prop where
  alloc : b.alloc = byteRange y 4 4
  length : b.insts.length = b.desc.k
  insts : ∀ j i, b.insts[j]? = some i → i.st = byteRange y (16 + 272 * j) 1 ∧ i.oldest = byteRange y (16 + 272 * j + 4) 4 ∧
    i.counts = (List.range (bodyW b.desc)).map fun m => byteRange y (16 + 272 * j + 16 + m) 1

theorem restoreBody_back {b : BodySt} (hw : bodyW b.desc ≤ 256) (x : Nat) : BodyBack x (restoreBody b x) := by
  refine ⟨rfl, by rw [restoreBody, List.length_map, List.length_range], fun j i hi => ?_⟩
  obtain ⟨k, hk, rfl⟩ : ∃ k, (List.range b.desc.k)[j]? = some k ∧ _ = i := by
    rw [restoreBody, List.getElem?_map, Option.map_eq_some_iff] at hi
    exact hi
  obtain rfl : k = j := by
    obtain ⟨hlt, hkj⟩ := List.getElem?_eq_some_iff.1 hk
    rw [← hkj, List.getElem_range]
  refine ⟨?_, ?_, ?_⟩
  · exact byteRange_byteRange (by decide) x (16 + 272 * k)
  · exact byteRange_byteRange (by decide) x (16 + 272 * k)
  · refine List.map_congr_left fun m hm => ?_
    have hlt : m < bodyW b.desc := List.mem_range.1 hm
    rw [byteRange_byteRange (by omega), Nat.add_assoc (16 + 272 * k)]

/-- Bytes of a body in its section. -/
def bodySize (b : BodySt) : Nat := 16 + 272 * b.desc.k

theorem restoreBodies_getElem? (l : List BodySt) (x k : Nat) :
    (restoreBodies l x)[k]? = l[k]?.map fun b => restoreBody b (x >>> (8 * ((l.take k).map bodySize).sum)) := by
  induction l generalizing x k with
  | nil => simp [restoreBodies]
  | cons b l ih =>
    cases k with
    | zero => simp [restoreBodies]
    | succ k =>
      rw [restoreBodies, List.getElem?_cons_succ, ih, List.getElem?_cons_succ, List.take_succ_cons, List.map_cons, List.sum_cons,
        ← Nat.shiftRight_add, ← Nat.mul_add, bodySize]

theorem restoreBodies_descs (l : List BodySt) (x : Nat) : (restoreBodies l x).map (fun b => b.desc) = l.map fun b => b.desc := by
  induction l generalizing x with
  | nil => rfl
  | cons b l ih =>
    rw [restoreBodies, List.map_cons, ih]
    rfl

theorem restoreBodies_sizes (l : List BodySt) (x k : Nat) : ((restoreBodies l x).take k).map bodySize = (l.take k).map bodySize := by
  have hd : ∀ m : List BodySt, m.map bodySize = (m.map fun b => b.desc).map fun d => 16 + 272 * d.k := fun m => by rw [List.map_map]; rfl
  rw [List.map_take, List.map_take, hd, hd, restoreBodies_descs]

/-- Each body is read back from its own block of the section. -/
theorem restoreBodies_back {l : List BodySt} (hw : ∀ b ∈ l, bodyW b.desc ≤ 256) {x k : Nat} {b : BodySt} (hb : (restoreBodies l x)[k]? = some b) :
    BodyBack (x / 2 ^ (8 * (((restoreBodies l x).take k).map bodySize).sum)) b := by
  rw [restoreBodies_getElem?, Option.map_eq_some_iff] at hb
  obtain ⟨c, hc, rfl⟩ := hb
  rw [restoreBodies_sizes, ← Nat.shiftRight_eq_div_pow]
  exact restoreBody_back (hw c (List.mem_of_getElem? hc)) _

/-- The oldest live iterations are sent again to every element. -/
theorem resendOldest_mem {g : Region} {b : BodySt} (hb : b ∈ g.bodies) {j : Nat} {i : Inst} (hi : b.insts[j]? = some i) (hst : i.st = 1)
    (ho : i.oldest ≠ 0) {m : Nat} (hm : m < g.elems.length) :
    ({ dst := m, body := b.desc.num, inst := j, free := false, oldest := i.oldest } : BcastFlight) ∈ resendOldest g := by
  refine List.mem_flatMap.2 ⟨b, hb, List.mem_flatMap.2 ⟨(i, j), List.mem_zipIdx_iff_getElem?.2 hi, ?_⟩⟩
  dsimp only
  rw [if_pos (by simp [hst, ho])]
  exact List.mem_map.2 ⟨m, List.mem_range.2 hm, rfl⟩

/-! ### Channels -/

/-- The tokens of a channel that are on their way or at the receiver. -/
def Chan.sent (c : Chan) : List Token := c.arrived ++ c.flights.map fun f => f.tok

theorem launchTok_hops (clk : Nat) (c : Chan) (t : Token) : (launchTok clk c t).hops = c.hops ∧ (launchTok clk c t).num = c.num ∧ (launchTok clk c t).src = c.src := by
  unfold launchTok
  split <;> exact ⟨rfl, rfl, rfl⟩

/-- Tokens sent on a channel that holds none stand there in their order. -/
theorem foldl_launchTok (clk : Nat) (ts : List Token) (c : Chan) (h : c.hops = [] ∧ c.flights = [] ∨ c.hops ≠ [] ∧ c.arrived = []) :
    (ts.foldl (fun c t => launchTok clk c t) c).sent = c.sent ++ ts ∧
    (ts.foldl (fun c t => launchTok clk c t) c).num = c.num ∧ (ts.foldl (fun c t => launchTok clk c t) c).src = c.src := by
  induction ts generalizing c with
  | nil => exact ⟨(List.append_nil _).symm, rfl, rfl⟩
  | cons t ts ih =>
    obtain ⟨hhops, hnum, hsrc⟩ := launchTok_hops clk c t
    have hstep : (launchTok clk c t).sent = c.sent ++ [t] ∧
        ((launchTok clk c t).hops = [] ∧ (launchTok clk c t).flights = [] ∨ (launchTok clk c t).hops ≠ [] ∧ (launchTok clk c t).arrived = []) := by
      unfold launchTok Chan.sent
      rcases h with ⟨hn, hf⟩ | ⟨hn, ha⟩
      · rw [if_pos hn]
        exact ⟨by simp [hf], .inl ⟨hn, hf⟩⟩
      · rw [if_neg hn]
        exact ⟨by simp [ha], .inr ⟨hn, ha⟩⟩
    obtain ⟨hs, hn, hr⟩ := ih _ hstep.2
    exact ⟨by rw [List.foldl_cons, hs, hstep.1, List.append_assoc]; rfl, hn.trans hnum, hr.trans hsrc⟩

/-- A channel without tokens, restored: those of the section that name it, in their order; a lane group's channel takes what its quota has room for. -/
theorem restoreChan_back {clk : Nat} {g : Region} {ts : List Token} {c : Chan} (old : Option Chan) (ha : c.arrived = []) (hf : c.flights = []) :
    (restoreChan clk g ts c old).1.num = c.num ∧ (restoreChan clk g ts c old).1.src = c.src ∧
    ((∀ l, c.src ≠ .link l) → (restoreChan clk g ts c old).1.sent = ts.filter fun t => t.hdr.chan == c.num) := by
  have hempty : c.hops = [] ∧ c.flights = [] ∨ c.hops ≠ [] ∧ c.arrived = [] := by
    by_cases h : c.hops = []
    · exact .inl ⟨h, hf⟩
    · exact .inr ⟨h, ha⟩
  have hsent : c.sent = [] := by simp [Chan.sent, ha, hf]
  have hfold := fun n => foldl_launchTok clk ((ts.filter fun t => t.hdr.chan == c.num).take n) c hempty
  refine ⟨(hfold _).2.1, (hfold _).2.2, fun hlink => ?_⟩
  refine (hfold _).1.trans ?_
  rw [hsent, List.nil_append]
  split
  · next l hl => exact absurd hl (hlink l)
  · exact List.take_length

end Sys2Proof.Machine
end

section
/-! SUPPORT. The region that a restore puts in place (spec/19: R378, R379). -/

namespace Sys2Proof.Machine

/-! ### What a stop and a spare leave of a region -/

section
variable {g h : Region} (k : SameRun g h)
include k

theorem SameRun.st : h.st = g.st := congrArg (·.st) k.rest
theorem SameRun.load : h.load = g.load := congrArg (·.load) k.rest
theorem SameRun.place : h.place = g.place := congrArg (·.place) k.rest
theorem SameRun.pour : h.pour = g.pour := congrArg (·.pour) k.rest
theorem SameRun.launch : h.launch = g.launch := congrArg (·.launch) k.rest
theorem SameRun.foot : h.foot = g.foot := congrArg (·.foot) k.rest
theorem SameRun.origin : h.origin = g.origin := congrArg (·.origin) k.rest
theorem SameRun.img : h.img = g.img := congrArg (·.img) k.rest
theorem SameRun.frontier : h.frontier = g.frontier := congrArg (·.frontier) k.rest
theorem SameRun.digest : h.digest = g.digest := congrArg (·.digest) k.rest
theorem SameRun.pass : h.pass = g.pass := congrArg (·.pass) k.rest
theorem SameRun.elems : h.elems = g.elems := congrArg (·.elems) k.rest
theorem SameRun.bodies : h.bodies = g.bodies := congrArg (·.bodies) k.rest
theorem SameRun.bcasts : h.bcasts = g.bcasts := congrArg (·.bcasts) k.rest
theorem SameRun.chBase : h.chBase = g.chBase := congrArg (·.chBase) k.rest
theorem SameRun.curVariant : curVariant h = curVariant g := by rw [Machine.curVariant, Machine.curVariant, k.img, k.pour, k.foot]

end

/-! ### The saved state in the configured region -/

theorem cutElems_getElem? {l : List Elem} {k : Nat} {e : Elem} (h : l[k]? = some e) (x c : Nat) :
    ∃ cv, (cutElems l x c)[k]? = some ((x >>> (8 * ((l.take k).map elemBlock).sum)) % 2 ^ (8 * elemBlock e), cv) := by
  induction l generalizing k x c with
  | nil => cases h
  | cons f l ih =>
    cases k with
    | zero =>
      obtain rfl : f = e := Option.some.inj h
      exact ⟨_, rfl⟩
    | succ k =>
      obtain ⟨cv, hcv⟩ := ih h (x >>> (8 * elemBlock f)) (c >>> (8 * 4096 * (carveList f).length))
      refine ⟨cv, ?_⟩
      rw [cutElems, List.getElem?_cons_succ, hcv, List.take_succ_cons, List.map_cons, List.sum_cons, ← Nat.shiftRight_add, ← Nat.mul_add]

/-- One element of the configured region with its state, where the area holds it. -/
def restoreOne (clk : Nat) (c old : Region) (cut : List (Nat × List (Nat × Nat))) (q : Elem × Nat) : Elem :=
  let o := (sameElem old q.1.kind q.1.x q.1.y).getD {}
  match cut[q.2]? with
  | some x => restoreElem clk c old q.1 o x.1 x.2
  | none => { q.1 with gauges := o.gauges }

theorem restoreOne_kind (clk : Nat) (c old : Region) (cut : List (Nat × List (Nat × Nat))) (q : Elem × Nat) :
    (restoreOne clk c old cut q).kind = q.1.kind := by
  unfold restoreOne
  dsimp only
  split <;> rfl

section
variable (old c : Region) (body el carve chans h clk : Nat)

/-- The configured region with its bodies. -/
def withBodies : Region := { c with bodies := restoreBodies c.bodies body }

/-- The elements of the configured region with their state. -/
def restoredElems : List Elem :=
  c.elems.zipIdx.map (restoreOne clk (withBodies c body) old (cutElems (c.elems.take (curVariant c).elems.length) el carve))

/-- The configured region with its bodies and elements. -/
def withElems : Region := { withBodies c body with elems := restoredElems old c body el carve clk }

/-- The tokens of the channel section. -/
def savedToks : List Token := restoreToks c.chBase (byteRange h 0x34 4) chans

/-- A channel of the configured region with its tokens, and those that it cannot take yet. -/
def restoredChan (x : Chan) : Chan × List Token :=
  restoreChan clk (withElems old c body el carve clk) (savedToks c chans h) x (old.chans.find? fun y => regChan old y.num == regChan c x.num)

theorem restoreState_eq : (restoreState old c body el carve chans h clk).1 =
    { withElems old c body el carve clk with
      chans := (c.chans.map (restoredChan old c body el carve chans h clk)).map fun x => x.1
      bcasts := resendOldest (withElems old c body el carve clk) } := rfl

theorem restoredElems_blocks : (restoredElems old c body el carve clk).map elemBlock = c.elems.map elemBlock := by
  have hk : ∀ q : Elem × Nat, elemBlock (restoreOne clk (withBodies c body) old (cutElems (c.elems.take (curVariant c).elems.length) el carve) q) = elemBlock q.1 :=
    fun q => by rw [elemBlock_eq, elemBlock_eq, restoreOne_kind]
  rw [restoredElems, List.map_map]
  conv_rhs => rw [← List.zipIdx_map_fst 0 c.elems, List.map_map]
  exact List.map_congr_left fun q _ => hk q

/-- An element of the running variant shows its block of the element section. -/
theorem restoredElems_back {k : Nat} (hk : k < (curVariant c).elems.length) (hlen : (curVariant c).elems.length ≤ c.elems.length) :
    ∃ e, (restoredElems old c body el carve clk)[k]? = some e ∧
      ElemBack c.chBase (el / 2 ^ (8 * (((restoredElems old c body el carve clk).take k).map elemBlock).sum)) e := by
  have hlt : k < c.elems.length := by omega
  obtain ⟨e, he⟩ : ∃ e, c.elems[k]? = some e := ⟨_, List.getElem?_eq_getElem hlt⟩
  have hget : (c.elems.take (curVariant c).elems.length)[k]? = some e := by rw [List.getElem?_take_of_lt hk, he]
  obtain ⟨cv, hcut⟩ := cutElems_getElem? hget el carve
  rw [List.take_take, Nat.min_eq_left hk.le] at hcut
  rw [List.map_take, restoredElems_blocks, ← List.map_take]
  refine ⟨_, ?_, restoreElem_back clk (withBodies c body) old e ((sameElem old e.kind e.x e.y).getD {}) cv fun o m hom => byteRange_mod hom _⟩
  rw [restoredElems, List.getElem?_map, List.getElem?_zipIdx, he, ← Nat.shiftRight_eq_div_pow]
  simp only [Option.map_some, Nat.zero_add, restoreOne, hcut]

end

/-! ### The region that goes on -/

/-- What a restored region is once it is entered: STOPPED as it was, or going on from its cut. -/
def restoredRegion (z : Region) (st clk now : Nat) : Region :=
  { (if st = 5 then z else resume z false clk) with load := false, job := none, copy := {}, idleBase := now, cutp := false, st := st }

theorem unhold_held (a : Access) : (unhold a).held = none := by
  unfold unhold
  split
  · split <;> rfl
  · rfl
  · assumption

section
variable (z : Region) (st clk now : Nat)

/-- What a resume leaves of a region that a restore has put in place. -/
structure PutBack (z y : Region) : Prop where
  img : y.img = z.img
  place : y.place = z.place
  chBase : y.chBase = z.chBase
  pour : y.pour = z.pour
  foot : y.foot = z.foot
  launch : y.launch = z.launch
  origin : y.origin = z.origin
  frontier : y.frontier = z.frontier
  digest : y.digest = z.digest
  bodies : y.bodies = z.bodies
  bcasts : y.bcasts = z.bcasts
  chans : y.chans = z.chans

theorem restoredRegion_putBack : PutBack z (restoredRegion z st clk now) := by
  unfold restoredRegion
  split <;> exact ⟨rfl, rfl, rfl, rfl, rfl, rfl, rfl, rfl, rfl, rfl, rfl, rfl⟩

theorem restoredRegion_blocks : (restoredRegion z st clk now).elems.map elemBlock = z.elems.map elemBlock := by
  unfold restoredRegion
  split
  · rfl
  · show (z.elems.map _).map elemBlock = _
    rw [List.map_map]
    rfl

theorem restoredRegion_elem {base y k : Nat} {e : Elem} (he : z.elems[k]? = some e) (hb : ElemBack base y e) :
    ∃ f, (restoredRegion z st clk now).elems[k]? = some f ∧ ElemBack base y f := by
  unfold restoredRegion
  split
  · exact ⟨e, he, hb⟩
  · refine ⟨_, ?_, hb.accs (e.port.accs.map unhold)⟩
    show (z.elems.map _)[k]? = _
    rw [List.getElem?_map, he]
    rfl

theorem restoredRegion_unheld (hst : st ≠ 5) : (restoredRegion z st clk now).pass = none ∧
    ∀ e ∈ (restoredRegion z st clk now).elems, ∀ a ∈ e.port.accs, a.held = none := by
  unfold restoredRegion
  rw [if_neg hst]
  refine ⟨rfl, fun e he a ha => ?_⟩
  obtain ⟨f, -, rfl⟩ := List.mem_map.1 he
  obtain ⟨b, -, rfl⟩ := List.mem_map.1 ha
  exact unhold_held b

end

/-! ### The configuration that takes the saved state -/

section
variable (g : Region) (place : Nat) (q : Passed) (h clk : Nat)

theorem restoreBase_elems : (curVariant (restoreBase g place q h clk)).elems.length ≤ (restoreBase g place q h clk).elems.length := by
  show (curVariant (restoreBase g place q h clk)).elems.length ≤ ((allElems q.img (curVariant (restoreBase g place q h clk))).map _).length
  rw [List.length_map, allElems, List.length_append]
  exact Nat.le_add_right ..

/-- No channel holds a token yet. -/
theorem restoreBase_chans {c : Chan} (hc : c ∈ (restoreBase g place q h clk).chans) : c.arrived = [] ∧ c.flights = [] := by
  unfold restoreBase configure at hc
  dsimp only at hc
  obtain ⟨n, -, rfl⟩ := List.mem_map.1 hc
  exact ⟨rfl, rfl⟩

end

/-! ### Images that pass (R253, R361) -/

theorem bodyAt_logw {b i : Nat} {x : Body} (hok : bodyWordOk (byteRange b (entryOff b 1 4 i) 4) = true) (hx : bodyAt b i = some x) : x.logw ≤ 8 := by
  unfold bodyAt at hx
  unfold bodyWordOk at hok
  dsimp only at hx
  split at hx
  · next hv =>
    rw [if_pos hv] at hok
    obtain rfl := Option.some.inj hx
    simp only [Bool.and_eq_true, decide_eq_true_eq] at hok
    exact hok.1.1.1.1
  · cases hx

/-- The bodies of an image that passes hold at most 256 counts in a live copy. -/
theorem infuse_bodyW {s : State} {r : Rgn} {va place : Nat} {q : Passed} (h : infuse s r va place = .ok q) : ∀ x ∈ q.img.bodies, bodyW x ≤ 256 := by
  unfold infuse at h
  split at h
  · cases h
  · next b hb =>
    split at h
    · cases h
    · dsimp only at h
      split at h
      · cases h
      · split at h
        · cases h
        · next hstep =>
          obtain rfl := Except.ok.inj h
          have hbodies : bodiesOk b = true := by
            cases hn : bodiesOk b with
            | true => rfl
            | false => simp [firstOf, step4, hn] at hstep
          intro x hx
          obtain ⟨i, hi, hxi⟩ := List.mem_filterMap.1 (show x ∈ (List.range _).filterMap (bodyAt b) from hx)
          have hlog := bodyAt_logw (List.all_eq_true.1 hbodies i hi) hxi
          exact Nat.pow_le_pow_right (by decide) hlog

end Sys2Proof.Machine
end

section
/-! SUPPORT. The ends of loads, saves and restores (spec/09: R240, R247; spec/18: R361; spec/19: R378, R379). -/

namespace Sys2Proof.Machine

theorem bindLanes_region {s : State} {r : Rgn} (hp : r.part < 16) (img : Image) : getRegion (bindLanes s r img) r = { getRegion s r with spares := [] } :=
  getRegion_modRegion_same hp

theorem getRegion_freeInfusers (s : State) (r q : Rgn) : getRegion (freeInfusers s r) q = getRegion s q := rfl

theorem Posted.self {s : State} {r : Rgn} : Posted (postRegion s r.part r.handle) (postRegion s r.part r.handle) r :=
  (postRegion_posted s r).of_cores rfl rfl

theorem enterState_told (s : State) (r : Rgn) (g : Region) (st : Nat) : Posted (enterState s r g st) (enterState s r g st) r := Posted.self

section
variable {s : State} {r : Rgn}

/-! ### Loads -/

theorem exec_loadWaits {va place : Nat} (hj : (getRegion s r).job = some (.load va place)) (hd : (getRegion s r).copy.done = false) :
    exec (.evIloadComplete r) s = .next s := by
  show execEvIloadComplete r s = _
  unfold execEvIloadComplete
  rw [hj]
  dsimp only
  rw [hd]
  rfl

theorem exec_loadEnds {va place : Nat} (hj : (getRegion s r).job = some (.load va place)) (hd : (getRegion s r).copy.done = true) :
    exec (.evIloadComplete r) s = match infuse s r va place with
      | .error f => .next (loadFailed s r place f)
      | .ok q => .next (loadPassed s r va place q) := by
  show execEvIloadComplete r s = _
  unfold execEvIloadComplete
  rw [hj]
  dsimp only
  rw [hd]
  rfl

/-- The region that a passing load leaves. -/
theorem loadPassed_region (hp : r.part < 16) (va place : Nat) (q : Passed) :
    getRegion (loadPassed s r va place q) r = { armedRegion (getRegion s r) va place s.clk q with spares := [] } := by
  unfold loadPassed
  dsimp only
  rw [getRegion_postRegion, bindLanes_region hp]
  exact congrArg (fun x : Region => { x with spares := [] }) (getRegion_setRegion_same hp)

theorem loadFailed_region (hp : r.part < 16) (place : Nat) (f : Refused) :
    getRegion (loadFailed s r place f) r = { getRegion s r with
      load := false, failed := true, job := none, copy := {}, img := {},
      imgAddr := 0, place := 0, rcause := refusedCause s r.part place f } := by
  unfold loadFailed
  dsimp only
  rw [getRegion_postRegion, getRegion_freeInfusers, getRegion_setRegion_same hp]

/-! ### Saves -/

theorem exec_save {area : Nat} (hj : (getRegion s r).job = some (.save area)) : exec (.evSaveComplete r) s =
    .next (enterState (clearRxq (writeSave s r area) r) r { getRegion (clearRxq (writeSave s r area) r) r with job := none } 6) := by
  show execEvSaveComplete r s = _
  unfold execEvSaveComplete
  rw [hj]

/-! ### Restores -/

theorem exec_restore_waits {place area : Nat} (hj : (getRegion s r).job = some (.restore place area)) (hd : (getRegion s r).copy.done = false) :
    exec (.evRestoreComplete r) s = .next s := by
  show execEvRestoreComplete r s = _
  unfold execEvRestoreComplete
  rw [hj]
  dsimp only
  rw [hd]
  rfl

theorem exec_restore {place area : Nat} (hj : (getRegion s r).job = some (.restore place area)) (hd : (getRegion s r).copy.done = true) :
    exec (.evRestoreComplete r) s = .next (restoreComplete s r place area) := by
  show execEvRestoreComplete r s = _
  unfold execEvRestoreComplete
  rw [hj]
  dsimp only
  rw [hd]
  rfl

theorem restoreFailed_region (hp : r.part < 16) (c : Nat) :
    getRegion (restoreFailed s r c) r = { getRegion s r with load := false, job := none, copy := {}, rcause := c } := by
  unfold restoreFailed
  dsimp only
  rw [getRegion_postRegion, getRegion_freeInfusers, getRegion_setRegion_same hp]

theorem restoreComplete_failed {place area : Nat} {f : Refused} (hf : infuse s r (getRegion s r).imgAddr place = .error f) :
    restoreComplete s r place area = restoreFailed s r (refusedCause s r.part place f) := by
  unfold restoreComplete
  dsimp only
  rw [hf]

theorem logVreadLong_clean (hb : s.badLines = []) (hs : s.softLines = []) (p launch fuel va n : Nat) : logVreadLong s p launch fuel va n = s := by
  cases fuel with
  | zero => rfl
  | succ fuel =>
    unfold logVreadLong
    rw [if_pos (by simp [hb, hs])]

/-- The state in which a restore has put its region in place. -/
def restoredState (s : State) (r : Rgn) (place area h : Nat) (q : Passed) (bo el ca ch : Nat) : State :=
  let u := logVreadLong s r.part 0 (byteRange h 0x18 8 / 64 + 2) area (byteRange h 0x18 8)
  let z := restoreState (getRegion s r) (restoreBase (getRegion s r) place q h s.clk) bo el ca ch h u.clk
  let v := freeInfusers (refillRx u z.1 z.2) r
  enterState v r { (if byteRange h 0x0A 1 = 5 then z.1 else resume z.1 false u.clk) with
    load := false, job := none, copy := {}, idleBase := v.clk, cutp := false } (byteRange h 0x0A 1)

section
variable {place area h bo el ca ch : Nat} {q : Passed}

theorem restoreComplete_passed (hq : infuse s r (getRegion s r).imgAddr place = .ok q) (hh : vreadLong s r.part 80 area 0x1000 = .ok h)
    (ha : areaAgrees s (restoreBase (getRegion s r) place q h s.clk) q.img h = true)
    (h1 : vreadLong s r.part ((byteRange h 0x48 8 - byteRange h 0x40 8) / 64 + 2) (area + byteRange h 0x40 8) (byteRange h 0x48 8 - byteRange h 0x40 8) = .ok bo)
    (h2 : vreadLong s r.part ((byteRange h 0x50 8 - byteRange h 0x48 8) / 64 + 2) (area + byteRange h 0x48 8) (byteRange h 0x50 8 - byteRange h 0x48 8) = .ok el)
    (h3 : vreadLong s r.part ((byteRange h 0x58 8 - byteRange h 0x50 8) / 64 + 2) (area + byteRange h 0x50 8) (byteRange h 0x58 8 - byteRange h 0x50 8) = .ok ca)
    (h4 : vreadLong s r.part ((byteRange h 0x18 8 - byteRange h 0x58 8) / 64 + 2) (area + byteRange h 0x58 8) (byteRange h 0x18 8 - byteRange h 0x58 8) = .ok ch) :
    restoreComplete s r place area = if byteRange h 0x0A 1 = 5 then restoredState s r place area h q bo el ca ch
      else meetLost (meetCtrl (restoredState s r place area h q bo el ca ch) r) r := by
  unfold restoreComplete
  dsimp only
  rw [hq]
  dsimp only
  rw [hh]
  dsimp only
  rw [ha, h1, h2, h3, h4]
  rfl

theorem restoredState_region (hp : r.part < 16) : ∃ clk now, getRegion (restoredState s r place area h q bo el ca ch) r =
    restoredRegion (restoreState (getRegion s r) (restoreBase (getRegion s r) place q h s.clk) bo el ca ch h clk).1 (byteRange h 0x0A 1) clk now :=
  ⟨_, _, getRegion_enterState hp ..⟩

theorem restoredState_hbm : (restoredState s r place area h q bo el ca ch).hbm =
    (logVreadLong s r.part 0 (byteRange h 0x18 8 / 64 + 2) area (byteRange h 0x18 8)).hbm :=
  (enterState_local _ _ _ _).hbm

/-- A region that is entered again meets the lane groups and the control state that it has lost. -/
theorem met_goesOn {u : State} (hp : r.part < 16) : Met r u (meetLost (meetCtrl u r) r) := (met_meetCtrl hp).trans (met_meetLost hp)

end
end
end Sys2Proof.Machine
end

section
/-! SUPPORT. The clauses of LoadEvents, one by one, and the statement put together. -/

namespace Sys2Proof.Machine

theorem elemBlock_fun : elemBlock = fun e => if e.kind = 1 then 0x15000 else 0xD000 := rfl
theorem bodySize_fun : bodySize = fun b => 16 + 272 * b.desc.k := rfl

/-! ### The region restored -/

section
variable {old x : Region} {q : Passed} {place h bo el ca ch clk₀ clk now st : Nat}
  (k : SameRun (restoredRegion (restoreState old (restoreBase old place q h clk₀) bo el ca ch h clk).1 st clk now) x)
include k

theorem restored_img : x.img = q.img := k.img.trans (restoredRegion_putBack ..).img
theorem restored_place : x.place = place := k.place.trans (restoredRegion_putBack ..).place
theorem restored_pour : x.pour = byteRange h 0x24 2 := k.pour.trans (restoredRegion_putBack ..).pour
theorem restored_foot : x.foot = byteRange h 0x0B 1 := k.foot.trans (restoredRegion_putBack ..).foot
theorem restored_launch : x.launch = byteRange h 0x0C 4 := k.launch.trans (restoredRegion_putBack ..).launch
theorem restored_origin : x.origin = byteRange h 0x26 2 := k.origin.trans (restoredRegion_putBack ..).origin
theorem restored_frontier : x.frontier = byteRange h 0x30 4 := k.frontier.trans (restoredRegion_putBack ..).frontier
theorem restored_digest : x.digest = { state := byteRange h 0x80 200, absorbed := byteRange h 0x148 8 } :=
  k.digest.trans (restoredRegion_putBack ..).digest
theorem restored_chBase : x.chBase = q.base := k.chBase.trans (restoredRegion_putBack ..).chBase

theorem restored_variant : curVariant x = curVariant (restoreBase old place q h clk₀) := by
  have hp := restoredRegion_putBack (restoreState old (restoreBase old place q h clk₀) bo el ca ch h clk).1 st clk now
  rw [k.curVariant, curVariant, curVariant, hp.img, hp.pour, hp.foot]
  rfl

/-- Each element of the running variant shows its block of the element section. -/
theorem restored_elem {n : Nat} (hn : n < (curVariant x).elems.length) :
    ElemBack x.chBase (el / 2 ^ (8 * ((x.elems.take n).map elemBlock).sum)) (nth x.elems n {}) := by
  rw [restored_variant k] at hn
  obtain ⟨e, he, hb⟩ := restoredElems_back old (restoreBase old place q h clk₀) bo el ca clk hn (restoreBase_elems ..)
  obtain ⟨f, hf, hback⟩ := restoredRegion_elem (restoreState old (restoreBase old place q h clk₀) bo el ca ch h clk).1 st clk now he hb
  have hx : nth x.elems n {} = f := nth_of_getElem? (by rw [k.elems]; exact hf) _
  rw [hx, restored_chBase k, List.map_take, k.elems, restoredRegion_blocks, ← List.map_take]
  exact hback

theorem restored_elems_length : x.elems.length =
    (withElems old (restoreBase old place q h clk₀) bo el ca clk).elems.length := by
  have hb := congrArg List.length (restoredRegion_blocks (restoreState old (restoreBase old place q h clk₀) bo el ca ch h clk).1 st clk now)
  rw [List.length_map, List.length_map] at hb
  rw [k.elems, hb]
  rfl

theorem restored_bodies : x.bodies = restoreBodies (q.img.bodies.map freshBody) bo := k.bodies.trans (restoredRegion_putBack ..).bodies

theorem restored_descs : x.bodies.map (fun b => b.desc) = q.img.bodies := by
  rw [restored_bodies k, restoreBodies_descs, List.map_map]
  exact List.map_id' _

/-- Each body shows its block of the body section. -/
theorem restored_body (hw : ∀ b ∈ q.img.bodies, bodyW b ≤ 256) {n : Nat} {b : BodySt} (hb : x.bodies[n]? = some b) :
    BodyBack (bo / 2 ^ (8 * ((x.bodies.take n).map bodySize).sum)) b := by
  rw [restored_bodies k] at hb ⊢
  refine restoreBodies_back (fun c hc => ?_) hb
  obtain ⟨d, hd, rfl⟩ := List.mem_map.1 hc
  exact hw d hd

/-- The oldest live iterations are sent again. -/
theorem restored_oldest {n : Nat} {b : BodySt} (hb : x.bodies[n]? = some b) {j : Nat} {i : Inst} (hi : b.insts[j]? = some i) (hst : i.st = 1)
    (ho : i.oldest ≠ 0) {m : Nat} (hm : m < x.elems.length) :
    ({ dst := m, body := b.desc.num, inst := j, free := false, oldest := i.oldest } : BcastFlight) ∈ x.bcasts := by
  rw [restored_bodies k] at hb
  rw [k.bcasts, (restoredRegion_putBack ..).bcasts]
  rw [restored_elems_length k] at hm
  exact resendOldest_mem (g := withElems old (restoreBase old place q h clk₀) bo el ca clk) (List.mem_of_getElem? hb) hi hst ho hm

/-- A channel that no lane group feeds holds the tokens of the channel section that name it. -/
theorem restored_chan {c : Chan} (hc : c ∈ x.chans) (hl : ∀ l, c.src ≠ .link l) :
    c.arrived ++ c.flights.map (fun f => f.tok) = (restoreToks x.chBase (byteRange h 0x34 4) ch).filter fun d => d.hdr.chan == c.num := by
  obtain ⟨d, hd, hmoved⟩ := k.chans c hc
  rw [(restoredRegion_putBack ..).chans, restoreState_eq] at hd
  dsimp only at hd
  obtain ⟨p, hp, rfl⟩ := List.mem_map.1 hd
  obtain ⟨y, hy, rfl⟩ := List.mem_map.1 hp
  obtain ⟨ha, hf⟩ := restoreBase_chans old place q h clk₀ hy
  obtain ⟨hnum, hsrc, hsent⟩ := restoreChan_back (clk := clk) (g := withElems old (restoreBase old place q h clk₀) bo el ca clk)
    (ts := savedToks (restoreBase old place q h clk₀) ch h)
    (old.chans.find? fun z => regChan old z.num == regChan (restoreBase old place q h clk₀) y.num) ha hf
  have hlink : ∀ l, y.src ≠ .link l := by
    intro l hyl
    obtain ⟨m, hm⟩ := hmoved.link ⟨l, hsrc.trans hyl⟩
    exact hl m hm
  have hc' : c.arrived ++ c.flights.map (fun f => f.tok) = (restoredChan old (restoreBase old place q h clk₀) bo el ca ch h clk y).1.sent := by
    rw [hmoved.rest]
    rfl
  have hn : c.num = y.num := (congrArg (·.num) hmoved.rest).trans hnum
  rw [hc', hn, restored_chBase k]
  exact hsent hlink

end

/-- A STOPPED region keeps its fault queue and the first word of its stop. -/
theorem restored_stopped {old x : Region} {q : Passed} {place h bo el ca ch clk₀ clk now : Nat}
    (hx : x = restoredRegion (restoreState old (restoreBase old place q h clk₀) bo el ca ch h clk).1 5 clk now) :
    x.faultq = (List.range (min 32 (byteRange h 0x38 2))).map (fun k => byteRange h (0x800 + 64 * k) 64) ∧ x.stopW0 = byteRange h 0x60 8 := by
  rw [hx]
  exact ⟨rfl, rfl⟩

end Sys2Proof.Machine
end

section
/-! The statement on the ends of loads, saves and restores. -/

namespace Sys2Proof.Machine

/-! ### The clauses on elements and sets -/

theorem b2n_mod (b : Bool) (n : Nat) : b2n b % 2 ^ (8 * (n + 1)) = b2n b := by
  have hlt : b2n b < 2 ^ (8 * (n + 1)) := Nat.lt_of_lt_of_le (by cases b <;> decide : b2n b < 2 ^ 1) (Nat.pow_le_pow_right (by decide) (by omega))
  exact Nat.mod_eq_of_lt hlt

section
variable (g : Region) (e : Elem) (l : List Elem)

theorem elemSection_words {k : Nat} (hk : k < 32) : byteRange (elemSection g (e :: l)) (16 + 8 * k) 8 = nth e.states k 0 % 2 ^ 64 ∧
    byteRange (elemSection g (e :: l)) (272 + 4 * k) 4 = nth e.consts k 0 % 2 ^ 32 := by
  have hs := elemSection_elem (g := g) (e := e) l (off := 16) (n := 256) (v := byteChunks 8 e.states) (by simp [elemFields]) (by decide)
  have hc := elemSection_elem (g := g) (e := e) l (off := 272) (n := 128) (v := byteChunks 4 e.consts) (by simp [elemFields]) (by decide)
  exact ⟨byteRange_chunk hs (by omega), byteRange_chunk hc (by omega)⟩

theorem elemSection_flags : byteRange (elemSection g (e :: l)) 2 1 = e.flags.toNat := by
  rw [elemSection_elem l (v := e.flags.toNat) (by simp [elemFields]) (by decide)]
  exact Nat.mod_eq_of_lt (e.flags.isLt.trans (by decide))

theorem elemSection_set {k : Nat} {m : MSet} (hk : k < 64) (hm : (e.sets.filter fun m => !m.inFrame)[k]? = some m) :
    byteRange (elemSection g (e :: l)) (0x1000 + 128 * k) 128 = setBytes g e m % 2 ^ (8 * 128) := by
  have hs := elemSection_elem (g := g) (e := e) l (off := 0x1000) (n := 0x2000)
    (v := byteChunks 128 ((e.sets.filter fun m => !m.inFrame).map (setBytes g e))) (by simp [elemFields]) (by decide)
  rw [byteRange_chunk hs (by omega), nth_map_of_getElem? hm]

theorem elemSection_head {k : Nat} {h : Held} (hk : k < 256) (hh : (e.heads.flatMap fun q => q.2)[k]? = some h) :
    byteRange (elemSection g (e :: l)) (0x4000 + 64 * k) 64 = headBytes g h % 2 ^ (8 * 64) := by
  have hs := elemSection_elem (g := g) (e := e) l (off := 0x4000) (n := 0x4000)
    (v := byteChunks 64 ((e.heads.flatMap fun q => q.2).map (headBytes g))) (by simp [elemFields]) (by decide)
  rw [byteRange_chunk hs (by omega), nth_map_of_getElem? hh]

theorem elemSection_layout {k : Nat} (he : e.kind = 1) (hk : k < 256) :
    byteRange (elemSection g (e :: l)) (0xD000 + 64 * k) 64 = (lookupKey e.port.layc k).getD 0 % 2 ^ (8 * 64) := by
  have hs := elemSection_port (g := g) l (off := 0xD000) (n := 0x4000)
    (v := byteChunks 64 ((List.range 256).map fun h => (lookupKey e.port.layc h).getD 0)) he (by simp [portFields]) (by decide)
  rw [byteRange_chunk hs (by omega), nth_map_range _ hk]

theorem elemSection_nest {k off n v : Nat} (he : e.kind = 1) (hk : k < 64) (hend : off + n ≤ 128)
    (hq : (off, n, v) ∈ [(0, 121, ((lookupKey e.port.nests k).getD {}).prog), (121, 1, b2n ((lookupKey e.port.nests k).getD {}).exhausted)]) :
    byteRange (elemSection g (e :: l)) (0x13000 + 128 * k + off) n = v % 2 ^ (8 * n) := by
  have hs := elemSection_port (g := g) l (off := 0x13000) (n := 0x2000)
    (v := byteChunks 128 ((List.range 64).map fun n => nestBytes ((lookupKey e.port.nests n).getD {}))) he (by simp [portFields]) (by decide)
  have hnest := byteRange_chunk (k := k) hs (by omega)
  rw [nth_map_range _ hk] at hnest
  rw [byteRange_part hnest hend, nestBytes_field hq]

end

/-! ### The clauses on events -/

section
variable {s : State} {r : Rgn}

theorem loadEnds_passed (hp : r.part < 16) {va place : Nat} (hj : (getRegion s r).job = some (.load va place)) (hd : (getRegion s r).copy.done = true)
    {q : Passed} (hq : infuse s r va place = .ok q) : Completes (.evIloadComplete r) s fun t =>
      let h := getRegion t r
      h.st = 1 ∧ h.load = false ∧ h.job = none ∧ h.img = q.img ∧ h.imgAddr = va ∧ h.place = place ∧ h.pour = 0 ∧ h.foot = 0 ∧
      h.brken = false ∧ h.faultq = [] ∧ h.launch = (getRegion s r).launch ∧ Posted t t r := by
  refine ⟨loadPassed s r va place q, by rw [exec_loadEnds hj hd, hq], ?_⟩
  dsimp only
  rw [loadPassed_region hp]
  exact ⟨rfl, rfl, rfl, rfl, rfl, rfl, rfl, rfl, rfl, rfl, rfl, Posted.self⟩

theorem loadEnds_failed (hp : r.part < 16) {va place : Nat} (hj : (getRegion s r).job = some (.load va place)) (hd : (getRegion s r).copy.done = true)
    {f : Refused} (hf : infuse s r va place = .error f) : Completes (.evIloadComplete r) s fun t =>
      let h := getRegion t r
      h.st = (getRegion s r).st ∧ h.load = false ∧ h.job = none ∧ h.img = {} ∧ h.rcause = refusedCause s r.part place f ∧ Posted t t r ∧
      t.hbm = s.hbm := by
  refine ⟨loadFailed s r place f, by rw [exec_loadEnds hj hd, hf], ?_⟩
  dsimp only
  rw [loadFailed_region hp]
  exact ⟨rfl, rfl, rfl, rfl, rfl, Posted.self, setRegion_hbm ..⟩

/-- The five sections of a save area: offset, bytes, value. -/
def saveSections (s : State) (g : Region) : List (Nat × Nat × Nat) :=
  let o := saveOffsets s g
  let tokens := (allChanTokens s g).map fun q => (regChan g q.1, q.2)
  [(0, 0x1000, saveHead s g), (o.1, o.2.1 - o.1, bodySection g.bodies), (o.2.1, o.2.2.1 - o.2.1, elemSection g (savedElems g)),
    (o.2.2.1, o.2.2.2.1 - o.2.2.1, carveSection g (savedElems g)), (o.2.2.2.1, o.2.2.2.2 - o.2.2.2.1, chanSection tokens)]

theorem writeSave_eq (s : State) (r : Rgn) (area : Nat) : writeSave s r area =
    (saveSections s (getRegion s r)).foldl (fun u q => vwriteLong u r.part (q.2.1 / 64 + 2) (area + q.1) q.2.1 q.2.2) s := by
  unfold writeSave saveSections writeSection
  simp only [List.foldl_cons, List.foldl_nil]

/-- A region entered in a state: it is in it, and its partition's cores are told. -/
theorem enterState_shows (hp : r.part < 16) (u : State) (g : Region) (st : Nat) : (getRegion (enterState u r g st) r).st = st ∧
    (getRegion (enterState u r g st) r).job = g.job ∧ Posted (enterState u r g st) (enterState u r g st) r ∧ (enterState u r g st).hbm = u.hbm := by
  rw [getRegion_enterState hp]
  exact ⟨rfl, rfl, enterState_told u r g st, (enterState_local u r g st).hbm⟩

theorem clearRxq_hbm (u : State) (r : Rgn) : (clearRxq u r).hbm = u.hbm := rfl

theorem saveEnds (hp : r.part < 16) {area : Nat} (hj : (getRegion s r).job = some (.save area)) : Completes (.evSaveComplete r) s fun t =>
    (getRegion t r).st = 6 ∧ (getRegion t r).job = none ∧ Posted t t r ∧
    t.hbm = ((saveSections s (getRegion s r)).foldl (fun u q => vwriteLong u r.part (q.2.1 / 64 + 2) (area + q.1) q.2.1 q.2.2) s).hbm := by
  have hexec := exec_save hj
  have hw := clearRxq_hbm (writeSave s r area) r
  rw [writeSave_eq] at hexec hw
  generalize (saveSections s (getRegion s r)).foldl _ s = w at *
  obtain ⟨hst, hjob, htold, hhbm⟩ := enterState_shows hp (clearRxq w r) { getRegion (clearRxq w r) r with job := none } 6
  exact ⟨_, hexec, hst, hjob, htold, hhbm.trans hw⟩

theorem restoreEnds_failed (hp : r.part < 16) {place area : Nat} (hj : (getRegion s r).job = some (.restore place area))
    (hd : (getRegion s r).copy.done = true) {f : Refused} (hf : infuse s r (getRegion s r).imgAddr place = .error f) :
    Completes (.evRestoreComplete r) s fun t => (getRegion t r).st = (getRegion s r).st ∧ (getRegion t r).load = false ∧
      (getRegion t r).rcause = refusedCause s r.part place f ∧ Posted t t r ∧ t.hbm = s.hbm := by
  refine ⟨_, exec_restore hj hd, ?_⟩
  dsimp only
  rw [restoreComplete_failed hf, restoreFailed_region hp]
  exact ⟨rfl, rfl, rfl, Posted.self, setRegion_hbm ..⟩

end

/-- A restore that passes: what it reaches is the restored region, but for what it meets as it goes on; a STOPPED region meets nothing. -/
structure Restores (s t : State) (r : Rgn) (place h : Nat) (q : Passed) (bo el ca ch : Nat) : Prop where
  told : Posted t t r
  hbm : s.badLines = [] → s.softLines = [] → t.hbm = s.hbm
  region : ∃ clk now, SameRun (restoredRegion (restoreState (getRegion s r) (restoreBase (getRegion s r) place q h s.clk) bo el ca ch h clk).1
      (byteRange h 0x0A 1) clk now) (getRegion t r) ∧
    (byteRange h 0x0A 1 = 5 → getRegion t r = restoredRegion (restoreState (getRegion s r) (restoreBase (getRegion s r) place q h s.clk) bo el ca ch h clk).1
      5 clk now)

section
variable {s : State} {r : Rgn} (hp : r.part < 16) {place area h bo el ca ch : Nat} {q : Passed}
include hp

theorem restoredState_restores {t : State} (hm : Met r (restoredState s r place area h q bo el ca ch) t)
    (h5 : byteRange h 0x0A 1 = 5 → t = restoredState s r place area h q bo el ca ch) : Restores s t r place h q bo el ca ch := by
  obtain ⟨clk, now, hr⟩ := restoredState_region (s := s) (r := r) (place := place) (area := area) (h := h) (bo := bo) (el := el) (ca := ca)
    (ch := ch) (q := q) hp
  refine ⟨(enterState_told _ _ _ _ : Posted (restoredState s r place area h q bo el ca ch) _ r).met hm, fun hb hs => ?_, clk, now, ?_, fun hst => ?_⟩
  · rw [hm.hbm, restoredState_hbm, logVreadLong_clean hb hs]
  · rw [← hr]
    exact hm.region
  · rw [h5 hst, hr, hst]

theorem restoreComplete_restores (hq : infuse s r (getRegion s r).imgAddr place = .ok q) (hh : vreadLong s r.part 80 area 0x1000 = .ok h)
    (ha : areaAgrees s (restoreBase (getRegion s r) place q h s.clk) q.img h = true)
    (h1 : vreadLong s r.part ((byteRange h 0x48 8 - byteRange h 0x40 8) / 64 + 2) (area + byteRange h 0x40 8) (byteRange h 0x48 8 - byteRange h 0x40 8) = .ok bo)
    (h2 : vreadLong s r.part ((byteRange h 0x50 8 - byteRange h 0x48 8) / 64 + 2) (area + byteRange h 0x48 8) (byteRange h 0x50 8 - byteRange h 0x48 8) = .ok el)
    (h3 : vreadLong s r.part ((byteRange h 0x58 8 - byteRange h 0x50 8) / 64 + 2) (area + byteRange h 0x50 8) (byteRange h 0x58 8 - byteRange h 0x50 8) = .ok ca)
    (h4 : vreadLong s r.part ((byteRange h 0x18 8 - byteRange h 0x58 8) / 64 + 2) (area + byteRange h 0x58 8) (byteRange h 0x18 8 - byteRange h 0x58 8) = .ok ch) :
    Restores s (restoreComplete s r place area) r place h q bo el ca ch := by
  rw [restoreComplete_passed hq hh ha h1 h2 h3 h4]
  split
  · exact restoredState_restores hp (.refl ..) fun _ => rfl
  · next h5 => exact restoredState_restores hp (met_goesOn hp) fun h => absurd h h5

end
end Sys2Proof.Machine

open Sys2Proof Sys2Proof.Machine

/-- Settles O50: the bytes of the save area are fields in ascending order, each of which reads back from the whole; a restore reads them back
field by field, and what its region meets as it goes on leaves them. -/
theorem loadEvents : Obligations.LoadEvents := by
  unfold Obligations.LoadEvents
  refine ⟨fun s g => ?_, fun b l hk _ => ?_, fun g e l => ?_, fun g e m ho => ?_, fun s r hp => ?_⟩
  · have hb := roundUp_mod (bodyBytes g) 4096
    have he := sum_elemBlock_mod (savedElems g)
    have hle := le_roundUp (bodyBytes g) (m := 4096) (by decide)
    refine ⟨saveHead_field s g, fun k hk => saveHead_fault s g hk, saveHead_lt s g, rfl, ?_, ?_, ?_, ?_, rfl, rfl, rfl⟩
    · show (0x1000 + roundUp (bodyBytes g) 4096) % 4096 = 0
      omega
    · show (0x1000 + roundUp (bodyBytes g) 4096 + ((savedElems g).map elemBlock).sum) % 4096 = 0
      omega
    · show (0x1000 + roundUp (bodyBytes g) 4096 + ((savedElems g).map elemBlock).sum + 4096 * _) % 4096 = 0
      omega
    · exact Nat.add_le_add_left hle 0x1000
  · obtain ⟨hnum, hcopies, halloc⟩ := bodySection_shows l hk
    exact ⟨hnum, hcopies, halloc, fun k i hi => bodySection_inst l hk hi, bodySection_rest hk l⟩
  · refine ⟨elemSection_elem l (v := e.preds) (by simp [elemFields]) (by decide), elemSection_flags g e l,
      elemSection_elem l (v := e.eosFlags) (by simp [elemFields]) (by decide), fun k hk => elemSection_words g e l hk,
      fun k m hk hm => elemSection_set g e l hk hm, fun k h hk hh => elemSection_head g e l hk hh, fun k b hk hb => ?_, fun he => ⟨fun k hk => ?_, fun k hk => ?_⟩,
      elemSection_rest g e l⟩
    · have hf {off n v : Nat} (hq : (off, n, v) ∈ bankFields b) (hend : off + n ≤ 4160) := elemSection_bank (g := g) l hk hb hq hend
      exact ⟨hf (off := 0) (v := b.cells) (by simp [bankFields]) (by decide), hf (v := b.vr) (by simp [bankFields]) (by decide),
        hf (v := b.vc) (by simp [bankFields]) (by decide), hf (v := b.mask) (by simp [bankFields]) (by decide),
        (hf (v := b2n b.poison) (by simp [bankFields]) (by decide)).trans (b2n_mod _ 1), hf (v := b.fidx) (by simp [bankFields]) (by decide),
        hf (v := b.sctx) (by simp [bankFields]) (by decide)⟩
    · exact elemSection_layout g e l he hk
    · exact ⟨elemSection_nest g e l (off := 0) he hk (by decide) (by simp),
        (elemSection_nest g e l he hk (by decide) (by simp)).trans (b2n_mod _ 0)⟩
  · obtain ⟨hpos, hready⟩ := setBytes_marks g e ho
    refine ⟨setBytes_field (by simp [setFields]), hpos, hready, fun p hp h hh => ?_⟩
    have hb := setBytes_pos g e m hp
    obtain ⟨hmid, hplace⟩ := posBytes_some g e m p h
    rw [hh] at hb
    have hend := byteRange_part hb (j := 24) (m := 8) (by decide)
    have hlow := byteRange_part hb (j := 0) (m := 24) (by decide)
    exact ⟨hlow.trans hmid, (by rw [show 56 + 32 * p = 32 + 32 * p + 24 by omega]; exact hend.trans hplace)⟩
  · refine ⟨fun hd => ⟨fun va place hj => ⟨s, exec_loadWaits hj hd, rfl⟩, fun place area hj => ⟨s, exec_restore_waits hj hd, rfl⟩⟩,
      fun va place hj hd => ⟨fun q hq => loadEnds_passed hp hj hd hq, fun f hf => loadEnds_failed hp hj hd hf⟩, fun area hj => saveEnds hp hj,
      fun place area hj hd => ⟨fun f hf => restoreEnds_failed hp hj hd hf, ?_⟩⟩
    intro q h bo el ca ch hq hh ha sect h1 h2 h3 h4
    have hr := restoreComplete_restores hp hq hh ha h1 h2 h3 h4
    refine ⟨_, exec_restore hj hd, ?_⟩
    generalize restoreComplete s r place area = t at hr
    obtain ⟨htold, hhbm, clk, now, k, h5⟩ := hr
    generalize getRegion t r = x at k h5
    have hst : x.st = byteRange h 0x0A 1 := k.st
    have hbodyW := infuse_bodyW hq
    refine ⟨hst, k.load, restored_place k, restored_pour k, restored_launch k, restored_foot k, restored_origin k, htold, hhbm, restored_img k,
      restored_frontier k, restored_digest k, fun h => restored_stopped (h5 (hst ▸ h)), fun h => ?_, fun n hn => ?_, ⟨restored_descs k, fun n b hb => ?_⟩,
      fun c hc hl => restored_chan k hc hl⟩
    · obtain ⟨hpass, hheld⟩ := restoredRegion_unheld _ _ clk now (hst ▸ h)
      exact ⟨k.pass.trans hpass, fun e he a ha => hheld e (k.elems ▸ he) a ha⟩
    · have hb := restored_elem k hn
      rw [elemBlock_fun] at hb
      exact ⟨hb.pending, hb.preds, hb.flags, hb.eosFlags, hb.words, hb.banks, fun j hj slot hs => (hb.sets j hj slot hs).imp fun m hm =>
        ⟨hm.1, hm.2.slot, hm.2.tag, hm.2.orphan, hm.2.pos⟩, hb.heads, hb.layc⟩
    · have hback := restored_body k hbodyW hb
      rw [bodySize_fun] at hback
      refine ⟨hback.alloc, hback.length, fun j i hi => ?_⟩
      obtain ⟨hist, hold, hcounts⟩ := hback.insts j i hi
      exact ⟨hist, hold, hcounts, fun h1 ho m hm => ⟨_, restored_oldest k hb hi h1 ho hm, rfl, rfl, rfl, rfl, rfl⟩⟩
end
